-- ==== Sys2Proof/Word.lean ====
section
/-! DEFINITION. The words of the machine: bytes, 64-bit words, 512-bit register rows. -/

namespace Sys2Proof

/-- One byte of any memory (R80). -/
abbrev Byte := BitVec 8

/-- A 64-bit word: a scalar, a program address, an instruction word, a memory word (R61, R85, R108, R171). -/
abbrev Word := BitVec 64

/-- A row of the register store: 64 bytes read as one little-endian number (R61). -/
abbrev Row := BitVec 512

end Sys2Proof
end

