-- ==== Sys2Proof/Machine/Flags.lean ====
section
/-! DEFINITION. Numbers (R143 to R149, R158, R159): comparisons, IEEE formats, exact values, rounding, random bits. -/

namespace Sys2Proof.Machine

/-! ## Integers (R143, R179) -/

/-- An integer comparison: CC 0 to 5 (R179). -/
def intCmp (cc : Nat) (a b : Int) : Bool :=
  match cc with
  | 0 => a = b
  | 1 => a ≠ b
  | 2 => a < b
  | 3 => a ≤ b
  | 4 => b < a
  | _ => b ≤ a

/-- A number of `w` bits read as signed or as unsigned. -/
def readInt (w : Nat) (unsigned : Bool) (x : Nat) : Int := if unsigned then (x : Int) else (BitVec.ofNat w x).toInt

/-- An integer as a number of `w` bits, modulo 2^w (R143). -/
def wrapInt (w : Nat) (x : Int) : Nat := (BitVec.ofInt w x).toNat

/-- An integer clamped to the signed or unsigned range of `w` bits (R143). -/
def clampInt (w : Nat) (unsigned : Bool) (x : Int) : Int :=
  if unsigned then max 0 (min x (2 ^ w - 1)) else max (-(2 ^ (w - 1) : Int)) (min x (2 ^ (w - 1) - 1))

/-- Leading zeros of a number of `w` bits. -/
def clz (w x : Nat) : Nat := if x = 0 then w else w - 1 - x.log2

/-- Trailing zeros of a number of `w` bits: structural on `w`. -/
def ctz : Nat → Nat → Nat
  | 0, _ => 0
  | n + 1, x => if x % 2 = 1 then 0 else 1 + ctz n (x / 2)

/-- One bits of a number of `w` bits. -/
def popc : Nat → Nat → Nat
  | 0, _ => 0
  | n + 1, x => x % 2 + popc n (x / 2)

/-! ## Formats (R144) -/

/-- A binary format: exponent and fraction bits. -/
structure Fmt where
  eb : Nat
  fb : Nat
  deriving DecidableEq, Repr

/-- FP64. -/
def fp64 : Fmt := ⟨11, 52⟩
/-- FP32. -/
def fp32 : Fmt := ⟨8, 23⟩
/-- FP16. -/
def fp16 : Fmt := ⟨5, 10⟩
/-- BF16. -/
def bf16 : Fmt := ⟨8, 7⟩
/-- E8M10, the device's internal format. -/
def e8m10 : Fmt := ⟨8, 10⟩

/-- The format of TY 0, 1, 2 or 4 (R178). -/
def fmtOf (ty : Nat) : Fmt :=
  match ty with
  | 0 => fp32
  | 1 => fp16
  | 2 => bf16
  | _ => fp64

/-- Width in bits. -/
def Fmt.width (f : Fmt) : Nat := 1 + f.eb + f.fb

/-- Exponent bias. -/
def Fmt.bias (f : Fmt) : Nat := 2 ^ (f.eb - 1) - 1

/-- The exponent of the smallest subnormal's bit. -/
def Fmt.umin (f : Fmt) : Int := 1 - (f.bias : Int) - f.fb

/-- The bits of +Inf. -/
def Fmt.infBits (f : Fmt) : Nat := (2 ^ f.eb - 1) * 2 ^ f.fb

/-- The canonical NaN (R146). -/
def Fmt.nanBits (f : Fmt) : Nat := f.infBits + 2 ^ (f.fb - 1)

/-- A sign bit in its place. -/
def Fmt.signed (f : Fmt) (neg : Bool) (x : Nat) : Nat := (if neg then 2 ^ (f.eb + f.fb) else 0) + x

/-! ## Exact values -/

/-- An exact value: NaN, an infinity, or a signed dyadic m · 2^e; zeros keep their sign. -/
inductive FVal where
  | nan
  | inf (neg : Bool)
  | fin (neg : Bool) (m : Nat) (e : Int)
  deriving DecidableEq, Repr

/-- The value of an encoding (R144). -/
def fpVal (f : Fmt) (x : Nat) : FVal :=
  let neg := x / 2 ^ (f.eb + f.fb) % 2 = 1
  let ex := x / 2 ^ f.fb % 2 ^ f.eb
  let fr := x % 2 ^ f.fb
  if ex = 2 ^ f.eb - 1 then (if fr = 0 then .inf neg else .nan)
  else if ex = 0 then .fin neg fr f.umin
  else .fin neg (2 ^ f.fb + fr) (f.umin + ex - 1)

/-- The value is NaN. -/
def FVal.isNan : FVal → Bool
  | .nan => true
  | _ => false

/-- The value is an infinity. -/
def FVal.isInf : FVal → Bool
  | .inf _ => true
  | _ => false

/-- The sign bit; NaN has none. -/
def FVal.neg : FVal → Bool
  | .nan => false
  | .inf n => n
  | .fin n _ _ => n

/-- The value is a zero. -/
def FVal.isZero : FVal → Bool
  | .fin _ m _ => m = 0
  | _ => false

/-- The value with the other sign. -/
def FVal.negate : FVal → FVal
  | .nan => .nan
  | .inf n => .inf (!n)
  | .fin n m e => .fin (!n) m e

/-- The value without its sign. -/
def FVal.abs : FVal → FVal
  | .nan => .nan
  | .inf _ => .inf false
  | .fin _ m e => .fin false m e

/-- A signed integer at exponent `e` of a finite dyadic with exponent at least `e`. -/
def scaled (neg : Bool) (m : Nat) (e lo : Int) : Int :=
  let x : Int := (m : Int) * 2 ^ (e - lo).toNat
  if neg then -x else x

/-- The exact sum of two values; an exact zero of opposite signs is +0, or −0 when rounding down (R145). -/
def FVal.add (down : Bool) (x y : FVal) : FVal :=
  match x, y with
  | .nan, _ => .nan
  | _, .nan => .nan
  | .inf a, .inf b => if a = b then .inf a else .nan
  | .inf a, _ => .inf a
  | _, .inf b => .inf b
  | .fin a m e, .fin b n g =>
    if m = 0 ∧ n = 0 then (if a = b then .fin a 0 0 else .fin down 0 0)
    else
      let lo := min e g
      let t := scaled a m e lo + scaled b n g lo
      if t = 0 then .fin down 0 0 else .fin (decide (t < 0)) t.natAbs lo

/-- The exact product (R145). -/
def FVal.mul (x y : FVal) : FVal :=
  match x, y with
  | .nan, _ => .nan
  | _, .nan => .nan
  | .inf a, .inf b => .inf (a != b)
  | .inf a, .fin b n _ => if n = 0 then .nan else .inf (a != b)
  | .fin a m _, .inf b => if m = 0 then .nan else .inf (a != b)
  | .fin a m e, .fin b n g => .fin (a != b) (m * n) (e + g)

/-- A quotient that rounds as the exact one: enough bits, and a last bit that is 1 when a remainder is left. -/
def FVal.div (x y : FVal) : FVal :=
  match x, y with
  | .nan, _ => .nan
  | _, .nan => .nan
  | .inf _, .inf _ => .nan
  | .inf a, .fin b _ _ => .inf (a != b)
  | .fin a _ _, .inf b => .fin (a != b) 0 0
  | .fin a m e, .fin b n g =>
    if n = 0 then (if m = 0 then .nan else .inf (a != b))
    else if m = 0 then .fin (a != b) 0 0
    else
      let sh := n.log2 + 70
      let t := m * 2 ^ sh
      .fin (a != b) (2 * (t / n) + (if t % n = 0 then 0 else 1)) (e - g - sh - 1)

/-- A square root that rounds as the exact one (R233). -/
def FVal.sqrt (x : FVal) : FVal :=
  match x with
  | .nan => .nan
  | .inf a => if a then .nan else .inf false
  | .fin a m e =>
    if m = 0 then .fin a 0 0
    else if a then .nan
    else
      let odd := (e % 2 = 1)
      let m1 := if odd then 2 * m else m
      let e1 := if odd then e - 1 else e
      let t := m1 * 2 ^ 140
      let r := Nat.sqrt t
      .fin false (2 * r + (if r * r = t then 0 else 1)) (e1 / 2 - 71)

/-- Order of two values that are not NaN: less, equal (−0 equals +0), or greater. -/
def FVal.cmp (x y : FVal) : Ordering :=
  match x, y with
  | .inf a, .inf b => if a = b then .eq else if a then .lt else .gt
  | .inf a, _ => if a then .lt else .gt
  | _, .inf b => if b then .gt else .lt
  | .fin a m e, .fin b n g =>
    let lo := min e g
    compare (scaled a m e lo) (scaled b n g lo)
  | .nan, _ => .eq
  | _, .nan => .eq

/-- A floating-point comparison: CC 0 to 7 (R179). -/
def fpCmp (cc : Nat) (x y : FVal) : Bool :=
  let un := x.isNan || y.isNan
  match cc with
  | 0 => !un && (x.cmp y == .eq)
  | 1 => un || (x.cmp y != .eq)
  | 2 => !un && (x.cmp y == .lt)
  | 3 => !un && (x.cmp y != .gt)
  | 4 => !un && (x.cmp y == .gt)
  | 5 => !un && (x.cmp y != .lt)
  | 6 => un
  | _ => !un

/-- Minimum and maximum of two encodings as the index of the one taken: −0 lies below +0, a NaN yields to a number
(R234). None stands for the canonical NaN. -/
def fpPick (wantMax : Bool) (x y : FVal) : Option Bool :=
  match x.isNan, y.isNan with
  | true, true => none
  | true, false => some true
  | false, true => some false
  | false, false =>
    let less := match x.cmp y with
      | .lt => true
      | .gt => false
      | .eq => x.neg && !y.neg
    some (if wantMax then less else !less)

/-- FMIN and FMAX on encodings (R234). -/
def fpMinMax (f : Fmt) (wantMax : Bool) (x y : Nat) : Nat :=
  match fpPick wantMax (fpVal f x) (fpVal f y) with
  | none => f.nanBits
  | some true => y
  | some false => x

/-- FCLASS (R234). -/
def fpClass (f : Fmt) (x : Nat) : Nat :=
  let neg := x / 2 ^ (f.eb + f.fb) % 2 = 1
  let ex := x / 2 ^ f.fb % 2 ^ f.eb
  let fr := x % 2 ^ f.fb
  let bit := if ex = 2 ^ f.eb - 1 then
      (if fr = 0 then (if neg then 0 else 7) else if fr < 2 ^ (f.fb - 1) then 8 else 9)
    else if ex = 0 then (if fr = 0 then (if neg then 3 else 4) else if neg then 2 else 5)
    else if neg then 1 else 6
  2 ^ bit

/-! ## Rounding (R148, R159) -/

/-- The 24 random bits of element `idx` (R159). -/
def srMix (z : BitVec 64) : BitVec 64 :=
  let z := (z ^^^ (z >>> 30)) * 0xBF58476D1CE4E5B9
  let z := (z ^^^ (z >>> 27)) * 0x94D049BB133111EB
  z ^^^ (z >>> 31)

/-- SRBits (R159). -/
def srBits (seed idx : BitVec 64) : Nat := (srMix (seed + (idx + 1) * 0x9E3779B97F4A7C15) >>> 40).toNat

/-- The magnitude rounds away from zero: mode, sign, parity of the lower value, remainder `rem` of `2^r`, random bits. -/
def roundsUp (mode : Nat) (neg : Bool) (q rem r rnd : Nat) : Bool :=
  if rem = 0 then false
  else
    match mode with
    | 0 => decide (2 ^ r < 2 * rem) || (decide (2 * rem = 2 ^ r) && decide (q % 2 = 1))
    | 1 => false
    | 2 => !neg
    | 3 => neg
    | 4 => decide (2 ^ r ≤ 2 * rem)
    | _ => decide (rnd * 2 ^ r < rem * 2 ^ 24)

/-- The magnitude's bits of a rounded nonzero finite value: RoundTo without the sign (R148). -/
def roundMag (f : Fmt) (mode : Nat) (neg : Bool) (m : Nat) (e : Int) (rnd : Nat) : Nat :=
  let u := max (e + m.log2 - f.fb) f.umin
  let base := (u - f.umin).toNat * 2 ^ f.fb
  let x :=
    if u ≤ e then base + m * 2 ^ (e - u).toNat
    else
      let r := (u - e).toNat
      base + m / 2 ^ r + (if roundsUp mode neg (m / 2 ^ r) (m % 2 ^ r) r rnd then 1 else 0)
  if x < f.infBits then x
  else
    match mode with
    | 0 => f.infBits
    | 4 => f.infBits
    | 2 => if neg then f.infBits - 1 else f.infBits
    | 3 => if neg then f.infBits else f.infBits - 1
    | _ => f.infBits - 1

/-- RoundTo(fmt, x, mode) as an encoding (R148); `rnd` holds the random bits of mode 5. -/
def roundTo (f : Fmt) (mode : Nat) (x : FVal) (rnd : Nat := 0) : Nat :=
  match x with
  | .nan => f.nanBits
  | .inf n => f.signed n f.infBits
  | .fin n m e => f.signed n (if m = 0 then 0 else roundMag f mode n m e rnd)

/-- A finite value rounded to an integer (R147). -/
def roundInt (mode : Nat) (neg : Bool) (m : Nat) (e : Int) : Int :=
  let mag : Nat :=
    if 0 ≤ e then m * 2 ^ e.toNat
    else
      let r := (-e).toNat
      m / 2 ^ r + (if roundsUp mode neg (m / 2 ^ r) (m % 2 ^ r) r 0 then 1 else 0)
  if neg then -(mag : Int) else mag

/-- A value converted to an integer format: rounded, saturated, NaN to 0 (R147). -/
def fpToInt (w : Nat) (unsigned : Bool) (mode : Nat) (x : FVal) : Nat :=
  match x with
  | .nan => 0
  | .inf n => wrapInt w (clampInt w unsigned (if n then -(2 ^ 64 : Int) else 2 ^ 64))
  | .fin n m e =>
    -- beyond 2^70 every format saturates: the shift stays small
    let v : Int := if m ≠ 0 ∧ 70 < e + m.log2 then (if n then -(2 ^ 64 : Int) else 2 ^ 64) else roundInt mode n m e
    wrapInt w (clampInt w unsigned v)

/-- An integer as an exact value. -/
def intVal (x : Int) : FVal := .fin (decide (x < 0)) x.natAbs 0

/-- An exact value times 2^k. -/
def FVal.scale (x : FVal) (k : Int) : FVal :=
  match x with
  | .fin n m e => .fin n m (e + k)
  | y => y

end Sys2Proof.Machine
end

