-- ==== Sys2Proof/Syntax.lean ====
section
/-! DEFINITION. Syntax: one constructor for each row of the table of operations and events, and the data they carry. -/

namespace Sys2Proof

/-- The fields that every instruction word has beside its operands: the next-address selector NA with its qualifier
NQ and negation NN, and the execution predicate EQ (R171, R173, R174). -/
structure Hdr where
  na : BitVec 3
  nq : BitVec 3
  nn : BitVec 1
  eq : BitVec 3
  deriving DecidableEq, Repr

/-- An engine command word without its opcode (R185): the fields of its four words. -/
structure Ecw where
  ofl : BitVec 6
  irq : BitVec 1
  sf : BitVec 1
  sca : BitVec 8
  p0 : BitVec 8
  hc : BitVec 32
  link : BitVec 64
  scb : BitVec 8
  opd : BitVec 56
  p1 : BitVec 8
  dst : BitVec 56
  deriving DecidableEq, Repr

/-- A signed configuration table and the verdicts of the checks of boot (R381 to R383). The signature checks and the
digests are the outside's: nothing in the model computes them. -/
structure BootTable where
  /-- The bytes of the table as the boot flash holds them, from offset 0 (R383). -/
  image : List Byte
  /-- The bytes from FWOFF on. -/
  firmware : List Byte
  tableSigOk : Bool
  fwSigOk : Bool
  diesAgree : Bool
  deriving DecidableEq, Repr

/-- A Brirus flit (R378), with what its payload asks for when it is a remote-memory request. -/
structure Flit where
  cls : Nat
  seq : Nat
  ack : Nat
  fctx : Nat
  /-- The header's zero bits are zero and the CRC-64 matches. -/
  good : Bool
  addr : Word
  write : Bool
  data : Word
  bytes : BitVec 8
  /-- Its data is marked poisoned (R417). -/
  poison : Bool
  /-- An answer that is an unsupported-request error (R447). -/
  unsup : Bool
  deriving DecidableEq, Repr

/-- A translation held by a TLB (R94, R99): partition tag, page address and size, and its leaf. -/
structure TlbEntry where
  part : Nat
  va : Nat
  log : Nat
  leaf : Word
  deriving DecidableEq, Repr

/-- A hardware barrier group of a die (R31, R32, R292). -/
structure HwGroup where
  num : Nat
  part : Nat
  inst : Nat
  group : Nat
  refused : Bool
  deriving DecidableEq, Repr

/-- A loaded key slot (R385). -/
structure KeySlot where
  slot : Nat
  ctx : Nat
  fp : BitVec 256
  /-- The number of the key pair, counted from 1: no two pairs share one. -/
  key : Nat
  deriving DecidableEq, Repr

/-- Instruction words (R203 to R336), engine commands (R185, R186), and the events of the hardware, the firmware and the
outside. An event carries what the specification leaves to firmware or to the outside. -/
inductive Instr where
  /-- NOP, OP 0x000, class S (R204). -/
  | nop (h : Hdr)
  /-- TGT, OP 0x001, class S (R205). -/
  | tgt (h : Hdr) (t : BitVec 2) (imm : BitVec 28)
  /-- TGTS, OP 0x002, class S (R205). -/
  | tgts (h : Hdr) (t : BitVec 2) (a : BitVec 8)
  /-- LNK, OP 0x003, class S (R205). -/
  | lnk (h : Hdr)
  /-- LOOP, OP 0x004, class X (R206). -/
  | loop (h : Hdr) (q : BitVec 3)
  /-- LOOP_SET, OP 0x004, class X (R206). -/
  | loopSet (h : Hdr) (a : BitVec 8)
  /-- REPB, OP 0x005, class X (R207). -/
  | repb (h : Hdr) (a : BitVec 8) (stride mask : BitVec 4)
  /-- START, OP 0x006, class X (R208). -/
  | start (h : Hdr) (a : BitVec 8) (hn : BitVec 4)
  /-- JOIN, OP 0x007, class X (R210). -/
  | join (h : Hdr) (d b : BitVec 8) (wall : BitVec 1)
  /-- HKILL, OP 0x008, class X (R211). -/
  | hkill (h : Hdr) (a : BitVec 8)
  /-- IDS, OP 0x009, class S (R212). -/
  | ids (h : Hdr) (d : BitVec 8) (k : BitVec 2)
  /-- CLK, OP 0x00a, class S (R212). -/
  | clk (h : Hdr) (d : BitVec 8)
  /-- SLEEP, OP 0x00b, class X (R213). -/
  | sleep (h : Hdr) (d a b : BitVec 8) (wall : BitVec 1)
  /-- MARK, OP 0x00c, class S (R214). -/
  | mark (h : Hdr) (value : BitVec 20)
  /-- WIN, OP 0x020, class X (R216). -/
  | win (h : Hdr) (a : BitVec 8)
  /-- WINS, OP 0x021, class X (R216). -/
  | wins (h : Hdr) (delta : BitVec 11) (limit : BitVec 9)
  /-- WSWAP, OP 0x022, class X (R217). -/
  | wswap (h : Hdr) (a : BitVec 8)
  /-- WRD, OP 0x023, class X (R218). -/
  | wrd (h : Hdr) (d : BitVec 8)
  /-- WDRAIN, OP 0x024, class X (R219). -/
  | wdrain (h : Hdr) (d b : BitVec 8) (wall : BitVec 1)
  /-- TDEL, OP 0x025, class X (R220). -/
  | tdel (h : Hdr) (d a : BitVec 8)
  /-- TRET, OP 0x026, class X (R430). -/
  | tret (h : Hdr) (a : BitVec 8)
  /-- ENV, OP 0x027, class X (R222). -/
  | env (h : Hdr) (a : BitVec 8)
  /-- SNAGW, OP 0x028, class X (R223). -/
  | snagw (h : Hdr) (a b : BitVec 8)
  /-- SNAGX, OP 0x029, class X (R223). -/
  | snagx (h : Hdr) (a b : BitVec 8)
  /-- ADD, OP 0x040, class S (R226). -/
  | add (h : Hdr) (d a b : BitVec 8)
  /-- SUB, OP 0x041, class S (R226). -/
  | sub (h : Hdr) (d a b : BitVec 8)
  /-- ADDI, OP 0x042, class S (R226). -/
  | addi (h : Hdr) (d a : BitVec 8) (imm : BitVec 28)
  /-- MUL, OP 0x043, class S (R226). -/
  | mul (h : Hdr) (d a b : BitVec 8)
  /-- MULH, OP 0x044, class S (R226). -/
  | mulh (h : Hdr) (d a b : BitVec 8)
  /-- MULHU, OP 0x045, class S (R226). -/
  | mulhu (h : Hdr) (d a b : BitVec 8)
  /-- DIV, OP 0x046, class S (R227). -/
  | div (h : Hdr) (d a b : BitVec 8)
  /-- DIVU, OP 0x047, class S (R227). -/
  | divu (h : Hdr) (d a b : BitVec 8)
  /-- REM, OP 0x048, class S (R227). -/
  | rem (h : Hdr) (d a b : BitVec 8)
  /-- REMU, OP 0x049, class S (R227). -/
  | remu (h : Hdr) (d a b : BitVec 8)
  /-- AND, OP 0x04a, class S (R226). -/
  | and (h : Hdr) (d a b : BitVec 8)
  /-- OR, OP 0x04b, class S (R226). -/
  | or (h : Hdr) (d a b : BitVec 8)
  /-- XOR, OP 0x04c, class S (R226). -/
  | xor (h : Hdr) (d a b : BitVec 8)
  /-- ANDN, OP 0x04d, class S (R226). -/
  | andn (h : Hdr) (d a b : BitVec 8)
  /-- SHL, OP 0x04e, class S (R226). -/
  | shl (h : Hdr) (d a b : BitVec 8)
  /-- SHR, OP 0x04f, class S (R226). -/
  | shr (h : Hdr) (d a b : BitVec 8)
  /-- SRA, OP 0x050, class S (R226). -/
  | sra (h : Hdr) (d a b : BitVec 8)
  /-- ROT, OP 0x051, class S (R226). -/
  | rot (h : Hdr) (d a b : BitVec 8)
  /-- CLZ, OP 0x052, class S (R226). -/
  | clz (h : Hdr) (d a : BitVec 8)
  /-- CTZ, OP 0x053, class S (R226). -/
  | ctz (h : Hdr) (d a : BitVec 8)
  /-- POPC, OP 0x054, class S (R226). -/
  | popc (h : Hdr) (d a : BitVec 8)
  /-- MIN, OP 0x055, class S (R226). -/
  | min (h : Hdr) (d a b : BitVec 8)
  /-- MAX, OP 0x056, class S (R226). -/
  | max (h : Hdr) (d a b : BitVec 8)
  /-- MINU, OP 0x057, class S (R226). -/
  | minu (h : Hdr) (d a b : BitVec 8)
  /-- MAXU, OP 0x058, class S (R226). -/
  | maxu (h : Hdr) (d a b : BitVec 8)
  /-- SEL, OP 0x059, class S (R226). -/
  | sel (h : Hdr) (d a b : BitVec 8) (qc : BitVec 3)
  /-- SCMP, OP 0x05a, class S (R228). -/
  | scmp (h : Hdr) (q : BitVec 3) (a b : BitVec 8) (cc : BitVec 4) (u : BitVec 1)
  /-- SCMPS, OP 0x05b, class S (R228). -/
  | scmps (h : Hdr) (d a b : BitVec 8) (cc : BitVec 4) (u : BitVec 1)
  /-- LI, OP 0x05c, class S (R226). -/
  | li (h : Hdr) (d : BitVec 8) (imm : BitVec 28)
  /-- LIH, OP 0x05d, class S (R230). -/
  | lih (h : Hdr) (d : BitVec 8) (imm36 : BitVec 36)
  /-- AGEN, OP 0x05e, class S (R231). -/
  | agen (h : Hdr) (d a b : BitVec 8) (sh : BitVec 3) (disp : BitVec 17)
  /-- BFX, OP 0x05f, class S (R229). -/
  | bfx (h : Hdr) (d a : BitVec 8) (pos : BitVec 6) (len : BitVec 7)
  /-- BFI, OP 0x060, class S (R229). -/
  | bfi (h : Hdr) (d a : BitVec 8) (pos : BitVec 6) (len : BitVec 7)
  /-- SEXT, OP 0x061, class S (R229). -/
  | sext (h : Hdr) (d a : BitVec 8) (n : BitVec 7)
  /-- ZEXT, OP 0x062, class S (R229). -/
  | zext (h : Hdr) (d a : BitVec 8) (n : BitVec 7)
  /-- MOV, OP 0x063, class S (R226). -/
  | mov (h : Hdr) (d a : BitVec 8)
  /-- FADD, OP 0x080, class S (R233). -/
  | fadd (h : Hdr) (d a b : BitVec 8) (ty rm : BitVec 3)
  /-- FSUB, OP 0x081, class S (R233). -/
  | fsub (h : Hdr) (d a b : BitVec 8) (ty rm : BitVec 3)
  /-- FMUL, OP 0x082, class S (R233). -/
  | fmul (h : Hdr) (d a b : BitVec 8) (ty rm : BitVec 3)
  /-- FFMA, OP 0x083, class S (R233). -/
  | ffma (h : Hdr) (d a b c : BitVec 8) (ty rm : BitVec 3)
  /-- FDIV, OP 0x084, class S (R233). -/
  | fdiv (h : Hdr) (d a b : BitVec 8) (ty rm : BitVec 3)
  /-- FSQRT, OP 0x085, class S (R233). -/
  | fsqrt (h : Hdr) (d a : BitVec 8) (ty rm : BitVec 3)
  /-- FMIN, OP 0x086, class S (R234). -/
  | fmin (h : Hdr) (d a b : BitVec 8) (ty : BitVec 3)
  /-- FMAX, OP 0x087, class S (R234). -/
  | fmax (h : Hdr) (d a b : BitVec 8) (ty : BitVec 3)
  /-- FCMP, OP 0x088, class S (R233). -/
  | fcmp (h : Hdr) (q : BitVec 3) (a b : BitVec 8) (ty : BitVec 3) (cc : BitVec 4)
  /-- FCLASS, OP 0x089, class S (R234). -/
  | fclass (h : Hdr) (d a : BitVec 8) (ty : BitVec 3)
  /-- FCVT, OP 0x08a, class S (R235). -/
  | fcvt (h : Hdr) (d a : BitVec 8) (ty rm : BitVec 3) (fl : BitVec 2)
  /-- FCVTI, OP 0x08b, class S (R235). -/
  | fcvti (h : Hdr) (d a : BitVec 8) (ty rm : BitVec 3) (fl : BitVec 2)
  /-- VADD, OP 0x0c0, class V (R241). -/
  | vadd (h : Hdr) (d a b : BitVec 8) (ty : BitVec 3) (m : BitVec 12)
  /-- VSUB, OP 0x0c1, class V (R241). -/
  | vsub (h : Hdr) (d a b : BitVec 8) (ty : BitVec 3) (m : BitVec 12)
  /-- VMUL, OP 0x0c2, class V (R241). -/
  | vmul (h : Hdr) (d a b : BitVec 8) (ty : BitVec 3) (m : BitVec 12)
  /-- VMULH, OP 0x0c3, class V (R241). -/
  | vmulh (h : Hdr) (d a b : BitVec 8) (ty : BitVec 3) (u : BitVec 1) (m : BitVec 12)
  /-- VMAD, OP 0x0c4, class V (R241). -/
  | vmad (h : Hdr) (d a b c : BitVec 8) (ty : BitVec 3)
  /-- VAND, OP 0x0c5, class V (R241). -/
  | vand (h : Hdr) (d a b : BitVec 8) (ty : BitVec 3) (m : BitVec 12)
  /-- VOR, OP 0x0c6, class V (R241). -/
  | vor (h : Hdr) (d a b : BitVec 8) (ty : BitVec 3) (m : BitVec 12)
  /-- VXOR, OP 0x0c7, class V (R241). -/
  | vxor (h : Hdr) (d a b : BitVec 8) (ty : BitVec 3) (m : BitVec 12)
  /-- VSHL, OP 0x0c8, class V (R241). -/
  | vshl (h : Hdr) (d a b : BitVec 8) (ty : BitVec 3) (m : BitVec 12)
  /-- VSHR, OP 0x0c9, class V (R241). -/
  | vshr (h : Hdr) (d a b : BitVec 8) (ty : BitVec 3) (m : BitVec 12)
  /-- VSRA, OP 0x0ca, class V (R241). -/
  | vsra (h : Hdr) (d a b : BitVec 8) (ty : BitVec 3) (m : BitVec 12)
  /-- VMIN, OP 0x0cb, class V (R241). -/
  | vmin (h : Hdr) (d a b : BitVec 8) (ty : BitVec 3) (u : BitVec 1) (m : BitVec 12)
  /-- VMAX, OP 0x0cc, class V (R241). -/
  | vmax (h : Hdr) (d a b : BitVec 8) (ty : BitVec 3) (u : BitVec 1) (m : BitVec 12)
  /-- VABS, OP 0x0cd, class V (R241). -/
  | vabs (h : Hdr) (d a : BitVec 8) (ty : BitVec 3) (m : BitVec 12)
  /-- VCMP, OP 0x0ce, class V (R241). -/
  | vcmp (h : Hdr) (q : BitVec 3) (a b : BitVec 8) (ty : BitVec 3) (cc : BitVec 4) (u : BitVec 1) (m : BitVec 12)
  /-- VSEL, OP 0x0cf, class V (R241). -/
  | vsel (h : Hdr) (d a b : BitVec 8) (qc ty : BitVec 3)
  /-- VADDS, OP 0x0d0, class V (R241). -/
  | vadds (h : Hdr) (d a b : BitVec 8) (ty : BitVec 3) (u : BitVec 1) (m : BitVec 12)
  /-- VSUBS, OP 0x0d1, class V (R241). -/
  | vsubs (h : Hdr) (d a b : BitVec 8) (ty : BitVec 3) (u : BitVec 1) (m : BitVec 12)
  /-- VDOT4, OP 0x0d2, class V (R241). -/
  | vdot4 (h : Hdr) (d a b c : BitVec 8) (fl : BitVec 2)
  /-- VPOPC, OP 0x0d3, class V (R241). -/
  | vpopc (h : Hdr) (d a : BitVec 8) (ty : BitVec 3) (m : BitVec 12)
  /-- VCLZ, OP 0x0d4, class V (R241). -/
  | vclz (h : Hdr) (d a : BitVec 8) (ty : BitVec 3) (m : BitVec 12)
  /-- VMOV, OP 0x0d5, class V (R241). -/
  | vmov (h : Hdr) (d a : BitVec 8) (ty : BitVec 3) (m : BitVec 12)
  /-- VFADD, OP 0x100, class V (R242). -/
  | vfadd (h : Hdr) (d a b : BitVec 8) (ty rm : BitVec 3) (m : BitVec 12)
  /-- VFSUB, OP 0x101, class V (R242). -/
  | vfsub (h : Hdr) (d a b : BitVec 8) (ty rm : BitVec 3) (m : BitVec 12)
  /-- VFMUL, OP 0x102, class V (R242). -/
  | vfmul (h : Hdr) (d a b : BitVec 8) (ty rm : BitVec 3) (m : BitVec 12)
  /-- VFMA, OP 0x103, class V (R242). -/
  | vfma (h : Hdr) (d a b c : BitVec 8) (ty rm : BitVec 3)
  /-- VFMS, OP 0x104, class V (R242). -/
  | vfms (h : Hdr) (d a b c : BitVec 8) (ty rm : BitVec 3)
  /-- VFNMA, OP 0x105, class V (R242). -/
  | vfnma (h : Hdr) (d a b c : BitVec 8) (ty rm : BitVec 3)
  /-- VFDIV, OP 0x106, class V (R242). -/
  | vfdiv (h : Hdr) (d a b : BitVec 8) (ty rm : BitVec 3) (m : BitVec 12)
  /-- VFSQRT, OP 0x107, class V (R242). -/
  | vfsqrt (h : Hdr) (d a : BitVec 8) (ty rm : BitVec 3) (m : BitVec 12)
  /-- VFREC, OP 0x108, class V (R243). -/
  | vfrec (h : Hdr) (d a : BitVec 8) (rm : BitVec 3) (m : BitVec 12)
  /-- VFRSQ, OP 0x109, class V (R243). -/
  | vfrsq (h : Hdr) (d a : BitVec 8) (rm : BitVec 3) (m : BitVec 12)
  /-- VFEXP2, OP 0x10a, class V (R243). -/
  | vfexp2 (h : Hdr) (d a : BitVec 8) (rm : BitVec 3) (m : BitVec 12)
  /-- VFLOG2, OP 0x10b, class V (R243). -/
  | vflog2 (h : Hdr) (d a : BitVec 8) (rm : BitVec 3) (m : BitVec 12)
  /-- VFMIN, OP 0x10c, class V (R242). -/
  | vfmin (h : Hdr) (d a b : BitVec 8) (ty : BitVec 3) (m : BitVec 12)
  /-- VFMAX, OP 0x10d, class V (R242). -/
  | vfmax (h : Hdr) (d a b : BitVec 8) (ty : BitVec 3) (m : BitVec 12)
  /-- VFCMP, OP 0x10e, class V (R242). -/
  | vfcmp (h : Hdr) (q : BitVec 3) (a b : BitVec 8) (ty : BitVec 3) (cc : BitVec 4) (m : BitVec 12)
  /-- VFCLASS, OP 0x10f, class V (R242). -/
  | vfclass (h : Hdr) (d a : BitVec 8) (ty : BitVec 3) (m : BitVec 12)
  /-- VFCVT, OP 0x110, class V (R244). -/
  | vfcvt (h : Hdr) (d a : BitVec 8) (ty rm : BitVec 3) (fl : BitVec 2) (m : BitVec 12)
  /-- VFNARROW, OP 0x111, class V (R245). -/
  | vfnarrow (h : Hdr) (d a b c : BitVec 8) (ty rm : BitVec 3) (u : BitVec 1)
  /-- VFWIDEN, OP 0x112, class V (R245). -/
  | vfwiden (h : Hdr) (d a b : BitVec 8) (ty : BitVec 3) (fl : BitVec 2) (m : BitVec 12)
  /-- VFRED, OP 0x113, class V (R246). -/
  | vfred (h : Hdr) (d a : BitVec 8) (ty rm : BitVec 3) (fl : BitVec 2) (m : BitVec 12)
  /-- VFAMAX, OP 0x114, class V (R247). -/
  | vfamax (h : Hdr) (d a : BitVec 8) (ty : BitVec 3) (m : BitVec 12)
  /-- VPERM, OP 0x140, class V (R248). -/
  | vperm (h : Hdr) (d a b : BitVec 8) (ty : BitVec 3) (m : BitVec 12)
  /-- VROT, OP 0x141, class V (R248). -/
  | vrot (h : Hdr) (d a b : BitVec 8) (ty : BitVec 3) (m : BitVec 12)
  /-- VBFLY, OP 0x142, class V (R248). -/
  | vbfly (h : Hdr) (d a b : BitVec 8) (ty : BitVec 3) (m : BitVec 12)
  /-- VBCST, OP 0x143, class V (R248). -/
  | vbcst (h : Hdr) (d a b : BitVec 8) (ty : BitVec 3) (m : BitVec 12)
  /-- VCOMP, OP 0x144, class V (R248). -/
  | vcomp (h : Hdr) (d a : BitVec 8) (qb ty : BitVec 3) (m : BitVec 12)
  /-- VXPND, OP 0x145, class V (R248). -/
  | vxpnd (h : Hdr) (d a : BitVec 8) (qb ty : BitVec 3) (m : BitVec 12)
  /-- VSPLAT, OP 0x146, class V (R248). -/
  | vsplat (h : Hdr) (d a : BitVec 8) (ty : BitVec 3)
  /-- VEXT, OP 0x147, class V (R248). -/
  | vext (h : Hdr) (d a b : BitVec 8) (ty : BitVec 3) (u : BitVec 1) (m : BitVec 12)
  /-- VINS, OP 0x148, class V (R248). -/
  | vins (h : Hdr) (d a b : BitVec 8) (ty : BitVec 3)
  /-- QAND, OP 0x149, class V (R249). -/
  | qand (h : Hdr) (q qa qb : BitVec 3)
  /-- QOR, OP 0x14a, class V (R249). -/
  | qor (h : Hdr) (q qa qb : BitVec 3)
  /-- QXOR, OP 0x14b, class V (R249). -/
  | qxor (h : Hdr) (q qa qb : BitVec 3)
  /-- QNOT, OP 0x14c, class V (R249). -/
  | qnot (h : Hdr) (q qa : BitVec 3)
  /-- QPOP, OP 0x14d, class V (R249). -/
  | qpop (h : Hdr) (d : BitVec 8) (qa : BitVec 3)
  /-- QFIRST, OP 0x14e, class V (R249). -/
  | qfirst (h : Hdr) (d : BitVec 8) (qa : BitVec 3)
  /-- QMOV, OP 0x14f, class V (R249). -/
  | qmov (h : Hdr) (q : BitVec 3) (a : BitVec 8)
  /-- QMOV_X, OP 0x14f, class V (R249). -/
  | qmovX (h : Hdr) (d : BitVec 8) (qa : BitVec 3)
  /-- GANY, OP 0x150, class V (R250). -/
  | gany (h : Hdr) (q qa : BitVec 3) (u : BitVec 1)
  /-- GALL, OP 0x151, class V (R250). -/
  | gall (h : Hdr) (q qa : BitVec 3) (u : BitVec 1)
  /-- GBCAST, OP 0x152, class V (R250). -/
  | gbcast (h : Hdr) (d a : BitVec 8)
  /-- GLANE, OP 0x153, class V (R250). -/
  | glane (h : Hdr) (d : BitVec 8)
  /-- DTLD, OP 0x160, class V (R256). -/
  | dtld (h : Hdr) (a : BitVec 8)
  /-- DTRD, OP 0x161, class V (R257). -/
  | dtrd (h : Hdr) (d a : BitVec 8)
  /-- DTDEC, OP 0x162, class V (R258). -/
  | dtdec (h : Hdr) (d a b : BitVec 8) (ty rm : BitVec 3) (u : BitVec 1) (m : BitVec 12)
  /-- DTENC, OP 0x163, class V (R245). -/
  | dtenc (h : Hdr) (d a b c : BitVec 8) (ty rm : BitVec 3) (fl : BitVec 2)
  /-- MXQ, OP 0x164, class V (R259). -/
  | mxq (h : Hdr) (d a b c : BitVec 8) (ty rm : BitVec 3)
  /-- MXQ_MEM, OP 0x164, class V (R260). -/
  | mxqMem (h : Hdr) (d a b c : BitVec 8) (ty rm : BitVec 3)
  /-- MXDQ, OP 0x165, class V (R261). -/
  | mxdq (h : Hdr) (d a b : BitVec 8) (ty rm : BitVec 3) (u : BitVec 1) (m : BitVec 12)
  /-- UFCNT, OP 0x166, class V (R262). -/
  | ufcnt (h : Hdr) (d : BitVec 8)
  /-- SCSEL, OP 0x167, class V (R263). -/
  | scsel (h : Hdr) (d a b c : BitVec 8) (ty : BitVec 3)
  /-- LD, OP 0x180, class M (R269). -/
  | ld (h : Hdr) (d a : BitVec 8) (disp : BitVec 20) (scope : BitVec 3) (ord : BitVec 2) (sz : BitVec 3)
  /-- ST, OP 0x181, class M (R269). -/
  | st (h : Hdr) (d a : BitVec 8) (disp : BitVec 20) (scope : BitVec 3) (ord : BitVec 2) (sz : BitVec 3)
  /-- LDV, OP 0x182, class M (R270). -/
  | ldv (h : Hdr) (d a : BitVec 8) (disp : BitVec 20) (scope : BitVec 3) (ord : BitVec 2)
  /-- STV, OP 0x183, class M (R270). -/
  | stv (h : Hdr) (d a : BitVec 8) (disp : BitVec 20) (scope : BitVec 3) (ord : BitVec 2)
  /-- LDVX, OP 0x184, class M (R271). -/
  | ldvx (h : Hdr) (d a b : BitVec 8) (scope : BitVec 3) (ord : BitVec 2) (sz : BitVec 3) (m : BitVec 12)
  /-- STVX, OP 0x185, class M (R271). -/
  | stvx (h : Hdr) (d a b : BitVec 8) (scope : BitVec 3) (ord : BitVec 2) (sz : BitVec 3) (m : BitVec 12)
  /-- LDS, OP 0x186, class M (R272). -/
  | lds (h : Hdr) (d a b : BitVec 8) (scope sz : BitVec 3) (wall : BitVec 1)
  /-- STF, OP 0x187, class M (R273). -/
  | stf (h : Hdr) (d a : BitVec 8) (disp : BitVec 20) (scope sz : BitVec 3)
  /-- FECLR, OP 0x188, class M (R273). -/
  | feclr (h : Hdr) (a : BitVec 8) (disp : BitVec 20) (scope : BitVec 3) (ord : BitVec 2)
  /-- FERD, OP 0x189, class M (R274). -/
  | ferd (h : Hdr) (d a : BitVec 8) (disp : BitVec 20) (scope : BitVec 3) (ord : BitVec 2)
  /-- AADD, OP 0x1c0, class M (R275). -/
  | aadd (h : Hdr) (d a b : BitVec 8) (scope : BitVec 3) (ord : BitVec 2) (sz : BitVec 3)
  /-- AAND, OP 0x1c1, class M (R275). -/
  | aand (h : Hdr) (d a b : BitVec 8) (scope : BitVec 3) (ord : BitVec 2) (sz : BitVec 3)
  /-- AOR, OP 0x1c2, class M (R275). -/
  | aor (h : Hdr) (d a b : BitVec 8) (scope : BitVec 3) (ord : BitVec 2) (sz : BitVec 3)
  /-- AXOR, OP 0x1c3, class M (R275). -/
  | axor (h : Hdr) (d a b : BitVec 8) (scope : BitVec 3) (ord : BitVec 2) (sz : BitVec 3)
  /-- AMIN, OP 0x1c4, class M (R275). -/
  | amin (h : Hdr) (d a b : BitVec 8) (scope : BitVec 3) (ord : BitVec 2) (sz : BitVec 3)
  /-- AMAX, OP 0x1c5, class M (R275). -/
  | amax (h : Hdr) (d a b : BitVec 8) (scope : BitVec 3) (ord : BitVec 2) (sz : BitVec 3)
  /-- AMINU, OP 0x1c6, class M (R275). -/
  | aminu (h : Hdr) (d a b : BitVec 8) (scope : BitVec 3) (ord : BitVec 2) (sz : BitVec 3)
  /-- AMAXU, OP 0x1c7, class M (R275). -/
  | amaxu (h : Hdr) (d a b : BitVec 8) (scope : BitVec 3) (ord : BitVec 2) (sz : BitVec 3)
  /-- AXCHG, OP 0x1c8, class M (R275). -/
  | axchg (h : Hdr) (d a b : BitVec 8) (scope : BitVec 3) (ord : BitVec 2) (sz : BitVec 3)
  /-- ACAS, OP 0x1c9, class M (R275). -/
  | acas (h : Hdr) (d a b c : BitVec 8) (scope : BitVec 3) (ord : BitVec 2) (sz : BitVec 3)
  /-- AFADD, OP 0x1ca, class M (R275). -/
  | afadd (h : Hdr) (d a b : BitVec 8) (scope : BitVec 3) (ord : BitVec 2) (sz : BitVec 3)
  /-- RADD, OP 0x1d0, class M (R276). -/
  | radd (h : Hdr) (d a : BitVec 8) (disp : BitVec 20) (scope : BitVec 3) (ord : BitVec 2) (sz : BitVec 3)
  /-- RAND, OP 0x1d1, class M (R276). -/
  | rand (h : Hdr) (d a : BitVec 8) (disp : BitVec 20) (scope : BitVec 3) (ord : BitVec 2) (sz : BitVec 3)
  /-- RIOR, OP 0x1d2, class M (R276). -/
  | rior (h : Hdr) (d a : BitVec 8) (disp : BitVec 20) (scope : BitVec 3) (ord : BitVec 2) (sz : BitVec 3)
  /-- RXOR, OP 0x1d3, class M (R276). -/
  | rxor (h : Hdr) (d a : BitVec 8) (disp : BitVec 20) (scope : BitVec 3) (ord : BitVec 2) (sz : BitVec 3)
  /-- RMIN, OP 0x1d4, class M (R276). -/
  | rmin (h : Hdr) (d a : BitVec 8) (disp : BitVec 20) (scope : BitVec 3) (ord : BitVec 2) (sz : BitVec 3)
  /-- RMAX, OP 0x1d5, class M (R276). -/
  | rmax (h : Hdr) (d a : BitVec 8) (disp : BitVec 20) (scope : BitVec 3) (ord : BitVec 2) (sz : BitVec 3)
  /-- RFADD, OP 0x1d6, class M (R276). -/
  | rfadd (h : Hdr) (d a : BitVec 8) (disp : BitVec 20) (scope : BitVec 3) (ord : BitVec 2) (sz : BitVec 3)
  /-- FENCE, OP 0x1e0, class X (R126). -/
  | fence (h : Hdr) (d b classes : BitVec 8) (scope : BitVec 3) (wall : BitVec 1)
  /-- BARR, OP 0x1e1, class X (R287). -/
  | barr (h : Hdr) (d : BitVec 8) (g : BitVec 2)
  /-- BWAIT, OP 0x1e2, class X (R288). -/
  | bwait (h : Hdr) (d : BitVec 8) (g : BitVec 2) (b : BitVec 8) (wall : BitVec 1)
  /-- BWD, OP 0x1e3, class X (R289). -/
  | bwd (h : Hdr) (d : BitVec 8) (g : BitVec 2)
  /-- BSTAT, OP 0x1e4, class X (R290). -/
  | bstat (h : Hdr) (d : BitVec 8) (g : BitVec 2)
  /-- SEND, OP 0x1e5, class X (R293). -/
  | send (h : Hdr) (a b : BitVec 8) (scope : BitVec 3) (m : BitVec 12)
  /-- RECV, OP 0x1e6, class X (R295). -/
  | recv (h : Hdr) (d a b : BitVec 8) (wall : BitVec 1)
  /-- QSTAT, OP 0x1e7, class X (R296). -/
  | qstat (h : Hdr) (d : BitVec 8)
  /-- WAITSEQ, OP 0x1e8, class X (R297). -/
  | waitseq (h : Hdr) (d a b : BitVec 8) (wall : BitVec 1)
  /-- XPLAN, OP 0x1e9, class X (R298). -/
  | xplan (h : Hdr) (a : BitVec 8)
  /-- SSTEP, OP 0x1ea, class X (R299). -/
  | sstep (h : Hdr) (a b : BitVec 8) (u wall : BitVec 1)
  /-- BCFG, OP 0x1eb, class X (R291). -/
  | bcfg (h : Hdr) (d : BitVec 8) (g : BitVec 2) (b : BitVec 8) (u : BitVec 1)
  /-- APPEND, OP 0x200, class X (R306). -/
  | append (h : Hdr) (d a b : BitVec 8) (u : BitVec 1)
  /-- CHAIN, OP 0x201, class X (R305). -/
  | chain (h : Hdr) (d a : BitVec 8)
  /-- CHAIN_UNBIND, OP 0x201, class X (R305). -/
  | chainUnbind (h : Hdr) (d a : BitVec 8)
  /-- SEQRD, OP 0x202, class X (R308). -/
  | seqrd (h : Hdr) (d a : BitVec 8) (k : BitVec 2)
  /-- CLAIM, OP 0x203, class X (R314). -/
  | claim (h : Hdr) (d : BitVec 8) (n : BitVec 7)
  /-- RELS, OP 0x204, class X (R317). -/
  | rels (h : Hdr) (a : BitVec 8)
  /-- TSHAPE, OP 0x205, class X (R315). -/
  | tshape (h : Hdr) (a b : BitVec 8)
  /-- TROW, OP 0x206, class X (R316). -/
  | trow (h : Hdr) (d a b : BitVec 8)
  /-- TCOL, OP 0x207, class X (R316). -/
  | tcol (h : Hdr) (d a b : BitVec 8)
  /-- TWROW, OP 0x208, class X (R316). -/
  | twrow (h : Hdr) (a b c : BitVec 8)
  /-- TWCOL, OP 0x209, class X (R316). -/
  | twcol (h : Hdr) (a b c : BitVec 8)
  /-- WRALLOC, OP 0x20a, class X (R319). -/
  | wralloc (h : Hdr) (d a : BitVec 8)
  /-- WRPIN, OP 0x20b, class X (R322). -/
  | wrpin (h : Hdr) (a : BitVec 8)
  /-- WRUNPIN, OP 0x20c, class X (R322). -/
  | wrunpin (h : Hdr) (a : BitVec 8)
  /-- WRREVOKE, OP 0x20d, class X (R322). -/
  | wrrevoke (h : Hdr) (a : BitVec 8)
  /-- WRQUERY, OP 0x20e, class X (R322). -/
  | wrquery (h : Hdr) (d a : BitVec 8)
  /-- LACLR, OP 0x20f, class X (R328). -/
  | laclr (h : Hdr) (a : BitVec 8)
  /-- LAADD, OP 0x210, class X (R167). -/
  | laadd (h : Hdr) (a b : BitVec 8) (u : BitVec 1)
  /-- LADOT, OP 0x211, class X (R167). -/
  | ladot (h : Hdr) (a b c : BitVec 8)
  /-- LARND, OP 0x212, class X (R169). -/
  | larnd (h : Hdr) (d a : BitVec 8) (ty rm : BitVec 3)
  /-- LAMRG, OP 0x213, class X (R168). -/
  | lamrg (h : Hdr) (a b : BitVec 8)
  /-- LAFLG, OP 0x214, class X (R328). -/
  | laflg (h : Hdr) (d a : BitVec 8)
  /-- LAFLG_CLR, OP 0x214, class X (R328). -/
  | laflgClr (h : Hdr) (d a : BitVec 8)
  /-- FUSE, OP 0x240, class X (R252). -/
  | fuse (h : Hdr) (d : BitVec 8) (gs : BitVec 4)
  /-- SPLIT, OP 0x241, class X (R253). -/
  | split (h : Hdr) (t : BitVec 2)
  /-- MIGPT, OP 0x242, class X (R329). -/
  | migpt (h : Hdr) (d : BitVec 8)
  /-- LCID, OP 0x243, class X (R254). -/
  | lcid (h : Hdr) (d : BitVec 8) (k : BitVec 2)
  /-- CSRR, OP 0x300, class X (R331). -/
  | csrr (h : Hdr) (d : BitVec 8) (csr : BitVec 16)
  /-- CSRW, OP 0x301, class X (R331). -/
  | csrw (h : Hdr) (a : BitVec 8) (csr : BitVec 16)
  /-- CSRX, OP 0x302, class X (R331). -/
  | csrx (h : Hdr) (d a : BitVec 8) (csr : BitVec 16)
  /-- TLBINV, OP 0x303, class X (R333). -/
  | tlbinv (h : Hdr) (a b : BitVec 8)
  /-- TLBINV_ALL, OP 0x303, class X (R333). -/
  | tlbinvAll (h : Hdr) (a b : BitVec 8)
  /-- TLBINV_ALL_P, OP 0x303, class X (R333). -/
  | tlbinvAllP (h : Hdr) (a b : BitVec 8)
  /-- HALT, OP 0x304, class X (R334). -/
  | halt (h : Hdr)
  /-- KEYZ, OP 0x305, class X (R386). -/
  | keyz (h : Hdr) (d a : BitVec 8)
  /-- SKIM, OP 0x306, class X (R334). -/
  | skim (h : Hdr) (d a : BitVec 8)
  /-- ATTEST, OP 0x307, class X (R387). -/
  | attest (h : Hdr) (d a b : BitVec 8)
  /-- TKRD, OP 0x308, class X (R335). -/
  | tkrd (h : Hdr) (d : BitVec 8)
  /-- TKGIVE, OP 0x309, class X (R335). -/
  | tkgive (h : Hdr) (d a b : BitVec 8)
  /-- QUAR, OP 0x30a, class X (R336). -/
  | quar (h : Hdr) (d a : BitVec 8)
  /-- MCREAD, OP 0x30b, class X (R336). -/
  | mcread (h : Hdr) (d a : BitVec 8)
  /-- PSWITCH, OP 0x30c, class X (R336). -/
  | pswitch (h : Hdr) (d a b : BitVec 8)
  /-- FBCTL, OP 0x30d, class X (R368). -/
  | fbctl (h : Hdr) (d a : BitVec 8)
  /-- CTXLD, OP 0x30e, class X (R336). -/
  | ctxld (h : Hdr) (d a : BitVec 8)
  /-- MMT8T8, EOP 0x01 (R324). -/
  | mmt8t8 (e : Ecw)
  /-- MMST8T8, EOP 0x11 (R165). -/
  | mmst8t8 (e : Ecw)
  /-- MMT8BF, EOP 0x02 (R324). -/
  | mmt8bf (e : Ecw)
  /-- MMST8BF, EOP 0x12 (R165). -/
  | mmst8bf (e : Ecw)
  /-- MMBFBF, EOP 0x03 (R324). -/
  | mmbfbf (e : Ecw)
  /-- MMSBFBF, EOP 0x13 (R165). -/
  | mmsbfbf (e : Ecw)
  /-- MMF16F16, EOP 0x04 (R324). -/
  | mmf16f16 (e : Ecw)
  /-- MMSF16F16, EOP 0x14 (R165). -/
  | mmsf16f16 (e : Ecw)
  /-- MMI8I8, EOP 0x05 (R166). -/
  | mmi8i8 (e : Ecw)
  /-- MMSI8I8, EOP 0x15 (R166). -/
  | mmsi8i8 (e : Ecw)
  /-- MMT4T8, EOP 0x06 (R324). -/
  | mmt4t8 (e : Ecw)
  /-- MMST4T8, EOP 0x16 (R165). -/
  | mmst4t8 (e : Ecw)
  /-- MMT4T4, EOP 0x07 (R324). -/
  | mmt4t4 (e : Ecw)
  /-- MMST4T4, EOP 0x17 (R165). -/
  | mmst4t4 (e : Ecw)
  /-- MMX8X8, EOP 0x08 (R163). -/
  | mmx8x8 (e : Ecw)
  /-- MMSX8X8, EOP 0x18 (R165). -/
  | mmsx8x8 (e : Ecw)
  /-- MMX4X8, EOP 0x09 (R163). -/
  | mmx4x8 (e : Ecw)
  /-- MMSX4X8, EOP 0x19 (R165). -/
  | mmsx4x8 (e : Ecw)
  /-- MMX4X4, EOP 0x0a (R163). -/
  | mmx4x4 (e : Ecw)
  /-- MMSX4X4, EOP 0x1a (R165). -/
  | mmsx4x4 (e : Ecw)
  /-- WLOAD, EOP 0x20 (R323). -/
  | wload (e : Ecw)
  /-- MXSIG, EOP 0x21 (R325). -/
  | mxsig (e : Ecw)
  /-- CPY, EOP 0x40 (R312). -/
  | cpy (e : Ecw)
  /-- CPYS, EOP 0x41 (R312). -/
  | cpys (e : Ecw)
  /-- CPYG, EOP 0x42 (R312). -/
  | cpyg (e : Ecw)
  /-- CPYF, EOP 0x43 (R312). -/
  | cpyf (e : Ecw)
  /-- CPYMX, EOP 0x44 (R312). -/
  | cpymx (e : Ecw)
  /-- SIG, EOP 0x45 (R312). -/
  | sig (e : Ecw)
  /-- CRED, EOP 0x60 (R327). -/
  | cred (e : Ecw)
  /-- CREDX, EOP 0x61 (R327). -/
  | credx (e : Ecw)
  /-- CGATH, EOP 0x62 (R327). -/
  | cgath (e : Ecw)
  /-- CBCAST, EOP 0x63 (R327). -/
  | cbcast (e : Ecw)
  /-- ENGINE_COMMAND_COMPLETE (R310). -/
  | engineCommandComplete (core : Nat) (slot : Nat)
  /-- REGISTER_WRITE (R6, R377). -/
  | registerWrite (master : Nat) (blk : Nat) (off : Nat) (val : Word)
  /-- DEV_QCFG_WRITE (R338). -/
  | devQcfgWrite (master : Nat) (n : Nat) (val : Word)
  /-- DEV_QHEAD_WRITE (R338). -/
  | devQheadWrite (master : Nat) (n : Nat) (val : Word)
  /-- DEV_QTAIL_WRITE (R339). -/
  | devQtailWrite (master : Nat) (n : Nat) (val : Word)
  /-- WAKE_COMPLETE (R340). -/
  | wakeComplete (die : Nat)
  /-- WAKE_FAILURE (R453). -/
  | wakeFailure (die : Nat)
  /-- PACKET_FETCH (R339, R341). -/
  | packetFetch (n : Nat)
  /-- QUEUE_FETCH_TIMEOUT (R444). -/
  | queueFetchTimeout (n : Nat)
  /-- LAUNCH (R343). -/
  | launch (n : Nat)
  /-- COPY (R341). -/
  | copy (n : Nat)
  /-- SIGNAL (R341). -/
  | signal (n : Nat)
  /-- WAIT (R341). -/
  | wait (n : Nat)
  /-- WAIT_PACKET_EXPIRY (R341). -/
  | waitPacketExpiry (n : Nat)
  /-- CONTEXT_CREATE (R342). -/
  | contextCreate (n : Nat) (part : Nat) (pcids : List Nat)
  /-- CONTEXT_DESTROY (R342). -/
  | contextDestroy (n : Nat)
  /-- MIGRATE (R354). -/
  | migrate (n : Nat) (target : Nat)
  /-- TEARDOWN (R341, R388). -/
  | teardown (n : Nat)
  /-- INSTANCE_PLACEMENT (R346, R30, R344). -/
  | instancePlacement (tract : Nat) (base : Nat)
  /-- INSTANCE_COMPLETION (R47, R48). -/
  | instanceCompletion (iid : Nat)
  /-- COMPLETION_RECORD (R345). -/
  | completionRecord (k : Nat)
  /-- INSTRUCTION_REFILL (R344). -/
  | instructionRefill (core : Nat) (strand : Nat)
  /-- OWNER_CLAIM (R355). -/
  | ownerClaim (master : Nat)
  /-- OWNER_HANDOVER (R355). -/
  | ownerHandover (master : Nat) (succ : Nat)
  /-- OWNER_RELEASE (R355). -/
  | ownerRelease (master : Nat)
  /-- OWNER_LINK_LOSS (R455). -/
  | ownerLinkLoss
  /-- DEBUG_CANCEL (R372). -/
  | debugCancel (master : Nat)
  /-- DEBUG_STOP_REQUEST (R372). -/
  | debugStopRequest (master : Nat) (ctx : Nat) (lbase : Nat)
  /-- DEBUG_RESUME (R373). -/
  | debugResume (master : Nat)
  /-- DEBUG_STEP (R373). -/
  | debugStep (master : Nat)
  /-- DEBUG_STOP (R372). -/
  | debugStop
  /-- DEV_DBGWIN_WRITE (R373). -/
  | devDbgwinWrite (master : Nat) (val : Word)
  /-- DIE_BMASK_WRITE (R292). -/
  | dieBmaskWrite (part : Nat) (die : Nat) (k : Nat) (w : Nat) (fw : Bool) (val : Word)
  /-- HELPER_RESUME (R431). -/
  | helperResume (core : Nat) (val : Word)
  /-- IN_FIELD_TEST (R407). -/
  | inFieldTest (core : Nat)
  /-- IN_FIELD_TEST_DONE (R407). -/
  | inFieldTestDone (core : Nat) (passed : Bool)
  /-- QUARANTINE_CLEAR (R407). -/
  | quarantineClear (core : Nat) (bits : BitVec 3)
  /-- BANK_REBUILD (R414). -/
  | bankRebuild (core : Nat) (csp : Bool) (bank : Nat)
  /-- REBUILD_STRIPE (R414). -/
  | rebuildStripe (core : Nat) (csp : Bool)
  /-- EXCHANGE_START (R43). -/
  | exchangeStart (core : Nat)
  /-- EXCHANGE_RECORD_ISSUE (R42). -/
  | exchangeRecordIssue (core : Nat)
  /-- EXCHANGE_RECEIVE (R44). -/
  | exchangeReceive (k : Nat)
  /-- COMPUTE_ENTRY (R34, R35). -/
  | computeEntry (iid : Nat)
  /-- BARRIER_RELEASE (R286). -/
  | barrierRelease (iid : Nat) (g : Nat)
  /-- WAIT_COMPLETION (R279). -/
  | waitCompletion (core : Nat) (strand : Nat)
  /-- WAIT_EXPIRY (R279). -/
  | waitExpiry (core : Nat) (strand : Nat)
  /-- FUSE_WINDOW_TIMEOUT (R252). -/
  | fuseWindowTimeout (clu : Nat) (pos : Nat)
  /-- MESSAGE_DELIVERY (R293, R348). -/
  | messageDelivery (k : Nat)
  /-- PAGE_WALK (R100). -/
  | pageWalk (core : Nat) (id : Nat) (elem : Nat)
  /-- SNAG_TIMEOUT (R436). -/
  | snagTimeout (core : Nat) (idx : Nat)
  /-- ASYNC_TRAP_ENTRY (R427). -/
  | asyncTrapEntry (core : Nat)
  /-- MIGRATION_COMMIT (R353, R395). -/
  | migrationCommit (core : Nat)
  /-- GANG_SWITCH (R350). -/
  | gangSwitch (part : Nat)
  /-- PARTITION_RESUME (R351). -/
  | partitionResume (part : Nat)
  /-- MACHINE_CHECK (R402). -/
  | machineCheck (core : Nat) (strand : Nat) (unit : Nat) (lane : Nat) (obs : Nat) (expected : Nat)
  /-- POISON_CONSUMPTION (R417). -/
  | poisonConsumption (core : Nat) (strand : Nat) (cause : Nat) (addr : Nat)
  /-- CLOSURE_CHECK (R410). -/
  | closureCheck (k : Nat)
  /-- CLOSURE_TIMEOUT (R410). -/
  | closureTimeout (k : Nat)
  /-- THERMAL_SAMPLE (R364). -/
  | thermalSample (core : Nat) (temp : BitVec 16)
  /-- T4_TRIP (R452). -/
  | t4Trip (die : Nat)
  /-- TOKEN_PASSING (R360). -/
  | tokenPassing
  /-- TOKEN_ADD (R360). -/
  | tokenAdd
  /-- BALLAST_PASS (R362). -/
  | ballastPass (clu : Nat) (part : Nat)
  /-- FIELD_BOOK_STATE_CHANGE (R366). -/
  | fieldBookStateChange (core : Nat)
  /-- PC_SAMPLE (R367). -/
  | pcSample (core : Nat)
  /-- SKIM_UNIT (R388). -/
  | skimUnit (die : Nat)
  /-- POWER_ON_RESET (R456, R381). -/
  | powerOnReset (tbl : BootTable)
  /-- DEVICE_RESET (R456, R381). -/
  | deviceReset (tbl : BootTable)
  /-- FUNCTION_LEVEL_RESET (R456, R381). -/
  | functionLevelReset (tbl : BootTable)
  /-- BRIRUS_TRAINING (R378). -/
  | brirusTraining (port : Nat) (ok : Bool) (rate : Nat) (peer : Nat)
  /-- TRAINING_TIMEOUT (R378). -/
  | trainingTimeout (port : Nat)
  /-- BRIRUS_FLIT (R379). -/
  | brirusFlit (port : Nat) (flit : Flit)
  /-- BRIRUS_NAK (R379, R449). -/
  | brirusNak (port : Nat) (seq : Nat)
  /-- CXL_MEM_REQUEST (R375, R376). -/
  | cxlMemRequest (off : Nat) (write : Bool) (data : Word) (bytes : BitVec 8)
  /-- HOST_LINK_DOWN (R448). -/
  | hostLinkDown
  /-- HOST_LINK_UP (R448). -/
  | hostLinkUp
  /-- HOST_ACCESS_TIMEOUT (R448). -/
  | hostAccessTimeout (core : Nat) (id : Nat) (elem : Nat)
  /-- MEMORY_ACCESS_PERFORMED (R113). -/
  | memoryAccessPerformed (core : Nat) (id : Nat) (elem : Nat)
  /-- WAIT_PACKET_SATISFIED (R341). -/
  | waitPacketSatisfied (n : Nat)
  deriving DecidableEq, Repr

end Sys2Proof
end

