-- ==== Sys2Proof/WellFormed.lean ====
section
/-! DEFINITION. Which instructions an encoding can carry: the field rules of R174, R181, R183 and of each instruction. -/

namespace Sys2Proof

/-- The selector rules of R174: SEQ and REP take no condition. -/
def Hdr.selectorOk (h : Hdr) : Bool :=
  if h.na == 0 || h.na == 6 then h.nq == 0 && h.nn == 0 else true

/-- The selector is SEQ. -/
def Hdr.isSeq (h : Hdr) : Bool := h.na == 0

/-- Class X words that take no predicate require EQ to be zero (R200, R265, R301). -/
def Hdr.noPred (h : Hdr) : Bool := h.eq == 0

/-- FP32 or FP64 (R178). -/
def scalarFpTy (ty : BitVec 3) : Bool := ty == 0 || ty == 4

/-- FP32, FP16, BF16 or FP64 (R178). -/
def ieeeTy (ty : BitVec 3) : Bool := ty == 0 || ty == 1 || ty == 2 || ty == 4

/-- An integer type (R178). -/
def intTy (ty : BitVec 3) : Bool := decide (ty.toNat ≤ 4)

/-- A type of 8 to 64 bits (R248). -/
def laneTy (ty : BitVec 3) : Bool := ty == 0 || ty == 1 || ty == 2 || ty == 4

/-- T8 or T4 (R178). -/
def codeTy (ty : BitVec 3) : Bool := ty == 3 || ty == 5

/-- Rounding modes 0 to 4 (R148). -/
def rmOk (rm : BitVec 3) : Bool := decide (rm.toNat ≤ 4)

/-- Rounding modes with the stochastic one (R148). -/
def rmStochOk (rm : BitVec 3) : Bool := decide (rm.toNat ≤ 5)

/-- The source modifier rules of R181; bit k of `srcs` says that source k (A, B, C) may carry one. -/
def modOk (m : BitVec 12) (srcs : BitVec 3) : Bool :=
  let cls := m.extractLsb' 10 2
  let seg := m.extractLsb' 7 3
  let dist := m.extractLsb' 2 5
  let sel := m.extractLsb' 0 2
  if cls == 0 then m == 0
  else decide (seg.toNat ≤ 4) && decide (dist.toNat < 2 ^ seg.toNat) && decide (sel.toNat < 3) && srcs.getLsbD sel.toNat

/-- BFX and BFI fields (R229). -/
def bitFieldOk (pos : BitVec 6) (len : BitVec 7) : Bool :=
  decide (1 ≤ len.toNat) && decide (pos.toNat + len.toNat ≤ 64)

/-- SEXT and ZEXT widths (R229). -/
def extWidthOk (n : BitVec 7) : Bool := decide (1 ≤ n.toNat) && decide (n.toNat ≤ 64)

/-- VFNARROW's targets: U 1 from FP64, U 0 from FP32 (R245). -/
def narrowOk (ty : BitVec 3) (u : BitVec 1) : Bool :=
  if u == 1 then ty == 0 || ty == 1 || ty == 2 else ty == 1 || ty == 2 || ty == 3 || ty == 5

/-- VFWIDEN's sources and targets (R245). -/
def widenOk (ty : BitVec 3) (fl : BitVec 2) : Bool :=
  if fl == 0 then ty == 4 else if fl == 1 then false else ty == 0 || ty == 4

/-- VFRED's operation and rounding mode (R246). -/
def redOk (rm : BitVec 3) (fl : BitVec 2) : Bool :=
  if fl == 3 then false else if fl == 0 then rmOk rm else rm == 0

/-- Scopes 0 to 5 (R105). -/
def scopeOk (s : BitVec 3) : Bool := decide (s.toNat ≤ 5)

/-- Orders of a load: relaxed or acquire (R268). -/
def loadOrd (o : BitVec 2) : Bool := o == 0 || o == 1

/-- Orders of a store: relaxed or release (R268). -/
def storeOrd (o : BitVec 2) : Bool := o == 0 || o == 2

/-- Access sizes (R179). -/
def szOk (z : BitVec 3) : Bool := z != 4

/-- Sizes of an integer atomic (R275). -/
def atomicSz (z : BitVec 3) : Bool := z == 0 || z == 1 || z == 5

/-- The instruction is one that its encoding admits. Events carry no encoding. -/
def Instr.wf : Instr → Bool
  | .nop h => h.selectorOk
  | .tgt h _ _ => h.selectorOk
  | .tgts h _ _ => h.selectorOk
  | .lnk h => h.selectorOk
  | .loop h _ => h.selectorOk && h.noPred
  | .loopSet h _ => h.selectorOk && h.noPred
  | .repb h _ _ _ => h.selectorOk && h.noPred && h.isSeq
  | .start h _ hn => h.selectorOk && h.noPred && (1 ≤ hn.toNat && hn.toNat ≤ 10)
  | .join h _ _ _ => h.selectorOk && h.noPred
  | .hkill h _ => h.selectorOk && h.noPred
  | .ids h _ _ => h.selectorOk
  | .clk h _ => h.selectorOk
  | .sleep h _ _ _ _ => h.selectorOk && h.noPred
  | .mark h _ => h.selectorOk
  | .win h _ => h.selectorOk && h.noPred
  | .wins h _ limit => h.selectorOk && h.noPred && decide (limit.toNat ≤ 256)
  | .wswap h _ => h.selectorOk && h.noPred && h.isSeq
  | .wrd h _ => h.selectorOk && h.noPred
  | .wdrain h _ _ _ => h.selectorOk && h.noPred
  | .tdel h _ _ => h.selectorOk && h.noPred
  | .tret h _ => h.selectorOk && h.noPred && h.isSeq
  | .env h _ => h.selectorOk && h.noPred
  | .snagw h _ _ => h.selectorOk && h.noPred
  | .snagx h _ _ => h.selectorOk && h.noPred
  | .add h _ _ _ => h.selectorOk
  | .sub h _ _ _ => h.selectorOk
  | .addi h _ _ _ => h.selectorOk
  | .mul h _ _ _ => h.selectorOk
  | .mulh h _ _ _ => h.selectorOk
  | .mulhu h _ _ _ => h.selectorOk
  | .div h _ _ _ => h.selectorOk
  | .divu h _ _ _ => h.selectorOk
  | .rem h _ _ _ => h.selectorOk
  | .remu h _ _ _ => h.selectorOk
  | .and h _ _ _ => h.selectorOk
  | .or h _ _ _ => h.selectorOk
  | .xor h _ _ _ => h.selectorOk
  | .andn h _ _ _ => h.selectorOk
  | .shl h _ _ _ => h.selectorOk
  | .shr h _ _ _ => h.selectorOk
  | .sra h _ _ _ => h.selectorOk
  | .rot h _ _ _ => h.selectorOk
  | .clz h _ _ => h.selectorOk
  | .ctz h _ _ => h.selectorOk
  | .popc h _ _ => h.selectorOk
  | .min h _ _ _ => h.selectorOk
  | .max h _ _ _ => h.selectorOk
  | .minu h _ _ _ => h.selectorOk
  | .maxu h _ _ _ => h.selectorOk
  | .sel h _ _ _ _ => h.selectorOk
  | .scmp h _ _ _ cc _ => h.selectorOk && decide (cc.toNat ≤ 5)
  | .scmps h _ _ _ cc _ => h.selectorOk && decide (cc.toNat ≤ 5)
  | .li h _ _ => h.selectorOk
  | .lih h _ _ => h.selectorOk
  | .agen h _ _ _ _ _ => h.selectorOk
  | .bfx h _ _ pos len => h.selectorOk && bitFieldOk pos len
  | .bfi h _ _ pos len => h.selectorOk && bitFieldOk pos len
  | .sext h _ _ n => h.selectorOk && extWidthOk n
  | .zext h _ _ n => h.selectorOk && extWidthOk n
  | .mov h _ _ => h.selectorOk
  | .fadd h _ _ _ ty rm => h.selectorOk && scalarFpTy ty && rmOk rm
  | .fsub h _ _ _ ty rm => h.selectorOk && scalarFpTy ty && rmOk rm
  | .fmul h _ _ _ ty rm => h.selectorOk && scalarFpTy ty && rmOk rm
  | .ffma h _ _ _ _ ty rm => h.selectorOk && scalarFpTy ty && rmOk rm
  | .fdiv h _ _ _ ty rm => h.selectorOk && scalarFpTy ty && rmOk rm
  | .fsqrt h _ _ ty rm => h.selectorOk && scalarFpTy ty && rmOk rm
  | .fmin h _ _ _ ty => h.selectorOk && scalarFpTy ty
  | .fmax h _ _ _ ty => h.selectorOk && scalarFpTy ty
  | .fcmp h _ _ _ ty cc => h.selectorOk && scalarFpTy ty && decide (cc.toNat ≤ 7)
  | .fclass h _ _ ty => h.selectorOk && scalarFpTy ty
  | .fcvt h _ _ ty rm _ => h.selectorOk && ieeeTy ty && rmOk rm
  | .fcvti h _ _ ty rm _ => h.selectorOk && scalarFpTy ty && rmOk rm
  | .vadd h _ _ _ ty m => h.selectorOk && intTy ty && modOk m 0b011
  | .vsub h _ _ _ ty m => h.selectorOk && intTy ty && modOk m 0b011
  | .vmul h _ _ _ ty m => h.selectorOk && intTy ty && modOk m 0b011
  | .vmulh h _ _ _ ty _ m => h.selectorOk && intTy ty && modOk m 0b011
  | .vmad h _ _ _ _ ty => h.selectorOk && intTy ty
  | .vand h _ _ _ ty m => h.selectorOk && intTy ty && modOk m 0b011
  | .vor h _ _ _ ty m => h.selectorOk && intTy ty && modOk m 0b011
  | .vxor h _ _ _ ty m => h.selectorOk && intTy ty && modOk m 0b011
  | .vshl h _ _ _ ty m => h.selectorOk && intTy ty && modOk m 0b011
  | .vshr h _ _ _ ty m => h.selectorOk && intTy ty && modOk m 0b011
  | .vsra h _ _ _ ty m => h.selectorOk && intTy ty && modOk m 0b011
  | .vmin h _ _ _ ty _ m => h.selectorOk && intTy ty && modOk m 0b011
  | .vmax h _ _ _ ty _ m => h.selectorOk && intTy ty && modOk m 0b011
  | .vabs h _ _ ty m => h.selectorOk && intTy ty && modOk m 0b001
  | .vcmp h _ _ _ ty cc _ m => h.selectorOk && (ty == 0 || ty == 4) && decide (cc.toNat ≤ 5) && modOk m 0b011
  | .vsel h _ _ _ _ ty => h.selectorOk && intTy ty
  | .vadds h _ _ _ ty _ m => h.selectorOk && intTy ty && modOk m 0b011
  | .vsubs h _ _ _ ty _ m => h.selectorOk && intTy ty && modOk m 0b011
  | .vdot4 h _ _ _ _ _ => h.selectorOk
  | .vpopc h _ _ ty m => h.selectorOk && intTy ty && modOk m 0b001
  | .vclz h _ _ ty m => h.selectorOk && intTy ty && modOk m 0b001
  | .vmov h _ _ ty m => h.selectorOk && intTy ty && modOk m 0b001
  | .vfadd h _ _ _ ty rm m => h.selectorOk && ieeeTy ty && rmOk rm && modOk m 0b011
  | .vfsub h _ _ _ ty rm m => h.selectorOk && ieeeTy ty && rmOk rm && modOk m 0b011
  | .vfmul h _ _ _ ty rm m => h.selectorOk && ieeeTy ty && rmOk rm && modOk m 0b011
  | .vfma h _ _ _ _ ty rm => h.selectorOk && ieeeTy ty && rmOk rm
  | .vfms h _ _ _ _ ty rm => h.selectorOk && ieeeTy ty && rmOk rm
  | .vfnma h _ _ _ _ ty rm => h.selectorOk && ieeeTy ty && rmOk rm
  | .vfdiv h _ _ _ ty rm m => h.selectorOk && scalarFpTy ty && rmOk rm && modOk m 0b011
  | .vfsqrt h _ _ ty rm m => h.selectorOk && scalarFpTy ty && rmOk rm && modOk m 0b001
  | .vfrec h _ _ rm m => h.selectorOk && rmOk rm && modOk m 0b001
  | .vfrsq h _ _ rm m => h.selectorOk && rmOk rm && modOk m 0b001
  | .vfexp2 h _ _ rm m => h.selectorOk && rmOk rm && modOk m 0b001
  | .vflog2 h _ _ rm m => h.selectorOk && rmOk rm && modOk m 0b001
  | .vfmin h _ _ _ ty m => h.selectorOk && ieeeTy ty && modOk m 0b011
  | .vfmax h _ _ _ ty m => h.selectorOk && ieeeTy ty && modOk m 0b011
  | .vfcmp h _ _ _ ty cc m => h.selectorOk && scalarFpTy ty && decide (cc.toNat ≤ 7) && modOk m 0b011
  | .vfclass h _ _ ty m => h.selectorOk && ieeeTy ty && modOk m 0b001
  | .vfcvt h _ _ ty rm _ m => h.selectorOk && ieeeTy ty && rmOk rm && modOk m 0b001
  | .vfnarrow h _ _ _ _ ty rm u => h.selectorOk && narrowOk ty u && rmStochOk rm
  | .vfwiden h _ _ _ ty fl m => h.selectorOk && widenOk ty fl && modOk m 0b001
  | .vfred h _ _ ty rm fl m => h.selectorOk && scalarFpTy ty && redOk rm fl && modOk m 0b001
  | .vfamax h _ _ ty m => h.selectorOk && decide (ty.toNat ≤ 2) && modOk m 0b001
  | .vperm h _ _ _ ty m => h.selectorOk && laneTy ty && modOk m 0b011
  | .vrot h _ _ _ ty m => h.selectorOk && laneTy ty && modOk m 0b001
  | .vbfly h _ _ _ ty m => h.selectorOk && laneTy ty && modOk m 0b001
  | .vbcst h _ _ _ ty m => h.selectorOk && laneTy ty && modOk m 0b001
  | .vcomp h _ _ _ ty m => h.selectorOk && (ty == 0 || ty == 4) && modOk m 0b001
  | .vxpnd h _ _ _ ty m => h.selectorOk && (ty == 0 || ty == 4) && modOk m 0b001
  | .vsplat h _ _ ty => h.selectorOk && laneTy ty
  | .vext h _ _ _ ty _ m => h.selectorOk && laneTy ty && modOk m 0b001
  | .vins h _ _ _ ty => h.selectorOk && laneTy ty
  | .qand h _ _ _ => h.selectorOk
  | .qor h _ _ _ => h.selectorOk
  | .qxor h _ _ _ => h.selectorOk
  | .qnot h _ _ => h.selectorOk
  | .qpop h _ _ => h.selectorOk
  | .qfirst h _ _ => h.selectorOk
  | .qmov h _ _ => h.selectorOk
  | .qmovX h _ _ => h.selectorOk
  | .gany h _ _ _ => h.selectorOk
  | .gall h _ _ _ => h.selectorOk
  | .gbcast h _ _ => h.selectorOk
  | .glane h _ => h.selectorOk
  | .dtld h _ => h.selectorOk
  | .dtrd h _ _ => h.selectorOk
  | .dtdec h _ _ _ ty rm _ m => h.selectorOk && decide (ty.toNat ≤ 2) && rmOk rm && modOk m 0b001
  | .dtenc h _ _ _ _ ty rm fl => h.selectorOk && codeTy ty && rmStochOk rm && decide (2 ≤ fl.toNat)
  | .mxq h _ _ _ _ ty rm => h.selectorOk && codeTy ty && rmStochOk rm
  | .mxqMem h _ _ _ _ ty rm => h.selectorOk && codeTy ty && rmStochOk rm && h.eq == 0
  | .mxdq h _ _ _ ty rm _ m => h.selectorOk && decide (ty.toNat ≤ 2) && rmOk rm && modOk m 0b001
  | .ufcnt h _ => h.selectorOk
  | .scsel h _ _ _ _ ty => h.selectorOk && codeTy ty
  | .ld h _ _ _ scope ord sz => h.selectorOk && scopeOk scope && loadOrd ord && szOk sz
  | .st h _ _ _ scope ord sz => h.selectorOk && scopeOk scope && storeOrd ord && szOk sz
  | .ldv h _ _ _ scope ord => h.selectorOk && scopeOk scope && loadOrd ord
  | .stv h _ _ _ scope ord => h.selectorOk && scopeOk scope && storeOrd ord
  | .ldvx h _ _ _ scope ord sz m => h.selectorOk && scopeOk scope && loadOrd ord && decide (sz.toNat ≤ 1) && modOk m 0b010
  | .stvx h _ _ _ scope ord sz m => h.selectorOk && scopeOk scope && storeOrd ord && decide (sz.toNat ≤ 1) && modOk m 0b010
  | .lds h _ _ _ scope sz _ => h.selectorOk && scopeOk scope && szOk sz
  | .stf h _ _ _ scope sz => h.selectorOk && scopeOk scope && szOk sz
  | .feclr h _ _ scope ord => h.selectorOk && scopeOk scope && storeOrd ord
  | .ferd h _ _ _ scope ord => h.selectorOk && scopeOk scope && loadOrd ord
  | .aadd h _ _ _ scope _ sz => h.selectorOk && scopeOk scope && atomicSz sz
  | .aand h _ _ _ scope _ sz => h.selectorOk && scopeOk scope && atomicSz sz
  | .aor h _ _ _ scope _ sz => h.selectorOk && scopeOk scope && atomicSz sz
  | .axor h _ _ _ scope _ sz => h.selectorOk && scopeOk scope && atomicSz sz
  | .amin h _ _ _ scope _ sz => h.selectorOk && scopeOk scope && atomicSz sz
  | .amax h _ _ _ scope _ sz => h.selectorOk && scopeOk scope && atomicSz sz
  | .aminu h _ _ _ scope _ sz => h.selectorOk && scopeOk scope && atomicSz sz
  | .amaxu h _ _ _ scope _ sz => h.selectorOk && scopeOk scope && atomicSz sz
  | .axchg h _ _ _ scope _ sz => h.selectorOk && scopeOk scope && atomicSz sz
  | .acas h _ _ _ _ scope _ sz => h.selectorOk && scopeOk scope && atomicSz sz
  | .afadd h _ _ _ scope _ sz => h.selectorOk && scopeOk scope && decide (sz.toNat ≤ 1)
  | .radd h _ _ _ scope ord sz => h.selectorOk && scopeOk scope && atomicSz sz && storeOrd ord
  | .rand h _ _ _ scope ord sz => h.selectorOk && scopeOk scope && atomicSz sz && storeOrd ord
  | .rior h _ _ _ scope ord sz => h.selectorOk && scopeOk scope && atomicSz sz && storeOrd ord
  | .rxor h _ _ _ scope ord sz => h.selectorOk && scopeOk scope && atomicSz sz && storeOrd ord
  | .rmin h _ _ _ scope ord sz => h.selectorOk && scopeOk scope && atomicSz sz && storeOrd ord
  | .rmax h _ _ _ scope ord sz => h.selectorOk && scopeOk scope && atomicSz sz && storeOrd ord
  | .rfadd h _ _ _ scope ord sz => h.selectorOk && scopeOk scope && decide (sz.toNat ≤ 1) && storeOrd ord
  | .fence h _ _ classes scope _ => h.selectorOk && h.noPred && scopeOk scope && decide (classes.toNat < 32)
  | .barr h _ _ => h.selectorOk && h.noPred
  | .bwait h _ _ _ _ => h.selectorOk && h.noPred
  | .bwd h _ _ => h.selectorOk && h.noPred
  | .bstat h _ _ => h.selectorOk && h.noPred
  | .send h _ _ scope m => h.selectorOk && h.noPred && scopeOk scope && modOk m 0b001
  | .recv h _ _ _ _ => h.selectorOk && h.noPred
  | .qstat h _ => h.selectorOk && h.noPred
  | .waitseq h _ _ _ _ => h.selectorOk && h.noPred
  | .xplan h _ => h.selectorOk && h.noPred
  | .sstep h a _ u _ => h.selectorOk && h.noPred && (u == 1 || a == 0)
  | .bcfg h _ _ _ _ => h.selectorOk && h.noPred
  | .append h _ _ _ _ => h.selectorOk && h.noPred
  | .chain h _ _ => h.selectorOk && h.noPred
  | .chainUnbind h _ _ => h.selectorOk && h.noPred
  | .seqrd h _ _ k => h.selectorOk && h.noPred && (k != 3)
  | .claim h _ n => h.selectorOk && h.noPred && (1 ≤ n.toNat && n.toNat ≤ 64)
  | .rels h _ => h.selectorOk && h.noPred
  | .tshape h _ _ => h.selectorOk && h.noPred
  | .trow h _ _ _ => h.selectorOk
  | .tcol h _ _ _ => h.selectorOk
  | .twrow h _ _ _ => h.selectorOk
  | .twcol h _ _ _ => h.selectorOk
  | .wralloc h d _ => h.selectorOk && h.noPred && (d != 255)
  | .wrpin h _ => h.selectorOk && h.noPred
  | .wrunpin h _ => h.selectorOk && h.noPred
  | .wrrevoke h _ => h.selectorOk && h.noPred
  | .wrquery h _ _ => h.selectorOk && h.noPred
  | .laclr h _ => h.selectorOk && h.noPred
  | .laadd h _ _ _ => h.selectorOk
  | .ladot h _ _ _ => h.selectorOk
  | .larnd h _ _ ty rm => h.selectorOk && h.noPred && scalarFpTy ty && rmOk rm
  | .lamrg h _ _ => h.selectorOk && h.noPred
  | .laflg h _ _ => h.selectorOk && h.noPred
  | .laflgClr h _ _ => h.selectorOk && h.noPred
  | .fuse h _ gs => h.selectorOk && h.noPred && h.isSeq && (gs == 2 || gs == 4 || gs == 8)
  | .split h _ => h.selectorOk && h.noPred && h.isSeq
  | .migpt h _ => h.selectorOk && h.noPred
  | .lcid h _ _ => h.selectorOk && h.noPred
  | .csrr h _ _ => h.selectorOk && h.noPred
  | .csrw h _ _ => h.selectorOk && h.noPred
  | .csrx h _ _ _ => h.selectorOk && h.noPred
  | .tlbinv h _ _ => h.selectorOk && h.noPred
  | .tlbinvAll h _ _ => h.selectorOk && h.noPred
  | .tlbinvAllP h _ _ => h.selectorOk && h.noPred
  | .halt h => h.selectorOk && h.noPred
  | .keyz h _ _ => h.selectorOk && h.noPred
  | .skim h _ _ => h.selectorOk && h.noPred
  | .attest h _ _ _ => h.selectorOk && h.noPred
  | .tkrd h _ => h.selectorOk && h.noPred
  | .tkgive h _ _ _ => h.selectorOk && h.noPred
  | .quar h _ _ => h.selectorOk && h.noPred
  | .mcread h _ _ => h.selectorOk && h.noPred
  | .pswitch h _ _ _ => h.selectorOk && h.noPred
  | .fbctl h _ _ => h.selectorOk && h.noPred
  | .ctxld h _ _ => h.selectorOk && h.noPred
  | .mmt8t8 _ => true
  | .mmst8t8 _ => true
  | .mmt8bf _ => true
  | .mmst8bf _ => true
  | .mmbfbf _ => true
  | .mmsbfbf _ => true
  | .mmf16f16 _ => true
  | .mmsf16f16 _ => true
  | .mmi8i8 _ => true
  | .mmsi8i8 _ => true
  | .mmt4t8 _ => true
  | .mmst4t8 _ => true
  | .mmt4t4 _ => true
  | .mmst4t4 _ => true
  | .mmx8x8 _ => true
  | .mmsx8x8 _ => true
  | .mmx4x8 _ => true
  | .mmsx4x8 _ => true
  | .mmx4x4 _ => true
  | .mmsx4x4 _ => true
  | .wload _ => true
  | .mxsig _ => true
  | .cpy _ => true
  | .cpys _ => true
  | .cpyg _ => true
  | .cpyf _ => true
  | .cpymx _ => true
  | .sig _ => true
  | .cred _ => true
  | .credx _ => true
  | .cgath _ => true
  | .cbcast _ => true
  | .engineCommandComplete _ _ => true
  | .registerWrite _ _ _ _ => true
  | .devQcfgWrite _ _ _ => true
  | .devQheadWrite _ _ _ => true
  | .devQtailWrite _ _ _ => true
  | .wakeComplete _ => true
  | .wakeFailure _ => true
  | .packetFetch _ => true
  | .queueFetchTimeout _ => true
  | .launch _ => true
  | .copy _ => true
  | .signal _ => true
  | .wait _ => true
  | .waitPacketExpiry _ => true
  | .contextCreate _ _ _ => true
  | .contextDestroy _ => true
  | .migrate _ _ => true
  | .teardown _ => true
  | .instancePlacement _ _ => true
  | .instanceCompletion _ => true
  | .completionRecord _ => true
  | .instructionRefill _ _ => true
  | .ownerClaim _ => true
  | .ownerHandover _ _ => true
  | .ownerRelease _ => true
  | .ownerLinkLoss => true
  | .debugCancel _ => true
  | .debugStopRequest _ _ _ => true
  | .debugResume _ => true
  | .debugStep _ => true
  | .debugStop => true
  | .devDbgwinWrite _ _ => true
  | .dieBmaskWrite _ _ _ _ _ _ => true
  | .helperResume _ _ => true
  | .inFieldTest _ => true
  | .inFieldTestDone _ _ => true
  | .quarantineClear _ _ => true
  | .bankRebuild _ _ _ => true
  | .rebuildStripe _ _ => true
  | .exchangeStart _ => true
  | .exchangeRecordIssue _ => true
  | .exchangeReceive _ => true
  | .computeEntry _ => true
  | .barrierRelease _ _ => true
  | .waitCompletion _ _ => true
  | .waitExpiry _ _ => true
  | .fuseWindowTimeout _ _ => true
  | .messageDelivery _ => true
  | .pageWalk _ _ _ => true
  | .snagTimeout _ _ => true
  | .asyncTrapEntry _ => true
  | .migrationCommit _ => true
  | .gangSwitch _ => true
  | .partitionResume _ => true
  | .machineCheck _ _ _ _ _ _ => true
  | .poisonConsumption _ _ _ _ => true
  | .closureCheck _ => true
  | .closureTimeout _ => true
  | .thermalSample _ _ => true
  | .t4Trip _ => true
  | .tokenPassing => true
  | .tokenAdd => true
  | .ballastPass _ _ => true
  | .fieldBookStateChange _ => true
  | .pcSample _ => true
  | .skimUnit _ => true
  | .powerOnReset _ => true
  | .deviceReset _ => true
  | .functionLevelReset _ => true
  | .brirusTraining _ _ _ _ => true
  | .trainingTimeout _ => true
  | .brirusFlit _ _ => true
  | .brirusNak _ _ => true
  | .cxlMemRequest _ _ _ _ => true
  | .hostLinkDown => true
  | .hostLinkUp => true
  | .hostAccessTimeout _ _ _ => true
  | .memoryAccessPerformed _ _ _ => true
  | .waitPacketSatisfied _ => true

end Sys2Proof
end

