-- ==== Sys2Proof/Decode.lean ====
section
/-! DEFINITION. Decoding and encoding: instruction words (R171 to R183) and engine command words (R185 to R187). -/

namespace Sys2Proof

/-- Why bits are no instruction (R183, R187). -/
inductive DecodeError where
  /-- OP is a reserved value. -/
  | reservedOpcode
  /-- A field that must be zero is not. -/
  | mustBeZero
  /-- A field holds a value that the instruction reserves or does not accept. -/
  | reservedValue
  /-- EOP is a reserved value. -/
  | reservedEngineOpcode
  /-- Fewer bytes than an instruction has. -/
  | truncated
  deriving DecidableEq, Repr

/-- The fields of an instruction word (R171). -/
structure Fields where
  na : BitVec 3
  nq : BitVec 3
  nn : BitVec 1
  op : BitVec 10
  eq : BitVec 3
  d : BitVec 8
  a : BitVec 8
  b : BitVec 8
  c : BitVec 8
  m : BitVec 12
  deriving DecidableEq, Repr

/-- The fields of a word (R171). -/
def Fields.ofWord (w : Word) : Fields :=
  { na := w.extractLsb' 61 3, nq := w.extractLsb' 58 3, nn := w.extractLsb' 57 1, op := w.extractLsb' 47 10,
    eq := w.extractLsb' 44 3, d := w.extractLsb' 36 8, a := w.extractLsb' 28 8, b := w.extractLsb' 20 8,
    c := w.extractLsb' 12 8, m := w.extractLsb' 0 12 }

/-- The word with the given fields (R171). -/
def Fields.word (f : Fields) : Word :=
  f.na ++ f.nq ++ f.nn ++ f.op ++ f.eq ++ f.d ++ f.a ++ f.b ++ f.c ++ f.m

/-- The 28-bit immediate of form I28 (R176). -/
def Fields.imm28 (f : Fields) : BitVec 28 := f.b ++ f.c ++ f.m

/-- The 20-bit immediate of form I20 (R176). -/
def Fields.imm20 (f : Fields) : BitVec 20 := f.c ++ f.m

/-- LIH's 36-bit immediate (R230). -/
def Fields.imm36 (f : Fields) : BitVec 36 := f.a ++ f.b ++ f.c ++ f.m

/-- The displacement of form MD (R176). -/
def Fields.disp (f : Fields) : BitVec 20 := f.b ++ f.m

/-- The header part of a word. -/
def Fields.hdr (f : Fields) : Hdr := { na := f.na, nq := f.nq, nn := f.nn, eq := f.eq }

/-- A word's fields from its header and its register, option and MOD fields. -/
def mkFields (h : Hdr) (op : BitVec 10) (d a b c : BitVec 8) (m : BitVec 12) : Fields :=
  { na := h.na, nq := h.nq, nn := h.nn, op := op, eq := h.eq, d := d, a := a, b := b, c := c, m := m }

/-- Form I28: the immediate fills B, C and MOD (R176). -/
def mkImm28 (h : Hdr) (op : BitVec 10) (d a : BitVec 8) (imm : BitVec 28) : Fields :=
  mkFields h op d a (imm.extractLsb' 20 8) (imm.extractLsb' 12 8) (imm.extractLsb' 0 12)

/-- Form I20: the immediate fills C and MOD (R176). -/
def mkImm20 (h : Hdr) (op : BitVec 10) (d a b : BitVec 8) (imm : BitVec 20) : Fields :=
  mkFields h op d a b (imm.extractLsb' 12 8) (imm.extractLsb' 0 12)

/-- A row of the opcode map (R182): the opcode and how its fields are read. -/
abbrev OpRow := Nat × (Fields → Instr)

/-- Sequencing, strands and windows (R203, R215). -/
def opsSequencing : List OpRow := [
  (0x000, fun f => .nop f.hdr ),
  (0x001, fun f => .tgt f.hdr (f.d.extractLsb' 0 2) f.imm28),
  (0x002, fun f => .tgts f.hdr (f.d.extractLsb' 0 2) f.a),
  (0x003, fun f => .lnk f.hdr ),
  (0x004, fun f => if f.c.getLsbD 0 then .loopSet f.hdr f.a else .loop f.hdr (f.d.extractLsb' 0 3)),
  (0x005, fun f => .repb f.hdr f.a (f.m.extractLsb' 4 4) (f.m.extractLsb' 0 4)),
  (0x006, fun f => .start f.hdr f.a (f.m.extractLsb' 0 4)),
  (0x007, fun f => .join f.hdr f.d f.b (f.m.extractLsb' 8 1)),
  (0x008, fun f => .hkill f.hdr f.a),
  (0x009, fun f => .ids f.hdr f.d (f.c.extractLsb' 0 2)),
  (0x00a, fun f => .clk f.hdr f.d),
  (0x00b, fun f => .sleep f.hdr f.d f.a f.b (f.m.extractLsb' 8 1)),
  (0x00c, fun f => .mark f.hdr f.imm20),
  (0x020, fun f => .win f.hdr f.a),
  (0x021, fun f => .wins f.hdr (f.imm20.extractLsb' 9 11) (f.imm20.extractLsb' 0 9)),
  (0x022, fun f => .wswap f.hdr f.a),
  (0x023, fun f => .wrd f.hdr f.d),
  (0x024, fun f => .wdrain f.hdr f.d f.b (f.m.extractLsb' 8 1)),
  (0x025, fun f => .tdel f.hdr f.d f.a),
  (0x026, fun f => .tret f.hdr f.a),
  (0x027, fun f => .env f.hdr f.a),
  (0x028, fun f => .snagw f.hdr f.a f.b),
  (0x029, fun f => .snagx f.hdr f.a f.b)]

/-- Scalar integer (R226). -/
def opsScalarInt : List OpRow := [
  (0x040, fun f => .add f.hdr f.d f.a f.b),
  (0x041, fun f => .sub f.hdr f.d f.a f.b),
  (0x042, fun f => .addi f.hdr f.d f.a f.imm28),
  (0x043, fun f => .mul f.hdr f.d f.a f.b),
  (0x044, fun f => .mulh f.hdr f.d f.a f.b),
  (0x045, fun f => .mulhu f.hdr f.d f.a f.b),
  (0x046, fun f => .div f.hdr f.d f.a f.b),
  (0x047, fun f => .divu f.hdr f.d f.a f.b),
  (0x048, fun f => .rem f.hdr f.d f.a f.b),
  (0x049, fun f => .remu f.hdr f.d f.a f.b),
  (0x04a, fun f => .and f.hdr f.d f.a f.b),
  (0x04b, fun f => .or f.hdr f.d f.a f.b),
  (0x04c, fun f => .xor f.hdr f.d f.a f.b),
  (0x04d, fun f => .andn f.hdr f.d f.a f.b),
  (0x04e, fun f => .shl f.hdr f.d f.a f.b),
  (0x04f, fun f => .shr f.hdr f.d f.a f.b),
  (0x050, fun f => .sra f.hdr f.d f.a f.b),
  (0x051, fun f => .rot f.hdr f.d f.a f.b),
  (0x052, fun f => .clz f.hdr f.d f.a),
  (0x053, fun f => .ctz f.hdr f.d f.a),
  (0x054, fun f => .popc f.hdr f.d f.a),
  (0x055, fun f => .min f.hdr f.d f.a f.b),
  (0x056, fun f => .max f.hdr f.d f.a f.b),
  (0x057, fun f => .minu f.hdr f.d f.a f.b),
  (0x058, fun f => .maxu f.hdr f.d f.a f.b),
  (0x059, fun f => .sel f.hdr f.d f.a f.b (f.c.extractLsb' 0 3)),
  (0x05a, fun f => .scmp f.hdr (f.d.extractLsb' 0 3) f.a f.b (f.c.extractLsb' 1 4) (f.c.extractLsb' 0 1)),
  (0x05b, fun f => .scmps f.hdr f.d f.a f.b (f.c.extractLsb' 1 4) (f.c.extractLsb' 0 1)),
  (0x05c, fun f => .li f.hdr f.d f.imm28),
  (0x05d, fun f => .lih f.hdr f.d f.imm36),
  (0x05e, fun f => .agen f.hdr f.d f.a f.b (f.imm20.extractLsb' 17 3) (f.imm20.extractLsb' 0 17)),
  (0x05f, fun f => .bfx f.hdr f.d f.a (f.m.extractLsb' 0 6) (f.imm20.extractLsb' 6 7)),
  (0x060, fun f => .bfi f.hdr f.d f.a (f.m.extractLsb' 0 6) (f.imm20.extractLsb' 6 7)),
  (0x061, fun f => .sext f.hdr f.d f.a (f.m.extractLsb' 0 7)),
  (0x062, fun f => .zext f.hdr f.d f.a (f.m.extractLsb' 0 7)),
  (0x063, fun f => .mov f.hdr f.d f.a)]

/-- Scalar floating point (R233). -/
def opsScalarFp : List OpRow := [
  (0x080, fun f => .fadd f.hdr f.d f.a f.b (f.c.extractLsb' 5 3) (f.c.extractLsb' 2 3)),
  (0x081, fun f => .fsub f.hdr f.d f.a f.b (f.c.extractLsb' 5 3) (f.c.extractLsb' 2 3)),
  (0x082, fun f => .fmul f.hdr f.d f.a f.b (f.c.extractLsb' 5 3) (f.c.extractLsb' 2 3)),
  (0x083, fun f => .ffma f.hdr f.d f.a f.b f.c (f.m.extractLsb' 9 3) (f.m.extractLsb' 6 3)),
  (0x084, fun f => .fdiv f.hdr f.d f.a f.b (f.c.extractLsb' 5 3) (f.c.extractLsb' 2 3)),
  (0x085, fun f => .fsqrt f.hdr f.d f.a (f.c.extractLsb' 5 3) (f.c.extractLsb' 2 3)),
  (0x086, fun f => .fmin f.hdr f.d f.a f.b (f.c.extractLsb' 5 3)),
  (0x087, fun f => .fmax f.hdr f.d f.a f.b (f.c.extractLsb' 5 3)),
  (0x088, fun f => .fcmp f.hdr (f.d.extractLsb' 0 3) f.a f.b (f.c.extractLsb' 5 3) (f.c.extractLsb' 1 4)),
  (0x089, fun f => .fclass f.hdr f.d f.a (f.c.extractLsb' 5 3)),
  (0x08a, fun f => .fcvt f.hdr f.d f.a (f.c.extractLsb' 5 3) (f.c.extractLsb' 2 3) (f.c.extractLsb' 0 2)),
  (0x08b, fun f => .fcvti f.hdr f.d f.a (f.c.extractLsb' 5 3) (f.c.extractLsb' 2 3) (f.c.extractLsb' 0 2))]

/-- Vector integer (R241). -/
def opsVectorInt : List OpRow := [
  (0x0c0, fun f => .vadd f.hdr f.d f.a f.b (f.c.extractLsb' 5 3) f.m),
  (0x0c1, fun f => .vsub f.hdr f.d f.a f.b (f.c.extractLsb' 5 3) f.m),
  (0x0c2, fun f => .vmul f.hdr f.d f.a f.b (f.c.extractLsb' 5 3) f.m),
  (0x0c3, fun f => .vmulh f.hdr f.d f.a f.b (f.c.extractLsb' 5 3) (f.c.extractLsb' 0 1) f.m),
  (0x0c4, fun f => .vmad f.hdr f.d f.a f.b f.c (f.m.extractLsb' 9 3)),
  (0x0c5, fun f => .vand f.hdr f.d f.a f.b (f.c.extractLsb' 5 3) f.m),
  (0x0c6, fun f => .vor f.hdr f.d f.a f.b (f.c.extractLsb' 5 3) f.m),
  (0x0c7, fun f => .vxor f.hdr f.d f.a f.b (f.c.extractLsb' 5 3) f.m),
  (0x0c8, fun f => .vshl f.hdr f.d f.a f.b (f.c.extractLsb' 5 3) f.m),
  (0x0c9, fun f => .vshr f.hdr f.d f.a f.b (f.c.extractLsb' 5 3) f.m),
  (0x0ca, fun f => .vsra f.hdr f.d f.a f.b (f.c.extractLsb' 5 3) f.m),
  (0x0cb, fun f => .vmin f.hdr f.d f.a f.b (f.c.extractLsb' 5 3) (f.c.extractLsb' 0 1) f.m),
  (0x0cc, fun f => .vmax f.hdr f.d f.a f.b (f.c.extractLsb' 5 3) (f.c.extractLsb' 0 1) f.m),
  (0x0cd, fun f => .vabs f.hdr f.d f.a (f.c.extractLsb' 5 3) f.m),
  (0x0ce, fun f => .vcmp f.hdr (f.d.extractLsb' 0 3) f.a f.b (f.c.extractLsb' 5 3) (f.c.extractLsb' 1 4) (f.c.extractLsb' 0 1) f.m),
  (0x0cf, fun f => .vsel f.hdr f.d f.a f.b (f.c.extractLsb' 0 3) (f.m.extractLsb' 9 3)),
  (0x0d0, fun f => .vadds f.hdr f.d f.a f.b (f.c.extractLsb' 5 3) (f.c.extractLsb' 0 1) f.m),
  (0x0d1, fun f => .vsubs f.hdr f.d f.a f.b (f.c.extractLsb' 5 3) (f.c.extractLsb' 0 1) f.m),
  (0x0d2, fun f => .vdot4 f.hdr f.d f.a f.b f.c (f.m.extractLsb' 4 2)),
  (0x0d3, fun f => .vpopc f.hdr f.d f.a (f.c.extractLsb' 5 3) f.m),
  (0x0d4, fun f => .vclz f.hdr f.d f.a (f.c.extractLsb' 5 3) f.m),
  (0x0d5, fun f => .vmov f.hdr f.d f.a (f.c.extractLsb' 5 3) f.m)]

/-- Vector floating point (R242). -/
def opsVectorFp : List OpRow := [
  (0x100, fun f => .vfadd f.hdr f.d f.a f.b (f.c.extractLsb' 5 3) (f.c.extractLsb' 2 3) f.m),
  (0x101, fun f => .vfsub f.hdr f.d f.a f.b (f.c.extractLsb' 5 3) (f.c.extractLsb' 2 3) f.m),
  (0x102, fun f => .vfmul f.hdr f.d f.a f.b (f.c.extractLsb' 5 3) (f.c.extractLsb' 2 3) f.m),
  (0x103, fun f => .vfma f.hdr f.d f.a f.b f.c (f.m.extractLsb' 9 3) (f.m.extractLsb' 6 3)),
  (0x104, fun f => .vfms f.hdr f.d f.a f.b f.c (f.m.extractLsb' 9 3) (f.m.extractLsb' 6 3)),
  (0x105, fun f => .vfnma f.hdr f.d f.a f.b f.c (f.m.extractLsb' 9 3) (f.m.extractLsb' 6 3)),
  (0x106, fun f => .vfdiv f.hdr f.d f.a f.b (f.c.extractLsb' 5 3) (f.c.extractLsb' 2 3) f.m),
  (0x107, fun f => .vfsqrt f.hdr f.d f.a (f.c.extractLsb' 5 3) (f.c.extractLsb' 2 3) f.m),
  (0x108, fun f => .vfrec f.hdr f.d f.a (f.c.extractLsb' 2 3) f.m),
  (0x109, fun f => .vfrsq f.hdr f.d f.a (f.c.extractLsb' 2 3) f.m),
  (0x10a, fun f => .vfexp2 f.hdr f.d f.a (f.c.extractLsb' 2 3) f.m),
  (0x10b, fun f => .vflog2 f.hdr f.d f.a (f.c.extractLsb' 2 3) f.m),
  (0x10c, fun f => .vfmin f.hdr f.d f.a f.b (f.c.extractLsb' 5 3) f.m),
  (0x10d, fun f => .vfmax f.hdr f.d f.a f.b (f.c.extractLsb' 5 3) f.m),
  (0x10e, fun f => .vfcmp f.hdr (f.d.extractLsb' 0 3) f.a f.b (f.c.extractLsb' 5 3) (f.c.extractLsb' 1 4) f.m),
  (0x10f, fun f => .vfclass f.hdr f.d f.a (f.c.extractLsb' 5 3) f.m),
  (0x110, fun f => .vfcvt f.hdr f.d f.a (f.c.extractLsb' 5 3) (f.c.extractLsb' 2 3) (f.c.extractLsb' 0 2) f.m),
  (0x111, fun f => .vfnarrow f.hdr f.d f.a f.b f.c (f.m.extractLsb' 9 3) (f.m.extractLsb' 6 3) (f.m.extractLsb' 4 1)),
  (0x112, fun f => .vfwiden f.hdr f.d f.a f.b (f.c.extractLsb' 5 3) (f.c.extractLsb' 0 2) f.m),
  (0x113, fun f => .vfred f.hdr f.d f.a (f.c.extractLsb' 5 3) (f.c.extractLsb' 2 3) (f.c.extractLsb' 0 2) f.m),
  (0x114, fun f => .vfamax f.hdr f.d f.a (f.c.extractLsb' 5 3) f.m)]

/-- Lanes, predicates, gangs and formats (R248 to R263). -/
def opsLane : List OpRow := [
  (0x140, fun f => .vperm f.hdr f.d f.a f.b (f.c.extractLsb' 5 3) f.m),
  (0x141, fun f => .vrot f.hdr f.d f.a f.b (f.c.extractLsb' 5 3) f.m),
  (0x142, fun f => .vbfly f.hdr f.d f.a f.b (f.c.extractLsb' 5 3) f.m),
  (0x143, fun f => .vbcst f.hdr f.d f.a f.b (f.c.extractLsb' 5 3) f.m),
  (0x144, fun f => .vcomp f.hdr f.d f.a (f.b.extractLsb' 0 3) (f.c.extractLsb' 5 3) f.m),
  (0x145, fun f => .vxpnd f.hdr f.d f.a (f.b.extractLsb' 0 3) (f.c.extractLsb' 5 3) f.m),
  (0x146, fun f => .vsplat f.hdr f.d f.a (f.c.extractLsb' 5 3)),
  (0x147, fun f => .vext f.hdr f.d f.a f.b (f.c.extractLsb' 5 3) (f.c.extractLsb' 0 1) f.m),
  (0x148, fun f => .vins f.hdr f.d f.a f.b (f.c.extractLsb' 5 3)),
  (0x149, fun f => .qand f.hdr (f.d.extractLsb' 0 3) (f.a.extractLsb' 0 3) (f.b.extractLsb' 0 3)),
  (0x14a, fun f => .qor f.hdr (f.d.extractLsb' 0 3) (f.a.extractLsb' 0 3) (f.b.extractLsb' 0 3)),
  (0x14b, fun f => .qxor f.hdr (f.d.extractLsb' 0 3) (f.a.extractLsb' 0 3) (f.b.extractLsb' 0 3)),
  (0x14c, fun f => .qnot f.hdr (f.d.extractLsb' 0 3) (f.a.extractLsb' 0 3)),
  (0x14d, fun f => .qpop f.hdr f.d (f.a.extractLsb' 0 3)),
  (0x14e, fun f => .qfirst f.hdr f.d (f.a.extractLsb' 0 3)),
  (0x14f, fun f => if f.c.getLsbD 0 then .qmovX f.hdr f.d (f.a.extractLsb' 0 3) else .qmov f.hdr (f.d.extractLsb' 0 3) f.a),
  (0x150, fun f => .gany f.hdr (f.d.extractLsb' 0 3) (f.a.extractLsb' 0 3) (f.c.extractLsb' 0 1)),
  (0x151, fun f => .gall f.hdr (f.d.extractLsb' 0 3) (f.a.extractLsb' 0 3) (f.c.extractLsb' 0 1)),
  (0x152, fun f => .gbcast f.hdr f.d f.a),
  (0x153, fun f => .glane f.hdr f.d),
  (0x160, fun f => .dtld f.hdr f.a),
  (0x161, fun f => .dtrd f.hdr f.d f.a),
  (0x162, fun f => .dtdec f.hdr f.d f.a f.b (f.c.extractLsb' 5 3) (f.c.extractLsb' 2 3) (f.c.extractLsb' 0 1) f.m),
  (0x163, fun f => .dtenc f.hdr f.d f.a f.b f.c (f.m.extractLsb' 9 3) (f.m.extractLsb' 6 3) (f.m.extractLsb' 4 2)),
  (0x164, fun f => if f.m.getLsbD 4 then .mxqMem f.hdr f.d f.a f.b f.c (f.m.extractLsb' 9 3) (f.m.extractLsb' 6 3) else .mxq f.hdr f.d f.a f.b f.c (f.m.extractLsb' 9 3) (f.m.extractLsb' 6 3)),
  (0x165, fun f => .mxdq f.hdr f.d f.a f.b (f.c.extractLsb' 5 3) (f.c.extractLsb' 2 3) (f.c.extractLsb' 0 1) f.m),
  (0x166, fun f => .ufcnt f.hdr f.d),
  (0x167, fun f => .scsel f.hdr f.d f.a f.b f.c (f.m.extractLsb' 9 3))]

/-- Memory (R268, R275, R276). -/
def opsMemory : List OpRow := [
  (0x180, fun f => .ld f.hdr f.d f.a f.disp (f.c.extractLsb' 5 3) (f.c.extractLsb' 3 2) (f.c.extractLsb' 0 3)),
  (0x181, fun f => .st f.hdr f.d f.a f.disp (f.c.extractLsb' 5 3) (f.c.extractLsb' 3 2) (f.c.extractLsb' 0 3)),
  (0x182, fun f => .ldv f.hdr f.d f.a f.disp (f.c.extractLsb' 5 3) (f.c.extractLsb' 3 2)),
  (0x183, fun f => .stv f.hdr f.d f.a f.disp (f.c.extractLsb' 5 3) (f.c.extractLsb' 3 2)),
  (0x184, fun f => .ldvx f.hdr f.d f.a f.b (f.c.extractLsb' 5 3) (f.c.extractLsb' 3 2) (f.c.extractLsb' 0 3) f.m),
  (0x185, fun f => .stvx f.hdr f.d f.a f.b (f.c.extractLsb' 5 3) (f.c.extractLsb' 3 2) (f.c.extractLsb' 0 3) f.m),
  (0x186, fun f => .lds f.hdr f.d f.a f.b (f.c.extractLsb' 5 3) (f.c.extractLsb' 0 3) (f.m.extractLsb' 8 1)),
  (0x187, fun f => .stf f.hdr f.d f.a f.disp (f.c.extractLsb' 5 3) (f.c.extractLsb' 0 3)),
  (0x188, fun f => .feclr f.hdr f.a f.disp (f.c.extractLsb' 5 3) (f.c.extractLsb' 3 2)),
  (0x189, fun f => .ferd f.hdr f.d f.a f.disp (f.c.extractLsb' 5 3) (f.c.extractLsb' 3 2)),
  (0x1c0, fun f => .aadd f.hdr f.d f.a f.b (f.c.extractLsb' 5 3) (f.c.extractLsb' 3 2) (f.c.extractLsb' 0 3)),
  (0x1c1, fun f => .aand f.hdr f.d f.a f.b (f.c.extractLsb' 5 3) (f.c.extractLsb' 3 2) (f.c.extractLsb' 0 3)),
  (0x1c2, fun f => .aor f.hdr f.d f.a f.b (f.c.extractLsb' 5 3) (f.c.extractLsb' 3 2) (f.c.extractLsb' 0 3)),
  (0x1c3, fun f => .axor f.hdr f.d f.a f.b (f.c.extractLsb' 5 3) (f.c.extractLsb' 3 2) (f.c.extractLsb' 0 3)),
  (0x1c4, fun f => .amin f.hdr f.d f.a f.b (f.c.extractLsb' 5 3) (f.c.extractLsb' 3 2) (f.c.extractLsb' 0 3)),
  (0x1c5, fun f => .amax f.hdr f.d f.a f.b (f.c.extractLsb' 5 3) (f.c.extractLsb' 3 2) (f.c.extractLsb' 0 3)),
  (0x1c6, fun f => .aminu f.hdr f.d f.a f.b (f.c.extractLsb' 5 3) (f.c.extractLsb' 3 2) (f.c.extractLsb' 0 3)),
  (0x1c7, fun f => .amaxu f.hdr f.d f.a f.b (f.c.extractLsb' 5 3) (f.c.extractLsb' 3 2) (f.c.extractLsb' 0 3)),
  (0x1c8, fun f => .axchg f.hdr f.d f.a f.b (f.c.extractLsb' 5 3) (f.c.extractLsb' 3 2) (f.c.extractLsb' 0 3)),
  (0x1c9, fun f => .acas f.hdr f.d f.a f.b f.c (f.m.extractLsb' 9 3) (f.m.extractLsb' 7 2) (f.m.extractLsb' 4 3)),
  (0x1ca, fun f => .afadd f.hdr f.d f.a f.b (f.c.extractLsb' 5 3) (f.c.extractLsb' 3 2) (f.c.extractLsb' 0 3)),
  (0x1d0, fun f => .radd f.hdr f.d f.a f.disp (f.c.extractLsb' 5 3) (f.c.extractLsb' 3 2) (f.c.extractLsb' 0 3)),
  (0x1d1, fun f => .rand f.hdr f.d f.a f.disp (f.c.extractLsb' 5 3) (f.c.extractLsb' 3 2) (f.c.extractLsb' 0 3)),
  (0x1d2, fun f => .rior f.hdr f.d f.a f.disp (f.c.extractLsb' 5 3) (f.c.extractLsb' 3 2) (f.c.extractLsb' 0 3)),
  (0x1d3, fun f => .rxor f.hdr f.d f.a f.disp (f.c.extractLsb' 5 3) (f.c.extractLsb' 3 2) (f.c.extractLsb' 0 3)),
  (0x1d4, fun f => .rmin f.hdr f.d f.a f.disp (f.c.extractLsb' 5 3) (f.c.extractLsb' 3 2) (f.c.extractLsb' 0 3)),
  (0x1d5, fun f => .rmax f.hdr f.d f.a f.disp (f.c.extractLsb' 5 3) (f.c.extractLsb' 3 2) (f.c.extractLsb' 0 3)),
  (0x1d6, fun f => .rfadd f.hdr f.d f.a f.disp (f.c.extractLsb' 5 3) (f.c.extractLsb' 3 2) (f.c.extractLsb' 0 3))]

/-- Ordering and waiting (R284). -/
def opsWait : List OpRow := [
  (0x1e0, fun f => .fence f.hdr f.d f.b f.c (f.m.extractLsb' 9 3) (f.m.extractLsb' 8 1)),
  (0x1e1, fun f => .barr f.hdr f.d (f.a.extractLsb' 0 2)),
  (0x1e2, fun f => .bwait f.hdr f.d (f.a.extractLsb' 0 2) f.b (f.m.extractLsb' 8 1)),
  (0x1e3, fun f => .bwd f.hdr f.d (f.a.extractLsb' 0 2)),
  (0x1e4, fun f => .bstat f.hdr f.d (f.a.extractLsb' 0 2)),
  (0x1e5, fun f => .send f.hdr f.a f.b (f.c.extractLsb' 5 3) f.m),
  (0x1e6, fun f => .recv f.hdr f.d f.a f.b (f.m.extractLsb' 8 1)),
  (0x1e7, fun f => .qstat f.hdr f.d),
  (0x1e8, fun f => .waitseq f.hdr f.d f.a f.b (f.m.extractLsb' 8 1)),
  (0x1e9, fun f => .xplan f.hdr f.a),
  (0x1ea, fun f => .sstep f.hdr f.a f.b (f.c.extractLsb' 0 1) (f.m.extractLsb' 8 1)),
  (0x1eb, fun f => .bcfg f.hdr f.d (f.a.extractLsb' 0 2) f.b (f.c.extractLsb' 0 1))]

/-- Chains, palette, residencies, accumulators (R302). -/
def opsEngine : List OpRow := [
  (0x200, fun f => .append f.hdr f.d f.a f.b (f.c.extractLsb' 0 1)),
  (0x201, fun f => if f.c.getLsbD 0 then .chainUnbind f.hdr f.d f.a else .chain f.hdr f.d f.a),
  (0x202, fun f => .seqrd f.hdr f.d f.a (f.c.extractLsb' 0 2)),
  (0x203, fun f => .claim f.hdr f.d (f.m.extractLsb' 0 7)),
  (0x204, fun f => .rels f.hdr f.a),
  (0x205, fun f => .tshape f.hdr f.a f.b),
  (0x206, fun f => .trow f.hdr f.d f.a f.b),
  (0x207, fun f => .tcol f.hdr f.d f.a f.b),
  (0x208, fun f => .twrow f.hdr f.a f.b f.c),
  (0x209, fun f => .twcol f.hdr f.a f.b f.c),
  (0x20a, fun f => .wralloc f.hdr f.d f.a),
  (0x20b, fun f => .wrpin f.hdr f.a),
  (0x20c, fun f => .wrunpin f.hdr f.a),
  (0x20d, fun f => .wrrevoke f.hdr f.a),
  (0x20e, fun f => .wrquery f.hdr f.d f.a),
  (0x20f, fun f => .laclr f.hdr f.a),
  (0x210, fun f => .laadd f.hdr f.a f.b (f.c.extractLsb' 0 1)),
  (0x211, fun f => .ladot f.hdr f.a f.b f.c),
  (0x212, fun f => .larnd f.hdr f.d f.a (f.c.extractLsb' 5 3) (f.c.extractLsb' 2 3)),
  (0x213, fun f => .lamrg f.hdr f.a f.b),
  (0x214, fun f => if f.c.getLsbD 0 then .laflgClr f.hdr f.d f.a else .laflg f.hdr f.d f.a)]

/-- Gangs, migration and system (R251, R329, R330). -/
def opsSystem : List OpRow := [
  (0x240, fun f => .fuse f.hdr f.d (f.m.extractLsb' 0 4)),
  (0x241, fun f => .split f.hdr (f.d.extractLsb' 0 2)),
  (0x242, fun f => .migpt f.hdr f.d),
  (0x243, fun f => .lcid f.hdr f.d (f.c.extractLsb' 0 2)),
  (0x300, fun f => .csrr f.hdr f.d (f.imm20.extractLsb' 0 16)),
  (0x301, fun f => .csrw f.hdr f.a (f.imm20.extractLsb' 0 16)),
  (0x302, fun f => .csrx f.hdr f.d f.a (f.imm20.extractLsb' 0 16)),
  (0x303, fun f => if f.c.getLsbD 1 then .tlbinvAllP f.hdr f.a f.b else if f.c.getLsbD 0 then .tlbinvAll f.hdr f.a f.b else .tlbinv f.hdr f.a f.b),
  (0x304, fun f => .halt f.hdr ),
  (0x305, fun f => .keyz f.hdr f.d f.a),
  (0x306, fun f => .skim f.hdr f.d f.a),
  (0x307, fun f => .attest f.hdr f.d f.a f.b),
  (0x308, fun f => .tkrd f.hdr f.d),
  (0x309, fun f => .tkgive f.hdr f.d f.a f.b),
  (0x30a, fun f => .quar f.hdr f.d f.a),
  (0x30b, fun f => .mcread f.hdr f.d f.a),
  (0x30c, fun f => .pswitch f.hdr f.d f.a f.b),
  (0x30d, fun f => .fbctl f.hdr f.d f.a),
  (0x30e, fun f => .ctxld f.hdr f.d f.a)]

/-- The opcode map (R182). -/
def opTable : List OpRow :=
  opsSequencing ++ opsScalarInt ++ opsScalarFp ++ opsVectorInt ++ opsVectorFp ++ opsLane ++ opsMemory ++ opsWait ++ opsEngine ++ opsSystem

/-- The row of an opcode. -/
def findOp (n : Nat) : List OpRow → Option (Fields → Instr)
  | [] => none
  | (k, g) :: r => if k = n then some g else findOp n r

/-- The encoding of an instruction word (R203 to R336); `none` for engine commands and events. -/
def toFields : Instr → Option Fields
  | .nop h => some (mkFields h 0x000 0 0 0 0 0)
  | .tgt h t imm => some (mkImm28 h 0x001 (0#6 ++ t) 0 imm)
  | .tgts h t a => some (mkFields h 0x002 (0#6 ++ t) a 0 0 0)
  | .lnk h => some (mkFields h 0x003 0 0 0 0 0)
  | .loop h q => some (mkFields h 0x004 (0#5 ++ q) 0 0 0 0)
  | .loopSet h a => some (mkFields h 0x004 0 a 0 1 0)
  | .repb h a stride mask => some (mkFields h 0x005 0 a 0 0 (0#4 ++ stride ++ mask))
  | .start h a hn => some (mkFields h 0x006 0 a 0 0 (0#8 ++ hn))
  | .join h d b wall => some (mkFields h 0x007 d 0 b 0 (0#3 ++ wall ++ 0#8))
  | .hkill h a => some (mkFields h 0x008 0 a 0 0 0)
  | .ids h d k => some (mkFields h 0x009 d 0 0 (0#6 ++ k) 0)
  | .clk h d => some (mkFields h 0x00a d 0 0 0 0)
  | .sleep h d a b wall => some (mkFields h 0x00b d a b 0 (0#3 ++ wall ++ 0#8))
  | .mark h value => some (mkImm28 h 0x00c 0 0 (0#8 ++ value))
  | .win h a => some (mkFields h 0x020 0 a 0 0 0)
  | .wins h delta limit => some (mkImm28 h 0x021 0 0 (0#8 ++ delta ++ limit))
  | .wswap h a => some (mkFields h 0x022 0 a 0 0 0)
  | .wrd h d => some (mkFields h 0x023 d 0 0 0 0)
  | .wdrain h d b wall => some (mkFields h 0x024 d 0 b 0 (0#3 ++ wall ++ 0#8))
  | .tdel h d a => some (mkFields h 0x025 d a 0 0 0)
  | .tret h a => some (mkFields h 0x026 0 a 0 0 0)
  | .env h a => some (mkFields h 0x027 0 a 0 0 0)
  | .snagw h a b => some (mkFields h 0x028 0 a b 0 0)
  | .snagx h a b => some (mkFields h 0x029 0 a b 0 0)
  | .add h d a b => some (mkFields h 0x040 d a b 0 0)
  | .sub h d a b => some (mkFields h 0x041 d a b 0 0)
  | .addi h d a imm => some (mkImm28 h 0x042 d a imm)
  | .mul h d a b => some (mkFields h 0x043 d a b 0 0)
  | .mulh h d a b => some (mkFields h 0x044 d a b 0 0)
  | .mulhu h d a b => some (mkFields h 0x045 d a b 0 0)
  | .div h d a b => some (mkFields h 0x046 d a b 0 0)
  | .divu h d a b => some (mkFields h 0x047 d a b 0 0)
  | .rem h d a b => some (mkFields h 0x048 d a b 0 0)
  | .remu h d a b => some (mkFields h 0x049 d a b 0 0)
  | .and h d a b => some (mkFields h 0x04a d a b 0 0)
  | .or h d a b => some (mkFields h 0x04b d a b 0 0)
  | .xor h d a b => some (mkFields h 0x04c d a b 0 0)
  | .andn h d a b => some (mkFields h 0x04d d a b 0 0)
  | .shl h d a b => some (mkFields h 0x04e d a b 0 0)
  | .shr h d a b => some (mkFields h 0x04f d a b 0 0)
  | .sra h d a b => some (mkFields h 0x050 d a b 0 0)
  | .rot h d a b => some (mkFields h 0x051 d a b 0 0)
  | .clz h d a => some (mkFields h 0x052 d a 0 0 0)
  | .ctz h d a => some (mkFields h 0x053 d a 0 0 0)
  | .popc h d a => some (mkFields h 0x054 d a 0 0 0)
  | .min h d a b => some (mkFields h 0x055 d a b 0 0)
  | .max h d a b => some (mkFields h 0x056 d a b 0 0)
  | .minu h d a b => some (mkFields h 0x057 d a b 0 0)
  | .maxu h d a b => some (mkFields h 0x058 d a b 0 0)
  | .sel h d a b qc => some (mkFields h 0x059 d a b (0#5 ++ qc) 0)
  | .scmp h q a b cc u => some (mkFields h 0x05a (0#5 ++ q) a b (0#3 ++ cc ++ u) 0)
  | .scmps h d a b cc u => some (mkFields h 0x05b d a b (0#3 ++ cc ++ u) 0)
  | .li h d imm => some (mkImm28 h 0x05c d 0 imm)
  | .lih h d imm36 => some (mkImm28 h 0x05d d (imm36.extractLsb' 28 8) (imm36.extractLsb' 0 28))
  | .agen h d a b sh disp => some (mkImm20 h 0x05e d a b (sh ++ disp))
  | .bfx h d a pos len => some (mkImm28 h 0x05f d a (0#15 ++ len ++ pos))
  | .bfi h d a pos len => some (mkImm28 h 0x060 d a (0#15 ++ len ++ pos))
  | .sext h d a n => some (mkImm28 h 0x061 d a (0#21 ++ n))
  | .zext h d a n => some (mkImm28 h 0x062 d a (0#21 ++ n))
  | .mov h d a => some (mkFields h 0x063 d a 0 0 0)
  | .fadd h d a b ty rm => some (mkFields h 0x080 d a b (ty ++ rm ++ 0#2) 0)
  | .fsub h d a b ty rm => some (mkFields h 0x081 d a b (ty ++ rm ++ 0#2) 0)
  | .fmul h d a b ty rm => some (mkFields h 0x082 d a b (ty ++ rm ++ 0#2) 0)
  | .ffma h d a b c ty rm => some (mkFields h 0x083 d a b c (ty ++ rm ++ 0#2 ++ 0#4))
  | .fdiv h d a b ty rm => some (mkFields h 0x084 d a b (ty ++ rm ++ 0#2) 0)
  | .fsqrt h d a ty rm => some (mkFields h 0x085 d a 0 (ty ++ rm ++ 0#2) 0)
  | .fmin h d a b ty => some (mkFields h 0x086 d a b (ty ++ 0#3 ++ 0#2) 0)
  | .fmax h d a b ty => some (mkFields h 0x087 d a b (ty ++ 0#3 ++ 0#2) 0)
  | .fcmp h q a b ty cc => some (mkFields h 0x088 (0#5 ++ q) a b (ty ++ cc ++ 0#1) 0)
  | .fclass h d a ty => some (mkFields h 0x089 d a 0 (ty ++ 0#3 ++ 0#2) 0)
  | .fcvt h d a ty rm fl => some (mkFields h 0x08a d a 0 (ty ++ rm ++ fl) 0)
  | .fcvti h d a ty rm fl => some (mkFields h 0x08b d a 0 (ty ++ rm ++ fl) 0)
  | .vadd h d a b ty m => some (mkFields h 0x0c0 d a b (ty ++ 0#3 ++ 0#2) m)
  | .vsub h d a b ty m => some (mkFields h 0x0c1 d a b (ty ++ 0#3 ++ 0#2) m)
  | .vmul h d a b ty m => some (mkFields h 0x0c2 d a b (ty ++ 0#3 ++ 0#2) m)
  | .vmulh h d a b ty u m => some (mkFields h 0x0c3 d a b (ty ++ 0#3 ++ 0#1 ++ u) m)
  | .vmad h d a b c ty => some (mkFields h 0x0c4 d a b c (ty ++ 0#3 ++ 0#2 ++ 0#4))
  | .vand h d a b ty m => some (mkFields h 0x0c5 d a b (ty ++ 0#3 ++ 0#2) m)
  | .vor h d a b ty m => some (mkFields h 0x0c6 d a b (ty ++ 0#3 ++ 0#2) m)
  | .vxor h d a b ty m => some (mkFields h 0x0c7 d a b (ty ++ 0#3 ++ 0#2) m)
  | .vshl h d a b ty m => some (mkFields h 0x0c8 d a b (ty ++ 0#3 ++ 0#2) m)
  | .vshr h d a b ty m => some (mkFields h 0x0c9 d a b (ty ++ 0#3 ++ 0#2) m)
  | .vsra h d a b ty m => some (mkFields h 0x0ca d a b (ty ++ 0#3 ++ 0#2) m)
  | .vmin h d a b ty u m => some (mkFields h 0x0cb d a b (ty ++ 0#3 ++ 0#1 ++ u) m)
  | .vmax h d a b ty u m => some (mkFields h 0x0cc d a b (ty ++ 0#3 ++ 0#1 ++ u) m)
  | .vabs h d a ty m => some (mkFields h 0x0cd d a 0 (ty ++ 0#3 ++ 0#2) m)
  | .vcmp h q a b ty cc u m => some (mkFields h 0x0ce (0#5 ++ q) a b (ty ++ cc ++ u) m)
  | .vsel h d a b qc ty => some (mkFields h 0x0cf d a b (0#5 ++ qc) (ty ++ 0#3 ++ 0#2 ++ 0#4))
  | .vadds h d a b ty u m => some (mkFields h 0x0d0 d a b (ty ++ 0#3 ++ 0#1 ++ u) m)
  | .vsubs h d a b ty u m => some (mkFields h 0x0d1 d a b (ty ++ 0#3 ++ 0#1 ++ u) m)
  | .vdot4 h d a b c fl => some (mkFields h 0x0d2 d a b c (0#3 ++ 0#3 ++ fl ++ 0#4))
  | .vpopc h d a ty m => some (mkFields h 0x0d3 d a 0 (ty ++ 0#3 ++ 0#2) m)
  | .vclz h d a ty m => some (mkFields h 0x0d4 d a 0 (ty ++ 0#3 ++ 0#2) m)
  | .vmov h d a ty m => some (mkFields h 0x0d5 d a 0 (ty ++ 0#3 ++ 0#2) m)
  | .vfadd h d a b ty rm m => some (mkFields h 0x100 d a b (ty ++ rm ++ 0#2) m)
  | .vfsub h d a b ty rm m => some (mkFields h 0x101 d a b (ty ++ rm ++ 0#2) m)
  | .vfmul h d a b ty rm m => some (mkFields h 0x102 d a b (ty ++ rm ++ 0#2) m)
  | .vfma h d a b c ty rm => some (mkFields h 0x103 d a b c (ty ++ rm ++ 0#2 ++ 0#4))
  | .vfms h d a b c ty rm => some (mkFields h 0x104 d a b c (ty ++ rm ++ 0#2 ++ 0#4))
  | .vfnma h d a b c ty rm => some (mkFields h 0x105 d a b c (ty ++ rm ++ 0#2 ++ 0#4))
  | .vfdiv h d a b ty rm m => some (mkFields h 0x106 d a b (ty ++ rm ++ 0#2) m)
  | .vfsqrt h d a ty rm m => some (mkFields h 0x107 d a 0 (ty ++ rm ++ 0#2) m)
  | .vfrec h d a rm m => some (mkFields h 0x108 d a 0 (0#3 ++ rm ++ 0#2) m)
  | .vfrsq h d a rm m => some (mkFields h 0x109 d a 0 (0#3 ++ rm ++ 0#2) m)
  | .vfexp2 h d a rm m => some (mkFields h 0x10a d a 0 (0#3 ++ rm ++ 0#2) m)
  | .vflog2 h d a rm m => some (mkFields h 0x10b d a 0 (0#3 ++ rm ++ 0#2) m)
  | .vfmin h d a b ty m => some (mkFields h 0x10c d a b (ty ++ 0#3 ++ 0#2) m)
  | .vfmax h d a b ty m => some (mkFields h 0x10d d a b (ty ++ 0#3 ++ 0#2) m)
  | .vfcmp h q a b ty cc m => some (mkFields h 0x10e (0#5 ++ q) a b (ty ++ cc ++ 0#1) m)
  | .vfclass h d a ty m => some (mkFields h 0x10f d a 0 (ty ++ 0#3 ++ 0#2) m)
  | .vfcvt h d a ty rm fl m => some (mkFields h 0x110 d a 0 (ty ++ rm ++ fl) m)
  | .vfnarrow h d a b c ty rm u => some (mkFields h 0x111 d a b c (ty ++ rm ++ 0#1 ++ u ++ 0#4))
  | .vfwiden h d a b ty fl m => some (mkFields h 0x112 d a b (ty ++ 0#3 ++ fl) m)
  | .vfred h d a ty rm fl m => some (mkFields h 0x113 d a 0 (ty ++ rm ++ fl) m)
  | .vfamax h d a ty m => some (mkFields h 0x114 d a 0 (ty ++ 0#3 ++ 0#2) m)
  | .vperm h d a b ty m => some (mkFields h 0x140 d a b (ty ++ 0#3 ++ 0#2) m)
  | .vrot h d a b ty m => some (mkFields h 0x141 d a b (ty ++ 0#3 ++ 0#2) m)
  | .vbfly h d a b ty m => some (mkFields h 0x142 d a b (ty ++ 0#3 ++ 0#2) m)
  | .vbcst h d a b ty m => some (mkFields h 0x143 d a b (ty ++ 0#3 ++ 0#2) m)
  | .vcomp h d a qb ty m => some (mkFields h 0x144 d a (0#5 ++ qb) (ty ++ 0#3 ++ 0#2) m)
  | .vxpnd h d a qb ty m => some (mkFields h 0x145 d a (0#5 ++ qb) (ty ++ 0#3 ++ 0#2) m)
  | .vsplat h d a ty => some (mkFields h 0x146 d a 0 (ty ++ 0#3 ++ 0#2) 0)
  | .vext h d a b ty u m => some (mkFields h 0x147 d a b (ty ++ 0#3 ++ 0#1 ++ u) m)
  | .vins h d a b ty => some (mkFields h 0x148 d a b (ty ++ 0#3 ++ 0#2) 0)
  | .qand h q qa qb => some (mkFields h 0x149 (0#5 ++ q) (0#5 ++ qa) (0#5 ++ qb) 0 0)
  | .qor h q qa qb => some (mkFields h 0x14a (0#5 ++ q) (0#5 ++ qa) (0#5 ++ qb) 0 0)
  | .qxor h q qa qb => some (mkFields h 0x14b (0#5 ++ q) (0#5 ++ qa) (0#5 ++ qb) 0 0)
  | .qnot h q qa => some (mkFields h 0x14c (0#5 ++ q) (0#5 ++ qa) 0 0 0)
  | .qpop h d qa => some (mkFields h 0x14d d (0#5 ++ qa) 0 0 0)
  | .qfirst h d qa => some (mkFields h 0x14e d (0#5 ++ qa) 0 0 0)
  | .qmov h q a => some (mkFields h 0x14f (0#5 ++ q) a 0 0 0)
  | .qmovX h d qa => some (mkFields h 0x14f d (0#5 ++ qa) 0 1 0)
  | .gany h q qa u => some (mkFields h 0x150 (0#5 ++ q) (0#5 ++ qa) 0 (0#3 ++ 0#3 ++ 0#1 ++ u) 0)
  | .gall h q qa u => some (mkFields h 0x151 (0#5 ++ q) (0#5 ++ qa) 0 (0#3 ++ 0#3 ++ 0#1 ++ u) 0)
  | .gbcast h d a => some (mkFields h 0x152 d a 0 0 0)
  | .glane h d => some (mkFields h 0x153 d 0 0 0 0)
  | .dtld h a => some (mkFields h 0x160 0 a 0 0 0)
  | .dtrd h d a => some (mkFields h 0x161 d a 0 0 0)
  | .dtdec h d a b ty rm u m => some (mkFields h 0x162 d a b (ty ++ rm ++ 0#1 ++ u) m)
  | .dtenc h d a b c ty rm fl => some (mkFields h 0x163 d a b c (ty ++ rm ++ fl ++ 0#4))
  | .mxq h d a b c ty rm => some (mkFields h 0x164 d a b c (ty ++ rm ++ 0#2 ++ 0#4))
  | .mxqMem h d a b c ty rm => some (mkFields h 0x164 d a b c (ty ++ rm ++ 1#2 ++ 0#4))
  | .mxdq h d a b ty rm u m => some (mkFields h 0x165 d a b (ty ++ rm ++ 0#1 ++ u) m)
  | .ufcnt h d => some (mkFields h 0x166 d 0 0 0 0)
  | .scsel h d a b c ty => some (mkFields h 0x167 d a b c (ty ++ 0#3 ++ 0#2 ++ 0#4))
  | .ld h d a disp scope ord sz => some (mkFields h 0x180 d a (disp.extractLsb' 12 8) (scope ++ ord ++ sz) (disp.extractLsb' 0 12))
  | .st h d a disp scope ord sz => some (mkFields h 0x181 d a (disp.extractLsb' 12 8) (scope ++ ord ++ sz) (disp.extractLsb' 0 12))
  | .ldv h d a disp scope ord => some (mkFields h 0x182 d a (disp.extractLsb' 12 8) (scope ++ ord ++ 0#3) (disp.extractLsb' 0 12))
  | .stv h d a disp scope ord => some (mkFields h 0x183 d a (disp.extractLsb' 12 8) (scope ++ ord ++ 0#3) (disp.extractLsb' 0 12))
  | .ldvx h d a b scope ord sz m => some (mkFields h 0x184 d a b (scope ++ ord ++ sz) m)
  | .stvx h d a b scope ord sz m => some (mkFields h 0x185 d a b (scope ++ ord ++ sz) m)
  | .lds h d a b scope sz wall => some (mkFields h 0x186 d a b (scope ++ 0#2 ++ sz) (0#3 ++ wall ++ 0#8))
  | .stf h d a disp scope sz => some (mkFields h 0x187 d a (disp.extractLsb' 12 8) (scope ++ 0#2 ++ sz) (disp.extractLsb' 0 12))
  | .feclr h a disp scope ord => some (mkFields h 0x188 0 a (disp.extractLsb' 12 8) (scope ++ ord ++ 0#3) (disp.extractLsb' 0 12))
  | .ferd h d a disp scope ord => some (mkFields h 0x189 d a (disp.extractLsb' 12 8) (scope ++ ord ++ 0#3) (disp.extractLsb' 0 12))
  | .aadd h d a b scope ord sz => some (mkFields h 0x1c0 d a b (scope ++ ord ++ sz) 0)
  | .aand h d a b scope ord sz => some (mkFields h 0x1c1 d a b (scope ++ ord ++ sz) 0)
  | .aor h d a b scope ord sz => some (mkFields h 0x1c2 d a b (scope ++ ord ++ sz) 0)
  | .axor h d a b scope ord sz => some (mkFields h 0x1c3 d a b (scope ++ ord ++ sz) 0)
  | .amin h d a b scope ord sz => some (mkFields h 0x1c4 d a b (scope ++ ord ++ sz) 0)
  | .amax h d a b scope ord sz => some (mkFields h 0x1c5 d a b (scope ++ ord ++ sz) 0)
  | .aminu h d a b scope ord sz => some (mkFields h 0x1c6 d a b (scope ++ ord ++ sz) 0)
  | .amaxu h d a b scope ord sz => some (mkFields h 0x1c7 d a b (scope ++ ord ++ sz) 0)
  | .axchg h d a b scope ord sz => some (mkFields h 0x1c8 d a b (scope ++ ord ++ sz) 0)
  | .acas h d a b c scope ord sz => some (mkFields h 0x1c9 d a b c (scope ++ ord ++ sz ++ 0#4))
  | .afadd h d a b scope ord sz => some (mkFields h 0x1ca d a b (scope ++ ord ++ sz) 0)
  | .radd h d a disp scope ord sz => some (mkFields h 0x1d0 d a (disp.extractLsb' 12 8) (scope ++ ord ++ sz) (disp.extractLsb' 0 12))
  | .rand h d a disp scope ord sz => some (mkFields h 0x1d1 d a (disp.extractLsb' 12 8) (scope ++ ord ++ sz) (disp.extractLsb' 0 12))
  | .rior h d a disp scope ord sz => some (mkFields h 0x1d2 d a (disp.extractLsb' 12 8) (scope ++ ord ++ sz) (disp.extractLsb' 0 12))
  | .rxor h d a disp scope ord sz => some (mkFields h 0x1d3 d a (disp.extractLsb' 12 8) (scope ++ ord ++ sz) (disp.extractLsb' 0 12))
  | .rmin h d a disp scope ord sz => some (mkFields h 0x1d4 d a (disp.extractLsb' 12 8) (scope ++ ord ++ sz) (disp.extractLsb' 0 12))
  | .rmax h d a disp scope ord sz => some (mkFields h 0x1d5 d a (disp.extractLsb' 12 8) (scope ++ ord ++ sz) (disp.extractLsb' 0 12))
  | .rfadd h d a disp scope ord sz => some (mkFields h 0x1d6 d a (disp.extractLsb' 12 8) (scope ++ ord ++ sz) (disp.extractLsb' 0 12))
  | .fence h d b classes scope wall => some (mkFields h 0x1e0 d 0 b classes (scope ++ wall ++ 0#8))
  | .barr h d g => some (mkFields h 0x1e1 d (0#6 ++ g) 0 0 0)
  | .bwait h d g b wall => some (mkFields h 0x1e2 d (0#6 ++ g) b 0 (0#3 ++ wall ++ 0#8))
  | .bwd h d g => some (mkFields h 0x1e3 d (0#6 ++ g) 0 0 0)
  | .bstat h d g => some (mkFields h 0x1e4 d (0#6 ++ g) 0 0 0)
  | .send h a b scope m => some (mkFields h 0x1e5 0 a b (scope ++ 0#2 ++ 0#3) m)
  | .recv h d a b wall => some (mkFields h 0x1e6 d a b 0 (0#3 ++ wall ++ 0#8))
  | .qstat h d => some (mkFields h 0x1e7 d 0 0 0 0)
  | .waitseq h d a b wall => some (mkFields h 0x1e8 d a b 0 (0#3 ++ wall ++ 0#8))
  | .xplan h a => some (mkFields h 0x1e9 0 a 0 0 0)
  | .sstep h a b u wall => some (mkFields h 0x1ea 0 a b (0#3 ++ 0#3 ++ 0#1 ++ u) (0#3 ++ wall ++ 0#8))
  | .bcfg h d g b u => some (mkFields h 0x1eb d (0#6 ++ g) b (0#3 ++ 0#3 ++ 0#1 ++ u) 0)
  | .append h d a b u => some (mkFields h 0x200 d a b (0#3 ++ 0#3 ++ 0#1 ++ u) 0)
  | .chain h d a => some (mkFields h 0x201 d a 0 0 0)
  | .chainUnbind h d a => some (mkFields h 0x201 d a 0 1 0)
  | .seqrd h d a k => some (mkFields h 0x202 d a 0 (0#6 ++ k) 0)
  | .claim h d n => some (mkImm28 h 0x203 d 0 (0#21 ++ n))
  | .rels h a => some (mkFields h 0x204 0 a 0 0 0)
  | .tshape h a b => some (mkFields h 0x205 0 a b 0 0)
  | .trow h d a b => some (mkFields h 0x206 d a b 0 0)
  | .tcol h d a b => some (mkFields h 0x207 d a b 0 0)
  | .twrow h a b c => some (mkFields h 0x208 0 a b c 0)
  | .twcol h a b c => some (mkFields h 0x209 0 a b c 0)
  | .wralloc h d a => some (mkFields h 0x20a d a 0 0 0)
  | .wrpin h a => some (mkFields h 0x20b 0 a 0 0 0)
  | .wrunpin h a => some (mkFields h 0x20c 0 a 0 0 0)
  | .wrrevoke h a => some (mkFields h 0x20d 0 a 0 0 0)
  | .wrquery h d a => some (mkFields h 0x20e d a 0 0 0)
  | .laclr h a => some (mkFields h 0x20f 0 a 0 0 0)
  | .laadd h a b u => some (mkFields h 0x210 0 a b (0#3 ++ 0#3 ++ 0#1 ++ u) 0)
  | .ladot h a b c => some (mkFields h 0x211 0 a b c 0)
  | .larnd h d a ty rm => some (mkFields h 0x212 d a 0 (ty ++ rm ++ 0#2) 0)
  | .lamrg h a b => some (mkFields h 0x213 0 a b 0 0)
  | .laflg h d a => some (mkFields h 0x214 d a 0 0 0)
  | .laflgClr h d a => some (mkFields h 0x214 d a 0 1 0)
  | .fuse h d gs => some (mkFields h 0x240 d 0 0 0 (0#8 ++ gs))
  | .split h t => some (mkFields h 0x241 (0#6 ++ t) 0 0 0 0)
  | .migpt h d => some (mkFields h 0x242 d 0 0 0 0)
  | .lcid h d k => some (mkFields h 0x243 d 0 0 (0#6 ++ k) 0)
  | .csrr h d csr => some (mkImm28 h 0x300 d 0 (0#12 ++ csr))
  | .csrw h a csr => some (mkImm28 h 0x301 0 a (0#12 ++ csr))
  | .csrx h d a csr => some (mkImm28 h 0x302 d a (0#12 ++ csr))
  | .tlbinv h a b => some (mkFields h 0x303 0 a b 0 0)
  | .tlbinvAll h a b => some (mkFields h 0x303 0 a b 1 0)
  | .tlbinvAllP h a b => some (mkFields h 0x303 0 a b 3 0)
  | .halt h => some (mkFields h 0x304 0 0 0 0 0)
  | .keyz h d a => some (mkFields h 0x305 d a 0 0 0)
  | .skim h d a => some (mkFields h 0x306 d a 0 0 0)
  | .attest h d a b => some (mkFields h 0x307 d a b 0 0)
  | .tkrd h d => some (mkFields h 0x308 d 0 0 0 0)
  | .tkgive h d a b => some (mkFields h 0x309 d a b 0 0)
  | .quar h d a => some (mkFields h 0x30a d a 0 0 0)
  | .mcread h d a => some (mkFields h 0x30b d a 0 0 0)
  | .pswitch h d a b => some (mkFields h 0x30c d a b 0 0)
  | .fbctl h d a => some (mkFields h 0x30d d a 0 0 0)
  | .ctxld h d a => some (mkFields h 0x30e d a 0 0 0)
  | .mmt8t8 _ => none
  | .mmst8t8 _ => none
  | .mmt8bf _ => none
  | .mmst8bf _ => none
  | .mmbfbf _ => none
  | .mmsbfbf _ => none
  | .mmf16f16 _ => none
  | .mmsf16f16 _ => none
  | .mmi8i8 _ => none
  | .mmsi8i8 _ => none
  | .mmt4t8 _ => none
  | .mmst4t8 _ => none
  | .mmt4t4 _ => none
  | .mmst4t4 _ => none
  | .mmx8x8 _ => none
  | .mmsx8x8 _ => none
  | .mmx4x8 _ => none
  | .mmsx4x8 _ => none
  | .mmx4x4 _ => none
  | .mmsx4x4 _ => none
  | .wload _ => none
  | .mxsig _ => none
  | .cpy _ => none
  | .cpys _ => none
  | .cpyg _ => none
  | .cpyf _ => none
  | .cpymx _ => none
  | .sig _ => none
  | .cred _ => none
  | .credx _ => none
  | .cgath _ => none
  | .cbcast _ => none
  | .engineCommandComplete _ _ => none
  | .registerWrite _ _ _ _ => none
  | .devQcfgWrite _ _ _ => none
  | .devQheadWrite _ _ _ => none
  | .devQtailWrite _ _ _ => none
  | .wakeComplete _ => none
  | .wakeFailure _ => none
  | .packetFetch _ => none
  | .queueFetchTimeout _ => none
  | .launch _ => none
  | .copy _ => none
  | .signal _ => none
  | .wait _ => none
  | .waitPacketExpiry _ => none
  | .contextCreate _ _ _ => none
  | .contextDestroy _ => none
  | .migrate _ _ => none
  | .teardown _ => none
  | .instancePlacement _ _ => none
  | .instanceCompletion _ => none
  | .completionRecord _ => none
  | .instructionRefill _ _ => none
  | .ownerClaim _ => none
  | .ownerHandover _ _ => none
  | .ownerRelease _ => none
  | .ownerLinkLoss => none
  | .debugCancel _ => none
  | .debugStopRequest _ _ _ => none
  | .debugResume _ => none
  | .debugStep _ => none
  | .debugStop => none
  | .devDbgwinWrite _ _ => none
  | .dieBmaskWrite _ _ _ _ _ _ => none
  | .helperResume _ _ => none
  | .inFieldTest _ => none
  | .inFieldTestDone _ _ => none
  | .quarantineClear _ _ => none
  | .bankRebuild _ _ _ => none
  | .rebuildStripe _ _ => none
  | .exchangeStart _ => none
  | .exchangeRecordIssue _ => none
  | .exchangeReceive _ => none
  | .computeEntry _ => none
  | .barrierRelease _ _ => none
  | .waitCompletion _ _ => none
  | .waitExpiry _ _ => none
  | .fuseWindowTimeout _ _ => none
  | .messageDelivery _ => none
  | .pageWalk _ _ _ => none
  | .snagTimeout _ _ => none
  | .asyncTrapEntry _ => none
  | .migrationCommit _ => none
  | .gangSwitch _ => none
  | .partitionResume _ => none
  | .machineCheck _ _ _ _ _ _ => none
  | .poisonConsumption _ _ _ _ => none
  | .closureCheck _ => none
  | .closureTimeout _ => none
  | .thermalSample _ _ => none
  | .t4Trip _ => none
  | .tokenPassing => none
  | .tokenAdd => none
  | .ballastPass _ _ => none
  | .fieldBookStateChange _ => none
  | .pcSample _ => none
  | .skimUnit _ => none
  | .powerOnReset _ => none
  | .deviceReset _ => none
  | .functionLevelReset _ => none
  | .brirusTraining _ _ _ _ => none
  | .trainingTimeout _ => none
  | .brirusFlit _ _ => none
  | .brirusNak _ _ => none
  | .cxlMemRequest _ _ _ _ => none
  | .hostLinkDown => none
  | .hostLinkUp => none
  | .hostAccessTimeout _ _ _ => none
  | .memoryAccessPerformed _ _ _ => none
  | .waitPacketSatisfied _ => none

/-- The instruction of a word, or why the word is an undefined encoding (R183). Re-encoding finds the nonzero
must-be-zero fields. -/
def decodeFields (f : Fields) : Except DecodeError Instr :=
  match findOp f.op.toNat opTable with
  | none => .error .reservedOpcode
  | some g =>
    if toFields (g f) ≠ some f then .error .mustBeZero
    else if (g f).wf then .ok (g f)
    else .error .reservedValue

/-- The instruction of a 64-bit word. -/
def decodeWord (w : Word) : Except DecodeError Instr := decodeFields (Fields.ofWord w)

/-- The four words of an engine command (R185), word 0 in the low bits. -/
def Ecw.bits (e : Ecw) (eop : BitVec 8) : BitVec 256 :=
  (e.p1 ++ e.dst) ++ (e.scb ++ e.opd) ++ e.link ++ (eop ++ e.ofl ++ e.irq ++ e.sf ++ e.sca ++ e.p0 ++ e.hc)

/-- The fields of an engine command word (R185). -/
def Ecw.ofBits (x : BitVec 256) : Ecw :=
  { ofl := x.extractLsb' 50 6, irq := x.extractLsb' 49 1, sf := x.extractLsb' 48 1, sca := x.extractLsb' 40 8,
    p0 := x.extractLsb' 32 8, hc := x.extractLsb' 0 32, link := x.extractLsb' 64 64, scb := x.extractLsb' 184 8,
    opd := x.extractLsb' 128 56, p1 := x.extractLsb' 248 8, dst := x.extractLsb' 192 56 }

/-- The engine opcodes (R186). It and what reads it are noncomputable: compiled code builds no constructor past the
245th of a type. The kernel evaluates them all the same, and the step function does not use them. -/
noncomputable def engineTable : List (Nat × (Ecw → Instr)) := [
  (0x01, .mmt8t8),
  (0x11, .mmst8t8),
  (0x02, .mmt8bf),
  (0x12, .mmst8bf),
  (0x03, .mmbfbf),
  (0x13, .mmsbfbf),
  (0x04, .mmf16f16),
  (0x14, .mmsf16f16),
  (0x05, .mmi8i8),
  (0x15, .mmsi8i8),
  (0x06, .mmt4t8),
  (0x16, .mmst4t8),
  (0x07, .mmt4t4),
  (0x17, .mmst4t4),
  (0x08, .mmx8x8),
  (0x18, .mmsx8x8),
  (0x09, .mmx4x8),
  (0x19, .mmsx4x8),
  (0x0a, .mmx4x4),
  (0x1a, .mmsx4x4),
  (0x20, .wload),
  (0x21, .mxsig),
  (0x40, .cpy),
  (0x41, .cpys),
  (0x42, .cpyg),
  (0x43, .cpyf),
  (0x44, .cpymx),
  (0x45, .sig),
  (0x60, .cred),
  (0x61, .credx),
  (0x62, .cgath),
  (0x63, .cbcast)]

/-- The row of an engine opcode. -/
def findEngine (n : Nat) : List (Nat × (Ecw → Instr)) → Option (Ecw → Instr)
  | [] => none
  | (k, g) :: r => if k = n then some g else findEngine n r

/-- The engine opcode and the fields of an engine command; `none` for words and events. -/
def toEngine : Instr → Option (Nat × Ecw)
  | .mmt8t8 e => some (0x01, e)
  | .mmst8t8 e => some (0x11, e)
  | .mmt8bf e => some (0x02, e)
  | .mmst8bf e => some (0x12, e)
  | .mmbfbf e => some (0x03, e)
  | .mmsbfbf e => some (0x13, e)
  | .mmf16f16 e => some (0x04, e)
  | .mmsf16f16 e => some (0x14, e)
  | .mmi8i8 e => some (0x05, e)
  | .mmsi8i8 e => some (0x15, e)
  | .mmt4t8 e => some (0x06, e)
  | .mmst4t8 e => some (0x16, e)
  | .mmt4t4 e => some (0x07, e)
  | .mmst4t4 e => some (0x17, e)
  | .mmx8x8 e => some (0x08, e)
  | .mmsx8x8 e => some (0x18, e)
  | .mmx4x8 e => some (0x09, e)
  | .mmsx4x8 e => some (0x19, e)
  | .mmx4x4 e => some (0x0a, e)
  | .mmsx4x4 e => some (0x1a, e)
  | .wload e => some (0x20, e)
  | .mxsig e => some (0x21, e)
  | .cpy e => some (0x40, e)
  | .cpys e => some (0x41, e)
  | .cpyg e => some (0x42, e)
  | .cpyf e => some (0x43, e)
  | .cpymx e => some (0x44, e)
  | .sig e => some (0x45, e)
  | .cred e => some (0x60, e)
  | .credx e => some (0x61, e)
  | .cgath e => some (0x62, e)
  | .cbcast e => some (0x63, e)
  | _ => none

/-- The command of a 256-bit engine command word (R186, R187). -/
noncomputable def decodeEcw (x : BitVec 256) : Except DecodeError Instr :=
  match findEngine (x.extractLsb' 56 8).toNat engineTable with
  | none => .error .reservedEngineOpcode
  | some g => .ok (g (Ecw.ofBits x))

/-- Little-endian bytes as a number (R171). -/
def leNat : List Byte → Nat
  | [] => 0
  | b :: r => b.toNat + 256 * leNat r

/-- The low `n` bytes of a number, little-endian. -/
def natBytes : Nat → Nat → List Byte
  | 0, _ => []
  | n + 1, x => BitVec.ofNat 8 x :: natBytes n (x / 256)

/-- The instruction word at the head of some bytes, and the bytes after it. -/
def decodeBytes (bs : List Byte) : Except DecodeError (Instr × List Byte) :=
  if bs.length < 8 then .error .truncated
  else
    match decodeWord (BitVec.ofNat 64 (leNat (bs.take 8))) with
    | .ok i => .ok (i, bs.drop 8)
    | .error e => .error e

/-- The engine command at the head of some bytes (R185). -/
noncomputable def decodeEcwBytes (bs : List Byte) : Except DecodeError Instr :=
  if bs.length < 32 then .error .truncated else decodeEcw (BitVec.ofNat 256 (leNat (bs.take 32)))

/-- The 64-bit words of an instruction: one for a word, four for an engine command, none for an event. -/
def encode (i : Instr) : List Word :=
  match toFields i with
  | some f => [f.word]
  | none =>
    match toEngine i with
    | some (n, e) =>
      let x := e.bits (BitVec.ofNat 8 n)
      [x.extractLsb' 0 64, x.extractLsb' 64 64, x.extractLsb' 128 64, x.extractLsb' 192 64]
    | none => []

/-- The instruction that the words of an encoding carry. -/
noncomputable def decodeWords : List Word → Except DecodeError Instr
  | [w] => decodeWord w
  | [w0, w1, w2, w3] => decodeEcw (w3 ++ w2 ++ w1 ++ w0)
  | _ => .error .truncated

/-- What the decoder reads from the bits of a table row: a 64-bit word, or a 256-bit engine command. -/
noncomputable def decodeTableWord (nbits w : Nat) : Option Instr :=
  if nbits ≤ 64 then
    match decodeBytes (natBytes 8 w) with
    | .ok (i, _) => some i
    | .error _ => none
  else
    match decodeEcwBytes (natBytes 32 w) with
    | .ok i => some i
    | .error _ => none

end Sys2Proof
end

