-- ==== Sys2Proof/Config.lean ====
section
/-! DEFINITION. What one device fixes and the specification leaves open: free values without a body. -/

namespace Sys2Proof.Config

/-- Values that the specification leaves open, one for each draw (log entry 10). Nothing is known of them. -/
opaque freeWord : Nat → BitVec 64

/-- What a 64-byte line of a P page reads as, through a page of the other kind or through another key: the line's bytes as they were
written, encrypted with the key that wrote them and decrypted with the one that reads (0 for none), with the line's address
as the tweak (R385). Nothing is known of it. -/
opaque otherKey (written reading line : Nat) (bytes : BitVec 512) : BitVec 512

/-- The device identity that an attestation report carries (R387): fixed for a device, not given. -/
opaque deviceIdentity : BitVec 64

end Sys2Proof.Config
end

