-- ==== Sys2Proof/Machine/State.lean ====
section
/-! DEFINITION. The state of the whole device as plain data, what stops a run, and the state right after power-on. -/

namespace Sys2Proof.Machine

/-- A sparse map: keys rise strictly in every state that the operations of the model reach. -/
abbrev AMap (α : Type) := List (Nat × α)

/-! ## One strand -/

/-- The four words of a strand's trap frame (R428). -/
structure TrapFrame where
  w0 : Word
  w1 : Word
  w2 : Word
  w3 : Word
  deriving DecidableEq, Repr

/-- A scalar destination bound at issue to its physical row and its word in it (R67). -/
structure Dest where
  row : Nat
  word : Nat
  deriving DecidableEq, Repr

/-- What a wait waits for (R277), with what was read at its issue. -/
inductive WaitKind where
  /-- JOIN: the helper mask (R210). -/
  | join (mask : Nat)
  /-- SLEEP: the enabled events and those that occurred since issue (R213). -/
  | sleep (mask seen : Nat)
  /-- WDRAIN: the first physical row and the row count (R219). -/
  | wdrain (first count : Nat)
  /-- LDS: the program-order number of its load, the status that ended it, and the value that it loaded (R272). -/
  | lds (op : Nat) (ended : Option Nat) (value : Word)
  /-- FENCE: class mask, scope, the first program-order number after it, and the mask that the arbiter of a pair decided (R126,
  R412). -/
  | fence (mask scope upto : Nat) (decided : Option Nat)
  /-- BWAIT: the group, the tick of its release once its phase has completed, and the status of a release, withdrawal or
  reconfiguration that ended it (R286, R288). -/
  | bwait (g : Nat) (due : Option Nat) (ended : Option Nat)
  /-- RECV: the bound payload row and the bound header scalar (R295). -/
  | recv (row : Nat) (hd : Dest)
  /-- WAITSEQ: the chain's slot, generation and engine, and the target (R297). -/
  | waitseq (slot gen eng target : Nat)
  /-- SSTEP: the superstep count at which the awaited exchange barrier completes (R299). -/
  | sstep (count : Nat)
  deriving DecidableEq, Repr

/-- A wait in progress (R277 to R281). -/
structure Wait where
  kind : WaitKind
  /-- D, bits [47:0] of the deadline scalar (R277). -/
  deadline : Nat
  /-- WALL (R278). -/
  wall : Bool
  /-- Timebase at issue. -/
  start : Nat
  /-- The core's total of stopped ticks at issue: E leaves them out unless WALL (R278). -/
  stops : Nat
  /-- The scalar that receives the status, where the wait has one (R280). -/
  dest : Option Dest
  /-- The word's selector fields: they act when the wait ends (R174). -/
  hdr : Hdr
  /-- Program-order number of the word. -/
  id : Nat
  deriving DecidableEq, Repr

/-- A FUSE whose window is open: the core that opened the window, its g and its cycle then, and of this FUSE its D, its g and its
program-order number (R252). -/
structure FuseReq where
  opener : Nat
  group : Nat
  opened : Nat
  dest : Dest
  g : Nat
  id : Nat
  deriving DecidableEq, Repr

/-- A wait of a gang's member that has ended while another member's goes on: the header row before its own effects, which the selector
reads, and the escalation that it raises (R175, R202, R282). -/
structure WaitEnd where
  header : Row
  escal : Option (Nat × Word)
  deriving DecidableEq, Repr

/-- One strand of a core (R24, R25, R56, R60). -/
structure Strand where
  /-- The strand owns a program counter (R24). -/
  live : Bool
  pc : Word
  wb : Nat
  wl : Nat
  eb : Nat
  el : Nat
  /-- The arbiter's stamp of the strand's last issue (R53). -/
  age : Nat
  wait : Option Wait
  /-- The strand's wait has ended in a gang that still waits (R202). -/
  endedBy : Option WaitEnd
  /-- The strand stalls after its FUSE until the window closes (R252). -/
  fuse : Option FuseReq
  /-- Program-order number of the START that began it: the control strand's operations before it come first (R209). -/
  began : Nat
  /-- The cycle before which it issues no word (R208). -/
  readyAt : Nat
  /-- Its next word was held at issue when it last had its turn, and the charge that the word lacked then, or 0 (R358, R366). -/
  held : Bool
  short : Nat
  /-- A scoreboard bit or a lock bit of a row held it then (R366). -/
  byRow : Bool
  /-- The word at this PC was found to read this row, which no code can correct (R417). -/
  bad : Option (Word × Nat)
  frame : TrapFrame
  /-- The next word would be the 17th of an open repetition body (R76): the model's own mark. -/
  past : Bool
  /-- Bases of the windows whose open body waits while a handler runs in them: a handler's words are not body words (R74, R76). -/
  aside : List Nat
  /-- CORE_TRESUME.STOPPED: stopped by a trap that was not delegated (R427). -/
  stopped : Bool
  /-- Failed snag entries to deliver as cause 20: fault cause and address (R436). -/
  failed : List (Nat × Word)
  /-- The repetition buffer: the words of the open body that have been fetched, by address (R75). -/
  body : AMap Word
  deriving DecidableEq, Repr

/-! ## Memory operations issued and not yet performed -/

/-- The kinds of a strand's access, numbered as a snag entry's KIND numbers them (R433). -/
inductive AccKind where
  | load | lds | store | stf | feclr | atomic | reduction | mxq
  /-- One of the loads of DTLD (R256). -/
  | table
  /-- A store of a long-accumulator word (R104). -/
  | acc
  deriving DecidableEq, Repr

/-- One memory operation of a strand that has issued and is not performed (R107, R113, R125). -/
structure MemOp where
  /-- Program-order number of its word. -/
  id : Nat
  /-- The element of its word. -/
  elem : Nat
  strand : Nat
  pc : Word
  kind : AccKind
  /-- FERD: 64 full-empty bits, not data (R274). -/
  ferd : Bool
  /-- The program address as issued. -/
  va : Word
  /-- Width in bytes. -/
  bytes : Nat
  sz : Nat
  ord : Nat
  scope : Nat
  /-- Which read-modify-write: 0 add, 1 and, 2 or, 3 xor, 4 min, 5 max, 6 minu, 7 maxu, 8 exchange, 9 compare and swap, 10 floating add. -/
  aop : Nat
  data : Word
  cmp : Word
  /-- The bound physical row, where it writes one. -/
  row : Option Nat
  /-- First bit of the row that it writes. -/
  bit : Nat
  /-- Bits of the row that it writes. -/
  width : Nat
  /-- MXQ: the code bytes, the scale's address and the scale (R259, R260). -/
  codes : List Byte
  sva : Word
  scale : Byte
  /-- A word of a row store of all eight words at a multiple of 64 (R416). -/
  whole : Bool
  /-- It faulted and waits in the store path for a free run of the snag ring (R434). -/
  parked : Bool
  /-- Program-order number of the first FENCE after it, or 0: for a load, every later operation follows it (R119). -/
  fence : Nat
  /-- The JOINs that have taken its strand for finished: joining strand and program-order number, whose later operations follow it
  (R210). -/
  joins : List (Nat × Nat)
  /-- Tick of its issue (R448). -/
  since : Nat
  /-- Supervisor code issued it (R89, R438). -/
  sup : Bool
  /-- Its strand's `began` as it was issued: which holder of the strand number it belongs to (R209, R436). -/
  began : Nat
  /-- A row access whose enabled words lie in the aperture and below it (R87). -/
  straddle : Bool
  deriving DecidableEq, Repr

/-- A late register write in flight: it lands in its bound row at its due cycle (R67, R68, R199). -/
structure Late where
  id : Nat
  due : Nat
  row : Nat
  /-- The bits written. -/
  mask : Row
  value : Row
  deriving DecidableEq, Repr

/-- The word of class S or V that a core issued last, as the first of a pair: strand, address, cycle, whether its class is V, the rows that it
reads, and the words that it writes, 8 * row + word (R77, R79). -/
structure Issued where
  strand : Nat
  pc : Word
  cycle : Nat
  vec : Bool
  rows : List Nat
  writes : List Nat
  deriving DecidableEq, Repr

/-- A DTLD in progress: the cycle before which its load does not complete, and the words of the image loaded so far, by number (R255, R256). -/
structure TableLoad where
  due : Nat
  words : AMap Word
  deriving DecidableEq, Repr

/-! ## Chains and engines -/

/-- Where a command of a chain stands. -/
inductive Phase where
  /-- Appended, not started. -/
  | queued
  /-- Waits on a ring entry (R311). -/
  | snagged (idx : Nat)
  /-- All its work is done: completion is to be written (R310). -/
  | finished
  /-- Its completion status (0) or word (1) waits on ring entry `idx`; 2 and 3: that write has failed. With `idx` 256 the write is next, with
  257 it waits at a pair's closure router. -/
  | completing (write : Nat) (idx : Nat)
  deriving DecidableEq, Repr

/-- One word, or one element, that an engine reads or writes by an operation of its own (R108, R131). -/
structure Part where
  /-- Its number among the reads or the writes of its piece. -/
  num : Nat
  va : Word
  /-- Its location, where the command has translated its whole source before (R323). -/
  loc : Option Nat
  n : Nat
  /-- What is charged: 0 nothing, as it lies in 64 bytes whose first word is charged; 1 the access; 2 the access and 64 bytes moved (R383). -/
  toll : Nat
  deriving DecidableEq, Repr

/-- A piece of a command's work: what it still has to read, what it has read, and what it then writes. A piece that writes nothing gives its
word to the command's arguments. -/
structure Piece where
  num : Nat
  reads : List Part
  got : AMap (List Byte)
  writes : List Part
  /-- All its reads are one operation, and all its writes (R134). -/
  block : Bool
  /-- Parts that wait at the closure router of a pair: whether a read, and the number (R410). -/
  sent : List (Bool × Nat)
  deriving DecidableEq, Repr

/-- One command of a chain between APPEND and its completion (R306, R310). -/
structure Cmd where
  seq : Nat
  eop : Nat
  ecw : Ecw
  strand : Nat
  pc : Word
  id : Nat
  /-- Supervisor code appended it (R89). -/
  sup : Bool
  /-- The appending core's decode table at APPEND (R153). -/
  table : List (BitVec 19)
  phase : Phase
  started : Bool
  /-- Pieces that it has finished writing. -/
  progress : Nat
  /-- How far it has come: the steps of its rule. -/
  stage : Nat
  /-- Words that it has read of its descriptors, lists and sources, by number (R309, R323, R327). -/
  args : AMap Word
  /-- What is left of the work of its stage. -/
  work : List Piece
  /-- Written words of codewords that still hold an error (R416). -/
  wrote : List Nat
  /-- Passes that a matrix command has made, and the tick at which its reload began (R325). -/
  plane : Nat
  began : Nat
  status : Nat
  events : Nat
  reload : Nat
  /-- WLOAD: the residency's state was set to LOADING by it (R321). -/
  loading : Bool
  /-- Physical rows that it still locks (R73). -/
  locked : List Nat
  /-- Tick since which an access of it has waited for host memory whose link is down (R448). -/
  asked : Option Nat
  /-- A matrix command that waits on a write of its destination has made its passes: what they read, with the table of each plane (R153, R325). -/
  passed : Bool
  aElems : List Nat
  aScales : List Nat
  wBytes : List Byte
  wScales : List Byte
  wTables : AMap (List (BitVec 19))
  /-- An access of it has faulted and waits for a free run of the snag ring (R434). -/
  parked : Bool
  /-- The core whose engine had started it before its chain moved to another core, and completes it (R353, R395). -/
  engine : Option Nat
  deriving DecidableEq, Repr

/-- A chain binding slot (R303 to R308). -/
structure Chain where
  bound : Bool
  gen : Nat
  eng : Nat
  logn : Nat
  ring : Word
  cword : Word
  hirq : Bool
  vec : Nat
  appended : Nat
  completed : Nat
  err : Word
  binder : Nat
  cmds : List Cmd
  deriving DecidableEq, Repr

/-! ## The snag ring's bookkeeping (the ring's bytes lie in TCM, R432) -/

/-- Who owns a pending ring entry. -/
inductive SnagOwner where
  | op (o : MemOp)
  | engine (slot seq : Nat)
  deriving DecidableEq, Repr

/-- A pending run of ring entries (R434 to R436). -/
structure Snag where
  idx : Nat
  len : Nat
  owner : SnagOwner
  cause : Nat
  addr : Word
  made : Nat
  /-- The core's stopped ticks when it was made (R436). -/
  stops : Nat
  deriving DecidableEq, Repr

/-- A watchpoint report that waits to be taken: CODE and INFO (R438). -/
structure WpReport where
  code : Nat
  info : Word
  deriving DecidableEq, Repr

/-- A message: from SEND to the queue, and in the queue (R293 to R295). -/
structure Message where
  id : Nat
  /-- Sending core (PCID), strand and logical number. -/
  src : Nat
  strand : Nat
  srcLog : Nat
  part : Nat
  dst : Nat
  tag : Nat
  payload : Row
  /-- Program-order number of the SEND. -/
  ord : Nat
  /-- The superstep of the sending instance, for rollback (R423). -/
  inst : Option Nat
  deriving DecidableEq, Repr

/-! ## Supersteps -/

/-- The states of a core in a superstep (R34). -/
inductive SsState where
  | compute | arrived | exchanging | exchanged
  deriving DecidableEq, Repr

/-- One record of an exchange plan (R42). -/
structure PlanRecord where
  /-- Its number in the plan. -/
  num : Nat
  offset : Nat
  dlc : Nat
  dspace : Nat
  sspace : Nat
  len : Nat
  srcoff : Nat
  dstoff : Nat
  setfull : Bool
  deriving DecidableEq, Repr

/-- An undo-log entry: a word's location, its old bytes and its old full-empty bit (R419). -/
structure Undo where
  /-- The order of the write among all writes (R419). -/
  seq : Nat
  loc : Nat
  old : List Byte
  full : Bool
  /-- The key of its line (R385). -/
  key : Nat
  deriving DecidableEq, Repr

/-- An effect that leaves the parcel, held until the next datum (R421). -/
inductive Deferred where
  /-- A store of an operation, or of an engine. -/
  | store (op : Option MemOp) (loc : Nat) (data : List Byte)
  | rmw (o : MemOp) (loc : Nat)
  | msix (vec : Nat)
  | send (m : Message)
  deriving DecidableEq, Repr

/-- A core's part of its superstep and exchange (R34 to R44, R298 to R300, R419 to R423). -/
structure Exch where
  state : SsState
  /-- CORE_SSCNT (R52). -/
  count : Nat
  /-- Plan selected by XPLAN; plan latched by SSTEP (R298). -/
  sel : Nat
  plan : Nat
  /-- Carried-row descriptor of the last SSTEP (R299). -/
  carried : Option Word
  /-- Address of the SSTEP word (R408, R417). -/
  pc : Word
  /-- A plan trap waits for the next SSTEP: its INFO (R300). -/
  planTrap : Option Word
  /-- Records not yet issued, received bytes, RXTOTAL. -/
  todo : List PlanRecord
  /-- Words of the record that leaves next which have been read, by number (R108). -/
  read : AMap Word
  rx : Nat
  rxtotal : Nat
  /-- The plan was invalid: the core never arrives at the exchange barrier (R43). -/
  bad : Bool
  /-- Undo log, deferred effects and the flags of CORE_DATUM. -/
  undo : List Undo
  deferred : List Deferred
  rb : Nat
  unprot : Bool
  rep : Bool
  /-- Supervisor code issued the SSTEP (R89). -/
  sup : Bool
  /-- Program-order number of the SSTEP: older operations must be performed first in rollback mode (R420). -/
  mark : Nat
  /-- Messages received in this superstep, for rollback (R423). -/
  got : List Message
  deriving DecidableEq, Repr

/-! ## Registers of one core, by unit -/

/-- CORE_HAWK, CORE_THERM, CORE_THTRIP (R359, R364, R450); offers and grants on their way (R360). -/
structure Power where
  reserve : Nat
  tokens : Nat
  frac : Nat
  transit : Nat
  /-- Offers on their way to this core: giver and tokens. -/
  offers : List (Nat × Nat)
  temp : BitVec 16
  t1 : Bool
  t1act : Bool
  t2 : Bool
  t2act : Bool
  t3 : Bool
  t3act : Bool
  /-- Tick of the last reading of the sensor (R364). -/
  sampled : Option Nat
  deriving DecidableEq, Repr

/-- The field book (R366 to R370). -/
structure FBook where
  ctl : Word
  head : Word
  tail : Word
  time0 : Word
  time1 : Word
  time2 : Word
  time3 : Word
  lost : Nat
  /-- Tick of the last record, and of the last change of state. -/
  last : Nat
  since : Nat
  state : Nat
  cause : Nat
  /-- A word issued in this tick, and the strand that issued most recently. -/
  ran : Bool
  recent : Nat
  /-- The cycle in which the last operation leaves the pipelines of the scalar and the vector unit (R366). -/
  busy : Nat
  /-- Tick of the last PC sample (R367). -/
  sampled : Option Nat
  /-- Tick at whose end the state or the cause last changed (R366). -/
  closed : Option Nat
  /-- Records that wait for host memory whose link is down, with the tick of each (R370, R448). -/
  pend : List (List Byte × Nat)
  deriving DecidableEq, Repr

/-- The supervisor's registers and the snag ring's counters (R89, R431, R436, R437). -/
structure Sup where
  tcmLen : Nat
  tcmBase : Nat
  ptbr : Word
  snage : Bool
  tvec : Word
  sv : Bool
  twl : Nat
  twb : Nat
  snagto : Nat
  drop : Nat
  tout : Nat
  made : Nat
  wplost : Nat
  wp0 : Word
  wp1 : Word
  snags : List Snag
  reports : List WpReport
  /-- Words some of whose operations have matched a watchpoint and others have yet to be performed: CODE and the lowest matching address so far,
  by program-order number (R438). -/
  hits : AMap (Nat × Nat)
  /-- Cause 22 is pending: entries made with SNAGE (R434). -/
  snagPend : Nat
  /-- Helpers whose stop waits to be taken as cause 23. -/
  stopPend : List Nat
  deriving DecidableEq, Repr

/-- CORE_QUAR and CORE_TCMECC, CORE_UEADDR (R407, R415, R418). -/
structure Health where
  qc : Bool
  qr : Bool
  test : Bool
  result : Nat
  ueCause : Nat
  ueAddr : Nat
  corr : Nat
  eccState : Nat
  bank : Nat
  prog : Nat
  deriving DecidableEq, Repr

/-- Why a core stands still: a gang switch, a migration that takes its work away, a debugger, or work that has moved to it and has not gone on yet
(R350, R353, R372, R395). -/
inductive StopKind where
  | gang | migrate | debug | arrive
  deriving DecidableEq, Repr

/-- A completion record on its way to its ring (R345). -/
structure Record where
  queue : Nat
  /-- The packet's device context; the tract whose instance or end it reports; a TEARDOWN's record (R466). -/
  ctx : Nat
  tract : Option Nat
  teardown : Bool
  /-- Its write faulted and its queue parked: a restarted queue retries it before it fetches (R446). Of a TEARDOWN: it is written, and the teardown's last
  steps are due (R469). -/
  retry : Bool
  cring : Word
  clog : Nat
  cons : Word
  /-- Words 0 and 1; words 2 and 3 are formed when it is written. -/
  tag : Word
  index : Nat
  status : Nat
  kind : Nat
  tick : Nat
  unit : Nat
  nfail : Nat
  irq : Option Nat
  deriving DecidableEq, Repr

/-- A pending migration request (R353, R354). -/
structure MigReq where
  /-- The target that the packet named, or that firmware chose. -/
  target : Nat
  /-- The packet named it: firmware may pick no other. -/
  named : Bool
  /-- The record that a MIGRATE packet owes. -/
  record : Option Record
  deriving DecidableEq, Repr

/-- What a core is placed for (R30, R49, R344, R409). -/
structure Place where
  part : Nat
  ctx : Nat
  log : Nat
  inst : Nat
  rel : Nat
  /-- 0 not paired, 1 primary, 2 shadow. -/
  twin : Nat
  /-- PCID of the twin. -/
  mate : Nat
  deriving DecidableEq, Repr

/-- One core, by PCID. -/
structure Core where
  /-- Register store: row to contents, zero where not listed (R56, R61). -/
  rows : AMap Row
  /-- 64-bit words of rows that no code can correct: 8 * row + word (R413, R416). -/
  bad : List Nat
  locks : List Nat
  /-- Rows that APPEND still reads its command word from, with the cycle in which it has read it (R73, R306). -/
  reading : List (Nat × Nat)
  late : List Late
  strands : AMap Strand
  /-- Arithmetic cycles of the core. -/
  cycle : Nat
  /-- Words issued by the core: program-order numbers (R114). -/
  seq : Nat
  ops : List MemOp
  /-- The micro-TLB (R99). -/
  utlb : List TlbEntry
  rbloss : AMap Word
  /-- The word whose pair the next one may complete (R77, R79). -/
  first : Option Issued
  table : List (BitVec 19)
  v8 : Bool
  v4 : Bool
  /-- A DTLD in progress (R256). -/
  loading : Option TableLoad
  srseed : Word
  uf0 : Nat
  uf1 : Nat
  uf2 : Nat
  uf3 : Nat
  /-- Cycles in which narrowing words in flight complete (R262). -/
  narrowing : List Nat
  escTraps : Nat
  escThresh : Nat
  sup : Sup
  power : Power
  fb : FBook
  health : Health
  exch : Exch
  eqMin : AMap Nat
  eqCap : AMap Nat
  chains : AMap Chain
  queue : List Message
  undel : Nat
  /-- Gang: size and leader's PCID while fused (R27, R252). -/
  gang : Option (Nat × Nat)
  /-- A migration request that waits for the core's next group boundary (R353, R354). -/
  migrate : Option MigReq
  stop : Option StopKind
  /-- HALT: no strand issues until CTXLD restarts the core (R334). -/
  halt : Bool
  /-- The first tick in which work that has moved here may go on (R395). -/
  resumeAt : Nat
  /-- Ticks spent stopped, and the tick of the stop in progress (R278). -/
  stopTotal : Nat
  stopSince : Nat
  /-- For a twin of a pair, ticks in which one of the twins was stopped (R412). -/
  pairStops : Nat
  place : Option Place
  /-- Values of the primary twin that strands of this shadow will take: strand and value (R412). -/
  twinVals : List (Nat × Word)
  /-- Words of the instruction store by address (R344). -/
  istore : AMap Word
  /-- The control strand has ended its part (R26). -/
  ended : Bool
  /-- A helper was live when it ended. -/
  helpersKilled : Bool
  /-- Tick at which its instance was ended from outside, and the strands that were live then: they may have failed in that tick too (R406). -/
  cut : Option (Nat × List Nat)
  deriving DecidableEq, Repr

/-! ## Clusters -/

/-- A claimed tile of the palette (R314, R315). -/
structure Tile where
  first : Nat
  count : Nat
  /-- PCID of the owner while its device context runs; its device context and logical number. -/
  owner : Nat
  ctx : Nat
  log : Nat
  shaped : Bool
  fmt : Nat
  tileRows : Nat
  cols : Nat
  /-- The bytes of a tile that was saved and is not in its slots (R317). -/
  saved : Option (List Byte)
  deriving DecidableEq, Repr

/-- The states of a residency (R321). -/
inductive ResState where
  | empty | loading | valid | stale | evicted
  deriving DecidableEq, Repr

/-- A load of a residency in progress: the core and the program-order number of its command, the source ranges that it has recorded, and whether a
store has fallen on them since (R321, R323). -/
structure Fill where
  pcid : Nat
  id : Nat
  ranges : List (Nat × Nat)
  stale : Bool
  deriving DecidableEq, Repr

/-- A residency of the matrix array (R318 to R323). -/
structure Residency where
  gen : Nat
  mask : Nat
  part : Nat
  ctx : Nat
  /-- The instance that allocated it (R461). -/
  inst : Nat
  fmtc : Nat
  planes : Nat
  sparse : Bool
  pinned : Bool
  state : ResState
  wfmt : Option Nat
  /-- Program addresses of the source and of the MX scales, and the recorded physical words. -/
  src : Word
  scl : Word
  ranges : List (Nat × Nat)
  table : List (BitVec 19)
  /-- Bytes of the planes with their metadata, and of the MX scales. -/
  data : List Byte
  scales : List Byte
  /-- Words of its planes that cannot be corrected, by number (R416). -/
  bad : List Nat
  /-- Loads of it that are past step 3 of R323 and have not ended. -/
  fills : List Fill
  deriving DecidableEq, Repr

/-- The draw of a cluster's array for the device context on a partition: the energy of its passes in the running 100 ns and in the 100 ns before
them; a ballast pass was among the former; the tick at which the ballast in progress began (R362). -/
structure Draw where
  part : Nat
  window : Nat
  cur : Nat
  last : Nat
  ran : Bool
  since : Option Nat
  deriving DecidableEq, Repr

/-- One cluster, by physical cluster identifier (R13). -/
structure Cluster where
  tiles : List Tile
  residencies : List Residency
  /-- Generation of each of the 16 plane units. -/
  unitGen : AMap Nat
  cspslip : Word
  mxw : AMap Nat
  /-- The position that made the array's last pass, and how many in its turn (R349). -/
  mxTurn : Nat × Nat
  /-- What the array draws, by partition (R362). -/
  draws : List Draw
  freq : Nat
  pqMin : AMap Nat
  pqCap : AMap Nat
  cspCorr : Nat
  cspState : Nat
  cspBank : Nat
  cspProg : Nat
  qa : Bool
  tlb : List TlbEntry
  deriving DecidableEq, Repr

/-! ## Dies -/

/-- The scrub engine's job record (R388). -/
structure SkimRecord where
  kind : Nat
  unit : Nat
  off : Nat
  len : Nat
  deriving DecidableEq, Repr

/-- One die (R377, R384 to R389, R404). -/
structure Die where
  gated : Bool
  waking : Bool
  wakeTries : Nat
  /-- Captured tail writes in arrival order: queue and tail (R340). -/
  captured : List (Nat × Nat)
  drops : Nat
  fwLock : Bool
  plumb : BitVec 40
  skimState : Nat
  skimCtx : Nat
  skimTotal : Nat
  skimDone : Nat
  skimJob : List SkimRecord
  tkbudget : Nat
  migdrop : Nat
  slipPcid : Nat
  slipCycles : Nat
  tlbsel : Word
  coresel : Word
  rtsel : Nat
  /-- Router minimums and caps, key PCID * 8 + port. -/
  rtMin : AMap Nat
  rtCap : AMap Nat
  feMin : AMap Nat
  feCap : AMap Nat
  ceMin : AMap Nat
  ceCap : AMap Nat
  resq : AMap Nat
  /-- Hardware groups held: number, partition, instance, group, REFUSED (R292). -/
  hw : List HwGroup
  /-- Mask words stored to groups that are bound to no partition, by 20 * k + w (R292). -/
  bmasks : AMap Word
  /-- Key slots in use: slot, device context, fingerprint (R385). -/
  keys : List KeySlot
  mclog : AMap (Word × Word × Word × Word)
  mccount : Nat
  /-- The machine-check interrupt of the plumb column is raised (R402). -/
  mcirq : Bool
  tlb : List TlbEntry
  energy : List Nat
  powered : Bool
  t4 : Bool
  /-- The boot step whose effects the die holds: 3 once it has applied the table (R381). -/
  bootStep : Nat
  /-- The teardown's routine is to be entered on the die, with this `s9` (R464). -/
  enter : Option Nat
  deriving DecidableEq, Repr

/-! ## Device contexts, partitions, tracts, instances -/

/-- A device context (R341, R342, R385, R387). -/
structure DevCtx where
  part : Nat
  root : Word
  save : Word
  prot : Bool
  dbg : Bool
  tvec : Word
  twin : Word
  fbword : Word
  slot : Option Nat
  measure : BitVec 256
  paired : Bool
  rollback : Bool
  deriving DecidableEq, Repr

/-- A remap entry (R50). -/
structure Remap where
  valid : Bool
  state : Nat
  pcid : Nat
  deriving DecidableEq, Repr

/-- A saved logical core of a pre-empted partition: the opaque image of R351 held as data. -/
structure SavedCore where
  log : Nat
  /-- The core from which it was saved. -/
  pcid : Nat
  core : Core
  /-- Tick of the save. -/
  saved : Nat
  tcm : List Host.Cell
  full : List Nat
  poison : List Nat
  deriving DecidableEq, Repr

/-- Bytes of an exchange record on their way (R42 to R45). -/
structure Transfer where
  src : Nat
  part : Nat
  dst : Nat
  dspace : Nat
  off : Nat
  bytes : List Byte
  setfull : Bool
  inst : Nat
  hash : Word
  /-- Of supervisor origin (R89). -/
  sup : Bool
  /-- The bytes count toward RXTOTAL on arrival; those of a pair count when they are confirmed (R410). -/
  counted : Bool
  /-- The record's number in its plan, by which the twins of a pair tell records apart. -/
  num : Nat
  /-- The sender's superstep count: bytes that come in a later superstep are too many (R44). -/
  step : Nat
  /-- Words that have not been written yet, by number (R108). -/
  left : List Nat
  deriving DecidableEq, Repr

/-- What a closure check holds back (R410). -/
inductive ClosureKind where
  | op | send | record | engine
  deriving DecidableEq, Repr

/-- A message of an engine: the command, the piece and its parts with their locations, RS and host memory, the bytes that it writes and EVENTS. A
completion write is named by `final` (R410). -/
structure EngMsg where
  slot : Nat
  seq : Nat
  piece : Nat
  rd : Bool
  parts : List (Part × Nat × Bool × Bool)
  bytes : List (List Byte)
  events : Nat
  full : Bool
  /-- Which completion write: 0 status, 1 completion word. -/
  final : Option Nat
  deriving DecidableEq, Repr

/-- A message of a pair that waits at its closure router for the hashes of both twins (R410). -/
structure Closure where
  /-- PCID of the primary. -/
  primary : Nat
  kind : ClosureKind
  /-- What tells the messages of a pair apart: strand, address of the word and element, or the record of a plan. -/
  strand : Nat
  pc : Word
  elem : Nat
  /-- The message of a SEND. -/
  msg : Option Message
  /-- The bytes of an exchange record. -/
  xfer : Option Transfer
  /-- The message of an engine. -/
  eng : Option EngMsg
  hashP : Option Word
  hashS : Option Word
  /-- Program-order numbers of the operation in the primary and in the shadow. -/
  idP : Nat
  idS : Nat
  /-- Tick of the first hash, and the primary's stopped ticks then. -/
  since : Nat
  stops : Nat
  deriving DecidableEq, Repr

/-- A partition (R49). -/
structure Partition where
  ctx : Nat
  size : Nat
  remap : AMap Remap
  /-- Entries taken out of the table while their cores are shadow twins (R409): logical number and core. -/
  lent : AMap Nat
  /-- Tick of an armed switch (R350). -/
  armed : Option Nat
  stopped : Bool
  saved : List SavedCore
  /-- Pinned residencies written to the image: cluster and residency. -/
  savedRes : List (Nat × Residency)
  /-- Image slots in the save area: logical number, and the free value that its first word took (R351). -/
  slots : List (Nat × Nat)
  /-- What the closure routers hold of its pairs while it is stopped (R350, R410). -/
  held : List Closure
  /-- Tick of the stop, for a phase that resumes (R352). -/
  stopTick : Nat
  deriving DecidableEq, Repr

/-- A completion that waits in a tract's window (R47). -/
structure Done where
  index : Nat
  status : Nat
  unit : Nat
  tick : Nat
  deriving DecidableEq, Repr

/-- A tract (R46, R47, R343). -/
structure Tract where
  ctx : Nat
  queue : Nat
  prio : Nat
  paired : Bool
  rollback : Bool
  dstop : Bool
  n : Nat
  p : Nat
  gang : Nat
  code : Word
  image : List Word
  entry : Nat
  plantab : Word
  cring : Word
  clog : Nat
  irq : Bool
  vec : Nat
  cons : Word
  /-- Member masks of groups 1 to 3, as parcel-relative cores. -/
  masks : List (List Nat)
  /-- Placement data: aperture value and bytes. -/
  data : List (Nat × List Byte)
  tag : Word
  arg : Word
  /-- Unplaced index ranges by die: die, first, past last (R347). -/
  ranges : List (Nat × Nat × Nat)
  /-- L, the lowest index not reported. -/
  lowest : Nat
  window : List Done
  nfail : Nat
  failStatus : Nat
  /-- Ends early: the status of its instances and the unit named (R405, TEARDOWN). -/
  killed : Option (Nat × Nat)
  /-- Tick and core of the detection that killed it (R406). -/
  killer : Option (Nat × Nat)
  /-- Words of its code image that the die's copy has lost (R413, R417). -/
  lostWords : List Nat
  placedTop : Nat
  deriving DecidableEq, Repr

/-- One barrier group of an instance (R31, R286). -/
structure Group where
  members : List Nat
  arr : List Nat
  /-- The strand that registered each arrival (R211). -/
  arrBy : AMap Nat
  done : List Nat
  phase : Nat
  bound : Bool
  /-- Release ticks of completed phases whose waiting BWAITs are not yet released, oldest first (R286). -/
  release : List Nat
  /-- Tick of the last withdrawal, and tick and parcel-relative core of the last reconfiguration: an arrival of the same tick comes
  before both (R286, R291). -/
  gone : Option Nat
  config : Option (Nat × Nat)
  deriving DecidableEq, Repr

/-- Debugger stop of an instance (R372). -/
inductive DbgState where
  | running | pending | stopped | stepping
  deriving DecidableEq, Repr

/-- A core's datum (R419). -/
structure Datum where
  pcid : Nat
  core : Core
  deriving DecidableEq, Repr

/-- A placed parcel instance (R30 to R35, R48). -/
structure Instance where
  tract : Nat
  index : Nat
  part : Nat
  base : Nat
  p : Nat
  g0 : Group
  g1 : Group
  g2 : Group
  g3 : Group
  /-- Exchange start X (R35). -/
  x : Option Nat
  /-- Tick at which the cores enter Compute after the exchange barrier. -/
  enter : Option Nat
  ended : List Nat
  status : Option Nat
  unit : Nat
  dbg : DbgState
  datums : List Datum
  /-- The barrier groups 0 to 3 as they stood at the datum. -/
  dgroups : List Group
  placedAt : Nat
  deriving DecidableEq, Repr

/-! ## The front end and the outside -/

/-- A packet queue (R337). -/
structure PQueue where
  prio : Nat
  kind : Nat
  base : Nat
  logsz : Nat
  die : Nat
  ctx : Nat
  state : Nat
  head : Nat
  tail : Nat
  age : Nat
  /-- Tick since which the fetch of the packet at HEAD has waited for the host link, which is down (R444). -/
  fetchAt : Option Nat
  /-- The fetched packet that is being acted on. -/
  packet : Option (List Word)
  /-- WAIT: tick of its start. -/
  waitAt : Option Nat
  /-- COPY: what is left of its work, as that of a CPY. -/
  copy : Option Cmd
  /-- Packets whose last record is not yet written: record-owing work of the queue (R341). -/
  owed : Nat
  deriving DecidableEq, Repr

/-- A Brirus port (R378 to R380). -/
structure Port where
  state : Nat
  rate : Nat
  peer : Nat
  retry : Nat
  /-- Sent and not acknowledged: SEQ and flit; next SEQ to send and to expect. -/
  replay : List Flit
  sendSeq : Nat
  expect : Nat
  fails : Nat
  /-- Link-control negative acknowledgements sent; each asks for the flit `expect` (R379). -/
  naks : Nat
  trainAt : Nat
  deriving DecidableEq, Repr

/-! ## The model's own fields -/

/-- What may happen next (log entry 2): the environment's choice among unordered steps. -/
inductive Action where
  /-- The named strand of the named core issues its next word. -/
  | issue (pcid strand : Nat)
  /-- The oldest unstarted command of the chain starts. -/
  | engine (pcid slot : Nat)
  /-- The event happens. -/
  | ev (i : Instr)
  /-- Ticks pass. -/
  | tick (n : Nat)
  /-- A translation leaves a TLB: level 0 core, 1 cluster, 2 die; unit; index (R99). -/
  | evict (lvl unit idx : Nat)
  /-- A codeword turns uncorrectable (R416). -/
  | poison (loc : Nat)
  /-- A word of a register row turns uncorrectable: core, 8 * row + word. -/
  | poisonRow (pcid word : Nat)
  /-- A word of a weight plane turns uncorrectable: cluster and plane unit. -/
  | poisonPlane (clu unit word : Nat)
  /-- A word of the die's copy of a tract's code image turns uncorrectable. -/
  | poisonCode (tract word : Nat)
  /-- A symbol of a core's TCM, or of its cluster's scratchpad, is corrected (R413). -/
  | corrected (pcid : Nat) (csp : Bool)
  /-- A die on which nothing is under way is power-gated (R340). -/
  | gate (die : Nat)
  /-- Firmware asks for a migration of a core's work to another core (R353). -/
  | migrate (pcid target : Nat)
  /-- The work that has moved to a core goes on there (R395, R398). -/
  | arrive (pcid : Nat)
  /-- A record of a core's field book that has waited for host memory is written, or is lost (R370, R448). -/
  | bookWrite (pcid : Nat)
  /-- Felcia loads words of the firmware image into a plumb-column core, whose control strand begins at an address with `s8` and `s9` as
  given (R381, R464). -/
  | firmware (pcid : Nat) (pc : Word) (words : List Word) (s8 s9 : Word)
  deriving DecidableEq, Repr

/-- Which core, strand, chain slot and word the step runs (log entry 3). -/
structure Focus where
  pcid : Nat
  strand : Nat
  slot : Nat
  word : Word
  deriving DecidableEq, Repr

/-- The device. -/
structure State where
  now : Nat
  /-- The part: 4880 or 4860 (R1, R21). -/
  part : Nat
  /-- Plumb-column width W and, by die, the first plumb column (R14, R382). -/
  plumbW : Nat
  plumbCol : AMap Nat
  cores : AMap Core
  clusters : AMap Cluster
  dies : AMap Die
  /-- Every memory's bytes by location; zero where not listed (R83, R456). -/
  mem : List Host.Cell
  /-- Words whose full-empty bit is full (R83). -/
  full : List Nat
  /-- Poisoned codewords, by their first location (R416). -/
  poison : List Nat
  /-- The 64-byte lines that a P page's key wrote, with the number of that key: `mem` holds what was written (R385). -/
  keyed : AMap Nat
  strbase : Nat
  rmapsel : Nat
  owner : Nat
  ownerOp : Nat
  ownerSucc : Nat
  refused : Nat
  linkLost : Option Nat
  dbgOp : Nat
  dbgState : Nat
  dbgCtx : Nat
  dbgBase : Nat
  dbgsel : Word
  ready : Bool
  bootStep : Nat
  bootFail : Nat
  /-- Tick of the last token passing (R360). -/
  passed : Option Nat
  /-- Energy accounts in units of 1/1,024 token (R363): k, and partition * 4 + k. -/
  enovh : AMap Nat
  enctx : AMap Nat
  ports : AMap Port
  /-- Words of a burst that the last writes from outside have covered in order: the next location, and how many (R416). -/
  burst : Nat × Nat
  queues : AMap PQueue
  hostUp : Bool
  msixHeld : List Nat
  msix : List Nat
  /-- Answers to the host's CXL.mem reads, in order: the word, and whether it is poisoned (R388, R417). -/
  hostReads : List (Word × Bool)
  hdmsz : Nat
  rstKind : Nat
  rstT4 : Bool
  rstT4die : Nat
  rstScrub : Bool
  rstTick : Nat
  tableHash : BitVec 256
  fwHash : BitVec 256
  ctxs : AMap DevCtx
  parts : AMap Partition
  tracts : AMap Tract
  insts : AMap Instance
  records : List Record
  /-- Records written to each completion ring, by ring address (R345). -/
  ringCount : AMap Nat
  messages : List Message
  transfers : List Transfer
  closures : List Closure
  /-- Next tract, instance and message number. -/
  nextId : Nat
  agenda : List Action
  focus : Focus
  /-- Counter of the free values (log entry 10). -/
  fresh : Nat
  deriving DecidableEq, Repr

/-- The device when power arrives, before boot (R381, R456): the timebase at zero, all memory zero and empty, every register
that is not listed at its reset value, no device context, no word loaded. Boot is the event POWER_ON_RESET (log entry 5). -/
def State.reset : State :=
  { now := 0, part := 4880, plumbW := 1, plumbCol := [], cores := [], clusters := [], dies := [], mem := [], full := [],
    poison := [], keyed := [], strbase := 0x2000, rmapsel := 0, owner := 0, ownerOp := 0, ownerSucc := 0, refused := 0, linkLost := none,
    dbgOp := 0, dbgState := 0, dbgCtx := 0, dbgBase := 0, dbgsel := 0, ready := false, bootStep := 0, bootFail := 0,
    passed := none, enovh := [], enctx := [], ports := [], burst := (0, 0), queues := [], hostUp := false, msixHeld := [], msix := [], hostReads := [], hdmsz := 0,
    rstKind := 0, rstT4 := false, rstT4die := 0, rstScrub := false, rstTick := 0, tableHash := 0, fwHash := 0, ctxs := [],
    parts := [], tracts := [], insts := [], records := [], ringCount := [], messages := [], transfers := [], closures := [],
    nextId := 1, agenda := [], focus := { pcid := 0, strand := 0, slot := 0, word := 0 }, fresh := 0 }

/-- What stops the machine. -/
inductive Fault where
  /-- Raised by an event whose condition does not hold in the state: the event cannot happen there, so no run of the
  device has it. Safe. -/
  | notEnabled
  /-- Raised by a step when the agenda is empty and no strand, engine or event can go on but by the outside: a device
  that waits for its host. Safe. -/
  | idle
  /-- Raised by a step that is to issue a word of a strand which does not own a program counter or is held by a wait or
  a stop: no run of the device has it. Safe. -/
  | notReady
  deriving DecidableEq, Repr

/-- Why a step has no meaning in the model. -/
inductive Refusal where
  /-- Raised by an arm of `exec` whose meaning is not written. Safe. -/
  | notModelled (mnemonic : String)
  deriving DecidableEq, Repr

end Sys2Proof.Machine
end

