-- ==== Sys2Proof/Machine/Ops.lean ====
section
/-! DEFINITION. Named operations over the state: sparse maps, registers, memories, traps and the control of strands. -/

namespace Sys2Proof.Machine

/-! ## Sparse maps -/

/-- The value of a key, or the value of an unlisted key. -/
def look {α : Type} (d : α) (k : Nat) : AMap α → α
  | [] => d
  | (j, v) :: r => if j = k then v else look d k r

/-- The value of a key, where it is listed. -/
def find {α : Type} (k : Nat) : AMap α → Option α
  | [] => none
  | (j, v) :: r => if j = k then some v else find k r

/-- Give a key a value, keys kept in rising order. -/
def put {α : Type} (k : Nat) (v : α) : AMap α → AMap α
  | [] => [(k, v)]
  | (j, w) :: r => if k < j then (k, v) :: (j, w) :: r else if k = j then (k, v) :: r else (j, w) :: put k v r

/-- Drop a key. -/
def del {α : Type} (k : Nat) (m : AMap α) : AMap α := m.filter fun e => e.1 ≠ k

/-- Insert a number into a rising list without repeats. -/
def addNat (k : Nat) : List Nat → List Nat
  | [] => [k]
  | j :: r => if k < j then k :: j :: r else if k = j then j :: r else j :: addNat k r

/-- Drop a number from a list. -/
def delNat (k : Nat) (l : List Nat) : List Nat := l.filter (· ≠ k)

/-! ## Bits -/

/-- A flag as one bit. -/
def bit1 (b : Bool) : BitVec 1 := BitVec.ofBool b

/-- Bits `lo` up, `n` of them, as a number. -/
def fieldNat {w : Nat} (x : BitVec w) (lo n : Nat) : Nat := (x.extractLsb' lo n).toNat

/-- `v` placed at bit `lo` of a 64-bit word. -/
def at64 (v lo : Nat) : Word := BitVec.ofNat 64 (v * 2 ^ lo)

/-- Replace `n` bits from bit `lo` by the low bits of `v`. -/
def setBits {w : Nat} (x : BitVec w) (lo n v : Nat) : BitVec w :=
  (x &&& ~~~(BitVec.ofNat w ((2 ^ n - 1) * 2 ^ lo))) ||| BitVec.ofNat w ((v % 2 ^ n) * 2 ^ lo)

/-- `n` ones from bit `lo` of a row. -/
def rowMask (lo n : Nat) : Row := BitVec.ofNat 512 ((2 ^ n - 1) * 2 ^ lo)

/-- Write the masked bits of a row. -/
def blend (old mask value : Row) : Row := (old &&& ~~~mask) ||| (value &&& mask)

/-- Word `w` of a row (R61). -/
def rowWord (r : Row) (w : Nat) : Word := r.extractLsb' (64 * w) 64

/-- Lane `i` of a row at width `n` bits (R61). -/
def lane (r : Row) (n i : Nat) : BitVec n := r.extractLsb' (n * i) n

/-- The row whose lanes of `n` bits are the listed numbers, lane 0 first. -/
def packLanes (n : Nat) : List Nat → Nat
  | [] => 0
  | x :: r => x % 2 ^ n + 2 ^ n * packLanes n r

/-- A row from its lanes. -/
def rowOfLanes (n : Nat) (l : List Nat) : Row := BitVec.ofNat 512 (packLanes n l)

/-- The lanes of a row as numbers. -/
def lanes (r : Row) (n count : Nat) : List Nat := (List.range count).map fun i => fieldNat r (n * i) n

/-- A number of `w` bits read as two's complement. -/
def sint (w x : Nat) : Int := (BitVec.ofNat w x).toInt

/-- Set bits of a number below `n`, rising. -/
def bitsSet (n x : Nat) : List Nat := (List.range n).filter fun i => x.testBit i

/-- A number with the listed bits set. -/
def ofBitsSet (l : List Nat) : Nat := l.foldl (fun a i => a ||| 2 ^ i) 0

/-! ## What the unlisted hold -/

/-- Entry i of the standard E4M3 table as an E8M10 value (R155, R157). -/
def e4m3Entry (i : Nat) : BitVec 19 :=
  let s : BitVec 1 := BitVec.ofNat 1 (i / 128)
  let e := i / 8 % 16
  let m := i % 8
  if e = 15 ∧ m = 7 then s ++ 0x3FE00#18
  else if e ≠ 0 then s ++ BitVec.ofNat 8 (e + 120) ++ BitVec.ofNat 10 (m * 128)
  else if m = 0 then s ++ 0#18
  else
    let k := m.log2
    s ++ BitVec.ofNat 8 (k + 118) ++ BitVec.ofNat 10 ((m - 2 ^ k) * 2 ^ (10 - k))

/-- The standard E4M3 table (R155). -/
def e4m3Table : List (BitVec 19) := (List.range 256).map e4m3Entry

/-- A strand number that owns no program counter (R24, R58). -/
def Strand.idle : Strand :=
  { live := false, pc := 0, wb := 0, wl := 0, eb := 0, el := 0, age := 0, wait := none, endedBy := none, fuse := none, began := 0,
    readyAt := 0, held := false, short := 0, byRow := false, bad := none, frame := ⟨0, 0, 0, 0⟩,
    past := false, aside := [], stopped := false, failed := [], body := [] }

/-- The power registers at reset (R359, R364, R450). -/
def Power.init : Power :=
  { reserve := 4096, tokens := 0, frac := 0, transit := 0, offers := [], temp := 0, t1 := false, t1act := false,
    t2 := false, t2act := false, t3 := false, t3act := false, sampled := none }

/-- The field book at reset (R368). -/
def FBook.init : FBook :=
  { ctl := 0, head := 0, tail := 0, time0 := 0, time1 := 0, time2 := 0, time3 := 0, lost := 0, last := 0, since := 0,
    state := 3, cause := 0, ran := false, recent := 0, busy := 0, sampled := none, closed := none, pend := [] }

/-- The supervisor's registers at reset (R89, R431, R436, R437). -/
def Sup.init : Sup :=
  { tcmLen := 2, tcmBase := 30, ptbr := 0, snage := false, tvec := 0, sv := false, twl := 0, twb := 0,
    snagto := 1000000, drop := 0, tout := 0, made := 0, wplost := 0, wp0 := 0, wp1 := 0, snags := [], reports := [], hits := [],
    snagPend := 0, stopPend := [] }

/-- Quarantine and error registers at power-on (R407, R415, R418). -/
def Health.init : Health :=
  { qc := false, qr := false, test := false, result := 0, ueCause := 0, ueAddr := 0, corr := 0, eccState := 0,
    bank := 0, prog := 0 }

/-- A core's superstep state when it is placed (R34, R344). -/
def Exch.init : Exch :=
  { state := .compute, count := 0, sel := 0, plan := 0, carried := none, pc := 0, planTrap := none, todo := [], read := [], rx := 0,
    rxtotal := 0, bad := false, undo := [], deferred := [], rb := 0, unprot := false, rep := false, sup := false, mark := 0, got := [] }

/-- A core right after power-on. -/
def Core.init : Core :=
  { rows := [], bad := [], locks := [], reading := [], late := [], strands := [], cycle := 0, seq := 0, ops := [], utlb := [], rbloss := [], first := none,
    table := e4m3Table, v8 := true, v4 := false, loading := none, srseed := 0, uf0 := 0, uf1 := 0, uf2 := 0, uf3 := 0,
    narrowing := [], escTraps := 0,
    escThresh := 16, sup := Sup.init, power := Power.init, fb := FBook.init, health := Health.init, exch := Exch.init,
    eqMin := [], eqCap := [], chains := [], queue := [], undel := 0, gang := none, migrate := none, stop := none,
    halt := false, resumeAt := 0, stopTotal := 0, stopSince := 0, pairStops := 0, place := none, twinVals := [], istore := [], ended := false, helpersKilled := false, cut := none }

/-- An unbound chain slot (R305). -/
def Chain.free : Chain :=
  { bound := false, gen := 0, eng := 0, logn := 0, ring := 0, cword := 0, hirq := false, vec := 0, appended := 0,
    completed := 0, err := 0, binder := 0, cmds := [] }

/-- A cluster right after power-on. -/
def Cluster.init : Cluster :=
  { tiles := [], residencies := [], unitGen := [], cspslip := 0, mxw := [], mxTurn := (0, 0), draws := [], freq := 16, pqMin := [], pqCap := [],
    cspCorr := 0, cspState := 0, cspBank := 0, cspProg := 0, qa := false, tlb := [] }

/-- A die right after power-on (R340, R361, R384, R389). -/
def Die.init : Die :=
  { gated := false, waking := false, wakeTries := 0, captured := [], drops := 0, fwLock := false,
    plumb := 0x8000000000#40, skimState := 0, skimCtx := 0, skimTotal := 0, skimDone := 0, skimJob := [],
    tkbudget := 1200000, migdrop := 0, slipPcid := 0, slipCycles := 0, tlbsel := 0, coresel := 0, rtsel := 0,
    rtMin := [], rtCap := [], feMin := [], feCap := [], ceMin := [], ceCap := [], resq := [], hw := [], bmasks := [], keys := [],
    mclog := [], mccount := 0, mcirq := false, tlb := [], energy := [], powered := true, t4 := false, bootStep := 0, enter := none }

/-- A packet queue at reset (R337). -/
def PQueue.init : PQueue :=
  { prio := 0, kind := 0, base := 0, logsz := 4, die := 0, ctx := 0, state := 0, head := 0, tail := 0, age := 0,
    fetchAt := none, packet := none, waitAt := none, copy := none, owed := 0 }

/-- A Brirus port at reset (R380). -/
def Port.init : Port :=
  { state := 0, rate := 0, peer := 0, retry := 0, replay := [], sendSeq := 0, expect := 0, fails := 0, naks := 0, trainAt := 0 }

/-- A remap entry at reset (R50). -/
def Remap.none : Remap := { valid := false, state := 0, pcid := 0 }

/-! ## Cores, clusters and dies -/

/-- Number of dies (R1). -/
def State.dieCount (s : State) : Nat := if s.part = 4860 then 2 else 4

/-- The collective engine is present (R1, R2). -/
def State.coll (s : State) : Bool := s.part ≠ 4860

/-- The die of a PCID (R11). -/
def dieOf (p : Nat) : Nat := p / 2048

/-- The column of a PCID (R11). -/
def colOf (p : Nat) : Nat := p / 32 % 64

/-- The row of a PCID (R11). -/
def rowOf (p : Nat) : Nat := p % 32

/-- The physical cluster identifier of a core's cluster (R13): die, column, row div 8. -/
def cluOf (p : Nat) : Nat := p / 8

/-- The in-cluster position (R27). -/
def posOf (p : Nat) : Nat := p % 8

/-- The PCID names a core of this part (R11). -/
def State.isCore (s : State) (p : Nat) : Bool := decide (p < 8192) && decide (colOf p < 40) && decide (dieOf p < s.dieCount)

/-- First plumb column of a die (R14). -/
def State.plumbFirst (s : State) (d : Nat) : Nat := look (40 - s.plumbW) d s.plumbCol

/-- A column of a die belongs to the plumb column (R14). -/
def State.plumbColumn (s : State) (d c : Nat) : Bool :=
  decide (s.plumbFirst d ≤ c) && decide (c < s.plumbFirst d + s.plumbW)

/-- The core runs firmware (R14, R330). -/
def State.isPlumb (s : State) (p : Nat) : Bool := s.plumbColumn (dieOf p) (colOf p)

/-- The core with a PCID. -/
def State.core (s : State) (p : Nat) : Core := look Core.init p s.cores

/-- Replace a core. -/
def State.setCore (s : State) (p : Nat) (c : Core) : State := { s with cores := put p c s.cores }

/-- Change a core. -/
def State.modCore (s : State) (p : Nat) (f : Core → Core) : State := s.setCore p (f (s.core p))

/-- The cluster with an identifier. -/
def State.cluster (s : State) (n : Nat) : Cluster := look Cluster.init n s.clusters

/-- Change a cluster. -/
def State.modCluster (s : State) (n : Nat) (f : Cluster → Cluster) : State :=
  { s with clusters := put n (f (s.cluster n)) s.clusters }

/-- The die with a number. -/
def State.die (s : State) (n : Nat) : Die := look Die.init n s.dies

/-- Change a die. -/
def State.modDie (s : State) (n : Nat) (f : Die → Die) : State := { s with dies := put n (f (s.die n)) s.dies }

/-- A packet queue. -/
def State.queue (s : State) (n : Nat) : PQueue := look PQueue.init n s.queues

/-- Change a packet queue. -/
def State.modQueue (s : State) (n : Nat) (f : PQueue → PQueue) : State :=
  { s with queues := put n (f (s.queue n)) s.queues }

/-- Change a listed partition. -/
def State.modPart (s : State) (n : Nat) (f : Partition → Partition) : State :=
  match find n s.parts with
  | some x => { s with parts := put n (f x) s.parts }
  | none => s

/-- Change a listed tract. -/
def State.modTract (s : State) (n : Nat) (f : Tract → Tract) : State :=
  match find n s.tracts with
  | some x => { s with tracts := put n (f x) s.tracts }
  | none => s

/-- Change a listed instance. -/
def State.modInst (s : State) (n : Nat) (f : Instance → Instance) : State :=
  match find n s.insts with
  | some x => { s with insts := put n (f x) s.insts }
  | none => s

/-- Change a listed device context. -/
def State.modCtx (s : State) (n : Nat) (f : DevCtx → DevCtx) : State :=
  match find n s.ctxs with
  | some x => { s with ctxs := put n (f x) s.ctxs }
  | none => s

/-- A draw of a free value: the word and the state that will draw the next one (log entry 10). -/
def State.freeWord (s : State) : Word := Config.freeWord s.fresh

/-- The state after a draw. -/
def State.drawn (s : State) : State := { s with fresh := s.fresh + 1 }

/-! ## Strands and the register store -/

/-- Strand `k` of a core. -/
def Core.strand (c : Core) (k : Nat) : Strand := look Strand.idle k c.strands

/-- Replace strand `k`. -/
def Core.setStrand (c : Core) (k : Nat) (t : Strand) : Core := { c with strands := put k t c.strands }

/-- Strand `k` of core `p`. -/
def State.strand (s : State) (p k : Nat) : Strand := (s.core p).strand k

/-- Change strand `k` of core `p`. -/
def State.modStrand (s : State) (p k : Nat) (f : Strand → Strand) : State :=
  s.modCore p fun c => c.setStrand k (f (c.strand k))

/-- A physical row of the register store. -/
def Core.row (c : Core) (r : Nat) : Row := look 0 r c.rows

/-- Replace a row. -/
def Core.setRow (c : Core) (r : Nat) (v : Row) : Core := { c with rows := put r v c.rows }

/-- Write the masked bits of a row at once: a write of a whole word clears its error (R416). -/
def Core.blendRow (c : Core) (r : Nat) (mask value : Row) : Core :=
  { c.setRow r (blend (c.row r) mask value) with
    bad := c.bad.filter fun w => !(decide (w / 8 = r) && decide (rowWord mask (w % 8) = ~~~0)) }

/-- A word of a row that the mask touches cannot be corrected (R416). -/
def Core.rowBad (c : Core) (r : Nat) : Bool := c.bad.any fun w => w / 8 = r

/-- A row of core `p`. -/
def State.row (s : State) (p r : Nat) : Row := (s.core p).row r

/-- Write the masked bits of a row of core `p` at once. -/
def State.blendRow (s : State) (p r : Nat) (mask value : Row) : State := s.modCore p (·.blendRow r mask value)

/-- Write word `w` of a row of core `p` at once. -/
def State.putWord (s : State) (p r w : Nat) (v : Word) : State :=
  s.blendRow p r (rowMask (64 * w) 64) (v.zeroExtend 512 <<< (64 * w))

/-- The header row of a strand's current window (R64). -/
def State.header (s : State) (p k : Nat) : Row := s.row p (s.strand p k).wb

/-- Header word `w` (R64). -/
def State.hword (s : State) (p k w : Nat) : Word := rowWord (s.header p k) w

/-- Predicate `q` (R61): q0 reads all ones. -/
def State.pred (s : State) (p k q : Nat) : BitVec 16 :=
  if q = 0 then 0xFFFF else (s.header p k).extractLsb' (256 + 16 * (q - 1)) 16

/-- Mask of predicate `q` in the header row; zero for q0. -/
def predMask (q : Nat) : Row := if q = 0 then 0 else rowMask (256 + 16 * (q - 1)) 16

/-- Predicate `q` placed in the header row. -/
def predValue (q : Nat) (v : BitVec 16) : Row := v.zeroExtend 512 <<< (256 + 16 * (q - 1))

/-- Branch-target slot `t` (R64). -/
def State.target (s : State) (p k t : Nat) : BitVec 32 := (s.header p k).extractLsb' (128 + 32 * t) 32

/-- RACT: a repetition buffer is open. -/
def State.ract (s : State) (p k : Nat) : Bool := (s.hword p k 6).getLsbD 52

/-- The strand's next word is a word of an open body: RACT is 1, and the strand runs no handler that left the body aside (R74, R76). -/
def State.inBody (s : State) (p k : Nat) : Bool := s.ract p k && !(s.strand p k).aside.contains (s.strand p k).wb

/-- A handler starts in the strand's window: an open body stays in the header as it is (R76). -/
def State.setAside (s : State) (p k : Nat) : State :=
  if s.ract p k then s.modStrand p k fun t => { t with aside := addNat t.wb t.aside } else s

/-- The strand's window goes back to its body, which is fetched again, or opens a new one (R75, R76). -/
def Strand.takeUp (t : Strand) : Strand := { t with aside := delNat t.wb t.aside, body := [] }

/-- A core taken from its place holds no repetition buffer: an open body is fetched again where it goes on (R76). -/
def Core.bodiless (c : Core) : Core := { c with strands := c.strands.map fun t => (t.1, { t.2 with body := [] }) }

/-! ### Scoreboard and locks -/

/-- A scalar as a write bound by a word: program-order number, row, bits. -/
def Dest.bound (d : Dest) (id : Nat) : Nat × Nat × Row := (id, d.row, rowMask (64 * d.word) 64)

/-- The writes that a strand's wait or FUSE has bound and not made (R67, R68). -/
def Strand.boundWrites (t : Strand) : List (Nat × Nat × Row) :=
  (match t.wait with
  | some w => (w.dest.map fun d => d.bound w.id).toList ++ (match w.kind with
    | .recv row hd => [(w.id, row, ~~~0), hd.bound w.id]
    | _ => [])
  | none => []) ++ (t.fuse.map fun f => f.dest.bound f.id).toList

/-- The writes pending on rows: program-order number of the word, row, bits (R68). A word that has several parts bound to
one row counts once. -/
def Core.pendings (c : Core) : List (Nat × Nat × Row) :=
  let ops (o : MemOp) : List (Nat × Nat × Row) :=
    match o.row with
    | some r => [(o.id, r, rowMask o.bit o.width)]
    | none => []
  c.late.map (fun l => (l.id, l.row, l.mask)) ++ c.ops.flatMap ops ++
  c.sup.snags.flatMap (fun g => match g.owner with
    | .op o => ops o
    | .engine _ _ => []) ++
  c.exch.deferred.flatMap (fun d => match d with
    | .rmw o _ => ops o
    | _ => []) ++
  c.strands.flatMap (fun t => t.2.boundWrites)

/-- The scoreboard bit of a row (R68, R73). -/
def Core.busy (c : Core) (r : Nat) : Bool := c.pendings.any fun e => e.2.1 = r

/-- The row holds fifteen pending writes (R68). -/
def Core.saturated (c : Core) (r : Nat) : Bool :=
  decide (15 ≤ ((c.pendings.filter fun e => e.2.1 = r).map (·.1)).eraseDups.length)

/-- The 64-bit words that a mask touches, as a mask of eight bits. -/
def wordsOf (m : Row) : Nat := ofBitsSet ((List.range 8).filter fun w => rowWord m w ≠ 0)

/-- An older write is pending on a 64-bit word that the mask touches: writes to one word land in issue order (R68). -/
def Core.blocked (c : Core) (id r : Nat) (m : Row) : Bool :=
  c.pendings.any fun e => e.2.1 = r && decide (e.1 < id) && wordsOf e.2.2 &&& wordsOf m ≠ 0

/-- The lock bit of a row (R73, R306). -/
def Core.locked (c : Core) (r : Nat) : Bool := c.locks.contains r || c.reading.any fun x => x.1 = r && decide (c.cycle < x.2)

/-- Late writes whose cycle has come land, oldest first, unless their row is locked or an older write to the same word is
pending (R67, R68, R73). -/
def Core.landList : List Late → Core → Core
  | [], c => c
  | l :: rest, c =>
    if l.due ≤ c.cycle ∧ c.locked l.row = false ∧ c.blocked l.id l.row l.mask = false then
      Core.landList rest ({ c with late := c.late.filter (· ≠ l) }.blendRow l.row l.mask l.value)
    else Core.landList rest c

/-- The landing of a core's due late writes. -/
def Core.land (c : Core) : Core := Core.landList c.late c

/-- A write of the word with a program-order number: at once when its latency is at most 1, no older write to one of its words is pending
and its row is not locked; else bound now and landing later, after those (R67, R68, R73, R199). -/
def State.writeRowAs (s : State) (id p r lat : Nat) (mask value : Row) : State :=
  if lat ≤ 1 ∧ (s.core p).blocked id r mask = false ∧ (s.core p).locked r = false then s.blendRow p r mask value
  else s.modCore p fun c => { c with
    late := c.late ++ [{ id := id, due := c.cycle + lat, row := r, mask := mask, value := value }] }

/-- A register write of the word in execution. -/
def State.writeRow (s : State) (p r lat : Nat) (mask value : Row) : State := s.writeRowAs (s.core p).seq p r lat mask value

/-! ### Writes of header fields -/

/-- Write the masked bits of header word `w`. -/
def State.putHmask (s : State) (p k w : Nat) (mask v : Word) : State :=
  s.writeRow p (s.strand p k).wb 1 (mask.zeroExtend 512 <<< (64 * w)) (v.zeroExtend 512 <<< (64 * w))

/-- Write header word `w`. -/
def State.putHword (s : State) (p k w : Nat) (v : Word) : State := s.putHmask p k w (~~~0) v

/-- `n` ones from bit `lo` of a word. -/
def bitMask (lo n : Nat) : Word := BitVec.ofNat 64 ((2 ^ n - 1) * 2 ^ lo)

/-- Write `n` bits from bit `lo` of header word `w`. -/
def State.putHbits (s : State) (p k w lo n v : Nat) : State := s.putHmask p k w (bitMask lo n) (BitVec.ofNat 64 (v % 2 ^ n * 2 ^ lo))

/-- Write a predicate at issue; a write of q0 has no effect. -/
def State.putPred (s : State) (p k q : Nat) (v : BitVec 16) : State :=
  if q = 0 then s else s.writeRow p (s.strand p k).wb 1 (predMask q) (predValue q v)

/-- INH of the header of a strand's window is set by an entry, which comes after the strand's words before it (R429, R430). -/
def State.setInh (s : State) (p k : Nat) : State := (s.modCore p fun c => { c with seq := c.seq + 1 }).putHbits p k 7 60 1 1

/-! ## Memories as one space of locations -/

/-- First location of a core's TCM. -/
def tcmBase (p : Nat) : Nat := 2 ^ 48 + p * 2 ^ 17

/-- First location of a cluster's scratchpad. -/
def cspBase (n : Nat) : Nat := 2 ^ 49 + n * 2 ^ 20

/-- First location of a cluster's palette. -/
def palBase (n : Nat) : Nat := 2 ^ 50 + n * 2 ^ 18

/-- The byte at a location: zero where nothing is listed (R83, R456). -/
def memGet (a : Nat) : List Host.Cell → Byte
  | [] => 0
  | (j, v) :: r => if j = a then v else memGet a r

/-- Insert a byte, locations kept in rising order. -/
def memPut (a : Nat) (v : Byte) : List Host.Cell → List Host.Cell
  | [] => [(a, v)]
  | (j, w) :: r => if a < j then (a, v) :: (j, w) :: r else if a = j then (a, v) :: r else (j, w) :: memPut a v r

/-- Write a byte; a zero takes the entry away, so that equal memories are equal lists. -/
def memSet (a : Nat) (v : Byte) (m : List Host.Cell) : List Host.Cell :=
  if v = 0 then m.filter fun e => e.1 ≠ a else memPut a v m

/-- The canonical form: locations strictly rising, no entry zero. -/
abbrev Memory.wf (m : List Host.Cell) : Prop :=
  m.Pairwise (fun x y => x.1 < y.1) ∧ ∀ e ∈ m, e.2 ≠ 0

/-! A location in a P page carries the number of its page's key above bit 64 (R385). -/

/-- The location without its key. -/
def plain (a : Nat) : Nat := a % 2 ^ 64

/-- The key of a location, 0 for none. -/
def viaKey (a : Nat) : Nat := a / 2 ^ 64

/-- The bytes of a line as a key reads them (R385). -/
def lineAs (k line : Nat) (m : List Host.Cell) (kd : AMap Nat) : List Byte :=
  let raw := (List.range 64).map fun i => memGet (64 * line + i) m
  if look 0 line kd = k then raw
  else natBytes 64 (Config.otherKey (look 0 line kd) k line (BitVec.ofNat 512 (leNat raw))).toNat

/-- The byte at a location without its key, as a key reads it. -/
def byteAs (k l : Nat) (m : List Host.Cell) (kd : AMap Nat) : Byte :=
  if look 0 (l / 64) kd = k then memGet l m else (lineAs k (l / 64) m kd).getD (l % 64) 0

/-- Read one byte. -/
def State.byte (s : State) (a : Nat) : Byte := byteAs (viaKey a) (plain a) s.mem s.keyed

/-- Read `n` bytes. -/
def State.bytes (s : State) (a n : Nat) : List Byte := (List.range n).map fun i => s.byte (a + i)

/-- Read `n` bytes as a little-endian number. -/
def State.loadNat (s : State) (a n : Nat) : Nat := leNat (s.bytes a n)

/-- Read a 64-bit word. -/
def State.loadWord (s : State) (a : Nat) : Word := BitVec.ofNat 64 (s.loadNat a 8)

/-- Write bytes to consecutive locations. -/
def memStore (a : Nat) : List Byte → List Host.Cell → List Host.Cell
  | [], m => m
  | b :: r, m => memStore (a + 1) r (memSet a b m)

/-- A line that a key writes: where another key wrote it last, its bytes become what this one reads there (R385). -/
def turnLine (k : Nat) (x : List Host.Cell × AMap Nat) (line : Nat) : List Host.Cell × AMap Nat :=
  if look 0 line x.2 = k then x
  else (memStore (64 * line) (lineAs k line x.1 x.2) x.1, if k = 0 then del line x.2 else put line k x.2)

/-- The lines that hold a range. -/
def linesOf (l n : Nat) : List Nat := if n = 0 then [] else (List.range ((l % 64 + n + 63) / 64)).map (l / 64 + ·)

/-- Memory and the keys of its lines after bytes are written at a location. -/
def storeCells (a : Nat) (bs : List Byte) (x : List Host.Cell × AMap Nat) : List Host.Cell × AMap Nat :=
  let y := (linesOf (plain a) bs.length).foldl (turnLine (viaKey a)) x
  (memStore (plain a) bs y.1, y.2)

/-- Write bytes. -/
def State.store (s : State) (a : Nat) (bs : List Byte) : State :=
  let r := storeCells a bs (s.mem, s.keyed)
  { s with mem := r.1, keyed := r.2 }

/-- The full-empty bit of the word that holds a location (R83). -/
def State.isFull (s : State) (a : Nat) : Bool := s.full.contains (plain a / 8 * 8)

/-- Set or clear the full-empty bit of a word (R83). -/
def State.setFull (s : State) (a : Nat) (b : Bool) : State :=
  { s with full := if b then addNat (plain a / 8 * 8) s.full else delNat (plain a / 8 * 8) s.full }

/-- The first location and the length of the codeword that holds a location (R413). -/
def codeword (a : Nat) : Nat × Nat :=
  if a < 2 ^ 39 then (a / 64 * 64, 64)
  else if a < 2 ^ 48 then (a / 8 * 8, 8)
  else if a < 2 ^ 49 then (a / 64 * 64, 64)
  else if a < 2 ^ 50 then (a / 256 * 256, 256)
  else (a / 8 * 8, 8)

/-- A byte of the range lies in a poisoned codeword (R416). -/
def State.poisoned (s : State) (a n : Nat) : Bool := (List.range n).any fun i => s.poison.contains (codeword (plain a + i)).1

/-- A write of `n` bytes at `a` clears the poison of each codeword that it covers whole (R416). -/
def State.cleanse (s : State) (a n : Nat) : State :=
  { s with poison := s.poison.filter fun q => !(decide (plain a ≤ q) && decide (q + (codeword q).2 ≤ plain a + n)) }

/-! ### The physical map -/

/-- The location space is a DRAM channel, a die's shared SRAM or host memory. -/
inductive Region where
  | dram | dsr | host
  deriving DecidableEq, Repr

/-- Column number `i` of die `d` among the columns outside the plumb column (R91). -/
def State.userColumn (s : State) (d i : Nat) : Nat := if i < s.plumbFirst d then i else i + s.plumbW

/-- User channels of one die (R90). -/
def State.channels (s : State) : Nat := 32 * (40 - s.plumbW)

/-- SB, the channel offset of striped storage (R92). -/
def State.stripeBase (s : State) : Nat := s.strbase * 4096

/-- The DRAM address of offset `y` of a striped space: `die` is none for the device-striped one (R91). -/
def State.unstripe (s : State) (die : Option Nat) (y : Nat) : Nat :=
  let j := y / 4096
  let nd := s.channels
  let n := match die with
    | none => s.dieCount * nd
    | some _ => nd
  let k := j % n
  let d := match die with
    | none => k / nd
    | some d => d
  let k := k % nd
  let pcid := d * 2048 + s.userColumn d (k / 32) * 32 + k % 32
  pcid * 2 ^ 26 + s.stripeBase + j / n * 4096 + y % 4096

/-- The location of a physical address, with its region, or none where it names no memory (R90). -/
def State.phys (s : State) (a : Nat) : Option (Region × Nat) :=
  if a < 2 ^ 39 then
    if s.isCore (a / 2 ^ 26) then some (.dram, a) else none
  else if a < 2 ^ 40 then
    let o := a - 2 ^ 39
    if o / 2 ^ 27 < s.dieCount ∧ o % 2 ^ 27 < 0x6000000 then some (.dsr, a) else none
  else if a < 2 ^ 41 then
    let o := a - 2 ^ 40
    let d := o / 2 ^ 36
    if d < s.dieCount ∧ o % 2 ^ 36 < s.channels * (2 ^ 26 - s.stripeBase) then
      some (.dram, s.unstripe (some d) (o % 2 ^ 36))
    else none
  else if 0x20000000000 ≤ a ∧ a < 0x30000000000 then
    let y := a - 0x20000000000
    if y < s.dieCount * s.channels * (2 ^ 26 - s.stripeBase) then some (.dram, s.unstripe none y) else none
  else if 0x100000000000 ≤ a ∧ a < 0x200000000000 then some (.host, a)
  else none

/-- The die that holds a DRAM or DSR location (R385). -/
def locDie (a : Nat) : Nat := if a < 2 ^ 39 then a / 2 ^ 37 else (a - 2 ^ 39) / 2 ^ 27

/-- A 4 KiB frame lies inside a range that a running skim job names (R388). -/
def SkimRecord.covers (r : SkimRecord) (a : Nat) : Bool :=
  match r.kind with
  | 0 => decide (tcmBase r.unit + r.off ≤ a) && decide (a < tcmBase r.unit + r.off + r.len)
  | 1 => decide (cspBase r.unit + r.off ≤ a) && decide (a < cspBase r.unit + r.off + r.len)
  | 2 => decide (palBase r.unit + r.off ≤ a) && decide (a < palBase r.unit + r.off + r.len)
  | _ => decide (r.off ≤ a) && decide (a < r.off + r.len)

/-- A location is named by a skim job that has not completed (R388). -/
def State.skimmed (s : State) (a : Nat) : Bool :=
  s.dies.any fun d => (d.2.skimState = 1 ∨ d.2.skimState = 3) && d.2.skimJob.any (·.covers (plain a))

/-- A running skim job names the core: its TCM, its cluster's memories, or its DRAM channel (R388). -/
def State.skimNames (s : State) (p : Nat) : Bool :=
  s.dies.any fun d => (d.2.skimState = 1 ∨ d.2.skimState = 3) && d.2.skimJob.any fun r => match r.kind with
    | 0 => r.unit = p
    | _ => false

/-! ### Page tables (R93 to R97) -/

/-- What a walk ends with. -/
inductive Walked where
  /-- The leaf: its entry, and log2 of the bytes of its page. -/
  | leaf (pte : Word) (log : Nat)
  | fault
  deriving DecidableEq, Repr

/-- The word of a page table at a physical address: tables lie in DRAM channels or DSR (R93). -/
def State.tableWord (s : State) (a : Nat) : Option Word :=
  if a < 2 ^ 40 then
    match s.phys a with
    | some (_, l) => some (s.loadWord l)
    | none => none
  else none

/-- FRAME of an entry as a physical address. -/
def pteFrame (e : Word) : Nat := fieldNat e 12 36 * 4096

/-- IM of an entry. -/
def pteIm (e : Word) : Nat := fieldNat e 6 2

/-- A page of 2^log bytes at `a` lies entirely in the valid part of the region that IM names (R96). -/
def State.pageOk (s : State) (e : Word) (log : Nat) : Bool :=
  let a := pteFrame e
  let last := a + 2 ^ log - 1
  let prot := e.getLsbD 5
  let inDram : Bool := decide (last < 2 ^ 39) &&
    (List.range (max 1 (2 ^ log / 2 ^ 26))).all fun i => s.isCore ((a + i * 2 ^ 26) / 2 ^ 26)
  let inDsr : Bool := decide (2 ^ 39 ≤ a) && decide (last < 2 ^ 40) && (s.phys a).isSome && (s.phys last).isSome &&
    decide ((a - 2 ^ 39) / 2 ^ 27 = (last - 2 ^ 39) / 2 ^ 27)
  let inHost : Bool := decide (0x100000000000 ≤ a) && decide (last < 0x200000000000) && !prot
  match pteIm e with
  | 0 => inDram || inDsr || inHost
  | 1 => decide (2 ^ 40 ≤ a) && decide (last < 2 ^ 41) && (s.phys a).isSome && (s.phys last).isSome &&
      decide ((a - 2 ^ 40) / 2 ^ 36 = (last - 2 ^ 40) / 2 ^ 36)
  | 2 => decide (0x20000000000 ≤ a) && decide (last < 0x30000000000) && (s.phys last).isSome
  | _ => false

/-- The leaf of a page whose frame is right, or a fault (R95, R96). -/
def State.leafOf (s : State) (e : Word) (log : Nat) : Walked :=
  if fieldNat e 48 16 ≠ 0 ∨ pteFrame e % 2 ^ log ≠ 0 ∨ !s.pageOk e log then .fault else .leaf e log

/-- The aligned group of 16 entries at table address `t`, group start index `i0` (R95). -/
def State.groupOk (s : State) (t i0 log : Nat) : Bool :=
  match s.tableWord (t + 8 * i0) with
  | none => false
  | some f =>
    decide (pteFrame f % 2 ^ (log + 4) = 0) &&
    (List.range 16).all fun j =>
      match s.tableWord (t + 8 * (i0 + j)) with
      | none => false
      | some e => e.getLsbD 0 && e.getLsbD 3 && e.getLsbD 2 && decide (fieldNat e 48 16 = 0) &&
          decide (fieldNat e 4 8 = fieldNat f 4 8) && decide (e.getLsbD 1 = f.getLsbD 1) &&
          decide (pteFrame e = pteFrame f + j * 2 ^ log)

/-- A walk from a table at the listed levels, highest first (R93 to R96). -/
def State.walkFrom (s : State) (va : Nat) : List Nat → Nat → Walked
  | [], _ => .fault
  | lv :: rest, t =>
    let i := va / 2 ^ (12 + 9 * lv) % 512
    match s.tableWord (t + 8 * i) with
    | none => .fault
    | some e =>
      if e.getLsbD 0 = false ∨ fieldNat e 48 16 ≠ 0 then .fault
      else if e.getLsbD 2 then
        if 3 ≤ lv then .fault
        else if e.getLsbD 3 then
          let i0 := i / 16 * 16
          if s.groupOk t i0 (12 + 9 * lv) then
            match s.tableWord (t + 8 * i0) with
            | some f => s.leafOf f (12 + 9 * lv + 4)
            | none => .fault
          else .fault
        else s.leafOf e (12 + 9 * lv)
      else if fieldNat e 1 11 ≠ 0 then .fault
      else s.walkFrom va rest (pteFrame e)

/-- A page walk for a virtual address from a root table (R93, R100). -/
def State.walk (s : State) (root va : Nat) : Walked := s.walkFrom va [4, 3, 2, 1, 0] root

/-- The physical address that a leaf gives for a virtual address. -/
def leafAddr (e : Word) (log va : Nat) : Nat := pteFrame e + va % 2 ^ log

/-- A leaf may be used: its P page's key slot is loaded, and no skim job or HDM range forbids it (R375, R385, R388). -/
def State.leafUsable (s : State) (e : Word) (log va : Nat) : Bool :=
  match s.phys (leafAddr e log va) with
  | none => false
  | some (rg, l) =>
    let prot := e.getLsbD 5
    let keyOk := !prot || (rg ≠ .host && (s.die (locDie l)).keys.any fun k => k.slot = fieldNat e 8 4)
    let hdm := prot && pteIm e = 2 && decide (pteFrame e - 0x20000000000 < s.hdmsz)
    keyOk && !hdm && !s.skimmed (l / 4096 * 4096)

/-! ### Program addresses (R85 to R89) -/

/-- Where a program address leads. -/
inductive Reach where
  /-- A location; the core that serves it, for kinds 0 to 3; RS of its page, host memory. -/
  | loc (l : Nat) (rs host : Bool)
  /-- A fault with its cause: 7 address, 8 aperture, 9 walk, 10 write permission. -/
  | fault (cause : Nat)
  /-- No TLB holds the page: a walk is needed. -/
  | miss
  /-- Held by the routers: the core that it names is migrating (R51). -/
  | held
  deriving DecidableEq, Repr

/-- First address of the local aperture (R86). -/
def aperture : Nat := 0x1FFFF0000000000

/-- The supervisor area of a core's TCM holds a byte of the range (R89). -/
def Core.inSupArea (c : Core) (off n : Nat) : Bool :=
  decide (0 < c.sup.tcmLen) && decide (off < (c.sup.tcmBase + c.sup.tcmLen) * 4096) && decide (c.sup.tcmBase * 4096 < off + n)

/-- Who makes an access. -/
structure Who where
  pcid : Nat
  /-- Supervisor code, which reaches its own core's supervisor area (R89). -/
  sup : Bool
  /-- Firmware (R330). -/
  firmware : Bool
  deriving DecidableEq, Repr

/-- Strand `k` of core `p` as the maker of an access. -/
def State.who (s : State) (p k : Nat) : Who :=
  { pcid := p, sup := k = 0 && (s.core p).sup.sv, firmware := s.isPlumb p }

/-- The remap entry of a logical number of the core's partition (R49). -/
def State.remapOf (s : State) (p l : Nat) : Remap :=
  match (s.core p).place with
  | none => Remap.none
  | some pl =>
    match find pl.part s.parts with
    | none => Remap.none
    | some pt => if l < pt.size then look Remap.none l pt.remap else Remap.none

/-- An access of `n` bytes through the aperture (R86 to R89, R51, R384). -/
def State.reachAperture (s : State) (w : Who) (va n : Nat) : Reach :=
  let a := va - aperture
  let kind := a / 2 ^ 37
  let lcn := a / 2 ^ 24 % 8192
  let off := a % 2 ^ 24
  let size := if kind % 2 = 0 then 2 ^ 17 else 2 ^ 20
  if 4 ≤ kind ∨ (kind ≤ 1 ∧ lcn ≠ 0) ∨ size < off + n then .fault 8
  else if kind ≤ 1 then
    if kind = 0 ∧ (s.core w.pcid).inSupArea off n ∧ !w.sup ∧ !w.firmware then .fault 8
    else .loc (if kind = 0 then tcmBase w.pcid + off else cspBase (cluOf w.pcid) + off) false false
  else
    let e := s.remapOf w.pcid lcn
    if e.valid = false ∨ e.state = 2 ∨ s.isPlumb e.pcid then .fault 8
    else if e.state = 1 then .held
    else if kind = 2 then
      if (s.core e.pcid).inSupArea off n ∧ !w.firmware ∧ !(w.sup && e.pcid = w.pcid) then .fault 8
      else .loc (tcmBase e.pcid + off) false false
    else .loc (cspBase (cluOf e.pcid) + off) false false

/-- A TLB entry that holds a page of a partition. -/
def tlbFind (part va : Nat) : List TlbEntry → Option TlbEntry
  | [] => none
  | e :: r => if e.part = part ∧ e.va = va / 2 ^ e.log * 2 ^ e.log then some e else tlbFind part va r

/-- The entry of the first TLB level that holds the page (R99). -/
def State.tlbLook (s : State) (p part va : Nat) : Option TlbEntry :=
  match tlbFind part va (s.core p).utlb with
  | some e => some e
  | none =>
    match tlbFind part va (s.cluster (cluOf p)).tlb with
    | some e => some e
    | none => tlbFind part va (s.die (dieOf p)).tlb

/-- The key of a location in a leaf's page: that of the P page's slot, on the die that holds the location (R385). -/
def State.leafKey (s : State) (e : Word) (l : Nat) : Nat :=
  if e.getLsbD 5 then
    match (s.die (locDie l)).keys.find? fun k => k.slot = fieldNat e 8 4 with
    | some k => k.key
    | none => 0
  else 0

/-- What a leaf gives an access of a virtual address (R97, R129, R384). -/
def State.reachLeaf (s : State) (w : Who) (e : Word) (log va : Nat) (wr : Bool) : Reach :=
  if !s.leafUsable e log va then .fault 9
  else if wr && !e.getLsbD 1 then .fault 10
  else
    match s.phys (leafAddr e log va) with
    | none => .fault 9
    | some (rg, l) =>
      if rg = .dram ∧ s.isPlumb (l / 2 ^ 26) ∧ !w.firmware then .fault 8
      else .loc (l + s.leafKey e l * 2 ^ 64) (e.getLsbD 4) (rg = .host)

/-- Where a program address leads the maker of an access (R85 to R89, R465): firmware's addresses are physical addresses, and one that names no
memory is an address fault. -/
def State.reachAs (s : State) (w : Who) (va : Word) (n : Nat) (wr : Bool) : Reach :=
  let a := va.toNat
  if 2 ^ 57 ≤ a then .fault 7
  else if aperture ≤ a then s.reachAperture w a n
  else if w.firmware then
    match s.phys a with
    | none => .fault 7
    | some (rg, l) => .loc l false (rg = .host)
  else
    match (s.core w.pcid).place with
    | none => .fault 9
    | some pl =>
      match s.tlbLook w.pcid pl.part a with
      | some e => s.reachLeaf w e.leaf e.log a wr
      | none => .miss

/-- Where a program address leads a strand. -/
def State.reach (s : State) (p k : Nat) (va : Word) (n : Nat) (wr : Bool) : Reach := s.reachAs (s.who p k) va n wr

/-- The root table of a device context (R93). -/
def State.rootOf (s : State) (ctx : Nat) : Nat :=
  match find ctx s.ctxs with
  | some c => fieldNat c.root 12 36 * 4096
  | none => 0

/-- Where a program address leads an engine, the front end or another unit that works for a device context: by a translation that a TLB of the
core for which it works, `w`, holds, or by a walk of its own (R99, R309, R341). The front end works for no core. -/
def State.reachFor (s : State) (w : Who) (ctx : Nat) (va : Word) (n : Nat) (wr : Bool) : Reach :=
  let a := va.toNat
  if 2 ^ 57 ≤ a then .fault 7
  else if aperture ≤ a then s.reachAperture w a n
  else if w.firmware then
    match s.phys a with
    | none => .fault 7
    | some (rg, l) => .loc l false (rg = .host)
  else
    match (s.core w.pcid).place.bind fun pl => s.tlbLook w.pcid pl.part a with
    | some e => s.reachLeaf w e.leaf e.log a wr
    | none =>
      match s.walk (s.rootOf ctx) a with
      | .fault => .fault 9
      | .leaf e log => s.reachLeaf w e log a wr

/-- Where a program address leads an engine of core `p`. -/
def State.reachEngine (s : State) (p : Nat) (va : Word) (n : Nat) (wr : Bool) : Reach :=
  match (s.core p).place with
  | none => s.reachFor { pcid := p, sup := false, firmware := s.isPlumb p } 0 va n wr
  | some pl => s.reachFor { pcid := p, sup := false, firmware := s.isPlumb p } pl.ctx va n wr

/-- Where a program address of a device context leads the command front end: the aperture names no memory (R341). -/
def State.reachCtx (s : State) (ctx : Nat) (va : Word) (wr : Bool) : Reach :=
  if aperture ≤ va.toNat ∧ va.toNat < 2 ^ 57 then .fault 8
  else s.reachFor { pcid := 8192, sup := false, firmware := false } ctx va 8 wr

/-- The die whose firewall drops a message to a program address: one to a plumb-column core, its cluster or its channels (R384, R447). -/
def State.wallAt (s : State) (w : Who) (va : Nat) : Option Nat :=
  let a := va - aperture
  if w.firmware ∨ 2 ^ 57 ≤ va then none
  else if aperture ≤ va then
    let e := s.remapOf w.pcid (a / 2 ^ 24 % 8192)
    if (a / 2 ^ 37 = 2 ∨ a / 2 ^ 37 = 3) ∧ e.valid ∧ s.isPlumb e.pcid then some (dieOf e.pcid) else none
  else
    match (s.core w.pcid).place with
    | none => none
    | some pl =>
      let leaf := match s.tlbLook w.pcid pl.part va with
        | some e => some (e.leaf, e.log)
        | none => match s.walk (s.rootOf pl.ctx) va with
          | .leaf e log => some (e, log)
          | .fault => none
      match leaf.bind fun x => s.phys (leafAddr x.1 x.2 va) with
      | some (.dram, l) => if s.isPlumb (l / 2 ^ 26) then some (dieOf (l / 2 ^ 26)) else none
      | _ => none

/-- A die's firewall has dropped a message (R384). -/
def State.dropAt (s : State) (d : Option Nat) : State :=
  match d with
  | some d => s.modDie d fun x => { x with drops := min (x.drops + 1) 65535 }
  | none => s

/-- A message that a firewall drops is counted by its die (R384, R447). -/
def State.countDrop (s : State) (w : Who) (cause va : Nat) : State := s.dropAt (if cause = 8 then s.wallAt w va else none)

/-! ### Stores and what they bring about (R97, R416, R419) -/

/-- A store of `n` bytes at a location makes the residencies stale whose recorded ranges it touches (R97, R321). -/
def Residency.touch (r : Residency) (a n : Nat) : Residency :=
  let on (l : List (Nat × Nat)) : Bool := l.any fun q => decide (q.1 < plain a + n) && decide (plain a < q.1 + q.2)
  { r with
    state := if on r.ranges && r.state ≠ .empty then .stale else r.state
    fills := r.fills.map fun f => if on f.ranges then { f with stale := true } else f }

/-- Mark stale every residency whose recorded source holds a stored byte, those of a stopped partition too (R97, R321). -/
def State.markStale (s : State) (a n : Nat) : State :=
  { s with
    clusters := s.clusters.map fun c => (c.1, { c.2 with residencies := c.2.residencies.map (·.touch a n) })
    parts := s.parts.map fun x => (x.1, { x.2 with savedRes := x.2.savedRes.map fun r => (r.1, r.2.touch a n) }) }

/-- The tract of a placed core. -/
def State.tractOf (s : State) (p : Nat) : Option Tract :=
  match (s.core p).place with
  | none => none
  | some pl =>
    match find pl.inst s.insts with
    | none => none
    | some i => find i.tract s.tracts

/-- The core runs a rollback-mode parcel (R419). -/
def State.rollbackMode (s : State) (p : Nat) : Bool :=
  match s.tractOf p with
  | some t => t.rollback
  | none => false

/-- Undo-log entries of a core that CORE_DATUM.LOG counts: its own TCM is shadowed, not logged (R419). -/
def undoCount (p : Nat) (l : List Undo) : Nat :=
  (l.filter fun u => !(decide (tcmBase p ≤ u.loc) && decide (u.loc < tcmBase p + 2 ^ 17))).length

/-- Record the old words that an agent of a core is about to overwrite, in rollback mode; a TCM is shadowed by its own core,
whoever writes it (R419, R422). -/
def State.logUndo (s : State) (agent a n : Nat) : State :=
  let a := plain a
  let p := if 2 ^ 48 ≤ a ∧ a < 2 ^ 49 then (a - 2 ^ 48) / 2 ^ 17 else agent
  if s.rollbackMode p && (decide (a < 2 ^ 40) || (decide (2 ^ 48 ≤ a) && decide (a < 2 ^ 50))) then
    let words := (List.range ((a % 8 + n + 7) / 8)).map fun i => a / 8 * 8 + 8 * i
    words.foldl (fun x w =>
      let c := x.core p
      let u : Undo := { seq := x.nextId, loc := w, old := (List.range 8).map fun i => memGet (w + i) x.mem, full := x.isFull w,
                        key := look 0 (w / 64) x.keyed }
      if 16384 ≤ undoCount p c.exch.undo ∧ !(decide (tcmBase p ≤ w) && decide (w < tcmBase p + 2 ^ 17)) then
        x.setCore p { c with exch := { c.exch with unprot := true } }
      else
        ({ x with nextId := x.nextId + 1 }).setCore p { c with exch := { c.exch with undo := c.exch.undo ++ [u] } }) s
  else s

/-- A store by an agent of core `p`: undo log, bytes, staleness, poison, and the full-empty bits where it sets or
clears them. The poison of a TCM stripe goes by a full row store only (R416), which `State.wholeRow` sees. -/
def State.writeMem (s : State) (p a : Nat) (bs : List Byte) (rs : Bool) (full : Option Bool) : State :=
  let s1 := (s.logUndo p a bs.length).store a bs
  let s2 := if rs then s1.markStale a bs.length else s1
  let s3 := if 2 ^ 48 ≤ a ∧ a < 2 ^ 49 then s2 else s2.cleanse a bs.length
  match full with
  | none => s3
  | some b => (List.range ((a % 8 + bs.length + 7) / 8)).foldl (fun x i => x.setFull (a / 8 * 8 + 8 * i) b) s3

/-- Ticks in which an access to host memory has to complete: 50 µs (R448). -/
def hostLimit : Nat := 50000

/-! ### Translations that have been used (R99) -/

/-- Install a translation in a level of `cap` entries; which entry a full level gives up is not defined: `pick` chooses. -/
def installTlb (cap pick : Nat) (e : TlbEntry) (l : List TlbEntry) : List TlbEntry :=
  let l := l.filter fun x => !(x.part = e.part && x.va = e.va && x.log = e.log)
  if l.length < cap then l ++ [e] else l.set (pick % cap) e

/-- The result of a walk goes into the TLBs of the core, its cluster and its die (R99). -/
def State.install (s : State) (p : Nat) (e : TlbEntry) : State :=
  let r := s.freeWord.toNat
  ((s.drawn.modCore p fun c => { c with utlb := installTlb 64 r e c.utlb }).modCluster (cluOf p)
    fun c => { c with tlb := installTlb 1024 (r / 64) e c.tlb }).modDie (dieOf p)
    fun d => { d with tlb := installTlb 1024 (r / 65536) e d.tlb }

/-- A unit that works for a core has used a translation of a page: one that no TLB of the core held is installed by its walk (R99). -/
def State.walked (s : State) (p : Nat) (va : Word) : State :=
  match (s.core p).place with
  | none => s
  | some pl =>
    if aperture ≤ va.toNat ∨ s.isPlumb p ∨ (s.tlbLook p pl.part va.toNat).isSome then s
    else
      match s.walk (s.rootOf pl.ctx) va.toNat with
      | .fault => s
      | .leaf e log => s.install p { part := pl.part, va := va.toNat / 2 ^ log * 2 ^ log, log := log, leaf := e }

/-! ## The field book (R366 to R370) -/

/-- Tick count since the last record, and the record's four words (R367). -/
def State.fbWords (s : State) (p kind value : Nat) (w2 w3 : Word) : List Byte :=
  let c := s.core p
  let log := match c.place with
    | some pl => pl.log
    | none => 0
  let w0 := kind * 2 ^ 60 + c.fb.state % 4 * 2 ^ 58 + c.fb.cause % 4 * 2 ^ 56 + c.exch.count % 2 ^ 16 * 2 ^ 40 +
    log % 8192 * 2 ^ 27 + value % 2 ^ 20
  natBytes 8 w0 ++ natBytes 8 (s.now - c.fb.last) ++ natBytes 8 w2.toNat ++ natBytes 8 w3.toNat

/-- A record write faults: FAULT is set, and records stop (R370). -/
def State.fbFault (s : State) (p : Nat) : State := s.modCore p fun x => { x with fb := { x.fb with ctl := (x.fb.ctl ||| 2) &&& ~~~4 } }

/-- A record is discarded and counted (R370). -/
def State.fbLose (s : State) (p : Nat) : State :=
  s.modCore p fun x => { x with fb := { x.fb with lost := min (x.fb.lost + 1) (2 ^ 64 - 1) } }

/-- The address of the next record. -/
def FBook.slot (f : FBook) : Word :=
  BitVec.ofNat 64 (fieldNat f.ctl 12 45 * 4096 + 32 * (f.head.toNat % 2 ^ (fieldNat f.ctl 8 4 + 8)))

/-- Where the next record of a core goes. -/
def State.fbReach (s : State) (p : Nat) : Reach := s.reachEngine p (s.core p).fb.slot 32 true

/-- The bytes of a record are stored at its location, and the head goes on (R370); the translation that this used is installed (R99). -/
def State.fbStore (s0 : State) (p l : Nat) (rs : Bool) (bs : List Byte) : State :=
  let s := s0.walked p (s0.core p).fb.slot
  let s1 := s.store l bs
  let s2 := if rs then s1.markStale l 32 else s1
  (s2.cleanse l 32).modCore p fun x => { x with fb := { x.fb with head := x.fb.head + 1 } }

/-- A record waits for host memory whose link is down (R448); those that come after it wait too (R370). -/
def State.fbWait (s : State) (p : Nat) (bs : List Byte) : State :=
  s.modCore p fun x => { x with fb := { x.fb with pend := x.fb.pend ++ [(bs, s.now)] } }

/-- Write one record at the head of the ring and advance the head; a fault loses it and stops records (R370); one for host memory waits while the link
is down (R448). A record for a core that migrates is discarded and counted (DESIGN CHOICE, log entry 41). -/
def State.fbPut (s : State) (p : Nat) (bs : List Byte) : State :=
  let c := s.core p
  let made (x : State) : State := x.modCore p fun c => { c with fb := { c.fb with last := s.now } }
  if !c.fb.pend.isEmpty then made (s.fbWait p bs)
  else match s.fbReach p with
  | .loc l rs host => if host && !s.hostUp then made (s.fbWait p bs) else made (s.fbStore p l rs bs)
  | .fault k => (s.countDrop { pcid := p, sup := false, firmware := s.isPlumb p } k c.fb.slot.toNat).fbFault p
  | _ => s.fbLose p

/-- A record of the core can be written, or faults: its entry does not migrate. -/
def State.fbOpen (s : State) (p : Nat) : Bool :=
  !(s.core p).fb.pend.isEmpty || match s.fbReach p with
    | .loc _ _ _ => true
    | .fault _ => true
    | _ => false

/-- The oldest record that has waited for host memory: it is written once the link is up, and is lost as one that faults after 50 µs (R370, R448). -/
def State.fbFlush (s : State) (p : Nat) : Host.Outcome State Fault Refusal :=
  match (s.core p).fb.pend with
  | [] => .fault .notEnabled
  | (bs, t) :: r =>
    let lost (x : State) : State := x.modCore p fun c => { c with fb := { c.fb with pend := [] } }
    match s.fbReach p with
    | .loc l rs host =>
      if host && !s.hostUp then (if s.now < t + hostLimit then .fault .notEnabled else .next (lost (s.fbFault p)))
      else .next ((s.fbStore p l rs bs).modCore p fun c => { c with fb := { c.fb with pend := r } })
    | .fault _ => .next (lost (s.fbFault p))
    | _ => .fault .notEnabled

/-- A record of the core: discarded and counted when the ring lacks room, after a loss marker otherwise (R370, R454). A core that has left its device
context, and runs no firmware, records nothing (DESIGN CHOICE, log entry 41). -/
def State.fbRecord (s : State) (p kind value : Nat) (w2 w3 : Word) : State :=
  let c := s.core p
  let shadow := match c.place with
    | some pl => decide (pl.twin = 2)
    | none => false
  if c.fb.ctl.getLsbD 2 = false ∨ shadow = true ∨ (c.place.isNone ∧ s.isPlumb p = false) then s
  else
    let room := 2 ^ (fieldNat c.fb.ctl 8 4 + 8) - (c.fb.head - c.fb.tail).toNat - c.fb.pend.length
    if room < 2 ∨ s.fbOpen p = false then s.fbLose p
    else if 0 < c.fb.lost then
      let s1 := s.fbPut p (s.fbWords p 4 0 (BitVec.ofNat 64 c.fb.lost) (BitVec.ofNat 64 s.now))
      let s2 := s1.modCore p fun x => { x with fb := { x.fb with lost := 0 } }
      if (s2.core p).fb.ctl.getLsbD 2 then s2.fbPut p (s2.fbWords p kind value w2 w3) else s2
    else s.fbPut p (s.fbWords p kind value w2 w3)

/-! ## Instances -/

/-- The physical cores that run an instance, both twins of a pair. -/
def State.instCores (s : State) (i : Nat) : List Nat :=
  (s.cores.filter fun c => match c.2.place with
    | some pl => pl.inst = i
    | none => false).map (·.1)

/-- Group `g` of an instance. -/
def Instance.group (i : Instance) (g : Nat) : Group :=
  match g with
  | 0 => i.g0
  | 1 => i.g1
  | 2 => i.g2
  | _ => i.g3

/-- Replace group `g`. -/
def Instance.setGroup (i : Instance) (g : Nat) (x : Group) : Instance :=
  match g with
  | 0 => { i with g0 := x }
  | 1 => { i with g1 := x }
  | 2 => { i with g2 := x }
  | _ => { i with g3 := x }

/-- A strand that stops for good: it owns no program counter, its wait is abandoned (R24, R58). -/
def Strand.retire (t : Strand) : Strand :=
  { t with live := false, wait := none, endedBy := none, fuse := none, held := false, short := 0, byRow := false, bad := none, stopped := false, past := false, aside := [], wb := 0, wl := 0, eb := 0, el := 0 }

/-- A strand of number `k` that owns no program counter any more: a helper retires, the control strand keeps its window and envelope (R60, R459). -/
def Strand.finish (k : Nat) (t : Strand) : Strand :=
  if k = 0 then { t.retire with wb := t.wb, wl := t.wl, eb := t.eb, el := t.el } else t.retire

/-- The strands that are live as the core's instance is ended are noted (R406). -/
def Core.cutAt (c : Core) (now : Nat) : Core :=
  if c.strands.any (·.2.live) then { c with cut := some (now, (c.strands.filter (·.2.live)).map (·.1)) } else c

/-- Every strand of a core stops for good. -/
def Core.halted (c : Core) : Core :=
  { c with strands := c.strands.map fun t => (t.1, t.2.finish t.1), gang := none }

/-- Rows that a command still locks are unlocked (R73). -/
def Core.unlockRows (c : Core) (l : List Nat) : Core := { c with locks := l.foldl (fun x r => x.erase r) c.locks }

/-- The core whose engine, and whose hawk, a command of core `p` uses (R353, R358). -/
def Cmd.engineOf (m : Cmd) (p : Nat) : Nat := m.engine.getD p

/-- A command does no more: its STATUS; its rows are unlocked with it (R73, R310). -/
def Cmd.cut (m : Cmd) (status : Nat) : Cmd := { m with phase := .finished, status := status, events := 0, locked := [], parked := false }

/-- A command that can start no more: STATUS 7 when it had not started, 9 when it had (R310, R405). -/
def Cmd.discard (m : Cmd) : Cmd :=
  match m.phase with
  | .finished => m
  | .completing _ _ => m
  | _ => m.cut (if m.started then 9 else 7)

/-- Commands of a core's chains, those of the chains that `on` picks, change; rows that they lock no longer are unlocked (R73). -/
def Core.mapCmds (c : Core) (on : Chain → Bool) (f : Cmd → Cmd) : Core :=
  let gone := c.chains.flatMap fun x => if on x.2 then x.2.cmds.flatMap fun m => if (f m).locked.isEmpty then m.locked else [] else []
  let c1 : Core := { c with chains := c.chains.map fun (x : Nat × Chain) => (x.1, if on x.2 then { x.2 with cmds := x.2.cmds.map f } else x.2) }
  c1.unlockRows gone

/-- Every uncompleted command of a core ends so. -/
def Core.discardCmds (c : Core) : Core := c.mapCmds (fun _ => true) Cmd.discard

/-- An instance ends with a status: its cores run no further word and its commands are discarded (R341, R405, R430). -/
def State.endInstance (s : State) (i status unit : Nat) : State :=
  let s1 := s.modInst i fun x =>
    { x with status := some (x.status.getD status), unit := if x.status.isSome then x.unit else unit }
  (s.instCores i).foldl (fun x p => x.modCore p fun c => (c.cutAt s.now).halted.discardCmds) s1

/-! ## Taking an exception (R427 to R430) -/

/-- A cause with its CODE and INFO (R425), and the die whose firewall dropped the access that raises it precisely (R384, R432). -/
structure Trap where
  cause : Nat
  code : Nat
  info : Word
  wall : Option Nat := none
  deriving DecidableEq, Repr

/-- Bit of header word 7 that delegates a cause (R64, R425). -/
def delegBit (cause : Nat) : Option Nat :=
  match cause with
  | 4 => some 57
  | 19 => some 58
  | 16 => some 59
  | _ => none

/-- The trap frame of a cause (R428). -/
def frameOf (t : Trap) (raiser : Nat) (deleg : Bool) (wb wl : Nat) (tpc npc : Word) : TrapFrame :=
  { w0 := BitVec.ofNat 64 (t.cause % 256 + t.code % 256 * 2 ^ 8 + raiser % 16 * 2 ^ 16 +
      (if deleg then 2 ^ 20 else 0) + wb % 1024 * 2 ^ 32 + wl % 512 * 2 ^ 48),
    w1 := tpc, w2 := npc, w3 := t.info }

/-- A double trap ends the core's instance with status 4; a core without one stops (R430). -/
def State.doubleTrap (s : State) (p : Nat) : State :=
  match (s.core p).place with
  | some pl => s.endInstance pl.inst 4 0
  | none => s.modCore p Core.halted

/-- The control strand of core `p` enters supervisor code (R430). -/
def State.enterSup (s : State) (p raiser : Nat) (t : Trap) (tpc npc : Word) : State :=
  let c := s.core p
  let st := c.strand 0
  if c.sup.sv ∨ c.sup.tvec = 0 ∨ c.sup.twl = 0 ∨ c.sup.twb < st.eb ∨ st.eb + st.el < c.sup.twb + c.sup.twl then
    s.doubleTrap p
  else
    let f := frameOf t raiser false st.wb st.wl tpc npc
    let s1 := s.modCore p fun c => { c.setStrand 0 { st with
      frame := f, wb := c.sup.twb, wl := c.sup.twl, pc := c.sup.tvec, wait := none, past := false } with
      sup := { c.sup with sv := true } }
    (s1.setAside p 0).setInh p 0

/-- A trap of strand `k` of core `p` is taken: by its own handler where it is delegated, by supervisor code on the
control strand, or by a stop of the helper (R427, R429). -/
def State.takeTrap (s : State) (p k : Nat) (t : Trap) (tpc npc : Word) : State :=
  let st := s.strand p k
  let h7 := s.hword p k 7
  let deleg := match delegBit t.cause with
    | some b => h7.getLsbD b && !h7.getLsbD 60
    | none => false
  if deleg then
    let s1 := s.modStrand p k fun x => { x with
      frame := frameOf t k true st.wb st.wl tpc npc, pc := BitVec.ofNat 64 (fieldNat h7 3 54 * 8), past := false }
    (s1.setAside p k).setInh p k
  else if k = 0 then s.enterSup p 0 t tpc npc
  else
    let s1 := s.modStrand p k fun x => { x with
      frame := frameOf t k false st.wb st.wl tpc npc, stopped := true }
    s1.modCore p fun c => { c with sup := { c.sup with stopPend := addNat k c.sup.stopPend } }

/-- TRET of supervisor code: the saved window comes back, the strand goes on at `a` (R430). -/
def State.leaveSup (s : State) (p : Nat) (a : Word) : State :=
  let s0 := s.putHbits p 0 7 60 1 0
  let c := s0.core p
  let st := c.strand 0
  s0.setCore p { c.setStrand 0 { st.takeUp with
    wb := fieldNat st.frame.w0 32 10, wl := fieldNat st.frame.w0 48 9, pc := BitVec.ofNat 64 (fieldNat a 3 54 * 8) } with
    sup := { c.sup with sv := false } }

/-- TRET of a delegated handler (R221). -/
def State.leaveHandler (s : State) (p k : Nat) (a : Word) : State :=
  (s.putHbits p k 7 60 1 0).modStrand p k fun st => { st.takeUp with pc := BitVec.ofNat 64 (fieldNat a 3 54 * 8) }

end Sys2Proof.Machine
end

