-- ==== Sys2Proof/Machine/Operands.lean ====
section
/-! DEFINITION. Operands, the source modifier, and how a word issues, executes and applies its selector. -/

namespace Sys2Proof.Machine

/-- The four issue classes (R77). -/
inductive Cls where
  | S | V | M | X
  deriving DecidableEq, Repr

/-- One register name of a word (R61, R62, R74): its field (0 D, 1 A, 2 B, 3 C), whether it names a row, and its use. -/
structure Opnd where
  field : Nat
  vec : Bool
  name : Nat
  src : Bool
  dst : Bool
  deriving DecidableEq, Repr

/-- D as a scalar destination. -/
def dS (n : BitVec 8) : Opnd := ⟨0, false, n.toNat, false, true⟩
/-- D as a scalar source. -/
def dSrc (n : BitVec 8) : Opnd := ⟨0, false, n.toNat, true, false⟩
/-- D as a scalar source and destination. -/
def dBoth (n : BitVec 8) : Opnd := ⟨0, false, n.toNat, true, true⟩
/-- A as a scalar source. -/
def aS (n : BitVec 8) : Opnd := ⟨1, false, n.toNat, true, false⟩
/-- B as a scalar source. -/
def bS (n : BitVec 8) : Opnd := ⟨2, false, n.toNat, true, false⟩
/-- C as a scalar source. -/
def cS (n : BitVec 8) : Opnd := ⟨3, false, n.toNat, true, false⟩
/-- D as a row destination. -/
def dV (n : BitVec 8) : Opnd := ⟨0, true, n.toNat, false, true⟩
/-- D as a row source. -/
def dVsrc (n : BitVec 8) : Opnd := ⟨0, true, n.toNat, true, false⟩
/-- D as a row source and destination. -/
def dVboth (n : BitVec 8) : Opnd := ⟨0, true, n.toNat, true, true⟩
/-- A as a row source. -/
def aV (n : BitVec 8) : Opnd := ⟨1, true, n.toNat, true, false⟩
/-- B as a row source. -/
def bV (n : BitVec 8) : Opnd := ⟨2, true, n.toNat, true, false⟩
/-- C as a row source. -/
def cV (n : BitVec 8) : Opnd := ⟨3, true, n.toNat, true, false⟩

/-- The row after A as a source (R238). -/
def aVnext (n : BitVec 8) : Opnd := ⟨1, true, n.toNat + 1, true, false⟩

/-! ## Names after staggering (R62, R74) -/

/-- The offset that the open repetition buffer adds to a field's name, in rows. -/
def State.stagger (s : State) (p k field : Nat) : Nat :=
  let h := s.hword p k 6
  if s.inBody p k && h.getLsbD (40 + field) then fieldNat h 44 8 else 0

/-- A row name after staggering. -/
def State.vName (s : State) (p k field n : Nat) : Nat := n + s.stagger p k field

/-- A scalar name after staggering. -/
def State.sName (s : State) (p k field n : Nat) : Nat := n + 8 * s.stagger p k field

/-- An operand's name after staggering. -/
def State.opName (s : State) (p k : Nat) (o : Opnd) : Nat :=
  if o.vec then s.vName p k o.field o.name else s.sName p k o.field o.name

/-- The window row of an operand. -/
def State.opWindowRow (s : State) (p k : Nat) (o : Opnd) : Nat :=
  if o.vec then s.opName p k o else s.opName p k o / 8

/-- The physical row of an operand: Phys(n) = WB + n (R56). -/
def State.opRow (s : State) (p k : Nat) (o : Opnd) : Nat := (s.strand p k).wb + s.opWindowRow p k o

/-- The operand's row lies in the window (R62). -/
def State.opInWindow (s : State) (p k : Nat) (o : Opnd) : Bool :=
  decide (s.opWindowRow p k o < (s.strand p k).wl)

/-- Scalar `n` named by a field. -/
def State.rS (s : State) (p k field : Nat) (n : BitVec 8) : Word :=
  let m := s.sName p k field n.toNat
  rowWord (s.row p ((s.strand p k).wb + m / 8)) (m % 8)

/-- Row `n` named by a field. -/
def State.rV (s : State) (p k field : Nat) (n : BitVec 8) : Row :=
  s.row p ((s.strand p k).wb + s.vName p k field n.toNat)

/-- Row `n + 1` named beside a row source (R238). -/
def State.rVnext (s : State) (p k field : Nat) (n : BitVec 8) : Row :=
  s.row p ((s.strand p k).wb + s.vName p k field (n.toNat + 1))

/-- The physical row and word of scalar `n` named by a field. -/
def State.destOf (s : State) (p k field : Nat) (n : BitVec 8) : Dest :=
  let m := s.sName p k field n.toNat
  { row := (s.strand p k).wb + m / 8, word := m % 8 }

/-- Program-order number of the word in execution. -/
def State.curId (s : State) (p : Nat) : Nat := (s.core p).seq

/-- Write a scalar that the word with a program-order number bound. -/
def State.writeDestAs (s : State) (id p lat : Nat) (d : Dest) (v : Word) : State :=
  s.writeRowAs id p d.row lat (rowMask (64 * d.word) 64) (v.zeroExtend 512 <<< (64 * d.word))

/-- Write a bound scalar. -/
def State.writeDest (s : State) (p lat : Nat) (d : Dest) (v : Word) : State := s.writeDestAs (s.core p).seq p lat d v

/-- Write scalar `n` of field D. -/
def State.wS (s : State) (p k lat : Nat) (n : BitVec 8) (v : Word) : State :=
  s.writeDest p lat (s.destOf p k 0 n) v

/-- Write the masked bits of row `n` of field D. -/
def State.wV (s : State) (p k lat : Nat) (n : BitVec 8) (mask v : Row) : State :=
  s.writeRow p ((s.strand p k).wb + s.vName p k 0 n.toNat) lat mask v

/-- Write a branch-target slot at issue. -/
def State.wT (s : State) (p k : Nat) (t : BitVec 2) (v : BitVec 32) : State :=
  s.writeRow p (s.strand p k).wb 1 (rowMask (128 + 32 * t.toNat) 32) (v.zeroExtend 512 <<< (128 + 32 * t.toNat))

/-- Write a predicate with a latency; a write of q0 has no effect. -/
def State.wQ (s : State) (p k lat : Nat) (q : BitVec 3) (v : BitVec 16) : State :=
  if q = 0 then s else s.writeRow p (s.strand p k).wb lat (predMask q.toNat) (predValue q.toNat v)

/-- Write only the masked bits of a predicate with a latency. -/
def State.wQmask (s : State) (p k lat : Nat) (q : BitVec 3) (mask v : BitVec 16) : State :=
  if q = 0 then s else s.writeRow p (s.strand p k).wb lat (predValue q.toNat mask) (predValue q.toNat v)

/-! ## Execution predicates (R63, R173) -/

/-- The bits of a row that a predicate enables, for lanes of at most 32 bits. -/
def laneMask (q : BitVec 16) : Row := rowOfLanes 32 ((List.range 16).map fun i => if q.getLsbD i then 2 ^ 32 - 1 else 0)

/-- The bits of a row that a predicate enables, for 64-bit lanes: bit 2j governs lane j. -/
def laneMask64 (q : BitVec 16) : Row := rowOfLanes 64 ((List.range 8).map fun j => if q.getLsbD (2 * j) then 2 ^ 64 - 1 else 0)

/-- The bits of a row that a predicate enables for lanes of `w` bits. -/
def maskFor (w : Nat) (q : BitVec 16) : Row := if w = 64 then laneMask64 q else laneMask q

/-- The predicate enables lane `i` of width `w` (R63). -/
def laneOn (w : Nat) (q : BitVec 16) (i : Nat) : Bool := if w = 64 then q.getLsbD (2 * i) else q.getLsbD (i * w / 32)

/-! ## The source modifier (R180) -/

/-- Lane of the source that lane `i` of the modified source takes. -/
def modLane (m : BitVec 12) (i : Nat) : Nat :=
  let sz := 2 ^ fieldNat m 7 3
  let d := fieldNat m 2 5
  let b := i - i % sz
  match fieldNat m 10 2 with
  | 1 => b + (i - b + d) % sz
  | 2 => b + ((i - b) ^^^ d)
  | 3 => b + d
  | _ => i

/-- A source row after the modifier, when it names that source (0 A, 1 B, 2 C). -/
def modified (m : BitVec 12) (src : Nat) (r : Row) : Row :=
  if fieldNat m 10 2 ≠ 0 ∧ fieldNat m 0 2 = src then
    rowOfLanes 32 ((List.range 16).map fun i => fieldNat r (32 * modLane m i) 32)
  else r

/-! ## Charges (R358, R363) -/

/-- A charge of the die's energy table in units of 1/1,024 token. -/
def State.charge (s : State) (p entry : Nat) : Nat := (s.die (dieOf p)).energy.getD entry 0

/-- The hawk of a core takes charges in this tick: nothing is on its way to it, as grants and offers come before the charges of their tick, and the
tick's passing, which comes after its charges, has not been (R360). -/
def State.hawkOpen (s : State) (p : Nat) : Bool :=
  let w := (s.core p).power
  s.passed ≠ some s.now && w.transit = 0 && w.offers.isEmpty

/-- The core's hawk holds a charge, and takes it in this tick (R358, R360). -/
def State.canPay (s : State) (p n : Nat) : Bool :=
  s.hawkOpen p && decide (n ≤ (s.core p).power.tokens * 1024 + (s.core p).power.frac)

/-- Take a charge from the hawk and add it to account `k` of the device context, or to the overhead of firmware. -/
def State.pay (s : State) (p k n : Nat) : State :=
  if n = 0 then s
  else
    let c := s.core p
    let left := c.power.tokens * 1024 + c.power.frac - n
    let s1 := s.setCore p { c with power := { c.power with tokens := left / 1024, frac := left % 1024 } }
    match c.place with
    | some pl => { s1 with enctx := put (4 * pl.part + k) (look 0 (4 * pl.part + k) s1.enctx + n) s1.enctx }
    | none => if s.isPlumb p then { s1 with enovh := put 2 (look 0 2 s1.enovh + n) s1.enovh } else s1

/-- Take a charge from the hawk of core `h` for the device context of core `p` (R353, R358). -/
def State.payFor (s : State) (p h n : Nat) : State :=
  if h = p then s.pay p 0 n
  else
    let left := (s.core h).power.tokens * 1024 + (s.core h).power.frac - n
    let s1 := s.modCore h fun c => { c with power := { c.power with tokens := left / 1024, frac := left % 1024 } }
    match (s.core p).place with
    | some pl => { s1 with enctx := put (4 * pl.part) (look 0 (4 * pl.part) s1.enctx + n) s1.enctx }
    | none => s1

/-! ## Barriers as far as the end of a strand needs them (R211, R289) -/

/-- The instance that a core runs, with its number. -/
def State.instOf (s : State) (p : Nat) : Option (Nat × Instance) :=
  match (s.core p).place with
  | none => none
  | some pl =>
    match find pl.inst s.insts with
    | none => none
    | some i => some (pl.inst, i)

/-- The parcel-relative number of a placed core. -/
def State.relOf (s : State) (p : Nat) : Nat :=
  match (s.core p).place with
  | some pl => pl.rel
  | none => 0

/-- Every BWAIT of a core on group `g` that has not ended ends with a status (R288, R289, R291). -/
def Core.endBwaits (c : Core) (g status : Nat) : Core :=
  { c with strands := c.strands.map fun t => match t.2.wait with
    | some w => (match w.kind with
      | .bwait g' due none =>
        if g' = g then (t.1, { t.2 with wait := some { w with kind := .bwait g' due (some status) } }) else t
      | _ => t)
    | none => t }

/-- Withdraw a core's arrival at group `g`, which is not group 0 (R289). -/
def State.withdraw (s : State) (p g : Nat) : State :=
  match s.instOf p with
  | none => s
  | some (n, i) =>
    let x := i.group g
    let r := s.relOf p
    (s.modInst n fun j => j.setGroup g { x with arr := delNat r x.arr, arrBy := del r x.arrBy, gone := some s.now }).modCore p
      fun c => c.endBwaits g 2

/-- The load of an LDS that ends without it: withdrawn before it was performed, or left with its ring entry and without a register
(R211, R272). That entry, until it is completed or failed, still holds the later operations of its strand as R473 states of every entry: R129 says
that an expired LDS orders nothing, and no rule says which holds for its entry (DESIGN CHOICE, log entry 78). -/
def Core.dropLds (c : Core) (id : Nat) : Core :=
  { c with
    ops := c.ops.filter fun o => !(o.kind = .lds && decide (o.id = id))
    sup := { c.sup with snags := c.sup.snags.map fun g => match g.owner with
      | .op o => if o.kind = .lds && decide (o.id = id) then { g with owner := .op { o with row := none } } else g
      | .engine _ _ => g } }

/-- The load of a wait that is left, when the wait is an LDS. -/
def State.dropLoad (s : State) (p : Nat) (w : Wait) : State :=
  match w.kind with
  | .lds id _ _ => s.modCore p (·.dropLds id)
  | _ => s

/-- A strand leaves its wait for good: the load of an LDS is not performed and writes no register (R211). -/
def State.leaveLds (s : State) (p k : Nat) : State :=
  match (s.strand p k).wait with
  | some w => s.dropLoad p w
  | none => s

/-- HKILL of helper `k`: it retires, and its own arrivals that have not completed are withdrawn (R211). -/
def State.killHelper (s : State) (p k : Nat) : State :=
  if (s.strand p k).live then
    let s1 := [1, 2, 3].foldl (fun x g => match x.instOf p with
      | some (_, i) => if look 11 (x.relOf p) (i.group g).arrBy = k then x.withdraw p g else x
      | none => x) (s.leaveLds p k)
    (s1.modStrand p k Strand.retire).modCore p
      fun c => { c with sup := { c.sup with stopPend := delNat k c.sup.stopPend } }
  else s

/-- The live helpers of a core. -/
def Core.helpers (c : Core) : List Nat := ((List.range 11).filter fun k => 1 ≤ k ∧ (c.strand k).live)

/-- END of the control strand: its helpers retire, the core has finished its part (R26). -/
def State.endControl (s : State) (p : Nat) : State :=
  let hs := (s.core p).helpers
  let s1 := hs.foldl (fun x k => x.killHelper p k) s
  let s2 := (s1.modStrand p 0 (Strand.finish 0)).modCore p fun c =>
    { c with ended := true, helpersKilled := c.helpersKilled || !hs.isEmpty, gang := none }
  match s2.instOf p with
  | some (n, _) => s2.modInst n fun i => { i with ended := addNat (s2.relOf p) i.ended }
  | none => s2

/-! ## Next-address selectors (R174 to R176, R75, R76) -/

/-- The condition of a word on a strand. -/
def State.condition (s : State) (p k : Nat) (h : Hdr) : Bool := (s.pred p k h.nq.toNat != 0) != (h.nn == 1)

/-- Continue at an address. -/
def State.goto (s : State) (p k : Nat) (a : Word) : State := s.modStrand p k fun t => { t with pc := a, past := false }

/-- Continue at the next word; after a word of an open body the body moves on by one position, and past position 15 (R76). -/
def State.nextWord (s : State) (p k : Nat) (inBody : Bool) : State :=
  let s1 := s.goto p k ((s.strand p k).pc + 8)
  if inBody then
    let pos := fieldNat (s.hword p k 6) 53 4
    if 15 ≤ pos then s1.modStrand p k fun t => { t with past := true } else s1.putHbits p k 6 53 4 (pos + 1)
  else s1

/-- The fields of header word 6 that the REP selector writes: lc, RLEN, ROFF, RACT and RPOS. -/
def repMask : Word := bitMask 0 32 ||| bitMask 36 4 ||| bitMask 44 13

/-- The REP selector: the first pass records the body's length, then the body repeats or the buffer closes (R75, R207). What it goes by is read
from `src`, as the targets of the other selectors are (R175). RPOS is 0 after it, also where the buffer closes (log entry 61). -/
def State.rep (s src : State) (p k : Nat) : State :=
  let h := src.hword p k 6
  let pc := (s.strand p k).pc
  let pos := fieldNat h 53 4
  let lc := fieldNat h 0 32
  let h1 := setBits (setBits h 36 4 pos) 53 4 0
  if lc ≤ 1 then (s.putHmask p k 6 repMask (setBits (setBits h1 0 32 0) 52 1 0)).goto p k (pc + 8)
  else
    let h2 := setBits (setBits h1 0 32 (lc - 1)) 44 8 (fieldNat h 44 8 + fieldNat h 32 4)
    (s.putHmask p k 6 repMask h2).goto p k (pc - BitVec.ofNat 64 (8 * pos))

/-- The field book's record of a taken selector (R367). -/
def State.traceSel (s : State) (p : Nat) (a target : Word) : State :=
  if (s.core p).fb.ctl.getLsbD 4 then s.fbRecord p 3 0 a target else s

/-- The selector of a word acts on a strand; `cond` is the condition, the leader's in a gang (R28, R174). Target, link and
whether the word is one of an open body are read from `src`: the state after the word's effect for classes S and V, before it for the others
(R175). -/
def State.select (s src : State) (p k : Nat) (h : Hdr) (cond : Bool) : State :=
  let pc := (s.strand p k).pc
  let na := h.na.toNat
  if na = 6 then s.rep src p k
  else if na = 0 ∨ cond = false then s.nextWord p k (src.inBody p k)
  else
    let s1 := if src.inBody p k then s.putHbits p k 6 52 1 0 else s
    if na = 7 then
      let s2 := s1.traceSel p pc 0
      if k = 0 then s2.endControl p else s2.modStrand p k Strand.retire
    else
      let a : Word := if na = 5 then BitVec.ofNat 64 (fieldNat (src.hword p k 1) 3 54 * 8)
        else (pc &&& 0xFFFFFFFF00000000) ||| ((src.target p k (na - 1)).zeroExtend 64 &&& 0xFFFFFFF8)
      (s1.traceSel p pc a).goto p k a

/-! ## Issue and execution of a word -/

/-- What a word's own effect ends with. -/
inductive Res where
  /-- The effect is applied; the selector follows. -/
  | done (s : State)
  /-- The effect is applied, and the word itself says where the strand goes on. -/
  | jump (s : State)
  /-- The word is held at issue. -/
  | hold
  /-- The hawk lacks a further charge of the word (R358). -/
  | short (n : Nat)
  /-- The word traps: it changes nothing. -/
  | trap (t : Trap)

/-- A further charge of the word in execution is taken, or holds it (R358). -/
def State.payOr (s : State) (p n : Nat) (f : State → Res) : Res := if s.canPay p n then f (s.pay p 0 n) else .short n

/-- The effect of a word on strand `k` of core `p`. -/
abbrev Body := Nat → Nat → State → Res

/-- The verdict of the checks before a word executes. -/
inductive Verdict where
  | go
  | hold
  /-- The hawk lacks the charge (R358). -/
  | short
  /-- A row that it reads cannot be corrected: a consumption (R417). -/
  | bad (r : Nat)
  | trap (t : Trap)
  deriving DecidableEq, Repr

/-- A trap where a condition holds, else on with the word. -/
def trapWhen (b : Bool) (t : Trap) : Verdict := if b then .trap t else .go

/-- What a word is before it executes: class, register names, whether bit 0 of EQ decides that it executes (R63, R265),
whether it reads its header at issue besides EQ and selector, whether it awaits no pending write of its header (R217), the words of its
header in which it writes a field that is not one of its names, the cycles of its unit (R239), and what its causes 1 to 3 decide. -/
structure WordSpec where
  cls : Cls
  ops : List Opnd
  gated : Bool
  usesHeader : Bool
  noHeader : Bool
  hw : List Nat
  /-- Destination writes complete at issue. -/
  atOnce : Bool
  occ : Nat
  /-- Its latency, for the units' pipelines. -/
  lat : Nat
  pre : Nat → Nat → State → Verdict

/-- The header words that a write of a predicate touches (R64); one of q0 touches none. -/
def qWords (q : BitVec 3) : List Nat := if q = 0 then [] else [4 + (q.toNat - 1) / 4]

/-- No cause of its own. -/
def noTrap : Nat → Nat → State → Verdict := fun _ _ _ => .go

/-- Hold a word where a condition holds, once its own check passes. -/
def holdIf (f : Nat → State → Bool) (pre : Nat → Nat → State → Verdict) : Nat → Nat → State → Verdict := fun p k s =>
  match pre p k s with
  | .go => if f p s then .hold else .go
  | v => v

/-- A word that uses the decode table waits for a DTLD in progress (R256). -/
def tableWait : Nat → Nat → State → Verdict := holdIf (fun p s => (s.core p).loading.isSome) noTrap

/-- A class S word of latency `lat`. -/
def specS (ops : List Opnd) (lat : Nat) : WordSpec :=
  { cls := .S, ops := ops, lat := lat, gated := true, usesHeader := false, noHeader := false, hw := [], atOnce := decide (lat ≤ 1), occ := 1, pre := noTrap }

/-- A class V word of latency `lat`: lanes, predicate bits and scalars are gated one by one (R237). -/
def specV (ops : List Opnd) (lat : Nat) : WordSpec :=
  { cls := .V, ops := ops, lat := lat, gated := false, usesHeader := false, noHeader := false, hw := [], atOnce := decide (lat ≤ 1), occ := 1, pre := noTrap }

/-- A class X word: it executes whatever EQ holds. -/
def specX (ops : List Opnd) (lat : Nat) : WordSpec :=
  { cls := .X, ops := ops, lat := lat, gated := false, usesHeader := false, noHeader := false, hw := [], atOnce := decide (lat ≤ 1), occ := 1, pre := noTrap }

/-- The first operand past the window limit, fields in the order D, A, B, C (R62, R425). -/
def State.limitTrap (s : State) (p k : Nat) : List Opnd → Option Trap
  | [] => none
  | o :: r =>
    if s.opInWindow p k o then s.limitTrap p k r
    else some { cause := 4, code := o.field, info := BitVec.ofNat 64 (s.opName p k o) }

/-- An operand holds the word at issue: a source row with a pending write (R69), a destination with fifteen (R68), and for a write that completes at
issue a locked row (R73). -/
def State.opHeld (s : State) (p k : Nat) (atOnce : Bool) (o : Opnd) : Bool :=
  let c := s.core p
  let r := s.opRow p k o
  (o.src && c.busy r) || (o.dst && c.saturated r) || (o.dst && atOnce && c.locked r)

/-- A cause that the value of an operand decides comes before the limit trap of the others, once that operand can be read (R426). -/
def readFirst (o : Opnd) (f : Nat → Nat → State → Verdict) (pre : Nat → Nat → State → Verdict) : Nat → Nat → State → Verdict :=
  fun p k s => match pre p k s with
  | .go =>
    if !s.opInWindow p k o ∨ (s.core p).rowBad (s.opRow p k o) then .go
    else if s.opHeld p k false o then .hold
    else f p k s
  | v => v

/-- The charge of a word (R358, R383). -/
def State.wordCharge (s : State) (p : Nat) (w : WordSpec) : Nat :=
  match w.cls with
  | .S => s.charge p 0
  | .V => s.charge p 1 * w.occ
  | .M => s.charge p 2
  | .X => s.charge p 3

/-- The instruction word in execution, as INFO of causes 1 to 3. -/
def State.wordTrap (s : State) (cause : Nat) : Trap := { cause := cause, code := 0, info := s.focus.word }

/-- A word reads its header at issue: EQ, its selector, what it uses besides, or the fields of an open body (R69, R76). -/
def State.readsHeader (s : State) (p k : Nat) (h : Hdr) (w : WordSpec) : Bool :=
  !w.noHeader && (decide (h.eq ≠ 0) || decide (h.na ≠ 0) || w.usesHeader || s.inBody p k)

/-- The header row holds a word at issue: it is read while a write of it is pending (R69), or it is to be written while it is locked or has fifteen
writes pending (R68, R73). -/
def State.headerHeld (s : State) (p k : Nat) (h : Hdr) (w : WordSpec) : Bool :=
  let c := s.core p
  let wb := (s.strand p k).wb
  (s.readsHeader p k h w && c.busy wb) ||
    ((!w.hw.isEmpty || (s.inBody p k && !w.noHeader)) && (c.locked wb || c.saturated wb))

/-- The checks of a word on one strand, in the order of R426: a word that its header row holds is not ready, so that no cause is decided from a
header with a pending write; holds for operands come after the traps that need no value. -/
def State.check (s : State) (p k : Nat) (h : Hdr) (w : WordSpec) : Verdict :=
  let st := s.strand p k
  if s.headerHeld p k h w then .hold
  else if s.readsHeader p k h w && (s.core p).rowBad st.wb then .bad st.wb
  else
    match w.pre p k s with
    | .go =>
      if st.past ∨ (h.na = 6 ∧ s.inBody p k = false) then .trap (s.wordTrap 3)
      else
        (match s.limitTrap p k w.ops with
        | some t => .trap t
        | none =>
          if w.ops.any (s.opHeld p k w.atOnce) then .hold
          else
            match (w.ops.filter (·.src)).find? fun o => (s.core p).rowBad (s.opRow p k o) with
            | some o => .bad (s.opRow p k o)
            | none => if s.canPay p (s.wordCharge p w) then .go else .short)
    | v => v

/-- The members of a core's gang, leader first; the core alone when it is not fused (R27, R28). -/
def State.members (s : State) (p : Nat) : List Nat :=
  match (s.core p).gang with
  | some (g, l) => (List.range g).map (l + ·)
  | none => [p]

/-- The causes that a word can raise at issue, the one that is raised first at the head (R426). -/
def causeOrder : List Nat := [11, 1, 2, 3, 4, 5, 6, 12, 13, 14, 15, 16, 17, 8, 18]

/-- Of the traps of a gang's members, that which comes first in R426's order, the lower member's of one cause. -/
def firstTrap (t u : Trap) : Trap := if causeOrder.idxOf u.cause < causeOrder.idxOf t.cause then u else t

/-- The checks of all members: a trap of any refuses the word on every member, and that which R426 names first is raised (R78). -/
def State.checkAll (s : State) (k : Nat) (h : Hdr) (w : WordSpec) : List Nat → Verdict
  | [] => .go
  | p :: r =>
    match s.check p k h w with
    | .trap t => (match s.checkAll k h w r with
      | .trap u => .trap (firstTrap t u)
      | _ => .trap t)
    | .go => s.checkAll k h w r
    | v => (match s.checkAll k h w r with
      | .trap t => .trap t
      | _ => v)

/-- The physical rows that a word reads by name, each once (R79). -/
def State.readRows (s : State) (p k : Nat) (w : WordSpec) : List Nat := ((w.ops.filter (·.src)).map (s.opRow p k)).eraseDups

/-- The words of rows that a word writes, 8 * row + word: by name, and in its header. -/
def State.writtenWords (s : State) (p k : Nat) (w : WordSpec) : List Nat :=
  w.hw.map (8 * (s.strand p k).wb + ·) ++ (w.ops.filter (·.dst)).flatMap fun o =>
    let r := s.opRow p k o
    if o.vec then (List.range 8).map (8 * r + ·) else [8 * r + s.opName p k o % 8]

/-- The lost reads of these rows at a bank, from the cycle in which all contend: all but one lose, those lose again but for one in the next
cycle, and so on (R79). -/
def lostReads (rows : List Nat) (b : Nat) : Nat :=
  let n := (rows.filter fun r => r % 8 = b).length
  n * (n - 1) / 2

/-- The word issues in the cycle of the word before it, as the second of their pair (R77). -/
def State.pairsWith (s : State) (p k : Nat) (w : WordSpec) (f : Issued) : Bool :=
  let t := s.strand p k
  f.strand = k && t.pc = f.pc + 8 && f.cycle = (s.core p).cycle && !t.held && w.cls = (if f.vec then .S else .V) &&
    ((s.readRows p k w).all fun r => f.writes.all fun x => x / 8 ≠ r) && ((s.writtenWords p k w).all fun x => !f.writes.contains x) &&
    !((f.writes.any fun x => x / 8 = t.wb) && s.readsHeader p k (Fields.ofWord s.focus.word).hdr w)

/-- CORE_RBLOSS0 to 7 after the reads of a word, or of the second word of a pair, which lose those that the two lose together and the first had
not lost (R79); and the word whose pair the next one may complete. -/
def State.lose (s : State) (p k : Nat) (w : WordSpec) : Core :=
  let c := s.core p
  let rows := s.readRows p k w
  let pair := c.first.any (s.pairsWith p k w)
  let old := if pair then (c.first.map (·.rows)).getD [] else []
  let n (b : Nat) : Nat := lostReads (old ++ rows).eraseDups b - lostReads old b
  let open_ := !pair && (w.cls = .S || w.cls = .V) && (Fields.ofWord s.focus.word).na = 0
  { c with
    rbloss := (List.range 8).foldl (fun m b => if n b = 0 then m else put b (look 0 b m + BitVec.ofNat 64 (n b)) m) c.rbloss
    first := if open_ then some { strand := k, pc := (s.strand p k).pc, cycle := c.cycle, vec := w.cls = .V, rows := rows,
                                  writes := s.writtenWords p k w } else none }

/-- The pipelines of the scalar and the vector unit work on a word of class S or V until its last cycle (R366). -/
def FBook.work (f : FBook) (cycle : Nat) (w : WordSpec) : FBook :=
  match w.cls with
  | .S => { f with busy := max f.busy (cycle + w.lat) }
  | .V => { f with busy := max f.busy (cycle + max w.lat w.occ) }
  | _ => f

/-- A word issues on a strand: program order, the arbiter's stamp, the charge, its lost reads, the field book's marks (R53, R79, R114). -/
def State.issued (s : State) (p k : Nat) (w : WordSpec) : State :=
  let s1 := s.pay p 0 (s.wordCharge p w)
  let c := s1.lose p k w
  s1.setCore p { c.setStrand k { c.strand k with age := c.seq + 1, held := false, byRow := false, short := 0, bad := none } with
    seq := c.seq + 1, fb := { c.fb.work c.cycle w with ran := true, recent := k } }

/-- A scoreboard bit or a lock bit of a row holds the word on one strand (R366). -/
def State.rowHeld (s : State) (p k : Nat) (h : Hdr) (w : WordSpec) : Bool := s.headerHeld p k h w || w.ops.any (s.opHeld p k w.atOnce)

/-- The words of a gang's strands were held at issue, `lack` being what their charge is where they lack it (R358, R366). -/
def State.heldAt (s : State) (k : Nat) (h : Hdr) (w : WordSpec) (lack : Option Nat) (ms : List Nat) : State :=
  ms.foldl (fun x p => x.modStrand p k fun t => { t with
    held := true, byRow := s.rowHeld p k h w
    short := match lack with
      | none => 0
      | some n => if s.canPay p (s.wordCharge p w + n) then 0 else s.wordCharge p w + n }) s

/-- The words of a gang's strands were held at issue by a row that a member's word reads and no code can correct: that word consumes it (R417). -/
def State.badAt (s : State) (k : Nat) (h : Hdr) (w : WordSpec) (ms : List Nat) : State :=
  ms.foldl (fun x p => match s.check p k h w with
    | .bad r => x.modStrand p k fun t => { t with held := true, byRow := false, bad := some (t.pc, r) }
    | _ => x) s

/-- The word's effect on one strand, under its execution predicate where bit 0 gates it (R63, R173). -/
def State.runOne (s : State) (p k : Nat) (h : Hdr) (w : WordSpec) (body : Body) : Res :=
  if w.gated && !(s.pred p k h.eq.toNat).getLsbD 0 then .done s else body p k s

/-- The word's effect on every member in turn, or the trap that R426 names first. -/
def State.runAll (k : Nat) (h : Hdr) (w : WordSpec) (body : Body) : List Nat → State → Res
  | [], s => .done s
  | p :: r, s =>
    match s.runOne p k h w body with
    | .done s1 => State.runAll k h w body r s1
    | .jump s1 => (match State.runAll k h w body r s1 with
      | .done s2 => .jump s2
      | x => x)
    | .trap t => (match State.runAll k h w body r s with
      | .trap u => .trap (firstTrap t u)
      | _ => .trap t)
    | .hold => .hold
    | .short n => .short n

/-- The selector acts on every member under the leader's condition, and the fetch follows the leader (R28). -/
def State.selectAll (s src : State) (k : Nat) (h : Hdr) (ms : List Nat) : State :=
  let cond := match ms with
    | [] => true
    | p :: _ => src.condition p k h
  let s1 := ms.foldl (fun x p => x.select src p k h cond) s
  match ms with
  | l :: _ :: _ => ms.foldl (fun x p => x.modStrand p k fun t => { t with pc := (s1.strand l k).pc }) s1
  | _ => s1

/-- Class S and V words show their own header writes to their selector, the others do not (R175). -/
def Cls.seesOwn : Cls → Bool
  | .S => true
  | .V => true
  | .M => false
  | .X => false

/-- A trap of a word: a gang takes it as a unit, in the leader's handler or dissolved into supervisor code (R429). A plan trap
that waited for its SSTEP is taken with it (R300). The frame holds `tpc` and `npc` (R428). -/
def State.trapAt (s0 : State) (k : Nat) (t : Trap) (tpc npc : Word) (ms : List Nat) : State :=
  let s := (if t.cause = 18 then
      ms.foldl (fun x p => x.modCore p fun c => { c with exch := { c.exch with planTrap := none } }) s0
    else s0).dropAt t.wall
  match ms with
  | [] => s
  | [p] => s.takeTrap p k t tpc npc
  | l :: _ =>
    let h7 := s.hword l 0 7
    let deleg := match delegBit t.cause with
      | some b => h7.getLsbD b && !h7.getLsbD 60
      | none => false
    if deleg then
      ms.foldl (fun x p =>
        let st := x.strand p 0
        let f := frameOf t 0 true st.wb st.wl tpc npc
        ((x.modStrand p 0 fun y => { y with
          frame := f, pc := BitVec.ofNat 64 (fieldNat h7 3 54 * 8), past := false }).setAside p 0).setInh p 0) s
    else
      ms.foldl (fun x p => (x.modCore p fun c => { c with gang := none }).enterSup p 0 t tpc npc) s

/-- A trap of the word in execution. -/
def State.trapAll (s : State) (k : Nat) (t : Trap) (ms : List Nat) : State :=
  let pc := (s.strand (ms.headD 0) k).pc
  s.trapAt k t pc (pc + 8) ms

/-- A delegable cause is decided by the header of every member, and sets INH there: it waits for a pending write of it and for its lock
(R69, R73, R427). -/
def State.trapHeld (s : State) (k : Nat) (t : Trap) (ms : List Nat) : Bool :=
  (delegBit t.cause).isSome && ms.any fun p => (s.core p).busy (s.strand p k).wb || (s.core p).locked (s.strand p k).wb

/-- The trap of a word, once it may be taken. -/
def State.trapWord (s : State) (k : Nat) (t : Trap) (ms : List Nat) : State :=
  if s.trapHeld k t ms then s else s.trapAll k t ms

/-- One instruction word on the strand in focus, and on its gang: the checks, the effect, the selector. -/
def runWord (h : Hdr) (w : WordSpec) (body : Body) (s : State) : Host.Outcome State Fault Refusal :=
  let p := s.focus.pcid
  let k := s.focus.strand
  let ms := s.members p
  match s.checkAll k h w ms with
  | .trap t => .next (s.trapWord k t ms)
  | .hold => .next (s.heldAt k h w none ms)
  | .short => .next (s.heldAt k h w (some 0) ms)
  | .bad _ => .next (s.badAt k h w ms)
  | .go =>
    match State.runAll k h w body ms (ms.foldl (fun x q => x.issued q k w) s) with
    | .done s1 => .next (s1.selectAll (if w.cls.seesOwn then s1 else s) k h ms)
    | .jump s1 => .next s1
    | .hold => .next (s.heldAt k h w none ms)
    | .short n => .next (s.heldAt k h w (some n) ms)
    | .trap t => .next (s.trapWord k t ms)

end Sys2Proof.Machine
end

