-- ==== Sys2Proof/Machine/Waits.lean ====
section
/-! DEFINITION. Deadlines, conditions and endings of the waits (R277 to R283), and the counts that some of them test. -/

namespace Sys2Proof.Machine

/-! ## Outstanding operations (R125, R128) -/

/-- The operations of a strand that hold a pending ring entry. -/
def Core.snagOps (c : Core) : List MemOp :=
  c.sup.snags.filterMap fun g => match g.owner with
    | .op o => some o
    | .engine _ _ => none

/-- Issued and unperformed operations of strand `k`, those on the ring among them (R224). -/
def Core.outstanding (c : Core) (k : Nat) : List MemOp := (c.ops ++ c.snagOps).filter fun o => o.strand = k

/-- The class of an operation: 0 store, 1 reduction, 2 returning atomic, none for a load (R125). -/
def AccKind.cls : AccKind → Option Nat
  | .load => none
  | .lds => none
  | .store => some 0
  | .stf => some 0
  | .feclr => some 0
  | .mxq => some 0
  | .table => none
  | .acc => none
  | .reduction => some 1
  | .atomic => some 2

/-- Commands of strand `k` that have not completed (R125). -/
def Core.openCmds (c : Core) (k : Nat) : List Cmd := c.chains.flatMap fun x => x.2.cmds.filter fun m => m.strand = k

/-- Messages that strand `k` of core `p`, or of the primary that it shadows, sent and that no queue holds yet (R293, R410). -/
def State.openSends (s : State) (p k : Nat) : List Message :=
  let q := match (s.core p).place with
    | some pl => if pl.twin = 2 then pl.mate else p
    | none => p
  (s.messages ++ s.closures.filterMap (·.msg)).filter fun m => m.src = q && m.strand = k

/-- Change every operation that the core has issued and not performed: in flight, on the ring, deferred. -/
def Core.mapOps (c : Core) (f : MemOp → MemOp) : Core :=
  { c with
    ops := c.ops.map f
    sup := { c.sup with snags := c.sup.snags.map fun g => match g.owner with
      | .op o => { g with owner := .op (f o) }
      | .engine _ _ => g }
    exch := { c.exch with deferred := c.exch.deferred.map fun d => match d with
      | .rmw o l => .rmw (f o) l
      | x => x } }

/-- The four counts of CORE_OSTCNTk: stores, reductions, atomics, engine commands (R128). -/
def State.ostcnt (s : State) (p k : Nat) : Nat × Nat × Nat × Nat :=
  let c := s.core p
  let o := c.outstanding k
  let n (x : Nat) : Nat := (o.filter fun y => y.kind.cls = some x).length
  (n 0 + (s.openSends p k).length, n 1, n 2, (c.openCmds k).length)

/-- CORE_OSTCNTk as a register (R128). -/
def State.ostcntWord (s : State) (p k : Nat) : Word :=
  let (a, b, c, d) := s.ostcnt p k
  BitVec.ofNat 64 (a + b * 2 ^ 16 + c * 2 ^ 32 + d * 2 ^ 48)

/-- Every field of CORE_OSTCNTk is zero. -/
def State.quiet (s : State) (p k : Nat) : Bool := s.ostcnt p k = (0, 0, 0, 0)

/-- The class of a FENCE is drained for the operations before program-order number `upto` (R125). -/
def State.drained (s : State) (p k cls upto : Nat) : Bool :=
  let c := s.core p
  match cls with
  | 3 => (c.openCmds k).all fun m => decide (upto ≤ m.id)
  | 4 => (match c.exch.state with
    | .compute => true
    | .exchanged => true
    | .arrived => false
    | .exchanging => c.exch.todo.isEmpty && decide (c.exch.rx = c.exch.rxtotal))
  | n => ((c.outstanding k).all fun o => o.kind.cls ≠ some n || decide (upto ≤ o.id)) &&
      (n ≠ 0 || (s.openSends p k).all fun m => decide (upto ≤ m.ord))

/-- The classes of a mask that are drained, as a mask (R126). -/
def State.drainedMask (s : State) (p k mask upto : Nat) : Nat :=
  ofBitsSet ((bitsSet 5 mask).filter fun c => s.drained p k c upto)

/-! ## Elapsed time (R278) -/

/-- Ticks that a core has spent stopped. -/
def State.stopTicks (s : State) (p : Nat) : Nat :=
  let c := s.core p
  c.stopTotal + (if c.stop.isSome then s.now - c.stopSince else 0)

/-- The core is a twin of a pair, whose waits the arbiter of the pair ends (R283, R412). -/
def State.paired (s : State) (p : Nat) : Bool :=
  match (s.core p).place with
  | some pl => decide (pl.twin ≠ 0)
  | none => false

/-- Ticks that a wait's E leaves out: those of the core's stops, and for a twin those in which one of the twins was stopped (R278, R412). -/
def State.awayTicks (s : State) (p : Nat) : Nat := if s.paired p then (s.core p).pairStops else s.stopTicks p

/-- E of a wait. -/
def State.elapsed (s : State) (p : Nat) (w : Wait) : Nat :=
  if w.wall then s.now - w.start else s.now - w.start - (s.awayTicks p - w.stops)

/-- E has reached D. -/
def State.expired (s : State) (p : Nat) (w : Wait) : Bool := decide (w.deadline ≤ s.elapsed p w)

/-! ## The entry into Compute as far as a wait needs it (R35, R420) -/

/-- A partition is stopped by a gang switch: what belongs to it waits for its resume (R350, R439). -/
def State.partStopped (s : State) (n : Nat) : Bool :=
  match find n s.parts with
  | some pt => pt.stopped
  | none => false

/-- The core is the shadow of a pair: its barrier words take the primary's result and change nothing (R410, R412). -/
def State.isShadow (s : State) (p : Nat) : Bool :=
  match (s.core p).place with
  | some pl => decide (pl.twin = 2)
  | none => false

/-- A deferred effect needs the host link. -/
def Deferred.host (d : Deferred) : Bool :=
  match d with
  | .store _ _ _ => true
  | .rmw _ _ => true
  | _ => false

/-- The instance runs in rollback mode. -/
def State.instRollback (s : State) (i : Instance) : Bool :=
  match find i.tract s.tracts with
  | some t => t.rollback
  | none => false

/-- What keeps a core of a rollback-mode parcel, a shadow too, from its next datum: commands appended before its SSTEP, unperformed stores, atomics,
reductions and messages, which count as stores (R293), and deferred effects that need the host link (R420). -/
def State.datumReady (s : State) (p : Nat) : Bool :=
  let c := s.core p
  (c.chains.all fun x => x.2.cmds.all fun m => decide (c.exch.mark ≤ m.id)) &&
    ((c.ops ++ c.snagOps).all fun o => o.kind.cls = none) && c.loading.isNone &&
    ((List.range 11).all fun k => (s.openSends p k).isEmpty) && (s.hostUp || c.exch.deferred.all fun d => !d.host)

/-- The cores of an instance may enter Compute now. -/
def State.entryReady (s : State) (n : Nat) (i : Instance) : Bool :=
  match i.enter with
  | none => false
  | some t => decide (t ≤ s.now) && i.status.isNone && !s.partStopped i.part &&
      (!s.instRollback i || (s.instCores n).all fun p => s.datumReady p) &&
      (s.instCores n).all fun p => (s.core p).stop.isNone

/-! ## Conditions -/

/-- The chain that a slot, generation and engine name on a core (R304). -/
def Core.chainAt (c : Core) (slot gen eng : Nat) : Option Chain :=
  let x := look Chain.free slot c.chains
  if x.bound && decide (x.gen = gen) && decide (x.eng = eng) then some x else none

/-- The chain that a handle names (R304): a word with a nonzero STATUS or a nonzero fixed bit is no handle (DESIGN CHOICE, log entry 67). -/
def Core.chainOf (c : Core) (h : Word) : Option (Nat × Chain) :=
  if fieldNat h 56 8 ≠ 0 ∨ fieldNat h 32 24 ≠ 0 ∨ fieldNat h 6 2 ≠ 0 then none
  else (c.chainAt (fieldNat h 0 4) (fieldNat h 8 24) (fieldNat h 4 2)).map fun x => (fieldNat h 0 4, x)

/-- An older RECV of the core waits (R295). -/
def Core.olderRecv (c : Core) (id : Nat) : Bool :=
  c.strands.any fun t => match t.2.wait with
    | some w => (match w.kind with
      | .recv _ _ => decide (w.id < id)
      | _ => false)
    | none => false

/-- The status with which a wait's condition would end it now, or none while it does not hold (R279). -/
def State.waitStatus (s : State) (p k : Nat) (w : Wait) : Option Nat :=
  let c := s.core p
  match w.kind with
  | .join mask => if (bitsSet 11 mask).all fun h => h = 0 || (!(c.strand h).live && s.quiet p h) then some 0 else none
  | .sleep mask seen => if mask &&& seen ≠ 0 then some 0 else none
  | .wdrain f n => if (List.range n).all fun i => !c.busy (f + i) then some 0 else none
  | .lds _ ended _ => ended
  | .fence mask _ upto _ => if s.drainedMask p k mask upto = mask then some 0 else none
  | .bwait _ _ ended => ended
  | .recv _ _ => if !c.queue.isEmpty && !c.olderRecv w.id then some 0 else none
  | .waitseq slot gen eng target =>
    (match c.chainAt slot gen eng with
    | none => some 2
    | some x => if target ≤ x.completed then some 0 else none)
  | .sstep n => if n < c.exch.count && c.exch.state = .compute then some 0 else none

/-- A step of this tick ends the wait with status 0: a BWAIT's release, or the entry into Compute. Completion comes before expiry (R279, R286, R299,
R439). -/
def State.endsNow (s : State) (p : Nat) (w : Wait) : Bool :=
  match w.kind with
  | .bwait _ (some t) none => decide (t ≤ s.now)
  | .sstep n => decide (n < (s.core p).exch.count) && decide ((s.core p).exch.state ≠ .compute) && match s.instOf p with
    | some (m, i) => s.entryReady m i && i.dbg = .running
    | none => false
  | _ => false

/-! ## Endings (R280 to R282) -/

/-- WST for a status (R280). -/
def wstOf (status : Nat) : Nat :=
  match status with
  | 0 => 0
  | 1 => 1
  | 3 => 3
  | _ => 2

/-- WST and ESC after a wait of deadline `d` ends with a status (R280, R281), as the write of the wait's word. -/
def State.endHeader (s : State) (id p k status d : Nat) : State :=
  let h := s.hword p k 5
  let esc := fieldNat h 54 10
  let esc' := if status = 0 then 0 else if status = 1 ∧ d ≠ 0 then min (esc + 1) 1023 else esc
  s.writeRowAs id p (s.strand p k).wb 1 ((bitMask 48 2 ||| bitMask 54 10).zeroExtend 512 <<< 320)
    (BitVec.ofNat 512 ((wstOf status * 2 ^ 48 + esc' * 2 ^ 54) * 2 ^ 320))

/-- Take the oldest message for the RECV of program-order number `id` (R295): its payload, then its header scalar, as writes bound at issue, and the
shorter queue. -/
def State.takeMessage (s : State) (id p row : Nat) (hd : Dest) : State :=
  let c := s.core p
  match c.queue with
  | [] => s
  | m :: rest =>
    let got := if s.rollbackMode p then c.exch.got ++ [m] else c.exch.got
    let s1 := s.setCore p { c with queue := rest, exch := { c.exch with got := got } }
    let v := m.srcLog % 8192 + m.tag % 2 ^ 16 * 2 ^ 16 + min rest.length 65535 * 2 ^ 32
    let at' := rowMask (64 * hd.word) 64
    let x : Row := (BitVec.ofNat 64 v).zeroExtend 512 <<< (64 * hd.word)
    if hd.row = row then s1.writeRowAs id p row 1 (~~~0) (blend m.payload at' x)
    else (s1.writeRowAs id p row 1 (~~~0) m.payload).writeRowAs id p hd.row 1 at' x

/-- The classes that a FENCE reports as drained: those that hold now, or in a pair those that the arbiter decided (R126, R412). -/
def State.fenceMask (s : State) (p k : Nat) (w : Wait) : Nat :=
  match w.kind with
  | .fence mask _ upto decided => decided.getD (s.drainedMask p k mask upto)
  | _ => 0

/-- A JOIN has ended with status 0: what its helpers still have to perform comes before the later operations of the joining strand
(R210). -/
def Core.markJoin (c : Core) (mask k id : Nat) : Core :=
  c.mapOps fun o => if mask.testBit o.strand && o.strand ≠ 0 then { o with joins := o.joins ++ [(k, id)] } else o

/-- The effects of the end of a wait on a strand: what it takes or writes, WST and ESC. The wait itself stays. -/
def State.endEffects (s : State) (p k : Nat) (w : Wait) (status : Nat) : State :=
  let s1 := match w.kind with
    | .recv row hd => if status = 0 then s.takeMessage w.id p row hd else s
    | .join mask => if status = 0 then s.modCore p fun c => c.markJoin mask k w.id else s
    | _ => s
  let s2 := match w.dest with
    | none => s1
    | some d =>
      (match w.kind with
      | .sleep mask seen => s1.writeDestAs w.id p 1 d (BitVec.ofNat 64 (mask &&& seen))
      | .fence _ _ _ _ => s1.writeDestAs w.id p 1 d (BitVec.ofNat 64 (s.fenceMask p k w * 256 + status))
      | .lds _ _ v => if status = 0 then s1.writeDestAs w.id p 1 d v else s1
      | _ => s1.writeDestAs w.id p 1 d (BitVec.ofNat 64 status))
  s2.endHeader w.id p k status w.deadline

/-- The strand leaves its wait. -/
def State.clearWait (s : State) (p k : Nat) : State := s.modStrand p k fun t => { t with wait := none }

/-- The state whose headers the selector of a gang's wait reads: of each member that has ended its wait, the header from before its own
effects (R175). -/
def State.unwound (s : State) (k : Nat) (ms : List Nat) : State :=
  ms.foldl (fun x q => match (s.strand q k).endedBy with
    | some e => x.modCore q fun c => c.setRow (s.strand q k).wb e.header
    | none => x) s

/-- A strand's wait has ended, `src` being the state before its own effects. A gang waits until every member's wait has ended; then the selector
acts, which reads headers as they were before the word's own effects, and an escalation is taken with the word that follows as NPC (R175, R202, R282,
R428). Where the selector ends the strand, the trap comes first, NPC the word after the wait (DEDUCED, log entry 79). -/
def State.leaveWait (s src : State) (p k : Nat) (h : Hdr) (escal : Option (Nat × Word)) : State :=
  let s1 := s.modStrand p k fun t => { t with wait := none, endedBy := some ⟨src.header p k, escal⟩ }
  let ms := s1.members p
  if ms.any fun q => (s1.strand q k).wait.isSome then s1
  else
    let s2 := ms.foldl (fun x q => x.modStrand q k fun t => { t with endedBy := none }) s1
    let s3 := s2.selectAll (s1.unwound k ms) k h ms
    match ms.findSome? fun q => (s1.strand q k).endedBy.bind (·.escal) with
    | some e =>
      let t : Trap := { cause := 19, code := e.1, info := e.2 }
      let l := ms.headD p
      let pc := (s.strand l k).pc
      if (s3.strand l k).live then s3.trapAt k t pc (s3.strand l k).pc ms else s2.trapAll k t ms
    | none => s3

/-- A wait ends with a status. -/
def State.endWait (s : State) (p k : Nat) (w : Wait) (status : Nat) : State :=
  (s.endEffects p k w status).leaveWait s p k w.hdr none

/-- The status of an expiry: SLEEP ends done, FENCE partial when some class is drained (R126, R213, R280). -/
def State.expiryStatus (s : State) (p k : Nat) (w : Wait) : Nat :=
  match w.kind with
  | .sleep _ _ => 0
  | .fence _ _ _ _ => if s.fenceMask p k w = 0 then 1 else 3
  | _ => 1

/-- An expiry with this status escalates (R282). -/
def State.escalates (s : State) (p k : Nat) (w : Wait) (status : Nat) : Bool :=
  let c := s.core p
  status = 1 && decide (w.deadline ≠ 0) && decide (c.escThresh ≠ 0) &&
    decide (c.escThresh ≤ fieldNat (s.hword p k 5) 54 10)

/-- A wait ends by its deadline: its effects, or the escalation trap after them, the destination not written (R282). -/
def State.expire (s0 : State) (p k : Nat) (w : Wait) : State :=
  let s := s0.dropLoad p w
  let status := s.expiryStatus p k w
  if s.escalates p k w status then
    let esc := min (fieldNat (s.hword p k 5) 54 10 + 1) 255
    ((s.endHeader w.id p k 1 w.deadline).modCore p fun c => { c with escTraps := (c.escTraps + 1) % 2 ^ 32 }).leaveWait s p k w.hdr
      (some (esc, BitVec.ofNat 64 w.deadline))
  else s.endWait p k w status

/-- A wait word: it reads ESC and writes WST and ESC of its header (R280, R281). -/
def specWait (ops : List Opnd) : WordSpec := { specX ops 1 with usesHeader := true, hw := [5] }

/-- A wait as it begins (R277, R278). -/
def State.newWait (s : State) (p : Nat) (kind : WaitKind) (dl : Word) (wall : BitVec 1) (dest : Option Dest) (h : Hdr) :
    Wait :=
  { kind := kind, deadline := fieldNat dl 0 48, wall := wall == 1, start := s.now, stops := s.awayTicks p, dest := dest,
    hdr := h, id := s.curId p }

/-- The strand holds a wait. -/
def State.hold (s : State) (p k : Nat) (w : Wait) : State := s.modStrand p k fun t => { t with wait := some w }

/-- A wait begins on a strand: it ends at once when its condition holds or when it is a poll, and else the strand holds it
(R277, R279). A twin's wait is always ended by the arbiter (R412). -/
def State.startWait (s : State) (p k : Nat) (kind : WaitKind) (dl : Word) (wall : BitVec 1) (dest : Option Dest)
    (h : Hdr) : Res :=
  let w := s.newWait p kind dl wall dest h
  if s.paired p then .jump (s.hold p k w)
  else
    match s.waitStatus p k w with
    | some st => .done (s.endEffects p k w st)
    | none => if w.deadline = 0 ∧ !s.endsNow p w then .done (s.endEffects p k w (s.expiryStatus p k w)) else .jump (s.hold p k w)

/-! ## SLEEP's events (R213) -/

/-- An event occurs for strand `k` of a core: a SLEEP that waits there sees it. -/
def Core.wake (c : Core) (k bit : Nat) : Core :=
  let t := c.strand k
  match t.wait with
  | some w => (match w.kind with
    | .sleep m seen => c.setStrand k { t with wait := some { w with kind := .sleep m (seen ||| 2 ^ bit) } }
    | _ => c)
  | none => c

/-- An event occurs for every strand of a core. -/
def Core.wakeAll (c : Core) (bit : Nat) : Core := (List.range 11).foldl (fun x k => x.wake k bit) c

/-! ## Values that a shadow twin takes from its primary (R412) -/

/-- A value that depends on time or on physical state: the primary's value goes to the shadow, which waits for it. -/
def State.twinValue (s : State) (p k : Nat) (v : Word) : Option (Word × State) :=
  match (s.core p).place with
  | none => some (v, s)
  | some pl =>
    if pl.twin = 0 then some (v, s)
    else if pl.twin = 1 then some (v, s.modCore pl.mate fun c => { c with twinVals := c.twinVals ++ [(k, v)] })
    else
      match (s.core p).twinVals.find? fun e => e.1 = k with
      | none => none
      | some e => some (e.2, s.modCore p fun c => { c with twinVals := c.twinVals.erase e })

end Sys2Proof.Machine
end

