-- ==== Sys2Proof/Machine/Sequencing.lean ====
section
/-! DEFINITION. Sequencing and strand instructions (R203 to R214): one meaning for each. -/

namespace Sys2Proof.Machine

/-- Sign-extend to a word. -/
def sx {n : Nat} (x : BitVec n) : Word := x.signExtend 64

/-- A class S word that writes words of its window's header at issue. -/
def specHeader (ops : List Opnd) (hw : List Nat) : WordSpec := { specS ops 1 with hw := hw }

/-- The header word of a branch-target slot (R64). -/
def targetWords (t : BitVec 2) : List Nat := [2 + t.toNat / 2]

/-- Strand state trap for an open repetition buffer (R206, R207, R216). -/
def trapIfOpen : Nat → Nat → State → Verdict := fun p k s => trapWhen (s.ract p k) (s.wordTrap 3)

/-- Strand state trap for a helper, and for a member of a fused gang (R202). -/
def controlOnly : Nat → Nat → State → Verdict :=
  fun p k s => trapWhen (decide (k ≠ 0) || (s.core p).gang.isSome) (s.wordTrap 3)

/-- Strand state trap in a fused gang (R202, R301). -/
def noGang : Nat → Nat → State → Verdict := fun p _ s => trapWhen (s.core p).gang.isSome (s.wordTrap 3)

/-- NOP (R204). -/
def execNop (h : Hdr) (s : State) : Host.Outcome State Fault Refusal :=
  runWord h (specS [] 1) (fun _ _ s => .done s) s

/-- TGT (R205). -/
def execTgt (h : Hdr) (t : BitVec 2) (imm : BitVec 28) (s : State) : Host.Outcome State Fault Refusal :=
  runWord h (specHeader [] (targetWords t)) (fun p k s =>
    .done (s.wT p k t (((s.strand p k).pc + 8 * sx imm).extractLsb' 0 32))) s

/-- TGTS (R205). -/
def execTgts (h : Hdr) (t : BitVec 2) (a : BitVec 8) (s : State) : Host.Outcome State Fault Refusal :=
  runWord h (specHeader [aS a] (targetWords t)) (fun p k s => .done (s.wT p k t ((s.rS p k 1 a).extractLsb' 0 32))) s

/-- LNK (R205). -/
def execLnk (h : Hdr) (s : State) : Host.Outcome State Fault Refusal :=
  runWord h (specHeader [] [1]) (fun p k s => .done (s.writeDest p 1 ⟨(s.strand p k).wb, 1⟩ ((s.strand p k).pc + 8))) s

/-- LOOP counts down and sets its predicate (R206). -/
def execLoop (h : Hdr) (q : BitVec 3) (s : State) : Host.Outcome State Fault Refusal :=
  runWord h { specX [] 1 with usesHeader := true, hw := 6 :: qWords q, pre := trapIfOpen } (fun p k s =>
    let lc := fieldNat (s.hword p k 6) 0 32 - 1
    .done ((s.putHbits p k 6 0 32 lc).putPred p k q.toNat (if lc = 0 then 0 else 0xFFFF))) s

/-- LOOP.SET loads the loop counter (R206). -/
def execLoopSet (h : Hdr) (a : BitVec 8) (s : State) : Host.Outcome State Fault Refusal :=
  runWord h { specX [aS a] 1 with usesHeader := true, hw := [6], pre := trapIfOpen } (fun p k s =>
    .done (s.putHbits p k 6 0 32 (fieldNat (s.rS p k 1 a) 0 32))) s

/-- The header word 6 that REPB leaves (R74, R207). -/
def repHeader (old : Word) (lc : Nat) (stride mask : BitVec 4) : Word :=
  setBits old 0 57 (lc + stride.toNat * 2 ^ 32 + 15 * 2 ^ 36 + mask.toNat * 2 ^ 40 + 2 ^ 52)

/-- REPB opens a repetition buffer; the body begins at the next word (R74, R207). -/
def execRepb (h : Hdr) (a : BitVec 8) (stride mask : BitVec 4) (s : State) : Host.Outcome State Fault Refusal :=
  runWord h { specX [aS a] 1 with usesHeader := true, hw := [6], pre := trapIfOpen } (fun p k s =>
    let v := repHeader (s.hword p k 6) (fieldNat (s.rS p k 1 a) 0 32) stride mask
    .jump (((s.putHmask p k 6 (bitMask 0 57) v).modStrand p k Strand.takeUp).goto p k ((s.strand p k).pc + 8))) s

/-! ## Helpers -/

/-- Two row ranges share a row. -/
def rangesMeet (b1 l1 b2 l2 : Nat) : Bool := decide (b1 < b2 + l2) && decide (b2 < b1 + l1) && decide (0 < l1) && decide (0 < l2)

/-- The range meets the envelope of a live strand of the core other than `k` (R57, R201). -/
def Core.envelopeMeets (c : Core) (k eb el : Nat) : Bool :=
  (List.range 11).any fun j => j ≠ k && (c.strand j).live && rangesMeet eb el (c.strand j).eb (c.strand j).el

/-- The envelope trap with a refusal code and the descriptor (R201, R425). -/
def envTrap (code : Nat) (desc : Word) : Trap := { cause := 5, code := code, info := desc }

/-- The refusal code of START, in the order of R208, or 0. -/
def Core.startRefusal (c : Core) (n : Nat) (d : Word) : Nat :=
  let eb := fieldNat d 30 10
  let el := fieldNat d 19 11
  let wb := fieldNat d 9 10
  let wl := fieldNat d 0 9
  if (c.strand n).live then 7
  else if 1024 < eb + el ∨ el = 0 then 6
  else if wl = 0 ∨ 256 < wl then 2
  else if wb < eb ∨ eb + el < wb + wl then 1
  else if c.envelopeMeets n eb el then 3
  else 0

/-- Every memory operation of a strand number's holder has been performed, its loads too (R208). -/
def State.allDone (s : State) (p n : Nat) : Bool := s.quiet p n && ((s.core p).outstanding n).all fun o => o.kind = .lds

/-- START begins a helper, once the operations of the strand number's holder before it have been performed (R208, R209). -/
def execStart (h : Hdr) (a : BitVec 8) (hn : BitVec 4) (s : State) : Host.Outcome State Fault Refusal :=
  runWord h { specX [aS a] 1 with pre := controlOnly } (fun p k s =>
    let n := hn.toNat
    let d := s.rS p k 1 a
    let code := (s.core p).startRefusal n d
    if code ≠ 0 then .trap (envTrap code d)
    else if !s.allDone p n then .hold
    else
      .done (s.modStrand p n fun t => { t with
        began := s.curId p, readyAt := (s.core p).cycle + 2, endedBy := none, fuse := none,
        live := true, eb := fieldNat d 30 10, el := fieldNat d 19 11, wb := fieldNat d 9 10, wl := fieldNat d 0 9,
        pc := (s.strand p k).pc + 8 * sx (d.extractLsb' 40 24), wait := none, stopped := false, past := false, aside := [],
        failed := [], body := [], age := s.curId p })) s

/-- JOIN waits for helpers (R210). -/
def execJoin (h : Hdr) (d b : BitVec 8) (wall : BitVec 1) (s : State) : Host.Outcome State Fault Refusal :=
  runWord h (specWait [dSrc d, bS b]) (fun p k s =>
    s.startWait p k (.join (fieldNat (s.rS p k 0 d) 0 11)) (s.rS p k 2 b) wall none h) s

/-- HKILL retires helpers (R211). -/
def execHkill (h : Hdr) (a : BitVec 8) (s : State) : Host.Outcome State Fault Refusal :=
  runWord h { specX [aS a] 1 with pre := controlOnly } (fun p k s =>
    let hs := (bitsSet 11 (s.rS p k 1 a).toNat).filter (· ≠ 0)
    .done (hs.foldl (fun x n => x.killHelper p n) s)) s

/-! ## Identity, time, sleep and marks -/

/-- IDS: index, size, strand number, superstep count (R212). -/
def State.identity (s : State) (p k sel : Nat) : Word :=
  match sel with
  | 0 => (match s.instOf p with
    | some (_, i) => BitVec.ofNat 64 i.index
    | none => 0)
  | 1 => (match s.tractOf p with
    | some t => BitVec.ofNat 64 t.n
    | none => 0)
  | 2 => BitVec.ofNat 64 k
  | _ => BitVec.ofNat 64 (s.core p).exch.count

/-- IDS (R212). -/
def execIds (h : Hdr) (d : BitVec 8) (sel : BitVec 2) (s : State) : Host.Outcome State Fault Refusal :=
  runWord h (specS [dS d] 1) (fun p k s => .done (s.wS p k 1 d (s.identity p k sel.toNat))) s

/-- CLK (R212, R412). -/
def execClk (h : Hdr) (d : BitVec 8) (s : State) : Host.Outcome State Fault Refusal :=
  runWord h (specS [dS d] 1) (fun p k s =>
    match s.twinValue p k (BitVec.ofNat 64 s.now) with
    | some (v, s1) => .done (s1.wS p k 1 d v)
    | none => .hold) s

/-- SLEEP waits for events or its deadline (R213). Helpers ignore events 2 and 3. -/
def execSleep (h : Hdr) (d a b : BitVec 8) (wall : BitVec 1) (s : State) : Host.Outcome State Fault Refusal :=
  runWord h (specWait [dS d, aS a, bS b]) (fun p k s =>
    let m := fieldNat (s.rS p k 1 a) 0 (if k = 0 then 4 else 2)
    s.startWait p k (.sleep m 0) (s.rS p k 2 b) wall (some (s.destOf p k 0 d)) h) s

/-- MARK puts a marker record into the field book (R214, R367). -/
def execMark (h : Hdr) (value : BitVec 20) (s : State) : Host.Outcome State Fault Refusal :=
  runWord h (specS [] 1) (fun p k s =>
    .done (if (s.core p).fb.ctl.getLsbD 3 then
      s.fbRecord p 1 value.toNat (s.strand p k).pc (BitVec.ofNat 64 s.now) else s)) s

end Sys2Proof.Machine
end

