-- ==== Sys2Proof/Machine/ScalarInt.lean ====
section
/-! DEFINITION. Scalar integer instructions (R225 to R231): one meaning for each. -/

namespace Sys2Proof.Machine

/-- S[D] := f a b with latency `lat` (R226). -/
def scalar2 (h : Hdr) (lat : Nat) (d a b : BitVec 8) (f : Word → Word → Word) (s : State) :
    Host.Outcome State Fault Refusal :=
  runWord h (specS [dS d, aS a, bS b] lat) (fun p k s => .done (s.wS p k lat d (f (s.rS p k 1 a) (s.rS p k 2 b)))) s

/-- S[D] := f a with latency `lat` (R226). -/
def scalar1 (h : Hdr) (lat : Nat) (d a : BitVec 8) (f : Word → Word) (s : State) : Host.Outcome State Fault Refusal :=
  runWord h (specS [dS d, aS a] lat) (fun p k s => .done (s.wS p k lat d (f (s.rS p k 1 a)))) s

/-- The high half of a signed product. -/
def mulHigh (a b : Word) : Word := BitVec.ofInt 64 (a.toInt * b.toInt / 2 ^ 64)

/-- The high half of an unsigned product. -/
def mulHighU (a b : Word) : Word := BitVec.ofNat 64 (a.toNat * b.toNat / 2 ^ 64)

/-- Signed quotient, truncated; all ones for a zero divisor (R227). -/
def divS (a b : Word) : Word := if b = 0 then ~~~0 else BitVec.ofInt 64 (a.toInt.tdiv b.toInt)

/-- Unsigned quotient; all ones for a zero divisor (R227). -/
def divU (a b : Word) : Word := if b = 0 then ~~~0 else BitVec.ofNat 64 (a.toNat / b.toNat)

/-- Signed remainder with the sign of a; a for a zero divisor (R227). -/
def remS (a b : Word) : Word := if b = 0 then a else BitVec.ofInt 64 (a.toInt - b.toInt * a.toInt.tdiv b.toInt)

/-- Unsigned remainder; a for a zero divisor (R227). -/
def remU (a b : Word) : Word := if b = 0 then a else BitVec.ofNat 64 (a.toNat % b.toNat)

/-- The shift distance: b mod 64. -/
def shiftOf (b : Word) : Nat := b.toNat % 64

/-- SCMP and SCMPS: a cc b, signed or unsigned (R228). -/
def cmpWords (cc : BitVec 4) (u : BitVec 1) (a b : Word) : Bool :=
  intCmp cc.toNat (readInt 64 (u == 1) a.toNat) (readInt 64 (u == 1) b.toNat)

/-- `n` low ones. -/
def ones (n : Nat) : Word := BitVec.ofNat 64 (2 ^ n - 1)

/-- ADD. -/
def execAdd (h : Hdr) (d a b : BitVec 8) (s : State) : Host.Outcome State Fault Refusal :=
  scalar2 h 1 d a b (fun x y => x + y) s

/-- SUB. -/
def execSub (h : Hdr) (d a b : BitVec 8) (s : State) : Host.Outcome State Fault Refusal :=
  scalar2 h 1 d a b (fun x y => x - y) s

/-- ADDI. -/
def execAddi (h : Hdr) (d a : BitVec 8) (imm : BitVec 28) (s : State) : Host.Outcome State Fault Refusal :=
  scalar1 h 1 d a (fun x => x + sx imm) s

/-- MUL. -/
def execMul (h : Hdr) (d a b : BitVec 8) (s : State) : Host.Outcome State Fault Refusal :=
  scalar2 h 3 d a b (fun x y => x * y) s

/-- MULH. -/
def execMulh (h : Hdr) (d a b : BitVec 8) (s : State) : Host.Outcome State Fault Refusal :=
  scalar2 h 3 d a b mulHigh s

/-- MULHU. -/
def execMulhu (h : Hdr) (d a b : BitVec 8) (s : State) : Host.Outcome State Fault Refusal :=
  scalar2 h 3 d a b mulHighU s

/-- DIV. -/
def execDiv (h : Hdr) (d a b : BitVec 8) (s : State) : Host.Outcome State Fault Refusal :=
  scalar2 h 36 d a b divS s

/-- DIVU. -/
def execDivu (h : Hdr) (d a b : BitVec 8) (s : State) : Host.Outcome State Fault Refusal :=
  scalar2 h 36 d a b divU s

/-- REM. -/
def execRem (h : Hdr) (d a b : BitVec 8) (s : State) : Host.Outcome State Fault Refusal :=
  scalar2 h 36 d a b remS s

/-- REMU. -/
def execRemu (h : Hdr) (d a b : BitVec 8) (s : State) : Host.Outcome State Fault Refusal :=
  scalar2 h 36 d a b remU s

/-- AND. -/
def execAnd (h : Hdr) (d a b : BitVec 8) (s : State) : Host.Outcome State Fault Refusal :=
  scalar2 h 1 d a b (fun x y => x &&& y) s

/-- OR. -/
def execOr (h : Hdr) (d a b : BitVec 8) (s : State) : Host.Outcome State Fault Refusal :=
  scalar2 h 1 d a b (fun x y => x ||| y) s

/-- XOR. -/
def execXor (h : Hdr) (d a b : BitVec 8) (s : State) : Host.Outcome State Fault Refusal :=
  scalar2 h 1 d a b (fun x y => x ^^^ y) s

/-- ANDN. -/
def execAndn (h : Hdr) (d a b : BitVec 8) (s : State) : Host.Outcome State Fault Refusal :=
  scalar2 h 1 d a b (fun x y => x &&& ~~~y) s

/-- SHL. -/
def execShl (h : Hdr) (d a b : BitVec 8) (s : State) : Host.Outcome State Fault Refusal :=
  scalar2 h 1 d a b (fun x y => x <<< shiftOf y) s

/-- SHR. -/
def execShr (h : Hdr) (d a b : BitVec 8) (s : State) : Host.Outcome State Fault Refusal :=
  scalar2 h 1 d a b (fun x y => x >>> shiftOf y) s

/-- SRA. -/
def execSra (h : Hdr) (d a b : BitVec 8) (s : State) : Host.Outcome State Fault Refusal :=
  scalar2 h 1 d a b (fun x y => x.sshiftRight (shiftOf y)) s

/-- ROT, to the left. -/
def execRot (h : Hdr) (d a b : BitVec 8) (s : State) : Host.Outcome State Fault Refusal :=
  scalar2 h 1 d a b (fun x y => x.rotateLeft (shiftOf y)) s

/-- CLZ. -/
def execClz (h : Hdr) (d a : BitVec 8) (s : State) : Host.Outcome State Fault Refusal :=
  scalar1 h 1 d a (fun x => BitVec.ofNat 64 (clz 64 x.toNat)) s

/-- CTZ. -/
def execCtz (h : Hdr) (d a : BitVec 8) (s : State) : Host.Outcome State Fault Refusal :=
  scalar1 h 1 d a (fun x => BitVec.ofNat 64 (ctz 64 x.toNat)) s

/-- POPC. -/
def execPopc (h : Hdr) (d a : BitVec 8) (s : State) : Host.Outcome State Fault Refusal :=
  scalar1 h 1 d a (fun x => BitVec.ofNat 64 (popc 64 x.toNat)) s

/-- MIN, signed. -/
def execMin (h : Hdr) (d a b : BitVec 8) (s : State) : Host.Outcome State Fault Refusal :=
  scalar2 h 1 d a b (fun x y => if x.toInt ≤ y.toInt then x else y) s

/-- MAX, signed. -/
def execMax (h : Hdr) (d a b : BitVec 8) (s : State) : Host.Outcome State Fault Refusal :=
  scalar2 h 1 d a b (fun x y => if x.toInt ≤ y.toInt then y else x) s

/-- MINU. -/
def execMinu (h : Hdr) (d a b : BitVec 8) (s : State) : Host.Outcome State Fault Refusal :=
  scalar2 h 1 d a b (fun x y => if x.toNat ≤ y.toNat then x else y) s

/-- MAXU. -/
def execMaxu (h : Hdr) (d a b : BitVec 8) (s : State) : Host.Outcome State Fault Refusal :=
  scalar2 h 1 d a b (fun x y => if x.toNat ≤ y.toNat then y else x) s

/-- SEL. -/
def execSel (h : Hdr) (d a b : BitVec 8) (qc : BitVec 3) (s : State) : Host.Outcome State Fault Refusal :=
  runWord h { specS [dS d, aS a, bS b] 1 with usesHeader := decide (qc ≠ 0) } (fun p k s =>
    .done (s.wS p k 1 d (if (s.pred p k qc.toNat).getLsbD 0 then s.rS p k 1 a else s.rS p k 2 b))) s

/-- SCMP writes a predicate at issue (R228). -/
def execScmp (h : Hdr) (q : BitVec 3) (a b : BitVec 8) (cc : BitVec 4) (u : BitVec 1) (s : State) :
    Host.Outcome State Fault Refusal :=
  runWord h (specHeader [aS a, bS b] (qWords q)) (fun p k s =>
    .done (s.wQ p k 1 q (if cmpWords cc u (s.rS p k 1 a) (s.rS p k 2 b) then 0xFFFF else 0))) s

/-- SCMPS (R228). -/
def execScmps (h : Hdr) (d a b : BitVec 8) (cc : BitVec 4) (u : BitVec 1) (s : State) :
    Host.Outcome State Fault Refusal :=
  scalar2 h 1 d a b (fun x y => if cmpWords cc u x y then 1 else 0) s

/-- LI (R230). -/
def execLi (h : Hdr) (d : BitVec 8) (imm : BitVec 28) (s : State) : Host.Outcome State Fault Refusal :=
  runWord h (specS [dS d] 1) (fun p k s => .done (s.wS p k 1 d (sx imm))) s

/-- LIH keeps the low 28 bits of D (R230). -/
def execLih (h : Hdr) (d : BitVec 8) (imm36 : BitVec 36) (s : State) : Host.Outcome State Fault Refusal :=
  runWord h (specS [dBoth d] 1) (fun p k s =>
    .done (s.wS p k 1 d ((imm36.zeroExtend 64 <<< 28) ||| (s.rS p k 0 d &&& 0xFFFFFFF)))) s

/-- AGEN (R231). -/
def execAgen (h : Hdr) (d a b : BitVec 8) (sh : BitVec 3) (disp : BitVec 17) (s : State) :
    Host.Outcome State Fault Refusal :=
  scalar2 h 1 d a b (fun x y => x + (y <<< sh.toNat) + sx disp) s

/-- BFX (R229). -/
def execBfx (h : Hdr) (d a : BitVec 8) (pos : BitVec 6) (len : BitVec 7) (s : State) :
    Host.Outcome State Fault Refusal :=
  scalar1 h 1 d a (fun x => (x >>> pos.toNat) &&& ones len.toNat) s

/-- BFI reads D as a source too (R229). -/
def execBfi (h : Hdr) (d a : BitVec 8) (pos : BitVec 6) (len : BitVec 7) (s : State) :
    Host.Outcome State Fault Refusal :=
  runWord h (specS [dBoth d, aS a] 1) (fun p k s =>
    let m := ones len.toNat <<< pos.toNat
    .done (s.wS p k 1 d ((s.rS p k 0 d &&& ~~~m) ||| ((s.rS p k 1 a <<< pos.toNat) &&& m)))) s

/-- SEXT from bit n − 1 (R229). -/
def execSext (h : Hdr) (d a : BitVec 8) (n : BitVec 7) (s : State) : Host.Outcome State Fault Refusal :=
  scalar1 h 1 d a (fun x => BitVec.ofInt 64 (sint n.toNat (x.toNat % 2 ^ n.toNat))) s

/-- ZEXT (R229). -/
def execZext (h : Hdr) (d a : BitVec 8) (n : BitVec 7) (s : State) : Host.Outcome State Fault Refusal :=
  scalar1 h 1 d a (fun x => x &&& ones n.toNat) s

/-- MOV. -/
def execMov (h : Hdr) (d a : BitVec 8) (s : State) : Host.Outcome State Fault Refusal :=
  scalar1 h 1 d a (fun x => x) s

end Sys2Proof.Machine
end

