-- ==== Sys2Proof/Machine/ScalarFp.lean ====
section
/-! DEFINITION. Scalar floating-point instructions (R232 to R235): one meaning for each. -/

namespace Sys2Proof.Machine

/-- The operand's encoding: FP32 sources ignore bits [63:32] (R200). -/
def fpOf (f : Fmt) (x : Word) : FVal := fpVal f (x.toNat % 2 ^ f.width)

/-- S[D] := RoundTo(TY, op a b, RM), FP32 results zero-extended (R233). -/
def fscalar2 (h : Hdr) (lat : Nat) (d a b : BitVec 8) (ty rm : BitVec 3) (op : FVal → FVal → FVal) (s : State) :
    Host.Outcome State Fault Refusal :=
  let f := fmtOf ty.toNat
  scalar2 h lat d a b (fun x y => BitVec.ofNat 64 (roundTo f rm.toNat (op (fpOf f x) (fpOf f y)))) s

/-- Latency of a divide or square root: 16 for FP32, 28 for FP64 (R233). -/
def divLat (ty : BitVec 3) : Nat := if ty = 0 then 16 else 28

/-- The rounding mode is toward −Inf: the sign of an exact zero sum (R145). -/
def isDown (rm : BitVec 3) : Bool := rm == 3

/-- FADD. -/
def execFadd (h : Hdr) (d a b : BitVec 8) (ty rm : BitVec 3) (s : State) : Host.Outcome State Fault Refusal :=
  fscalar2 h 4 d a b ty rm (FVal.add (isDown rm)) s

/-- FSUB. -/
def execFsub (h : Hdr) (d a b : BitVec 8) (ty rm : BitVec 3) (s : State) : Host.Outcome State Fault Refusal :=
  fscalar2 h 4 d a b ty rm (fun x y => x.add (isDown rm) y.negate) s

/-- FMUL. -/
def execFmul (h : Hdr) (d a b : BitVec 8) (ty rm : BitVec 3) (s : State) : Host.Outcome State Fault Refusal :=
  fscalar2 h 4 d a b ty rm FVal.mul s

/-- FFMA rounds once. -/
def execFfma (h : Hdr) (d a b c : BitVec 8) (ty rm : BitVec 3) (s : State) : Host.Outcome State Fault Refusal :=
  runWord h (specS [dS d, aS a, bS b, cS c] 4) (fun p k s =>
    let f := fmtOf ty.toNat
    let v := ((fpOf f (s.rS p k 1 a)).mul (fpOf f (s.rS p k 2 b))).add (isDown rm) (fpOf f (s.rS p k 3 c))
    .done (s.wS p k 4 d (BitVec.ofNat 64 (roundTo f rm.toNat v)))) s

/-- FDIV. -/
def execFdiv (h : Hdr) (d a b : BitVec 8) (ty rm : BitVec 3) (s : State) : Host.Outcome State Fault Refusal :=
  fscalar2 h (divLat ty) d a b ty rm FVal.div s

/-- FSQRT. -/
def execFsqrt (h : Hdr) (d a : BitVec 8) (ty rm : BitVec 3) (s : State) : Host.Outcome State Fault Refusal :=
  let f := fmtOf ty.toNat
  scalar1 h (divLat ty) d a (fun x => BitVec.ofNat 64 (roundTo f rm.toNat (fpOf f x).sqrt)) s

/-- FMIN (R234). -/
def execFmin (h : Hdr) (d a b : BitVec 8) (ty : BitVec 3) (s : State) : Host.Outcome State Fault Refusal :=
  let f := fmtOf ty.toNat
  scalar2 h 4 d a b (fun x y => BitVec.ofNat 64 (fpMinMax f false (x.toNat % 2 ^ f.width) (y.toNat % 2 ^ f.width))) s

/-- FMAX (R234). -/
def execFmax (h : Hdr) (d a b : BitVec 8) (ty : BitVec 3) (s : State) : Host.Outcome State Fault Refusal :=
  let f := fmtOf ty.toNat
  scalar2 h 4 d a b (fun x y => BitVec.ofNat 64 (fpMinMax f true (x.toNat % 2 ^ f.width) (y.toNat % 2 ^ f.width))) s

/-- FCMP writes a predicate at issue (R233). -/
def execFcmp (h : Hdr) (q : BitVec 3) (a b : BitVec 8) (ty : BitVec 3) (cc : BitVec 4) (s : State) :
    Host.Outcome State Fault Refusal :=
  runWord h (specHeader [aS a, bS b] (qWords q)) (fun p k s =>
    let f := fmtOf ty.toNat
    .done (s.wQ p k 1 q
      (if fpCmp cc.toNat (fpOf f (s.rS p k 1 a)) (fpOf f (s.rS p k 2 b)) then 0xFFFF else 0))) s

/-- FCLASS (R234). -/
def execFclass (h : Hdr) (d a : BitVec 8) (ty : BitVec 3) (s : State) : Host.Outcome State Fault Refusal :=
  let f := fmtOf ty.toNat
  scalar1 h 1 d a (fun x => BitVec.ofNat 64 (fpClass f (x.toNat % 2 ^ f.width))) s

/-- The source format of FCVT's F1:F0 (R235). -/
def cvtSource (fl : BitVec 2) : Fmt :=
  match fl.toNat with
  | 0 => fp32
  | 1 => fp64
  | 2 => fp16
  | _ => bf16

/-- FCVT converts between floating-point formats (R235). -/
def execFcvt (h : Hdr) (d a : BitVec 8) (ty rm : BitVec 3) (fl : BitVec 2) (s : State) :
    Host.Outcome State Fault Refusal :=
  scalar1 h 4 d a (fun x => BitVec.ofNat 64 (roundTo (fmtOf ty.toNat) rm.toNat (fpOf (cvtSource fl) x))) s

/-- FCVTI converts between a floating-point format and INT64 (R235). -/
def execFcvti (h : Hdr) (d a : BitVec 8) (ty rm : BitVec 3) (fl : BitVec 2) (s : State) :
    Host.Outcome State Fault Refusal :=
  let f := fmtOf ty.toNat
  scalar1 h 4 d a (fun x =>
    match fl.toNat with
    | 0 => BitVec.ofNat 64 (fpToInt 64 false rm.toNat (fpOf f x))
    | 1 => BitVec.ofNat 64 (fpToInt 64 true rm.toNat (fpOf f x))
    | 2 => BitVec.ofNat 64 (roundTo f rm.toNat (intVal x.toInt))
    | _ => BitVec.ofNat 64 (roundTo f rm.toNat (intVal x.toNat))) s

end Sys2Proof.Machine
end

