-- ==== Sys2Proof/Machine/VecInt.lean ====
section
/-! DEFINITION. Vector integer instructions (R236 to R241): one meaning for each. -/

namespace Sys2Proof.Machine

/-- Lane width of TY in its integer reading (R178). -/
def intW (ty : BitVec 3) : Nat :=
  match ty.toNat with
  | 0 => 32
  | 1 => 16
  | 2 => 8
  | 3 => 4
  | _ => 64

/-- The execution predicate of a word on a strand. -/
def State.eqOf (s : State) (p k : Nat) (h : Hdr) : BitVec 16 := s.pred p k h.eq.toNat

/-- A row result of lanes of `w` bits, written where EQ enables the lane (R237). -/
def State.putLanes (s : State) (p k lat w : Nat) (h : Hdr) (d : BitVec 8) (l : List Nat) : State :=
  s.wV p k lat d (maskFor w (s.eqOf p k h)) (rowOfLanes w l)

/-- The lanes of width `w` of a row. -/
def lanesOf (w : Nat) (r : Row) : List Nat := lanes r w (512 / w)

/-- d := f a, lane by lane. -/
def vec1 (h : Hdr) (lat occ w : Nat) (d a : BitVec 8) (m : BitVec 12) (f : Nat → Nat) (s : State) :
    Host.Outcome State Fault Refusal :=
  runWord h { specV [dV d, aV a] lat with occ := occ } (fun p k s =>
    .done (s.putLanes p k lat w h d ((lanesOf w (modified m 0 (s.rV p k 1 a))).map f))) s

/-- The lanes of two source rows under a modifier, in pairs. -/
def lanes2 (w : Nat) (m : BitVec 12) (a b : Row) : List (Nat × Nat) :=
  (lanesOf w (modified m 0 a)).zip (lanesOf w (modified m 1 b))

/-- d := f a b, lane by lane. -/
def vec2 (h : Hdr) (lat occ w : Nat) (d a b : BitVec 8) (m : BitVec 12) (f : Nat → Nat → Nat) (s : State) :
    Host.Outcome State Fault Refusal :=
  runWord h { specV [dV d, aV a, bV b] lat with occ := occ } (fun p k s =>
    .done (s.putLanes p k lat w h d ((lanes2 w m (s.rV p k 1 a) (s.rV p k 2 b)).map fun x => f x.1 x.2))) s

/-- d := f a b c, lane by lane. -/
def vec3 (h : Hdr) (lat occ w : Nat) (d a b c : BitVec 8) (f : Nat → Nat → Nat → Nat) (s : State) :
    Host.Outcome State Fault Refusal :=
  runWord h { specV [dV d, aV a, bV b, cV c] lat with occ := occ } (fun p k s =>
    .done (s.putLanes p k lat w h d
      (((lanesOf w (s.rV p k 1 a)).zip ((lanesOf w (s.rV p k 2 b)).zip (lanesOf w (s.rV p k 3 c)))).map
        fun x => f x.1 x.2.1 x.2.2))) s

/-- The predicate bits that the comparison results of lanes of `w` bits make: bits 2j and 2j + 1 for 64-bit lanes (R241). -/
def cmpBits (w : Nat) (l : List Bool) : BitVec 16 :=
  if w = 64 then BitVec.ofNat 16 (packLanes 2 (l.map fun b => if b then 3 else 0))
  else BitVec.ofNat 16 (packLanes 1 (l.map fun b => if b then 1 else 0))

/-- The predicate bits that EQ enables for comparison results (R237, R241). -/
def cmpMask (w : Nat) (q : BitVec 16) : BitVec 16 :=
  if w = 64 then cmpBits 64 ((List.range 8).map fun j => q.getLsbD (2 * j)) else q

/-- Compare lanes into a predicate at issue. -/
def vecCmp (h : Hdr) (w : Nat) (q : BitVec 3) (a b : BitVec 8) (m : BitVec 12) (f : Nat → Nat → Bool) (s : State) :
    Host.Outcome State Fault Refusal :=
  runWord h { specV [aV a, bV b] 1 with hw := qWords q } (fun p k s =>
    .done (s.wQmask p k 1 q (cmpMask w (s.eqOf p k h))
      (cmpBits w ((lanes2 w m (s.rV p k 1 a) (s.rV p k 2 b)).map fun x => f x.1 x.2)))) s

/-- Latency and occupancy of a multiply: 6 and 2 for `.i64` (R241). -/
def mulLat (ty : BitVec 3) : Nat := if ty = 4 then 6 else 4
/-- Occupancy of a multiply. -/
def mulOcc (ty : BitVec 3) : Nat := if ty = 4 then 2 else 1

/-- VADD. -/
def execVadd (h : Hdr) (d a b : BitVec 8) (ty : BitVec 3) (m : BitVec 12) (s : State) :
    Host.Outcome State Fault Refusal :=
  vec2 h 2 1 (intW ty) d a b m (fun x y => x + y) s

/-- VSUB. -/
def execVsub (h : Hdr) (d a b : BitVec 8) (ty : BitVec 3) (m : BitVec 12) (s : State) :
    Host.Outcome State Fault Refusal :=
  vec2 h 2 1 (intW ty) d a b m (fun x y => x + 2 ^ intW ty - y) s

/-- VMUL. -/
def execVmul (h : Hdr) (d a b : BitVec 8) (ty : BitVec 3) (m : BitVec 12) (s : State) :
    Host.Outcome State Fault Refusal :=
  vec2 h (mulLat ty) (mulOcc ty) (intW ty) d a b m (fun x y => x * y) s

/-- VMULH: the product over 2^w, floored. -/
def execVmulh (h : Hdr) (d a b : BitVec 8) (ty : BitVec 3) (u : BitVec 1) (m : BitVec 12) (s : State) :
    Host.Outcome State Fault Refusal :=
  let w := intW ty
  vec2 h (mulLat ty) (mulOcc ty) w d a b m
    (fun x y => wrapInt w (Int.fdiv (readInt w (u == 1) x * readInt w (u == 1) y) (2 ^ w))) s

/-- VMAD. -/
def execVmad (h : Hdr) (d a b c : BitVec 8) (ty : BitVec 3) (s : State) : Host.Outcome State Fault Refusal :=
  vec3 h (mulLat ty) (mulOcc ty) (intW ty) d a b c (fun x y z => x * y + z) s

/-- VAND. -/
def execVand (h : Hdr) (d a b : BitVec 8) (ty : BitVec 3) (m : BitVec 12) (s : State) :
    Host.Outcome State Fault Refusal :=
  vec2 h 2 1 (intW ty) d a b m (fun x y => x &&& y) s

/-- VOR. -/
def execVor (h : Hdr) (d a b : BitVec 8) (ty : BitVec 3) (m : BitVec 12) (s : State) :
    Host.Outcome State Fault Refusal :=
  vec2 h 2 1 (intW ty) d a b m (fun x y => x ||| y) s

/-- VXOR. -/
def execVxor (h : Hdr) (d a b : BitVec 8) (ty : BitVec 3) (m : BitVec 12) (s : State) :
    Host.Outcome State Fault Refusal :=
  vec2 h 2 1 (intW ty) d a b m (fun x y => x ^^^ y) s

/-- VSHL, by b mod w. -/
def execVshl (h : Hdr) (d a b : BitVec 8) (ty : BitVec 3) (m : BitVec 12) (s : State) :
    Host.Outcome State Fault Refusal :=
  vec2 h 2 1 (intW ty) d a b m (fun x y => x * 2 ^ (y % intW ty)) s

/-- VSHR. -/
def execVshr (h : Hdr) (d a b : BitVec 8) (ty : BitVec 3) (m : BitVec 12) (s : State) :
    Host.Outcome State Fault Refusal :=
  vec2 h 2 1 (intW ty) d a b m (fun x y => x / 2 ^ (y % intW ty)) s

/-- VSRA. -/
def execVsra (h : Hdr) (d a b : BitVec 8) (ty : BitVec 3) (m : BitVec 12) (s : State) :
    Host.Outcome State Fault Refusal :=
  let w := intW ty
  vec2 h 2 1 w d a b m (fun x y => wrapInt w (Int.fdiv (sint w x) (2 ^ (y % w)))) s

/-- VMIN. -/
def execVmin (h : Hdr) (d a b : BitVec 8) (ty : BitVec 3) (u : BitVec 1) (m : BitVec 12) (s : State) :
    Host.Outcome State Fault Refusal :=
  let w := intW ty
  vec2 h 2 1 w d a b m (fun x y => if readInt w (u == 1) x ≤ readInt w (u == 1) y then x else y) s

/-- VMAX. -/
def execVmax (h : Hdr) (d a b : BitVec 8) (ty : BitVec 3) (u : BitVec 1) (m : BitVec 12) (s : State) :
    Host.Outcome State Fault Refusal :=
  let w := intW ty
  vec2 h 2 1 w d a b m (fun x y => if readInt w (u == 1) x ≤ readInt w (u == 1) y then y else x) s

/-- VABS. -/
def execVabs (h : Hdr) (d a : BitVec 8) (ty : BitVec 3) (m : BitVec 12) (s : State) :
    Host.Outcome State Fault Refusal :=
  vec1 h 2 1 (intW ty) d a m (fun x => (sint (intW ty) x).natAbs) s

/-- VCMP. -/
def execVcmp (h : Hdr) (q : BitVec 3) (a b : BitVec 8) (ty : BitVec 3) (cc : BitVec 4) (u : BitVec 1) (m : BitVec 12)
    (s : State) : Host.Outcome State Fault Refusal :=
  let w := intW ty
  vecCmp h w q a b m (fun x y => intCmp cc.toNat (readInt w (u == 1) x) (readInt w (u == 1) y)) s

/-- VSEL: a where the lane's bit of Q[C] is 1, else b. -/
def execVsel (h : Hdr) (d a b : BitVec 8) (qc ty : BitVec 3) (s : State) : Host.Outcome State Fault Refusal :=
  runWord h { specV [dV d, aV a, bV b] 2 with usesHeader := decide (qc ≠ 0) } (fun p k s =>
    let w := intW ty
    .done (s.wV p k 2 d (maskFor w (s.eqOf p k h))
      (blend (s.rV p k 2 b) (maskFor w (s.pred p k qc.toNat)) (s.rV p k 1 a)))) s

/-- VADDS: the exact sum, clamped. -/
def execVadds (h : Hdr) (d a b : BitVec 8) (ty : BitVec 3) (u : BitVec 1) (m : BitVec 12) (s : State) :
    Host.Outcome State Fault Refusal :=
  let w := intW ty
  vec2 h 2 1 w d a b m
    (fun x y => wrapInt w (clampInt w (u == 1) (readInt w (u == 1) x + readInt w (u == 1) y))) s

/-- VSUBS: the exact difference, clamped. -/
def execVsubs (h : Hdr) (d a b : BitVec 8) (ty : BitVec 3) (u : BitVec 1) (m : BitVec 12) (s : State) :
    Host.Outcome State Fault Refusal :=
  let w := intW ty
  vec2 h 2 1 w d a b m
    (fun x y => wrapInt w (clampInt w (u == 1) (readInt w (u == 1) x - readInt w (u == 1) y))) s

/-- The four byte products of a 32-bit lane. -/
def dot4 (fl : BitVec 2) (x y : Nat) : Int :=
  ((List.range 4).map fun i =>
    readInt 8 (fl.getLsbD 0) (x / 2 ^ (8 * i) % 256) * readInt 8 (fl.getLsbD 1) (y / 2 ^ (8 * i) % 256)).sum

/-- VDOT4. -/
def execVdot4 (h : Hdr) (d a b c : BitVec 8) (fl : BitVec 2) (s : State) : Host.Outcome State Fault Refusal :=
  vec3 h 4 1 32 d a b c (fun x y z => wrapInt 32 (z + dot4 fl x y)) s

/-- VPOPC. -/
def execVpopc (h : Hdr) (d a : BitVec 8) (ty : BitVec 3) (m : BitVec 12) (s : State) :
    Host.Outcome State Fault Refusal :=
  vec1 h 2 1 (intW ty) d a m (popc (intW ty)) s

/-- VCLZ. -/
def execVclz (h : Hdr) (d a : BitVec 8) (ty : BitVec 3) (m : BitVec 12) (s : State) :
    Host.Outcome State Fault Refusal :=
  vec1 h 2 1 (intW ty) d a m (clz (intW ty)) s

/-- VMOV. -/
def execVmov (h : Hdr) (d a : BitVec 8) (ty : BitVec 3) (m : BitVec 12) (s : State) :
    Host.Outcome State Fault Refusal :=
  vec1 h 2 1 (intW ty) d a m (fun x => x) s

end Sys2Proof.Machine
end

