-- ==== Sys2Proof/Machine/Tables.lean ====
section
/-! DEFINITION. Decode tables, encoding to codes, narrowing and scale selection (R151, R152, R158 to R162). -/

namespace Sys2Proof.Machine

/-! ## Tables (R151, R152) -/

/-- Decode(i): the value of entry i. -/
def tableVal (t : List (BitVec 19)) (i : Nat) : FVal := fpVal e8m10 (t.getD i 0).toNat

/-- An entry is not NaN. -/
def entryNum (x : BitVec 19) : Bool := !(fpVal e8m10 x.toNat).isNan

/-- The magnitude bits of an entry: they rise with the magnitude. -/
def entryMag (x : BitVec 19) : Nat := x.toNat % 2 ^ 18

/-- The list rises strictly. -/
def risingNat : List Nat → Bool
  | [] => true
  | [_] => true
  | x :: y :: r => decide (x < y) && risingNat (y :: r)

/-- Entries h0 to h0 + n − 1. -/
def halfOf (t : List (BitVec 19)) (h0 n : Nat) : List (BitVec 19) := (t.drop h0).take n

/-- A half is valid for encoding: `neg` is its sign (R152). An Inf can stand last only, since magnitudes rise strictly. -/
def halfValid (l : List (BitVec 19)) (neg : Bool) : Bool :=
  let nums := l.takeWhile entryNum
  decide (1 < nums.length) && (l.drop nums.length).all (fun x => !entryNum x) &&
    nums.all (fun x => x.getLsbD 18 == neg) && decide (entryMag (l.headD 1) = 0) && risingNat (nums.map entryMag)

/-- V8 of a table (R152). -/
def tableV8 (t : List (BitVec 19)) : Bool := halfValid (halfOf t 0 128) false && halfValid (halfOf t 128 128) true

/-- V4 of a table (R152). -/
def tableV4 (t : List (BitVec 19)) : Bool := halfValid (halfOf t 0 8) false && halfValid (halfOf t 8 8) true

/-- The table of a core whose 1 KiB image is given (R151). -/
def tableOfImage (bs : List Byte) : List (BitVec 19) :=
  (List.range 256).map fun i => BitVec.ofNat 19 (leNat ((bs.drop (4 * i)).take 4))

/-! ## Encoding (R158) -/

/-- Hm of a half: its last index that is not NaN. -/
def halfMax (l : List (BitVec 19)) : Nat := (l.takeWhile entryNum).length - 1

/-- LargestFinite of a half. -/
def halfFinite (l : List (BitVec 19)) : Nat :=
  if (fpVal e8m10 (l.getD (halfMax l) 0).toNat).isInf then halfMax l - 1 else halfMax l

/-- |x| ≤ |y| for finite values. -/
def absLe (x y : FVal) : Bool := x.abs.cmp y.abs != .gt

/-- The largest index of a half, up to `n`, whose magnitude is at most |x|. -/
def lowIndex (l : List (BitVec 19)) (x : FVal) : Nat → Nat
  | 0 => 0
  | n + 1 => if absLe (fpVal e8m10 (l.getD (n + 1) 0).toNat) x then n + 1 else lowIndex l x n

/-- x − y exactly. -/
def FVal.sub (x y : FVal) : FVal := x.add false y.negate

/-- The choice between the two entries that enclose a value: true takes the higher magnitude (R158). -/
def encodeUp (mode : Nat) (neg : Bool) (lo : Nat) (dl dh gap : FVal) (rnd : Nat) : Bool :=
  match mode with
  | 0 => (match dl.cmp dh with
    | .lt => false
    | .gt => true
    | .eq => lo % 2 = 1)
  | 4 => dl.cmp dh != .lt
  | 1 => false
  | 2 => !neg
  | 3 => neg
  | _ => (dl.mul (intVal (2 ^ 24))).cmp ((intVal rnd).mul gap) == .gt

/-- The index within a half that a finite magnitude encodes to. -/
def encodeMag (l : List (BitVec 19)) (mode : Nat) (neg : Bool) (x : FVal) (rnd : Nat) : Nat :=
  let v (i : Nat) : FVal := (fpVal e8m10 (l.getD i 0).toNat).abs
  let lo := lowIndex l x (halfFinite l)
  if lo = halfFinite l ∨ (v lo).cmp x.abs = .eq then lo
  else if encodeUp mode neg lo (x.abs.sub (v lo)) ((v (lo + 1)).sub x.abs) ((v (lo + 1)).sub (v lo)) rnd then lo + 1
  else lo

/-- Encode(x, mode, idx) with the random bits of idx (R158): `t4` chooses the 4-bit halves. -/
def encode (t : List (BitVec 19)) (t4 : Bool) (x : FVal) (mode rnd : Nat) : Nat :=
  let n := if t4 then 8 else 128
  let hp := halfOf t 0 n
  let hn := halfOf t n n
  let pick (neg : Bool) : Nat × List (BitVec 19) := if neg then (n, hn) else (0, hp)
  match x with
  | .nan => if halfMax hp + 1 < n then halfMax hp + 1 else halfMax hp
  | .inf s =>
    let (b, l) := pick s
    b + (if (fpVal e8m10 (l.getD (halfMax l) 0).toNat).isInf then halfMax l else halfFinite l)
  | .fin s _ _ =>
    let (b, l) := pick s
    b + encodeMag l mode s x rnd

/-! ## Narrowing (R160, R161, R245) -/

/-- Width of a narrowing target's element. -/
def targetW (ty : BitVec 3) : Nat :=
  match ty.toNat with
  | 0 => 32
  | 3 => 8
  | 5 => 4
  | _ => 16

/-- TY names a code. -/
def isCode (ty : BitVec 3) : Bool := ty == 3 || ty == 5

/-- The encoding to TY is not possible: the decode-table fault (R152). -/
def Core.tableFault (c : Core) (ty : BitVec 3) : Option Trap :=
  if (ty = 3 ∧ c.v8 = false) ∨ (ty = 5 ∧ c.v4 = false) then some { cause := 17, code := ty.toNat, info := 0 } else none

/-- One narrowed element: its bits, and whether it underflowed (R161). -/
def narrowElem (t : List (BitVec 19)) (ty : BitVec 3) (rm : Nat) (x : FVal) (rnd : Nat) : Nat × Bool :=
  let nonzero := !x.isZero && !x.isNan && !x.isInf
  if isCode ty then
    let c := encode t (ty == 5) x rm rnd
    (c, nonzero && (tableVal t c).isZero)
  else
    let f := fmtOf ty.toNat
    let r := roundTo f rm x rnd
    (r, nonzero && (fpVal f r).isZero)

/-- Add underflows to a field of CORE_UFCNT, saturating. -/
def Core.addUf (c : Core) (blk n : Nat) : Core :=
  match blk with
  | 0 => { c with uf0 := min (c.uf0 + n) 65535 }
  | 1 => { c with uf1 := min (c.uf1 + n) 65535 }
  | 2 => { c with uf2 := min (c.uf2 + n) 65535 }
  | _ => { c with uf3 := min (c.uf3 + n) 65535 }

/-- A narrowing word of latency `lat` counts the underflows of the written elements, whose positions begin at `first`; UFCNT waits for it
(R161, R262). -/
def State.countUf (s : State) (p lat first : Nat) (l : List Bool) : State :=
  s.modCore p fun c =>
    { (l.zip (List.range l.length)).foldl (fun c x => if x.1 then c.addUf ((first + x.2) / 32) 1 else c) c with
      narrowing := (c.narrowing.filter (c.cycle < ·)) ++ [c.cycle + lat] }

/-- The random bits of element `pos` of a word whose index base is `base` (R159). -/
def State.rndOf (s : State) (p : Nat) (base : Word) (pos : Nat) : Nat :=
  srBits (s.core p).srseed (base + BitVec.ofNat 64 pos)

/-- Narrow elements into the slots `first` and up of row D, under EQ; each written underflow counts (R245). -/
def State.narrowInto (s : State) (p k lat : Nat) (h : Hdr) (ty rm : BitVec 3) (d : BitVec 8) (xs : List FVal)
    (first : Nat) (base : Word) : State :=
  let w := targetW ty
  let q := s.eqOf p k h
  let es := (xs.zip (List.range xs.length)).map fun x =>
    narrowElem (s.core p).table ty rm.toNat x.1 (s.rndOf p base (first + x.2))
  let mask := rowMask (w * first) (w * xs.length) &&& maskFor w q
  let row := BitVec.ofNat 512 (packLanes w (es.map (·.1)) * 2 ^ (w * first))
  (s.wV p k lat d mask row).countUf p lat first
    ((es.zip (List.range es.length)).map fun e => e.1.2 && laneOn w q (first + e.2))

/-- What VFNARROW and DTENC are: C is read only when RM = 5 (R245). -/
def narrowSpec (d a b c : BitVec 8) (rm : BitVec 3) : WordSpec :=
  specV [dV d, aV a, bS b, { cS c with src := decide (rm = 5) }] 4

/-- VFNARROW and DTENC from source format `src`: part S[B] of row D, or the decode-table fault. -/
def State.narrow (s : State) (p k : Nat) (h : Hdr) (src : Fmt) (ty rm : BitVec 3) (d : BitVec 8) (a : Row)
    (b c : Word) : Res :=
  match (s.core p).tableFault ty with
  | some t => .trap t
  | none =>
    let n := 512 / src.width
    let part := b.toNat % (512 / targetW ty / n)
    .done (s.narrowInto p k 4 h ty rm d ((lanesOf src.width a).map (fpVal src)) (part * n) c)

/-! ## Scale selection (R162) -/

/-- 2^k as a value. -/
def pow2 (k : Int) : FVal := .fin false 1 k

/-- The smallest integer X, from `x` up and within `n` steps, with a ≤ M · 2^X. -/
def scaleUp (a m : FVal) : Nat → Int → Int
  | 0, x => x
  | n + 1, x => if a.cmp (m.mul (pow2 x)) != .gt then x else scaleUp a m n (x + 1)

/-- ScaleSelect(amax, u, th) with M the largest finite positive entry (R162). The search begins below the smallest exponent
that any FP32 amax and any entry can need and ends above the largest. -/
def scaleSelect (amax m : FVal) (u th : Nat) : Nat :=
  if amax.isNan ∨ amax.isInf then 255
  else if amax.isZero then 0
  else
    let x := scaleUp amax m 700 (-320)
    let x := if th ≠ 0 ∧ th ≤ u then x - 1 else x
    (max (-127) (min x 127) + 127).toNat

end Sys2Proof.Machine
end

