-- ==== Sys2Proof/Machine/VecFp.lean ====
section
/-! DEFINITION. Vector floating-point instructions (R242 to R247): one meaning for each. -/

namespace Sys2Proof.Machine

/-- Latency at `.f64`, or at the narrower formats. -/
def fpLat (ty : BitVec 3) (x y : Nat) : Nat := if ty = 4 then y else x

/-- d := RoundTo(TY, op a b, RM). -/
def vfp2 (h : Hdr) (lat occ : Nat) (d a b : BitVec 8) (ty rm : BitVec 3) (m : BitVec 12) (op : FVal → FVal → FVal)
    (s : State) : Host.Outcome State Fault Refusal :=
  let f := fmtOf ty.toNat
  vec2 h lat occ f.width d a b m (fun x y => roundTo f rm.toNat (op (fpVal f x) (fpVal f y))) s

/-- d := RoundTo(TY, op a, RM). -/
def vfp1 (h : Hdr) (lat occ : Nat) (d a : BitVec 8) (ty rm : BitVec 3) (m : BitVec 12) (op : FVal → FVal) (s : State) :
    Host.Outcome State Fault Refusal :=
  let f := fmtOf ty.toNat
  vec1 h lat occ f.width d a m (fun x => roundTo f rm.toNat (op (fpVal f x))) s

/-- d := RoundTo(TY, op a b c, RM). -/
def vfp3 (h : Hdr) (d a b c : BitVec 8) (ty rm : BitVec 3) (op : FVal → FVal → FVal → FVal) (s : State) :
    Host.Outcome State Fault Refusal :=
  let f := fmtOf ty.toNat
  vec3 h (fpLat ty 4 6) (fpLat ty 1 2) f.width d a b c
    (fun x y z => roundTo f rm.toNat (op (fpVal f x) (fpVal f y) (fpVal f z))) s

/-- VFADD. -/
def execVfadd (h : Hdr) (d a b : BitVec 8) (ty rm : BitVec 3) (m : BitVec 12) (s : State) :
    Host.Outcome State Fault Refusal :=
  vfp2 h (fpLat ty 4 6) (fpLat ty 1 2) d a b ty rm m (FVal.add (isDown rm)) s

/-- VFSUB. -/
def execVfsub (h : Hdr) (d a b : BitVec 8) (ty rm : BitVec 3) (m : BitVec 12) (s : State) :
    Host.Outcome State Fault Refusal :=
  vfp2 h (fpLat ty 4 6) (fpLat ty 1 2) d a b ty rm m (fun x y => x.add (isDown rm) y.negate) s

/-- VFMUL. -/
def execVfmul (h : Hdr) (d a b : BitVec 8) (ty rm : BitVec 3) (m : BitVec 12) (s : State) :
    Host.Outcome State Fault Refusal :=
  vfp2 h (fpLat ty 4 6) (fpLat ty 1 2) d a b ty rm m FVal.mul s

/-- VFMA: a · b + c, one rounding. -/
def execVfma (h : Hdr) (d a b c : BitVec 8) (ty rm : BitVec 3) (s : State) : Host.Outcome State Fault Refusal :=
  vfp3 h d a b c ty rm (fun x y z => (x.mul y).add (isDown rm) z) s

/-- VFMS: a · b − c. -/
def execVfms (h : Hdr) (d a b c : BitVec 8) (ty rm : BitVec 3) (s : State) : Host.Outcome State Fault Refusal :=
  vfp3 h d a b c ty rm (fun x y z => (x.mul y).add (isDown rm) z.negate) s

/-- VFNMA: c − a · b. -/
def execVfnma (h : Hdr) (d a b c : BitVec 8) (ty rm : BitVec 3) (s : State) : Host.Outcome State Fault Refusal :=
  vfp3 h d a b c ty rm (fun x y z => ((x.mul y).negate).add (isDown rm) z) s

/-- VFDIV. -/
def execVfdiv (h : Hdr) (d a b : BitVec 8) (ty rm : BitVec 3) (m : BitVec 12) (s : State) :
    Host.Outcome State Fault Refusal :=
  vfp2 h (fpLat ty 20 36) (fpLat ty 4 8) d a b ty rm m FVal.div s

/-- VFSQRT. -/
def execVfsqrt (h : Hdr) (d a : BitVec 8) (ty rm : BitVec 3) (m : BitVec 12) (s : State) :
    Host.Outcome State Fault Refusal :=
  vfp1 h (fpLat ty 20 36) (fpLat ty 4 8) d a ty rm m FVal.sqrt s

/-! ## The function instructions (R243) -/

/-- A reciprocal square root that rounds as the exact one. -/
def FVal.rsqrt (x : FVal) : FVal :=
  match x with
  | .nan => .nan
  | .inf n => if n then .nan else .fin false 0 0
  | .fin n m e =>
    if m = 0 then .inf n
    else if n then .nan
    else
      let odd := (e % 2 = 1)
      let m1 := if odd then 2 * m else m
      let e1 := if odd then e - 1 else e
      let sh := m1.log2 + 80
      let r := Nat.sqrt (2 ^ (2 * sh) / m1)
      .fin false (2 * r + (if r * r * m1 = 2 ^ (2 * sh) then 0 else 1)) (-(e1 / 2) - sh - 1)

/-- Bits of the fixed-point values with which powers and logarithms are computed (log entry 13). -/
def fixBits : Nat := 256

/-- The product of 2^(2^−i) over the set bits of a fraction of `n` bits, the highest bit first: `c` is the current root and
`acc` the product so far, in fixed point. -/
def pow2Frac : Nat → Nat → Nat → Nat → Nat
  | 0, _, _, acc => acc
  | n + 1, j, c, acc =>
    let r := Nat.sqrt (c * 2 ^ fixBits)
    pow2Frac n j r (if j.testBit n then acc * r / 2 ^ fixBits else acc)

/-- 2^a, as a value that rounds as the exact one for FP32 operands (R243). -/
def FVal.exp2 (x : FVal) : FVal :=
  match x with
  | .nan => .nan
  | .inf n => if n then .fin false 0 0 else .inf false
  | .fin n m e =>
    if m = 0 then .fin false 1 0
    else if 8 < e + m.log2 then (if n then .fin false 1 (-400) else .fin false 1 400)
    else if e + m.log2 < -40 then .fin false (if n then 2 ^ 64 - 1 else 2 ^ 64 + 1) (-64)
    else
      -- a = t / 2^64, exactly
      let t : Int := (if n then -1 else 1) * ((m : Int) * 2 ^ (e + 64).toNat)
      let j := (t % 2 ^ 64).toNat
      if j = 0 then .fin false 1 (t / 2 ^ 64)
      else .fin false (2 * pow2Frac 64 j (2 * 2 ^ fixBits) (2 ^ fixBits) + 1) (t / 2 ^ 64 - fixBits - 1)

/-- The first `n` fraction bits of log2 of a fixed-point number between 1 and 2. -/
def log2Frac : Nat → Nat → Nat → Nat
  | 0, _, acc => acc
  | n + 1, y, acc =>
    let z := y * y / 2 ^ (2 * fixBits)
    if 2 ^ (2 * fixBits + 1) ≤ z then log2Frac n (z / 2) (2 * acc + 1) else log2Frac n z (2 * acc)

/-- log2 a, as a value that rounds as the exact one for FP32 operands (R243). -/
def FVal.log2 (x : FVal) : FVal :=
  match x with
  | .nan => .nan
  | .inf n => if n then .nan else .inf false
  | .fin n m e =>
    if m = 0 then .inf true
    else if n then .nan
    else
      let k := m.log2
      let ex := e + k
      if m = 2 ^ k then (if ex = 0 then .fin false 0 0 else intVal ex)
      else
        let fr := log2Frac 160 (m * 2 ^ (2 * fixBits) / 2 ^ k) 0
        let v : Int := 2 * (ex * 2 ^ 160 + fr) + 1
        .fin (decide (v < 0)) v.natAbs (-161)

/-- VFREC. -/
def execVfrec (h : Hdr) (d a : BitVec 8) (rm : BitVec 3) (m : BitVec 12) (s : State) :
    Host.Outcome State Fault Refusal :=
  vfp1 h 12 2 d a 0 rm m (fun x => FVal.div (.fin false 1 0) x) s

/-- VFRSQ. -/
def execVfrsq (h : Hdr) (d a : BitVec 8) (rm : BitVec 3) (m : BitVec 12) (s : State) :
    Host.Outcome State Fault Refusal :=
  vfp1 h 12 2 d a 0 rm m FVal.rsqrt s

/-- VFEXP2. -/
def execVfexp2 (h : Hdr) (d a : BitVec 8) (rm : BitVec 3) (m : BitVec 12) (s : State) :
    Host.Outcome State Fault Refusal :=
  vfp1 h 12 2 d a 0 rm m FVal.exp2 s

/-- VFLOG2. -/
def execVflog2 (h : Hdr) (d a : BitVec 8) (rm : BitVec 3) (m : BitVec 12) (s : State) :
    Host.Outcome State Fault Refusal :=
  vfp1 h 12 2 d a 0 rm m FVal.log2 s

/-! ## Selection, comparison, classes, conversions -/

/-- VFMIN (R234). -/
def execVfmin (h : Hdr) (d a b : BitVec 8) (ty : BitVec 3) (m : BitVec 12) (s : State) :
    Host.Outcome State Fault Refusal :=
  let f := fmtOf ty.toNat
  vec2 h 2 (fpLat ty 1 2) f.width d a b m (fpMinMax f false) s

/-- VFMAX (R234). -/
def execVfmax (h : Hdr) (d a b : BitVec 8) (ty : BitVec 3) (m : BitVec 12) (s : State) :
    Host.Outcome State Fault Refusal :=
  let f := fmtOf ty.toNat
  vec2 h 2 (fpLat ty 1 2) f.width d a b m (fpMinMax f true) s

/-- VFCMP. -/
def execVfcmp (h : Hdr) (q : BitVec 3) (a b : BitVec 8) (ty : BitVec 3) (cc : BitVec 4) (m : BitVec 12) (s : State) :
    Host.Outcome State Fault Refusal :=
  let f := fmtOf ty.toNat
  vecCmp h f.width q a b m (fun x y => fpCmp cc.toNat (fpVal f x) (fpVal f y)) s

/-- VFCLASS. -/
def execVfclass (h : Hdr) (d a : BitVec 8) (ty : BitVec 3) (m : BitVec 12) (s : State) :
    Host.Outcome State Fault Refusal :=
  let f := fmtOf ty.toNat
  vec1 h 2 1 f.width d a m (fpClass f) s

/-- One lane of VFCVT (R244). -/
def vfcvtLane (f : Fmt) (fl rm x : Nat) : Nat :=
  match fl with
  | 0 => fpToInt f.width false rm (fpVal f x)
  | 1 => fpToInt f.width true rm (fpVal f x)
  | 2 => roundTo f rm (intVal (sint f.width x))
  | _ => roundTo f rm (intVal x)

/-- VFCVT (R244). -/
def execVfcvt (h : Hdr) (d a : BitVec 8) (ty rm : BitVec 3) (fl : BitVec 2) (m : BitVec 12) (s : State) :
    Host.Outcome State Fault Refusal :=
  let f := fmtOf ty.toNat
  vec1 h 4 (fpLat ty 1 2) f.width d a m (vfcvtLane f fl.toNat rm.toNat) s

/-! ## Narrowing and widening (R245) -/

/-- VFNARROW: FP32 or FP64 lanes into part k of the destination row. -/
def execVfnarrow (h : Hdr) (d a b c : BitVec 8) (ty rm : BitVec 3) (u : BitVec 1) (s : State) :
    Host.Outcome State Fault Refusal :=
  let src := if u = 1 then fp64 else fp32
  runWord h { narrowSpec d a b c rm with pre := if isCode ty then tableWait else noTrap } (fun p k s => s.narrow p k h src ty rm d (s.rV p k 1 a) (s.rS p k 2 b) (s.rS p k 3 c)) s

/-- The source format of VFWIDEN: 00 FP32, 10 FP16, 11 BF16 (R245). -/
def widenSource (fl : BitVec 2) : Fmt :=
  match fl.toNat with
  | 0 => fp32
  | 2 => fp16
  | _ => bf16

/-- Element k · n + i of a widening source row at width `w`, with k taken modulo r (R245). -/
def widenElem (r : Row) (w n i : Nat) (b : Word) : Nat :=
  let parts := 512 / w / n
  fieldNat r (w * (b.toNat % parts * n + i)) w

/-- VFWIDEN: exact. -/
def execVfwiden (h : Hdr) (d a b : BitVec 8) (ty : BitVec 3) (fl : BitVec 2) (m : BitVec 12) (s : State) :
    Host.Outcome State Fault Refusal :=
  let f := fmtOf ty.toNat
  let src := widenSource fl
  let n := 512 / f.width
  runWord h (specV [dV d, aV a, bS b] 4) (fun p k s =>
    let r := modified m 0 (s.rV p k 1 a)
    let bv := s.rS p k 2 b
    .done (s.putLanes p k 4 f.width h d
      ((List.range n).map fun i => roundTo f 0 (fpVal src (widenElem r src.width n i bv))))) s

/-! ## In-row reductions (R246, R247) -/

/-- One level of the pairwise tree. -/
def pairUp (op : Nat → Nat → Nat) : List Nat → List Nat
  | x :: y :: r => op x y :: pairUp op r
  | l => l

/-- `n` levels of the pairwise tree. -/
def treeReduce (op : Nat → Nat → Nat) : Nat → List Nat → List Nat
  | 0, l => l
  | n + 1, l => treeReduce op n (pairUp op l)

/-- The operation of VFRED on encodings. -/
def redOp (f : Fmt) (fl rm : Nat) (x y : Nat) : Nat :=
  match fl with
  | 0 => roundTo f rm ((fpVal f x).add (rm = 3) (fpVal f y))
  | 1 => fpMinMax f false x y
  | _ => fpMinMax f true x y

/-- A scalar written by a class V word where bit 0 of EQ is 1 (R237). -/
def State.putScalar (s : State) (p k lat : Nat) (h : Hdr) (d : BitVec 8) (v : Word) : State :=
  if (s.eqOf p k h).getLsbD 0 then s.wS p k lat d v else s

/-- VFRED (R246). -/
def execVfred (h : Hdr) (d a : BitVec 8) (ty rm : BitVec 3) (fl : BitVec 2) (m : BitVec 12) (s : State) :
    Host.Outcome State Fault Refusal :=
  let f := fmtOf ty.toNat
  runWord h { specV [dS d, aV a] (fpLat ty 12 16) with occ := fpLat ty 2 4 } (fun p k s =>
    let x := treeReduce (redOp f fl.toNat rm.toNat) (if ty = 4 then 3 else 4)
      (lanesOf f.width (modified m 0 (s.rV p k 1 a)))
    .done (s.putScalar p k (fpLat ty 12 16) h d (BitVec.ofNat 64 (x.headD 0)))) s

/-- The largest magnitude of a list of encodings as an FP32 encoding; NaN wins (R247). -/
def absMax (f : Fmt) (l : List Nat) : Nat :=
  if l.any fun x => (fpVal f x).isNan then fp32.nanBits
  else roundTo fp32 0 (fpVal f (l.foldl (fun m x => max m (x % 2 ^ (f.eb + f.fb))) 0))

/-- VFAMAX (R247). -/
def execVfamax (h : Hdr) (d a : BitVec 8) (ty : BitVec 3) (m : BitVec 12) (s : State) :
    Host.Outcome State Fault Refusal :=
  let f := fmtOf ty.toNat
  let two := decide (ty = 0)
  runWord h { specV ([dS d, aV a] ++ (if two then [aVnext a] else [])) 4 with occ := if two then 2 else 1 } (fun p k s =>
    let l := lanesOf f.width (modified m 0 (s.rV p k 1 a)) ++
      (if two then lanesOf f.width (modified m 0 (s.rVnext p k 1 a)) else [])
    .done (s.putScalar p k 4 h d (BitVec.ofNat 64 (absMax f l)))) s

end Sys2Proof.Machine
end

