-- ==== Sys2Proof/Machine/Lanes.lean ====
section
/-! DEFINITION. Lane movement, predicate and gang instructions (R248 to R254): one meaning for each. -/

namespace Sys2Proof.Machine

/-! ## Lanes (R248) -/

/-- A row made of lanes of A chosen by index. -/
def laneMove (h : Hdr) (lat : Nat) (d a b : BitVec 8) (ty : BitVec 3) (m : BitVec 12)
    (pick : Nat → Nat → Nat → Nat) (s : State) : Host.Outcome State Fault Refusal :=
  let w := intW ty
  let n := 512 / w
  runWord h (specV [dV d, aV a, bS b] lat) (fun p k s =>
    let r := modified m 0 (s.rV p k 1 a)
    let x := (s.rS p k 2 b).toNat
    .done (s.putLanes p k lat w h d ((List.range n).map fun i => fieldNat r (w * pick n x i) w))) s

/-- VPERM: a modifier on B rearranges the indices before they are used. -/
def execVperm (h : Hdr) (d a b : BitVec 8) (ty : BitVec 3) (m : BitVec 12) (s : State) :
    Host.Outcome State Fault Refusal :=
  let w := intW ty
  let n := 512 / w
  runWord h (specV [dV d, aV a, bV b] 3) (fun p k s =>
    let r := modified m 0 (s.rV p k 1 a)
    .done (s.putLanes p k 3 w h d
      ((lanesOf w (modified m 1 (s.rV p k 2 b))).map fun i => fieldNat r (w * (i % n)) w))) s

/-- VROT. -/
def execVrot (h : Hdr) (d a b : BitVec 8) (ty : BitVec 3) (m : BitVec 12) (s : State) :
    Host.Outcome State Fault Refusal :=
  laneMove h 2 d a b ty m (fun n x i => (i + x) % n) s

/-- VBFLY. -/
def execVbfly (h : Hdr) (d a b : BitVec 8) (ty : BitVec 3) (m : BitVec 12) (s : State) :
    Host.Outcome State Fault Refusal :=
  laneMove h 2 d a b ty m (fun n x i => i ^^^ (x % n)) s

/-- VBCST. -/
def execVbcst (h : Hdr) (d a b : BitVec 8) (ty : BitVec 3) (m : BitVec 12) (s : State) :
    Host.Outcome State Fault Refusal :=
  laneMove h 2 d a b ty m (fun n x _ => x % n) s

/-- The lanes of width `w` that a predicate selects, rising (R63). -/
def selected (w : Nat) (q : BitVec 16) : List Nat := (List.range (512 / w)).filter (laneOn w q)

/-- VCOMP: the selected lanes go to the front, zeros follow. -/
def execVcomp (h : Hdr) (d a : BitVec 8) (qb ty : BitVec 3) (m : BitVec 12) (s : State) :
    Host.Outcome State Fault Refusal :=
  let w := intW ty
  runWord h { specV [dV d, aV a] 3 with usesHeader := decide (qb ≠ 0) } (fun p k s =>
    let r := modified m 0 (s.rV p k 1 a)
    .done (s.putLanes p k 3 w h d ((selected w (s.pred p k qb.toNat)).map fun i => fieldNat r (w * i) w))) s

/-- VXPND: the selected lanes receive lanes 0, 1, … of A, the others zero. -/
def execVxpnd (h : Hdr) (d a : BitVec 8) (qb ty : BitVec 3) (m : BitVec 12) (s : State) :
    Host.Outcome State Fault Refusal :=
  let w := intW ty
  runWord h { specV [dV d, aV a] 3 with usesHeader := decide (qb ≠ 0) } (fun p k s =>
    let r := modified m 0 (s.rV p k 1 a)
    let sel := selected w (s.pred p k qb.toNat)
    .done (s.putLanes p k 3 w h d ((List.range (512 / w)).map fun i =>
      if sel.contains i then fieldNat r (w * (sel.filter (· < i)).length) w else 0))) s

/-- VSPLAT. -/
def execVsplat (h : Hdr) (d a : BitVec 8) (ty : BitVec 3) (s : State) : Host.Outcome State Fault Refusal :=
  let w := intW ty
  runWord h (specV [dV d, aS a] 2) (fun p k s =>
    .done (s.putLanes p k 2 w h d (List.replicate (512 / w) (s.rS p k 1 a).toNat))) s

/-- VEXT. -/
def execVext (h : Hdr) (d a b : BitVec 8) (ty : BitVec 3) (u : BitVec 1) (m : BitVec 12) (s : State) :
    Host.Outcome State Fault Refusal :=
  let w := intW ty
  runWord h (specV [dS d, aV a, bS b] 2) (fun p k s =>
    let x := fieldNat (modified m 0 (s.rV p k 1 a)) (w * ((s.rS p k 2 b).toNat % (512 / w))) w
    .done (s.putScalar p k 2 h d (if u = 1 then BitVec.ofInt 64 (sint w x) else BitVec.ofNat 64 x))) s

/-- VINS reads D too and writes one lane of it. -/
def execVins (h : Hdr) (d a b : BitVec 8) (ty : BitVec 3) (s : State) : Host.Outcome State Fault Refusal :=
  let w := intW ty
  runWord h (specV [dVboth d, aS a, bS b] 2) (fun p k s =>
    let i := (s.rS p k 2 b).toNat % (512 / w)
    .done (s.wV p k 2 d (maskFor w (s.eqOf p k h) &&& rowMask (w * i) w)
      (rowOfLanes w (List.replicate (512 / w) (s.rS p k 1 a).toNat)))) s

/-! ## Predicates (R249) -/

/-- A predicate word writes the bits that EQ enables (R237). -/
def State.putQ (s : State) (p k : Nat) (h : Hdr) (q : BitVec 3) (v : BitVec 16) : State :=
  s.wQmask p k 1 q (s.eqOf p k h) v

/-- A word without register operands that writes a predicate. -/
def specQ (q : BitVec 3) : WordSpec := { specV [] 1 with usesHeader := true, hw := qWords q }

/-- Q[D] := f Q[A] Q[B]. -/
def predOp (h : Hdr) (q qa qb : BitVec 3) (f : BitVec 16 → BitVec 16 → BitVec 16) (s : State) :
    Host.Outcome State Fault Refusal :=
  runWord h (specQ q) (fun p k s => .done (s.putQ p k h q (f (s.pred p k qa.toNat) (s.pred p k qb.toNat)))) s

/-- QAND. -/
def execQand (h : Hdr) (q qa qb : BitVec 3) (s : State) : Host.Outcome State Fault Refusal :=
  predOp h q qa qb (fun x y => x &&& y) s

/-- QOR. -/
def execQor (h : Hdr) (q qa qb : BitVec 3) (s : State) : Host.Outcome State Fault Refusal :=
  predOp h q qa qb (fun x y => x ||| y) s

/-- QXOR. -/
def execQxor (h : Hdr) (q qa qb : BitVec 3) (s : State) : Host.Outcome State Fault Refusal :=
  predOp h q qa qb (fun x y => x ^^^ y) s

/-- QNOT. -/
def execQnot (h : Hdr) (q qa : BitVec 3) (s : State) : Host.Outcome State Fault Refusal :=
  predOp h q qa qa (fun x _ => ~~~x) s

/-- S[D] := f Q[A]. -/
def predRead (h : Hdr) (d : BitVec 8) (qa : BitVec 3) (f : BitVec 16 → Nat) (s : State) :
    Host.Outcome State Fault Refusal :=
  runWord h { specV [dS d] 1 with usesHeader := decide (qa ≠ 0) } (fun p k s =>
    .done (s.putScalar p k 1 h d (BitVec.ofNat 64 (f (s.pred p k qa.toNat))))) s

/-- QPOP. -/
def execQpop (h : Hdr) (d : BitVec 8) (qa : BitVec 3) (s : State) : Host.Outcome State Fault Refusal :=
  predRead h d qa (fun x => popc 16 x.toNat) s

/-- QFIRST. -/
def execQfirst (h : Hdr) (d : BitVec 8) (qa : BitVec 3) (s : State) : Host.Outcome State Fault Refusal :=
  predRead h d qa (fun x => ctz 16 x.toNat) s

/-- QMOV to a predicate. -/
def execQmov (h : Hdr) (q : BitVec 3) (a : BitVec 8) (s : State) : Host.Outcome State Fault Refusal :=
  runWord h { specV [aS a] 1 with hw := qWords q } (fun p k s =>
    .done (s.putQ p k h q ((s.rS p k 1 a).extractLsb' 0 16))) s

/-- QMOV.X to a scalar. -/
def execQmovX (h : Hdr) (d : BitVec 8) (qa : BitVec 3) (s : State) : Host.Outcome State Fault Refusal :=
  predRead h d qa (fun x => x.toNat) s

/-! ## Values across a gang (R250): every member's source is read before any member writes -/

/-- The predicates of all members. -/
def State.gangPreds (s : State) (k : Nat) (qa : BitVec 3) : List (BitVec 16) :=
  (s.members s.focus.pcid).map fun m => s.pred m k qa.toNat

/-- GANY. -/
def execGany (h : Hdr) (q qa : BitVec 3) (u : BitVec 1) (s : State) : Host.Outcome State Fault Refusal :=
  let qs := s.gangPreds s.focus.strand qa
  let v : BitVec 16 := if u = 1 then qs.foldl (fun x y => x ||| y) 0 else if qs.any (· != 0) then 0xFFFF else 0
  runWord h (specQ q) (fun p k x => .done (x.putQ p k h q v)) s

/-- GALL. -/
def execGall (h : Hdr) (q qa : BitVec 3) (u : BitVec 1) (s : State) : Host.Outcome State Fault Refusal :=
  let qs := s.gangPreds s.focus.strand qa
  let v : BitVec 16 := if u = 1 then qs.foldl (fun x y => x &&& y) 0xFFFF else if qs.all (· != 0) then 0xFFFF else 0
  runWord h (specQ q) (fun p k x => .done (x.putQ p k h q v)) s

/-- The leader of a core's gang; the core itself when it is not fused. -/
def State.leader (s : State) (p : Nat) : Nat :=
  match (s.core p).gang with
  | some (_, l) => l
  | none => p

/-- GBCAST: the leader's scalar. -/
def execGbcast (h : Hdr) (d a : BitVec 8) (s : State) : Host.Outcome State Fault Refusal :=
  let v := s.rS (s.leader s.focus.pcid) s.focus.strand 1 a
  runWord h (specV [dS d, aS a] 2) (fun p k x => .done (x.putScalar p k 2 h d v)) s

/-- GLANE: member index and gang size. -/
def execGlane (h : Hdr) (d : BitVec 8) (s : State) : Host.Outcome State Fault Refusal :=
  runWord h (specV [dS d] 1) (fun p k s =>
    let (g, l) := (s.core p).gang.getD (1, p)
    .done (s.putScalar p k 1 h d (BitVec.ofNat 64 (p - l + 256 * g)))) s

/-! ## FUSE and SPLIT (R251 to R253) -/

/-- Strand state trap of FUSE and SPLIT: a helper, or an open repetition buffer. -/
def fuseTrap : Nat → Nat → State → Verdict := fun p k s => trapWhen (decide (k ≠ 0) || s.ract p k) (s.wordTrap 3)

/-- The cores of the aligned group that a core names with g (R27). -/
def fuseGroup (p g : Nat) : List Nat := (List.range g).map fun i => p / g * g + i

/-- The FUSEs of a cluster whose windows are open: core and request. -/
def State.fuses (s : State) (clu : Nat) : List (Nat × FuseReq) :=
  (List.range 8).filterMap fun i => (s.strand (8 * clu + i) 0).fuse.map fun r => (8 * clu + i, r)

/-- The window to which a FUSE of a core belongs: its opener, its g and the opener's cycle when it opened (R252). -/
def State.fuseWin (s : State) (p g : Nat) : Nat × Nat × Nat :=
  match (s.fuses (cluOf p)).find? fun r => (fuseGroup r.2.opener r.2.group).contains p with
  | some r => (r.2.opener, r.2.group, r.2.opened)
  | none => (p, g, (s.core p).cycle)

/-- The window is past cycle c0 + 255, and closes without the FUSEs that come later (R252). -/
def State.fuseLate (s : State) (opener opened : Nat) : Bool := decide (opened + 255 < (s.core opener).cycle)

/-- The requests in the window that a core opened. -/
def State.fuseWindow (s : State) (opener : Nat) : List (Nat × FuseReq) :=
  (s.fuses (cluOf opener)).filter fun r => r.2.opener = opener

/-- The instance of a core that can take part in a gang: placed, sound and not migrating (R252). -/
def State.fuseInst (s : State) (p : Nat) : Option Nat :=
  match (s.core p).place with
  | none => none
  | some pl =>
    if (s.core p).health.qc ∨ (s.core p).health.qr ∨ (s.remapOf p pl.log).state ≠ 0 then none else some pl.inst

/-- The first status that the check of a complete window yields (R252). -/
def State.fuseCheck (s : State) (ms : List Nat) (rs : List (Nat × FuseReq)) (g : Nat) : Nat :=
  let i0 := s.fuseInst (ms.headD 0)
  if i0 = none ∨ ms.any (fun p => s.fuseInst p ≠ i0) then 5
  else if ms.any fun p => (s.core p).gang.isSome then 3
  else if ms.any fun p => !(s.core p).helpers.isEmpty then 2
  else if rs.any fun r => r.2.g ≠ g then 4
  else 0

/-- The FUSE of a core ends with a word for its D, and its strand goes on at an address. -/
def State.endFuse (s : State) (p : Nat) (r : FuseReq) (v : Word) (pc : Word) : State :=
  ((s.modStrand p 0 fun t => { t with fuse := none }).writeDestAs r.id p 1 r.dest v).goto p 0 pc

/-- The window of an opener closes with a status (R252). -/
def State.closeFuse (s : State) (opener group status : Nat) : State :=
  let l := opener / group * group
  let pc := (s.strand l 0).pc + 8
  (s.fuseWindow opener).foldl (fun x r =>
    if status = 0 then
      (x.endFuse r.1 r.2 (BitVec.ofNat 64 ((r.1 - l) * 2 ^ 8 + group * 2 ^ 16)) pc).modCore r.1
        fun c => { c with gang := some (group, l) }
    else x.endFuse r.1 r.2 (BitVec.ofNat 64 status) ((x.strand r.1 0).pc + 8)) s

/-- FUSE joins or opens its group's window, in which its strand stalls; the last core's issue closes it; one that comes after cycle c0 + 255
waits for the window to close, and then opens a new one (R252). -/
def execFuse (h : Hdr) (d : BitVec 8) (gs : BitVec 4) (s : State) : Host.Outcome State Fault Refusal :=
  runWord h { specX [dS d] 1 with usesHeader := true, pre := fuseTrap } (fun p k s =>
    let g := gs.toNat
    let (opener, group, opened) := s.fuseWin p g
    let req : FuseReq := { opener := opener, group := group, opened := opened, dest := s.destOf p k 0 d, g := g, id := s.curId p }
    let s1 := s.modStrand p 0 fun t => { t with fuse := some req }
    let rs := s1.fuseWindow opener
    let ms := fuseGroup opener group
    if s.fuseLate opener opened then .hold
    else if ms.all fun q => rs.any fun r => r.1 = q then .jump (s1.closeFuse opener group (s1.fuseCheck ms rs group))
    else .jump s1) s

/-- FUSE_WINDOW_TIMEOUT: at cycle c0 + 255 the window of the group of the core at a position closes with status 1 (R252). -/
def execFuseWindowTimeout (clu pos : Nat) (s : State) : Host.Outcome State Fault Refusal :=
  match (s.strand (8 * clu + pos) 0).fuse with
  | some r => if (s.core r.opener).cycle < r.opened + 255 then .fault .notEnabled else .next (s.closeFuse r.opener r.group 1)
  | none => .fault .notEnabled

/-- SPLIT: each member goes on at its own slot (R253). -/
def execSplit (h : Hdr) (t : BitVec 2) (s : State) : Host.Outcome State Fault Refusal :=
  runWord h { specX [] 2 with pre := fuseTrap, usesHeader := true } (fun p k s =>
    let pc := (s.strand p k).pc
    let a := (pc &&& 0xFFFFFFFF00000000) ||| ((s.target p k t.toNat).zeroExtend 64 &&& 0xFFFFFFF8)
    .jump ((s.goto p k a).modCore p fun c => { c with gang := none })) s

/-- LCID (R254). -/
def State.coreId (s : State) (p sel : Nat) : Nat :=
  match (s.core p).place, s.instOf p with
  | some pl, some (_, i) =>
    (match sel with
    | 0 => pl.rel
    | 1 => i.base
    | 2 => i.p
    | _ => i.base + pl.rel)
  | _, _ => 0

/-- LCID (R254). -/
def execLcid (h : Hdr) (d : BitVec 8) (sel : BitVec 2) (s : State) : Host.Outcome State Fault Refusal :=
  runWord h (specX [dS d] 1) (fun p k s => .done (s.wS p k 1 d (BitVec.ofNat 64 (s.coreId p sel.toNat)))) s

end Sys2Proof.Machine
end

