-- ==== Sys2Proof/Machine/Formats.lean ====
section
/-! DEFINITION. Decode-table and quantisation instructions (R255 to R263) but DTLD and MXQ to memory. -/

namespace Sys2Proof.Machine

/-- DTRD reads 16 entries back (R257). -/
def execDtrd (h : Hdr) (d a : BitVec 8) (s : State) : Host.Outcome State Fault Refusal :=
  runWord h { specV [dV d, aS a] 2 with pre := tableWait } (fun p k s =>
    let q := (s.rS p k 1 a).toNat % 16
    .done (s.putLanes p k 2 32 h d
      ((List.range 16).map fun i => ((s.core p).table.getD (16 * q + i) 0).toNat))) s

/-- DTDEC decodes codes (R258). -/
def execDtdec (h : Hdr) (d a b : BitVec 8) (ty rm : BitVec 3) (u : BitVec 1) (m : BitVec 12) (s : State) :
    Host.Outcome State Fault Refusal :=
  let f := fmtOf ty.toNat
  let w := if u = 1 then 4 else 8
  let n := 512 / f.width
  runWord h { specV [dV d, aV a, bS b] 4 with pre := tableWait } (fun p k s =>
    let r := modified m 0 (s.rV p k 1 a)
    let bv := s.rS p k 2 b
    .done (s.putLanes p k 4 f.width h d ((List.range n).map fun i =>
      roundTo f rm.toNat (tableVal (s.core p).table (widenElem r w n i bv))))) s

/-- DTENC encodes FP16 or BF16 lanes (R245). -/
def execDtenc (h : Hdr) (d a b c : BitVec 8) (ty rm : BitVec 3) (fl : BitVec 2) (s : State) :
    Host.Outcome State Fault Refusal :=
  let src := if fl = 2 then fp16 else bf16
  runWord h { narrowSpec d a b c rm with pre := tableWait } (fun p k s =>
    s.narrow p k h src ty rm d (s.rV p k 1 a) (s.rS p k 2 b) (s.rS p k 3 c)) s

/-- The 32 FP32 elements of the rows A and A + 1, each divided by the scale (R259). -/
def mxElems (a a1 : Row) (e : Nat) : List FVal :=
  (lanesOf 32 a ++ lanesOf 32 a1).map fun x => if e = 255 then .nan else (fpVal fp32 x).scale (127 - (e : Int))

/-- MXQ into a block part of row D (R259). -/
def execMxq (h : Hdr) (d a b c : BitVec 8) (ty rm : BitVec 3) (s : State) : Host.Outcome State Fault Refusal :=
  runWord h { specV [dV d, aV a, aVnext a, bS b, { cS c with src := decide (rm = 5) }] 6 with pre := tableWait } (fun p k s =>
    match (s.core p).tableFault ty with
    | some t => .trap t
    | none =>
      let bv := s.rS p k 2 b
      let part := fieldNat bv 8 2 % (if ty = 3 then 2 else 4)
      .done (s.narrowInto p k 6 h ty rm d (mxElems (s.rV p k 1 a) (s.rVnext p k 1 a) (fieldNat bv 0 8)) (32 * part)
        (s.rS p k 3 c))) s

/-- MXDQ dequantises a block (R261). -/
def execMxdq (h : Hdr) (d a b : BitVec 8) (ty rm : BitVec 3) (u : BitVec 1) (m : BitVec 12) (s : State) :
    Host.Outcome State Fault Refusal :=
  let f := fmtOf ty.toNat
  let w := if u = 1 then 4 else 8
  let n := 512 / f.width
  runWord h { specV [dV d, aV a, bS b] 4 with pre := tableWait } (fun p k s =>
    let r := modified m 0 (s.rV p k 1 a)
    let bv := s.rS p k 2 b
    let e := fieldNat bv 0 8
    let part := fieldNat bv 8 2 % (if u = 1 then 4 else 2)
    let first := if ty = 0 then 16 * fieldNat bv 10 1 else 0
    .done (s.putLanes p k 4 f.width h d ((List.range n).map fun i =>
      let x := tableVal (s.core p).table (fieldNat r (w * (32 * part + first + i)) w)
      roundTo f rm.toNat (if e = 255 then .nan else x.scale ((e : Int) - 127))))) s

/-- CORE_UFCNT (R161). -/
def Core.ufcnt (c : Core) : Word := BitVec.ofNat 64 (c.uf0 + c.uf1 * 2 ^ 16 + c.uf2 * 2 ^ 32 + c.uf3 * 2 ^ 48)

/-- UFCNT reads and clears CORE_UFCNT, once every narrowing word before it has completed (R262). -/
def execUfcnt (h : Hdr) (d : BitVec 8) (s : State) : Host.Outcome State Fault Refusal :=
  runWord h { specV [dS d] 1 with pre := holdIf (fun p s => (s.core p).narrowing.any ((s.core p).cycle < ·)) noTrap } (fun p k s =>
    if (s.eqOf p k h).getLsbD 0 then
      .done ((s.wS p k 1 d (s.core p).ufcnt).modCore p fun c => { c with uf0 := 0, uf1 := 0, uf2 := 0, uf3 := 0 })
    else .done s) s

/-- M of SCSEL: the largest finite positive entry of the target half (R162). -/
def largestEntry (t : List (BitVec 19)) (t4 : Bool) : FVal :=
  let l := halfOf t 0 (if t4 then 8 else 128)
  fpVal e8m10 (l.getD (halfFinite l) 0).toNat

/-- SCSEL (R263). A half whose only finite entry is zero has no M: no rule gives the scale then, and it is a free value. -/
def execScsel (h : Hdr) (d a b c : BitVec 8) (ty : BitVec 3) (s : State) : Host.Outcome State Fault Refusal :=
  runWord h { specV [dS d, aS a, bS b, cS c] 2 with pre := tableWait } (fun p k s =>
    match (s.core p).tableFault ty with
    | some t => .trap t
    | none =>
      let amax := (fpVal fp32 (fieldNat (s.rS p k 1 a) 0 32)).abs
      let m := largestEntry (s.core p).table (ty == 5)
      if m.isZero && !amax.isZero && !amax.isNan && !amax.isInf then
        .done (s.drawn.putScalar p k 2 h d (s.freeWord &&& 0xFF))
      else
        .done (s.putScalar p k 2 h d
          (BitVec.ofNat 64 (scaleSelect amax m (s.rS p k 2 b).toNat (s.rS p k 3 c).toNat)))) s

end Sys2Proof.Machine
end

