-- ==== Sys2Proof/Machine/Windows.lean ====
section
/-! DEFINITION. Window, delegation, envelope and snag-ring instructions (R215 to R224): one meaning for each. -/

namespace Sys2Proof.Machine

/-! ## Windows -/

/-- The window does not lie in the strand's envelope (R56). -/
def Strand.outside (t : Strand) (nb nl : Nat) : Bool := decide (nb < t.eb) || decide (t.eb + t.el < nb + nl)

/-- Install a window: an open body that it resumes is fetched again (R76). -/
def State.setWindow (s : State) (p k nb nl : Nat) : State := s.modStrand p k fun t => { t with wb := nb, wl := nl, body := [] }

/-- WIN installs the window of a descriptor (R216). -/
def execWin (h : Hdr) (a : BitVec 8) (s : State) : Host.Outcome State Fault Refusal :=
  runWord h { specX [aS a] 1 with pre := trapIfOpen } (fun p k s =>
    let d := s.rS p k 1 a
    let t := s.strand p k
    let nb := fieldNat d 0 10
    let nl := if fieldNat d 16 9 = 0 then t.wl else fieldNat d 16 9
    if 256 < nl then .trap (envTrap 2 d)
    else if t.outside nb nl then .trap (envTrap 1 d)
    else .done (s.setWindow p k nb nl)) s

/-- INFO of a WINS refusal: the requested window in descriptor layout (R425). -/
def winsInfo (nb : Int) (nl : Nat) : Word :=
  BitVec.ofNat 64 ((BitVec.ofInt 10 nb).toNat + nl % 512 * 2 ^ 16 + (BitVec.ofInt 32 nb).toNat * 2 ^ 32)

/-- WINS moves the window by a signed distance (R216). -/
def execWins (h : Hdr) (delta : BitVec 11) (limit : BitVec 9) (s : State) : Host.Outcome State Fault Refusal :=
  runWord h { specX [] 1 with pre := trapIfOpen } (fun p k s =>
    let t := s.strand p k
    let nb : Int := t.wb + delta.toInt
    let nl := if limit = 0 then t.wl else limit.toNat
    if 256 < nl then .trap (envTrap 2 (winsInfo nb nl))
    else if nb < 0 ∨ t.outside nb.toNat nl then .trap (envTrap 1 (winsInfo nb nl))
    else .done (s.setWindow p k nb.toNat nl)) s

/-- The strand state trap of a WSWAP at the last body position (R76, R217) or in a fused gang (R202). -/
def trapAtEnd : Nat → Nat → State → Verdict :=
  fun p k s =>
    if s.inBody p k && decide (fieldNat (s.hword p k 6) 53 4 = 15) then .trap (s.wordTrap 3) else noGang p k s

/-- WSWAP saves the continuation in the outgoing header and resumes the incoming window (R217). -/
def execWswap (h : Hdr) (a : BitVec 8) (s : State) : Host.Outcome State Fault Refusal :=
  runWord h { specX [aS a] 2 with noHeader := true, pre := trapAtEnd } (fun p k s =>
    let d := s.rS p k 1 a
    let t := s.strand p k
    let nb := fieldNat d 0 10
    let nl := fieldNat d 16 9
    if nl = 0 ∨ 256 < nl then .trap (envTrap 2 d)
    else if t.outside nb nl then .trap (envTrap 1 d)
    else if (s.core p).locked t.wb ∨ (s.core p).saturated t.wb ∨ (s.core p).busy nb then
      .hold
    else
      let s1 := s.writeDest p 1 ⟨t.wb, 0⟩ (t.pc + 8)
      let s2 := if s.inBody p k then s1.putHbits p k 6 53 4 (fieldNat (s.hword p k 6) 53 4 + 1) else s1
      let s3 := s2.setWindow p k nb nl
      .jump (s3.goto p k (BitVec.ofNat 64 (fieldNat (s3.hword p k 0) 3 54 * 8)))) s

/-- CORE_SWINn (R60). -/
def Strand.swin (t : Strand) : Word :=
  BitVec.ofNat 64 (t.wb % 1024 + t.wl % 512 * 2 ^ 16 + t.eb % 1024 * 2 ^ 32 + t.el % 2048 * 2 ^ 48)

/-- WRD (R218). -/
def execWrd (h : Hdr) (d : BitVec 8) (s : State) : Host.Outcome State Fault Refusal :=
  runWord h (specX [dS d] 1) (fun p k s => .done (s.wS p k 1 d (s.strand p k).swin)) s

/-- WDRAIN waits for rows without pending writes (R219). -/
def execWdrain (h : Hdr) (d b : BitVec 8) (wall : BitVec 1) (s : State) : Host.Outcome State Fault Refusal :=
  runWord h (specWait [dSrc d, bS b]) (fun p k s =>
    let r := s.rS p k 0 d
    let t := s.strand p k
    let f := fieldNat r 0 10
    let n := fieldNat r 16 11
    if n ≠ 0 ∧ (f < t.eb ∨ t.eb + t.el < f + n) then .trap (envTrap 1 r)
    else s.startWait p k (.wdrain f n) (s.rS p k 2 b) wall none h) s

/-! ## Delegation and envelopes -/

/-- The strand-state trap of a TDEL that gives bits which the delegation word does not have (R220). -/
def tdelTrap (a : BitVec 8) : Nat → Nat → State → Verdict :=
  readFirst (aS a) (fun p k s => trapWhen (decide (fieldNat (s.rS p k 1 a) 61 3 ≠ 0)) (s.wordTrap 3)) noTrap

/-- TDEL replaces the delegation word (R220). -/
def execTdel (h : Hdr) (d a : BitVec 8) (s : State) : Host.Outcome State Fault Refusal :=
  runWord h { specX [dS d, aS a] 1 with usesHeader := true, hw := [7], pre := tdelTrap a } (fun p k s =>
    let old := s.hword p k 7
    let new := s.rS p k 1 a
    if fieldNat new 61 3 ≠ 0 then .trap (s.wordTrap 3)
    else
      let v := setBits (setBits new 0 3 0) 60 1 (fieldNat old 60 1)
      .done ((s.putHmask p k 7 (~~~0 ^^^ bitMask 60 1) v).wS p k 1 d old)) s

/-- The strand state trap of a TRET where INH is 0 (R221). -/
def trapIfNone : Nat → Nat → State → Verdict :=
  fun p k s => trapWhen (decide (fieldNat (s.hword p k 7) 60 1 = 0)) (s.wordTrap 3)

/-- TRET returns from a delegated handler or from supervisor code (R221, R430). -/
def execTret (h : Hdr) (a : BitVec 8) (s : State) : Host.Outcome State Fault Refusal :=
  runWord h { specX [aS a] 2 with usesHeader := true, hw := [7], pre := trapIfNone } (fun p k s =>
    if k = 0 ∧ (s.core p).sup.sv then .jump (s.leaveSup p (s.rS p k 1 a))
    else .jump (s.leaveHandler p k (s.rS p k 1 a))) s

/-- The refusal code of ENV, in the order of R222, or 0. -/
def Core.envRefusal (c : Core) (n eb el : Nat) : Nat :=
  let t := c.strand n
  if 10 < n ∨ 1024 < eb + el ∨ (el = 0 ∧ t.live) then 6
  else if 1 ≤ n ∧ !t.live then 7
  else if c.envelopeMeets n eb el then 3
  else if t.wb < eb ∨ eb + el < t.wb + t.wl then 5
  else if (List.range t.el).any fun i =>
      let r := t.eb + i
      (decide (r < eb) || decide (eb + el ≤ r)) && (c.busy r || c.locked r) then 4
  else 0

/-- ENV gives a strand its envelope (R222). -/
def execEnv (h : Hdr) (a : BitVec 8) (s : State) : Host.Outcome State Fault Refusal :=
  runWord h { specX [aS a] 1 with pre := controlOnly } (fun p k s =>
    let d := s.rS p k 1 a
    let n := fieldNat d 60 4
    let code := (s.core p).envRefusal n (fieldNat d 32 10) (fieldNat d 48 11)
    if code ≠ 0 then .trap (envTrap code d)
    else .done (s.modStrand p n fun t => { t with eb := fieldNat d 32 10, el := fieldNat d 48 11 })) s

/-! ## The snag ring (R223, R224, R435, R436) -/

/-- Location of ring entry `i` of a core (R432). -/
def State.ringLoc (s : State) (p i : Nat) : Nat := tcmBase p + 4096 * (s.core p).sup.tcmBase + 32 * i

/-- Every entry of a run gets PEND = 0 (R435). -/
def State.clearRun (s : State) (p i n : Nat) : State :=
  (List.range n).foldl (fun x j =>
    let l := x.ringLoc p (i + j)
    (x.logUndo p l 8).store l (natBytes 8 (setBits (x.loadWord l) 63 1 0).toNat)) s

/-- Take a pending run off the core's list. -/
def State.dropSnag (s : State) (p i : Nat) : State :=
  s.modCore p fun c => { c with sup := { c.sup with snags := c.sup.snags.filter fun g => g.idx ≠ i } }

/-- The LDS of an operation ends with a status and the value loaded, when its strand still waits for it (R272). -/
def State.endLds (s : State) (p : Nat) (o : MemOp) (status : Nat) (v : Word) : State :=
  s.modStrand p o.strand fun t => match t.wait with
    | some w => (match w.kind with
      | .lds id none _ => if id = o.id then { t with wait := some { w with kind := .lds id (some status) v } } else t
      | _ => t)
    | none => t

/-- A command that waited on a ring entry goes on, or ends with STATUS 2 when the entry failed (R310, R311). -/
def Cmd.afterSnag (m : Cmd) (ok : Bool) : Cmd :=
  match m.phase with
  | .snagged _ => if ok then { m with phase := .queued, asked := none } else { m with phase := .finished, status := 2 }
  | .completing w _ => { m with phase := .completing (if ok then w else w + 2) 256 }
  | _ => m

/-- Tell the owner of an engine entry. -/
def State.wakeCmd (s : State) (p slot seq : Nat) (ok : Bool) : State :=
  s.modCore p fun c =>
    let x := look Chain.free slot c.chains
    { c with chains := put slot { x with cmds := x.cmds.map fun m => if m.seq = seq then m.afterSnag ok else m } c.chains }

/-- The pending run whose first entry has an index (R435). -/
def Core.snagAt (c : Core) (i : Nat) : Option Snag := c.sup.snags.find? fun g => g.idx = i

/-- A watchpoint matches an access: KIND 1 loads, 2 stores, 3 both; atomics match each (R437, R438). -/
def wpMatch (wp va : Word) (n : Nat) (loads stores : Bool) : Bool :=
  let kind := fieldNat wp 62 2
  let log := fieldNat wp 57 5
  let base := fieldNat wp 3 54 * 8
  kind ≠ 0 && decide (3 ≤ log) && decide (log ≤ 30) && decide (base % 2 ^ log = 0) &&
    ((loads && kind.testBit 0) || (stores && kind.testBit 1)) &&
    decide (va.toNat < base + 2 ^ log) && decide (base < va.toNat + n)

/-- The kinds that read, and those that write. -/
def AccKind.reads : AccKind → Bool
  | .load => true
  | .lds => true
  | .atomic => true
  | .reduction => true
  | .table => true
  | _ => false

/-- The kinds that write memory. -/
def AccKind.writes : AccKind → Bool
  | .load => false
  | .lds => false
  | .table => false
  | _ => true

/-- The bytes of an operation as ranges: an MXQ block has its codes and its scale (R260). -/
def MemOp.ranges (o : MemOp) : List (Nat × Nat) :=
  if o.kind = .mxq then [(o.va.toNat, o.bytes), (o.sva.toNat, 1)] else [(o.va.toNat, o.bytes)]

/-- The lowest of some numbers. -/
def least (l : List Nat) : Option Nat := l.foldr (fun a m => some (min a (m.getD a))) none

/-- What an operation matches: CODE, and the lowest address of its bytes in a watchpoint's range; none for supervisor code's (R438). -/
def Core.wpHit (c : Core) (o : MemOp) : Option (Nat × Nat) :=
  let m (wp : Word) : List Nat := (o.ranges.filter fun r => wpMatch wp (BitVec.ofNat 64 r.1) r.2 o.kind.reads o.kind.writes).map fun r =>
    max r.1 (fieldNat wp 3 54 * 8)
  let (x, y) := (m c.sup.wp0, m c.sup.wp1)
  if o.sup then none else (least (x ++ y)).map fun a => ((if x.isEmpty then 0 else 1) + (if y.isEmpty then 0 else 2), a)

/-- The operations that wait in the deferred buffer of a core (R421). -/
def Core.heldOps (c : Core) : List MemOp :=
  c.exch.deferred.filterMap fun d => match d with
    | .rmw o _ => some o
    | .store o _ _ => o
    | _ => none

/-- A word's report is raised once no matching operation of it is left to be performed (R438). -/
def State.wpFlush (s : State) (p id : Nat) : State :=
  s.modCore p fun c => match find id c.sup.hits with
    | none => c
    | some (code, a) =>
      if (c.ops ++ c.snagOps ++ c.heldOps).any fun x => x.id = id && (c.wpHit x).isSome then c
      else
        let u : Sup := { c.sup with hits := del id c.sup.hits }
        if 16 ≤ u.reports.length then { c with sup := { u with wplost := min (u.wplost + 1) 127 } }
        else { c with sup := { u with reports := u.reports ++ [{ code := code, info := BitVec.ofNat 64 a }] } }

/-- An operation has been performed: what it matches is kept with its word, whose report follows its last matching operation (R438). -/
def State.wpReport (s : State) (p : Nat) (o : MemOp) : State :=
  (s.modCore p fun c => match c.wpHit o with
    | none => c
    | some (code, a) =>
      let old := (find o.id c.sup.hits).getD (0, a)
      { c with sup := { c.sup with hits := put o.id (old.1 ||| code, min old.2 a) c.sup.hits } }).wpFlush p o.id

/-- A failed access reaches its owner: cause 20 before its next word, or a drop where the holder of the strand number that issued it has retired
(R436). -/
def State.failOp (s : State) (p : Nat) (o : MemOp) (cause : Nat) (addr : Word) : State :=
  (if o.kind = .lds then s.endLds p o 2 0
  else if (s.strand p o.strand).live && decide ((s.strand p o.strand).began = o.began) then
    s.modStrand p o.strand fun t => { t with failed := t.failed ++ [(cause, addr)] }
  else s.modCore p fun c => { c with sup := { c.sup with drop := min (c.sup.drop + 1) 65535 } }).wpFlush p o.id

/-- A failed entry is delivered to its owner (R436). -/
def State.failSnag (s : State) (p : Nat) (g : Snag) (cause : Nat) : State :=
  let s1 := (s.clearRun p g.idx g.len).dropSnag p g.idx
  match g.owner with
  | .engine slot seq => s1.wakeCmd p slot seq false
  | .op o => s1.failOp p o cause g.addr

/-- SNAGW of an operation: the recorded bits come from the same place of row B, the access counts as performed. An LDS takes them as the value with
which its wait ends. -/
def State.completeSnag (s : State) (p : Nat) (g : Snag) (data : Row) : State :=
  let s1 := (s.clearRun p g.idx g.len).dropSnag p g.idx
  match g.owner with
  | .engine slot seq => s1.wakeCmd p slot seq true
  | .op o =>
    let s2 := match o.row with
      | some r => if o.kind = AccKind.lds then s1 else s1.writeRowAs o.id p r 1 (rowMask o.bit o.width) data
      | none => s1
    (s2.wpReport p o).endLds p o 0 (data.extractLsb' o.bit 64)

/-- The strand-state trap of a word that names no pending run of ring entries (R223, R435). -/
def snagTrap (a : BitVec 8) : Nat → Nat → State → Verdict :=
  readFirst (aS a) (fun p k s => trapWhen ((s.core p).snagAt (fieldNat (s.rS p k 1 a) 0 8)).isNone (s.wordTrap 3)) controlOnly

/-- SNAGW completes a ring entry (R223, R435). Row B is read only for an entry that awaits a register write. -/
def execSnagw (h : Hdr) (a b : BitVec 8) (s : State) : Host.Outcome State Fault Refusal :=
  runWord h { specX [aS a, { bV b with src := false }] 1 with pre := snagTrap a } (fun p k s =>
    let i := fieldNat (s.rS p k 1 a) 0 8
    match (s.core p).snagAt i with
    | none => .trap (s.wordTrap 3)
    | some g =>
      let row := match g.owner with
        | .op o => o.row
        | .engine _ _ => none
      (match row with
      | none => .done (s.completeSnag p g 0)
      | some r =>
        if (s.core p).busy (s.opRow p k (bV b)) ∨ (s.core p).locked r then .hold
        else .done (s.completeSnag p g (s.rV p k 2 b)))) s

/-- SNAGX fails a ring entry with a cause (R223, R436). -/
def execSnagx (h : Hdr) (a b : BitVec 8) (s : State) : Host.Outcome State Fault Refusal :=
  runWord h { specX [aS a, bS b] 1 with pre := snagTrap a } (fun p k s =>
    let i := fieldNat (s.rS p k 1 a) 0 8
    match (s.core p).snagAt i with
    | none => .trap (s.wordTrap 3)
    | some g => .done (s.failSnag p g (fieldNat (s.rS p k 2 b) 0 8))) s

end Sys2Proof.Machine
end

