-- ==== Sys2Proof/Machine/Memory.lean ====
section
/-! DEFINITION. Issue of the memory instructions (R256, R260, R264 to R276): one meaning for each. What they issue is performed
in MemPerform. -/

namespace Sys2Proof.Machine

/-! ## Operations at issue -/

/-- Two operations name a byte in common, judged on program addresses. -/
def MemOp.overlaps (a b : MemOp) : Bool :=
  a.ranges.any fun x => b.ranges.any fun y => decide (x.1 < y.1 + y.2) && decide (y.1 < x.1 + x.2)

/-- Acquire or acquire-release order (R116). -/
def MemOp.isAcq (o : MemOp) : Bool := o.ord % 2 = 1

/-- Release or acquire-release order (R117). -/
def MemOp.isRel (o : MemOp) : Bool := decide (2 ≤ o.ord)

/-- An older operation that faulted keeps a later one at issue (R473). -/
def MemOp.snagHolds (a b : MemOp) : Bool := a.strand = b.strand && decide (a.id < b.id) && (a.overlaps b || b.isRel || a.isAcq)

/-- Width in bytes of SZ (R179). -/
def szBytes (sz : Nat) : Nat :=
  match sz with
  | 0 => 8
  | 1 => 4
  | 2 => 2
  | 3 => 1
  | 5 => 4
  | 6 => 2
  | _ => 1

/-- Sign-extend displacements and indices to a word and add. -/
def effAddr {n : Nat} (base : Word) (disp : BitVec n) : Word := base + sx disp

/-- An operation of strand `k` of core `p` of the word in execution: relaxed, without data and without a register. -/
def State.newOp (s : State) (p k : Nat) (kind : AccKind) (va : Word) (sz : Nat) : MemOp :=
  { id := s.curId p, elem := 0, strand := k, pc := (s.strand p k).pc, kind := kind, ferd := false, va := va,
    bytes := szBytes sz, sz := sz, ord := 0, scope := 4, aop := 0, data := 0, cmp := 0, row := none, bit := 0, width := 0,
    codes := [], sva := 0, scale := 0, whole := false, parked := false, fence := 0, joins := [], since := s.now,
    sup := (s.who p k).sup, began := (s.strand p k).began, straddle := false }

/-- Bind an operation's result to a scalar. -/
def MemOp.toScalar (o : MemOp) (d : Dest) : MemOp := { o with row := some d.row, bit := 64 * d.word, width := 64 }

/-- The operation may reach host memory (R266, R129). -/
def MemOp.hostOk (o : MemOp) : Bool :=
  match o.kind with
  | .load => !o.ferd
  | .store => true
  | .atomic => decide (o.aop = 0 ∨ o.aop = 8 ∨ o.aop = 9) && decide (o.sz ≤ 1)
  | .reduction => decide (o.aop = 0) && decide (o.sz ≤ 1)
  | _ => false

/-- Host memory is an address fault for an operation that may not reach it. -/
def MemOp.limitHost (o : MemOp) (r : Reach) : Reach :=
  match r with
  | .loc l rs true => if o.hostOk then .loc l rs true else .fault 7
  | x => x

/-- An operation of a DTLD or of an accumulator word, whose own-TCM address was checked at issue (R103, R256). -/
def AccKind.local (k : AccKind) : Bool := k = .table || k = .acc

/-- The maker of an operation of core `p`, at the level at which it was issued (R89). -/
def State.opWho (s : State) (p : Nat) (o : MemOp) : Who := { pcid := p, sup := o.sup, firmware := s.isPlumb p }

/-- Where an operation of core `p` leads: for a block, its codes, once its scale can be reached too (R260); a row access that names words of more
than one memory reaches nothing (R87). -/
def State.access (s : State) (p : Nat) (o : MemOp) : Reach :=
  let r := if o.straddle then .fault 8 else o.limitHost (s.reachAs (s.opWho p o) o.va o.bytes o.kind.writes)
  if o.kind.local then .loc (tcmBase p + (o.va.toNat - aperture)) false false
  else if o.kind = .mxq then
    match r, o.limitHost (s.reachAs (s.opWho p o) o.sva 1 true) with
    | .fault c, _ => .fault c
    | _, .fault c => .fault c
    | .loc l rs h, .loc _ _ _ => .loc l rs h
    | .held, _ => .held
    | _, .held => .held
    | _, _ => .miss
  else r

/-- The fault that an access would meet now, by walks of its own, with its address: a core without a snag ring raises it precisely (R432). -/
def State.faultNow (s : State) (p : Nat) (o : MemOp) : Option (Nat × Word) :=
  let walked (va : Word) (n : Nat) (wr : Bool) : Option (Nat × Word) :=
    match o.limitHost (match s.reachAs (s.opWho p o) va n wr with
      | .miss => s.reachEngine p va n wr
      | x => x) with
    | .fault c => some (c, va)
    | _ => none
  if o.kind.local then none
  else if o.straddle then some (8, o.va)
  else match walked o.va o.bytes o.kind.writes with
    | some x => some x
    | none => if o.kind = .mxq then walked o.sva 1 true else none

/-- The location of a range that an operation names, by a translation at hand or else by the tables as they are; of a core that migrates, where it is
now; none where the address faults. -/
def State.spot (s : State) (p : Nat) (w : Who) (va : Word) (n : Nat) (wr : Bool) : Option Nat :=
  match s.reachAs w va n wr with
  | .loc l _ _ => some l
  | .miss => (match s.reachEngine p va n wr with
    | .loc l _ _ => some l
    | _ => none)
  | .held =>
    let a := va.toNat - aperture
    let q := (s.remapOf p (a / 2 ^ 24 % 8192)).pcid
    some ((if a / 2 ^ 37 = 2 then tcmBase q else cspBase (cluOf q)) + a % 2 ^ 24)
  | .fault _ => none

/-- The location of an operation; none where it faults. -/
def State.opLoc (s : State) (p : Nat) (o : MemOp) : Option Nat :=
  match s.access p o with
  | .loc l _ _ => some l
  | .fault _ => none
  | _ => s.spot p (s.opWho p o) o.va o.bytes o.kind.writes

/-- The ranges of locations that an operation touches: a block's codes and its scale (R260). -/
def State.spans (s : State) (p : Nat) (o : MemOp) : List (Nat × Nat) :=
  ((s.opLoc p o).map fun l => (plain l, o.bytes)).toList ++
    (if o.kind = .mxq then ((s.spot p (s.opWho p o) o.sva 1 true).map fun l => (plain l, 1)).toList else [])

/-- Two operations of a core touch a byte in common, under one address or under two. -/
def State.meets (s : State) (p : Nat) (a b : MemOp) : Bool :=
  a.overlaps b || (s.spans p a).any fun x => (s.spans p b).any fun y => decide (x.1 < y.1 + y.2) && decide (y.1 < x.1 + x.2)

/-- Each field of CORE_OSTCNTk has room for the operations of its class (R128). -/
def State.countRoom (s : State) (p k : Nat) (l : List MemOp) : Bool :=
  let (nst, nrd, nat, _) := s.ostcnt p k
  [(0, nst), (1, nrd), (2, nat)].all fun x =>
    let n := (l.filter fun o => o.kind.cls = some x.1).length
    n = 0 || decide (x.2 + n ≤ 65535)

/-- An access or a command of the core waits for a run of the snag ring (R434). -/
def Core.pathFull (c : Core) : Bool := c.ops.any (·.parked) || c.chains.any fun x => x.2.cmds.any (·.parked)

/-- The word in execution is of class M (R77). -/
def State.classM (s : State) : Bool :=
  let op := (Fields.ofWord s.focus.word).op.toNat
  decide (0x180 ≤ op) && decide (op ≤ 0x1DF)

/-- The issue of a word's operations: it waits behind the store path (R434), behind a faulted access (R473) and while a count
is full (R128); without a ring a fault is raised here, which the firewall that dropped the access counts (R384, R432). -/
def State.issueOps (s : State) (p k : Nat) (l : List MemOp) : Res :=
  let c := s.core p
  if (s.classM && c.pathFull) || l.any (fun o => c.snagOps.any (·.snagHolds o)) || !s.countRoom p k l then .hold
  else
    match (if c.sup.tcmLen < 2 then l.findSome? fun o => (s.faultNow p o).map fun x => (o, x) else none) with
    | some (o, c, va) =>
      .trap { cause := c, code := 0, info := va, wall := if c = 8 then s.wallAt (s.opWho p o) va.toNat else none }
    | none => .done (s.setCore p { c with ops := c.ops ++ l })

/-- The alignment fault (R266). -/
def alignTrap (va : Word) : Trap := { cause := 6, code := 0, info := va }

/-- Issue operations whose addresses are multiples of `n`, or raise the alignment fault at the first that is not. -/
def State.issueAligned (s : State) (p k n : Nat) (l : List MemOp) : Res :=
  match l.find? fun o => o.va.toNat % n ≠ 0 with
  | some o => .trap (alignTrap o.va)
  | none => s.issueOps p k l

/-- A class M word: `gated` when it accesses one scalar (R265). -/
def specM (ops : List Opnd) (gated : Bool) : WordSpec :=
  { cls := .M, ops := ops, lat := 0, gated := gated, usesHeader := false, noHeader := false, hw := [], atOnce := false,
    occ := 1, pre := noTrap }

/-! ## Loads and stores (R268 to R271) -/

/-- LD (R269). -/
def execLd (h : Hdr) (d a : BitVec 8) (disp : BitVec 20) (scope : BitVec 3) (ord : BitVec 2) (sz : BitVec 3) (s : State) :
    Host.Outcome State Fault Refusal :=
  runWord h (specM [dS d, aS a] true) (fun p k s =>
    let o := { s.newOp p k .load (effAddr (s.rS p k 1 a) disp) sz.toNat with ord := ord.toNat, scope := scope.toNat }
    s.issueAligned p k o.bytes [o.toScalar (s.destOf p k 0 d)]) s

/-- ST (R269). -/
def execSt (h : Hdr) (d a : BitVec 8) (disp : BitVec 20) (scope : BitVec 3) (ord : BitVec 2) (sz : BitVec 3) (s : State) :
    Host.Outcome State Fault Refusal :=
  runWord h (specM [dSrc d, aS a] true) (fun p k s =>
    let o := { s.newOp p k .store (effAddr (s.rS p k 1 a) disp) sz.toNat with
      ord := ord.toNat, scope := scope.toNat, data := s.rS p k 0 d }
    s.issueAligned p k o.bytes [o]) s

/-- An address lies in the aperture, or past it. -/
def pastAperture (va : Word) : Bool := decide (aperture ≤ va.toNat)

/-- The words of a row access that EQ enables: word j at EA + 8j (R270). Those of one access that lie on both sides of the aperture's first address
name more than one memory (R87). -/
def State.rowOps (s : State) (p k : Nat) (h : Hdr) (o : MemOp) (f : Nat → MemOp → MemOp) : List MemOp :=
  let js := (List.range 8).filter fun j => (s.eqOf p k h).getLsbD (2 * j)
  let va (j : Nat) : Word := o.va + BitVec.ofNat 64 (8 * j)
  let split := (js.any fun j => pastAperture (va j)) && js.any fun j => !pastAperture (va j)
  js.map fun j => f j { o with elem := j, va := va j, straddle := split }

/-- A row access issues its operations, or raises the alignment fault at EA where it performs any (R266, R270). -/
def State.issueRow (s : State) (p k : Nat) (ea : Word) (l : List MemOp) : Res :=
  if ea.toNat % 8 ≠ 0 ∧ l.isEmpty = false then .trap (alignTrap ea) else s.issueOps p k l

/-- LDV (R270). -/
def execLdv (h : Hdr) (d a : BitVec 8) (disp : BitVec 20) (scope : BitVec 3) (ord : BitVec 2) (s : State) :
    Host.Outcome State Fault Refusal :=
  runWord h (specM [dV d, aS a] false) (fun p k s =>
    let ea := effAddr (s.rS p k 1 a) disp
    let o := { s.newOp p k .load ea 0 with ord := ord.toNat, scope := scope.toNat }
    let r := (s.strand p k).wb + s.vName p k 0 d.toNat
    s.issueRow p k ea (s.rowOps p k h o fun j o => o.toScalar { row := r, word := j })) s

/-- STV (R270). -/
def execStv (h : Hdr) (d a : BitVec 8) (disp : BitVec 20) (scope : BitVec 3) (ord : BitVec 2) (s : State) :
    Host.Outcome State Fault Refusal :=
  runWord h (specM [dVsrc d, aS a] false) (fun p k s =>
    let ea := effAddr (s.rS p k 1 a) disp
    let o := { s.newOp p k .store ea 0 with
      ord := ord.toNat, scope := scope.toNat, whole := s.eqOf p k h &&& 0x5555 = 0x5555 && decide (ea.toNat % 64 = 0) }
    s.issueRow p k ea (s.rowOps p k h o fun j o => { o with data := rowWord (s.rV p k 0 d) j })) s

/-- The elements of a gather or scatter that EQ enables, with the address of each (R271). -/
def State.indexed (s : State) (p k : Nat) (h : Hdr) (kind : AccKind) (base : Word) (idx : Row) (scope ord sz : Nat) :
    List MemOp :=
  let w := if sz = 1 then 32 else 64
  ((List.range (512 / w)).filter (laneOn w (s.eqOf p k h))).map fun i =>
    { s.newOp p k kind (base + BitVec.ofInt 64 (sint w (fieldNat idx (w * i) w))) sz with
      elem := i, ord := ord, scope := scope }

/-- LDVX gathers (R271). -/
def execLdvx (h : Hdr) (d a b : BitVec 8) (scope : BitVec 3) (ord : BitVec 2) (sz : BitVec 3) (m : BitVec 12) (s : State) :
    Host.Outcome State Fault Refusal :=
  runWord h (specM [dV d, aS a, bV b] false) (fun p k s =>
    let w := if sz.toNat = 1 then 32 else 64
    let r := (s.strand p k).wb + s.vName p k 0 d.toNat
    let l := s.indexed p k h .load (s.rS p k 1 a) (modified m 1 (s.rV p k 2 b)) scope.toNat ord.toNat sz.toNat
    s.issueAligned p k (w / 8) (l.map fun o => { o with row := some r, bit := w * o.elem, width := w })) s

/-- The elements of a scatter that are performed: a later element that names the same bytes, under one address or under two, takes an earlier
one's place (R271). -/
def State.unshadowed (s : State) (p : Nat) : List MemOp → List MemOp
  | [] => []
  | o :: r => if r.any (s.meets p o) then s.unshadowed p r else o :: s.unshadowed p r

/-- STVX scatters (R271). -/
def execStvx (h : Hdr) (d a b : BitVec 8) (scope : BitVec 3) (ord : BitVec 2) (sz : BitVec 3) (m : BitVec 12) (s : State) :
    Host.Outcome State Fault Refusal :=
  runWord h (specM [dVsrc d, aS a, bV b] false) (fun p k s =>
    let w := if sz.toNat = 1 then 32 else 64
    let row := s.rV p k 0 d
    let l := s.indexed p k h .store (s.rS p k 1 a) (modified m 1 (s.rV p k 2 b)) scope.toNat ord.toNat sz.toNat
    match l.find? fun o => o.va.toNat % (w / 8) ≠ 0 with
    | some o => .trap (alignTrap o.va)
    | none =>
      s.issueOps p k (s.unshadowed p (l.map fun o => { o with data := BitVec.ofNat 64 (fieldNat row (w * o.elem) w) }))) s

/-! ## Full-empty words (R272 to R274) -/

/-- LDS issues its load and waits for it (R272); the performance of the load, or its deadline, ends the wait, and the end of the wait writes D, so that
the word's selector reads its header from before (R175). -/
def execLds (h : Hdr) (d a b : BitVec 8) (scope sz : BitVec 3) (wall : BitVec 1) (s : State) :
    Host.Outcome State Fault Refusal :=
  runWord h (specM [dS d, aS a, bS b] true) (fun p k s =>
    let o := { s.newOp p k .lds (s.rS p k 1 a) sz.toNat with ord := 1, scope := scope.toNat }
    match s.issueAligned p k o.bytes [o.toScalar (s.destOf p k 0 d)] with
    | .done s1 => .jump (s1.hold p k (s.newWait p (.lds (s.curId p) none 0) (s.rS p k 2 b) wall (some (s.destOf p k 0 d)) h))
    | r => r) s

/-- STF stores and sets the word full, with release order (R273). -/
def execStf (h : Hdr) (d a : BitVec 8) (disp : BitVec 20) (scope sz : BitVec 3) (s : State) :
    Host.Outcome State Fault Refusal :=
  runWord h (specM [dSrc d, aS a] true) (fun p k s =>
    let o := { s.newOp p k .stf (effAddr (s.rS p k 1 a) disp) sz.toNat with
      ord := 2, scope := scope.toNat, data := s.rS p k 0 d }
    s.issueAligned p k o.bytes [o]) s

/-- FECLR clears a full-empty bit (R273). -/
def execFeclr (h : Hdr) (a : BitVec 8) (disp : BitVec 20) (scope : BitVec 3) (ord : BitVec 2) (s : State) :
    Host.Outcome State Fault Refusal :=
  runWord h (specM [aS a] true) (fun p k s =>
    let o := { s.newOp p k .feclr (effAddr (s.rS p k 1 a) disp) 0 with ord := ord.toNat, scope := scope.toNat }
    s.issueAligned p k 8 [o]) s

/-- FERD reads 64 full-empty bits, each by a load of its own (R274). -/
def execFerd (h : Hdr) (d a : BitVec 8) (disp : BitVec 20) (scope : BitVec 3) (ord : BitVec 2) (s : State) :
    Host.Outcome State Fault Refusal :=
  runWord h (specM [dS d, aS a] true) (fun p k s =>
    let ea := effAddr (s.rS p k 1 a) disp
    let dd := s.destOf p k 0 d
    if ea.toNat % 512 ≠ 0 then .trap (alignTrap ea)
    else s.issueOps p k ((List.range 64).map fun j =>
      { s.newOp p k .load (ea + BitVec.ofNat 64 (8 * j)) 0 with
        elem := j, ferd := true, ord := ord.toNat, scope := scope.toNat,
        row := some dd.row, bit := 64 * dd.word + j, width := 1 })) s

/-! ## Returning atomics and reductions (R275, R276) -/

/-- A returning atomic: operation, operands from B, and c and v from B and C for the compare and swap. -/
def atomicWord (h : Hdr) (aop : Nat) (d a b : BitVec 8) (scope : BitVec 3) (ord : BitVec 2) (sz : BitVec 3) (s : State) :
    Host.Outcome State Fault Refusal :=
  runWord h (specM [dS d, aS a, bS b] true) (fun p k s =>
    let o := { s.newOp p k .atomic (s.rS p k 1 a) sz.toNat with
      ord := ord.toNat, scope := scope.toNat, aop := aop, data := s.rS p k 2 b }
    s.issueAligned p k o.bytes [o.toScalar (s.destOf p k 0 d)]) s

/-- AADD. -/
def execAadd (h : Hdr) (d a b : BitVec 8) (scope : BitVec 3) (ord : BitVec 2) (sz : BitVec 3) (s : State) :
    Host.Outcome State Fault Refusal := atomicWord h 0 d a b scope ord sz s

/-- AAND. -/
def execAand (h : Hdr) (d a b : BitVec 8) (scope : BitVec 3) (ord : BitVec 2) (sz : BitVec 3) (s : State) :
    Host.Outcome State Fault Refusal := atomicWord h 1 d a b scope ord sz s

/-- AOR. -/
def execAor (h : Hdr) (d a b : BitVec 8) (scope : BitVec 3) (ord : BitVec 2) (sz : BitVec 3) (s : State) :
    Host.Outcome State Fault Refusal := atomicWord h 2 d a b scope ord sz s

/-- AXOR. -/
def execAxor (h : Hdr) (d a b : BitVec 8) (scope : BitVec 3) (ord : BitVec 2) (sz : BitVec 3) (s : State) :
    Host.Outcome State Fault Refusal := atomicWord h 3 d a b scope ord sz s

/-- AMIN. -/
def execAmin (h : Hdr) (d a b : BitVec 8) (scope : BitVec 3) (ord : BitVec 2) (sz : BitVec 3) (s : State) :
    Host.Outcome State Fault Refusal := atomicWord h 4 d a b scope ord sz s

/-- AMAX. -/
def execAmax (h : Hdr) (d a b : BitVec 8) (scope : BitVec 3) (ord : BitVec 2) (sz : BitVec 3) (s : State) :
    Host.Outcome State Fault Refusal := atomicWord h 5 d a b scope ord sz s

/-- AMINU. -/
def execAminu (h : Hdr) (d a b : BitVec 8) (scope : BitVec 3) (ord : BitVec 2) (sz : BitVec 3) (s : State) :
    Host.Outcome State Fault Refusal := atomicWord h 6 d a b scope ord sz s

/-- AMAXU. -/
def execAmaxu (h : Hdr) (d a b : BitVec 8) (scope : BitVec 3) (ord : BitVec 2) (sz : BitVec 3) (s : State) :
    Host.Outcome State Fault Refusal := atomicWord h 7 d a b scope ord sz s

/-- AXCHG. -/
def execAxchg (h : Hdr) (d a b : BitVec 8) (scope : BitVec 3) (ord : BitVec 2) (sz : BitVec 3) (s : State) :
    Host.Outcome State Fault Refusal := atomicWord h 8 d a b scope ord sz s

/-- ACAS: B is the compare value, C the new value. -/
def execAcas (h : Hdr) (d a b c : BitVec 8) (scope : BitVec 3) (ord : BitVec 2) (sz : BitVec 3) (s : State) :
    Host.Outcome State Fault Refusal :=
  runWord h (specM [dS d, aS a, bS b, cS c] true) (fun p k s =>
    let o := { s.newOp p k .atomic (s.rS p k 1 a) sz.toNat with
      ord := ord.toNat, scope := scope.toNat, aop := 9, data := s.rS p k 3 c, cmp := s.rS p k 2 b }
    s.issueAligned p k o.bytes [o.toScalar (s.destOf p k 0 d)]) s

/-- AFADD. -/
def execAfadd (h : Hdr) (d a b : BitVec 8) (scope : BitVec 3) (ord : BitVec 2) (sz : BitVec 3) (s : State) :
    Host.Outcome State Fault Refusal := atomicWord h 10 d a b scope ord sz s

/-- A reduction writes no register (R276). -/
def reductionWord (h : Hdr) (aop : Nat) (d a : BitVec 8) (disp : BitVec 20) (scope : BitVec 3) (ord : BitVec 2)
    (sz : BitVec 3) (s : State) : Host.Outcome State Fault Refusal :=
  runWord h (specM [dSrc d, aS a] true) (fun p k s =>
    let o := { s.newOp p k .reduction (effAddr (s.rS p k 1 a) disp) sz.toNat with
      ord := ord.toNat, scope := scope.toNat, aop := aop, data := s.rS p k 0 d }
    s.issueAligned p k o.bytes [o]) s

/-- RADD. -/
def execRadd (h : Hdr) (d a : BitVec 8) (disp : BitVec 20) (scope : BitVec 3) (ord : BitVec 2) (sz : BitVec 3) (s : State) :
    Host.Outcome State Fault Refusal := reductionWord h 0 d a disp scope ord sz s

/-- RAND. -/
def execRand (h : Hdr) (d a : BitVec 8) (disp : BitVec 20) (scope : BitVec 3) (ord : BitVec 2) (sz : BitVec 3) (s : State) :
    Host.Outcome State Fault Refusal := reductionWord h 1 d a disp scope ord sz s

/-- RIOR. -/
def execRior (h : Hdr) (d a : BitVec 8) (disp : BitVec 20) (scope : BitVec 3) (ord : BitVec 2) (sz : BitVec 3) (s : State) :
    Host.Outcome State Fault Refusal := reductionWord h 2 d a disp scope ord sz s

/-- RXOR. -/
def execRxor (h : Hdr) (d a : BitVec 8) (disp : BitVec 20) (scope : BitVec 3) (ord : BitVec 2) (sz : BitVec 3) (s : State) :
    Host.Outcome State Fault Refusal := reductionWord h 3 d a disp scope ord sz s

/-- RMIN. -/
def execRmin (h : Hdr) (d a : BitVec 8) (disp : BitVec 20) (scope : BitVec 3) (ord : BitVec 2) (sz : BitVec 3) (s : State) :
    Host.Outcome State Fault Refusal := reductionWord h 4 d a disp scope ord sz s

/-- RMAX. -/
def execRmax (h : Hdr) (d a : BitVec 8) (disp : BitVec 20) (scope : BitVec 3) (ord : BitVec 2) (sz : BitVec 3) (s : State) :
    Host.Outcome State Fault Refusal := reductionWord h 5 d a disp scope ord sz s

/-- RFADD. -/
def execRfadd (h : Hdr) (d a : BitVec 8) (disp : BitVec 20) (scope : BitVec 3) (ord : BitVec 2) (sz : BitVec 3) (s : State) :
    Host.Outcome State Fault Refusal := reductionWord h 10 d a disp scope ord sz s

/-! ## MXQ to memory and DTLD (R256, R260) -/

/-- The scalar after D as a source (R259). -/
def dSnext (n : BitVec 8) : Opnd := ⟨0, false, n.toNat + 1, true, false⟩

/-- Scalar `n + 1` named beside a scalar of field D. -/
def State.rSnext (s : State) (p k : Nat) (n : BitVec 8) : Word :=
  let m := s.sName p k 0 (n.toNat + 1)
  rowWord (s.row p ((s.strand p k).wb + m / 8)) (m % 8)

/-- MXQ to memory: one store of the block and its scale (R259, R260). C is a source, which the word waits for, only with RM = 5, as R245 says
of the other narrowing words: DEDUCED (log entry 71). -/
def execMxqMem (h : Hdr) (d a b c : BitVec 8) (ty rm : BitVec 3) (s : State) : Host.Outcome State Fault Refusal :=
  runWord h { specV [dSrc d, dSnext d, aV a, aVnext a, bS b, { cS c with src := decide (rm = 5) }] 6 with pre := tableWait } (fun p k s =>
    let va := s.rS p k 0 d
    let n := if ty = 3 then 32 else 16
    if va.toNat % n ≠ 0 then .trap (alignTrap va)
    else
      match (s.core p).tableFault ty with
      | some t => .trap t
      | none =>
        let e := fieldNat (s.rS p k 2 b) 0 8
        let xs := mxElems (s.rV p k 1 a) (s.rVnext p k 1 a) e
        let es := (xs.zip (List.range 32)).map fun x =>
          narrowElem (s.core p).table ty rm.toNat x.1 (s.rndOf p (s.rS p k 3 c) x.2)
        let o := { s.newOp p k .mxq va 0 with
          bytes := n, sz := if ty = 3 then 0 else 1, sva := s.rSnext p k d, scale := BitVec.ofNat 8 e,
          codes := natBytes n (packLanes (if ty = 3 then 8 else 4) (es.map (·.1))) }
        match s.issueOps p k [o] with
        | .done s1 => .done (s1.countUf p 6 0 (es.map (·.2)))
        | r => r) s

/-- DTLD begins to load the core's decode table: one relaxed load for each of the image's 128 words (R256); the last of them to be performed,
not before 16 cycles (R255), changes the table. No predicate bit governs it (R237). -/
def execDtld (h : Hdr) (a : BitVec 8) (s : State) : Host.Outcome State Fault Refusal :=
  runWord h { specV [aS a] 1 with pre := tableWait } (fun p k s =>
    let va := s.rS p k 1 a
    let off := va.toNat - aperture
    if va.toNat < aperture ∨ 2 ^ 17 < off + 1024 ∨ off % 4 ≠ 0 ∨
        ((s.core p).inSupArea off 1024 ∧ !(s.who p k).sup ∧ !(s.who p k).firmware) then
      .trap { cause := 8, code := 0, info := va }
    else
      match s.issueOps p k ((List.range 128).map fun j =>
          { s.newOp p k .table (va + BitVec.ofNat 64 (8 * j)) 0 with elem := j }) with
      | .done s1 => .done (s1.modCore p fun c => { c with loading := some { due := c.cycle + 16, words := [] } })
      | r => r) s

end Sys2Proof.Machine
end

