-- ==== Sys2Proof/Machine/MemPerform.lean ====
section
/-! DEFINITION. How an issued memory operation is performed or becomes a ring entry; page walks; the end of waits (R98 to R124,
R272, R279, R410, R421, R432 to R434). -/

namespace Sys2Proof.Machine

/-! ## The snag ring (R432 to R434) -/

/-- Ring entry `i` belongs to a pending run. -/
def Core.ringUsed (c : Core) (i : Nat) : Bool := c.sup.snags.any fun g => decide (g.idx ≤ i) && decide (i < g.idx + g.len)

/-- The lowest run of `n` free entries (R434). -/
def Core.freeRun (c : Core) (n : Nat) : Option Nat :=
  (List.range (257 - n)).find? fun i => (List.range n).all fun j => !c.ringUsed (i + j)

/-- KIND of an entry (R433). -/
def AccKind.code : AccKind → Nat
  | .load => 0
  | .lds => 1
  | .store => 2
  | .stf => 3
  | .feclr => 4
  | .atomic => 5
  | .reduction => 6
  | .mxq => 7
  | .table => 0
  | .acc => 2

/-- The 32-bit lanes that a range of row bits lies in, as LMASK. -/
def lmask (bit width : Nat) : Nat :=
  ofBitsSet ((List.range 16).filter fun i => decide (32 * i < bit + width) && decide (bit < 32 * i + 32))

/-- Word 0 of a pending entry (R433). -/
def snagWord0 (cont : Bool) (cause strand kind row lm sz ord seq : Nat) : Nat :=
  2 ^ 63 + (if cont then 2 ^ 62 else 0) + cause * 2 ^ 56 + strand * 2 ^ 52 + kind * 2 ^ 48 + row * 2 ^ 38 + lm * 2 ^ 22 +
    sz * 2 ^ 19 + ord * 2 ^ 16 + seq % 2 ^ 16

/-- Four words as the bytes of an entry. -/
def entryBytes (w0 w1 w2 w3 : Nat) : List Byte := natBytes 8 w0 ++ natBytes 8 w1 ++ natBytes 8 w2 ++ natBytes 8 w3

/-- DATA of an entry: zero-extended store data or operand, or the scale's address (R433). -/
def MemOp.snagData (o : MemOp) : Nat :=
  match o.kind with
  | .mxq => o.sva.toNat
  | .store => o.data.toNat % 2 ^ (8 * o.bytes)
  | .stf => o.data.toNat % 2 ^ (8 * o.bytes)
  | .atomic => o.data.toNat % 2 ^ (8 * o.bytes)
  | .reduction => o.data.toNat % 2 ^ (8 * o.bytes)
  | _ => 0

/-- The entries of a faulted operation: the first and its continuations (R433). -/
def MemOp.snagEntries (o : MemOp) (cause seq : Nat) : List (List Byte) :=
  let row := o.row.getD 0
  let lm := if o.row.isSome then lmask o.bit o.width else 0
  let first := entryBytes (snagWord0 false cause o.strand o.kind.code row lm o.sz o.ord seq) o.va.toNat o.snagData
    (o.pc.toNat % 2 ^ 57)
  let cont := snagWord0 true 0 0 0 0 0 0 0 seq
  match o.kind with
  | .atomic => if o.aop = 9 then [first, entryBytes cont (o.cmp.toNat % 2 ^ (8 * o.bytes)) 0 0] else [first]
  | .mxq =>
    let w (i : Nat) : Nat := leNat ((o.codes.drop (8 * i)).take 8)
    if o.bytes = 32 then [first, entryBytes cont (w 0) (w 1) (w 2), entryBytes cont (w 3) o.scale.toNat 0]
    else [first, entryBytes cont (w 0) (w 1) 0, entryBytes cont 0 o.scale.toNat 0]
  | _ => [first]

/-- A pending run is made: its bytes, the counters, SLEEP event 2 and cause 22 (R434). None when no run is free. -/
def State.pushSnag (s : State) (p : Nat) (owner : SnagOwner) (cause : Nat) (addr : Word) (entries : List (List Byte)) :
    Option State :=
  match (s.core p).freeRun entries.length with
  | none => none
  | some i =>
    let bs := entries.flatten
    let a := s.ringLoc p i
    let s1 := (s.logUndo p a bs.length).store a bs
    some (s1.modCore p fun c =>
      let g : Snag := { idx := i, len := entries.length, owner := owner, cause := cause, addr := addr, made := s.now,
                        stops := s.stopTicks p }
      { c with sup := { c.sup with
          snags := c.sup.snags ++ [g], made := (c.sup.made + 1) % 2 ^ 16,
          snagPend := c.sup.snagPend + (if c.sup.snage then 1 else 0) } }.wake 0 2)

/-- The operation leaves the list of operations in flight. -/
def State.dropOp (s : State) (p : Nat) (o : MemOp) : State :=
  s.modCore p fun c => { c with ops := c.ops.filter fun x => !(decide (x.id = o.id) && decide (x.elem = o.elem)) }

/-- The whole of a FERD becomes one entry, for its lowest word in flight (R434). -/
def Core.wholeFerd (c : Core) (o : MemOp) : MemOp :=
  if o.ferd then
    match c.ops.find? fun x => x.id = o.id with
    | some x => { x with bit := x.bit - x.elem, width := 64 }
    | none => o
  else o

/-- A faulted operation becomes a ring entry, waits in the store path when no run is free, or, on a core without a ring, is
delivered as a failed entry of its kind (R432, R434). -/
def State.snagOp (s : State) (p : Nat) (o : MemOp) (cause : Nat) : State :=
  let s := if o.parked then s else s.countDrop (s.opWho p o) cause o.va.toNat
  let c := s.core p
  let o := c.wholeFerd o
  let s1 := if o.ferd then s.modCore p fun c => { c with ops := c.ops.filter fun x => x.id ≠ o.id } else s.dropOp p o
  if c.sup.tcmLen < 2 then s1.failOp p o cause o.va
  else
    match s1.pushSnag p (.op o) cause o.va (o.snagEntries cause c.sup.made) with
    | some s2 => s2
    | none => s.modCore p fun c => { c with
        ops := c.ops.map fun x => if x.id = o.id ∧ (x.elem = o.elem ∨ o.ferd) then { x with parked := true } else x }

/-! ## Order (R110 to R124, R473) -/

/-- Two operations read their lines with one key (R385). -/
def State.oneKey (s : State) (p : Nat) (a b : MemOp) : Bool :=
  match s.opLoc p a, s.opLoc p b with
  | some x, some y => decide (viaKey x = viaKey y)
  | _, _ => true

/-- A plain store, whose value a later load of its strand may take before it is performed (R111). -/
def AccKind.plain : AccKind → Bool
  | .store => true
  | .stf => true
  | _ => false

/-- A location in host memory. -/
def hostLoc (l : Option Nat) : Bool := l.any fun x => decide (2 ^ 40 ≤ plain x) && decide (plain x < 2 ^ 48)

/-- Preserved program order places `a` before `b`, both of one strand, `a` older (R114 to R119), or the order of PCIe does, in which neither a
write nor a read passes an earlier posted write (R376). A load waits besides for an older operation of its own strand whose value it
cannot take yet: a read-modify-write, a block store, a store that will fault (R111, R473). Of two loads of one byte the older is performed first: no
store comes between them that R115 would have to tell apart, and what the loads return is the same (log entry 11). -/
def State.ordered (s : State) (p : Nat) (a b : MemOp) : Bool :=
  a.isAcq || b.isRel || (a.isRel && b.isAcq) || (decide (a.fence ≠ 0) && decide (a.fence < b.id)) ||
    (s.meets p a b && (b.kind.writes || !a.kind.plain || !s.oneKey p a b || (s.opLoc p a).isNone)) ||
    (a.kind = .store && hostLoc (s.opLoc p a) && hostLoc (s.opLoc p b))

/-- `a` comes before an operation `b` of another strand of the core: the control strand's before those of a helper that it has started since
(R209), and a joined helper's before those that follow the JOIN (R210). -/
def State.crosses (_s : State) (_p : Nat) (a b : MemOp) : Bool :=
  (a.strand = 0 && b.strand ≠ 0 && decide (a.id < b.began)) ||
    a.joins.any fun j => j.1 = b.strand && decide (j.2 < b.id)

/-- `a`, issued and not performed, keeps `b` back. -/
def State.keepsBack (s : State) (p : Nat) (a b : MemOp) : Bool :=
  (a.strand = b.strand && decide (a.id < b.id) && s.ordered p a b) || s.crosses p a b

/-- The operations of a core that a deferred read-modify-write stands for. -/
def Core.deferredOps (c : Core) : List MemOp :=
  c.exch.deferred.filterMap fun d => match d with
    | .rmw a _ => some a
    | _ => none

/-- Every operation that comes before it has been performed. -/
def State.opReady (s : State) (p : Nat) (o : MemOp) : Bool :=
  let c := s.core p
  ((c.ops ++ c.deferredOps).all fun a => !s.keepsBack p a o) && c.snagOps.all fun a => !(a.snagHolds o || s.crosses p a o)

/-- A word of strand `k` that reads or writes `n` bytes of its own TCM at issue waits for the operations that come before it, and for those of
its strand that touch the bytes. -/
def State.readHeld (s : State) (p k : Nat) (va : Word) (n : Nat) : Bool :=
  let o := { s.newOp p k .load va 0 with bytes := n }
  let c := s.core p
  !s.opReady p o || (c.ops ++ c.deferredOps).any fun a => a.strand = k && decide (a.id < o.id) && s.meets p a o

/-- A FENCE of a strand: every load before it comes before every later operation (R119). The load part of a returning atomic is such a load (R107,
R112), and its store part is performed with it (log entry 63). -/
def Core.markFence (c : Core) (k id : Nat) : Core :=
  c.mapOps fun o => if o.strand = k ∧ (o.kind.writes = false ∨ o.kind = .atomic) ∧ o.fence = 0 then { o with fence := id } else o

/-! ## Values -/

/-- The byte at a location of host memory as a strand of a rollback-mode parcel sees it: its own latest deferred store, or
memory (R111, R421). -/
def State.deferredByte (s : State) (p k l : Nat) : Byte :=
  let own := (s.core p).exch.deferred.filterMap fun d => match d with
    | .store (some o) a bs => if o.strand = k ∧ a ≤ l ∧ l < a + bs.length then some (bs.getD (l - a) 0) else none
    | _ => none
  own.getLast?.getD (s.byte l)

/-- The byte at a location as a load of a strand sees it: its own latest store in flight, or memory (R111). -/
def State.seenByte (s : State) (p : Nat) (o : MemOp) (l : Nat) : Byte :=
  let own := (s.core p).ops.filter fun x => x.strand = o.strand && decide (x.id < o.id) && x.kind.plain &&
    match s.opLoc p x with
    | some y => decide (y ≤ l) && decide (l < y + x.bytes)
    | none => false
  match own.getLast? with
  | none => s.deferredByte p o.strand l
  | some x => BitVec.ofNat 8 (x.data.toNat / 2 ^ (8 * (l - (s.opLoc p x).getD 0)))

/-- The number that a load reads. -/
def State.seen (s : State) (p : Nat) (o : MemOp) (l : Nat) : Nat :=
  leNat ((List.range o.bytes).map fun i => s.seenByte p o (l + i))

/-- Extension of a loaded number as SZ states (R179). -/
def extend (sz x : Nat) : Word :=
  match sz with
  | 5 => BitVec.ofInt 64 (sint 32 x)
  | 6 => BitVec.ofInt 64 (sint 16 x)
  | 7 => BitVec.ofInt 64 (sint 8 x)
  | _ => BitVec.ofNat 64 x

/-- The new value of a read-modify-write of `w` bits (R275). -/
def rmw (aop w o v c : Nat) : Nat :=
  match aop with
  | 0 => (o + v) % 2 ^ w
  | 1 => o &&& v
  | 2 => o ||| v
  | 3 => o ^^^ v
  | 4 => if sint w o ≤ sint w v then o else v
  | 5 => if sint w o ≤ sint w v then v else o
  | 6 => min o v
  | 7 => max o v
  | 8 => v
  | 9 => if o = c then v else o
  | _ =>
    let f := if w = 64 then fp64 else fp32
    roundTo f 0 ((fpVal f o).add false (fpVal f v))

/-- New bytes of a read-modify-write at a location, and its old number. -/
def State.rmwAt (s : State) (o : MemOp) (l : Nat) : Nat × List Byte :=
  let w := 8 * o.bytes
  let old := s.loadNat l o.bytes
  (old, natBytes o.bytes (rmw o.aop w old (o.data.toNat % 2 ^ w) (o.cmp.toNat % 2 ^ w)))

/-! ## Effects -/

/-- The same location in the mirror of a primary twin's TCM, or of the scratchpad of its cluster (R409, R410). -/
def State.mirrorLoc (s : State) (l : Nat) : Option Nat :=
  let mateOf (q : Nat) : Option Nat := match (s.core q).place with
    | some pl => if pl.twin = 1 then some pl.mate else none
    | none => none
  if 2 ^ 48 ≤ l ∧ l < 2 ^ 49 then
    (mateOf ((l - 2 ^ 48) / 2 ^ 17)).map fun m => tcmBase m + (l - 2 ^ 48) % 2 ^ 17
  else if 2 ^ 49 ≤ l ∧ l < 2 ^ 50 then
    let n := (l - 2 ^ 49) / 2 ^ 20
    ((List.range 8).findSome? fun i => mateOf (8 * n + i)).map fun m => cspBase (cluOf m) + (l - 2 ^ 49) % 2 ^ 20
  else none

/-- Traffic that arrives at a logical core reaches both twins (R410). -/
def State.writeRouted (s : State) (p l : Nat) (bs : List Byte) (rs : Bool) (full : Option Bool) : State :=
  let s1 := s.writeMem p l bs rs full
  match s.mirrorLoc l with
  | some m => s1.writeMem p m bs false full
  | none => s1

/-- The address leads through the routers: it is not the own TCM or CSP by kinds 0 and 1 (R86). -/
def remoteVa (va : Word) : Bool :=
  decide (va.toNat < aperture) || decide (2 ≤ (va.toNat - aperture) / 2 ^ 37)

/-- A store of an operation, by way of the routers or not. -/
def State.opWrite (s : State) (p : Nat) (o : MemOp) (l : Nat) (bs : List Byte) (rs : Bool) (full : Option Bool) : State :=
  if remoteVa o.va then s.writeRouted p l bs rs full else s.writeMem p l bs rs full

/-- Some of an operation goes by way of the routers: a block store writes its scale apart from its codes (R86, R260). -/
def MemOp.routed (o : MemOp) : Bool := remoteVa o.va || (decide (o.kind = .mxq) && remoteVa o.sva)

/-- All of an operation goes by way of the routers. -/
def MemOp.allRouted (o : MemOp) : Bool := remoteVa o.va && (decide (o.kind ≠ .mxq) || remoteVa o.sva)

/-- FECLR at a location (R273): a store that leaves the data. -/
def State.clearFull (s : State) (p l : Nat) (rs routed : Bool) : State :=
  let s1 := (s.logUndo p l 8).setFull l false
  let s2 := if rs then s1.markStale l 8 else s1
  match s.mirrorLoc l with
  | some m => if routed then s2.setFull m false else s2
  | none => s2

/-- RS of the page that a block's scale lies in, with its location. -/
def State.scaleLoc (s : State) (p : Nat) (o : MemOp) : Nat × Bool :=
  match s.reachAs (s.opWho p o) o.sva 1 true with
  | .loc l rs _ => (l, rs)
  | _ => (0, false)

/-- The full-empty bit of a word as a load of a strand sees it: full by its own latest store in flight that sets it, or as it is in memory (R111). -/
def State.seenFull (s : State) (p : Nat) (o : MemOp) (l : Nat) : Bool :=
  s.isFull l || (s.core p).ops.any fun x => x.strand = o.strand && decide (x.id < o.id) && x.kind = .stf &&
    (s.opLoc p x).any fun y => decide (plain y / 8 = plain l / 8)

/-- The effect of an operation at its location, and the number that it returns. -/
def State.effect (s : State) (p : Nat) (o : MemOp) (l : Nat) (rs : Bool) : State × Nat :=
  match o.kind with
  | .load => (s, if o.ferd then (if s.seenFull p o l then 1 else 0) else (extend o.sz (s.seen p o l)).toNat)
  | .lds => (s, (extend o.sz (s.seen p o l)).toNat)
  | .table => (s, s.seen p o l)
  | .acc => (s.writeMem p l (natBytes 8 o.data.toNat) false none, 0)
  | .store => (s.opWrite p o l (natBytes o.bytes o.data.toNat) rs none, 0)
  | .stf => (s.opWrite p o l (natBytes o.bytes o.data.toNat) rs (some true), 0)
  | .feclr => (s.clearFull p l rs (remoteVa o.va), 0)
  | .mxq =>
    let (m, rs2) := s.scaleLoc p o
    ((s.opWrite p o l o.codes rs (some true)).opWrite p { o with va := o.sva } m [o.scale] rs2 (some true), 0)
  | _ =>
    let (old, bs) := s.rmwAt o l
    (s.opWrite p o l bs rs none, (extend o.sz old).toNat)

/-- A word of a DTLD's image has been loaded; the last one changes the table (R152, R256). -/
def Core.loadTable (c : Core) (o : MemOp) (v : Nat) : Core :=
  match c.loading with
  | none => c
  | some t =>
    let ws := put o.elem (BitVec.ofNat 64 v) t.words
    if ws.length < 128 then { c with loading := some { t with words := ws } }
    else
      let tb := tableOfImage (ws.flatMap fun w => natBytes 8 w.2.toNat)
      { c with loading := none, table := tb, v8 := tableV8 tb, v4 := tableV4 tb }

/-- The last load of a DTLD is not performed before its cycle (R255). -/
def Core.tableEarly (c : Core) (o : MemOp) : Bool :=
  o.kind = .table && c.loading.any fun t => decide (127 ≤ t.words.length) && decide (c.cycle < t.due)

/-- The operation is performed: its register part lands, once older writes of its word have and its row is not locked (R68, R73), a watchpoint may
report, an LDS is done and keeps what it loaded for the end of its wait. -/
def State.finishOp (s : State) (p : Nat) (o : MemOp) (v : Nat) : State :=
  let s1 := s.dropOp p o
  let s2 := match o.row with
    | some r => if o.kind = AccKind.lds then s1
      else s1.writeRowAs o.id p r 1 (rowMask o.bit o.width) (BitVec.ofNat 512 (v % 2 ^ o.width * 2 ^ o.bit))
    | none => s1
  let s3 := if o.kind = .table then s2.modCore p fun c => c.loadTable o v else s2
  (s3.wpReport p o).endLds p o 0 (BitVec.ofNat 64 v)

/-- The number by which a deferred effect of a strand stands in issue order. -/
def Deferred.ord (d : Deferred) : Option Nat :=
  match d with
  | .store o _ _ => o.map (·.id)
  | .rmw o _ => some o.id
  | .msix _ => none
  | .send m => some m.ord

/-- A deferred effect takes its place in issue order (R421). -/
def Deferred.insert (d : Deferred) : List Deferred → List Deferred
  | [] => [d]
  | e :: r => match d.ord, e.ord with
    | some a, some b => if a < b then d :: e :: r else e :: d.insert r
    | _, _ => e :: d.insert r

/-- An effect of core `p` is deferred; none where its buffer is full (R421, R422). -/
def State.defer (s : State) (p : Nat) (d : Deferred) : Option State :=
  if (s.core p).exch.deferred.length < 64 then
    some (s.modCore p fun c => { c with exch := { c.exch with deferred := d.insert c.exch.deferred } })
  else none

/-- An effect that overflows the deferred buffer takes place at once, and the superstep is unprotected (R422). -/
def State.overflowed (s : State) (p : Nat) : State := s.modCore p fun c => { c with exch := { c.exch with unprot := true } }

/-- In rollback mode a store to host memory leaves the parcel: it is deferred, or performed at once when the buffer is full
(R421, R422). -/
def State.deferOp (s : State) (p : Nat) (o : MemOp) (l : Nat) (rs : Bool) : Option State :=
  if s.rollbackMode p && o.kind.writes then
    let d : Deferred := match o.kind with
      | .atomic => .rmw o l
      | .reduction => .rmw o l
      | _ => .store (some o) l (natBytes o.bytes o.data.toNat)
    match (s.dropOp p o).defer p d with
    | some s1 => some s1
    | none => let (s1, v) := s.effect p o l rs; some ((s1.finishOp p o v).overflowed p)
  else none

/-- The last word of a full row store clears the poison of the TCM stripe that it covers, and of its mirror (R410, R416). -/
def State.wholeRow (s : State) (p : Nat) (o : MemOp) (l : Nat) : State :=
  if o.whole && decide (2 ^ 48 ≤ l) && decide (l < 2 ^ 49) && !(((s.core p).ops ++ (s.core p).snagOps).any (·.id = o.id)) then
    let s1 := s.cleanse (l / 64 * 64) 64
    match s.mirrorLoc (l / 64 * 64) with
    | some m => if remoteVa o.va then s1.cleanse m 64 else s1
    | none => s1
  else s

/-- The address is in the own scratchpad (R86). -/
def ownCsp (va : Word) : Bool := decide (aperture ≤ va.toNat) && decide ((va.toNat - aperture) / 2 ^ 37 = 1)

/-- Instructions' accesses in flight to another word of the scratchpad bank of a location: each may lose to the access that is performed there (R80,
R82). -/
def State.cspRivals (s : State) (p l : Nat) : Nat :=
  ((List.range 8).flatMap fun j => (s.core (cluOf p * 8 + j)).ops.filter fun o => ownCsp o.va &&
    (s.opLoc (cluOf p * 8 + j) o).any fun m => m / 8 ≠ l / 8 && m / 8 % 32 = l / 8 % 32).length

/-- The scratchpad stripe of a location waits for its turn in a rebuild: 4,096 stripes of 32 words, in ascending order (R80, R414). -/
def State.cspStale (s : State) (clu l : Nat) : Bool :=
  decide ((s.cluster clu).cspState = 1) && decide ((s.cluster clu).cspProg ≤ (l - cspBase clu) / 256)

/-- CLU_CSPSLIP rises by the slips of the accesses that lose to one of an instruction: how many of them ask for the bank in its cycle is a free value
(R82; log entry 53); and by the extra cycle of an instruction's read of a stripe that its rebuild has not reached, once for its last word there (R414). -/
def State.cspLoss (s : State) (p : Nat) (o : MemOp) (l : Nat) : State :=
  let n := s.cspRivals p l
  let own (x : MemOp) : Bool := x.id = o.id && ownCsp x.va
  let extra : Nat := if o.kind.reads && s.cspStale (cluOf p) l && !(s.core p).ops.any own then 1 else 0
  if ownCsp o.va && decide (0 < n + extra) then
    s.drawn.modCluster (cluOf p) fun c => { c with cspslip := c.cspslip + BitVec.ofNat 64 (s.freeWord.toNat % (n + 1) + extra) }
  else s

/-- Perform an operation at its location. -/
def State.perform (s : State) (p : Nat) (o : MemOp) (l : Nat) (rs host : Bool) : State :=
  match (if host then s.deferOp p o l rs else none) with
  | some s1 => s1
  | none => let (s1, v) := s.effect p o l rs; ((s1.finishOp p o v).wholeRow p o l).cspLoss p o l

/-! ## Pairs (R410) -/

/-- The mixing step of the closure hash (R410). -/
def closureHash (l : List Word) : Word := l.foldl (fun h w => srMix (h ^^^ w)) 0

/-- The hash of a memory message: a header of what it asks for, its address and its data. -/
def MemOp.hash (o : MemOp) : Word :=
  closureHash [BitVec.ofNat 64 (o.kind.code + o.sz * 8 + o.aop * 64 + o.ord * 1024 + o.elem * 65536), o.va, o.data, o.cmp,
    BitVec.ofNat 64 (leNat o.codes), o.sva, o.scale.zeroExtend 64]

/-- The twins of a core's pair: primary and shadow. -/
def State.pairOf (s : State) (p : Nat) : Option (Nat × Nat) :=
  match (s.core p).place with
  | none => none
  | some pl => if pl.twin = 1 then some (p, pl.mate) else if pl.twin = 2 then some (pl.mate, p) else none

/-- A twin's hash arrives at the closure router: it completes the pair's entry or opens one (R410). None when this twin's
hash of the message is there already. -/
def postClosure (shadow : Bool) (x : Closure) (h : Word) (id : Nat) : List Closure → Option (List Closure)
  | [] => some [if shadow then { x with hashS := some h, idS := id } else { x with hashP := some h, idP := id }]
  | y :: r =>
    if y.primary = x.primary ∧ y.kind = x.kind ∧ y.strand = x.strand ∧ y.pc = x.pc ∧ y.elem = x.elem then
      if shadow then
        if y.hashS = none then some ({ y with hashS := some h, idS := id } :: r)
        else if y.idS = id then none
        else (postClosure shadow x h id r).map (y :: ·)
      else
        if y.hashP = none then some ({ y with hashP := some h, idP := id, msg := x.msg, xfer := x.xfer, eng := x.eng } :: r)
        else if y.idP = id then none
        else (postClosure shadow x h id r).map (y :: ·)
    else (postClosure shadow x h id r).map (y :: ·)

/-- A twin posts an operation that goes through the closure router. -/
def State.postOp (s : State) (primary shadow p : Nat) (o : MemOp) : Option State :=
  let x : Closure := { primary := primary, kind := .op, strand := o.strand, pc := o.pc, elem := o.elem, msg := none,
                       xfer := none, eng := none, hashP := none, hashS := none, idP := 0, idS := 0, since := s.now,
                       stops := s.stopTicks primary }
  (postClosure (decide (p = shadow)) x o.hash o.id s.closures).map fun l => { s with closures := l }

/-! ## Charges of accesses (R10, R358, R383) -/

/-- Mesh column of a core. -/
def meshX (p : Nat) : Nat := 40 * (dieOf p % 2) + colOf p

/-- Mesh row of a core. -/
def meshY (p : Nat) : Nat := 32 * (dieOf p / 2) + rowOf p

/-- Distance of two numbers. -/
def gap (a b : Nat) : Nat := (a - b) + (b - a)

/-- Router hops of the shortest path between two cores. -/
def hops (p q : Nat) : Nat := gap (meshX p) (meshX q) + gap (meshY p) (meshY q)

/-- Distance of a number from a range of `n` from `a`. -/
def gapTo (x a n : Nat) : Nat := (a - x) + (x + 1 - (a + n))

/-- Router hops from a core to the nearest core of a die. -/
def dieHops (p d : Nat) : Nat := gapTo (meshX p) (40 * (d % 2)) 40 + gapTo (meshY p) (32 * (d / 2)) 32

/-- The charge of an access of `n` bytes at a location by an agent of core `p` (R383). -/
def State.accessCharge (s : State) (p l n : Nat) : Nat :=
  let l := plain l
  let u := (n + 63) / 64
  let near (l : List Nat) : Nat := l.foldl (fun m x => min m x) 1000
  if 2 ^ 48 ≤ l ∧ l < 2 ^ 49 then u * (s.charge p 4 + hops p ((l - 2 ^ 48) / 2 ^ 17) * s.charge p 8)
  else if 2 ^ 49 ≤ l ∧ l < 2 ^ 50 then
    let c := (l - 2 ^ 49) / 2 ^ 20
    let d := if c = cluOf p then 0 else near ((List.range 8).map fun i => hops p (8 * c + i))
    u * (s.charge p 5 + d * s.charge p 8)
  else if l < 2 ^ 39 then u * (s.charge p 7 + hops p (l / 2 ^ 26) * s.charge p 8)
  else if l < 2 ^ 40 then u * (s.charge p 6 + dieHops p (locDie l) * s.charge p 8)
  else (n + 255) / 256 * s.charge p 15

/-! ## MEMORY_ACCESS_PERFORMED -/

/-- The operation in flight with a number and an element. -/
def Core.opAt (c : Core) (id elem : Nat) : Option MemOp := c.ops.find? fun o => o.id = id && o.elem = elem

/-- The kinds whose reads consume poisoned data (R417). -/
def AccKind.consumes : AccKind → Bool
  | .load => true
  | .lds => true
  | .atomic => true
  | .table => true
  | _ => false

/-- What holds an operation back at its location but its charge: poison (the read is a consumption), a host link that is down, an empty
word under an LDS, or the end of a DTLD that is too early. -/
def State.opClear (s : State) (p : Nat) (o : MemOp) (l : Nat) (host : Bool) : Bool :=
  !(o.kind.consumes && s.poisoned l o.bytes) && (!host || s.hostUp) && (o.kind ≠ .lds || s.seenFull p o l) &&
    !(s.core p).tableEarly o

/-- An operation may be performed at its location: nothing holds it back, and its hawk holds its charge (R358). -/
def State.mayPerform (s : State) (p : Nat) (o : MemOp) (l : Nat) (host : Bool) : Bool :=
  s.opClear p o l host && s.canPay p (s.accessCharge p l o.bytes)

/-- An operation that is ready, reaches its memory and may be performed there. -/
def State.opGo (s : State) (p : Nat) (o : MemOp) : Option (Nat × Bool × Bool) :=
  if s.opReady p o then
    match s.access p o with
    | .loc l rs host => if s.mayPerform p o l host then some (l, rs, host) else none
    | _ => none
  else none

/-- MEMORY_ACCESS_PERFORMED: an operation in flight is performed, or its fault becomes a ring entry (R113, R266). A twin's
operation that goes through the routers waits there for the other twin (R410); so does every LDS of a pair, which both end
together (R412). -/
def execMemoryAccessPerformed (core id elem : Nat) (s : State) : Host.Outcome State Fault Refusal :=
  match (s.core core).opAt id elem with
  | none => .fault .notEnabled
  | some o =>
    if !s.opReady core o then .fault .notEnabled
    else
      match s.access core o with
      | .fault c => .next (s.snagOp core o c)
      | .loc l rs host =>
        if !s.mayPerform core o l host then .fault .notEnabled
        else
          (match (if o.routed || o.kind = .lds then s.pairOf core else none) with
          | none => .next ((s.pay core 0 (s.accessCharge core l o.bytes)).perform core o l rs host)
          | some (a, b) =>
            (match s.postOp a b core o with
            | some s1 => .next s1
            | none => .fault .notEnabled))
      | _ => .fault .notEnabled

/-- The operation whose effect is deferred. -/
def Deferred.op (d : Deferred) : Option MemOp :=
  match d with
  | .store o _ _ => o
  | .rmw o _ => some o
  | _ => none

/-- A deferred effect on host memory, by the program-order number and element of its operation. -/
def Core.deferredOp (c : Core) (id elem : Nat) : Option MemOp :=
  (c.exch.deferred.filterMap (·.op)).find? fun o => decide (o.id = id) && decide (o.elem = elem)

/-- The deferred effects of a core are due: the next datum waits for them, or the end of the core's instance (R420, R421). -/
def State.releaseDue (s : State) (p : Nat) : Bool :=
  match s.instOf p with
  | some (n, i) => i.enter.any (decide <| · ≤ s.now) || (s.instCores n).all fun q => (s.core q).ended
  | none => false

/-- A deferred effect leaves its core's buffer. -/
def State.undefer (s : State) (p : Nat) (o : MemOp) : State :=
  s.modCore p fun c => { c with exch := { c.exch with deferred := c.exch.deferred.filter fun d => d.op ≠ some o } }

/-- HOST_ACCESS_TIMEOUT: an access to host memory that the link, which is down, has not served within 50 µs becomes a ring entry with cause 7, once
the ring has room for one that waits for it (R434, R448); so does a deferred effect that is due (R421). -/
def execHostAccessTimeout (core id elem : Nat) (s : State) : Host.Outcome State Fault Refusal :=
  match (s.core core).opAt id elem with
  | none => (match (s.core core).deferredOp id elem with
    | none => .fault .notEnabled
    | some o => if s.hostUp ∨ s.now < o.since + hostLimit ∨ !s.releaseDue core then .fault .notEnabled
      else .next ((s.undefer core o).snagOp core o 7))
  | some o =>
    match s.access core o with
    | .loc _ _ true =>
      if s.hostUp ∨ s.now < o.since + hostLimit ∨ (o.parked ∧ ((s.core core).freeRun (o.snagEntries 7 0).length).isNone) then .fault .notEnabled
      else .next (s.snagOp core o 7)
    | _ => .fault .notEnabled

/-! ## PAGE_WALK (R99, R100) -/

/-- The virtual address of an operation that no TLB holds: of its codes, or else of its scale. -/
def State.missAddr (s : State) (p : Nat) (o : MemOp) : Option Word :=
  if o.straddle then none
  else if s.reachAs (s.opWho p o) o.va o.bytes o.kind.writes = .miss then some o.va
  else if o.kind = .mxq ∧ s.reachAs (s.opWho p o) o.sva 1 true = .miss then some o.sva
  else none

/-- The accesses of a partition on a die that no TLB serves for a page: they share one walk (R100). -/
def State.walkers (s : State) (d part page : Nat) : List (Nat × MemOp) :=
  (s.cores.filter fun c => dieOf c.1 = d && (c.2.place.any fun pl => pl.part = part)).flatMap fun c =>
    (c.2.ops.filter fun o => (s.missAddr c.1 o).any fun a => a.toNat / 4096 = page).map fun o => (c.1, o)

/-- An access that waited on a walk meets its fault, where it has not left its core as part of another's entry (R434). -/
def State.walkFault (s : State) (x : Nat × MemOp) : State :=
  match (s.core x.1).opAt x.2.id x.2.elem with
  | some o => s.snagOp x.1 o 9
  | none => s

/-- PAGE_WALK: a walk for an operation ends with a translation, or with a fault against every access that waits on its page (R100). -/
def execPageWalk (core id elem : Nat) (s : State) : Host.Outcome State Fault Refusal :=
  match (s.core core).opAt id elem, (s.core core).place with
  | some o, some pl =>
    (match s.missAddr core o with
    | none => .fault .notEnabled
    | some va =>
      (match s.walk (s.rootOf pl.ctx) va.toNat with
      | .fault => .next ((s.walkers (dieOf core) pl.part (va.toNat / 4096)).foldl State.walkFault s)
      | .leaf e log =>
        .next (s.install core { part := pl.part, va := va.toNat / 2 ^ log * 2 ^ log, log := log, leaf := e })))
  | _, _ => .fault .notEnabled

/-- A translation leaves a TLB: how long it stays is not defined (R99). -/
def State.evictTlb (s : State) (lvl unit idx : Nat) : State :=
  match lvl with
  | 0 => s.modCore unit fun c => { c with utlb := c.utlb.eraseIdx idx }
  | 1 => s.modCluster unit fun c => { c with tlb := c.tlb.eraseIdx idx }
  | _ => s.modDie unit fun d => { d with tlb := d.tlb.eraseIdx idx }

/-! ## SNAG_TIMEOUT (R436) -/

/-- Ticks that an entry has been pending while its core was not stopped (R436). -/
def State.snagAge (s : State) (p : Nat) (g : Snag) : Nat := s.now - g.made - (s.stopTicks p - g.stops)

/-- SNAG_TIMEOUT: a pending entry that has reached its limit fails with its own cause (R436). -/
def execSnagTimeout (core idx : Nat) (s : State) : Host.Outcome State Fault Refusal :=
  match (s.core core).snagAt idx with
  | none => .fault .notEnabled
  | some g =>
    if s.snagAge core g < max (s.core core).sup.snagto 1000 ∨ (s.core core).stop.isSome then .fault .notEnabled
    else .next ((s.failSnag core g g.cause).modCore core fun c =>
      { c with sup := { c.sup with tout := min (c.sup.tout + 1) 65535 } })

/-! ## WAIT_COMPLETION and WAIT_EXPIRY (R277 to R283, R412) -/

/-- The other twin's wait of the same strand. -/
def State.mateWait (s : State) (p k : Nat) : Option (Nat × Wait) :=
  match (s.core p).place with
  | none => none
  | some pl =>
    if pl.twin = 0 then none
    else
      match (s.strand pl.mate k).wait with
      | none => none
      | some w => some (pl.mate, w)

/-- The primary's event mask is the shadow's too (R412). -/
def shareSleep (a b : Wait) : Wait :=
  match a.kind, b.kind with
  | .sleep m seen, .sleep _ _ => { b with kind := .sleep m seen }
  | _, _ => b

/-- The arbiter's mask of a FENCE of a pair: the classes that are drained on both twins, of which `a` and `b` hold the waits (R412). -/
def State.decided (s : State) (p q k : Nat) (a b w : Wait) : Wait :=
  match w.kind with
  | .fence mask scope upto _ =>
    let pr := match s.pairOf p with
      | some (x, _) => if p = x then (p, q) else (q, p)
      | none => (p, q)
    { w with kind := .fence mask scope upto (some (s.fenceMask pr.1 k a &&& s.fenceMask pr.2 k b)) }
  | _ => w

/-- WAIT_COMPLETION: a wait whose condition holds ends; the waits of a pair end together, once both twins have reported. -/
def execWaitCompletion (core strand : Nat) (s : State) : Host.Outcome State Fault Refusal :=
  match (s.strand core strand).wait with
  | none => .fault .notEnabled
  | some w =>
    if (s.core core).stop.isSome then .fault .notEnabled
    else
      match s.waitStatus core strand w with
      | none => .fault .notEnabled
      | some st =>
        if s.paired core then
          match s.mateWait core strand with
          | none => .fault .notEnabled
          | some (m, w2) =>
            (match s.waitStatus m strand w2, s.pairOf core with
            | some st2, some (a, _) =>
              let w1 := if core = a then w else shareSleep w2 w
              let w2 := if core = a then shareSleep w w2 else w2
              .next ((s.endWait core strand w1 st).endWait m strand w2 st2)
            | _, _ => .fault .notEnabled)
        else .next (s.endWait core strand w st)

/-- The load of an LDS could be performed now, or waits for its translation in a poll: completion comes before expiry
(R279). -/
def State.ldsFirst (s : State) (p : Nat) (w : Wait) : Bool :=
  match w.kind with
  | .lds id _ _ =>
    (match (s.core p).ops.find? fun o => o.id = id with
    | none => false
    | some o => (s.opGo p o).isSome || (decide (w.deadline = 0) && (s.missAddr p o).isSome))
  | _ => false

/-- What the word of a strand of a pair posted is withdrawn from the closure router. -/
def State.dropClosures (s : State) (p k : Nat) : State :=
  match s.pairOf p with
  | none => s
  | some (a, _) =>
    { s with closures := s.closures.filter fun c =>
        !(c.kind = .op && decide (c.primary = a) && decide (c.strand = k) && decide (c.pc = (s.strand p k).pc)) }

/-- WAIT_EXPIRY: a wait reaches its deadline before its condition holds (R279); in a pair, before both twins have reported
(R412). -/
def execWaitExpiry (core strand : Nat) (s : State) : Host.Outcome State Fault Refusal :=
  match (s.strand core strand).wait with
  | none => .fault .notEnabled
  | some w =>
    if (s.core core).stop.isSome ∨ !s.expired core w then .fault .notEnabled
    else if s.paired core then
      match s.mateWait core strand with
      | none => .fault .notEnabled
      | some (m, w2) =>
        if ((s.waitStatus core strand w).isSome && (s.waitStatus m strand w2).isSome) || s.endsNow core w || s.endsNow m w2 then .fault .notEnabled
        else
          let x := if core = (s.pairOf core).elim core (·.1) then (w, w2) else (w2, w)
          let f (y : Wait) : Wait := s.decided core m strand x.1 x.2 (shareSleep x.1 y)
          .next (((s.dropClosures core strand).expire core strand (f w)).expire m strand (f w2))
    else if (s.waitStatus core strand w).isSome || s.ldsFirst core w || s.endsNow core w then .fault .notEnabled
    else .next (s.expire core strand w)

/-- What a strand whose LDS has reached its deadline owes in this tick, where the load can be performed or, in a poll, still lacks its translation
(R54, R279). -/
def execLdsInTime (core strand : Nat) (s : State) : Host.Outcome State Fault Refusal :=
  match (s.strand core strand).wait with
  | none => .fault .notEnabled
  | some w =>
    if (s.core core).stop.isSome ∨ !s.expired core w ∨ !s.ldsFirst core w then .fault .notEnabled
    else
      match w.kind with
      | .lds id _ _ =>
        (match (s.core core).ops.find? fun o => o.id = id with
        | none => .fault .notEnabled
        | some o => (match execMemoryAccessPerformed core o.id o.elem s with
          | .next t => .next t
          | _ => execPageWalk core o.id o.elem s))
      | _ => .fault .notEnabled

end Sys2Proof.Machine
end

