-- ==== Sys2Proof/Machine/Checks.lean ====
section
/-! DEFINITION. Machine-check records, the kill of a tract and quarantine (R402 to R407). -/

namespace Sys2Proof.Machine

/-- What a machine-check record says beside its core: cause, unit, lane, opcode, engine opcode, address, residues (R403). -/
structure McInfo where
  cause : Nat
  unit : Nat
  lane : Nat
  op : Nat
  eop : Nat
  pc : Word
  obs : Nat
  expected : Nat
  deriving DecidableEq, Repr

/-- The four words of a machine-check record (R403). -/
def State.mcWords (s : State) (p : Nat) (m : McInfo) : Word × Word × Word × Word :=
  let c := s.core p
  let twin := match c.place with
    | some pl => if pl.twin = 2 then 1 else 0
    | none => 0
  let index := match s.instOf p with
    | some (_, i) => i.index
    | none => 0
  (BitVec.ofNat 64 (m.cause * 2 ^ 60 + m.unit * 2 ^ 56 + m.lane % 256 * 2 ^ 48 + m.op % 1024 * 2 ^ 38 +
      m.eop % 256 * 2 ^ 30 + twin * 2 ^ 13 + p % 8192),
    BitVec.ofNat 64 (m.pc.toNat % 2 ^ 57),
    BitVec.ofNat 64 (c.exch.count % 2 ^ 32 * 2 ^ 32 + index % 2 ^ 32),
    BitVec.ofNat 64 (s.now % 2 ^ 48 * 2 ^ 16 + m.obs % 32 * 2 ^ 8 + m.expected % 32))

/-- A record goes to the log of the core's die, and its plumb column's interrupt is raised; what lowers it is not given (R402, R404; log entry
72). -/
def State.mcLog (s : State) (p : Nat) (m : McInfo) : State :=
  s.modDie (dieOf p) fun d =>
    { d with mclog := put (d.mccount % 4096) (s.mcWords p m) d.mclog, mccount := (d.mccount + 1) % 2 ^ 32, mcirq := true }

/-- The running instances of a tract. -/
def State.tractInsts (s : State) (t : Nat) : List Nat :=
  (s.insts.filter fun i => i.2.tract = t && i.2.status.isNone).map (·.1)

/-- A tract is killed: its instances end, none is placed any more; the record of the detecting instance names the unit (R405). A
second kill changes nothing. -/
def State.killTract (s : State) (t status unit det : Nat) : State :=
  match find t s.tracts with
  | none => s
  | some tr =>
    if tr.killed.isSome then s
    else
      (s.tractInsts t).foldl (fun x i => x.endInstance i status (if i = det then unit else 0))
        (s.modTract t fun x => { x with killed := some (status, unit) })

/-- A detection of instance `n` on core `p` in a tract: the one that killed the tract, or one of the same tick, where the lower PCID's unit is
named (R406). -/
def State.noteKill (s : State) (t p status unit n : Nat) (first : Bool) : State :=
  match find t s.tracts with
  | none => s
  | some tr =>
    if first then s.modTract t fun x => { x with killer := some (s.now, p) }
    else match tr.killer with
    | some (u, q) =>
      if u = s.now then
        let s1 := s.modInst n fun i => if i.status = some status ∧ (i.unit = 0 ∨ p < q) then { i with unit := unit } else i
        if p < q then s1.modTract t fun x => { x with killed := some (status, unit), killer := some (u, p) } else s1
      else s
    | none => s

/-- The tract of the instance that a core runs is killed. -/
def State.killTractOf (s : State) (p status unit : Nat) : State :=
  match s.instOf p with
  | some (n, i) =>
    let first := match find i.tract s.tracts with
      | some tr => tr.killed.isNone
      | none => false
    (s.killTract i.tract status unit n).noteKill i.tract p status unit n first
  | none => s.modCore p fun c => c.halted.discardCmds

/-- The remap entry that names a core takes a state (R50). -/
def State.setRemapState (s : State) (p st : Nat) : State :=
  { s with parts := s.parts.map fun x =>
      (x.1, { x.2 with remap := x.2.remap.map fun e => (e.1, if e.2.pcid = p ∧ e.2.valid then { e.2 with state := st } else e.2) }) }

/-- A unit of the core is newly quarantined: no test of it has passed (R407; DEDUCED, log entry 73). -/
def Health.untested (h : Health) : Health := if h.test then h else { h with result := 0 }

/-- A core is quarantined (R406). -/
def State.quarCore (s : State) (p : Nat) : State :=
  (s.modCore p fun c => { c with health := { c.health.untested with qc := true } }).setRemapState p 2

/-- A core's router is quarantined (R406). -/
def State.quarRouter (s : State) (p : Nat) : State :=
  s.modCore p fun c => { c with health := { c.health.untested with qr := true } }

/-- A matrix command of a quarantined array ends: STATUS 3 when it had not started, 9 when it had (R406). -/
def Cmd.quarantined (m : Cmd) : Cmd :=
  match m.phase with
  | .finished => m
  | .completing _ _ => m
  | _ => m.cut (if m.started then 9 else 3)

/-- The generations of the plane units of a residency rise (R322). -/
def Cluster.raiseGen (c : Cluster) (mask : Nat) : Cluster :=
  (bitsSet 16 mask).foldl (fun x u => { x with unitGen := put u ((look 0 u x.unitGen + 1) % 16) x.unitGen }) c

/-- A cluster's matrix array is quarantined: its commands end, its residencies are freed (R406). -/
def State.quarArray (s : State) (n : Nat) : State :=
  let s1 := s.modCluster n fun c =>
    { (c.residencies.foldl (fun x r => x.raiseGen r.mask) c) with residencies := [], qa := true }
  (List.range 8).foldl (fun x j => x.modCore (8 * n + j) fun c =>
    { c.mapCmds (fun q => q.eng = 1) Cmd.quarantined with health := c.health.untested }) s1

/-- A core runs no further word, and the late writes of a failing word are discarded (R402). -/
def State.stopCheck (s : State) (p id : Nat) : State :=
  s.modCore p fun c => { c with late := c.late.filter fun l => l.id ≠ id, ops := c.ops.filter fun o => o.id ≠ id }

end Sys2Proof.Machine
end

