-- ==== Sys2Proof/Machine/Sync.lean ====
section
/-! DEFINITION. The ordering and waiting group (R284 to R300): one meaning for each word; delivery of messages and release of
barriers. -/

namespace Sys2Proof.Machine

/-! ## FENCE (R125, R126) -/

/-- FENCE: it marks the loads before it and waits for the classes of its mask (R119, R126). -/
def execFence (h : Hdr) (d b classes : BitVec 8) (scope : BitVec 3) (wall : BitVec 1) (s : State) :
    Host.Outcome State Fault Refusal :=
  runWord h (specWait [dS d, bS b]) (fun p k s =>
    let id := s.curId p
    (s.modCore p fun c => c.markFence k id).startWait p k (.fence classes.toNat scope.toNat id none) (s.rS p k 2 b) wall
      (some (s.destOf p k 0 d)) h) s

/-! ## Barriers (R286 to R292) -/

/-- Strand state trap of group 0 (R287, R288, R291). -/
def groupZero (g : BitVec 2) : Nat → Nat → State → Verdict := fun _ _ s => trapWhen (decide (g = 0)) (s.wordTrap 3)

/-- The physical core of a parcel-relative core (R49). -/
def State.relCore (s : State) (i : Instance) (r : Nat) : Nat :=
  match find i.part s.parts with
  | some pt => (look Remap.none (i.base + r) pt.remap).pcid
  | none => 0

/-- All the listed parcel-relative cores lie on one die. -/
def State.oneDie (s : State) (i : Instance) (l : List Nat) : Bool :=
  match l with
  | [] => true
  | r :: rest => rest.all fun q => dieOf (s.relCore i q) = dieOf (s.relCore i r)

/-- Change the BWAITs of a core on group `g` that have not ended: `f` takes the tick of release and answers the new tick and status. -/
def Core.mapBwaits (c : Core) (g : Nat) (f : Option Nat → Option Nat × Option Nat) : Core :=
  { c with strands := c.strands.map fun t => match t.2.wait with
    | some w => (match w.kind with
      | .bwait g' due none =>
        if g' = g then (t.1, { t.2 with wait := some { w with kind := .bwait g' (f due).1 (f due).2 } }) else t
      | _ => t)
    | none => t }

/-- The BWAITs of a core on a group whose phase has just completed will be released at a tick (R286). -/
def Core.dueBwaits (c : Core) (g tick : Nat) : Core := c.mapBwaits g fun d => (some (d.getD tick), none)

/-- The BWAITs of a core on a group that are due at a tick are released with status 0. -/
def Core.releaseBwaits (c : Core) (g tick : Nat) : Core := c.mapBwaits g fun d => (d, if d = some tick then some 0 else none)

/-- A BWAIT of a core on a group that has not ended has a release tick for which the test holds. -/
def Core.anyBwait (c : Core) (g : Nat) (f : Option Nat → Bool) : Bool :=
  c.strands.any fun t => match t.2.wait with
    | some w => (match w.kind with
      | .bwait g' due none => g' = g && f due
      | _ => false)
    | none => false

/-- A BWAIT of a core on a group is due at a tick. -/
def Core.hasDue (c : Core) (g tick : Nat) : Bool := c.anyBwait g fun d => d = some tick

/-- A BWAIT of a core waits on a group. -/
def Core.waitsOn (c : Core) (g : Nat) : Bool := c.anyBwait g fun _ => true

/-- Change every core of an instance. -/
def State.modInstCores (s : State) (n : Nat) (f : Core → Core) : State :=
  (s.instCores n).foldl (fun x p => x.modCore p f) s

/-- A core arrives at group `g`, from 1 to 3: the last arrival completes the phase (R286). -/
def State.arriveGroup (s : State) (n : Nat) (i : Instance) (g r k : Nat) : State :=
  let x := i.group g
  let arr := addNat r x.arr
  let due := s.now + (if s.oneDie i x.members then 8 else 24)
  if x.members.all arr.contains then
    let y := { x with arr := [], arrBy := [], done := x.members, phase := x.phase + 1,
                      release := x.release ++ [due] }
    (s.modInst n fun j => j.setGroup g y).modInstCores n fun c => c.dueBwaits g due
  else s.modInst n fun j => j.setGroup g { x with arr := arr, arrBy := put r k x.arrBy }

/-- The result of a word that the pair's primary decides: status and the state after it. -/
def State.pairStatus (s : State) (p k status : Nat) (after : State) : Option (Nat × State) :=
  if s.isShadow p then (s.twinValue p k 0).map fun x => (x.1.toNat, x.2)
  else (after.twinValue p k (BitVec.ofNat 64 status)).map fun x => (x.1.toNat, x.2)

/-- BARR (R287): status and state. -/
def State.barr (s : State) (p k g : Nat) : Nat × State :=
  match s.instOf p with
  | none => (7, s)
  | some (n, i) =>
    let x := i.group g
    let r := s.relOf p
    if x.bound = false ∨ !x.members.contains r then (7, s)
    else if x.arr.contains r then (8, s)
    else (0, s.arriveGroup n i g r k)

/-- A word that writes a status of the barrier network. -/
def statusWord (h : Hdr) (d : BitVec 8) (pre : Nat → Nat → State → Verdict) (f : Nat → Nat → State → Nat × State)
    (s : State) : Host.Outcome State Fault Refusal :=
  runWord h { specX [dS d] 1 with pre := pre } (fun p k s =>
    let (st, s1) := f p k s
    match s.pairStatus p k st s1 with
    | some (v, s2) => .done (s2.wS p k 1 d (BitVec.ofNat 64 v))
    | none => .hold) s

/-- In this tick a reconfiguration of the core's group has been applied, or with `gone` a withdrawal: what the network applies before them
within a tick issues in a later one (R286; log entry 48). -/
def State.groupTurned (s : State) (p g : Nat) (gone : Bool) : Bool :=
  match s.instOf p with
  | none => false
  | some (_, i) => ((i.group g).config.map (·.1)) = some s.now || (gone && (i.group g).gone = some s.now)

/-- BARR registers the core's arrival (R287). -/
def execBarr (h : Hdr) (d : BitVec 8) (g : BitVec 2) (s : State) : Host.Outcome State Fault Refusal :=
  statusWord h d (holdIf (fun p s => s.groupTurned p g.toNat true) (groupZero g)) (fun p k s => s.barr p k g.toNat) s

/-- What a BWAIT finds at its issue: 0 nothing to wait on, 1 a phase that it consumes, 2 an arrival to wait for (R288). -/
def State.bwaitCase (s : State) (p g : Nat) : Nat :=
  match s.instOf p with
  | none => 0
  | some (_, i) =>
    let x := i.group g
    let r := s.relOf p
    if x.done.contains r then 1 else if x.arr.contains r then 2 else 0

/-- A core's DONE of a group is consumed. -/
def State.consumeDone (s : State) (p g : Nat) : State :=
  match s.instOf p with
  | none => s
  | some (n, i) =>
    let x := i.group g
    s.modInst n fun j => j.setGroup g { x with done := delNat (s.relOf p) x.done }

/-- The wait of a BWAIT as a shadow takes it over from its primary, which began it first. -/
def State.primaryKind (s : State) (p k g : Nat) : WaitKind :=
  match s.pairOf p with
  | some (a, b) =>
    if p = b then
      match (s.strand a k).wait with
      | some w => (match w.kind with
        | .bwait g' due e => if g' = g then .bwait g due e else .bwait g none none
        | _ => .bwait g none none)
      | none => .bwait g none none
    else .bwait g none none
  | none => .bwait g none none

/-- BWAIT waits on a completed phase (R288). -/
def execBwait (h : Hdr) (d : BitVec 8) (g : BitVec 2) (b : BitVec 8) (wall : BitVec 1) (s : State) :
    Host.Outcome State Fault Refusal :=
  runWord h { specWait [dS d, bS b] with pre := groupZero g } (fun p k s =>
    let c := s.bwaitCase p g.toNat
    match s.pairStatus p k c (if c = 1 then s.consumeDone p g.toNat else s) with
    | none => .hold
    | some (c, s1) =>
      let kind := if c = 2 then s1.primaryKind p k g.toNat else .bwait g.toNat none (some 0)
      s1.startWait p k kind (s1.rS p k 2 b) wall (some (s1.destOf p k 0 d)) h) s

/-- A withdrawal of the group has been applied in this tick, whatever it found: an arrival would come before it (R286). -/
def State.noteGone (s : State) (n g : Nat) : State := s.modInst n fun j => j.setGroup g { j.group g with gone := some s.now }

/-- A reconfiguration of the group by a parcel-relative core has been applied in this tick, or refused (R286, R291). -/
def State.noteConfig (s : State) (n g rel : Nat) : State := s.modInst n fun j => j.setGroup g { j.group g with config := some (s.now, rel) }

/-- The status of a BWD, by what the core's arrival has come to (R289, R36). -/
def State.bwdStatus (s : State) (p g : Nat) : Nat :=
  match s.instOf p with
  | none => 7
  | some (_, i) =>
    let x := i.group g
    let r := s.relOf p
    if g = 0 then
      match (s.core p).exch.state with
      | .compute => 7
      | .arrived => if i.x.isSome then 5 else 2
      | _ => 5
    else if x.bound = false ∨ !x.members.contains r then 7
    else if x.arr.contains r then 2
    else if x.done.contains r then 5
    else 7

/-- BWD (R289, R36): status and state. -/
def State.bwd (s : State) (p g : Nat) : Nat × State :=
  match s.instOf p with
  | none => (7, s)
  | some (n, _) =>
    let r := s.relOf p
    let st := s.bwdStatus p g
    let s1 := if st ≠ 2 then s
      else if g = 0 then
        (s.modInst n fun j => { j with g0 := { j.g0 with arr := delNat r j.g0.arr } }).modInstCores n fun c =>
          if (c.place.map (·.rel)) = some r then { c with exch := { c.exch with state := .compute } } else c
      else s.withdraw p g
    (st, s1.noteGone n g)

/-- BWD withdraws an arrival (R289). -/
def execBwd (h : Hdr) (d : BitVec 8) (g : BitVec 2) (s : State) : Host.Outcome State Fault Refusal :=
  statusWord h d (holdIf (fun p s => s.groupTurned p g.toNat false) noTrap) (fun p _ s => s.bwd p g.toNat) s

/-- BSTAT (R290). -/
def State.bstat (s : State) (p g : Nat) : Word :=
  match s.instOf p with
  | none => 0
  | some (_, i) =>
    let x := i.group g
    let r := s.relOf p
    let b (v : Bool) (n : Nat) : Nat := if v then 2 ^ n else 0
    let mem := x.bound && x.members.contains r
    BitVec.ofNat 64 (x.phase % 2 ^ 16 * 2 ^ 48 + x.arr.length % 2 ^ 13 * 2 ^ 35 + x.members.length % 2 ^ 13 * 2 ^ 22 +
      b mem 2 + b (decide (g ≠ 0) && x.done.contains r) 1 + b (x.arr.contains r) 0)

/-- S[D] := a value that the shadow takes from its primary (R412). -/
def twinRead (h : Hdr) (lat : Nat) (d : BitVec 8) (f : Nat → Nat → State → Word) (s : State) :
    Host.Outcome State Fault Refusal :=
  runWord h (specX [dS d] lat) (fun p k s =>
    match s.twinValue p k (f p k s) with
    | some (v, s1) => .done (s1.wS p k lat d v)
    | none => .hold) s

/-- BSTAT writes the core's view of a group (R290, R412). -/
def execBstat (h : Hdr) (d : BitVec 8) (g : BitVec 2) (s : State) : Host.Outcome State Fault Refusal :=
  twinRead h 2 d (fun p _ s => s.bstat p g.toNat) s

/-! ### BCFG (R291, R32) -/

/-- A group is busy: a member has ARR or DONE, or a BWAIT waits (R291, R292). -/
def State.groupBusy (s : State) (n : Nat) (x : Group) (g : Nat) : Bool :=
  !x.arr.isEmpty || !x.done.isEmpty || (s.instCores n).any fun p => (s.core p).waitsOn g

/-- The dies that hold one of the listed parcel-relative cores. -/
def State.diesOf (s : State) (i : Instance) (l : List Nat) : List Nat :=
  (List.range 4).filter fun d => l.any fun r => dieOf (s.relCore i r) = d

/-- The free hardware group of a die that firmware takes: the lowest (DESIGN CHOICE: R292 and R32 say only that it is free; it shows in DIE_BCTLk and
DIE_BMASKk_w; log entry 82). -/
def Die.freeHw (d : Die) : Option Nat := (List.range 16).find? fun k => d.hw.all (·.num ≠ k)

/-- Every die of the members has a hardware group for the group, held or free (R32). -/
def State.hwRoom (s : State) (n : Nat) (i : Instance) (g : Nat) (members : List Nat) : Bool :=
  i.p < 2 || (s.diesOf i members).all fun d =>
    ((s.die d).hw.any fun x => x.inst = n && x.group = g) || (s.die d).freeHw.isSome

/-- The hardware groups of a group follow its membership (R32). -/
def State.takeHw (s : State) (n : Nat) (i : Instance) (g : Nat) (members : List Nat) : State :=
  if i.p < 2 then s
  else
    let ds := s.diesOf i members
    (List.range 4).foldl (fun x d =>
      if ds.contains d then
        x.modDie d fun y =>
          if y.hw.any fun z => z.inst = n && z.group = g then y
          else match y.freeHw with
            | some k => { y with hw := y.hw ++ [{ num := k, part := i.part, inst := n, group := g, refused := false }] }
            | none => y
      else x.modDie d fun y => { y with hw := y.hw.filter fun z => !(decide (z.inst = n) && decide (z.group = g)) }) s

/-- The instance takes its hardware groups (R32). -/
def State.takeAllHw (s : State) (n : Nat) (i : Instance) : State :=
  (List.range 4).foldl (fun x g => if (i.group g).bound then x.takeHw n i g (i.group g).members else x) s

/-- The group of an instance with a new membership, given by parcel-relative core `rel` in this tick. -/
def State.installGroup (s : State) (n : Nat) (i : Instance) (g : Nat) (members : List Nat) (rel : Nat) : State :=
  let x := i.group g
  (s.takeHw n i g members).modInst n fun j =>
    j.setGroup g { x with members := members, bound := !members.isEmpty, arr := [], arrBy := [], done := [],
                          config := some (s.now, rel) }

/-- BCFG (R291): status and state. -/
def State.bcfg (s : State) (p g : Nat) (members : List Nat) (force : Bool) : Nat × State :=
  match s.instOf p with
  | none => (7, s)
  | some (n, i) =>
    let busy := s.groupBusy n (i.group g) g
    if busy && !force then (6, s.noteConfig n g (s.relOf p))
    else if !s.hwRoom n i g members then (7, s.noteConfig n g (s.relOf p))
    else
      let s1 := if busy then s.modInstCores n fun c => c.endBwaits g 4 else s
      (0, s1.installGroup n i g members (s.relOf p))

/-- A reconfiguration of the group by a higher parcel-relative core has been applied in this tick: this one, which would come before it, issues in
a later tick (R291). -/
def State.configTurned (s : State) (p g : Nat) : Bool :=
  match s.instOf p with
  | none => false
  | some (_, i) => (i.group g).config.any fun x => decide (x.1 = s.now) && decide (s.relOf p < x.2)

/-- BCFG sets the membership of a group (R291). -/
def execBcfg (h : Hdr) (d : BitVec 8) (g : BitVec 2) (b : BitVec 8) (u : BitVec 1) (s : State) :
    Host.Outcome State Fault Refusal :=
  runWord h { specX [dS d, bS b] 1 with pre := holdIf (fun p s => s.configTurned p g.toNat) (groupZero g) } (fun p k s =>
    let va := s.rS p k 2 b
    let off := va.toNat - aperture
    let n := match s.instOf p with
      | some (_, i) => i.p
      | none => 0
    let len := 8 * ((n + 63) / 64)
    if va.toNat < aperture ∨ 2 ^ 17 < off + len ∨ off % 8 ≠ 0 ∨
        ((s.core p).inSupArea off len ∧ !(s.who p k).sup ∧ !(s.who p k).firmware) then
      .trap { cause := 8, code := 0, info := va }
    else
      if s.readHeld p k va len ∨ s.poisoned (tcmBase p + off) len then .hold
      else
        let members := bitsSet n (s.loadNat (tcmBase p + off) len)
        let (st, s1) := s.bcfg p g.toNat members (u == 1)
        match s.pairStatus p k st s1 with
        | some (v, s2) => .done (s2.wS p k 1 d (BitVec.ofNat 64 v))
        | none => .hold) s

/-- The release of a group that comes first: a phase on one die may overtake an older one on two (R286). -/
def Group.firstRelease (x : Group) : Option Nat := least x.release

/-- BARRIER_RELEASE: at its tick, a completed phase releases the BWAITs that waited on it (R286). -/
def execBarrierRelease (iid g : Nat) (s : State) : Host.Outcome State Fault Refusal :=
  match find iid s.insts with
  | none => .fault .notEnabled
  | some i =>
    match (i.group g).firstRelease with
    | none => .fault .notEnabled
    | some t =>
      if s.now < t ∨ s.partStopped i.part then .fault .notEnabled
      else
        let due := (s.instCores iid).filter fun p => (s.core p).hasDue g t
        let gone := due.map s.relOf
        .next ((s.modInst iid fun j =>
          let x := j.group g
          j.setGroup g { x with release := x.release.erase t, done := x.done.filter fun r => !gone.contains r }).modInstCores iid
            fun c => c.releaseBwaits g t)

/-! ## Messages (R293 to R296) -/

/-- The remap entry of a logical core of a partition, for traffic (R49). -/
def State.remapAt (s : State) (part l : Nat) : Remap :=
  match find part s.parts with
  | some pt => if l < pt.size then look Remap.none l pt.remap else Remap.none
  | none => Remap.none

/-- A message of strand `k` of core `p` (R293). -/
def State.newMessage (s : State) (p k : Nat) (payload : Row) (hd : Word) : Message :=
  let (part, log, inst) := match (s.core p).place with
    | some pl => (pl.part, pl.log, some pl.inst)
    | none => (64, 0, none)
  { id := s.nextId, src := p, strand := k, srcLog := log, part := part, dst := fieldNat hd 0 13, tag := fieldNat hd 16 16,
    payload := payload, ord := s.curId p, inst := inst }

/-- The destination of a message lies in the sender's instance. -/
def State.inInstance (s : State) (m : Message) : Bool :=
  match s.instOf m.src with
  | some (_, i) => decide (i.base ≤ m.dst) && decide (m.dst < i.base + i.p)
  | none => false

/-- A message goes on its way, or is deferred when it leaves a rollback-mode parcel (R421, R422). -/
def State.sendMessage (s : State) (m : Message) : State :=
  let s1 := { s with nextId := s.nextId + 1 }
  if s.rollbackMode m.src && !s.inInstance m then
    match s1.defer m.src (.send m) with
    | some s2 => s2
    | none => { s1 with messages := s1.messages ++ [m] }.overflowed m.src
  else { s1 with messages := s1.messages ++ [m] }

/-- The hash of a message: its header and payload (R410). -/
def Message.hash (m : Message) : Word :=
  closureHash (BitVec.ofNat 64 (m.dst + m.tag * 2 ^ 16 + m.srcLog * 2 ^ 32) :: (List.range 8).map (rowWord m.payload))

/-- SEND (R293): in a pair the message waits for both twins at the closure router. -/
def execSend (h : Hdr) (a b : BitVec 8) (_scope : BitVec 3) (m : BitVec 12) (s : State) : Host.Outcome State Fault Refusal :=
  runWord h (specX [aV a, bS b] 1) (fun p k s =>
    let msg := s.newMessage p k (modified m 0 (s.rV p k 1 a)) (s.rS p k 2 b)
    if (s.core p).snagOps.any (fun o => o.strand = k) ∨ 65535 < (s.ostcnt p k).1 + 1 then .hold
    else
      match s.pairOf p with
      | none => .done (s.sendMessage msg)
      | some (pr, sh) =>
        let x : Closure := { primary := pr, kind := .send, strand := k, pc := (s.strand p k).pc, elem := 0,
                             msg := if p = sh then none else some msg, xfer := none, eng := none, hashP := none, hashS := none, idP := 0,
                             idS := 0, since := s.now, stops := s.stopTicks pr }
        match postClosure (decide (p = sh)) x msg.hash (s.curId p) s.closures with
        | some l => .done { s with closures := l, nextId := s.nextId + 1 }
        | none => .hold) s

/-- RECV takes the oldest message (R295). -/
def execRecv (h : Hdr) (d a b : BitVec 8) (wall : BitVec 1) (s : State) : Host.Outcome State Fault Refusal :=
  runWord h (specWait [dV d, { aS a with src := false, dst := true }, bS b]) (fun p k s =>
    let row := (s.strand p k).wb + s.vName p k 0 d.toNat
    s.startWait p k (.recv row (s.destOf p k 1 a)) (s.rS p k 2 b) wall none h) s

/-- The cap of a core's message queue: CLU_PQCAP of its position (R348). -/
def State.queueCap (s : State) (p : Nat) : Nat := look 512 (posOf p) (s.cluster (cluOf p)).pqCap

/-- QSTAT (R296). -/
def State.qstat (s : State) (p : Nat) : Word :=
  let c := s.core p
  BitVec.ofNat 64 (min c.undel 65535 * 2 ^ 32 + s.queueCap p % 2 ^ 16 * 2 ^ 16 + c.queue.length % 2 ^ 16)

/-- QSTAT writes the state of the core's message queue (R296, R412). -/
def execQstat (h : Hdr) (d : BitVec 8) (s : State) : Host.Outcome State Fault Refusal :=
  twinRead h 2 d (fun p _ s => s.qstat p) s

/-- Queue j of a pool may take an entry (R348): `count`, minimum and cap of each queue, and the pool's size. -/
def poolRoom (pool : Nat) (j : Nat) (qs : List (Nat × Nat × Nat)) : Bool :=
  match qs[j]? with
  | none => false
  | some (n, mn, cap) =>
    let used := (qs.map fun q => q.1).sum
    let others := ((qs.zip (List.range qs.length)).filter fun q => q.2 ≠ j).map fun q => q.1.2.1 - q.1.1
    decide (n < mn) || (decide (n < cap) && decide (others.sum < pool - used))

/-- The message queue of a core may take a message (R348). -/
def State.msgRoom (s : State) (p : Nat) : Bool :=
  let cl := s.cluster (cluOf p)
  poolRoom 512 (posOf p) ((List.range 8).map fun j =>
    ((s.core (8 * cluOf p + j)).queue.length, look 64 j cl.pqMin, look 512 j cl.pqCap))

/-- A message enters the queue of a core, which wakes its sleepers (R213, R293). -/
def Core.enqueue (c : Core) (m : Message) : Core := { c with queue := c.queue ++ [m] }.wakeAll 0

/-- The operations of the sender that come before a SEND, by its release order, have been performed (R138). -/
def State.sendReady (s : State) (m : Message) : Bool :=
  ((s.core m.src).ops ++ (s.core m.src).snagOps).all fun o => o.strand ≠ m.strand || decide (m.ord ≤ o.id)

/-- MESSAGE_DELIVERY: message `k` of those on their way enters its destination's queue, or is dropped and counted (R293, R294,
R348, R447). -/
def execMessageDelivery (k : Nat) (s : State) : Host.Outcome State Fault Refusal :=
  match s.messages[k]? with
  | none => .fault .notEnabled
  | some m =>
    let older := (s.messages.take k).any fun x => x.src = m.src && x.strand = m.strand && x.dst = m.dst
    let e := s.remapAt m.part m.dst
    if older ∨ s.partStopped m.part ∨ !s.sendReady m then .fault .notEnabled
    else
      let s1 := { s with messages := s.messages.eraseIdx k }
      if e.valid = false ∨ e.state = 2 then
        .next (s1.modCore m.src fun c => { c with undel := min (c.undel + 1) 65535 })
      else if e.state = 1 ∨ (s.core e.pcid).stop = some .gang ∨ !s.msgRoom e.pcid then .fault .notEnabled
      else
        let s2 := s1.modCore e.pcid (·.enqueue m)
        .next (match s.pairOf e.pcid with
        | some (_, b) => s2.modCore b (·.enqueue m)
        | none => s2)

/-! ## Chains and supersteps (R297 to R300) -/

/-- WAITSEQ waits for a sequence number of a chain; a handle that names no chain ends it with status 2 (R297). -/
def execWaitseq (h : Hdr) (d a b : BitVec 8) (wall : BitVec 1) (s : State) : Host.Outcome State Fault Refusal :=
  runWord h (specWait [dSrc d, aS a, bS b]) (fun p k s =>
    let target := (s.rS p k 1 a).toNat
    let kind := match (s.core p).chainOf (s.rS p k 0 d) with
      | some (slot, c) => WaitKind.waitseq slot c.gen c.eng target
      | none => .waitseq 0 (2 ^ 24) 0 target
    s.startWait p k kind (s.rS p k 2 b) wall none h) s

/-- Strand state trap of a helper (R298). -/
def helperTrap : Nat → Nat → State → Verdict := fun _ k s => trapWhen (decide (k ≠ 0)) (s.wordTrap 3)

/-- XPLAN selects the next exchange plan (R298). -/
def execXplan (h : Hdr) (a : BitVec 8) (s : State) : Host.Outcome State Fault Refusal :=
  runWord h { specX [aS a] 1 with pre := helperTrap } (fun p k s =>
    let n := fieldNat (s.rS p k 1 a) 0 8
    .done (s.modCore p fun c => { c with exch := { c.exch with sel := n } })) s

/-- Strand state trap of SSTEP: a helper issues it, or one is live (R299). -/
def sstepTrap : Nat → Nat → State → Verdict :=
  fun p k s => trapWhen (decide (k ≠ 0) || !(s.core p).helpers.isEmpty) (s.wordTrap 3)

/-- The ticks from a completed group 0 barrier to its delivery: D of R35. -/
def State.barrierDelay (s : State) (i : Instance) : Nat := if s.oneDie i (List.range i.p) then 16 else 40

/-- A core of an instance arrives at the entry barrier of group 0; the last arrival stamps X (R34, R35). The twins of a pair
arrive together, when the second of them has issued its SSTEP. Where a core of the instance has ended the arrivals never complete (R55). -/
def State.arriveEntry (s : State) (p : Nat) : State :=
  match s.instOf p with
  | none => s
  | some (n, i) =>
    let mateIn := match (s.core p).place with
      | some pl => pl.twin = 0 || (s.core pl.mate).exch.state = .arrived
      | none => true
    if !mateIn then s
    else
      let arr := addNat (s.relOf p) i.g0.arr
      if arr.length = i.p ∧ i.ended = [] then
        s.modInst n fun j => { j with
          g0 := { j.g0 with arr := [], phase := j.g0.phase + 1 }, x := some (s.now + s.barrierDelay i) }
      else s.modInst n fun j => { j with g0 := { j.g0 with arr := arr } }

/-- The count that an SSTEP waits to see passed: that of the superstep whose exchange barrier it awaits (R299). -/
def State.sstepCount (s : State) (p : Nat) : Nat :=
  let e := (s.core p).exch
  if e.state = .exchanged then
    match s.instOf p with
    | some (_, i) => if i.enter.isSome then e.count - 1 else e.count
    | none => e.count
  else e.count

/-- The first row of a carried range that lies past the window, or of a count above 256 (R299, R425). -/
def State.carryTrap (s : State) (p k : Nat) (d : Word) : Option Trap :=
  let first := fieldNat d 0 8
  let n := fieldNat d 8 9
  let wl := (s.strand p k).wl
  if 256 < n ∨ (0 < n ∧ wl < first + n) then some { cause := 4, code := 1, info := BitVec.ofNat 64 (max first wl) } else none

/-- What holds an SSTEP that would arrive: a withdrawal of this tick (R286), or a store of the core to its own TCM or CSP that has not been
performed and that no fault keeps: the exchange reads observe it (R38; log entry 62). -/
def State.sstepHeld (s : State) (p : Nat) : Bool :=
  (s.core p).exch.state = .compute &&
    (s.groupTurned p 0 true || (s.core p).ops.any fun o => o.kind.writes && (!remoteVa o.va || (o.kind = .mxq && !remoteVa o.sva)) && !o.parked)

/-- SSTEP arrives at the entry barrier and waits for the exchange barrier (R299, R300). -/
def execSstep (h : Hdr) (a b : BitVec 8) (u wall : BitVec 1) (s : State) : Host.Outcome State Fault Refusal :=
  runWord h { specWait ((if u = 1 then [aS a] else []) ++ [bS b]) with pre := sstepTrap } (fun p k s =>
    let carried := if u = 1 then some (s.rS p k 1 a) else none
    match carried.bind (s.carryTrap p k) with
    | some t => .trap t
    | none =>
      let e := (s.core p).exch
      match e.planTrap with
      | some info =>
        .trap { cause := 18, code := 0, info := info }
      | none =>
        if s.sstepHeld p then .hold
        else
          let s1 := if e.state = .compute then
              (s.modCore p fun c => { c with exch := { c.exch with
                plan := c.exch.sel, carried := carried, pc := (c.strand k).pc, state := .arrived, mark := c.seq, sup := (s.who p k).sup } }).arriveEntry p
            else s
          s1.startWait p k (.sstep (s1.sstepCount p)) (s1.rS p k 2 b) wall none h) s

end Sys2Proof.Machine
end

