-- ==== Sys2Proof/Machine/Migrate.lean ====
section
/-! DEFINITION. Migration: requests, group boundaries, MIGPT and the commit (R329, R353, R354, R395, R396). -/

namespace Sys2Proof.Machine

/-! ## Stopping and resuming a core (R278) -/

/-- A core stops; its deadlines stand still. -/
def State.stopCore (s : State) (p : Nat) (k : StopKind) : State :=
  s.modCore p fun c => if c.stop.isSome then { c with stop := some k } else { c with stop := some k, stopSince := s.now }

/-- A stopped core goes on. -/
def State.startCore (s : State) (p : Nat) : State :=
  s.modCore p fun c =>
    if c.stop.isSome then { c with stop := none, stopTotal := c.stopTotal + (s.now - c.stopSince) } else c

/-! ## Targets -/

/-- A partition's remap table names the core. -/
def State.heldCore (s : State) (q : Nat) : Bool :=
  s.parts.any fun x => x.2.remap.any fun e => e.2.valid && decide (e.2.pcid = q)

/-- The core, or its router, is quarantined: firmware places nothing there (R406). -/
def State.unfit (s : State) (q : Nat) : Bool := (s.core q).health.qc || (s.core q).health.qr

/-- A core of the cluster is above the T3 trip (R451). -/
def State.hot (s : State) (clu : Nat) : Bool := (List.range 8).any fun j => (s.core (8 * clu + j)).power.t3act

/-- Firmware places no work on the core: it is quarantined, a running job names it, its cluster is hot or its die is gated (R388,
R406, R451). That a packet's target on a gated die is refused too is the model's choice (DESIGN CHOICE, log entry 44). -/
def State.barred (s : State) (q : Nat) : Bool := s.unfit q || s.skimNames q || s.hot (cluOf q) || (s.die (dieOf q)).gated

/-- A physical core that a migration may go to (R353, R354). -/
def State.usableTarget (s : State) (q : Nat) : Bool :=
  s.isCore q && !s.isPlumb q && !s.heldCore q && !s.barred q && (s.core q).place.isNone

/-- The core holds a palette claim or a live residency, so that it must stay in its cluster (R353). -/
def State.tied (s : State) (p : Nat) : Bool :=
  let cl := s.cluster (cluOf p)
  match (s.core p).place with
  | none => false
  | some pl => (cl.tiles.any fun t => t.owner = p) || cl.residencies.any fun r => r.part = pl.part && r.ctx = pl.ctx

/-- A target keeps a pair in order: the primary stays at the in-cluster position of its shadow, two columns from it (R409, log entry 83). -/
def State.pairFits (s : State) (p q : Nat) : Bool :=
  match s.pairOf p with
  | some (a, b) => decide (p = a) && decide (posOf q = posOf b) && decide (2 ≤ gap (colOf q) (colOf b))
  | none => true

/-- A usable target of a core. -/
def State.okTarget (s : State) (p q : Nat) : Bool := s.usableTarget q && (!s.tied p || decide (cluOf q = cluOf p)) && s.pairFits p q

/-- The cooler of two cores, the first in a tie. -/
def State.cooler (s : State) (a : Option Nat) (q : Nat) : Option Nat :=
  match a with
  | none => some q
  | some x => if (s.core q).power.temp.toInt < (s.core x).power.temp.toInt then some q else some x

/-- The coolest free core, the lowest number in a tie (R365): firmware's choice (log entry 21). -/
def State.pickTarget (s : State) (p : Nat) : Option Nat :=
  ((List.range 8192).filter (s.okTarget p)).foldl s.cooler none

/-! ## Requests and their ends -/

/-- A migration request is dropped for want of a target, counted on the core's die (R353). -/
def State.migDrop (s : State) (p : Nat) : State := s.modDie (dieOf p) fun d => { d with migdrop := (d.migdrop + 1) % 2 ^ 32 }

/-- A request is made for a core; its control strand gets SLEEP event 3 (R213, R353). -/
def State.request (s : State) (p : Nat) (m : MigReq) : State :=
  s.modCore p fun c => { c with migrate := some m }.wake 0 3

/-- Firmware asks of its own choice that a core's work move, to a target that the rules allow (R353). -/
def State.ownRequest (s : State) (p q : Nat) : Host.Outcome State Fault Refusal :=
  let c := s.core p
  if c.place.isNone ∨ c.ended ∨ c.migrate.isSome ∨ s.isShadow p ∨ !s.okTarget p q then .fault .notEnabled
  else .next (s.request p { target := q, named := false, record := none })


/-- A request ends: its packet's record is written with a status (R354). -/
def State.endMigrate (s : State) (p status : Nat) : State :=
  let s1 := s.modCore p fun c => { c with migrate := none }
  match (s.core p).migrate with
  | none => s
  | some m =>
    (match m.record with
    | none => s1
    | some r => { s1 with records := s1.records ++ [{ r with status := status, tick := s.now }] })

/-- The core's matrix queue holds no command. -/
def Core.matrixIdle (c : Core) : Bool := c.chains.all fun x => x.2.eng ≠ 1 || x.2.cmds.isEmpty

/-- The entry of its own partition that names a core takes a state (R50). -/
def State.setRemapPart (s : State) (p st : Nat) : State :=
  match (s.core p).place with
  | none => s
  | some pl => s.modPart pl.part fun x =>
      { x with remap := x.remap.map fun e => (e.1, if e.2.pcid = p ∧ e.2.valid then { e.2 with state := st } else e.2) }

/-- A stopped source core whose matrix queue is empty: its remap entry becomes migrating (R353, step 2). That of a quarantined core stays so
(R406). -/
def State.markMigrating (s : State) (p : Nat) : State :=
  let c := s.core p
  if c.stop = some .migrate && c.matrixIdle && !c.health.qc then s.setRemapPart p 1 else s

/-- The request of a core at a group boundary: it stops the core for its move, finds another target, is dropped and counted for want of one, or is
withdrawn where the packet named a target that has become unusable (R353, R354). The flag says that the core moves. -/
def State.atBoundary (s : State) (p : Nat) : State × Bool :=
  match (s.core p).migrate with
  | none => (s, false)
  | some m =>
    let t := if s.okTarget p m.target then some m.target else if m.named then none else s.pickTarget p
    match t with
    | none => (if m.named then s.endMigrate p 5 else (s.endMigrate p 5).migDrop p, false)
    | some q =>
      (((s.modCore p fun c => { c with migrate := some { m with target := q } }).stopCore p .migrate).markMigrating p, true)

/-- The group boundary at the completion of an SSTEP, which a fused gang does not honour (R29, R353). -/
def State.sstepBoundary (s : State) (p : Nat) : State :=
  if (s.core p).gang.isSome || (s.core p).stop.isSome then s else (s.atBoundary p).1

/-- MIGPT (R329): 0 no move, 1 the core's work moves, 2 a helper or an open repetition buffer is in the way. -/
def execMigpt (h : Hdr) (d : BitVec 8) (s : State) : Host.Outcome State Fault Refusal :=
  runWord h { specX [dS d] 2 with pre := controlOnly } (fun p k s =>
    let v (x : Nat) (s : State) : Res := .done (s.wS p k 2 d (BitVec.ofNat 64 x))
    if (s.core p).migrate.isNone then v 0 s
    else if !(s.core p).helpers.isEmpty || s.ract p k then v 2 s
    else
      let (s1, moved) := s.atBoundary p
      if moved then v 1 s1 else v 0 s1) s

/-! ## Settling a core (R72, R139) -/

/-- A core's late writes that need only time have landed. -/
def Core.settle (c : Core) : Core := { { c with cycle := c.cycle + 1024 }.land with cycle := c.cycle }

/-- Nothing of a stopped core is on its way but waits, snagged accesses and parked ones (R72). -/
def Core.settled (c : Core) : Bool := c.ops.all fun o => o.kind = .lds || o.parked

/-- Every pending write of a core has landed but those that wait on the ring (R72). -/
def Core.landed (c : Core) : Bool := decide (c.settle.late = c.late)

/-- The operation waits at a closure router for the pair's other twin. -/
def State.atRouter (s : State) (p : Nat) (o : MemOp) : Bool :=
  match s.pairOf p with
  | none => false
  | some (a, b) => s.closures.any fun c => c.primary = a && c.elem = o.elem && decide (c.kind = .op) &&
      ((p = a && c.idP = o.id) || (p = b && c.idS = o.id))

/-- Every access of a stopped core is performed, but those that a stop leaves open (R72, R139). -/
def State.quietCore (s : State) (p : Nat) : Bool :=
  (s.core p).ops.all (fun o => o.kind = .lds || o.parked || s.atRouter p o) && (s.core p).loading.isNone && (s.strand p 0).fuse.isNone

/-! ## MIGRATION_COMMIT (R353, R395, R396) -/

/-- A location in the TCM of core `p` becomes the same place of core `q`'s. -/
def tcmMoved (p q l : Nat) : Nat := if tcmBase p ≤ l ∧ l < tcmBase p + 2 ^ 17 then tcmBase q + (l - tcmBase p) else l

/-- The bytes of one core's TCM written over another's. -/
def State.moveTcm (s : State) (p q : Nat) : State :=
  let inside (b l : Nat) : Bool := decide (tcmBase b ≤ l) && decide (l < tcmBase b + 2 ^ 17)
  let cells := s.mem.filter fun e => inside p e.1
  let clean := s.mem.filter fun e => !inside p e.1 && !inside q e.1
  let full := s.full.filter fun l => inside p l
  let restF := s.full.filter fun l => !inside p l && !inside q l
  let bad := s.poison.filter fun l => inside p l
  let restB := s.poison.filter fun l => !inside p l && !inside q l
  { s with
    mem := cells.foldl (fun m e => memSet (tcmMoved p q e.1) e.2 m) clean
    full := full.foldl (fun m l => addNat (tcmMoved p q l) m) restF
    poison := bad.foldl (fun m l => addNat (tcmMoved p q l) m) restB }

/-- A started copy or collective command of core `p` stays with the engine that started it (R353, R395). -/
def Cmd.staysAt (m : Cmd) (p : Nat) : Cmd := if m.started then { m with engine := some (m.engineOf p) } else m

/-- The core that receives the work of core `p` in a tick: every register of the source but CORE_THERM and CORE_HAWK, which are the physical core's
(R396), and the quarantine of a physical unit (R406, log entry 21); commands that had started stay with the source's engine. It goes on no earlier
than in the next tick, and until then it counts as stopped (R395, R398). -/
def Core.movedTo (src tgt : Core) (p now : Nat) : Core :=
  { src.bodiless with
    power := { tgt.power with t2 := src.power.t2, t2act := src.power.t2act, t3 := src.power.t3, t3act := src.power.t3act }
    health := { src.health with qc := tgt.health.qc, qr := tgt.health.qr }
    chains := src.chains.map fun x => (x.1, { x.2 with cmds := x.2.cmds.map fun m => m.staysAt p })
    utlb := [], istore := [], migrate := none, stop := some .arrive, resumeAt := now + 1 }

/-- The core that the work leaves: its power and its error registers keep what they held, as the spec says only what the target holds (DESIGN
CHOICE, log entry 21); its root register is that of its partition (R93). -/
def Core.vacated (src : Core) : Core :=
  { Core.init with power := src.power, health := src.health, cycle := src.cycle, sup := { Sup.init with ptbr := src.sup.ptbr } }

/-- Messages, transfers and datums of a partition that name the core that the work left name the new one. -/
def State.renameTraffic (s : State) (part p q : Nat) : State :=
  let nm (k x : Nat) : Nat := if k = part ∧ x = p then q else x
  { s with
    messages := s.messages.map fun m => { m with src := nm m.part m.src }
    transfers := s.transfers.map fun t => { t with src := nm t.part t.src }
    insts := s.insts.map fun i =>
      (i.1, { i.2 with datums := i.2.datums.map fun d => { d with pcid := nm i.2.part d.pcid } }) }

/-- Whatever of a running partition names the core that the work left names the new one. -/
def State.renameCore (s0 : State) (part p q : Nat) : State :=
  let nm (x : Nat) : Nat := if x = p then q else x
  let s := s0.renameTraffic part p q
  { s with
    closures := s.closures.map fun c =>
      { c with primary := nm c.primary, msg := c.msg.map fun m => { m with src := nm m.src },
               xfer := c.xfer.map fun t => { t with src := nm t.src } }
    clusters := s.clusters.map fun c =>
      (c.1, { c.2 with tiles := c.2.tiles.map fun t => { t with owner := nm t.owner } })
    parts := s.parts.map fun x =>
      (x.1, if x.1 ≠ part then x.2 else
        { x.2 with remap := x.2.remap.map fun e => (e.1, if e.2.valid ∧ e.2.pcid = p then { e.2 with pcid := q } else e.2) }) }

/-- The energy of a move: its source side and its target side (R363). -/
def State.payMove (s : State) (p q part : Nat) : State :=
  let a := 3072 * s.charge p 4
  let b := 3072 * (s.charge q 4 + hops p q * s.charge q 8)
  let e := put (4 * part + 1) (look 0 (4 * part + 1) s.enctx + a) s.enctx
  { s with enctx := put (4 * part + 2) (look 0 (4 * part + 2) s.enctx + b) e }

/-- Hardware groups that the instance of a core takes anew on the die of another one to which the core's work moves (R32). -/
def State.hwMoves (s : State) (p q : Nat) : Nat :=
  match s.instOf p with
  | none => 0
  | some (_, i) =>
    if i.p < 2 then 0
    else ((List.range 4).filter fun g => (i.group g).bound && (i.group g).members.contains (s.relOf p) &&
      !(s.diesOf i (i.group g).members).contains (dieOf q)).length

/-- The target's die has free hardware groups for the move (R32, log entry 21). -/
def State.hwTakes (s : State) (p q : Nat) : Bool := decide (s.hwMoves p q + (s.die (dieOf q)).hw.length ≤ 16)

/-- The hardware groups of an instance follow a core of it to another die (R32). -/
def State.followHw (s : State) (q : Nat) : State :=
  match s.instOf q with
  | none => s
  | some (n, i) => s.takeAllHw n i

/-- A core's work moves to another core. -/
def State.moveCore (s : State) (p q : Nat) : State :=
  let src := (s.core p).land
  let part := match src.place with
    | some pl => pl.part
    | none => 64
  let s1 := (s.moveTcm p q).renameCore part p q
  let fixUndo (u : Undo) : Undo := { u with loc := tcmMoved p q u.loc }
  let moved := { src.movedTo (s.core q) p s.now with exch := { src.exch with undo := src.exch.undo.map fixUndo } }
  let s2 := ((s1.setCore q moved).setCore p src.vacated).followHw q
  match src.place with
  | none => s2
  | some pl =>
    let s3 := s2.payMove p q pl.part
    if pl.twin = 0 then s3
    else s3.modCore pl.mate fun c => { c with place := c.place.map fun x => { x with mate := q } }

/-- What a core that migrates still has under way: its matrix queue, accesses that are no waits and not on the ring, register writes that time
lands (R72, R139, R353). -/
def State.unsettled (s : State) (p : Nat) : Bool := !(s.core p).matrixIdle || !s.quietCore p || !(s.core p).landed

/-- MIGRATION_COMMIT: firmware commits the target of a stopped core whose matrix queue has emptied and whose accesses and writes are settled, and
the work goes on there (R72, R139, R353, R395). The stop is recorded before it (R398). A target that has been taken since the boundary, or whose die
lacks the hardware groups, keeps the commit off and the core stopped, as the spec lets a request fail only before the boundary (DESIGN CHOICE, log
entry 21). -/
def execMigrationCommit (core : Nat) (s : State) : Host.Outcome State Fault Refusal :=
  let c := s.core core
  match c.migrate, c.stop with
  | some m, some .migrate =>
    if s.unsettled core ∨ !s.okTarget core m.target ∨ !s.hwTakes core m.target ∨ c.stopSince = s.now then
      .fault .notEnabled
    else
      let s1 := s.endMigrate core 0
      .next ((s1.setRemapPart core 0).moveCore core m.target)
  | _, _ => .fault .notEnabled

/-- The work that has moved to a core goes on there, in a tick after the commit; the spec gives the first tick and, unloaded, the last, and when
within them is the environment's choice (R395, R398, log entry 4). -/
def State.arrive (s : State) (p : Nat) : Host.Outcome State Fault Refusal :=
  if (s.core p).stop = some .arrive ∧ (s.core p).resumeAt ≤ s.now then .next (s.startCore p) else .fault .notEnabled

end Sys2Proof.Machine
end

