-- ==== Sys2Proof/Machine/Rollback.lean ====
section
/-! DEFINITION. Datum, deferred effects, rollback, and the entry into Compute (R34, R35, R419 to R423). -/

namespace Sys2Proof.Machine

/-! ## MSI-X -/

/-- An MSI-X signal: held while the host link is down (R448). -/
def State.raiseMsix (s : State) (v : Nat) : State :=
  if s.hostUp then { s with msix := s.msix ++ [v] } else { s with msixHeld := s.msixHeld ++ [v] }

/-- An MSI-X signal of a core's chain: in rollback mode it leaves the parcel and is deferred (R421, R422). -/
def State.chainMsix (s : State) (p v : Nat) : State :=
  if s.rollbackMode p then
    match s.defer p (.msix v) with
    | some s1 => s1
    | none => (s.raiseMsix v).overflowed p
  else s.raiseMsix v

/-! ## Deferred effects (R421) -/

/-- The shadow twin's copy of an operation takes the value that the primary's received (R410). -/
def State.finishMate (s : State) (p : Nat) (o : MemOp) (v : Nat) : State :=
  match s.pairOf p with
  | none => s
  | some (_, b) =>
    (match (s.core b).ops.find? fun x => x.strand = o.strand && x.pc = o.pc && x.elem = o.elem && x.kind = o.kind with
    | some x => s.finishOp b x v
    | none => s)

/-- One deferred effect of a core takes place. -/
def State.release (s : State) (p : Nat) (d : Deferred) : State :=
  match d with
  | .store o l bs =>
    let s1 := ((s.store l bs).markStale l bs.length).cleanse l bs.length
    match o with
    | some o => s1.wpReport p o
    | none => s1
  | .rmw o l =>
    let (old, bs) := s.rmwAt o l
    let v := (extend o.sz old).toNat
    ((((s.store l bs).markStale l bs.length).cleanse l bs.length).finishOp p o v).finishMate p o v
  | .msix v => s.raiseMsix v
  | .send m => { s with messages := s.messages ++ [m] }

/-- Every deferred effect of a core takes place, in issue order. -/
def State.releaseAll (s : State) (p : Nat) : State :=
  let l := (s.core p).exch.deferred
  l.foldl (fun x d => x.release p d) (s.modCore p fun c => { c with exch := { c.exch with deferred := [] } })

/-! ## The datum (R419) -/

/-- The control strand's part of a datum. The wait of the SSTEP has ended by then. -/
def Strand.forDatum (t : Strand) : Strand := { t with wait := none, endedBy := none, fuse := none, stopped := false, failed := [] }

/-- The rows that a datum holds: the header row of the control strand's window and the carried rows. -/
def Core.datumRows (c : Core) : AMap Row :=
  let t := c.strand 0
  let (f, n) := match c.exch.carried with
    | some d => (fieldNat d 0 8, fieldNat d 8 9)
    | none => (0, 0)
  c.rows.filter fun r => r.1 = t.wb || (decide (t.wb + f ≤ r.1) && decide (r.1 < t.wb + f + n))

/-- What a core's datum keeps of it. -/
def Core.datum (c : Core) : Core :=
  { c with
    rows := c.datumRows, bad := [], locks := [], late := [], ops := []
    strands := c.strands.map fun t => if t.1 = 0 then (0, t.2.forDatum) else (t.1, t.2.retire) }

/-- A core begins a new superstep's protection: empty undo log, and the datum. -/
def State.datumOf (s : State) (p : Nat) : State :=
  s.modCore p fun c =>
    { c with exch := { c.exch with undo := [], unprot := false, rep := false, got := [] } }

/-- Where page `j` of the datum region of a core lies: 512 KiB at save base + 2^20 · S + 2^19 · L; none for the shadow of a pair, or where the page has
no memory (R351, R419). -/
def State.datumPage (s : State) (p j : Nat) : Option Nat :=
  match (s.core p).place with
  | none => none
  | some pl =>
    match find pl.ctx s.ctxs, find pl.part s.parts with
    | some c, some pt =>
      if pl.twin = 2 then none
      else (match s.reachCtx pl.ctx (c.save + BitVec.ofNat 64 (2 ^ 20 * pt.size + 2 ^ 19 * pl.log + 4096 * j)) true with
        | .loc l _ _ => some l
        | _ => none)
    | _, _ => none

/-- The pages of the datum region of a core. -/
def State.datumPages (s : State) (p : Nat) : List Nat := (List.range 128).filterMap (s.datumPage p)

/-- The datum of a core is written into its region: as its form is not given, its words are free values (R419, log entry 24). -/
def State.writeDatum (s : State) (p : Nat) : State :=
  (s.datumPages p).foldl (fun x l =>
    let bs := (List.range 512).flatMap fun i => natBytes 8 (Config.freeWord (x.fresh + i)).toNat
    { x.writeMem 8192 l bs true none with fresh := x.fresh + 512 }) s

/-- A core's datum region holds an error that no code corrects: a rollback cannot read it (R423). -/
def State.datumBad (s : State) (p : Nat) : Bool :=
  !s.poison.isEmpty && (s.datumPages p).any fun l => s.poisoned l 4096

/-- Every core of an instance takes its datum (R419). -/
def State.takeDatum (s : State) (n : Nat) : State :=
  let ps := s.instCores n
  let s1 := ps.foldl (fun x p => x.datumOf p) s
  (ps.foldl (fun x p => x.writeDatum p) s1).modInst n fun i =>
    { i with datums := ps.map (fun p => { pcid := p, core := (s1.core p).datum }), dgroups := [i.g0, i.g1, i.g2, i.g3] }

/-! ## Rollback (R423) -/

/-- The messages that a core's queue holds again: those of the datum, and those received since from outside the instance or sent before the
superstep. -/
def Core.backQueue (c d : Core) (n : Nat) (before : Message → Bool) : List Message :=
  (c.exch.got ++ c.queue).filter fun m => d.queue.any (·.id = m.id) || m.inst ≠ some n || before m

/-- CORE_UEADDR, which the consumption has just written, and the quarantine of the physical core are no part of what comes back from a datum (DESIGN
CHOICE, log entry 21); the other error registers are, as they move with a migration (R396, R419). -/
def Health.restore (c d : Health) : Health := { d with ueCause := c.ueCause, ueAddr := c.ueAddr, qc := c.qc, qr := c.qr }

/-- A core restored from its datum: what a rollback does not undo is kept. Records of the field book are never undone (R454). -/
def Core.restore (c d : Core) (n : Nat) (before : Message → Bool) : Core :=
  { d with
    cycle := c.cycle, seq := c.seq, utlb := c.utlb, fb := c.fb, health := c.health.restore d.health
    power := { c.power with t2 := d.power.t2, t2act := d.power.t2act, t3 := d.power.t3, t3act := d.power.t3act }
    migrate := c.migrate, stop := c.stop, halt := c.halt, stopTotal := c.stopTotal, stopSince := c.stopSince, place := c.place
    pairStops := c.pairStops, resumeAt := c.resumeAt, cut := c.cut
    istore := c.istore, queue := c.backQueue d n before, twinVals := [], ended := false, helpersKilled := false
    exch := { d.exch with
      state := .compute, rb := min (c.exch.rb + 1) 65535, rep := true, unprot := false, undo := [], deferred := [], got := [] } }

/-- The undo entries of the listed cores. -/
def State.undoOf (s : State) (ps : List Nat) : List Undo := ps.flatMap fun p => (s.core p).exch.undo

/-- Insert an undo entry, the highest sequence number first. -/
def Undo.insert (u : Undo) : List Undo → List Undo
  | [] => [u]
  | v :: r => if v.seq < u.seq then u :: v :: r else v :: Undo.insert u r

/-- Undo entries applied from the newest to the oldest, so that each word takes the old value of its lowest-numbered one. -/
def State.applyUndo (s : State) (l : List Undo) : State :=
  (l.foldl (fun acc u => u.insert acc) []).foldl (fun x u => (x.store (u.loc + u.key * 2 ^ 64) u.old).setFull u.loc u.full) s

/-- The handle of a residency (R318). -/
def Residency.handle (r : Residency) (clu : Nat) : Nat := r.gen * 2 ^ 28 + r.part % 4 * 2 ^ 26 + clu * 2 ^ 16 + r.mask

/-- The load is that of a command of a core. -/
def Fill.isOf (f : Fill) (p id : Nat) : Bool := decide (f.pcid = p) && decide (f.id = id)

/-- A load that a command had begun has failed: the residency is EMPTY (R321). -/
def State.dropFill (s : State) (p : Nat) (m : Cmd) : State :=
  let fail (r : Residency) : Residency :=
    if r.handle (cluOf p) = m.ecw.hc.toNat then { r with state := .empty, fills := r.fills.filter fun f => !f.isOf p m.id } else r
  if m.loading then s.modCluster (cluOf p) fun c => { c with residencies := c.residencies.map fail } else s

/-- The loads of residencies that a rollback stops have failed, but for those that the datum of their core holds too (R321, R423). -/
def State.dropFills (s : State) (i : Instance) (p : Nat) : State :=
  let kept (slot seq : Nat) : Bool := i.datums.any fun d => d.pcid = p && (look Chain.free slot d.core.chains).cmds.any fun m => m.seq = seq
  (s.core p).chains.foldl (fun x c => (c.2.cmds.filter fun m => !kept c.1 m.seq).foldl (fun y m => y.dropFill p m) x) s

/-- The superstep of an instance is undone and begins again (R423). -/
def State.rollback (s : State) (n : Nat) (i : Instance) : State :=
  let ps := s.instCores n
  let before (m : Message) : Bool := match i.datums.find? fun d => d.pcid = m.src with
    | some d => decide (m.ord ≤ d.core.seq)
    | none => true
  let primaries := ps.filter fun p => match (s.core p).place with
    | some pl => decide (pl.twin = 1)
    | none => false
  let s1 := (ps.foldl (fun x p => x.dropFills i p) s).applyUndo (s.undoOf ps)
  let s2 : State := ps.foldl (fun x p => match i.datums.find? fun d => d.pcid = p with
    | some d => x.modCore p fun c => c.restore d.core n before
    | none => x) s1
  let s3 : State := { s2 with
    messages := s2.messages.filter fun m => m.inst ≠ some n || before m
    transfers := s2.transfers.filter fun t => t.inst ≠ n
    closures := s2.closures.filter fun c => !primaries.contains c.primary }
  s3.modInst n fun j => { j with
    x := none, enter := none, ended := []
    g0 := j.dgroups.getD 0 j.g0, g1 := j.dgroups.getD 1 j.g1, g2 := j.dgroups.getD 2 j.g2, g3 := j.dgroups.getD 3 j.g3 }

/-! ## Entry into Compute (R34, R35, R420) -/

/-- The exchange of a core is over: it enters Compute. -/
def Core.enterCompute (c : Core) : Core :=
  { c with exch := { c.exch with state := .compute, todo := [], read := [], rx := 0, rxtotal := 0, bad := false } }

/-- The SSTEP of a core that waited for its exchange barrier ends with status 0, in the tick of the entry (R299). A migration
request that waits for this boundary stops the core (R353). -/
def State.endSstep (s : State) (p : Nat) : State :=
  match (s.strand p 0).wait with
  | none => s
  | some w =>
    (match w.kind with
    | .sstep n =>
      if n < (s.core p).exch.count then (s.endWait p 0 w 0).sstepBoundary p
      else s
    | _ => s)

/-- Every core of an instance enters Compute (R35); in rollback mode deferred effects are released and the datum is taken. -/
def State.enterAll (s : State) (n : Nat) : State :=
  let ps := s.instCores n
  let s1 := (s.modInst n fun i => { i with enter := none, x := none }).modInstCores n Core.enterCompute
  let s2 := ps.foldl (fun x p => x.endSstep p) s1
  match find n s2.insts with
  | none => s2
  | some i => if s2.instRollback i then (ps.foldl (fun x p => x.releaseAll p) s2).takeDatum n else s2

/-- COMPUTE_ENTRY: after the exchange barrier every core enters Compute at one tick (R34, R35), unless a debugger stop is due
there (R372). -/
def execComputeEntry (iid : Nat) (s : State) : Host.Outcome State Fault Refusal :=
  match find iid s.insts with
  | none => .fault .notEnabled
  | some i =>
    if s.entryReady iid i && (i.dbg = .running) then .next (s.enterAll iid) else .fault .notEnabled

end Sys2Proof.Machine
end

