-- ==== Sys2Proof/Machine/Pieces.lean ====
section
/-! DEFINITION. How an engine reaches memory, the pieces of a command's work, and its completion (R108, R131, R308 to R311, R395, R410). -/

namespace Sys2Proof.Machine

/-! ## Accesses of an engine (R309 to R311) -/

/-- What an access of an engine ends with. -/
inductive Eng (α : Type) where
  | ok (x : α)
  /-- A fault: KIND 8 read or 9 write, its cause, its address. -/
  | fault (kind cause : Nat) (va : Word)
  /-- It cannot be made yet. -/
  | wait
  /-- It waits for host memory, whose link is down: KIND and address (R448). -/
  | slow (kind : Nat) (va : Word)
  /-- It reads an error that no code corrects: CAUSE of the record and the address (R417). -/
  | poison (cause addr : Nat)

/-- CAUSE of a consumption at a location (R417). -/
def poisonCause (l : Nat) : Nat :=
  let l := plain l
  if l < 2 ^ 39 then 8 else if l < 2 ^ 40 then 9 else if l < 2 ^ 48 then 8 else if l < 2 ^ 49 then 6
  else if l < 2 ^ 50 then 7 else 11

/-- The engine of a core as the maker of an access for a command. -/
def State.engWho (s : State) (p : Nat) (sup : Bool) : Who := { pcid := p, sup := sup, firmware := s.isPlumb p }

/-- The device context that a core works for. -/
def State.ctxOf (s : State) (p : Nat) : Nat :=
  match (s.core p).place with
  | some pl => pl.ctx
  | none => 0

/-- The core is migrating: its own memories are reached under its logical number, where traffic waits in the routers (R51, R395). -/
def State.moving (s : State) (p : Nat) : Bool :=
  match (s.core p).place with
  | some pl => decide ((s.remapOf p pl.log).state = 1)
  | none => false

/-- Where an address leads an engine of a core. -/
def State.engReach (s : State) (p : Nat) (sup : Bool) (va : Word) (n : Nat) (wr : Bool) : Reach :=
  if aperture ≤ va.toNat ∧ (va.toNat - aperture) / 2 ^ 37 ≤ 1 ∧ s.moving p then .held
  else s.reachFor (s.engWho p sup) (s.ctxOf p) va n wr

/-- Where a part of an engine's operation leads: its location, RS of its page, host memory. A read of data with an error is a consumption. -/
def State.partAt (s : State) (p : Nat) (sup wr : Bool) (x : Part) : Eng (Nat × Bool × Bool) :=
  let r := match x.loc with
    | some l => Reach.loc l false (hostLoc (some l))
    | none => s.engReach p sup x.va x.n wr
  match r with
  | .loc l rs host =>
    if host && !s.hostUp then .slow (if wr then 9 else 8) x.va
    else if !wr && s.poisoned l x.n then .poison (poisonCause l) l
    else .ok (l, rs, host)
  | .fault c => .fault (if wr then 9 else 8) c x.va
  | _ => .wait

/-- Where the parts of one operation lead. -/
def State.partsAt (s : State) (p : Nat) (sup wr : Bool) : List Part → Eng (List (Part × Nat × Bool × Bool))
  | [] => .ok []
  | x :: r =>
    match s.partAt p sup wr x with
    | .ok a => (match s.partsAt p sup wr r with
      | .ok l => .ok ((x, a) :: l)
      | y => y)
    | .fault k c va => .fault k c va
    | .wait => .wait
    | .slow k va => .slow k va
    | .poison c a => .poison c a

/-- The byte at a location as an engine of core `p` sees it: the latest deferred store of its core, or memory (R421). -/
def State.engByte (s : State) (p l : Nat) : Byte :=
  let own := (s.core p).exch.deferred.filterMap fun d => match d with
    | .store _ a bs => if a ≤ l ∧ l < a + bs.length then some (bs.getD (l - a) 0) else none
    | _ => none
  own.getLast?.getD (s.byte l)

/-- The bytes that a read of an engine finds at a location. -/
def State.engBytes (s : State) (p l n : Nat) : List Byte := (List.range n).map fun i => s.engByte p (l + i)

/-- A write of an engine that is found to reach a location: deferred when it leaves a rollback-mode parcel (R421, R422); the
shadow of a pair writes nothing that both twins share (R410). -/
def State.engStore (s : State) (p : Nat) (va : Word) (l : Nat) (bs : List Byte) (rs host full : Bool) : State :=
  if host then
    if s.isShadow p then s
    else if s.rollbackMode p then
      match s.defer p (.store none l bs) with
      | some s1 => s1
      | none => (s.writeMem p l bs rs none).overflowed p
    else s.writeMem p l bs rs none
  else if remoteVa va then
    if s.isShadow p then s else s.writeRouted p l bs rs (if full then some true else none)
  else s.writeMem p l bs rs (if full then some true else none)

/-- Change a command of a chain slot. -/
def State.modCmd (s : State) (p slot seq : Nat) (f : Cmd → Cmd) : State :=
  s.modCore p fun c =>
    let x := look Chain.free slot c.chains
    { c with chains := put slot { x with cmds := x.cmds.map fun m => if m.seq = seq then f m else m } c.chains }

/-- The bytes of an engine's ring entry (R433). -/
def engEntry (m : Cmd) (slot kind cause made : Nat) (va : Word) : List Byte :=
  entryBytes (snagWord0 false cause m.strand kind 0 0 0 0 made) va.toNat 0 (2 ^ 63 + slot * 2 ^ 56 + m.seq % 2 ^ 48)

/-- A faulting access of a command becomes a ring entry on which the command waits (R311); on a core without a ring it counts
as failed (R432). While the ring has no free entry it waits, and with it every later word of class M of the core (R434): none once it does. -/
def State.engFault (s : State) (p slot : Nat) (m : Cmd) (kind cause : Nat) (va : Word) (waits : Nat → Cmd → Cmd)
    (failed : Cmd → Cmd) : Option State :=
  let sup := (s.core p).sup
  let s1 := if m.parked then s else s.countDrop (s.engWho p m.sup) cause va.toNat
  let free (f : Cmd → Cmd) (x : Cmd) : Cmd := { f x with parked := false }
  if sup.tcmLen < 2 then some (s1.modCmd p slot m.seq (free failed))
  else
    match (s1.core p).freeRun 1, s1.pushSnag p (.engine slot m.seq) cause va [engEntry m slot kind cause sup.made va] with
    | some i, some s2 => some (s2.modCmd p slot m.seq (free (waits i)))
    | _, _ => if m.parked then none else some (s1.modCmd p slot m.seq fun x => { x with parked := true })

/-! ## The pieces of a command's work (R108, R131, R134) -/

/-- A command as APPEND gives it to its engine. -/
def Cmd.fresh (seq eop : Nat) (e : Ecw) (k : Nat) (pc : Word) (id : Nat) (sup : Bool) (table : List (BitVec 19)) (rows : List Nat) : Cmd :=
  { seq := seq, eop := eop, ecw := e, strand := k, pc := pc, id := id, sup := sup, table := table, phase := .queued, started := false,
    progress := 0, stage := 0, args := [], work := [], wrote := [], plane := 0, began := 0, status := 0, events := 0, reload := 0,
    loading := false, locked := rows, asked := none, passed := false, aElems := [], aScales := [], wBytes := [], wScales := [], wTables := [], parked := false, engine := none }

/-- The piece is reading. -/
def Piece.reading (c : Piece) : Bool := !c.reads.isEmpty

/-- The parts of a piece that may be performed next: those of its reads or writes that do not wait at a closure router. -/
def Piece.free (c : Piece) : List Part :=
  (if c.reading then c.reads else c.writes).filter fun x => !c.sent.contains (c.reading, x.num)

/-- The parts of one operation of a piece: all of a block, else one that `r` picks. -/
def Piece.next (c : Piece) (r : Nat) : List Part := if c.block then c.free else (c.free[r % c.free.length]?).toList

/-- The operation of a command that comes next, of those that have no order among themselves: `r` picks it (R108, R131). -/
def Cmd.pick (m : Cmd) (r : Nat) : Option (Piece × List Part) :=
  let l := m.work.filter fun c => !c.free.isEmpty
  (l[r % l.length]?).map fun c => (c, c.next (r / 2 ^ 32))

/-- A piece in place of its older form; one with nothing left to do is gone. -/
def Cmd.setPiece (m : Cmd) (c : Piece) : Cmd :=
  if c.reads.isEmpty && c.writes.isEmpty then { m with work := m.work.filter fun x => x.num ≠ c.num }
  else { m with work := m.work.map fun x => if x.num = c.num then c else x }

/-- The piece of a command with a number. -/
def Cmd.piece (m : Cmd) (num : Nat) : Option Piece := m.work.find? fun x => x.num = num

/-- An access of a command to host memory waits from this tick on (R448). -/
def Cmd.asks (m : Cmd) (now : Nat) : Cmd := { m with asked := some now }

/-- Reads of a piece have found their bytes. A piece that writes nothing gives its words to the arguments, from its own number on. -/
def Cmd.hasRead (m : Cmd) (c : Piece) (l : List (Part × List Byte)) : Cmd :=
  let c1 := { c with
    reads := c.reads.filter fun x => l.all fun y => y.1.num ≠ x.num
    got := l.foldl (fun g y => put y.1.num y.2 g) c.got
    sent := c.sent.filter fun x => !(x.1 && l.any fun y => y.1.num = x.2) }
  if c1.reads.isEmpty && c1.writes.isEmpty then
    { m.setPiece c1 with asked := none, parked := false,
                         args := c1.got.foldl (fun a x => put (c.num + x.1) (BitVec.ofNat 64 (leNat x.2)) a) m.args }
  else { m.setPiece c1 with asked := none, parked := false }

/-- Writes of a piece are made. -/
def Cmd.hasWritten (m : Cmd) (c : Piece) (l : List Part) (ev : Nat) : Cmd :=
  let c1 := { c with
    writes := c.writes.filter fun x => l.all fun y => y.num ≠ x.num
    sent := c.sent.filter fun x => x.1 || l.all fun y => y.num ≠ x.2 }
  { m.setPiece c1 with asked := none, parked := false, events := m.events ||| ev, progress := m.progress + (if c1.writes.isEmpty then 1 else 0) }

/-- A word written at a location counts toward a whole codeword outside TCM that holds an error: the last of its words clears it (R416). -/
def State.cover (s : State) (m : Cmd) (l : Nat) : Cmd × State :=
  let l := plain l
  if (decide (2 ^ 48 ≤ l) && decide (l < 2 ^ 49)) || !s.poisoned l 8 then (m, s)
  else
    let ws := addNat (l / 8 * 8) m.wrote
    let (q, n) := codeword l
    if (List.range (n / 8)).all (fun i => ws.contains (q + 8 * i)) then
      ({ m with wrote := ws.filter fun w => decide (w < q) || decide (q + n ≤ w) }, { s with poison := delNat q s.poison })
    else ({ m with wrote := ws }, s)

/-- The writes of one operation of a command are made at their locations. -/
def State.engStores (s : State) (p : Nat) (m : Cmd) (full : Bool) : List ((Part × Nat × Bool × Bool) × List Byte) → Cmd × State
  | [] => (m, s)
  | ((x, l, rs, host), bs) :: r =>
    let s1 := s.engStore p x.va l bs rs host full
    let (m1, s2) := if bs.length = 8 then s1.cover m l else (m, s1)
    s2.engStores p m1 full r

/-- The charge of a part at a location (R358, R383). -/
def State.toll (s : State) (p : Nat) (x : Part) (l : Nat) : Nat :=
  if x.toll = 0 then 0 else s.accessCharge p l 64 + (if x.toll = 2 then s.charge p 12 else 0)

/-- The command of a chain slot with a sequence number. -/
def Core.cmdAt (c : Core) (slot seq : Nat) : Option Cmd := (look Chain.free slot c.chains).cmds.find? fun m => m.seq = seq

/-! ## Completion (R310) -/

/-- The completion status of a command (R310). -/
def Cmd.statusWord (m : Cmd) : Nat := m.status * 2 ^ 56 + m.events % 256 * 2 ^ 48 + min m.reload (2 ^ 48 - 1)

/-- A command has completed: the count, the error record, the signals (R308, R310, R213). `wrote`: its completion word was
written. -/
def State.finishCmd (s : State) (p slot : Nat) (m : Cmd) (wrote : Bool) : State :=
  let ch := look Chain.free slot (s.core p).chains
  let err := if m.status ≠ 0 ∧ ch.err = 0 then BitVec.ofNat 64 (m.status * 2 ^ 56 + m.seq % 2 ^ 48) else ch.err
  let s1 := s.modCore p fun c =>
    let x : Core := { c with chains := put slot { ch with completed := m.seq, err := err, cmds := ch.cmds.drop 1 } c.chains }
    let y := x.unlockRows m.locked
    if wrote ∨ m.ecw.irq = 1 then y.wake ch.binder 1 else y
  ((if m.ecw.irq = 1 ∧ ch.hirq ∧ !s.isShadow p then s1.chainMsix p ch.vec else s1).dropFill p m).markMigrating p

/-- A completion write was lost: STATUS 2 where the command had none; a command that had failed keeps its own STATUS in the error record
(R310; DESIGN CHOICE, log entry 68). -/
def Cmd.lost (m : Cmd) : Cmd := { m with status := if m.status = 0 then 2 else m.status }

/-- A completion write of a command, which the engine makes when every other write of it is made (R131, R310): word 1 of the ring entry, or the
completion word, which it sets full. -/
def Cmd.finalWrite (m : Cmd) (ch : Chain) (w : Nat) : Word × List Byte :=
  if w % 2 = 0 then (ch.ring + BitVec.ofNat 64 (32 * ((m.seq - 1) % 2 ^ ch.logn) + 8), natBytes 8 m.statusWord)
  else (ch.cword, natBytes 8 m.seq)

/-- After a completion write: the completion word comes next, or the command has completed. -/
def State.afterFinal (s : State) (p slot : Nat) (m : Cmd) (w : Nat) : State :=
  if w = 0 then s.modCmd p slot m.seq fun _ => { m with phase := .completing 1 256, parked := false } else s.finishCmd p slot m true

/-- Post a message of an engine of a pair at the closure router (R410). -/
def State.postEng (s : State) (p elem : Nat) (hash : Word) (g : EngMsg) : Option State :=
  match s.pairOf p with
  | none => none
  | some (a, b) =>
    let x : Closure := { primary := a, kind := .engine, strand := g.slot, pc := BitVec.ofNat 64 g.seq, elem := elem, msg := none,
                         xfer := none, eng := some g, hashP := none, hashS := none, idP := 0, idS := 0, since := s.now,
                         stops := s.stopTicks a }
    (postClosure (decide (p = b)) x hash g.seq s.closures).map fun l => { s with closures := l }

/-- The hash of a message of an engine: whether it writes, its addresses and its bytes. -/
def engHash (rd : Bool) (l : List (Part × List Byte)) : Word :=
  closureHash ((if rd then 8 else 9) :: l.flatMap fun x => [x.1.va, BitVec.ofNat 64 (leNat x.2)])

/-- A completion write of a command faults: it waits on a ring entry, or has failed (R310, R311). -/
def State.finalFault (s : State) (p slot : Nat) (m : Cmd) (w kind cause : Nat) (va : Word) : Host.Outcome State Fault Refusal :=
  match s.engFault p slot m kind cause va (fun i _ => { m with phase := .completing w i, asked := none })
      (fun _ => { m with phase := .completing (w + 2) 256, asked := none }) with
  | some s1 => .next s1
  | none => .fault .notEnabled

/-- A completion write of a command, once the hawk of its core holds its charge (R310, R358). -/
def State.writeFinal (s : State) (p slot : Nat) (m : Cmd) (w : Nat) : Host.Outcome State Fault Refusal :=
  let (va, bs) := m.finalWrite (look Chain.free slot (s.core p).chains) w
  let x : Part := { num := 0, va := va, loc := none, n := 8, toll := 1 }
  match s.partAt p m.sup true x with
  | .ok (l, rs, host) =>
    let h := m.engineOf p
    if !s.canPay h (s.toll h x l) then .fault .notEnabled
    else
    let s := (s.payFor p h (s.toll h x l)).walked p va
    if remoteVa va && s.paired p then
      let g : EngMsg := { slot := slot, seq := m.seq, piece := 0, rd := false, parts := [(x, l, rs, host)], bytes := [bs], events := 0,
                          full := decide (w = 1), final := some w }
      (match s.postEng p (4 * w + 3) (engHash false [(x, bs)]) g with
      | some s1 => .next (s1.modCmd p slot m.seq fun _ => { m with phase := .completing w 257 })
      | none => .fault .notEnabled)
    else .next ((s.engStore p va l bs rs host (decide (w = 1))).afterFinal p slot m w)
  | .fault k c va => s.finalFault p slot m w k c va
  | .slow k va =>
    (match m.asked with
    | none => .next (s.modCmd p slot m.seq fun _ => { m.asks s.now with phase := .completing w 256 })
    | some t => if s.now < t + hostLimit then .fault .notEnabled else s.finalFault p slot m w k 7 va)
  | _ => .fault .notEnabled

/-- The oldest command of a chain slot of a core. -/
def Core.headCmd (c : Core) (slot : Nat) : Option Cmd := (look Chain.free slot c.chains).cmds.head?

/-- ENGINE_COMMAND_COMPLETE: the oldest command of a chain has done its work; the next of its completion writes is made (R310). -/
def execEngineCommandComplete (core slot : Nat) (s : State) : Host.Outcome State Fault Refusal :=
  match (s.core core).headCmd slot with
  | none => .fault .notEnabled
  | some m =>
    if (s.core core).stop = some .gang ∨ s.now < (s.core core).resumeAt then .fault .notEnabled
    else
      match m.phase with
      | .finished => s.writeFinal core slot m 0
      | .completing w 256 =>
        (match w with
        | 0 => s.writeFinal core slot m 0
        | 1 => s.writeFinal core slot m 1
        | 2 => s.writeFinal core slot m.lost 1
        | _ => .next (s.finishCmd core slot m.lost false))
      | _ => .fault .notEnabled

/-! ## Messages of a pair's engines (R410) -/

/-- The engine message of a pair takes place: the primary's read or write, of which both twins' commands take note. A command that has ended since
takes none. -/
def State.engForward (s : State) (a b : Nat) (g : EngMsg) : State :=
  match (s.core a).cmdAt g.slot g.seq, (s.core b).cmdAt g.slot g.seq with
  | some ma, some mb =>
    (match g.final with
    | some w =>
      let s1 := (g.parts.zip g.bytes).foldl (fun x y => x.engStore a y.1.1.va y.1.2.1 y.2 y.1.2.2.1 y.1.2.2.2 g.full) s
      (s1.afterFinal a g.slot ma w).afterFinal b g.slot mb w
    | none =>
      match ma.piece g.piece, mb.piece g.piece with
      | some ca, some cb =>
        if g.rd then
          let l := g.parts.map fun x => (x.1, s.engBytes a x.2.1 x.1.n)
          (s.modCmd a g.slot g.seq fun _ => ma.hasRead ca l).modCmd b g.slot g.seq fun _ => mb.hasRead cb l
        else
          let (m1, s1) := s.engStores a ma g.full (g.parts.zip g.bytes)
          let ps := g.parts.map (·.1)
          (s1.modCmd a g.slot g.seq fun _ => m1.hasWritten ca ps g.events).modCmd b g.slot g.seq fun _ => mb.hasWritten cb ps g.events
      | _, _ => s)
  | _, _ => s

end Sys2Proof.Machine
end

