-- ==== Sys2Proof/Machine/Exchange.lean ====
section
/-! DEFINITION. Exchange plans, transfers and the exchange barrier (R34 to R45, R408), and the closure checks of paired mode
(R410, R411). -/

namespace Sys2Proof.Machine

/-! ## Reading a plan (R40 to R43) -/

/-- What a read for an exchange finds. -/
inductive Fetched (α : Type) where
  | got (x : α)
  /-- It faults, or the plan is invalid; the die whose firewall dropped it (R384). -/
  | bad (wall : Option Nat)
  /-- It waits for a migration, or for host memory whose link is down (R448). -/
  | wait
  /-- It reads a poisoned codeword: a consumption (R417). -/
  | poison (l : Nat)

/-- The tick from which the exchange unit of a core reads its plan: X (R35). -/
def State.planFrom (s : State) (p : Nat) : Nat :=
  match s.instOf p with
  | some (_, i) => i.x.getD 0
  | none => 0

/-- A word at a program address as the exchange unit of core `p` reads it. -/
def State.fetchWord8 (s : State) (p va : Nat) : Fetched Word :=
  match s.reachEngine p (BitVec.ofNat 64 va) 8 false with
  | .loc l _ host =>
    if host && !s.hostUp then (if s.now < s.planFrom p + hostLimit then .wait else .bad none)
    else if s.poisoned l 8 then .poison l
    else .got (s.loadWord l)
  | .fault k => .bad (if k = 8 then s.wallAt { pcid := p, sup := false, firmware := s.isPlumb p } va else none)
  | _ => .wait

/-- Consecutive words. -/
def State.fetchWords (s : State) (p : Nat) : Nat → Nat → Fetched (List Word)
  | _, 0 => .got []
  | va, n + 1 =>
    match s.fetchWord8 p va with
    | .got w => (match s.fetchWords p (va + 8) n with
      | .got r => .got (w :: r)
      | x => x)
    | .bad d => .bad d
    | .wait => .wait
    | .poison l => .poison l

/-- Bytes of an exchange space (R42). -/
def spaceSize (sp : Nat) : Nat :=
  match sp with
  | 0 => 2 ^ 17
  | 1 => 2 ^ 20
  | 2 => 2 ^ 26
  | _ => 0

/-- A record of a plan of `p` cores, where its four words are valid (R42, R43). -/
def planRecord (cores num : Nat) (w0 w1 w2 w3 : Word) : Option PlanRecord :=
  let r : PlanRecord :=
    { num := num, offset := fieldNat w0 40 24, dlc := fieldNat w0 27 13, dspace := fieldNat w0 24 3, sspace := fieldNat w0 21 3,
      len := fieldNat w0 0 21, srcoff := w1.toNat, dstoff := w2.toNat, setfull := w3 = 1 }
  if r.dlc < cores ∧ r.dspace < 3 ∧ r.sspace < 3 ∧ w3.toNat < 2 ∧ r.len % 8 = 0 ∧ 8 ≤ r.len ∧ r.len ≤ 2 ^ 20 ∧
      r.srcoff % 8 = 0 ∧ r.dstoff % 8 = 0 ∧ r.srcoff + r.len ≤ spaceSize r.sspace ∧ r.dstoff + r.len ≤ spaceSize r.dspace then
    some r
  else none

/-- The records of a plan from an address on. -/
def State.readRecords (s : State) (p cores : Nat) : Nat → Nat → Nat → Fetched (List PlanRecord)
  | _, _, 0 => .got []
  | va, num, n + 1 =>
    match s.fetchWords p va 4 with
    | .got [w0, w1, w2, w3] =>
      (match planRecord cores num w0 w1 w2 w3 with
      | none => .bad none
      | some r => (match s.readRecords p cores (va + 32) (num + 1) n with
        | .got l => .got (r :: l)
        | x => x))
    | .got _ => .bad none
    | .bad d => .bad d
    | .wait => .wait
    | .poison l => .poison l

/-- A plan: RXTOTAL and records. -/
def State.readPlan (s : State) (p cores va : Nat) : Fetched (Nat × List PlanRecord) :=
  match s.fetchWords p va 4 with
  | .got [w0, w1, w2, w3] =>
    if fieldNat w0 56 8 ≠ 1 ∨ fieldNat w0 17 39 ≠ 0 ∨ 65536 < fieldNat w0 0 17 ∨ fieldNat w1 40 24 ≠ 0 ∨ w2 ≠ 0 ∨ w3 ≠ 0 then
      .bad none
    else
      (match s.readRecords p cores (va + 32) 0 (fieldNat w0 0 17) with
      | .got l => .got (fieldNat w1 0 40, l)
      | .bad d => .bad d
      | .wait => .wait
      | .poison l => .poison l)
  | .got _ => .bad none
  | .bad d => .bad d
  | .wait => .wait
  | .poison l => .poison l

/-- The plan that a core's exchange unit begins, and the address that a plan trap reports (R40, R43). -/
def State.startPlan (s : State) (p : Nat) (i : Instance) (t : Tract) : Fetched (Nat × List PlanRecord) × Word :=
  let entry := t.plantab.toNat + 8 * ((s.core p).exch.plan * i.p + s.relOf p)
  if t.plantab = 0 then (.got (0, []), 0)
  else
    match s.fetchWord8 p entry with
    | .got a =>
      if a = 0 then (.got (0, []), a)
      else if a.toNat % 32 ≠ 0 then (.bad none, a)
      else (s.readPlan p i.p a.toNat, a)
    | .bad d => (.bad d, BitVec.ofNat 64 entry)
    | .wait => (.wait, 0)
    | .poison l => (.poison l, 0)

/-- The translations that the plan's reading has used are installed (R99). -/
def State.planWalked (s : State) (p : Nat) (i : Instance) (t : Tract) : State :=
  let entry := t.plantab.toNat + 8 * ((s.core p).exch.plan * i.p + s.relOf p)
  if t.plantab = 0 then s
  else match s.fetchWord8 p entry with
  | .got 0 => s.walked p (BitVec.ofNat 64 entry)
  | .got a =>
    let n := match s.fetchWord8 p a.toNat with
      | .got w => fieldNat w 0 17
      | _ => 0
    (List.range (n + 1)).foldl (fun x k => x.walked p (a + BitVec.ofNat 64 (32 * k))) (s.walked p (BitVec.ofNat 64 entry))
  | _ => s

/-! ## The exchange barrier -/

/-- The machine check of an exchange overrun (R44, R408). -/
def State.overrun (s : State) (p : Nat) : State :=
  (s.mcLog p { cause := 5, unit := 6, lane := 0, op := 0x1EA, eop := 0, pc := (s.core p).exch.pc, obs := 0, expected := 0 }).killTractOf
    p 1 0

/-- The twin of a core, or the core itself, has arrived at the exchange barrier. -/
def State.mateExchanged (s : State) (p : Nat) : Bool :=
  match (s.core p).place with
  | some pl => pl.twin = 0 || (s.core pl.mate).exch.state = .exchanged
  | none => true

/-- The core's plan is issued and all its bytes have come: it arrives at the exchange barrier, which the last arrival
completes, unless a core of the instance has ended (R34, R35, R44, R55, R290). -/
def State.finishExch (s : State) (p : Nat) : State :=
  let e := (s.core p).exch
  if e.state = .exchanging ∧ e.bad = false ∧ e.todo = [] ∧ e.rx = e.rxtotal then
    let s1 := s.modCore p fun c => { c with exch := { c.exch with state := .exchanged } }
    match s1.instOf p with
    | none => s1
    | some (n, i) =>
      let arr := if s1.mateExchanged p then addNat (s1.relOf p) i.g0.arr else i.g0.arr
      if arr.length = i.p ∧ i.ended = [] then
        (s1.modInst n fun j => { j with
          g0 := { j.g0 with arr := [], phase := j.g0.phase + 1 }, enter := some (s.now + s.barrierDelay i) }).modInstCores n
            fun c => { c with exch := { c.exch with count := c.exch.count + 1 } }
      else s1.modInst n fun j => { j with g0 := { j.g0 with arr := arr } }
  else s

/-- Bytes of a superstep are received: they count toward RXTOTAL; too many, or bytes of a superstep that is over, are an overrun (R44). -/
def State.addRx (s : State) (p n step : Nat) : State :=
  if step ≠ (s.core p).exch.count then s.overrun p
  else
    let s1 := s.modCore p fun c => { c with exch := { c.exch with rx := c.exch.rx + n } }
    let e := (s1.core p).exch
    if (e.state = .exchanging ∨ e.state = .exchanged) ∧ e.bad = false ∧ e.rxtotal < e.rx then s1.overrun p else s1.finishExch p

/-! ## EXCHANGE_START (R43, R300) -/

/-- An invalid plan: the waiting SSTEP traps, or the core's next one (R300). -/
def State.planTrap (s : State) (p : Nat) (info : Word) : State :=
  let waits := match (s.strand p 0).wait with
    | some w => (match w.kind with
      | .sstep _ => true
      | _ => false)
    | none => false
  let s1 := s.modCore p fun c => { c with exch := { c.exch with state := .exchanging, bad := true } }
  if waits then
    let ms := s1.members p
    (ms.foldl (fun x q => x.clearWait q 0) s1).trapAll 0 { cause := 18, code := 0, info := info } ms
  else s1.modCore p fun c => { c with exch := { c.exch with planTrap := some info } }

/-- EXCHANGE_START: at X the exchange unit checks its whole plan and begins (R35, R43). -/
def execExchangeStart (core : Nat) (s : State) : Host.Outcome State Fault Refusal :=
  match s.instOf core, s.tractOf core with
  | some (_, i), some t =>
    (match i.x with
    | none => .fault .notEnabled
    | some x =>
      if s.now < x ∨ (s.core core).exch.state ≠ .arrived ∨ (s.core core).stop.isSome ∨ i.status.isSome then
        .fault .notEnabled
      else
        match s.startPlan core i t with
        | (.wait, _) => .fault .notEnabled
        | (.poison _, _) => .fault .notEnabled
        | (.bad d, info) => .next ((s.dropAt d).planTrap core info)
        | (.got (rx, l), _) =>
          let s1 := (s.planWalked core i t).modCore core fun c => { c with exch := { c.exch with
            state := .exchanging, todo := l, rxtotal := rx } }
          .next (s1.addRx core 0 (s.core core).exch.count))
  | _, _ => .fault .notEnabled

/-! ## EXCHANGE_RECORD_ISSUE (R38, R42) -/

/-- The core whose DRAM channel an exchange space names: channels are not mirrored (R409). -/
def State.channelCore (s : State) (p : Nat) : Nat :=
  match (s.core p).place with
  | some pl => if pl.twin = 2 then pl.mate else p
  | none => p

/-- The location of an offset in an exchange space of a core (R42). -/
def State.spaceLoc (s : State) (p sp off : Nat) : Nat :=
  match sp with
  | 0 => tcmBase p + off
  | 1 => cspBase (cluOf p) + off
  | _ => s.channelCore p * 2 ^ 26 + off

/-- The record that leaves first. -/
def earliest : List PlanRecord → Option PlanRecord
  | [] => none
  | r :: rest => match earliest rest with
    | none => some r
    | some q => if q.offset < r.offset then some q else some r

/-- Word 0 of a plan record. -/
def PlanRecord.word0 (r : PlanRecord) : Word :=
  BitVec.ofNat 64 (r.offset * 2 ^ 40 + r.dlc * 2 ^ 27 + r.dspace * 2 ^ 24 + r.sspace * 2 ^ 21 + r.len)

/-- Bytes as 64-bit words. -/
def wordsOfBytes (n : Nat) (bs : List Byte) : List Word :=
  (List.range n).map fun i => BitVec.ofNat 64 (leNat ((bs.drop (8 * i)).take 8))

/-- A record of non-supervisor origin names the supervisor area: the aperture fault of its access reaches the sender's control strand as a failed
access does, by cause 20 (R89; DESIGN CHOICE, log entry 28). -/
def State.exchFault (s : State) (p va : Nat) : State :=
  s.modStrand p 0 fun t => { t with failed := t.failed ++ [(8, BitVec.ofNat 64 va)] }

/-- A record whose words have all been read leaves (R42): a transfer, but from the shadow of a pair, which sends its hash only (R410), and from a
source in the supervisor area, of another origin, which is an aperture fault (R89). -/
def State.sendRecord (s : State) (core n : Nat) (i : Instance) (r : PlanRecord) (ws : List Word) : Option State :=
  let e := (s.core core).exch
  let hash := closureHash (r.word0 :: ws)
  let s1 := s.modCore core fun c =>
    { c with exch := { c.exch with todo := c.exch.todo.filter (fun q => q.num ≠ r.num), read := [] } }
  let t : Transfer := { src := core, part := i.part, dst := i.base + r.dlc, dspace := r.dspace, off := r.dstoff,
                        bytes := ws.flatMap fun w => natBytes 8 w.toNat, setfull := r.setfull, inst := n, hash := hash, sup := e.sup,
                        counted := (s.pairOf core).isNone, num := r.num, step := e.count, left := List.range (r.len / 8) }
  let lost := r.sspace = 0 ∧ !e.sup ∧ (s.core core).inSupArea r.srcoff r.len
  let s2 := if lost then s1.exchFault core (aperture + r.srcoff)
    else if s.isShadow core then s1 else { s1 with transfers := s1.transfers ++ [t] }
  match s.pairOf core with
  | none => some (s2.finishExch core)
  | some (a, b) =>
    let c : Closure := { primary := a, kind := .record, strand := 0, pc := e.pc, elem := r.num, msg := none,
                         xfer := if core = b then none else some t, eng := none, hashP := none, hashS := none, idP := 0, idS := 0,
                         since := s.now, stops := s.stopTicks a }
    (postClosure (decide (core = b)) c hash e.mark s2.closures).map fun cs => { s2 with closures := cs }.finishExch core

/-- The words of a record that have not been read. -/
def Exch.unread (e : Exch) (r : PlanRecord) : List Nat := (List.range (r.len / 8)).filter fun j => (find j e.read).isNone

/-- EXCHANGE_RECORD_ISSUE: a word of a core's next record is read, at its offset after X, one that a free value picks; with the last the record leaves
(R42, R108). The record's charge is taken with its first word (R358). -/
def execExchangeRecordIssue (core : Nat) (s : State) : Host.Outcome State Fault Refusal :=
  let e := (s.core core).exch
  match s.instOf core, earliest e.todo with
  | some (n, i), some r =>
    let js := e.unread r
    let j := js.getD (s.freeWord.toNat % js.length) 0
    let l := s.spaceLoc core r.sspace r.srcoff + 8 * j
    let cost := if e.read.isEmpty then (r.len + 63) / 64 * s.charge core 13 else 0
    if e.state ≠ .exchanging ∨ 2 * s.now < 2 * i.x.getD 0 + r.offset ∨ (s.core core).stop.isSome ∨ s.poisoned l 8 ∨
        !s.canPay core cost then .fault .notEnabled
    else
      let ws := put j (s.loadWord l) e.read
      let s1 := (s.drawn.pay core 0 cost).modCore core fun c => { c with exch := { c.exch with read := ws } }
      if 1 < js.length then .next s1
      else match s1.sendRecord core n i r ((List.range (r.len / 8)).map fun q => look 0 q ws) with
        | some s2 => .next s2
        | none => .fault .notEnabled
  | _, _ => .fault .notEnabled

/-! ## EXCHANGE_RECEIVE (R44, R49, R51, R447) -/

/-- A logical core's received bytes count on both twins (R410). -/
def State.addRxBoth (s : State) (p n step : Nat) : State :=
  match s.pairOf p with
  | none => s.addRx p n step
  | some (a, b) => (s.addRx a n step).addRx b n step

/-- A transfer has crossed the mesh: a router of some die has delayed it by some cycles, which the spec does not state, or none has (R39, R371). -/
def State.slip (s : State) : State :=
  let v := s.freeWord.toNat
  let n := v % 2 ^ 32
  if n = 0 then s.drawn
  else s.drawn.modDie (v / 2 ^ 45 % s.dieCount) fun x =>
    { x with slipCycles := (x.slipCycles + n) % 2 ^ 32, slipPcid := v / 2 ^ 45 % s.dieCount * 2048 + v / 2 ^ 32 % 2048 }

/-- The instance of a transfer still runs. -/
def State.wanted (s : State) (t : Transfer) : Bool :=
  match find t.inst s.insts with
  | some i => i.status.isNone
  | none => false

/-- A word of a transfer is written; the record is over with its last one. -/
def State.receive (s : State) (k : Nat) (t : Transfer) (q : Nat) : State :=
  let j := t.left.getD (s.freeWord.toNat % t.left.length) 0
  let l := s.spaceLoc q t.dspace t.off + 8 * j
  let last := decide (t.left.length ≤ 1)
  let s0 := if last then s.drawn.slip else s.drawn
  let s1 : State := { s0 with transfers := if last then s.transfers.eraseIdx k else s.transfers.set k { t with left := t.left.erase j } }
  let s2 := s1.writeRouted t.src l ((t.bytes.drop (8 * j)).take 8) false (if t.setfull then some true else none)
  if last && t.counted then s2.addRxBoth q t.bytes.length t.step else s2

/-- EXCHANGE_RECEIVE: a word of transfer `k` arrives, one that a free value picks (R108); the record's bytes count with its last (R44). -/
def execExchangeReceive (k : Nat) (s : State) : Host.Outcome State Fault Refusal :=
  match s.transfers[k]? with
  | none => .fault .notEnabled
  | some t =>
    let gone := { s.slip with transfers := s.transfers.eraseIdx k }
    let e := s.remapAt t.part t.dst
    let barred := t.dspace = 0 ∧ !t.sup ∧ (s.core e.pcid).inSupArea t.off t.bytes.length
    if !s.wanted t ∨ e.valid = false ∨ e.state = 2 then .next gone
    else if barred ∧ e.state ≠ 1 then .next (gone.exchFault t.src (aperture + 2 ^ 38 + t.dst * 2 ^ 24 + t.off))
    else if e.state = 1 then .fault .notEnabled
    else .next (s.receive k t e.pcid)

/-! ## CLOSURE_CHECK and CLOSURE_TIMEOUT (R410, R411) -/

/-- The opcode of the word at an address of a core's code, where its instruction store holds it. -/
def Core.opcodeAt (c : Core) (pc : Word) : Nat :=
  match find pc.toNat c.istore with
  | some w => (Fields.ofWord w).op.toNat
  | none => 0

/-- What a closure's record names: PC, OP and EOP, for an engine's message those of the APPEND (R403, R411). -/
def State.closureOp (s : State) (c : Closure) (p : Nat) : Word × Nat × Nat :=
  match c.eng with
  | none => (c.pc, (s.core p).opcodeAt c.pc, 0)
  | some g => match (s.core c.primary).cmdAt g.slot g.seq with
    | some m => (m.pc, 0, m.eop)
    | none => (0, 0, 0)

/-- A closure mismatch: a record for each twin, the kill of the tract, quarantine of both cores (R411). -/
def State.mismatch (s : State) (c : Closure) : State :=
  let m (p : Nat) : McInfo :=
    let (pc, op, eop) := s.closureOp c p
    { cause := 4, unit := 5, lane := 0, op := op, eop := eop, pc := pc, obs := 0, expected := 0 }
  let mate := match (s.core c.primary).place with
    | some pl => pl.mate
    | none => c.primary
  let s1 := (s.mcLog c.primary (m c.primary)).mcLog mate (m mate)
  ((s1.killTractOf c.primary 1 c.primary).quarCore c.primary).quarCore mate

/-- The operation of a pair that both twins have posted takes place: the primary's message goes on, and its response reaches
both twins. An LDS of own memory reads each twin's own, and a block store of which a part is of own memory writes each twin's. -/
def State.performPair (s : State) (a b : Nat) (x y : MemOp) : Option State :=
  match s.access a x with
  | .fault c => some ((s.snagOp a x c).snagOp b y c)
  | .loc l rs host =>
    if !s.mayPerform a x l host then none
    else
      let s1 := s.pay a 0 (s.accessCharge a l x.bytes)
      if x.allRouted then
        if host && s1.rollbackMode a && x.kind.writes && decide ((s1.core a).exch.deferred.length < 64) then
          (s1.deferOp a x l rs).map fun s2 => if x.kind = .atomic then s2 else s2.finishMate a x 0
        else
          let (s2, v) := s1.effect a x l rs
          let s3 := if host && s1.rollbackMode a && x.kind.writes then s2.overflowed a else s2
          some (((s3.finishOp a x v).finishOp b y v).wholeRow a x l)
      else
        match s.access b y with
        | .loc m rs2 h2 =>
          if s.mayPerform b y m h2 then
            some (((s1.pay b 0 (s.accessCharge b m y.bytes)).perform a x l rs host).perform b y m rs2 h2)
          else none
        | _ => none
  | _ => none

/-- The bytes of a record have left the mesh. -/
def State.delivered (s : State) (c : Closure) : Bool :=
  s.transfers.all fun t => !(decide (t.src = c.primary) && decide (t.num = c.elem) && !t.counted)

/-- What the closure router does with a message whose hashes agree. -/
def State.forward (s : State) (c : Closure) : Option State :=
  match c.kind with
  | .send => (match c.msg with
    | some m => some (s.sendMessage m)
    | none => some s)
  | .record =>
    if !s.delivered c then none
    else (match c.xfer with
      | none => some s
      | some t =>
        let e := s.remapAt t.part t.dst
        if e.valid = false ∨ e.state = 2 then some s
        else if e.state = 1 then none
        else some (s.addRxBoth e.pcid t.bytes.length t.step))
  | .engine => (match s.pairOf c.primary, c.eng with
    | some (a, b), some g => some (s.engForward a b g)
    | _, _ => some s)
  | .op =>
    (match s.pairOf c.primary with
    | none => some s
    | some (a, b) => (match (s.core a).opAt c.idP c.elem, (s.core b).opAt c.idS c.elem with
      | some x, some y => s.performPair a b x y
      | _, _ => some s))

/-- The message is a pair's LDS of its own memories, which no router carries. -/
def State.localLds (s : State) (c : Closure) : Bool :=
  let near (o : Option MemOp) : Bool := match o with
    | some o => !o.routed
    | none => false
  c.kind = .op && match s.pairOf c.primary with
    | some (a, b) => near ((s.core a).opAt c.idP c.elem) || near ((s.core b).opAt c.idS c.elem)
    | none => false

/-- CLOSURE_CHECK: the closure router compares the hashes of message `k` (R410). -/
def execClosureCheck (k : Nat) (s : State) : Host.Outcome State Fault Refusal :=
  match s.closures[k]? with
  | none => .fault .notEnabled
  | some c =>
    (match c.hashP, c.hashS with
    | some hp, some hs =>
      let s1 := { s with closures := s.closures.eraseIdx k }
      if hp = hs ∨ s.localLds c then
        (match s1.forward c with
        | some s2 => .next s2
        | none => .fault .notEnabled)
      else .next (s1.mismatch c)
    | _, _ => .fault .notEnabled)

/-- CLOSURE_TIMEOUT: a twin's hash has not come within 65,536 ticks of resident time after the other's (R410). -/
def execClosureTimeout (k : Nat) (s : State) : Host.Outcome State Fault Refusal :=
  match s.closures[k]? with
  | none => .fault .notEnabled
  | some c =>
    let e := s.now - c.since - (s.stopTicks c.primary - c.stops)
    if (c.hashP.isSome ∧ c.hashS.isSome) ∨ e ≤ 65536 ∨ s.localLds c then .fault .notEnabled
    else .next ({ s with closures := s.closures.eraseIdx k }.mismatch c)

end Sys2Proof.Machine
end

