-- ==== Sys2Proof/Machine/Service.lean ====
section
/-! DEFINITION. Residue machine checks, the in-field test, and the rebuild of a memory bank (R401 to R407, R414, R415). -/

namespace Sys2Proof.Machine

/-! ## MACHINE_CHECK (R401, R402) -/

/-- A word with an opcode is checked by a unit: 0 scalar integer and address, 1 scalar FP, 2 vector integer, 3 vector FP. -/
def residueUnit (op unit : Nat) : Bool :=
  match unit with
  | 0 => (decide (0x040 ≤ op) && decide (op ≤ 0x063)) || (decide (0x180 ≤ op) && decide (op ≤ 0x1D6))
  | 1 => decide (0x080 ≤ op) && decide (op ≤ 0x08B)
  | 2 => decide (0x0C0 ≤ op) && decide (op ≤ 0x0D5)
  | 3 => decide (0x100 ≤ op) && decide (op ≤ 0x114)
  | _ => false

/-- The tick of an armed switch of the core's partition has come: it issues no more (R350). -/
def State.switchDue (s : State) (p : Nat) : Bool :=
  match (s.core p).place.bind fun pl => find pl.part s.parts with
  | some pt => !pt.stopped && pt.armed.any fun t => decide (t ≤ s.now)
  | none => false

/-- A strand may issue its next word, as far as its own state goes (R53). -/
def State.strandRuns (s : State) (p k : Nat) : Bool :=
  let t := s.strand p k
  t.live && t.wait.isNone && t.endedBy.isNone && t.fuse.isNone && !t.stopped && decide (t.readyAt ≤ (s.core p).cycle) &&
    (s.core p).stop.isNone && !(s.core p).halt && decide ((s.core p).resumeAt ≤ s.now) && !s.switchDue p

/-- The residues and the lane of a report lie in their ranges (R401, R403). -/
def residueRange (unit lane obs exp : Nat) : Bool :=
  let m := if unit = 4 then 31 else 7
  decide (obs < m) && decide (exp < m) && decide (obs ≠ exp) &&
    decide (lane < (if unit = 4 then 128 else if unit < 2 then 1 else 16))

/-- A started or startable command of a chain slot ends with STATUS 9 (R402, R417). -/
def State.stopCmd (s : State) (p slot seq : Nat) : State :=
  s.modCore p fun c =>
    let x := look Chain.free slot c.chains
    { c with chains := put slot { x with cmds := x.cmds.map fun m =>
        if m.seq = seq then { m with phase := .finished, status := 9, events := 0, work := [] } else m } c.chains }

/-- The core's instance was killed in this tick by a detection (R406). -/
def State.cutNow (s : State) (p : Nat) : Bool :=
  match (s.core p).cut, s.tractOf p with
  | some (t, _), some tr => decide (t = s.now) && tr.killer.any fun x => decide (x.1 = s.now)
  | _, _ => false

/-- The strand could fail at its next word in this tick: it may issue it, or a detection of this tick has just ended it (R406). -/
def State.mayFail (s : State) (p k : Nat) : Bool :=
  s.strandRuns p k || (s.cutNow p && (s.core p).cut.any fun x => x.2.contains k)

/-- The command stands at its passes, or was stopped there by a detection of this tick (R406). -/
def State.passFails (s : State) (p : Nat) (m : Cmd) : Bool :=
  decide (m.eop < 0x20) && decide (m.stage = 4) && (decide (m.phase = .queued) || (s.cutNow p && decide (m.phase = .finished) && decide (m.status = 9)))

/-- MACHINE_CHECK: a residue mismatch at the word that a strand is to issue, or in a pass of the oldest command of a matrix
queue, whose slot `strand` then names (R402): record, kill, quarantine. A second detection in a tick of a kill has its record and quarantine
too (R406). -/
def execMachineCheck (core strand unit lane obs expected : Nat) (s : State) : Host.Outcome State Fault Refusal :=
  let c := s.core core
  if !residueRange unit lane obs expected then .fault .notEnabled
  else if unit = 4 then
    let x := look Chain.free strand c.chains
    match x.cmds with
    | m :: _ =>
      if x.eng ≠ 1 ∨ !s.passFails core m then .fault .notEnabled
      else
        let s1 := (s.mcLog core { cause := 3, unit := 4, lane := lane, op := 0, eop := m.eop, pc := m.pc, obs := obs,
                                  expected := expected }).stopCmd core strand m.seq
        .next ((s1.killTractOf core 1 (2 ^ 13 + cluOf core)).quarArray (cluOf core))
    | [] => .fault .notEnabled
  else
    let pc := (s.strand core strand).pc
    if !s.mayFail core strand ∨ !residueUnit (c.opcodeAt pc) unit then .fault .notEnabled
    else
      let s1 := s.mcLog core { cause := if unit < 2 then 1 else 2, unit := unit, lane := lane, op := c.opcodeAt pc, eop := 0,
                               pc := pc, obs := obs, expected := expected }
      .next ((s1.killTractOf core 1 core).quarCore core)

/-! ## The in-field test (R407) -/

/-- CORE_QUAR's Q bits of a core. -/
def State.quarBits (s : State) (p : Nat) : Nat :=
  let h := (s.core p).health
  (if h.qc then 1 else 0) + (if (s.cluster (cluOf p)).qa then 2 else 0) + (if h.qr then 4 else 0)

/-- A write of 1 to TEST starts the test of every quarantined unit of the core; with none, RESULT is 0. -/
def State.startTest (s : State) (p : Nat) : State :=
  if s.quarBits p = 0 then s.modCore p fun c => { c with health := { c.health with result := 0 } }
  else s.modCore p fun c => { c with health := { c.health with test := true, result := 1 } }

/-- A cleared Q bit returns its unit to service. -/
def State.clearQuar (s : State) (p : Nat) (bits : BitVec 3) : State :=
  let s1 := if bits.getLsbD 0 && (s.core p).health.qc then
      (s.modCore p fun c => { c with health := { c.health with qc := false } }).setRemapState p 0
    else s
  let s2 := if bits.getLsbD 1 then s1.modCluster (cluOf p) fun c => { c with qa := false } else s1
  if bits.getLsbD 2 then s2.modCore p fun c => { c with health := { c.health with qr := false } } else s2

/-- IN_FIELD_TEST: firmware writes TEST of a core with a quarantined unit. -/
def execInFieldTest (core : Nat) (s : State) : Host.Outcome State Fault Refusal :=
  if s.quarBits core = 0 ∨ (s.core core).health.test then .fault .notEnabled else .next (s.startTest core)

/-- IN_FIELD_TEST_DONE: the test ends; its energy, whose amount is not given, goes to DEV_ENOVH_1 (R363, R407). -/
def execInFieldTestDone (core : Nat) (passed : Bool) (s : State) : Host.Outcome State Fault Refusal :=
  if (s.core core).health.test then
    let s1 := s.modCore core fun c => { c with health := { c.health with test := false, result := if passed then 2 else 3 } }
    .next { s1.drawn with enovh := put 1 (look 0 1 s1.enovh + s1.freeWord.toNat) s1.enovh }
  else .fault .notEnabled

/-- QUARANTINE_CLEAR: firmware clears Q bits after a passed test. -/
def execQuarantineClear (core : Nat) (bits : BitVec 3) (s : State) : Host.Outcome State Fault Refusal :=
  if (s.core core).health.result = 2 then .next (s.clearQuar core bits) else .fault .notEnabled

/-! ## Bank rebuild (R414, R415) -/

/-- A write of REBUILD to CORE_TCMECC: ignored while STATE is not 0 or for a bank beyond the array's. -/
def State.rebuildTcm (s : State) (p bank : Nat) : State :=
  if (s.core p).health.eccState ≠ 0 ∨ 9 < bank then s
  else s.modCore p fun c => { c with health := { c.health with eccState := 1, bank := bank, prog := 0 } }

/-- A write of REBUILD to CORE_CSPECC. -/
def State.rebuildCsp (s : State) (n bank : Nat) : State :=
  if (s.cluster n).cspState ≠ 0 ∨ 33 < bank then s
  else s.modCluster n fun c => { c with cspState := 1, cspBank := bank, cspProg := 0 }

/-- BANK_REBUILD: firmware retires a bank of a TCM or of a cluster's scratchpad. -/
def execBankRebuild (core : Nat) (csp : Bool) (bank : Nat) (s : State) : Host.Outcome State Fault Refusal :=
  .next (if csp then s.rebuildCsp (cluOf core) bank else s.rebuildTcm core bank)

/-- Stripes done after one more, and the state, of an array of `n` stripes. -/
def rebuildStep (n prog : Nat) : Nat × Nat := if prog + 1 < n then (prog + 1, 1) else (n % 4096, 2)

/-- REBUILD_STRIPE: the rebuild does the next stripe; no value that a program reads changes. -/
def execRebuildStripe (core : Nat) (csp : Bool) (s : State) : Host.Outcome State Fault Refusal :=
  if csp then
    let c := s.cluster (cluOf core)
    if c.cspState = 1 then
      let (pr, st) := rebuildStep 4096 c.cspProg
      .next (s.modCluster (cluOf core) fun c => { c with cspProg := pr, cspState := st })
    else .fault .notEnabled
  else
    let h := (s.core core).health
    if h.eccState = 1 then
      let (pr, st) := rebuildStep 2048 h.prog
      .next (s.modCore core fun c => { c with health := { c.health with prog := pr, eccState := st } })
    else .fault .notEnabled

end Sys2Proof.Machine
end

