-- ==== Sys2Proof/Machine/Units.lean ====
section
/-! DEFINITION. The palette and the residencies of the matrix array: state, and one meaning for each of their instructions
(R314 to R322, R440, R441). -/

namespace Sys2Proof.Machine

/-- Every byte of a range reads zero, its words are empty and free of errors. -/
def State.wipe (s : State) (a n : Nat) : State :=
  let out (l : Nat) : Bool := !(decide (a ≤ l) && decide (l < a + n))
  { s with mem := s.mem.filter fun e => out e.1, keyed := s.keyed.filter fun e => decide (64 * e.1 + 64 ≤ a) || decide (a + n ≤ 64 * e.1), full := s.full.filter out, poison := s.poison.filter out }

/-! ## Tiles (R314, R315) -/

/-- Element width in bits of a tile format (R315). -/
def tileBits (fmt : Nat) : Nat :=
  match fmt with
  | 0 => 32
  | 1 => 16
  | 2 => 16
  | 3 => 8
  | 4 => 32
  | 5 => 4
  | _ => 8

/-- PITCH of a tile (R315). -/
def pitchOf (fmt cols : Nat) : Nat := 64 * ((cols * tileBits fmt + 511) / 512)

/-- PITCH of a shaped tile. -/
def Tile.pitch (t : Tile) : Nat := pitchOf t.fmt t.cols

/-- The owner number of a tile whose device context does not run. -/
def noOwner : Nat := 8192

/-- A slot of the palette belongs to a tile. -/
def Tile.holds (t : Tile) (slot : Nat) : Bool := decide (t.first ≤ slot) && decide (slot < t.first + t.count)

/-- First location of a tile in the palette of a cluster. -/
def tileLoc (clu : Nat) (t : Tile) : Nat := palBase clu + 4096 * t.first

/-- The live claim of a core with a first slot. -/
def Cluster.tileAt (c : Cluster) (p first : Nat) : Option Tile := c.tiles.find? fun t => t.owner = p && t.first = first

/-- The tile that a tile word names for a core (R316). -/
def State.tileOf (s : State) (p : Nat) (w : Word) : Option Tile :=
  if fieldNat w 16 4 ≠ 0 then none
  else
    match (s.cluster (cluOf p)).tileAt p (fieldNat w 0 6) with
    | some t => if t.count = fieldNat w 6 7 then some t else none
    | none => none

/-- Replace a tile. -/
def State.setTile (s : State) (clu : Nat) (old new : Tile) : State :=
  s.modCluster clu fun c => { c with tiles := c.tiles.map fun t => if t = old then new else t }

/-- Words of an image slot (R351). -/
def slotWords : Nat := 2 ^ 17

/-- An image slot is written: its words are opaque, so free values (R351, log entry 24). -/
def State.writeSlot (s : State) (ctx : Nat) (save : Word) (log : Nat) : State :=
  let b := s.fresh
  let put8 (x : State) (i : Nat) : State :=
    match x.reachCtx ctx (save + BitVec.ofNat 64 (2 ^ 20 * log + 8 * i)) true with
    | .loc l _ _ => x.writeMem 8192 l (natBytes 8 (Config.freeWord (b + i)).toNat) true none
    | _ => x
  { (List.range slotWords).foldl put8 s with fresh := b + slotWords }

/-- A tile that is saved goes into its owner's image: the words of that image are free values anew (R350, R351). -/
def State.imageTile (s : State) (t : Tile) : State :=
  match s.parts.find? fun x => x.2.stopped && x.2.ctx = t.ctx && x.2.slots.any fun e => e.1 = t.log with
  | none => s
  | some (n, _) =>
    let save := match find t.ctx s.ctxs with
      | some c => c.save
      | none => 0
    (s.writeSlot t.ctx save t.log).modPart n fun x => { x with slots := x.slots.map fun e => if e.1 = t.log then (t.log, s.fresh) else e }

/-- A tile of a stopped device context lies in one of the slots. -/
def Tile.displaced (t : Tile) (first n : Nat) : Bool :=
  t.owner = noOwner && t.saved.isNone && decide (t.first < first + n) && decide (first < t.first + t.count)

/-- The tiles of stopped device contexts that hold one of the slots are saved, into their owners' images (R314, R350). -/
def State.saveTiles (s0 : State) (clu first n : Nat) : State :=
  let s := ((s0.cluster clu).tiles.filter fun t => t.displaced first n).foldl State.imageTile s0
  let out (t : Tile) : Tile := if t.displaced first n then { t with saved := some (s.bytes (tileLoc clu t) (4096 * t.count)) } else t
  s.modCluster clu fun c => { c with tiles := c.tiles.map out }

/-- No tile of a running device context, but for one, holds the slot: also a saved one that has not come back yet holds its slots (R314, R352). -/
def State.slotOpen (s : State) (clu slot : Nat) (but : Option Tile) : Bool :=
  (s.cluster clu).tiles.all fun t => some t = but || !t.holds slot || t.owner = noOwner

/-- A slot is free for a claim (R314, R388). -/
def State.slotFree (s : State) (clu slot : Nat) : Bool := s.slotOpen clu slot none && !s.skimmed (palBase clu + 4096 * slot)

/-- A saved tile that its owner touches comes back into its slots (R317); none while another running context holds them. -/
def State.touch (s : State) (clu : Nat) (t : Tile) : Option (State × Tile) :=
  match t.saved with
  | none => some (s, t)
  | some bs =>
    if (List.range t.count).all fun i => s.slotOpen clu (t.first + i) (some t) && !s.skimmed (palBase clu + 4096 * (t.first + i)) then
      let t1 := { t with saved := none }
      let a := tileLoc clu t
      let s1 := ((s.saveTiles clu t.first t.count).wipe a (4096 * t.count)).store a bs
      some (s1.setTile clu t t1, t1)
    else none

/-- A command names a tile of its core by FIRST: its A tile, its scales' or its destination (R324). -/
def Cmd.namesTile (m : Cmd) (t : Tile) : Bool :=
  let within (f : Nat) : Bool := decide (t.first ≤ f) && decide (f < t.first + t.count)
  decide (1 ≤ m.eop) && decide (m.eop ≤ 0x1A) &&
    ((decide (fieldNat m.ecw.opd 53 3 = 5) && within (fieldNat m.ecw.opd 0 6)) ||
      (decide (fieldNat m.ecw.dst 53 3 = 5) && within (fieldNat m.ecw.dst 0 6)) ||
      (decide (8 ≤ m.eop % 16) && within (fieldNat m.ecw.p1 0 6)))

/-- An uncompleted command of the core names the tile (R317). -/
def Core.tileBusy (c : Core) (t : Tile) : Bool := c.chains.any fun x => x.2.eng = 1 && x.2.cmds.any (·.namesTile t)

/-- The palette fault (R316). -/
def tileTrap (w : Word) : Trap := { cause := 14, code := 0, info := w }

/-- The issuer of a claim: its device context and logical number. -/
def State.claimant (s : State) (p : Nat) : Nat × Nat :=
  match (s.core p).place with
  | some pl => (pl.ctx, pl.log)
  | none => (65536, p)

/-- CLAIM claims adjacent slots of the palette (R314). -/
def execClaim (h : Hdr) (d : BitVec 8) (n : BitVec 7) (s : State) : Host.Outcome State Fault Refusal :=
  runWord h (specX [dS d] 2) (fun p k s =>
    let clu := cluOf p
    let cnt := n.toNat
    match (List.range (65 - cnt)).find? fun f => (List.range cnt).all fun i => s.slotFree clu (f + i) with
    | none => .done (s.wS p k 2 d (at64 1 16))
    | some f =>
      let (ctx, log) := s.claimant p
      let t : Tile := { first := f, count := cnt, owner := p, ctx := ctx, log := log, shaped := false, fmt := 0, tileRows := 0,
                        cols := 0, saved := none }
      let s1 := (s.saveTiles clu f cnt).wipe (palBase clu + 4096 * f) (4096 * cnt)
      .done ((s1.modCluster clu fun c => { c with tiles := c.tiles ++ [t] }).wS p k 2 d (BitVec.ofNat 64 (cnt * 64 + f)))) s

/-- A palette word on a claimed tile: the palette fault, the wait for commands and for a restore, then its effect. -/
def onTile (w : Word) (p : Nat) (shaped : Bool) (f : State → Tile → Res) (s : State) : Res :=
  match s.tileOf p w with
  | none => .trap (tileTrap w)
  | some t =>
    if shaped && !t.shaped then .trap (tileTrap w)
    else if (s.core p).tileBusy t then .hold
    else
      match s.touch (cluOf p) t with
      | none => .hold
      | some (s1, t1) => f s1 t1

/-- RELS frees a tile (R317). -/
def execRels (h : Hdr) (a : BitVec 8) (s : State) : Host.Outcome State Fault Refusal :=
  runWord h (specX [aS a] 1) (fun p k s =>
    match s.tileOf p (s.rS p k 1 a) with
    | none => .trap (tileTrap (s.rS p k 1 a))
    | some t =>
      if (s.core p).tileBusy t then .hold
      else .done (s.modCluster (cluOf p) fun c => { c with tiles := c.tiles.filter (· ≠ t) })) s

/-- TSHAPE shapes a tile (R315). A shape word with ROWS or COLS 0, outside their ranges, is refused like one of the refusal list: DEDUCED (log
entry 71). -/
def execTshape (h : Hdr) (a b : BitVec 8) (s : State) : Host.Outcome State Fault Refusal :=
  runWord h (specX [aS a, bS b] 1) (fun p k s =>
    let w := s.rS p k 1 a
    let sh := s.rS p k 2 b
    onTile w p false (fun s t =>
      let fmt := fieldNat sh 32 4
      let cols := fieldNat sh 16 16
      let rows := fieldNat sh 0 16
      if fieldNat sh 36 28 ≠ 0 ∨ 6 < fmt ∨ cols = 0 ∨ rows = 0 ∨ 4096 * t.count < rows * pitchOf fmt cols then
        .trap (tileTrap w)
      else .done (s.setTile (cluOf p) t { t with shaped := true, fmt := fmt, tileRows := rows, cols := cols })) s) s

/-- The location of a slice, or none where the index is out of range (R316). -/
def Tile.slice (t : Tile) (clu : Nat) (idx : Word) : Option Nat :=
  let row := fieldNat idx 0 16
  let seg := fieldNat idx 16 16
  if t.tileRows ≤ row ∨ t.pitch ≤ 64 * seg then none else some (tileLoc clu t + row * t.pitch + 64 * seg)

/-- Bytes as a row. -/
def rowOfBytes (bs : List Byte) : Row := BitVec.ofNat 512 (leNat bs)

/-- TROW reads a slice of a tile (R316). -/
def execTrow (h : Hdr) (d a b : BitVec 8) (s : State) : Host.Outcome State Fault Refusal :=
  runWord h (specX [dV d, aS a, bS b] 3) (fun p k s =>
    let w := s.rS p k 1 a
    let eq := s.eqOf p k h
    onTile w p true (fun s t =>
      match t.slice (cluOf p) (s.rS p k 2 b) with
      | none => .trap (tileTrap w)
      | some l =>
        if s.poisoned l 64 then .hold
        else s.payOr p (s.charge p 14) fun s => .done (s.wV p k 3 d (laneMask eq) (rowOfBytes (s.bytes l 64)))) s) s

/-- Write the enabled 32-bit lanes of a row to palette bytes; a word written whole loses its error (R416). -/
def State.putTileLanes (s : State) (l : Nat) (eq : BitVec 16) (r : Row) : State :=
  (List.range 16).foldl (fun x i =>
    if eq.getLsbD i then
      let y := x.store (l + 4 * i) (natBytes 4 (fieldNat r (32 * i) 32))
      if i % 2 = 1 ∧ eq.getLsbD (i - 1) then y.cleanse (l + 4 * i - 4) 8 else y
    else x) s

/-- TWROW writes a slice of a tile (R316). -/
def execTwrow (h : Hdr) (a b c : BitVec 8) (s : State) : Host.Outcome State Fault Refusal :=
  runWord h (specX [aS a, bV b, cS c] 1) (fun p k s =>
    let w := s.rS p k 1 a
    let eq := s.eqOf p k h
    onTile w p true (fun s t =>
      match t.slice (cluOf p) (s.rS p k 3 c) with
      | none => .trap (tileTrap w)
      | some l => s.payOr p (s.charge p 14) fun s => .done (s.putTileLanes l eq (s.rV p k 2 b))) s) s

/-- Element (r, c) of a tile. -/
def State.tileElem (s : State) (clu : Nat) (t : Tile) (r c : Nat) : Nat :=
  let b := tileBits t.fmt
  let a := tileLoc clu t + r * t.pitch + c * b / 8
  if b = 4 then (s.byte a).toNat / 16 ^ (c % 2) % 16 else s.loadNat a (b / 8)

/-- Write element (r, c) of a tile. -/
def State.putElem (s : State) (clu : Nat) (t : Tile) (r c v : Nat) : State :=
  let b := tileBits t.fmt
  let a := tileLoc clu t + r * t.pitch + c * b / 8
  if b = 4 then
    let old := (s.byte a).toNat
    s.store a [BitVec.ofNat 8 (if c % 2 = 0 then old / 16 * 16 + v % 16 else v % 16 * 16 + old % 16)]
  else s.store a (natBytes (b / 8) v)

/-- The locations of the elements that TCOL reads: those of the rows that it names under its predicate. -/
def Tile.columnLocs (t : Tile) (clu : Nat) (idx : Word) (eq : BitVec 16) : List Nat :=
  let f := fieldNat idx 0 16
  let bw := tileBits t.fmt
  let rows := (List.range (512 / bw)).filter fun i => decide (f + i < t.tileRows) && eq.getLsbD (i * bw / 32)
  rows.map fun i => tileLoc clu t + (f + i) * t.pitch + fieldNat idx 16 16 * bw / 8

/-- TCOL reads a column of a tile (R316). -/
def execTcol (h : Hdr) (d a b : BitVec 8) (s : State) : Host.Outcome State Fault Refusal :=
  runWord h (specX [dV d, aS a, bS b] 4) (fun p k s =>
    let w := s.rS p k 1 a
    let eq := s.eqOf p k h
    onTile w p true (fun s t =>
      let idx := s.rS p k 2 b
      let f := fieldNat idx 0 16
      let col := fieldNat idx 16 16
      let bw := tileBits t.fmt
      if t.cols ≤ col then .trap (tileTrap w)
      else if (t.columnLocs (cluOf p) idx eq).any fun l => s.poisoned l 1 then .hold
      else
        let v := rowOfLanes bw ((List.range (512 / bw)).map fun i =>
          if f + i < t.tileRows then s.tileElem (cluOf p) t (f + i) col else 0)
        s.payOr p (s.charge p 14) fun s => .done (s.wV p k 4 d (laneMask eq) v)) s) s

/-- TWCOL writes a column of a tile (R316). -/
def execTwcol (h : Hdr) (a b c : BitVec 8) (s : State) : Host.Outcome State Fault Refusal :=
  runWord h (specX [aS a, bV b, cS c] 1) (fun p k s =>
    let w := s.rS p k 1 a
    let eq := s.eqOf p k h
    onTile w p true (fun s t =>
      let idx := s.rS p k 3 c
      let f := fieldNat idx 0 16
      let col := fieldNat idx 16 16
      let bw := tileBits t.fmt
      let r := s.rV p k 2 b
      if t.cols ≤ col then .trap (tileTrap w)
      else
        s.payOr p (s.charge p 14) fun s => .done ((List.range (512 / bw)).foldl (fun x i =>
          if f + i < t.tileRows ∧ eq.getLsbD (i * bw / 32) then x.putElem (cluOf p) t (f + i) col (fieldNat r (bw * i) bw)
          else x) s)) s) s

/-! ## Residencies (R318 to R322) -/

/-- Number of a residency state (R322). -/
def ResState.code : ResState → Nat
  | .empty => 0
  | .loading => 1
  | .valid => 2
  | .stale => 3
  | .evicted => 4

/-- Partition and device context of a core. -/
def State.ownerOf (s : State) (p : Nat) : Nat × Nat :=
  match (s.core p).place with
  | some pl => (pl.part, pl.ctx)
  | none => (64, 65536)

/-- The residency that a value names when it is a live handle for a core (R318). -/
def State.liveRes (s : State) (p h : Nat) : Option Residency :=
  let (part, ctx) := s.ownerOf p
  (s.cluster (cluOf p)).residencies.find? fun r => r.handle (cluOf p) = h && r.part = part && r.ctx = ctx

/-- Change the residency of a cluster with a mask. -/
def State.modRes (s : State) (clu mask : Nat) (f : Residency → Residency) : State :=
  s.modCluster clu fun c => { c with residencies := c.residencies.map fun r => if r.mask = mask then f r else r }

/-- Units of one plane by FMTC (R319). -/
def fmtcUnits (f : Nat) : Nat :=
  match f with
  | 0 => 2
  | 1 => 1
  | _ => 4

/-- Number of units of a mask. -/
def unitCount (mask : Nat) : Nat := (bitsSet 16 mask).length

/-- The units of a cluster's array that no residency holds. -/
def Cluster.unitFree (c : Cluster) (u : Nat) : Bool := c.residencies.all fun r => !r.mask.testBit u

/-- The status of a WRALLOC, and the first unit where it is 0 (R319, R320, R406). -/
def State.wralloc (s : State) (p : Nat) (req : Word) : Nat × Nat :=
  let cl := s.cluster (cluOf p)
  let (part, ctx) := s.ownerOf p
  let f := fieldNat req 0 2
  let w := fmtcUnits f
  let n := fieldNat req 8 4
  let held := ((cl.residencies.filter fun r => r.ctx = ctx).map fun r => unitCount r.mask).sum
  if fieldNat req 12 52 ≠ 0 ∨ fieldNat req 3 5 ≠ 0 ∨ f = 3 ∨ n = 0 ∨ 16 / w < n then (3, 0)
  else if cl.qa then (2, 0)
  else if look 16 part (s.die (dieOf p)).resq < held + n * w then (1, 0)
  else
    match (List.range 16).find? fun u =>
        u % w = 0 && decide (u + n * w ≤ 16) && (List.range (n * w)).all fun i => cl.unitFree (u + i) with
    | none => (2, 0)
    | some u => (0, u)

/-- WRALLOC allocates plane units (R319). -/
def execWralloc (h : Hdr) (d a : BitVec 8) (s : State) : Host.Outcome State Fault Refusal :=
  runWord h (specX [dS d, ⟨0, false, d.toNat + 1, false, true⟩, aS a] 4) (fun p k s =>
    let req := s.rS p k 1 a
    let (st, u) := s.wralloc p req
    let d1 := s.destOf p k 0 d
    let m := s.sName p k 0 (d.toNat + 1)
    let d2 : Dest := { row := (s.strand p k).wb + m / 8, word := m % 8 }
    if st ≠ 0 then .done ((s.writeDest p 4 d1 0).writeDest p 4 d2 (BitVec.ofNat 64 st))
    else
      let clu := cluOf p
      let cl := s.cluster clu
      let n := fieldNat req 8 4 * fmtcUnits (fieldNat req 0 2)
      let g := (List.range n).foldl (fun x i => max x (look 0 (u + i) cl.unitGen)) 0
      let (part, ctx) := s.ownerOf p
      let r : Residency :=
        { gen := g, mask := (2 ^ n - 1) * 2 ^ u, part := part, ctx := ctx,
          inst := match (s.core p).place with
            | some pl => pl.inst
            | none => 0,
          fmtc := fieldNat req 0 2, planes := fieldNat req 8 4, sparse := req.getLsbD 2, pinned := false, state := .empty,
          wfmt := none, src := 0, scl := 0, ranges := [], table := [], data := [], scales := [], bad := [], fills := [] }
      let s1 := s.modCluster clu fun c => { c with
        residencies := c.residencies ++ [r]
        unitGen := (List.range n).foldl (fun x i => put (u + i) g x) c.unitGen }
      .done ((s1.writeDest p 4 d1 (BitVec.ofNat 64 (r.handle clu))).writeDest p 4 d2 0)) s

/-- A residency-handle instruction (R322): the fault when the handle is not live. -/
def onRes (h : Hdr) (a : BitVec 8) (f : Nat → Residency → State → Res) (s : State) : Host.Outcome State Fault Refusal :=
  runWord h (specX [aS a] 2) (fun p k s =>
    let v := s.rS p k 1 a
    match s.liveRes p v.toNat with
    | none => .trap { cause := 15, code := 0, info := v }
    | some r => f p r s) s

/-- WRPIN sets PINNED (R322). -/
def execWrpin (h : Hdr) (a : BitVec 8) (s : State) : Host.Outcome State Fault Refusal :=
  onRes h a (fun p r s => .done (s.modRes (cluOf p) r.mask fun x => { x with pinned := true })) s

/-- WRUNPIN clears PINNED (R322). -/
def execWrunpin (h : Hdr) (a : BitVec 8) (s : State) : Host.Outcome State Fault Refusal :=
  onRes h a (fun p r s => .done (s.modRes (cluOf p) r.mask fun x => { x with pinned := false })) s

/-- A command uses a residency handle: a matrix command or a WLOAD (R323, R324). -/
def Cmd.namesRes (m : Cmd) (h : Nat) : Bool := decide (1 ≤ m.eop) && decide (m.eop ≤ 0x20) && decide (m.ecw.hc.toNat = h)

/-- An uncompleted command of a core names a handle (R322). -/
def State.resBusy (s : State) (h : Nat) : Bool := s.cores.any fun c => c.2.chains.any fun x => x.2.cmds.any (·.namesRes h)

/-- A residency is freed and its units' generations rise (R322). -/
def State.revoke (s : State) (clu : Nat) (r : Residency) : State :=
  s.modCluster clu fun c => { c.raiseGen r.mask with residencies := c.residencies.filter fun x => x.mask ≠ r.mask }

/-- WRREVOKE frees a residency after the commands that name it (R322). -/
def execWrrevoke (h : Hdr) (a : BitVec 8) (s : State) : Host.Outcome State Fault Refusal :=
  onRes h a (fun p r s =>
    if s.resBusy (r.handle (cluOf p)) then .hold else .done (s.revoke (cluOf p) r)) s

/-- What WRQUERY writes (R322). -/
def Residency.query (r : Residency) : Word :=
  BitVec.ofNat 64 (r.gen * 2 ^ 16 + r.planes % 16 * 2 ^ 12 + r.wfmt.getD 0 * 2 ^ 8 + 2 ^ 5 + (if r.sparse then 2 ^ 4 else 0) +
    (if r.pinned then 2 ^ 3 else 0) + r.state.code)

/-- WRQUERY reads the state of a residency (R322, R412). -/
def execWrquery (h : Hdr) (d a : BitVec 8) (s : State) : Host.Outcome State Fault Refusal :=
  runWord h (specX [dS d, aS a] 2) (fun p k s =>
    let v : Word := match s.liveRes p (s.rS p k 1 a).toNat with
      | some r => r.query
      | none => 0
    match s.twinValue p k v with
    | some (v, s1) => .done (s1.wS p k 2 d v)
    | none => .hold) s

end Sys2Proof.Machine
end

