-- ==== Sys2Proof/Machine/Chains.lean ====
section
/-! DEFINITION. Chains, APPEND and the completion of commands, and how an engine reaches memory (R303 to R311). -/

namespace Sys2Proof.Machine

/-! ## CHAIN (R303 to R305) -/

/-- The location belongs to host memory or to the plumb column (R303). -/
def State.offLimits (s : State) (l : Nat) : Bool :=
  let l := plain l
  if l < 2 ^ 39 then s.isPlumb (l / 2 ^ 26)
  else if l < 2 ^ 40 then false
  else if l < 2 ^ 48 then true
  else if l < 2 ^ 49 then s.isPlumb ((l - 2 ^ 48) / 2 ^ 17)
  else s.isPlumb (8 * ((l - 2 ^ 49) / 2 ^ 20))

/-- A range that a chain names: none while it must wait for a migration, else whether it may be bound. -/
def State.bindable (s : State) (p : Nat) (sup : Bool) (va : Word) (n : Nat) : Option Bool :=
  match s.engReach p sup va n true with
  | .loc l _ _ => some (!s.offLimits l)
  | .fault _ => some false
  | _ => none

/-- All ranges of a list. -/
def State.bindableAll (s : State) (p : Nat) (sup : Bool) (n : Nat) : List Word → Option Bool
  | [] => some true
  | a :: r =>
    match s.bindable p sup a n, s.bindableAll p sup n r with
    | some x, some y => some (x && y)
    | _, _ => none

/-- The must-be-zero fields, LOGN, ENG and the alignments of a descriptor (R303). -/
def descriptorOk (w0 w1 w2 w3 : Word) : Bool :=
  let logn := fieldNat w0 4 4
  decide (fieldNat w0 8 56 = 0) && decide (fieldNat w0 2 2 = 0) && decide (1 ≤ logn) && decide (logn ≤ 12) &&
    decide (fieldNat w0 0 2 ≠ 3) && decide (w1.toNat % (32 * 2 ^ logn) = 0) && decide (w2.toNat % 8 = 0) &&
    decide (fieldNat w3 11 52 = 0)

/-- The addresses of the entries of a ring. -/
def ringEntries (ring : Word) (logn : Nat) : List Word := (List.range (2 ^ logn)).map fun i => ring + BitVec.ofNat 64 (32 * i)

/-- The lowest free binding slot of a core. -/
def Core.freeSlot (c : Core) : Option Nat := (List.range 16).find? fun i => !(look Chain.free i c.chains).bound

/-- CHAIN's store: the completion word becomes zero and empty (R305). -/
def State.clearCword (s : State) (p : Nat) (sup : Bool) (va : Word) : State :=
  match s.engReach p sup va 8 true with
  | .loc l rs _ =>
    if remoteVa va && s.isShadow p then s
    else if remoteVa va then s.writeRouted p l (natBytes 8 0) rs (some false)
    else s.writeMem p l (natBytes 8 0) rs (some false)
  | _ => s

/-- The strand has operations that its release comes after (R117, R473). -/
def Core.unsettled (c : Core) (k : Nat) : Bool := !(c.outstanding k).isEmpty

/-- The own-TCM offset of an aligned descriptor of 32 bytes that the strand may read. A descriptor address that is not so is a broken rule of R303, so
that CHAIN answers status 2 (DESIGN CHOICE, log entry 66). -/
def State.ownDescriptor (s : State) (p : Nat) (sup : Bool) (va : Word) : Option Nat :=
  let off := va.toNat - aperture
  if va.toNat < aperture ∨ 2 ^ 17 < off + 32 ∨ off % 32 ≠ 0 ∨ ((s.core p).inSupArea off 32 ∧ !sup ∧ !s.isPlumb p) then none
  else some (tcmBase p + off)

/-- The reads of a descriptor wait for what comes before them and for an error that no code corrects (R305, R417). -/
def State.descriptorHeld (s : State) (p k : Nat) (va : Word) (l : Nat) : Bool := s.readHeld p k va 32 || s.poisoned l 32

/-- Cause 1 of a CHAIN that names a collective engine which the part does not have, before any other cause (R3, R305, R426): its descriptor is
read where its name lies in the window and its row has no pending write. -/
def chainTrap (a : BitVec 8) : Nat → Nat → State → Verdict := fun p k s =>
  let o := aS a
  if s.coll || !s.opInWindow p k o then .go
  else if s.opHeld p k false o then .hold
  else
    match s.ownDescriptor p (s.who p k).sup (s.rS p k 1 a) with
    | none => .go
    | some l =>
      if s.descriptorHeld p k (s.rS p k 1 a) l then .hold else trapWhen (decide (fieldNat (s.loadWord l) 0 2 = 2)) (s.wordTrap 1)

/-- The charges of a CHAIN: the read of its descriptor, and the store that clears the completion word (R305, R358, R383). -/
def State.chainCharge (s : State) (p : Nat) (sup : Bool) (cword : Word) : Nat :=
  s.charge p 4 + match s.engReach p sup cword 8 true with
    | .loc l _ _ => s.accessCharge p l 8
    | _ => 0

/-- The translations that a CHAIN has used are installed (R99). -/
def State.chainWalked (s : State) (p : Nat) (ring : List Word) (cword : Word) : State := (ring ++ [cword]).foldl (fun x a => x.walked p a) s

/-- CHAIN binds a chain (R305). -/
def execChain (h : Hdr) (d a : BitVec 8) (s : State) : Host.Outcome State Fault Refusal :=
  runWord h { specX [dS d, aS a] 2 with pre := chainTrap a } (fun p k s =>
    let sup := (s.who p k).sup
    let va := s.rS p k 1 a
    let st (x : Nat) : Res := .done (s.wS p k 2 d (at64 x 56))
    match s.ownDescriptor p sup va with
    | none => st 2
    | some l =>
      if (s.core p).unsettled k ∨ s.descriptorHeld p k va l then .hold
      else
        let w0 := s.loadWord l
        let w1 := s.loadWord (l + 8)
        let w2 := s.loadWord (l + 16)
        let w3 := s.loadWord (l + 24)
        let eng := fieldNat w0 0 2
        let logn := fieldNat w0 4 4
        let refuse (x : Nat) : Res := s.payOr p (s.charge p 4) fun y => .done (y.wS p k 2 d (at64 x 56))
        if !descriptorOk w0 w1 w2 w3 then refuse 2
        else
          match s.bindableAll p sup 32 (ringEntries w1 logn), s.bindable p sup w2 8 with
          | some r, some c =>
            if !(r && c) then refuse 2
            else
              (match (s.core p).freeSlot with
              | none => refuse 1
              | some i =>
                let g := ((look Chain.free i (s.core p).chains).gen + 1) % 2 ^ 24
                let ch : Chain := { bound := true, gen := g, eng := eng, logn := logn, ring := w1, cword := w2,
                                    hirq := w3.getLsbD 63, vec := fieldNat w3 0 11, appended := 0, completed := 0, err := 0,
                                    binder := k, cmds := [] }
                s.payOr p (s.chainCharge p sup w2) fun y =>
                  let s1 := ((y.chainWalked p (ringEntries w1 logn) w2).clearCword p sup w2).modCore p fun c =>
                    { c with chains := put i ch c.chains }
                  .done (s1.wS p k 2 d (BitVec.ofNat 64 (g * 2 ^ 8 + eng * 2 ^ 4 + i))))
          | _, _ => .hold) s

/-- CHAIN.UNBIND frees a slot after its commands (R305). -/
def execChainUnbind (h : Hdr) (d a : BitVec 8) (s : State) : Host.Outcome State Fault Refusal :=
  runWord h (specX [dS d, aS a] 2) (fun p k s =>
    match (s.core p).chainOf (s.rS p k 1 a) with
    | none => .done (s.wS p k 2 d (at64 2 56))
    | some (i, ch) =>
      if !ch.cmds.isEmpty then .hold
      else
        let s1 := s.modCore p fun c => { c with chains := put i { Chain.free with gen := ch.gen } c.chains }
        .done (s1.wS p k 2 d 0)) s

/-! ## APPEND (R306, R307, R187) -/

/-- The engine of an opcode: 0 copy, 1 matrix, 2 collective; none where it is reserved (R186). -/
def eopEngine (eop : Nat) : Option Nat :=
  if (0x01 ≤ eop ∧ eop ≤ 0x0A) ∨ (0x11 ≤ eop ∧ eop ≤ 0x1A) ∨ eop = 0x20 ∨ eop = 0x21 then some 1
  else if 0x40 ≤ eop ∧ eop ≤ 0x45 then some 0
  else if 0x60 ≤ eop ∧ eop ≤ 0x63 then some 2
  else none

/-- A matrix command: EOP 0x01 to 0x1A (R324). -/
def isMatrix (eop : Nat) : Bool := decide (1 ≤ eop) && decide (eop ≤ 0x1A)

/-- A command decodes codes through a table image (R153): a WLOAD and the matrix commands but those of BF16, FP16 and INT8. -/
def usesTable (eop : Nat) : Bool :=
  decide (1 ≤ eop) && decide (eop ≤ 0x20) && !(decide (3 ≤ eop % 16) && decide (eop % 16 ≤ 5) && decide (eop < 0x20))

/-- OPD of the command is a descriptor in space 6: SIG and MXSIG hold a value there (R309, R312). -/
def namesRows (eop : Nat) (opd : BitVec 56) : Bool := decide (eop ≠ 0x45) && decide (eop ≠ 0x21) && decide (fieldNat opd 53 3 = 6)

/-- First row and count of a descriptor in space 6 (R309). -/
def rowRange (opd : BitVec 56) : Nat × Nat := (fieldNat opd 0 10, fieldNat opd 10 2 + 1)

/-- The distinct table images of a core's uncompleted commands (R153). -/
def Core.tablesInUse (c : Core) : List (List (BitVec 19)) :=
  (c.chains.flatMap fun x => if x.2.eng = 1 then (x.2.cmds.filter fun m => usesTable m.eop).map (·.table) else []).eraseDups

/-- A further command with the core's table would need a third image (R153). -/
def Core.thirdTable (c : Core) : Bool := decide (2 ≤ c.tablesInUse.length) && !c.tablesInUse.contains c.table

/-- The command word in the half row that HI selects: opcode and fields. -/
def ecwOfRow (r : Row) (hi : Nat) : Nat × Ecw :=
  let x : BitVec 256 := r.extractLsb' (256 * hi) 256
  (fieldNat x 56 8, Ecw.ofBits x)

/-- The bits of a command word. -/
def ecwWord (e : Ecw) (eop i : Nat) : Word := (e.bits (BitVec.ofNat 8 eop)).extractLsb' (64 * i) 64

/-- Cause 1 of an APPEND, before any other cause (R187, R306, R426): the handle in S[D] names no chain of the core, or the EOP in row A is reserved
or belongs to another engine, or, whatever the handle, names an engine that the part does not have (R3); each is decided where its name lies in the
window and its row has no pending write. -/
def appendTrap (d a : BitVec 8) (hi : Nat) : Nat → Nat → State → Verdict := fun p k s =>
  let seen (o : Opnd) (f : Verdict) : Verdict := if !s.opInWindow p k o then .go else if s.opHeld p k false o then .hold else f
  let eng := eopEngine (ecwOfRow (s.rV p k 1 a) hi).1
  let absent := eng = none || (eng = some 2 && !s.coll)
  match seen (dSrc d) (trapWhen ((s.core p).chainOf (s.rS p k 0 d)).isNone (s.wordTrap 1)) with
  | .go => seen (aV a) (trapWhen (absent || (s.opInWindow p k (dSrc d) && decide (((s.core p).chainOf (s.rS p k 0 d)).map (·.2.eng) ≠ eng)))
      (s.wordTrap 1))
  | v => v

/-- Rows named by a descriptor in space 6 lie in the window (R306, R425). -/
def State.rowsTrap (s : State) (p k eop : Nat) (opd : BitVec 56) : Option Trap :=
  let (r, n) := rowRange opd
  let wl := (s.strand p k).wl
  if namesRows eop opd && decide (wl < r + n) then some { cause := 4, code := 4, info := BitVec.ofNat 64 (max r wl) } else none

/-- The stale-residency check (R306, R440). -/
def State.staleTrap (s : State) (p eop : Nat) (hc : BitVec 32) : Option Trap :=
  if isMatrix eop then
    match s.liveRes p hc.toNat with
    | some r => if r.state = .empty ∨ r.state = .stale then
        some { cause := 16, code := r.state.code, info := hc.zeroExtend 64 } else none
    | none => none
  else none

/-- A matrix command's APPEND waits for a DTLD in progress (R256), and for the strand's own stores and for its loads that order what follows them, so
that its residency check comes after the stores that they order before it (R116, R119, R135). A WLOAD's waits for the DTLD too: it records the table
(DEDUCED from R153; R256 names matrix commands only; log entry 81). -/
def State.appendHeld (s : State) (p k eop : Nat) : Bool :=
  ((isMatrix eop || eop = 0x20) && (s.core p).loading.isSome) ||
    (isMatrix eop && (s.core p).ops.any fun o => o.strand = k && (o.kind.writes || o.isAcq || o.fence ≠ 0))

/-- A row is being read from this cycle on for `n` cycles, in which it is locked (R73, R306). -/
def Core.readRow (c : Core) (r n : Nat) : Core :=
  { c with reading := (c.reading.filter fun x => decide (c.cycle < x.2)) ++ [(r, c.cycle + n)] }

/-- The four stores that APPEND makes (R306). -/
def State.appendOps (s : State) (p k : Nat) (a : Word) (e : Ecw) (eop : Nat) : List MemOp :=
  (List.range 4).map fun i =>
    { s.newOp p k .store (a + BitVec.ofNat 64 (8 * i)) 0 with elem := i, data := ecwWord e eop i }

/-- APPEND appends a command to a chain (R306). -/
def execAppend (h : Hdr) (d a b : BitVec 8) (u : BitVec 1) (s : State) : Host.Outcome State Fault Refusal :=
  runWord h { specX [dSrc d, aV a, bS b] 2 with pre := appendTrap d a u.toNat } (fun p k s =>
    match (s.core p).chainOf (s.rS p k 0 d) with
    | none => .trap (s.wordTrap 1)
    | some (slot, ch) =>
      let (eop, e0) := ecwOfRow (s.rV p k 1 a) u.toNat
      let (r, cnt) := rowRange e0.opd
      let wb := (s.strand p k).wb
      let rows := if namesRows eop e0.opd then (List.range cnt).map fun i => wb + r + i else []
      if eopEngine eop ≠ some ch.eng then .trap (s.wordTrap 1)
      else
        match s.rowsTrap p k eop e0.opd with
        | some t => .trap t
        | none =>
          if rows.any (s.core p).busy ∨ s.appendHeld p k eop then .hold
          else
            match s.staleTrap p eop e0.hc with
            | some t => .trap t
            | none =>
              if 2 ^ ch.logn ≤ ch.appended - ch.completed ∨ (usesTable eop ∧ (s.core p).thirdTable) ∨
                  !((s.core p).snagOps.filter fun o => o.strand = k).isEmpty ∨ 65535 < ((s.core p).openCmds k).length + 1 then
                .hold
              else
                let n := ch.appended + 1
                let sc := s.rS p k 2 b
                let ent := ch.ring + BitVec.ofNat 64 (32 * ((n - 1) % 2 ^ ch.logn))
                let e : Ecw := { e0 with
                  sca := sc.extractLsb' 0 8, scb := sc.extractLsb' 8 8
                  link := ch.ring + BitVec.ofNat 64 (32 * (n % 2 ^ ch.logn))
                  opd := if namesRows eop e0.opd then setBits e0.opd 0 10 (wb + r) else e0.opd }
                let m := Cmd.fresh n eop e k (s.strand p k).pc (s.curId p) (s.who p k).sup (s.core p).table rows
                (match s.issueOps p k (s.appendOps p k ent e eop) with
                | .done s1 => .done (s1.modCore p fun c => { c.readRow (s.opRow p k (aV a)) 2 with
                    locks := c.locks ++ rows
                    chains := put slot { ch with appended := n, cmds := ch.cmds ++ [m] } c.chains })
                | x => x)) s

/-! ## SEQRD (R308) -/

/-- What SEQRD reads. -/
def State.seqrd (s : State) (p k : Nat) (hd : Word) : Word :=
  match (s.core p).chainOf hd with
  | none => 0xFFFFFFFFFFFFFFFF
  | some (_, ch) => (match k with
    | 0 => BitVec.ofNat 64 ch.completed
    | 1 => BitVec.ofNat 64 ch.appended
    | _ => ch.err)

/-- The read of the error record clears it. -/
def State.clearErr (s : State) (p k : Nat) (hd : Word) : State :=
  match (s.core p).chainOf hd with
  | none => s
  | some (slot, ch) =>
    if k = 2 then s.modCore p fun c => { c with chains := put slot { ch with err := 0 } c.chains } else s

/-- SEQRD reads the state of a chain (R308, R412). -/
def execSeqrd (h : Hdr) (d a : BitVec 8) (k : BitVec 2) (s : State) : Host.Outcome State Fault Refusal :=
  runWord h (specX [dS d, aS a] 2) (fun p j s =>
    let hd := s.rS p j 1 a
    match s.twinValue p j (s.seqrd p k.toNat hd) with
    | some (v, s1) => .done ((s1.clearErr p k.toNat hd).wS p j 2 d v)
    | none => .hold) s

end Sys2Proof.Machine
end

