-- ==== Sys2Proof/Machine/Engines.lean ====
section
/-! DEFINITION. How an engine runs the oldest command of a chain, and the copy engine's commands (R131, R132, R134, R309 to R313, R358). -/

namespace Sys2Proof.Machine

/-! ## The run of a command -/

/-- What a step of a command's own rule, between pieces of work, ends with. -/
inductive Run where
  /-- The command goes on, as given. -/
  | go (s : State) (m : Cmd)
  /-- All its work is done: STATUS, EVENTS, RELOAD. -/
  | done (s : State) (status events reload : Nat)
  /-- An access faulted: KIND, cause, address. -/
  | snag (s : State) (kind cause : Nat) (va : Word)
  /-- It cannot go on yet. -/
  | wait
  /-- It reads an error that no code corrects: CAUSE and address (R417). -/
  | poison (s : State) (cause addr : Nat)

/-- What the commands of an opcode do. -/
structure Runner where
  /-- Its writes set their words full (R83, R131). -/
  full : Cmd → Bool
  /-- The bytes that a piece writes by its write of a number, and the EVENTS bits that this sets. -/
  value : Cmd → Piece → Nat → List Byte × Nat
  /-- What it does on core `p` in a chain slot once a stage has no work left. -/
  go : Nat → Nat → Cmd → State → Run

/-- Go on with the result of an access. -/
def Eng.into {α : Type} (x : Eng α) (s : State) (f : α → Run) : Run :=
  match x with
  | .ok a => f a
  | .fault k c va => .snag s k c va
  | .wait => .wait
  | .slow _ _ => .wait
  | .poison c a => .poison s c a

/-- A command that fails before any store. -/
def refuseCmd (s : State) (status : Nat) : Run := .done s status 0 0

/-- The command goes on in a stage with its work. -/
def Cmd.next (m : Cmd) (stage : Nat) (work : List Piece) (s : State) : Run := .go s { m with stage := stage, work := work }

/-- The engines of a core work on a command: not while a gang switch or a rollback stops them, for a core that migrates only its matrix queue
and what had started, and on a core to which work has moved from the tick after (R350, R353, R395). -/
def State.engineGoes (s : State) (p : Nat) (x : Chain) (m : Cmd) : Bool :=
  decide ((s.core p).resumeAt ≤ s.now) && !s.switchDue p && match (s.core p).stop with
  | some .gang => false
  | some .migrate => x.eng = 1 || m.started
  | _ => true

/-- Commands of a slot that the engines of core `h` have taken into their pools, those among them that came from core `h` before a migration. -/
def State.taken (s : State) (h slot : Nat) : Nat :=
  (s.cores.map fun c => ((look Chain.free slot c.2.chains).cmds.filter fun m =>
    m.started && decide (m.engineOf c.1 = h) && decide ((look Chain.free slot c.2.chains).eng ≠ 2)).length).sum

/-- Commands of a partition that the collective engine of a die has taken. -/
def State.collTaken (s : State) (d part : Nat) : Nat :=
  ((s.cores.filter fun c => (s.ownerOf c.1).1 = part).map fun c =>
    ((c.2.chains.filter fun x => x.2.eng = 2).map fun x =>
      (x.2.cmds.filter fun m => m.started && decide (dieOf (m.engineOf c.1) = d)).length).sum).sum

/-- The pool of its engine may take a command that has not started (R348). Firmware's commands, of no partition, have the collective pool's whole as
cap and no minimum (DESIGN CHOICE, log entry 80). -/
def State.engineRoom (s : State) (p slot : Nat) (m : Cmd) : Bool :=
  let c := s.core p
  let d := s.die (dieOf p)
  m.started || (if (look Chain.free slot c.chains).eng = 2 then
      poolRoom 1024 (s.ownerOf p).1 ((List.range 65).map fun j =>
        (s.collTaken (dieOf p) j, if j = 64 then 0 else look 16 j d.ceMin, look 1024 j d.ceCap))
    else poolRoom 64 slot ((List.range 16).map fun j =>
      (s.taken p j, look 4 j c.eqMin, look 64 j c.eqCap)))

/-- Every operation of the appending strand up to the APPEND has been performed (R132). -/
def Core.releaseDone (c : Core) (m : Cmd) : Bool := (c.outstanding m.strand).all fun o => decide (m.id < o.id)

/-- The command may start in this tick: the core of its engine has not yet taken this tick's state for its field book (R366). -/
def State.startsNow (s : State) (p : Nat) (m : Cmd) : Bool := m.started || (s.core (m.engineOf p)).fb.closed ≠ some s.now

/-- The oldest command of a slot when it may run. -/
def State.runnable (s : State) (p slot : Nat) : Option Cmd :=
  let c := s.core p
  match c.headCmd slot with
  | none => none
  | some m =>
    if m.phase = .queued ∧ s.engineGoes p (look Chain.free slot c.chains) m ∧ c.releaseDone m ∧ s.engineRoom p slot m ∧ s.startsNow p m then some m
    else none

/-- A command has done its work with a status; the rows that it locked are free (R73). -/
def State.endCmd (s : State) (p slot : Nat) (m : Cmd) (status events reload : Nat) : State :=
  ((s.modCmd p slot m.seq fun _ => { m with
    phase := .finished, started := true, status := status, events := events, reload := reload, locked := [], work := [], parked := false
    loading := m.loading && decide (status ≠ 0) }).modCore p
    fun c => c.unlockRows m.locked)

/-- A faulting access of a command: it waits on a ring entry, or has failed (R311). -/
def State.engSnag (s : State) (p slot : Nat) (m : Cmd) (kind cause : Nat) (va : Word) : Host.Outcome State Fault Refusal :=
  match s.engFault p slot m kind cause va (fun i x => { x with phase := .snagged i, started := true })
      (fun x => { x with phase := .finished, started := true, status := 2 }) with
  | some s2 => .next s2
  | none => .fault .notEnabled

/-- The next operation of a command's work at the locations of its parts: one load or one store, or those of a block; in a pair it waits at the
closure router where it goes through the routers (R108, R131, R134, R410). -/
def State.workAt (s : State) (p slot : Nat) (m : Cmd) (f : Runner) (c : Piece) (xs : List (Part × Nat × Bool × Bool)) :
    Host.Outcome State Fault Refusal :=
  let rd := c.reading
  let vals := xs.map fun x => if rd then ([], 0) else f.value m c x.1.num
  let ev := vals.foldl (fun a v => a ||| v.2) 0
  let bytes := vals.map (·.1)
  if (xs.any fun x => x.1.loc.isSome || remoteVa x.1.va) && s.paired p then
    let num := (xs.head?.map (·.1.num)).getD 0
    let g : EngMsg := { slot := slot, seq := m.seq, piece := c.num, rd := rd, parts := xs, bytes := bytes, events := ev, full := f.full m, final := none }
    match s.postEng p (4 * (c.num * 2 ^ 16 + num) + (if rd then 1 else 0)) (engHash rd ((xs.map (·.1)).zip bytes)) g with
    | none => .fault .notEnabled
    | some s1 => .next (s1.modCmd p slot m.seq fun _ => m.setPiece { c with sent := c.sent ++ xs.map fun x => (rd, x.1.num) })
  else if rd then .next (s.modCmd p slot m.seq fun _ => m.hasRead c (xs.map fun x => (x.1, s.engBytes p x.2.1 x.1.n)))
  else
    let (m1, s1) := s.engStores p m (f.full m) (xs.zip bytes)
    .next (s1.modCmd p slot m.seq fun _ => m1.hasWritten c (xs.map (·.1)) ev)

/-- A step of a command's work: the operation that a free value picks, once its hawk holds its charge (R131, R358). -/
def State.workStep (s : State) (p slot : Nat) (m : Cmd) (f : Runner) : Host.Outcome State Fault Refusal :=
  match m.pick s.freeWord.toNat with
  | none => .fault .notEnabled
  | some (c, l) =>
    match s.partsAt p m.sup (!c.reading) l with
    | .fault k cause va => s.drawn.engSnag p slot m k cause va
    | .slow k va =>
      (match m.asked with
      | none => .next (s.modCmd p slot m.seq (·.asks s.now))
      | some t => if s.now < t + hostLimit then .fault .notEnabled else s.drawn.engSnag p slot m k 7 va)
    | .ok xs =>
      let h := m.engineOf p
      let cost := (xs.map fun x => s.toll h x.1 x.2.1).sum
      if !s.canPay h cost then .fault .notEnabled
      else (l.foldl (fun y x => if x.loc.isSome then y else y.walked p x.va) (s.drawn.payFor p h cost)).workAt p slot m f c xs
    | _ => .fault .notEnabled

/-- An engine command: the oldest command of the chain slot in focus takes its next step, of its work, or of its rule where no work is left. -/
def runCmd (eop : Nat) (e : Ecw) (f : Runner) (s : State) : Host.Outcome State Fault Refusal :=
  let p := s.focus.pcid
  let slot := s.focus.slot
  match s.runnable p slot with
  | none => .fault .notEnabled
  | some m =>
    if m.eop ≠ eop ∨ m.ecw ≠ e then .fault .notEnabled
    else if !m.work.isEmpty then s.workStep p slot m f
    else
      match f.go p slot m s with
      | .go s1 m1 => .next (s1.modCmd p slot m.seq fun _ => { m1 with started := true })
      | .done s1 st ev rl => .next (s1.endCmd p slot m st ev rl)
      | .snag s1 k c va => s1.engSnag p slot m k c va
      | .wait => .fault .notEnabled
      | .poison _ _ _ => .fault .notEnabled

/-! ## Descriptors (R309) -/

/-- What a descriptor of memory names. -/
inductive Desc where
  | bad
  | addr (va : Word)
  /-- An extended descriptor at an offset of the own TCM. -/
  | ext (off : Nat)
  deriving DecidableEq, Repr

/-- An aperture address. -/
def apertureAt (kind lcn off : Nat) : Word := BitVec.ofNat 64 (aperture + kind * 2 ^ 37 + lcn * 2 ^ 24 + off)

/-- A descriptor in a space that names memory. -/
def descOf (x : BitVec 56) : Desc :=
  let off := fieldNat x 0 24
  let high := fieldNat x 24 29
  match fieldNat x 53 3 with
  | 0 => .addr (BitVec.ofNat 64 (fieldNat x 0 53))
  | 1 => if high = 0 then .addr (apertureAt 0 0 off) else .bad
  | 2 => if high = 0 then .addr (apertureAt 1 0 off) else .bad
  | 3 => if fieldNat x 24 16 = 0 then .addr (apertureAt 2 (fieldNat x 40 13) off) else .bad
  | 4 => if fieldNat x 24 16 = 0 then .addr (apertureAt 3 (fieldNat x 40 13) off) else .bad
  | 7 => if fieldNat x 17 36 = 0 ∧ fieldNat x 0 17 % 16 = 0 then .ext (fieldNat x 0 17) else .bad
  | _ => .bad

/-- A read of one word into the arguments of a command. -/
def fetchWord (num : Nat) (va : Word) (toll : Nat) : Piece :=
  { num := num, reads := [{ num := 0, va := va, loc := none, n := 8, toll := toll }], got := [], writes := [], block := false, sent := [] }

/-- The reads of an extended descriptor: arguments `num` and `num + 1`. -/
def extReads (num : Nat) (x : BitVec 56) : List Piece :=
  match descOf x with
  | .ext off => [fetchWord num (apertureAt 0 0 off) 1, fetchWord (num + 1) (apertureAt 0 0 (off + 8)) 0]
  | _ => []

/-- ADDR and AUX of a descriptor whose extended form has been read; AUX is none outside space 7. -/
def Cmd.desc (m : Cmd) (num : Nat) (x : BitVec 56) : Option (Word × Option Word) :=
  match descOf x with
  | .bad => none
  | .addr va => some (va, none)
  | .ext _ => some (look 0 num m.args, some (look 0 (num + 1) m.args))

/-- The reads of a list of `n` words, from argument 4 on. -/
def listReads (va : Word) (n : Nat) : List Piece :=
  (List.range n).map fun i => fetchWord (4 + i) (va + BitVec.ofNat 64 (8 * i)) (if i % 8 = 0 then 1 else 0)

/-- The list that a command has read. -/
def Cmd.list (m : Cmd) (n : Nat) : List Word := (List.range n).map fun i => look 0 (4 + i) m.args

/-- Both descriptors of a copy are valid. -/
def bothNamed (e : Ecw) : Bool := descOf e.opd ≠ .bad && descOf e.dst ≠ .bad

/-- A command whose fields are right begins by reading its extended descriptors: OPD's into arguments 0 and 1, DST's into 2 and 3. -/
def Cmd.begin (m : Cmd) (s : State) : Run := m.next 1 (extReads 0 m.ecw.opd ++ extReads 2 m.ecw.dst) s

/-! ## Moves (R131, R134, R313) -/

/-- One word that is moved: a load, then a store. -/
def moveWord (num : Nat) (src dst : Word) : Piece :=
  { num := num
    reads := [{ num := 0, va := src, loc := none, n := 8, toll := if num % 8 = 0 then 2 else 0 }]
    got := []
    writes := [{ num := 0, va := dst, loc := none, n := 8, toll := if num % 8 = 0 then 1 else 0 }]
    block := false, sent := [] }

/-- Words that are moved, numbered from 0. -/
def moveWords (l : List (Word × Word)) : List Piece := (l.zip (List.range l.length)).map fun x => moveWord x.2 x.1.1 x.1.2

/-- A piece writes what it has read. -/
def moved (_ : Cmd) (c : Piece) (j : Nat) : List Byte × Nat := (look [] j c.got, 0)

/-! ## CPY, CPYF, SIG (R312) -/

/-- Fields that no copy command but CPYG and CPYMX names are zero. -/
def noFlags (e : Ecw) : Bool := e.ofl = 0 && e.p0 = 0 && e.p1 = 0

/-- The words of a contiguous copy. -/
def plainMoves (a b : Word) (n : Nat) : List Piece :=
  moveWords ((List.range (n / 8)).map fun i => (a + BitVec.ofNat 64 (8 * i), b + BitVec.ofNat 64 (8 * i)))

/-- CPY and CPYF. Of an extended descriptor only ADDR has a meaning here (DESIGN CHOICE, log entry 71). -/
def cpyRun (full : Bool) : Runner :=
  { full := fun m => full || m.ecw.sf == 1
    value := moved
    go := fun _ _ m s =>
      let e := m.ecw
      match m.stage with
      | 0 => if !noFlags e ∨ e.hc.toNat < 8 ∨ e.hc.toNat % 8 ≠ 0 ∨ !bothNamed e then refuseCmd s 1 else m.begin s
      | 1 => (match m.desc 0 e.opd, m.desc 2 e.dst with
        | some (a, _), some (b, _) =>
          if a.toNat % 8 ≠ 0 ∨ b.toNat % 8 ≠ 0 then refuseCmd s 1 else m.next 2 (plainMoves a b e.hc.toNat) s
        | _, _ => refuseCmd s 1)
      | _ => .done s 0 0 0 }

/-- SIG and MXSIG: one store of V, set full. Of an extended descriptor only ADDR has a meaning here (DESIGN CHOICE, log entry 71). -/
def sigRun : Runner :=
  { full := fun _ => true
    value := fun m _ _ => (natBytes 8 m.ecw.opd.toNat, 0)
    go := fun _ _ m s =>
      let e := m.ecw
      match m.stage with
      | 0 => if !noFlags e ∨ e.hc ≠ 0 ∨ descOf e.dst = .bad then refuseCmd s 1 else m.next 1 (extReads 2 e.dst) s
      | 1 => (match m.desc 2 e.dst with
        | some (b, _) =>
          if b.toNat % 8 ≠ 0 then refuseCmd s 1
          else m.next 2 [{ moveWord 0 0 b with reads := [], writes := [{ num := 0, va := b, loc := none, n := 8, toll := 2 }] }] s
        | none => refuseCmd s 1)
      | _ => .done s 0 0 0 }

/-! ## CPYS, CPYG, CPYMX (R312) -/

/-- CPYS: word w of row r. A stride that is no multiple of 8 is a descriptor error, with one row too (DESIGN CHOICE, log entry 71). -/
def cpysRun : Runner :=
  { full := fun m => m.ecw.sf == 1
    value := moved
    go := fun _ _ m s =>
      let e := m.ecw
      let nrow := fieldNat e.hc 16 16
      let nw := fieldNat e.hc 0 16
      match m.stage with
      | 0 => if !noFlags e ∨ nrow = 0 ∨ nw = 0 ∨ !bothNamed e then refuseCmd s 1 else m.begin s
      | 1 => (match m.desc 0 e.opd, m.desc 2 e.dst with
        | some (a, some sa), some (b, some sb) =>
          if a.toNat % 8 ≠ 0 ∨ b.toNat % 8 ≠ 0 ∨ sa.toNat % 8 ≠ 0 ∨ sb.toNat % 8 ≠ 0 then refuseCmd s 1
          else
            m.next 2 (moveWords ((List.range nrow).flatMap fun r => (List.range nw).map fun w =>
              (a + BitVec.ofNat 64 r * sa + BitVec.ofNat 64 (8 * w), b + BitVec.ofNat 64 r * sb + BitVec.ofNat 64 (8 * w)))) s
        | _, _ => refuseCmd s 1)
      | _ => .done s 0 0 0 }

/-- The words of a gather or scatter of elements of `size` bytes. -/
def listMoves (scat : Bool) (base : Word) (size : Nat) (l : List Word) : List Piece :=
  moveWords ((l.zip (List.range l.length)).flatMap fun x => (List.range (size / 8)).map fun w =>
    let far := x.1 + BitVec.ofNat 64 (8 * w)
    let near := base + BitVec.ofNat 64 (x.2 * size + 8 * w)
    if scat then (near, far) else (far, near))

/-- CPYG: gather, or scatter with SCAT. A list entry that is not aligned to its element is a list error, STATUS 8; AUX has no meaning (DESIGN
CHOICE, log entry 71). -/
def cpygRun : Runner :=
  { full := fun m => m.ecw.sf == 1
    value := moved
    go := fun _ _ m s =>
      let e := m.ecw
      let lg := fieldNat e.p0 0 4
      let scat := e.ofl.getLsbD 0
      let n := e.hc.toNat
      match m.stage, m.desc 0 e.opd, m.desc 2 e.dst with
      | 0, _, _ =>
        if fieldNat e.ofl 1 5 ≠ 0 ∨ fieldNat e.p0 4 4 ≠ 0 ∨ e.p1 ≠ 0 ∨ lg < 3 ∨ 12 < lg ∨ e.hc = 0 ∨ !bothNamed e then refuseCmd s 1
        else m.begin s
      | 1, some (a, _), some (b, _) =>
        if a.toNat % 8 ≠ 0 ∨ b.toNat % 8 ≠ 0 then refuseCmd s 1 else m.next 2 (listReads (if scat then b else a) n) s
      | 2, some (a, _), some (b, _) =>
        if (m.list n).any fun v => v.toNat % 2 ^ lg ≠ 0 then refuseCmd s 8
        else m.next 3 (listMoves scat (if scat then a else b) (2 ^ lg) (m.list n)) s
      | 3, _, _ => .done s 0 0 0
      | _, _, _ => refuseCmd s 1 }

/-- Block i of a copy of MX blocks of `n` bytes of codes with one scale byte: one load and one store that sets its words full (R134). -/
def blockMove (n i : Nat) (a sa b sb : Word) : Piece :=
  let parts (x sx : Word) (t : Nat) : List Part :=
    ((List.range (n / 8)).map fun w =>
      { num := w, va := x + BitVec.ofNat 64 (n * i + 8 * w), loc := none, n := 8, toll := if w = 0 ∧ n * i % 64 = 0 then t else 0 }) ++
    [{ num := n / 8, va := sx + BitVec.ofNat 64 i, loc := none, n := 1, toll := 0 }]
  { num := i, reads := parts a sa 2, got := [], writes := parts b sb 1, block := true, sent := [] }

/-- CPYMX: blocks of codes with their scales. -/
def cpymxRun : Runner :=
  { full := fun _ => true
    value := moved
    go := fun _ _ m s =>
      let e := m.ecw
      let n := if e.ofl.getLsbD 0 then 16 else 32
      match m.stage with
      | 0 => if fieldNat e.ofl 1 5 ≠ 0 ∨ e.p0 ≠ 0 ∨ e.p1 ≠ 0 ∨ e.hc = 0 ∨ !bothNamed e then refuseCmd s 1 else m.begin s
      | 1 => (match m.desc 0 e.opd, m.desc 2 e.dst with
        | some (a, some sa), some (b, some sb) =>
          if a.toNat % 8 ≠ 0 ∨ b.toNat % 8 ≠ 0 ∨ sa.toNat % 8 ≠ 0 ∨ sb.toNat % 8 ≠ 0 then refuseCmd s 1
          else m.next 2 ((List.range e.hc.toNat).map fun i => blockMove n i a sa b sb) s
        | _, _ => refuseCmd s 1)
      | _ => .done s 0 0 0 }

/-! ## One meaning for each command of the copy engine -/

/-- CPY. -/
def execCpy (e : Ecw) (s : State) : Host.Outcome State Fault Refusal := runCmd 0x40 e (cpyRun false) s

/-- CPYS. -/
def execCpys (e : Ecw) (s : State) : Host.Outcome State Fault Refusal := runCmd 0x41 e cpysRun s

/-- CPYG. -/
def execCpyg (e : Ecw) (s : State) : Host.Outcome State Fault Refusal := runCmd 0x42 e cpygRun s

/-- CPYF. -/
def execCpyf (e : Ecw) (s : State) : Host.Outcome State Fault Refusal := runCmd 0x43 e (cpyRun true) s

/-- CPYMX. -/
def execCpymx (e : Ecw) (s : State) : Host.Outcome State Fault Refusal := runCmd 0x44 e cpymxRun s

/-- SIG. -/
def execSig (e : Ecw) (s : State) : Host.Outcome State Fault Refusal := runCmd 0x45 e sigRun s

end Sys2Proof.Machine
end

