-- ==== Sys2Proof/Machine/Matrix.lean ====
section
/-! DEFINITION. The matrix queue's commands: WLOAD, the matrix products, MXSIG (R163 to R166, R321 to R326). -/

namespace Sys2Proof.Machine

/-! ## Weights (R323) -/

/-- Bits of a weight by WFMT. -/
def wfmtBits (f : Nat) : Nat :=
  match f with
  | 2 => 4
  | 3 => 16
  | 4 => 16
  | 6 => 4
  | _ => 8

/-- WFMT names an MX format. -/
def wfmtMx (f : Nat) : Bool := f = 5 || f = 6

/-- FMTC that suits a WFMT. -/
def wfmtClass (f : Nat) : Nat :=
  match wfmtBits f with
  | 4 => 1
  | 16 => 2
  | _ => 0

/-- Planes of a residency. -/
def Residency.count (r : Residency) : Nat := r.planes

/-- Bytes of the planes and the metadata of a weight source. -/
def Residency.sourceBytes (r : Residency) (wfmt : Nat) : Nat :=
  r.count * (2048 * wfmtBits wfmt) + (if r.sparse then 8192 * r.count else 0)

/-- Bytes of a scale source. -/
def Residency.scaleBytes (r : Residency) : Nat := r.count * (if r.sparse then 1024 else 512)

/-- A range cut at the multiples of 4,096. -/
def pagesOf (va : Nat) (n : Nat) : List (Nat × Nat) :=
  (List.range ((va % 4096 + n + 4095) / 4096)).map fun i =>
    let a := max va (va / 4096 * 4096 + 4096 * i)
    (a, min (va + n) (va / 4096 * 4096 + 4096 * (i + 1)) - a)

/-- The translation of a source, a page at a time: the ranges of its words, and whether every page has RS set. -/
def State.sourceRanges (s : State) (p : Nat) (sup : Bool) : List (Nat × Nat) → Eng (List (Nat × Nat) × Bool)
  | [] => .ok ([], true)
  | (a, n) :: rest =>
    match s.engReach p sup (BitVec.ofNat 64 a) n false with
    | .loc l rs _ => (match s.sourceRanges p sup rest with
      | .ok (q, b) => .ok ((l, n) :: q, rs && b)
      | x => x)
    | .fault c => .fault 8 c (BitVec.ofNat 64 a)
    | _ => .wait

/-- A metadata byte of a sparse plane names two kept positions in order. -/
def metaOk (b : Byte) : Bool := decide (fieldNat b 0 2 < fieldNat b 2 2) && decide (fieldNat b 4 4 = 0)

/-- The locations of the words of a list of ranges. -/
def rangeLocs (l : List (Nat × Nat)) : List Nat := l.flatMap fun r => (List.range (r.2 / 8)).map fun i => r.1 + 8 * i

/-- The words of a list of ranges, read at their locations into the arguments from 4 on. -/
def rangeReads (l : List (Nat × Nat)) (va : Word) : List Piece :=
  ((rangeLocs l).zip (List.range (rangeLocs l).length)).map fun x =>
    { fetchWord (4 + x.2) va (if x.2 % 8 = 0 then 1 else 0) with
      reads := [{ num := 0, va := va, loc := some x.1, n := 8, toll := if x.2 % 8 = 0 then 1 else 0 }] }

/-- The numbers of the source's words of the MX blocks that share a word, columns and scales, in a plane of weights of `b` bits: 128 words of elements
and the words of their columns' scales, behind `n` words of planes and metadata (R323). -/
def mxGroup (b n : Nat) (sparse : Bool) (j g : Nat) : List Nat :=
  let sw := if sparse then 64 / b else 32 / b
  ((List.range 128).map fun row => 256 * b * j + 2 * b * row + g) ++ (List.range sw).map fun t => n + 2 * b * sw * j + sw * g + t

/-- The reads of an MX source: the words of blocks that share a word are one operation, elements and scales (R134), and the metadata is read word by
word. -/
def mxReads (l : List (Nat × Nat)) (va : Word) (b n planes : Nat) (sparse : Bool) : List Piece :=
  let locs := rangeLocs l
  let groups := (List.range planes).flatMap fun j => (List.range (2 * b)).map fun g => mxGroup b n sparse j g
  let part (first i : Nat) : Part := { num := i - first, va := va, loc := locs[i]?, n := 8, toll := if i % 8 = 0 then 1 else 0 }
  (groups.map fun w => { fetchWord (4 + w.headD 0) va 0 with reads := w.map (part (w.headD 0)), block := true }) ++
    (rangeReads l va).filter fun c => !groups.any fun w => w.contains (c.num - 4)

/-- A load of a residency whose source is translated, or none where a page of the source has not RS set. -/
def State.sources (s : State) (p : Nat) (sup : Bool) (r : Residency) (wfmt : Nat) (src scl : Word) : Eng (Option (List (Nat × Nat))) :=
  match s.sourceRanges p sup (pagesOf src.toNat (r.sourceBytes wfmt)) with
  | .ok x =>
    (match (if wfmtMx wfmt then s.sourceRanges p sup (pagesOf scl.toNat r.scaleBytes) else .ok ([], true)) with
    | .ok y => .ok (if x.2 && y.2 then some (x.1 ++ y.1) else none)
    | .fault k c va => .fault k c va
    | .wait => .wait
    | .slow k va => .slow k va
    | .poison c a => .poison c a)
  | .fault k c va => .fault k c va
  | .wait => .wait
  | .slow k va => .slow k va
  | .poison c a => .poison c a

/-- Steps 2 and 3 of R323 for a residency, by a command that goes on in `stage` when it has read the source: RS, the record of the ranges and of
the table, LOADING. -/
def State.beginFill (s : State) (p : Nat) (m : Cmd) (r : Residency) (wfmt : Nat) (src scl : Word) (table : List (BitVec 19))
    (stage : Nat) : Run :=
  (s.sources p m.sup r wfmt src scl).into s fun x => match x with
    | none => refuseCmd s 6
    | some ranges =>
      let pages := pagesOf src.toNat (r.sourceBytes wfmt) ++ (if wfmtMx wfmt then pagesOf scl.toNat r.scaleBytes else [])
      let s1 := pages.foldl (fun y a => y.walked p (BitVec.ofNat 64 a.1)) s
      let held := ranges.map fun q => (plain q.1, q.2)
      let s2 := s1.modRes (cluOf p) r.mask fun q => { q with
        state := .loading, wfmt := some wfmt, src := src, scl := scl, ranges := held, table := table
        fills := q.fills ++ [{ pcid := p, id := m.id, ranges := held, stale := false }] }
      let work := if wfmtMx wfmt then mxReads ranges src (wfmtBits wfmt) (r.sourceBytes wfmt / 8) r.count r.sparse else rangeReads ranges src
      .go s2 { m with stage := stage, work := work, loading := true, began := s.now }

/-- Words of the arguments of a command from argument 4 on, as bytes. -/
def Cmd.argBytes (m : Cmd) (first n : Nat) : List Byte :=
  (List.range (n / 8)).flatMap fun i => natBytes 8 (look 0 (4 + first / 8 + i) m.args).toNat

/-- Steps 4 and 5 of R323: the planes are written, and the residency is VALID, or STALE where a store has fallen on this load's ranges meanwhile; none
where the metadata of a sparse residency breaks its rule. -/
def State.endFill (s : State) (p : Nat) (m : Cmd) (r : Residency) : Option State :=
  let wfmt := r.wfmt.getD 0
  let n := r.sourceBytes wfmt
  let data := m.argBytes 0 n
  if r.sparse && !((data.drop (r.count * (2048 * wfmtBits wfmt))).all metaOk) then none
  else some (s.modRes (cluOf p) r.mask fun q => { q with
    state := if q.fills.any fun f => f.isOf p m.id && f.stale then .stale else .valid, data := data
    scales := if wfmtMx wfmt then m.argBytes n r.scaleBytes else [], bad := [], fills := q.fills.filter fun f => !f.isOf p m.id })

/-- A source descriptor: space 0, or 7 with AUX ignored. -/
def sourceSpace (x : BitVec 56) : Bool := fieldNat x 53 3 = 0 || fieldNat x 53 3 = 7

/-- WLOAD (R323): stage 0 checks it, 1 translates and records the source, 2 ends the load. -/
def wloadGo (p : Nat) (m : Cmd) (s : State) : Run :=
  let e := m.ecw
  let wfmt := fieldNat e.p0 0 3
  match s.liveRes p e.hc.toNat with
  | none => refuseCmd s 3
  | some r =>
    match m.stage with
    | 0 =>
      if wfmt ≠ 7 ∧ wfmtClass wfmt ≠ r.fmtc then refuseCmd s 5
      else if wfmt = 7 ∨ fieldNat e.p0 3 5 ≠ 0 ∨ e.ofl ≠ 0 ∨ e.p1 ≠ 0 ∨ !sourceSpace e.opd ∨ descOf e.opd = .bad ∨
          (if wfmtMx wfmt then !sourceSpace e.dst || decide (descOf e.dst = .bad) else decide (e.dst ≠ 0)) then refuseCmd s 1
      else m.begin s
    | 1 =>
      (match m.desc 0 e.opd, m.desc 2 e.dst with
      | some (a, _), some (b, _) =>
        if a.toNat % 8 ≠ 0 ∨ (wfmtMx wfmt ∧ b.toNat % 8 ≠ 0) then refuseCmd s 1 else s.beginFill p m r wfmt a b m.table 2
      | _, _ => refuseCmd s 1)
    | _ => (match s.endFill p m r with
      | some s1 => .done s1 0 0 0
      | none => refuseCmd s 1)

/-- The load of a residency. -/
def wloadRun : Runner := { full := fun _ => false, value := moved, go := fun p _ m s => wloadGo p m s }

/-! ## The array's sums (R163 to R166) -/

/-- FMT of the A tile and WFMT of the weights of a matrix opcode (R186). -/
def matrixFmts (eop : Nat) : Nat × Nat :=
  match eop % 16 with
  | 1 => (3, 0)
  | 2 => (3, 3)
  | 3 => (2, 3)
  | 4 => (1, 4)
  | 5 => (6, 1)
  | 6 => (5, 0)
  | 7 => (5, 2)
  | 8 => (3, 5)
  | 9 => (5, 5)
  | _ => (5, 6)

/-- The A operand is in MX blocks. -/
def mxA (eop : Nat) : Bool := decide (8 ≤ eop % 16)

/-- The weights are 2:4 sparse. -/
def sparseOp (eop : Nat) : Bool := decide (16 ≤ eop)

/-- An element of A: through the table of the APPEND, or by conversion (R163). -/
def aValue (t : List (BitVec 19)) (fmt x : Nat) : FVal :=
  match fmt with
  | 3 => tableVal t x
  | 5 => tableVal t x
  | 2 => fpVal bf16 x
  | _ => fpVal fp16 x

/-- A weight: through the table that its WLOAD recorded, or by conversion. -/
def wValue (t : List (BitVec 19)) (wfmt x : Nat) : FVal :=
  match wfmt with
  | 3 => fpVal bf16 x
  | 4 => fpVal fp16 x
  | _ => tableVal t x

/-- Stored weight (row, column) of plane `j` of a list of planes of weights of `b` bits. -/
def storedWeight (data : List Byte) (b j row n : Nat) : Nat :=
  let o := 2048 * b * j
  match b with
  | 16 => leNat ((data.drop (o + 256 * row + 2 * n)).take 2)
  | 4 => (data.getD (o + 64 * row + n / 2) 0).toNat / 16 ^ (n % 2) % 16
  | _ => (data.getD (o + 128 * row + n) 0).toNat

/-- A command that has made its passes: elements of A in a row. -/
def Cmd.cols (m : Cmd) : Nat := m.aElems.length / (fieldNat m.ecw.p0 0 5 + 1)

/-- The stored weight of dense plane `j`, row `k` and column `n`, or none where a sparse plane holds none (R165, R323). -/
def Cmd.weight (m : Cmd) (j k n : Nat) : Option Nat :=
  let b := wfmtBits (matrixFmts m.eop).2
  if sparseOp m.eop then
    let planes := m.cols / 256
    let kk := 128 * (j % 2) + k
    let md := m.wBytes.getD (2048 * b * planes + 8192 * (j / 2) + 128 * (kk / 4) + n) 0
    if fieldNat md 0 2 = kk % 4 then some (storedWeight m.wBytes b (j / 2) (2 * (kk / 4)) n)
    else if fieldNat md 2 2 = kk % 4 then some (storedWeight m.wBytes b (j / 2) (2 * (kk / 4) + 1) n)
    else none
  else some (storedWeight m.wBytes b j k n)

/-- The plane that holds dense plane `j` (R323). -/
def Cmd.stored (m : Cmd) (j : Nat) : Nat := if sparseOp m.eop then j / 2 else j

/-- The factors of a block's terms: elements of A and weights. -/
def Cmd.terms (m : Cmd) (i n j b : Nat) : List (Nat × Nat) :=
  (List.range 32).filterMap fun k => (m.weight j (32 * b + k) n).map fun w =>
    (m.aElems.getD (i * m.cols + 128 * j + 32 * b + k) 0, w)

/-- The scale codes of a block: of A and of the weights (R163). -/
def Cmd.scaleCodes (m : Cmd) (i n j b : Nat) : Nat × Nat :=
  (if mxA m.eop then m.aScales.getD (i * (m.cols / 32) + 4 * j + b) 0 else m.ecw.sca.toNat,
   if wfmtMx (matrixFmts m.eop).2 then
     (m.wScales.getD (if sparseOp m.eop then 1024 * (j / 2) + 8 * n + 4 * (j % 2) + b else 512 * j + 4 * n + b) 0).toNat
   else m.ecw.scb.toNat)

/-- BlockSum: the exact sum; an exact zero is −0 when every term is −0 (R163, R164). -/
def Cmd.blockSum (m : Cmd) (i n j b : Nat) : FVal :=
  let (ea, ew) := m.scaleCodes i n j b
  let (fa, fw) := matrixFmts m.eop
  if ea = 255 ∨ ew = 255 then .nan
  else (m.terms i n j b).foldl (fun acc t =>
    acc.add false (((aValue m.table fa t.1).mul (wValue (look [] (m.stored j) m.wTables) fw t.2)).scale ((ea : Int) + ew - 254))) (.fin true 0 0)

/-- The integer block sum (R166). -/
def Cmd.blockInt (m : Cmd) (i n j b : Nat) : Int :=
  (m.terms i n j b).foldl (fun acc t => acc + sint 8 t.1 * sint 8 t.2) 0

/-- A finite value. -/
def FVal.isFinite (x : FVal) : Bool := !x.isNan && !x.isInf

/-- One block added to a destination element, with the EVENTS bits it sets (R163, R166, R326). -/
def Cmd.addBlock (m : Cmd) (i n j b : Nat) (acc : Nat × Nat) : Nat × Nat :=
  if (matrixFmts m.eop).1 = 6 then
    let t := sint 32 acc.1 + m.blockInt i n j b
    (wrapInt 32 t, acc.2 ||| (if sint 32 (wrapInt 32 t) = t then 0 else 16))
  else
    let x := m.blockSum i n j b
    let r := fpVal fp32 (roundTo fp32 0 x)
    let a := fpVal fp32 acc.1
    let y := roundTo fp32 0 (a.add false r)
    let lost := (x.isFinite && r.isInf) || (a.isFinite && r.isFinite && (fpVal fp32 y).isInf)
    (y, acc.2 ||| (if lost then 4 else 0))

/-- A destination element after all planes: its bits, and EVENTS (R163, R326). -/
def Cmd.element (m : Cmd) (i n old : Nat) : Nat × Nat :=
  let blocks := (List.range (m.cols / 128)).flatMap fun j => (List.range 4).map fun b => (j, b)
  let (x, ev) := blocks.foldl (fun acc q => m.addBlock i n q.1 q.2 acc) (old, 0)
  if (matrixFmts m.eop).1 = 6 then (x, ev)
  else
    let v := fpVal fp32 x
    (x, ev ||| (if v.isNan then 1 else 0) ||| (if v.isInf then 2 else 0))

/-! ## A matrix command (R324, R325) -/

/-- The claimed and shaped tile of a core that a descriptor in space 5 names. -/
def State.tileDesc (s : State) (p : Nat) (x : BitVec 56) : Option Tile :=
  match (s.cluster (cluOf p)).tileAt p (fieldNat x 0 6) with
  | some t => if t.shaped then some t else none
  | none => none

/-- Where the results go. -/
inductive MatDst where
  | tile (t : Tile)
  /-- Address of row 0 and stride. -/
  | mem (base stride : Word)

/-- Rows M of a matrix command. -/
def rowsOf (e : Ecw) : Nat := fieldNat e.p0 0 5 + 1

/-- The field errors of a matrix command (R324). -/
def fieldError (eop : Nat) (e : Ecw) : Bool :=
  let sa := fieldNat e.opd 53 3
  let sd := fieldNat e.dst 53 3
  decide (fieldNat e.p0 5 3 ≠ 0) || decide (fieldNat e.ofl 1 5 ≠ 0) || (sa ≠ 5 && sa ≠ 6) || sd = 6 ||
    (sa = 5 && decide (fieldNat e.opd 6 47 ≠ 0)) || (sa = 6 && decide (fieldNat e.opd 12 41 ≠ 0)) ||
    (sd = 5 && decide (fieldNat e.dst 6 47 ≠ 0)) ||
    (if mxA eop then sa ≠ 5 || decide (fieldNat e.p1 6 2 ≠ 0) else decide (e.p1 ≠ 0))

/-- STATUS of a tile that is to have a format and a shape, or 0: 4 not claimed, not shaped or too small, 5 another format. -/
def tileStatus (t : Option Tile) (fmt rows cols : Nat) : Nat :=
  match t with
  | none => 4
  | some t => if t.fmt ≠ fmt then 5 else if t.tileRows < rows ∨ t.cols ≠ cols then 4 else 0

/-- STATUS of the operands of a matrix command with `kp` columns of A, or 0. -/
def State.operandStatus (s : State) (p eop : Nat) (e : Ecw) (kp : Nat) : Nat :=
  let fa := (matrixFmts eop).1
  let m := rowsOf e
  let a := if fieldNat e.opd 53 3 = 5 then tileStatus (s.tileDesc p e.opd) fa m kp
    else if m * kp * tileBits fa ≤ 512 * (rowRange e.opd).2 then 0 else 1
  let x := if mxA eop then
      tileStatus (s.tileDesc p (e.p1.zeroExtend 56)) 6 m (kp / 32) else 0
  let d := if fieldNat e.dst 53 3 = 5 then tileStatus (s.tileDesc p e.dst) (if fa = 6 then 4 else 0) m 128 else 0
  if a ≠ 0 then a else if x ≠ 0 then x else d

/-- A tile restored where it was saved. -/
def State.touchAll (s : State) (clu : Nat) : List Tile → Option State
  | [] => some s
  | t :: r =>
    match (s.cluster clu).tileAt t.owner t.first with
    | none => s.touchAll clu r
    | some t1 => (match s.touch clu t1 with
      | some (s1, _) => s1.touchAll clu r
      | none => none)

/-- The first error in the elements of a tile. -/
def State.tilePoison (s : State) (clu : Nat) (t : Tile) (rows : Nat) : Option Nat :=
  (List.range (rows * (t.pitch / 8))).find? fun i => s.poisoned (tileLoc clu t + 8 * i) 8

/-- The elements of a tile, row-major. -/
def State.tileElems (s : State) (clu : Nat) (t : Tile) (rows cols : Nat) : List Nat :=
  (List.range rows).flatMap fun i => (List.range cols).map fun c => s.tileElem clu t i c

/-- Elements of `b` bits packed from byte 0 of register rows. -/
def rowElems (rows : List Row) (b n : Nat) : List Nat :=
  (List.range n).map fun i => fieldNat (rows.getD (b * i / 512) 0) (b * i % 512) b

/-- The A operand of a command and its block scales, or what its read finds. -/
def State.readA (s : State) (p : Nat) (m : Cmd) (kp : Nat) : Eng (List Nat × List Nat) :=
  let e := m.ecw
  let fa := (matrixFmts m.eop).1
  let rows := rowsOf e
  let clu := cluOf p
  let scales : Eng (List Nat) :=
    if mxA m.eop then
      match s.tileDesc p (e.p1.zeroExtend 56) with
      | none => .ok []
      | some t => (match s.tilePoison clu t rows with
        | some i => .poison 11 (t.first + 8 * i / 4096)
        | none => .ok (s.tileElems clu t rows (kp / 32)))
    else .ok []
  match scales with
  | .ok sc =>
    if fieldNat e.opd 53 3 = 5 then
      match s.tileDesc p e.opd with
      | none => .ok ([], sc)
      | some t => (match s.tilePoison clu t rows with
        | some i => .poison 11 (t.first + 8 * i / 4096)
        | none => .ok (s.tileElems clu t rows kp, sc))
    else
      let (r, n) := rowRange e.opd
      let l := (List.range n).map (r + ·)
      (match l.find? fun x => (s.core p).rowBad x with
      | some x => .poison 10 x
      | none => .ok (rowElems (l.map (s.row p)) (tileBits fa) (rows * kp), sc))
  | .poison c a => .poison c a
  | _ => .wait

/-- The charge of one pass (R358, R383). -/
def State.passCharge (s : State) (p : Nat) (m : Cmd) : Nat :=
  let k := match wfmtBits (matrixFmts m.eop).2 with
    | 4 => 10
    | 16 => 11
    | _ => 9
  rowsOf m.ecw * s.charge p k

/-- The charge of the palette reads of an A tile. -/
def State.tileCharge (s : State) (p : Nat) (m : Cmd) (kp : Nat) : Nat :=
  if fieldNat m.ecw.opd 53 3 = 5 then (rowsOf m.ecw * kp * tileBits (matrixFmts m.eop).1 + 511) / 512 * s.charge p 14 else 0

/-- Two destination elements of a memory word: the new word and EVENTS. -/
def Cmd.wordOf (m : Cmd) (i n old : Nat) : Nat × Nat :=
  let (a, ea) := m.element i n (old % 2 ^ 32)
  let (b, eb) := m.element i (n + 1) (old / 2 ^ 32)
  (a + 2 ^ 32 * b, ea ||| eb)

/-- Word `w` of the results in memory: it is read, unless the sums start from 0, and written (R324, R325). -/
def Cmd.resultPiece (m : Cmd) (base stride : Word) (w : Nat) : Piece :=
  let va := base + BitVec.ofNat 64 (w / 64) * stride + BitVec.ofNat 64 (8 * (w % 64))
  let c := moveWord w va va
  if m.ecw.ofl.getLsbD 0 then { c with reads := [] } else { c with reads := c.reads.map fun x => { x with toll := min x.toll 1 } }

/-- The results written to a tile. -/
def State.storeTile (s : State) (p : Nat) (m : Cmd) (t : Tile) : State × Nat :=
  let clu := cluOf p
  (List.range (rowsOf m.ecw * 128)).foldl (fun (x, ev) i =>
    let old := if m.ecw.ofl.getLsbD 0 then 0 else x.tileElem clu t (i / 128) (i % 128)
    let (v, e1) := m.element (i / 128) (i % 128) old
    (x.putElem clu t (i / 128) (i % 128) v, ev ||| e1)) (s, 0)

/-- The words of a tile that the results fill lose their errors. -/
def State.cleanTile (s : State) (clu : Nat) (t : Tile) (rows : Nat) : State :=
  (List.range rows).foldl (fun x i => x.cleanse (tileLoc clu t + i * t.pitch) 512) s

/-- Step 5 of R325: a tile takes the results, words of memory become the command's work. -/
def State.storeResults (s : State) (p : Nat) (m : Cmd) : Run :=
  let rows := rowsOf m.ecw
  let cost := rows * 8 * s.charge p 14
  if fieldNat m.ecw.dst 53 3 = 5 then
    match s.tileDesc p m.ecw.dst with
    | none => refuseCmd s 4
    | some t =>
      match (if m.ecw.ofl.getLsbD 0 then none else s.tilePoison (cluOf p) t rows) with
      | some i => .poison s 11 (t.first + 8 * i / 4096)
      | none =>
        if !s.canPay p cost then .wait
        else
          let (s1, ev) := (s.pay p 0 cost).storeTile p m t
          .done (s1.cleanTile (cluOf p) t rows) 0 (m.events ||| ev) m.reload
  else
    match m.desc 2 m.ecw.dst with
    | none => refuseCmd s 1
    | some (b, st) => m.next 6 ((List.range (64 * rows)).map (m.resultPiece b (st.getD 512))) s

/-- Step 3 of R325: the A operand and its scales are read, and the rows that held it are unlocked. -/
def State.takeA (s : State) (p : Nat) (m : Cmd) (r : Residency) (kp : Nat) : Run :=
  (s.readA p m kp).into s fun x =>
    let cost := s.tileCharge p m kp
    if !s.canPay p cost then .wait
    else
      .go ((s.pay p 0 cost).modCore p fun c => c.unlockRows m.locked) { m with
        stage := 4, plane := 0, aElems := x.1, aScales := x.2, wBytes := r.data, wScales := r.scales, wTables := [], locked := [] }

/-! ### The array's passes (R349) -/

/-- The oldest command in progress of a core's matrix queue: its slot and the command. -/
def Core.passCmd (c : Core) : Option (Nat × Cmd) :=
  let l := (c.chains.filter fun x => x.2.eng = 1).filterMap fun x => match x.2.cmds with
    | m :: _ => if m.started && isMatrix m.eop && !m.passed && m.phase ≠ .finished then some (x.1, m) else none
    | [] => none
  l.foldl (fun acc x => match acc with
    | none => some x
    | some y => if x.2.id < y.2.id then some x else some y) none

/-- A pass of a core is pending: its command stands at its passes, its engine goes, and its hawk holds the charge (R349, R358). -/
def State.passPending (s : State) (p : Nat) : Bool :=
  match (s.core p).passCmd with
  | none => false
  | some (slot, m) =>
    decide (m.stage = 4) && decide (m.phase = .queued) && s.engineGoes p (look Chain.free slot (s.core p).chains) m && s.canPay p (s.passCharge p m)

/-- The position whose pass the array of a cluster runs next: that of the last pass while its weight and its work last, else the next one in
the round with a pending pass (R349). -/
def State.mxNext (s : State) (clu : Nat) : Option Nat :=
  let (j, n) := (s.cluster clu).mxTurn
  let pend (i : Nat) : Bool := s.passPending (8 * clu + i)
  if n ≤ look 0 j (s.cluster clu).mxw ∧ pend j then some j else ((List.range 8).map fun i => (j + 1 + i) % 8).find? pend

/-- The turn after a pass of a position. -/
def Cluster.passMade (c : Cluster) (i : Nat) : Cluster :=
  let (j, n) := c.mxTurn
  { c with mxTurn := if i = j ∧ n ≤ look 0 j c.mxw then (j, n + 1) else (i, 1) }

/-- The draw of an array for a partition. -/
def Cluster.drawOf (c : Cluster) (part : Nat) : Draw :=
  match c.draws.find? fun d => d.part = part with
  | some d => d
  | none => { part := part, window := 0, cur := 0, last := 0, ran := false, since := none }

/-- The draw as it stands at a tick: its 100 ns run from the multiples of 100 on (log entry 39). -/
def Draw.roll (d : Draw) (now : Nat) : Draw :=
  let w := now / 100
  if d.window = w then d
  else if d.window + 1 = w then { d with window := w, cur := 0, last := d.cur, ran := false, since := if d.ran then d.since else none }
  else { d with window := w, cur := 0, last := 0, ran := false, since := none }

/-- A pass of the array draws energy for a partition (R362). -/
def Cluster.drew (c : Cluster) (part n now : Nat) : Cluster :=
  let d := (c.drawOf part).roll now
  { c with draws := { d with cur := d.cur + n } :: c.draws.filter fun x => x.part ≠ part }

/-- So does a ballast pass (R362). -/
def Cluster.ballast (c : Cluster) (part n now : Nat) : Cluster :=
  let d := (c.drawOf part).roll now
  let d1 := { d with cur := d.cur + n, ran := true, since := some (d.since.getD now) }
  { c with draws := d1 :: c.draws.filter fun x => x.part ≠ part }

/-- The part of a list from `lo` on, `n` elements, taken from another. -/
def splice (old new : List Byte) (lo n : Nat) : List Byte := old.take lo ++ (new.drop lo).take n ++ old.drop (lo + n)

/-- A pass takes plane `j` as the array holds it then, with its metadata and scales (R325). -/
def Cmd.takePlane (m : Cmd) (r : Residency) (j : Nat) : Cmd :=
  let b := 2048 * wfmtBits (matrixFmts m.eop).2
  let sc := if r.sparse then 1024 else 512
  { m with
    wBytes := splice (splice m.wBytes r.data (b * j) b) r.data (b * r.count + 8192 * j) (if r.sparse then 8192 else 0)
    wScales := splice m.wScales r.scales (sc * j) sc, wTables := put j r.table m.wTables, plane := j + 1 }

/-- Words of plane `j` of a residency that cannot be corrected, by number. -/
def Residency.badIn (r : Residency) (j : Nat) : List Nat :=
  let n := 256 * wfmtBits (r.wfmt.getD 0)
  r.bad.filter fun w => decide (n * j ≤ w) && decide (w < n * (j + 1))

/-- An error in planes that a command is to read: a residency that is not stale is EVICTED and reloads, and the command goes on in `stage`; a stale one
is consumed (R417). -/
def State.badPlanes (s : State) (p : Nat) (m : Cmd) (r : Residency) (w stage : Nat) : Run :=
  if r.state = .stale then .poison s 12 w else s.beginFill p m r (r.wfmt.getD 0) r.src r.scl r.table stage

/-- Step 4 of R325: the next pass, when it is the core's turn. A plane with an error is reloaded first, once no other load is in progress. -/
def State.makePass (s : State) (p slot : Nat) (m : Cmd) (r : Residency) : Run :=
  if m.plane < r.count ∧ r.badIn m.plane ≠ [] then
    if r.fills ≠ [] then .wait else s.badPlanes p m r ((r.badIn m.plane).headD 0) 7
  else if r.count ≤ m.plane then .go s { m with stage := 5, passed := true }
  else if (s.core p).passCmd.map (·.1) ≠ some slot ∨ s.mxNext (cluOf p) ≠ some (posOf p) then .wait
  else
    let cost := s.passCharge p m
    .go ((s.pay p 0 cost).modCluster (cluOf p) fun c => (c.passMade (posOf p)).drew (s.ownerOf p).1 cost s.now) (m.takePlane r m.plane)

/-! ### The steps of a matrix command -/

/-- Step 2 of R325: what the state of the residency brings about. A plane with an error reloads unless it is stale (R417); a residency on which a
load is in progress is waited for, stale or not (log entry 69). -/
def State.useRes (s : State) (p : Nat) (m : Cmd) (r : Residency) (kp : Nat) : Run :=
  if r.state = .loading ∨ r.fills ≠ [] then .wait
  else
    match r.state with
    | .empty => refuseCmd s 3
    | .evicted => s.beginFill p m r (r.wfmt.getD 0) r.src r.scl r.table 2
    | _ => match r.bad with
      | w :: _ => s.badPlanes p m r w 2
      | [] => s.takeA p m r kp

/-- A reload ends, and the command goes on in a stage (R325). -/
def State.reloaded (s : State) (p : Nat) (m : Cmd) (r : Residency) (stage : Nat) : Run :=
  match s.endFill p m r with
  | none => refuseCmd s 1
  | some s1 => .go s1 { m with
      stage := stage, loading := false, args := m.args.filter fun x => decide (x.1 < 4), events := m.events ||| 8
      reload := m.reload + (s.now - m.began) }

/-- The tiles that a matrix command names. -/
def State.cmdTiles (s : State) (p : Nat) (m : Cmd) : List Tile :=
  (if fieldNat m.ecw.opd 53 3 = 5 then (s.tileDesc p m.ecw.opd).toList else []) ++
    (if mxA m.eop then (s.tileDesc p (m.ecw.p1.zeroExtend 56)).toList else []) ++
    (if fieldNat m.ecw.dst 53 3 = 5 then (s.tileDesc p m.ecw.dst).toList else [])

/-- A memory destination of a matrix command is not aligned to words, by its base or its stride: R324 states no alignment for it (DESIGN CHOICE, log
entry 71). -/
def Cmd.dstMisaligned (m : Cmd) : Bool :=
  fieldNat m.ecw.dst 53 3 ≠ 5 && match m.desc 2 m.ecw.dst with
    | none => true
    | some (b, st) => decide (b.toNat % 8 ≠ 0) || decide ((st.getD 0).toNat % 8 ≠ 0)

/-- A matrix command (R324, R325): stage 0 checks its fields, 1 its operands and the residency, 2 ends a reload, 3 reads A, 4 makes the
passes, 7 ends a reload between two of them, 5 and 6 write the results. -/
def matrixGo (p slot : Nat) (m : Cmd) (s : State) : Run :=
  let e := m.ecw
  if m.stage = 6 then .done s 0 m.events m.reload
  else if m.stage = 5 then s.storeResults p m
  else
    match s.liveRes p e.hc.toNat with
    | none => refuseCmd s 3
    | some r =>
      let kp := r.count * (if r.sparse then 256 else 128)
      match m.stage with
      | 0 =>
        if (r.wfmt ≠ none ∧ r.wfmt ≠ some (matrixFmts m.eop).2) ∨ r.sparse ≠ sparseOp m.eop then refuseCmd s 5
        else if fieldError m.eop e || (fieldNat e.dst 53 3 ≠ 5 && decide (descOf e.dst = .bad)) then refuseCmd s 1
        else m.next 1 (if fieldNat e.dst 53 3 = 5 then [] else extReads 2 e.dst) s
      | 1 =>
        if m.dstMisaligned then refuseCmd s 1
        else
          let st := s.operandStatus p m.eop e kp
          if st ≠ 0 then refuseCmd s st
          else
            match s.touchAll (cluOf p) (s.cmdTiles p m) with
            | none => .wait
            | some s1 => s1.useRes p m r kp
      | 2 => s.reloaded p m r 3
      | 7 => s.reloaded p m r 4
      | 3 => s.takeA p m r kp
      | _ => s.makePass p slot m r

/-- A matrix command. -/
def matrixRun : Runner :=
  { full := fun m => m.ecw.sf == 1
    value := fun m c j =>
      let (v, ev) := m.wordOf (c.num / 64) (2 * (c.num % 64)) (leNat (look [] j c.got))
      (natBytes 8 v, ev)
    go := matrixGo }

/-! ## One meaning for each command of the matrix queue -/

/-- MMT8T8. -/
def execMmt8t8 (e : Ecw) (s : State) : Host.Outcome State Fault Refusal := runCmd 0x01 e matrixRun s
/-- MMT8BF. -/
def execMmt8bf (e : Ecw) (s : State) : Host.Outcome State Fault Refusal := runCmd 0x02 e matrixRun s
/-- MMBFBF. -/
def execMmbfbf (e : Ecw) (s : State) : Host.Outcome State Fault Refusal := runCmd 0x03 e matrixRun s
/-- MMF16F16. -/
def execMmf16f16 (e : Ecw) (s : State) : Host.Outcome State Fault Refusal := runCmd 0x04 e matrixRun s
/-- MMI8I8. -/
def execMmi8i8 (e : Ecw) (s : State) : Host.Outcome State Fault Refusal := runCmd 0x05 e matrixRun s
/-- MMT4T8. -/
def execMmt4t8 (e : Ecw) (s : State) : Host.Outcome State Fault Refusal := runCmd 0x06 e matrixRun s
/-- MMT4T4. -/
def execMmt4t4 (e : Ecw) (s : State) : Host.Outcome State Fault Refusal := runCmd 0x07 e matrixRun s
/-- MMX8X8. -/
def execMmx8x8 (e : Ecw) (s : State) : Host.Outcome State Fault Refusal := runCmd 0x08 e matrixRun s
/-- MMX4X8. -/
def execMmx4x8 (e : Ecw) (s : State) : Host.Outcome State Fault Refusal := runCmd 0x09 e matrixRun s
/-- MMX4X4. -/
def execMmx4x4 (e : Ecw) (s : State) : Host.Outcome State Fault Refusal := runCmd 0x0A e matrixRun s
/-- MMST8T8. -/
def execMmst8t8 (e : Ecw) (s : State) : Host.Outcome State Fault Refusal := runCmd 0x11 e matrixRun s
/-- MMST8BF. -/
def execMmst8bf (e : Ecw) (s : State) : Host.Outcome State Fault Refusal := runCmd 0x12 e matrixRun s
/-- MMSBFBF. -/
def execMmsbfbf (e : Ecw) (s : State) : Host.Outcome State Fault Refusal := runCmd 0x13 e matrixRun s
/-- MMSF16F16. -/
def execMmsf16f16 (e : Ecw) (s : State) : Host.Outcome State Fault Refusal := runCmd 0x14 e matrixRun s
/-- MMSI8I8. -/
def execMmsi8i8 (e : Ecw) (s : State) : Host.Outcome State Fault Refusal := runCmd 0x15 e matrixRun s
/-- MMST4T8. -/
def execMmst4t8 (e : Ecw) (s : State) : Host.Outcome State Fault Refusal := runCmd 0x16 e matrixRun s
/-- MMST4T4. -/
def execMmst4t4 (e : Ecw) (s : State) : Host.Outcome State Fault Refusal := runCmd 0x17 e matrixRun s
/-- MMSX8X8. -/
def execMmsx8x8 (e : Ecw) (s : State) : Host.Outcome State Fault Refusal := runCmd 0x18 e matrixRun s
/-- MMSX4X8. -/
def execMmsx4x8 (e : Ecw) (s : State) : Host.Outcome State Fault Refusal := runCmd 0x19 e matrixRun s
/-- MMSX4X4. -/
def execMmsx4x4 (e : Ecw) (s : State) : Host.Outcome State Fault Refusal := runCmd 0x1A e matrixRun s
/-- WLOAD. -/
def execWload (e : Ecw) (s : State) : Host.Outcome State Fault Refusal := runCmd 0x20 e wloadRun s
/-- MXSIG. -/
def execMxsig (e : Ecw) (s : State) : Host.Outcome State Fault Refusal := runCmd 0x21 e sigRun s

end Sys2Proof.Machine
end

