-- ==== Sys2Proof/Machine/LongAcc.lean ====
section
/-! DEFINITION. Long accumulators (R103, R104, R167 to R170, R328): the object, its operations, one meaning for each word. -/

namespace Sys2Proof.Machine

/-! ## The object (R103, R167 to R169) -/

/-- A long accumulator: its flags, its event count, MAG as an integer. -/
structure Acc where
  ovf : Bool
  spec : Bool
  ssign : Bool
  nanf : Bool
  evcnt : Nat
  mag : Int
  deriving DecidableEq, Repr

/-- The empty accumulator. -/
def Acc.zero : Acc := { ovf := false, spec := false, ssign := false, nanf := false, evcnt := 0, mag := 0 }

/-- Word 0. -/
def Acc.word0 (a : Acc) : Word :=
  BitVec.ofNat 64 ((if a.ovf then 1 else 0) + (if a.spec then 2 else 0) + (if a.ssign then 4 else 0) +
    (if a.nanf then 8 else 0) + a.evcnt % 2 ^ 32 * 2 ^ 16)

/-- A must-be-zero field of word 0 is not zero. -/
def badWord0 (w : Word) : Bool := decide (fieldNat w 4 12 ≠ 0) || decide (fieldNat w 48 16 ≠ 0)

/-- MAG as a number below 2^640. -/
def Acc.magBits (a : Acc) : Nat := wrapInt 640 a.mag

/-- The 88 bytes of an object. -/
def Acc.bytes (a : Acc) : List Byte := natBytes 8 a.word0.toNat ++ natBytes 80 a.magBits

/-- An object from its bytes. -/
def Acc.ofBytes (bs : List Byte) : Acc :=
  let w := BitVec.ofNat 64 (leNat (bs.take 8))
  { ovf := w.getLsbD 0, spec := w.getLsbD 1, ssign := w.getLsbD 2, nanf := w.getLsbD 3, evcnt := fieldNat w 16 32,
    mag := sint 640 (leNat (bs.drop 8)) }

/-- MAG moves by an exact amount, modulo 2^640 (R167). -/
def Acc.move (a : Acc) (v : Int) : Acc :=
  let m := a.mag + v
  { a with ovf := a.ovf || decide (m < -(2 ^ 639)) || decide (2 ^ 639 ≤ m), mag := sint 640 (wrapInt 640 m) }

/-- SSIGN holds a sign only beside SPEC without NANF. -/
def Acc.settle (a : Acc) : Acc := if a.nanf ∨ !a.spec then { a with ssign := false } else a

/-- A finite addend in units of 2^−298. -/
def addendInt (neg : Bool) (m : Nat) (e : Int) : Int := (if neg then -1 else 1) * ((m * 2 ^ (e + 298).toNat : Nat) : Int)

/-- LaAdd (R167). -/
def Acc.add (a : Acc) (x : FVal) : Acc :=
  (match x with
  | .nan => { a with spec := true, nanf := true }
  | .inf n =>
    let a1 := if a.spec && !a.nanf && a.ssign != n then { a with nanf := true } else a
    if a.spec then a1 else { a1 with spec := true, ssign := n }
  | .fin n m e => a.move (addendInt n m e)).settle

/-- The count of operations that set or met OVF or SPEC, after an instruction (R167). -/
def Acc.count (a : Acc) : Acc := if a.ovf ∨ a.spec then { a with evcnt := min (a.evcnt + 1) (2 ^ 32 - 1) } else a

/-- LAMRG of two objects, without the count of the instruction (R168). -/
def Acc.merge (a b : Acc) : Acc :=
  let m := a.move b.mag
  let clash := a.spec && b.spec && a.ssign != b.ssign
  ({ m with
    ovf := m.ovf || b.ovf, spec := a.spec || b.spec, nanf := a.nanf || b.nanf || clash
    ssign := if a.spec then a.ssign else b.ssign, evcnt := min (a.evcnt + b.evcnt) (2 ^ 32 - 1) } : Acc).settle

/-- LARND (R169): a zero result is +0, that of a tiny negative MAG too. -/
def Acc.round (a : Acc) (f : Fmt) (mode : Nat) : Nat :=
  if a.nanf then f.nanBits
  else if a.spec then f.signed a.ssign f.infBits
  else if a.ovf then f.nanBits
  else
    let r := roundTo f mode (.fin (decide (a.mag < 0)) a.mag.natAbs (-298))
    if r = f.signed true 0 then 0 else r

/-- The LAEV bits that an object sets (R64, R167). -/
def Acc.laev (a : Acc) : Nat :=
  (if a.ovf then 1 else 0) + (if a.spec then 2 else 0) + (if a.ssign then 4 else 0) + (if 0 < a.evcnt then 8 else 0)

/-! ## Objects in TCM -/

/-- The accumulator-address fault. -/
def accAddrTrap (va : Word) : Trap := { cause := 12, code := 0, info := va }

/-- The location of an object that an address names for a strand, or the accumulator-address fault, the one cause that R443 gives these words for
an address: it answers also for an object in the supervisor area, which the strand may not reach (R89, R103; DEDUCED, log entry 65). -/
def State.objectAt (s : State) (p k : Nat) (va : Word) : Except Trap Nat :=
  let off := va.toNat - aperture
  if va.toNat < aperture ∨ 2 ^ 17 ≤ off ∨ off % 128 ≠ 0 ∨ ((s.core p).inSupArea off 88 ∧ !(s.who p k).sup ∧ !(s.who p k).firmware) then
    .error (accAddrTrap va)
  else .ok (tcmBase p + off)

/-- Older operations touch the object or come before what follows, or an older accumulator word of the core still writes it (R104, R114). -/
def State.objectHeld (s : State) (p k : Nat) (va : Word) : Bool :=
  s.readHeld p k va 88 || (s.core p).ops.any fun x => x.kind = .acc && decide (x.va.toNat / 128 = va.toNat / 128)

/-- The object at a location. -/
def State.readAcc (s : State) (l : Nat) : Acc := Acc.ofBytes (s.bytes l 88)

/-- The stores, one for each word of an object that changes (R104, R108). -/
def State.accOps (s : State) (p k l : Nat) (va : Word) (a : Acc) : List MemOp :=
  (List.range 11).filterMap fun i =>
    let w := (a.bytes.drop (8 * i)).take 8
    if s.bytes (l + 8 * i) 8 = w then none
    else some { s.newOp p k .acc (va + BitVec.ofNat 64 (8 * i)) 0 with elem := i, data := BitVec.ofNat 64 (leNat w) }

/-- An accumulator word that reads `n` words of an object and writes it: the charge of its reads is taken, its stores are issued, then `f`
(R104, R358). -/
def State.writeAcc (s : State) (p k l : Nat) (va : Word) (n : Nat) (a : Acc) (f : State → State) : Res :=
  let cost := n * s.charge p 4
  if !s.canPay p cost then .short cost
  else
    match (s.pay p 0 cost).issueOps p k (s.accOps p k l va a) with
    | .done s1 => .done (f s1)
    | r => r

/-- An accumulator word that reads `n` words of an object: their charge is taken, then `f` (R358). -/
def State.readAccWords (s : State) (p n : Nat) (f : State → State) : Res :=
  if s.canPay p (n * s.charge p 4) then .done (f (s.pay p 0 (n * s.charge p 4))) else .short (n * s.charge p 4)

/-- OR the object's flags into LAEV of the header. -/
def State.orLaev (s : State) (p k : Nat) (a : Acc) : State :=
  s.putHbits p k 5 50 4 (fieldNat (s.hword p k 5) 50 4 ||| a.laev)

/-- The accumulator-format fault. -/
def accFmtTrap (va : Word) : Trap := { cause := 13, code := 0, info := va }

/-- A word on one object: its address, older operations, errors of the words `reads` that it reads, and word 0. The reads take place together, in the step of
its issue (R108; DESIGN CHOICE, log entry 85). -/
def onObject (va : Word) (p k : Nat) (reads : Nat → List Nat) (f : Nat → Acc → Res) (s : State) : Res :=
  match s.objectAt p k va with
  | .error t => .trap t
  | .ok l =>
    if s.objectHeld p k va || (reads l).any (fun i => s.poisoned (l + 8 * i) 8) then .hold
    else if badWord0 (s.loadWord l) then .trap (accFmtTrap va)
    else f l (s.readAcc l)

/-- The words of an object that an addend covers. -/
def coveredWords (x : FVal) : List Nat :=
  match x with
  | .fin _ m e =>
    if m = 0 then []
    else
      let lo := (e + 298).toNat + ctz 64 m
      let hi := (e + 298).toNat + m.log2
      (List.range 10).filterMap fun i => if 64 * i ≤ hi ∧ lo < 64 * (i + 1) then some (i + 1) else none
  | _ => []

/-- The words of an object that a list of addends reads: those that they cover, their carry runs, and word 0 (R104). -/
def addReads (a : Acc) (xs : List FVal) : List Nat :=
  let b := (xs.foldl Acc.add a).settle
  0 :: xs.flatMap coveredWords ++ (List.range 11).filter fun i => (a.bytes.drop (8 * i)).take 8 ≠ (b.bytes.drop (8 * i)).take 8

/-- The addends are added to the object that a strand names, which leaves SSIGN at 0 but beside SPEC without NANF, also when no lane is enabled;
then count and LAEV (R103, R167, R328). -/
def State.addTo (s : State) (p k : Nat) (va : Word) (xs : List FVal) : Res :=
  onObject va p k (fun l => addReads (s.readAcc l) xs) (fun l a =>
    let b := (xs.foldl Acc.add a).settle.count
    s.writeAcc p k l va (addReads a xs).eraseDups.length b fun x => x.orLaev p k b) s

/-! ## One meaning for each word (R328) -/

/-- LACLR. -/
def execLaclr (h : Hdr) (a : BitVec 8) (s : State) : Host.Outcome State Fault Refusal :=
  runWord h (specX [aS a] 2) (fun p k s =>
    let va := s.rS p k 1 a
    match s.objectAt p k va with
    | .error t => .trap t
    | .ok l => if s.objectHeld p k va then .hold else s.writeAcc p k l va 0 Acc.zero id) s

/-- LAADD: the enabled lanes of a row, or one scalar. -/
def execLaadd (h : Hdr) (a b : BitVec 8) (u : BitVec 1) (s : State) : Host.Outcome State Fault Refusal :=
  runWord h { specX [aS a, if u = 1 then bS b else bV b] 4 with usesHeader := true, hw := [5] } (fun p k s =>
    let eq := s.eqOf p k h
    let xs := if u = 1 then (if eq.getLsbD 0 then [fpVal fp32 (fieldNat (s.rS p k 2 b) 0 32)] else [])
      else ((List.range 16).filter fun i => eq.getLsbD i).map fun i => fpVal fp32 (fieldNat (s.rV p k 2 b) (32 * i) 32)
    s.addTo p k (s.rS p k 1 a) xs) s

/-- LADOT: the products of the enabled lanes of two rows. -/
def execLadot (h : Hdr) (a b c : BitVec 8) (s : State) : Host.Outcome State Fault Refusal :=
  runWord h { specX [aS a, bV b, cV c] 4 with usesHeader := true, hw := [5] } (fun p k s =>
    let eq := s.eqOf p k h
    let x (r : Row) (i : Nat) : FVal := fpVal fp32 (fieldNat r (32 * i) 32)
    s.addTo p k (s.rS p k 1 a) (((List.range 16).filter fun i => eq.getLsbD i).map fun i =>
      (x (s.rV p k 2 b) i).mul (x (s.rV p k 3 c) i))) s

/-- LARND. -/
def execLarnd (h : Hdr) (d a : BitVec 8) (ty rm : BitVec 3) (s : State) : Host.Outcome State Fault Refusal :=
  runWord h (specX [dS d, aS a] 6) (fun p k s =>
    onObject (s.rS p k 1 a) p k (fun _ => List.range 11) (fun _ x =>
      s.readAccWords p 11 fun x1 => x1.wS p k 6 d (BitVec.ofNat 64 (x.round (if ty = 0 then fp32 else fp64) rm.toNat))) s) s

/-- LAMRG merges object B into object A. -/
def execLamrg (h : Hdr) (a b : BitVec 8) (s : State) : Host.Outcome State Fault Refusal :=
  runWord h { specX [aS a, bS b] 3 with usesHeader := true, hw := [5] } (fun p k s =>
    let va := s.rS p k 1 a
    let vb := s.rS p k 2 b
    match s.objectAt p k va, s.objectAt p k vb with
    | .ok _, .error t => .trap t
    | _, _ =>
      onObject va p k (fun _ => List.range 11) (fun l x =>
        onObject vb p k (fun _ => List.range 11) (fun _ y =>
          let z := (x.merge y).count
          s.writeAcc p k l va 22 z fun x => x.orLaev p k z) s) s) s

/-- LAFLG reads word 0. -/
def execLaflg (h : Hdr) (d a : BitVec 8) (s : State) : Host.Outcome State Fault Refusal :=
  runWord h (specX [dS d, aS a] 2) (fun p k s =>
    onObject (s.rS p k 1 a) p k (fun _ => [0]) (fun l _ => s.readAccWords p 1 fun x => x.wS p k 2 d (s.loadWord l)) s) s

/-- LAFLG.CLR reads and clears word 0. -/
def execLaflgClr (h : Hdr) (d a : BitVec 8) (s : State) : Host.Outcome State Fault Refusal :=
  runWord h (specX [dS d, aS a] 2) (fun p k s =>
    let va := s.rS p k 1 a
    onObject va p k (fun _ => [0]) (fun l _ =>
      let o := { s.newOp p k .acc va 0 with data := 0 }
      match s.readAccWords p 1 id with
      | .done s1 => (match s1.issueOps p k [o] with
        | .done s2 => .done (s2.wS p k 2 d (s.loadWord l))
        | r => r)
      | r => r) s) s

/-! ## CRED, CREDX, CGATH, CBCAST (R327) -/

/-- Op of CRED on two elements: type and operation (R327, R234). -/
def credOp (ty op x y : Nat) : Nat :=
  let w := if ty % 2 = 0 then 32 else 64
  if ty < 2 then
    let f := if ty = 0 then fp32 else fp64
    if op = 0 then roundTo f 0 ((fpVal f x).add false (fpVal f y)) else fpMinMax f (op = 2) x y
  else if op = 0 then (x + y) % 2 ^ w
  else if op = 1 then (if sint w x ≤ sint w y then x else y)
  else if sint w x ≤ sint w y then y else x

/-- Bytes in units of at most eight. -/
def chunks8 (bs : List Byte) : List (List Byte) := (List.range ((bs.length + 7) / 8)).map fun i => (bs.drop (8 * i)).take 8

/-- The collective commands' way to their work: stage 0 checks the fields, 1 the alignment and N, 2 the list's entries; `f` gives the work from the
list, in OPD or in DST, and the address of the plain side. R327 speaks of a misaligned entry without an alignment: what the list, its entries and the
plain side must be aligned to, the statuses of the last and of HC, and that AUX of the plain side is ignored are the model's (DESIGN CHOICE, log entry
71). -/
def collGo (e : Ecw) (fields : Bool) (listDst : Bool) (align entry : Nat) (f : List Word → Word → List Piece) (m : Cmd) (s : State) : Run :=
  let lst := m.desc (if listDst then 2 else 0) (if listDst then e.dst else e.opd)
  let plain := m.desc (if listDst then 0 else 2) (if listDst then e.opd else e.dst)
  match m.stage, lst, plain with
  | 0, _, _ =>
    if !fields ∨ !bothNamed e ∨ fieldNat (if listDst then e.dst else e.opd) 53 3 ≠ 7 then refuseCmd s 1 else m.begin s
  | 1, some (va, some n), some (b, _) =>
    if va.toNat % 8 ≠ 0 ∨ b.toNat % align ≠ 0 then refuseCmd s 1
    else if n.toNat = 0 ∨ 4096 < n.toNat then refuseCmd s 8
    else m.next 2 (listReads va n.toNat) s
  | 2, some (_, some n), some (b, _) =>
    if (m.list n.toNat).any fun v => v.toNat % entry ≠ 0 then refuseCmd s 8 else m.next 3 (f (m.list n.toNat) b) s
  | 3, _, _ => .done s 0 0 0
  | _, _, _ => refuseCmd s 1

/-- Element `e` of a reduction: one read of `w` bytes from every source, and the writes of its result. -/
def reducePiece (src : List Word) (w e : Nat) (writes : List Part) : Piece :=
  { num := e
    reads := (src.zip (List.range src.length)).map fun x =>
      { num := x.2, va := x.1 + BitVec.ofNat 64 (w * e), loc := none, n := w, toll := if w * e % 64 = 0 then 2 else 0 }
    got := [], writes := writes, block := false, sent := [] }

/-- The elements that a piece of a reduction has read, in list order. -/
def Piece.elems (c : Piece) : List Nat := c.got.map fun x => leNat x.2

/-- CRED (R327). -/
def credRun : Runner :=
  { full := fun m => m.ecw.sf == 1
    value := fun m c _ =>
      let ty := fieldNat m.ecw.p0 0 2
      (natBytes (if ty % 2 = 0 then 4 else 8) (match c.elems with
        | [] => 0
        | y :: r => r.foldl (credOp ty (fieldNat m.ecw.p0 4 2)) y), 0)
    go := fun _ _ m s =>
      let e := m.ecw
      let w := if fieldNat e.p0 0 2 % 2 = 0 then 4 else 8
      let ok := decide (fieldNat e.p0 2 2 = 0) && decide (fieldNat e.p0 6 2 = 0) && decide (fieldNat e.p0 4 2 ≠ 3) && e.ofl = 0 && e.p1 = 0
      collGo e ok false w w (fun l b => (List.range e.hc.toNat).map fun i =>
        reducePiece l w i [{ num := 0, va := b + BitVec.ofNat 64 (w * i), loc := none, n := w, toll := if w * i % 64 = 0 then 1 else 0 }]) m s }

/-- CREDX (R327): an exact sum of FP32 elements, rounded once, or the accumulator object itself with LAOUT. -/
def credxRun : Runner :=
  { full := fun m => m.ecw.sf == 1
    value := fun m c j =>
      let acc := (c.elems.map (fpVal fp32)).foldl Acc.add Acc.zero
      (if m.ecw.ofl.getLsbD 0 then (chunks8 acc.bytes).getD j [] else natBytes 4 (acc.round fp32 0), 0)
    go := fun _ _ m s =>
      let e := m.ecw
      let laout := e.ofl.getLsbD 0
      let out (b : Word) (i : Nat) : List Part :=
        if laout then (List.range 11).map fun j =>
          { num := j, va := b + BitVec.ofNat 64 (128 * i + 8 * j), loc := none, n := 8, toll := if j % 8 = 0 then 1 else 0 }
        else [{ num := 0, va := b + BitVec.ofNat 64 (4 * i), loc := none, n := 4, toll := if 4 * i % 64 = 0 then 1 else 0 }]
      collGo e (e.p0 = 0 && decide (fieldNat e.ofl 1 5 = 0) && e.p1 = 0) false (if laout then 8 else 4) 4 (fun l b =>
        (List.range e.hc.toNat).map fun i => reducePiece l 4 i (out b i)) m s }

/-- The words of a gather or of a broadcast. -/
def collMoves (gather : Bool) (l : List Word) (base : Word) (n : Nat) : List Piece :=
  moveWords ((l.zip (List.range l.length)).flatMap fun x => (List.range (n / 8)).map fun w =>
    let far := x.1 + BitVec.ofNat 64 (8 * w)
    if gather then (far, base + BitVec.ofNat 64 (n * x.2 + 8 * w)) else (base + BitVec.ofNat 64 (8 * w), far))

/-- CGATH and CBCAST (R327). -/
def collCopyRun (gather : Bool) : Runner :=
  { full := fun m => m.ecw.sf == 1
    value := moved
    go := fun _ _ m s =>
      let n := m.ecw.hc.toNat
      collGo m.ecw (noFlags m.ecw && decide (n % 8 = 0)) (!gather) 8 8 (fun l b => collMoves gather l b n) m s }

/-- CRED. -/
def execCred (e : Ecw) (s : State) : Host.Outcome State Fault Refusal := runCmd 0x60 e credRun s
/-- CREDX. -/
def execCredx (e : Ecw) (s : State) : Host.Outcome State Fault Refusal := runCmd 0x61 e credxRun s
/-- CGATH. -/
def execCgath (e : Ecw) (s : State) : Host.Outcome State Fault Refusal := runCmd 0x62 e (collCopyRun true) s
/-- CBCAST. -/
def execCbcast (e : Ecw) (s : State) : Host.Outcome State Fault Refusal := runCmd 0x63 e (collCopyRun false) s

end Sys2Proof.Machine
end

