-- ==== Sys2Proof/Machine/Poison.lean ====
section
/-! DEFINITION. Consumption of data that no code can correct (R416 to R418, R422, R423). -/

namespace Sys2Proof.Machine

/-! ## What consumes -/

/-- What the command of an opcode does. -/
def runnerOf (eop : Nat) : Runner :=
  if eop = 0x40 then cpyRun false
  else if eop = 0x41 then cpysRun
  else if eop = 0x42 then cpygRun
  else if eop = 0x43 then cpyRun true
  else if eop = 0x44 then cpymxRun
  else if eop = 0x45 ∨ eop = 0x21 then sigRun
  else if eop = 0x20 then wloadRun
  else if eop = 0x60 then credRun
  else if eop = 0x61 then credxRun
  else if eop = 0x62 then collCopyRun true
  else if eop = 0x63 then collCopyRun false
  else matrixRun

/-- The range holds the named codeword, which is poisoned. -/
def State.holdsPoison (s : State) (l n addr : Nat) : Bool :=
  decide (plain l ≤ addr) && decide (addr < plain l + n) && s.poisoned addr 1

/-- A ready operation of a strand that reads the named place. -/
def State.poisonOp (s : State) (p k addr : Nat) : Option MemOp :=
  (s.core p).ops.find? fun o => o.strand = k && o.kind.consumes && s.opReady p o &&
    match s.access p o with
    | .loc l _ _ => s.holdsPoison l o.bytes addr
    | _ => false

/-- The word at a strand's program counter: from its repetition buffer, or from the core's instruction store (R75). -/
def State.wordAt (s : State) (p k : Nat) : Option Word :=
  let t := s.strand p k
  match if s.inBody p k then find t.pc.toNat t.body else none with
  | some w => some w
  | none => find t.pc.toNat (s.core p).istore

/-- The fields of the word at a strand's PC, where its buffer or its instruction store holds it. -/
def State.nextFields (s : State) (p k : Nat) : Option Fields := (s.wordAt p k).map Fields.ofWord

/-- The ranges of own TCM that the next word of a strand reads at its issue: DTLD, BCFG, CHAIN, the accumulator words. -/
def State.issueReads (s : State) (p k : Nat) (f : Fields) : List (Nat × Nat) :=
  let at' (w : Word) (n : Nat) : List (Nat × Nat) :=
    if aperture ≤ w.toNat ∧ w.toNat - aperture + n ≤ 2 ^ 17 then [(tcmBase p + (w.toNat - aperture), n)] else []
  let a := s.rS p k 1 f.a
  let b := s.rS p k 2 f.b
  let op := f.op.toNat
  let cores := match s.instOf p with
    | some (_, i) => i.p
    | none => 0
  if op = 0x160 then at' a 1024
  else if op = 0x1EB then at' b (8 * ((cores + 63) / 64))
  else if op = 0x201 then at' a 32
  else if op = 0x213 then at' a 88 ++ at' b 88
  else if 0x210 ≤ op ∧ op ≤ 0x214 then at' a 88
  else []

/-- The next word of a strand, a TROW or TCOL, reads the named palette place of a claimed tile of its core. -/
def State.tileReads (s : State) (p k addr : Nat) (f : Fields) : Bool :=
  match s.tileOf p (s.rS p k 1 f.a) with
  | none => false
  | some t =>
    let idx := s.rS p k 2 f.b
    if f.op = 0x206 then (t.slice (cluOf p) idx).any fun l => s.holdsPoison l 64 addr
    else f.op = 0x207 && decide (fieldNat idx 16 16 < t.cols) &&
      (t.columnLocs (cluOf p) idx (s.eqOf p k f.hdr)).any fun l => s.holdsPoison l 1 addr

/-- The next word of a strand has been found, at its issue, to read the register row (R417). -/
def State.rowReads (s : State) (p k row : Nat) : Bool := (s.strand p k).bad = some ((s.strand p k).pc, row)

/-- The next word of a strand is fetched from the die's copy, which has lost it (R417). -/
def State.fetchLost (s : State) (p k w : Nat) : Bool :=
  let pc := (s.strand p k).pc
  (s.wordAt p k).isNone && match s.tractOf p with
    | some t => decide (t.code.toNat + 8 * w = pc.toNat) && t.lostWords.contains w
    | none => false

/-! ## What follows (R417, R418) -/

/-- What CORE_UEADDR takes: the physical address of the poisoned word, or the index that a row, slot or word has; TCM and the scratchpads have no
physical address, and their value is not defined. -/
def State.ueAddr (s : State) (cause addr : Nat) : Nat × State :=
  if cause = 6 ∨ cause = 7 then (s.freeWord.toNat % 2 ^ 48, s.drawn)
  else (if cause = 8 ∨ cause = 9 then addr / 8 * 8 % 2 ^ 48 else addr % 2 ^ 48, s)

/-- The machine check of a consumption on a core: the record, CORE_UEADDR, then a rollback or the kill of the tract, also where the rollback itself
would read an error that no code corrects (R418, R422, R423). -/
def State.consume (s : State) (p cause addr pc op eop : Nat) : State :=
  let mc (c : Nat) : McInfo := { cause := c, unit := 0, lane := 0, op := op, eop := eop, pc := BitVec.ofNat 64 pc, obs := 0,
                                 expected := 0 }
  let (ue, s0) := s.ueAddr cause addr
  let s1 := (s0.mcLog p (mc cause)).modCore p fun c => { c with health := { c.health with ueCause := cause, ueAddr := ue } }
  let e := (s1.core p).exch
  match s1.instOf p with
  | some (n, i) =>
    if s1.instRollback i then
      if e.rep then (s1.mcLog p (mc 14)).killTractOf p 2 0
      else if (s1.instCores n).any fun q => (s1.core q).exch.unprot then s1.killTractOf p 2 0
      else if (s1.instCores n).any s1.datumBad then (s1.mcLog p (mc 14)).killTractOf p 2 0
      else s1.rollback n i
    else s1.killTractOf p 1 0
  | none => s1.killTractOf p 1 0

/-- A word of a strand consumes: it writes nothing more. -/
def State.consumeWord (s : State) (p : Nat) (o : MemOp) (cause addr : Nat) : State :=
  (s.stopCheck p o.id).consume p cause addr o.pc.toNat ((s.core p).opcodeAt o.pc) 0

/-- The exchange unit of a core reads the named place: its plan from X on, or the source of its next record from its offset on (R35, R42). -/
def State.exchReads (s : State) (p addr : Nat) : Bool :=
  let e := (s.core p).exch
  match s.instOf p, s.tractOf p with
  | some (_, i), some t =>
    if (s.core p).stop.isSome then false
    else if e.state = .arrived then
      (i.x.any fun x => decide (x ≤ s.now)) && match s.startPlan p i t with
        | (.poison l, _) => l = addr
        | _ => false
    else if e.state = .exchanging then
      match earliest e.todo with
      | some r => decide (2 * i.x.getD 0 + r.offset ≤ 2 * s.now) && (e.unread r).any fun j =>
          s.holdsPoison (s.spaceLoc p r.sspace r.srcoff + 8 * j) 8 addr
      | none => false
    else false
  | _, _ => false

/-- The command of a chain slot reads the named place: its state then. -/
def State.cmdReads (s : State) (p slot cause addr : Nat) : Option (Cmd × State) :=
  match s.runnable p slot with
  | none => none
  | some m =>
    if m.work.isEmpty then
      match (runnerOf m.eop).go p slot m s with
      | .poison s1 c a => if c = cause ∧ a = addr then some (m, s1) else none
      | _ => none
    else
      let reads := m.work.flatMap fun c => if c.reading then c.free else []
      if reads.any fun x => match s.partAt p m.sup false x with
          | .poison c a => decide (c = cause) && decide (plain a ≤ addr) && decide (addr < plain a + x.n)
          | _ => false
      then some (m, s) else none

/-- POISON_CONSUMPTION: a read of core `core` consumes poisoned data at `addr`: an operation or the next word of strand
`strand`, the oldest command of chain slot `strand`, or the core's exchange unit. `addr` is a location, a register row, a
palette location for a word, the number of a code word for a fetch, or the index that the command found. -/
def execPoisonConsumption (core strand cause addr : Nat) (s : State) : Host.Outcome State Fault Refusal :=
  let c := s.core core
  let pc := (s.strand core strand).pc
  let here := s.strandRuns core strand
  let word (cs ad : Nat) : State := s.consume core cs ad pc.toNat (c.opcodeAt pc) 0
  match s.poisonOp core strand addr, s.nextFields core strand, s.cmdReads core strand cause addr with
  | some o, _, _ => if poisonCause addr = cause then .next (s.consumeWord core o cause addr) else .fault .notEnabled
  | none, f, m =>
    let byWord := match f with
      | some f =>
        if here && cause = 6 && (s.issueReads core strand f).any (fun r => s.holdsPoison r.1 r.2 addr) then some (word 6 addr)
        else if here && cause = 11 && s.tileReads core strand addr f then some (word 11 ((addr - palBase (cluOf core)) / 4096))
        else if here && cause = 10 && c.rowBad addr && s.rowReads core strand addr then some (word 10 addr)
        else none
      | none => if here && cause = 13 && s.fetchLost core strand addr then some (word 13 addr) else none
    match byWord, m with
    | some s1, _ => .next s1
    | none, some (m, s1) =>
      .next ((s1.stopCmd core strand m.seq).consume core cause addr m.pc.toNat 0 m.eop)
    | none, none =>
      if s.exchReads core addr && poisonCause addr = cause then
        .next (s.consume core cause addr c.exch.pc.toNat 0x1EA 0)
      else .fault .notEnabled

end Sys2Proof.Machine
end

