-- ==== Sys2Proof/Machine/FieldBook.lean ====
section
/-! DEFINITION. The state of a core for its field book (R366, R397, R398, R400). -/

namespace Sys2Proof.Machine

/-- A copy or matrix command of the core is in progress (R397). -/
def Core.runsFor (c : Core) (p h : Nat) : Bool := c.chains.any fun x => decide (x.2.eng ≤ 1) && x.2.cmds.any fun m => m.started && decide (m.engineOf p = h)

/-- An engine of core `p` runs a command: one of its own chains, or one whose chain has moved to another core since it started (R353, R366). -/
def State.engineRuns (s : State) (p : Nat) : Bool := s.cores.any fun c => c.2.runsFor c.1 p

/-- One of the core's other units worked in this tick: a word issued, the scalar or vector unit has an operation in its pipeline, or the exchange
unit is in the Exchanging state. A core whose control strand has ended in this tick works no more (R400). -/
def Core.working (c : Core) : Bool :=
  (c.fb.ran && !c.ended) || decide (c.cycle < c.fb.busy) || decide (c.exch.state = .exchanging)

/-- An access of the core that nothing else holds back lacks its charge. -/
def State.accessShort (s : State) (p : Nat) : Bool :=
  (s.core p).ops.any fun o => s.opReady p o && match s.access p o with
    | .loc l _ host => s.opClear p o l host && !s.mayPerform p o l host
    | _ => false

/-- The next operation or pass of a command of the core lacks its charge. -/
def State.engineShort (s : State) (p : Nat) : Bool :=
  (s.core p).chains.any fun x => match s.runnable p x.1 with
    | none => false
    | some m =>
      if m.engineOf p ≠ p then false
      else if isMatrix m.eop && decide (m.stage = 4) then !s.canPay p (s.passCharge p m)
      else match m.pick s.freeWord.toNat with
        | none => false
        | some (c, l) => match s.partsAt p m.sup (!c.reading) l with
          | .ok xs => !s.canPay p (xs.map fun y => s.toll p y.1 y.2.1).sum
          | _ => false

/-- The next exchange record of the core is due and lacks its charge. -/
def State.recordShort (s : State) (p : Nat) : Bool :=
  match s.instOf p, earliest (s.core p).exch.todo with
  | some (_, i), some r =>
    decide ((s.core p).exch.state = .exchanging) && (s.core p).exch.read.isEmpty && decide (2 * i.x.getD 0 + r.offset ≤ 2 * s.now) &&
      !s.canPay p ((r.len + 63) / 64 * s.charge p 13)
  | _, _ => false

/-- A charge of the core is missing (R358, R366). -/
def State.chargeMissing (s : State) (p : Nat) : Bool :=
  ((s.core p).strands.any fun t => s.strandRuns p t.1 && decide (0 < t.2.short) && !s.canPay p t.2.short) ||
    s.accessShort p || s.engineShort p || s.recordShort p

/-- The causes with which the strands of a core wait on memory. -/
def Core.memoryCauses (c : Core) : List Nat :=
  c.strands.filterMap fun t =>
    if !t.2.live ∨ t.2.stopped ∨ c.halt then none
    else match t.2.wait with
      | none => if t.2.byRow then some 0 else none
      | some w => (match w.kind with
        | .lds _ _ _ => some 1
        | .waitseq _ _ _ _ => some 2
        | .fence _ _ _ _ => some 2
        | .wdrain _ _ => some 2
        | .join _ => some 2
        | _ => none)

/-- The causes with which they wait on a message. -/
def Core.messageCauses (c : Core) : List Nat :=
  c.strands.filterMap fun t => match t.2.wait with
    | none => none
    | some w => (match w.kind with
      | .bwait _ _ _ => some 0
      | .sstep _ => some 0
      | .recv _ _ => some 1
      | _ => none)

/-- The lowest of some causes. -/
def lowest (l : List Nat) : Nat := l.foldl min 3

/-- The state and cause of a core in this tick (R366): 0 running, 1 waiting on memory, 2 waiting on message, 3 idle. A command in progress makes
the core running also where a charge is missing: R397 names a stop as the only exception (DEDUCED, log entry 41). -/
def State.fbState (s : State) (p : Nat) : Nat × Nat :=
  let c := s.core p
  if c.stop.isSome then (3, 3)
  else if s.engineRuns p then (0, 0)
  else if s.chargeMissing p then (3, 2)
  else if c.working then (0, 0)
  else if c.memoryCauses ≠ [] then (1, lowest c.memoryCauses)
  else if c.messageCauses ≠ [] then (2, lowest c.messageCauses)
  else if c.strands.any fun t => t.2.live && t.2.wait.isSome then (3, 1)
  else (3, 0)

/-- The ticks of the old state are added to its total. -/
def FBook.close (f : FBook) (now : Nat) : FBook :=
  let n := BitVec.ofNat 64 (now - f.since)
  match f.state with
  | 0 => { f with time0 := f.time0 + n, since := now }
  | 1 => { f with time1 := f.time1 + n, since := now }
  | 2 => { f with time2 := f.time2 + n, since := now }
  | _ => { f with time3 := f.time3 + n, since := now }

/-- The core's state or cause has changed in this tick, at whose end it changes once at most (R366). After the tick's token passing, whose transfers come
after the charges, only the stopped state counts. -/
def State.fbDue (s : State) (p : Nat) : Bool :=
  (s.core p).fb.closed ≠ some s.now && s.fbState p ≠ ((s.core p).fb.state, (s.core p).fb.cause) && (s.passed ≠ some s.now || s.fbState p = (3, 3))

end Sys2Proof.Machine
end

