-- ==== Sys2Proof/Machine/Csr.lean ====
section
/-! DEFINITION. The registers by number and by block offset, and the CSR words (R6, R331, R332, R377). -/

namespace Sys2Proof.Machine

/-- A flag placed at bit `n`. -/
def flagAt (b : Bool) (n : Nat) : Nat := if b then 2 ^ n else 0

/-- A value of `n` bits placed at bit `lo`. -/
def fieldAt (v lo n : Nat) : Nat := v % 2 ^ n * 2 ^ lo

/-- The word of a number. -/
def word64 (n : Nat) : Word := BitVec.ofNat 64 n

/-! ## Levels (R330, R332) -/

/-- The level of a strand: 0 user, 1 supervisor, 2 firmware (R330). -/
def State.level (s : State) (p k : Nat) : Nat :=
  if s.isPlumb p then 2 else if k = 0 ∧ (s.core p).sup.sv then 1 else 0

/-- Read level and write level of a register; no write level where it is read only, whose writes the read level governs. -/
structure CsrRule where
  read : Nat
  write : Option Nat
  deriving DecidableEq, Repr

/-- The level that a write needs. -/
def CsrRule.wlevel (r : CsrRule) : Nat := r.write.getD r.read

/-- The register numbers (R332, and the chapters that define 0x060 to 0x0BF), with their levels: 0 user, 1 supervisor, 2
firmware. Where the text gives the field book's registers no read level, it is that of FBCTL (log entry 30). -/
def csrRanges : List (Nat × Nat × CsrRule) :=
  [(0x000, 0x00A, ⟨1, none⟩), (0x010, 0x01A, ⟨1, none⟩), (0x020, 0x03F, ⟨1, none⟩), (0x040, 0x047, ⟨0, some 0⟩),
   (0x050, 0x050, ⟨1, some 1⟩), (0x051, 0x051, ⟨1, none⟩), (0x052, 0x052, ⟨0, none⟩), (0x053, 0x053, ⟨0, some 0⟩),
   (0x054, 0x054, ⟨0, some 1⟩), (0x055, 0x055, ⟨1, some 1⟩), (0x056, 0x056, ⟨1, none⟩), (0x057, 0x058, ⟨1, some 1⟩),
   (0x060, 0x060, ⟨1, some 2⟩), (0x061, 0x061, ⟨1, some 1⟩), (0x062, 0x063, ⟨1, none⟩), (0x064, 0x064, ⟨1, some 1⟩),
   (0x065, 0x068, ⟨1, none⟩), (0x069, 0x069, ⟨2, none⟩), (0x06A, 0x06A, ⟨2, some 2⟩), (0x06B, 0x06B, ⟨1, some 2⟩),
   (0x06C, 0x06D, ⟨1, none⟩), (0x06E, 0x06E, ⟨1, some 2⟩), (0x06F, 0x073, ⟨1, some 1⟩), (0x074, 0x077, ⟨0, none⟩),
   (0x078, 0x078, ⟨1, some 2⟩), (0x079, 0x079, ⟨1, none⟩)] ++
  (List.range 11).flatMap (fun n =>
    [(0x080 + 4 * n, 0x081 + 4 * n, ⟨1, none⟩), (0x082 + 4 * n, 0x082 + 4 * n, ⟨1, some 1⟩),
     (0x083 + 4 * n, 0x083 + 4 * n, ⟨1, none⟩)]) ++
  [(0x0C0, 0x0DF, ⟨1, some 1⟩), (0x100, 0x100, ⟨0, some 1⟩), (0x101, 0x101, ⟨1, some 2⟩), (0x102, 0x102, ⟨0, none⟩),
   (0x108, 0x117, ⟨1, some 2⟩), (0x4000, 0x7FFF, ⟨2, some 2⟩), (0x8000, 0x8001, ⟨0, none⟩), (0x8002, 0xBFFF, ⟨2, some 2⟩)]

/-- The rule of a number in a list of ranges. -/
def ruleIn (n : Nat) : List (Nat × Nat × CsrRule) → Option CsrRule
  | [] => none
  | (lo, hi, r) :: rest => if lo ≤ n ∧ n ≤ hi then some r else ruleIn n rest

/-- The levels of a register number, or none where it names no register (R332). -/
def csrRule (n : Nat) : Option CsrRule := ruleIn n csrRanges

/-! ## Queue pools (R348) -/

/-- A pool's minimums and caps after a write of queue `j`'s minimum, ignored in full when the minimums would pass the pool or
the cap would lie below (R348). -/
def writeMin (pool queues dmin j v : Nat) (mins caps : AMap Nat) : AMap Nat :=
  let new := put j v mins
  let total := ((List.range queues).map fun i => look dmin i new).foldl (· + ·) 0
  if pool < total ∨ look pool j caps < v then mins else new

/-- The same for a write of a cap, which may not fall below the minimum. -/
def writeCap (dmin j v : Nat) (mins caps : AMap Nat) : AMap Nat := if v < look dmin j mins then caps else put j v caps

/-! ## Words of the core's registers -/

/-- CORE_TCMSUP (R89). -/
def Sup.tcmsup (u : Sup) : Word := word64 (fieldAt u.tcmBase 0 5 + fieldAt u.tcmLen 8 6)

/-- CORE_HAWK (R359). -/
def Power.hawk (w : Power) : Word := word64 (fieldAt w.tokens 0 15 + fieldAt w.frac 32 10 + fieldAt w.reserve 48 15)

/-- CORE_THERM (R364). -/
def Power.therm (w : Power) : Word := word64 (w.temp.toNat + flagAt w.t1 16 + flagAt w.t1act 17)

/-- CORE_THTRIP (R450). -/
def Power.thtrip (w : Power) : Word := word64 (flagAt w.t2act 0 + flagAt w.t3act 1 + flagAt w.t2 4 + flagAt w.t3 5)

/-- CORE_TCMECC and CORE_CSPECC (R415). -/
def eccWord (corr state bank prog : Nat) : Word :=
  word64 (fieldAt prog 0 12 + flagAt (decide (state = 1)) 23 + fieldAt bank 24 6 + fieldAt state 30 2 + fieldAt corr 32 32)

/-- CORE_QUAR (R407). -/
def State.quarWord (s : State) (p : Nat) : Word :=
  let h := (s.core p).health
  word64 (s.quarBits p + flagAt h.test 3 + fieldAt h.result 4 2)

/-- CORE_DATUM (R424). -/
def State.datumWord (s : State) (p : Nat) : Word :=
  let x := (s.core p).exch
  let unprot := x.unprot || match s.instOf p with
    | some (n, _) => (s.instCores n).any fun q => (s.core q).exch.unprot
    | none => false
  word64 (fieldAt (undoCount p x.undo) 0 16 + fieldAt x.deferred.length 16 16 + flagAt x.rep 46 + flagAt unprot 47 +
    fieldAt x.rb 48 16)

/-- CORE_SNAGSTAT (R436). -/
def Sup.snagstat (u : Sup) : Word :=
  word64 (fieldAt ((u.snags.map (·.len)).foldl (· + ·) 0) 0 9 + fieldAt u.wplost 9 7 + fieldAt u.made 16 16 +
    fieldAt u.tout 32 16 + fieldAt u.drop 48 16)

/-- CORE_TRESUME.STOPPED (R431). -/
def Core.stoppedMask (c : Core) : Nat := ofBitsSet ((List.range 11).filter fun h => 1 ≤ h ∧ (c.strand h).stopped)

/-- CORE_RSTCAUSE (R457). -/
def State.rstcause (s : State) : Word :=
  word64 (fieldAt s.rstTick 0 48 + flagAt s.rstScrub 58 + fieldAt s.rstT4die 59 2 + flagAt s.rstT4 61 + fieldAt s.rstKind 62 2)

/-- A word of a trap frame (R428). -/
def TrapFrame.word (f : TrapFrame) (k : Nat) : Word :=
  match k with
  | 0 => f.w0
  | 1 => f.w1
  | 2 => f.w2
  | _ => f.w3

/-- A window of 64 bits over physical rows (R73). -/
def rowBits (f : Nat → Bool) (j : Nat) : Word := word64 (ofBitsSet ((List.range 64).filter fun i => f (64 * j + i)))

/-- CLU_MXW (R349). -/
def Cluster.mxwWord (c : Cluster) : Word := word64 (((List.range 8).map fun j => fieldAt (look 0 j c.mxw) (4 * j) 4).foldl (· + ·) 0)

/-! ## Reads by number -/

/-- A register of a core or of its cluster, below number 0x4000, as strand `k` reads it. -/
def State.coreRead (s : State) (p k n : Nat) : Word × State :=
  let c := s.core p
  let u := c.sup
  let cl := s.cluster (cluOf p)
  if n ≤ 0x00A then ((c.strand n).swin, s)
  else if 0x010 ≤ n ∧ n ≤ 0x01A then (s.ostcntWord p (n - 0x010), s)
  else if 0x020 ≤ n ∧ n ≤ 0x02F then (rowBits c.busy (n - 0x020), s)
  else if 0x030 ≤ n ∧ n ≤ 0x03F then (rowBits c.locked (n - 0x030), s)
  else if 0x040 ≤ n ∧ n ≤ 0x047 then (look 0 (n - 0x040) c.rbloss, s)
  else if 0x065 ≤ n ∧ n ≤ 0x068 then
    (match n - 0x065 with
    | 0 => c.fb.time0
    | 1 => c.fb.time1
    | 2 => c.fb.time2
    | _ => c.fb.time3, s)
  else if 0x074 ≤ n ∧ n ≤ 0x077 then ((c.strand k).frame.word (n - 0x074), s)
  else if 0x080 ≤ n ∧ n ≤ 0x0AB then ((c.strand ((n - 0x080) / 4)).frame.word ((n - 0x080) % 4), s)
  else if 0x0C0 ≤ n ∧ n ≤ 0x0CF then (word64 (look 4 (n - 0x0C0) c.eqMin), s)
  else if 0x0D0 ≤ n ∧ n ≤ 0x0DF then (word64 (look 64 (n - 0x0D0) c.eqCap), s)
  else if n = 0x100 then (cl.cspslip, s)
  else if 0x108 ≤ n ∧ n ≤ 0x10F then (word64 (look 64 (n - 0x108) cl.pqMin), s)
  else if 0x110 ≤ n ∧ n ≤ 0x117 then (word64 (look 512 (n - 0x110) cl.pqCap), s)
  else
    (match n with
    | 0x050 => u.tcmsup
    | 0x051 => u.ptbr
    | 0x052 => word64 (flagAt c.v4 0 + flagAt c.v8 1)
    | 0x053 => c.srseed
    | 0x054 => c.ufcnt
    | 0x055 => word64 (fieldAt c.escThresh 0 10 + fieldAt c.escTraps 32 32)
    | 0x056 => word64 c.exch.count
    | 0x057 => word64 u.snagto
    | 0x058 => u.tvec ||| word64 (flagAt u.snage 63)
    | 0x060 => c.power.hawk
    | 0x061 => c.power.therm
    | 0x062 => c.fb.ctl
    | 0x063 => c.fb.head
    | 0x064 => c.fb.tail
    | 0x069 => word64 (s.die (dieOf p)).mccount
    | 0x06A => s.quarWord p
    | 0x06B => eccWord c.health.corr c.health.eccState c.health.bank c.health.prog
    | 0x06C => word64 (fieldAt c.health.ueAddr 0 48 + fieldAt c.health.ueCause 60 4)
    | 0x06D => s.datumWord p
    | 0x06E => eccWord cl.cspCorr cl.cspState cl.cspBank cl.cspProg
    | 0x06F => word64 (fieldAt u.twb 0 10 + fieldAt u.twl 16 9 + flagAt u.sv 63)
    | 0x070 => u.snagstat
    | 0x071 => u.wp0
    | 0x072 => u.wp1
    | 0x073 => word64 c.stoppedMask
    | 0x078 => c.power.thtrip
    | 0x079 => s.rstcause
    | 0x101 => cl.mxwWord
    | 0x102 => word64 cl.freq
    | _ => 0, s)

/-! ### The DIE block (R377) -/

/-- DIE_BCTLk (R292). -/
def State.bctl (s : State) (d k : Nat) : Word :=
  match (s.die d).hw.find? fun g => g.num = k with
  | none => 0
  | some g =>
    match find g.inst s.insts with
    | none => 0
    | some i =>
      let x := i.group g.group
      let here (l : List Nat) : Nat := (l.filter fun r => dieOf (s.relCore i r) = d).length
      let join := ofBitsSet ((List.range 4).filter fun e => e ≠ d ∧ (s.die e).hw.any fun y => y.inst = g.inst && y.group = g.group)
      word64 (1 + flagAt (s.groupBusy g.inst x g.group) 1 + flagAt g.refused 2 + fieldAt join 8 4 + fieldAt g.part 16 6 +
        fieldAt (here x.members) 22 13 + fieldAt (here x.arr) 35 13 + fieldAt x.phase 48 16)

/-- DIE_BMASKk_w (R292). -/
def State.bmask (s : State) (d k w : Nat) : Word :=
  match (s.die d).hw.find? fun g => g.num = k with
  | none => look 0 (20 * k + w) (s.die d).bmasks
  | some g =>
    match find g.inst s.insts with
    | none => 0
    | some i =>
      let cells := (i.group g.group).members.map (s.relCore i)
      word64 (ofBitsSet ((List.range 64).filter fun b => cells.any fun q => dieOf q = d ∧ q % 2048 = 64 * w + b))

/-- The TLB entry that DIE_TLBSEL names (R102). -/
def State.tlbSelected (s : State) (d : Nat) : Option TlbEntry :=
  let sel := (s.die d).tlbsel
  let unit := fieldNat sel 16 11
  let l := match fieldNat sel 27 2 with
    | 0 => (s.core (2048 * d + unit)).utlb
    | 1 => if unit < 256 then (s.cluster (256 * d + unit)).tlb else []
    | 2 => (s.die d).tlb
    | _ => []
  l[fieldNat sel 0 10]?

/-- DIE_TLBWIN: the leaf; the page's virtual address with the partition in its low bits (log entry 31). -/
def tlbWin (w : Nat) : Option TlbEntry → Word
  | none => 0
  | some e => if w = 0 then e.leaf else word64 (e.va + e.part % 64)

/-- DIE_KEYSTATs, word `w` (R385). -/
def Die.keystat (d : Die) (sl w : Nat) : Word :=
  match d.keys.find? fun k => k.slot = sl with
  | none => 0
  | some k => if w = 0 then word64 (fieldAt k.ctx 32 16 + flagAt true 63) else k.fp.extractLsb' (64 * (w - 1)) 64

/-- The router that DIE_RTSEL names lies on the die. -/
def Die.router (x : Die) (d : Nat) : Bool := dieOf x.rtsel = d

/-- A register of a die's block at a byte offset; zero where none is listed (R377). -/
def State.dieRead (s : State) (d off : Nat) : Word × State :=
  let x := s.die d
  let o := off / 8
  if off % 8 ≠ 0 then (0, s)
  else if off = 0x28 then
    (word64 (fieldAt x.slipCycles 0 32 + fieldAt x.slipPcid 32 13), s)
  else if off = 0x50 then
    let n := fieldNat x.coresel 0 16
    let p := fieldNat x.coresel 32 13
    if n < 0x200 ∧ (csrRule n).isSome ∧ s.isCore p then s.coreRead p 0 n else (0, s)
  else if 0x60 ≤ off ∧ off < 0x88 then
    (if x.router d then word64 (look 51 (8 * x.rtsel + (o - 12)) x.rtMin) else 0, s)
  else if 0x88 ≤ off ∧ off < 0xB0 then
    (if x.router d then word64 (look 256 (8 * x.rtsel + (o - 17)) x.rtCap) else 0, s)
  else if 0x100 ≤ off ∧ off < 0x300 then (word64 (look 16 (o - 0x20) x.resq), s)
  else if 0x400 ≤ off ∧ off < 0x480 then (s.bctl d (o - 0x80), s)
  else if 0x800 ≤ off ∧ off < 0x1200 then (s.bmask d ((off - 0x800) / 160) ((off - 0x800) % 160 / 8), s)
  else if 0x2000 ≤ off ∧ off < 0x4000 then (word64 (look 4 (o - 0x400) x.feMin), s)
  else if 0x4000 ≤ off ∧ off < 0x6000 then (word64 (look 4096 (o - 0x800) x.feCap), s)
  else if 0x6000 ≤ off ∧ off < 0x6200 then (word64 (look 16 (o - 0xC00) x.ceMin), s)
  else if 0x6200 ≤ off ∧ off < 0x6400 then (word64 (look 1024 (o - 0xC40) x.ceCap), s)
  else if 0x7000 ≤ off ∧ off < 0x7400 then
    (if (off - 0x7000) % 64 < 40 then x.keystat ((off - 0x7000) / 64) ((off - 0x7000) % 64 / 8) else 0, s)
  else
    (match off with
    | 0x00 => word64 (fieldAt x.captured.length 48 7 + flagAt x.waking 62 + flagAt x.gated 63)
    | 0x08 => word64 (x.plumb.toNat + flagAt x.fwLock 47 + fieldAt x.drops 48 16)
    | 0x10 => word64 (fieldAt x.skimDone 0 20 + fieldAt x.skimTotal 20 20 + fieldAt x.skimCtx 40 16 + fieldAt x.skimState 61 3)
    | 0x18 => word64 x.tkbudget
    | 0x20 => word64 x.migdrop
    | 0x30 => x.tlbsel
    | 0x38 => tlbWin 0 (s.tlbSelected d)
    | 0x40 => tlbWin 1 (s.tlbSelected d)
    | 0x48 => x.coresel
    | 0x58 => word64 x.rtsel
    | _ => 0, s)

/-! ### The debugger's window (R372, R373) -/

/-- The instance that DEV_DBGCTL names. -/
def State.dbgInst (s : State) : Option (Nat × Instance) :=
  s.insts.find? fun i =>
    i.2.base = s.dbgBase ∧ i.2.status.isNone && match find i.2.tract s.tracts with
      | some t => t.ctx = s.dbgCtx
      | none => false

/-- The physical core that DEV_DBGSEL selects, while its instance is stopped. -/
def State.dbgCore (s : State) : Option Nat :=
  match s.dbgInst with
  | none => none
  | some (_, i) =>
    let r := fieldNat s.dbgsel 32 13
    if i.dbg = .stopped ∧ r < i.p ∧ !s.partStopped i.part then some (s.relCore i r) else none

/-- DEV_DBGWIN: the selected register-store word, TCM word or CORE_ register of a stopped instance; zero outside a stop. -/
def State.dbgRead (s : State) : Word × State :=
  match s.dbgCore with
  | none => (0, s)
  | some p =>
    let off := fieldNat s.dbgsel 0 32
    match fieldNat s.dbgsel 62 2 with
    | 0 => (if off < 2 ^ 16 ∧ off % 8 = 0 then rowWord ((s.core p).row (off / 64)) (off / 8 % 8) else 0, s)
    | 1 => (if off < 2 ^ 17 ∧ off % 8 = 0 then s.loadWord (tcmBase p + off) else 0, s)
    | 2 => if off < 0x100 ∧ (csrRule off).isSome then s.coreRead p 0 off else (0, s)
    | _ => (0, s)

/-! ### The DEV block (R377) -/

/-- DEV_CAPW (R1). -/
def State.capw (s : State) : Word :=
  word64 (fieldAt s.dieCount 6 3 + flagAt s.coll 9 + fieldAt (s.plumbW - 1) 10 2 + fieldAt (9 * s.dieCount) 12 6 +
    fieldAt 15 18 4 + fieldAt 10 22 4 + fieldAt 6 26 4 + fieldAt 20 30 5 + fieldAt 17 35 5 + fieldAt 0x40 40 8 +
    fieldAt 0x60 48 8 + fieldAt 1 56 8)

/-- DEV_OWNER (R355). -/
def State.ownerWord (s : State) : Word :=
  word64 (fieldAt s.owner 0 16 + fieldAt s.refused 16 16 + fieldAt s.ownerSucc 32 16 + fieldAt s.ownerOp 62 2)

/-- STATE of DEV_DBGCTL: refused, or how the instance that it names stands (R372). -/
def State.dbgStatus (s : State) : Nat :=
  if s.dbgState = 3 then 3
  else match s.dbgInst with
  | some (_, i) => (match i.dbg with
    | .running => 0
    | .pending => 1
    | .stepping => 1
    | .stopped => 2)
  | none => 0

/-- DEV_DBGCTL (R372). -/
def State.dbgctl (s : State) : Word :=
  word64 (fieldAt s.dbgBase 0 13 + fieldAt s.dbgCtx 32 16 + fieldAt s.dbgStatus 60 2 + fieldAt s.dbgOp 62 2)

/-- DEV_QCFGn, DEV_QHEADn and DEV_QTAILn (R337). -/
def PQueue.qcfg (q : PQueue) : Word :=
  word64 (fieldAt q.die 6 2 + fieldAt q.logsz 8 4 + fieldAt q.base 12 45 + fieldAt q.kind 57 2 + fieldAt q.prio 59 5)

/-- DEV_QHEADn. -/
def PQueue.qhead (q : PQueue) : Word := word64 (fieldAt q.head 0 16 + fieldAt q.state 16 3 + fieldAt q.ctx 48 16)

/-- DEV_BRPORTj (R380). -/
def Port.word (x : Port) : Word :=
  word64 (fieldAt x.retry 0 32 + fieldAt x.peer 32 16 + fieldAt x.rate 60 2 + fieldAt x.state 62 2)

/-- A remap entry as 32 bits (R50). -/
def Remap.bits (e : Remap) : Nat := if e.valid then 2 ^ 15 + fieldAt e.state 13 2 + fieldAt e.pcid 0 13 else 0

/-- Entry `l` of the partition that DEV_RMAPSEL selects; zero past its size (R50). -/
def State.rmapEntry (s : State) (l : Nat) : Nat :=
  match find s.rmapsel s.parts with
  | none => 0
  | some pt => if l < pt.size then (look Remap.none l pt.remap).bits else 0

/-- A register of the DEV block at a byte offset; zero where none is listed (R377). -/
def State.devRead (s : State) (off : Nat) : Word × State :=
  let o := off / 8
  if off % 8 ≠ 0 then (0, s)
  else if off = 0x38 then s.dbgRead
  else if 0x200 ≤ off ∧ off < 0x320 then ((look Port.init (o - 0x40) s.ports).word, s)
  else if 0x1000 ≤ off ∧ off < 0x1800 then (word64 (look 0 (o - 0x200) s.enctx / 1024), s)
  else if 0x8000 ≤ off ∧ off < 0x10000 then
    (word64 (s.rmapEntry (2 * (o - 0x1000)) + s.rmapEntry (2 * (o - 0x1000) + 1) * 2 ^ 32), s)
  else if 0x10000 ≤ off ∧ off < 0x12000 then ((s.queue (o - 0x2000)).qcfg, s)
  else if 0x12000 ≤ off ∧ off < 0x14000 then ((s.queue (o - 0x2400)).qhead, s)
  else if 0x14000 ≤ off ∧ off < 0x16000 then (word64 (s.queue (o - 0x2800)).tail, s)
  else
    (match off with
    | 0x00 => s.capw
    | 0x08 => word64 s.now
    | 0x10 => s.ownerWord
    | 0x18 => word64 (fieldAt s.strbase 12 14)
    | 0x20 => word64 s.rmapsel
    | 0x28 => s.dbgctl
    | 0x30 => s.dbgsel
    | 0x40 => word64 (fieldAt s.bootFail 56 4 + fieldAt s.bootStep 60 3 + flagAt s.ready 63)
    | 0x80 => word64 (look 0 0 s.enovh / 1024)
    | 0x88 => word64 (look 0 1 s.enovh / 1024)
    | 0x90 => word64 (look 0 2 s.enovh / 1024)
    | _ => 0, s)

/-- A register by CSR number (R332). -/
def State.csrRead (s : State) (p k n : Nat) : Word × State :=
  if n < 0x4000 then s.coreRead p k n
  else if n < 0x8000 then s.dieRead (dieOf p) (8 * (n - 0x4000))
  else s.devRead (8 * (n - 0x8000))

/-! ## Writes by number -/

/-- CORE_TRESUME: a stopped helper whose bit is written 1 resumes at word 2 of its frame (R431). -/
def Core.resumeHelpers (c : Core) (v : Word) : Core :=
  (List.range 11).foldl (fun x h =>
    let t := x.strand h
    if 1 ≤ h ∧ v.getLsbD h ∧ t.stopped then
      { x.setStrand h { t with stopped := false, past := false, pc := BitVec.ofNat 64 (fieldNat t.frame.w2 3 54 * 8) } with
        sup := { x.sup with stopPend := delNat h x.sup.stopPend } }
    else x) c

/-- CORE_QUAR: cleared bits first, then TEST (R407). -/
def State.writeQuar (s : State) (p : Nat) (v : Word) : State :=
  let s1 := s.clearQuar p (v.extractLsb' 0 3)
  if v.getLsbD 3 && !(s1.core p).health.test then s1.startTest p else s1

/-- CORE_TCMECC: CORR is set; a write with REBUILD starts a rebuild, one without keeps BANK for it (R414, R415). -/
def State.writeTcmecc (s : State) (p : Nat) (v : Word) : State :=
  let s1 := s.modCore p fun c => { c with health := { c.health with corr := fieldNat v 32 32 } }
  let bank := fieldNat v 24 6
  if v.getLsbD 23 then s1.rebuildTcm p bank
  else s1.modCore p fun c => { c with health := { c.health with bank := bank } }

/-- CORE_CSPECC. -/
def State.writeCspecc (s : State) (n : Nat) (v : Word) : State :=
  let s1 := s.modCluster n fun c => { c with cspCorr := fieldNat v 32 32 }
  let bank := fieldNat v 24 6
  if v.getLsbD 23 then s1.rebuildCsp n bank
  else s1.modCluster n fun c => { c with cspBank := bank }

/-- A write of a CORE_ or CLU_ register below number 0x4000; a read-only one keeps its value (R6). -/
def State.coreWrite (s : State) (p n : Nat) (v : Word) : State :=
  let sup (f : Sup → Sup) : State := s.modCore p fun c => { c with sup := f c.sup }
  let pow (f : Power → Power) : State := s.modCore p fun c => { c with power := f c.power }
  if 0x040 ≤ n ∧ n ≤ 0x047 then s.modCore p fun c => { c with rbloss := put (n - 0x040) v c.rbloss }
  else if 0x080 ≤ n ∧ n ≤ 0x0AB then
    if (n - 0x080) % 4 = 2 then
      s.modStrand p ((n - 0x080) / 4) fun t => { t with frame := { t.frame with w2 := v } }
    else s
  else if 0x0C0 ≤ n ∧ n ≤ 0x0CF then
    s.modCore p fun c => { c with eqMin := writeMin 64 16 4 (n - 0x0C0) (fieldNat v 0 16) c.eqMin c.eqCap }
  else if 0x0D0 ≤ n ∧ n ≤ 0x0DF then
    s.modCore p fun c => { c with eqCap := writeCap 4 (n - 0x0D0) (fieldNat v 0 16) c.eqMin c.eqCap }
  else if 0x108 ≤ n ∧ n ≤ 0x10F then
    s.modCluster (cluOf p) fun c => { c with pqMin := writeMin 512 8 64 (n - 0x108) (fieldNat v 0 16) c.pqMin c.pqCap }
  else if 0x110 ≤ n ∧ n ≤ 0x117 then
    s.modCluster (cluOf p) fun c => { c with pqCap := writeCap 64 (n - 0x110) (fieldNat v 0 16) c.pqMin c.pqCap }
  else
    match n with
    | 0x050 =>
      let b := fieldNat v 0 5
      let l := fieldNat v 8 6
      if 32 < b + l then s else sup fun u => { u with tcmBase := b, tcmLen := l }
    | 0x053 => s.modCore p fun c => { c with srseed := v }
    | 0x054 => s.modCore p fun c =>
        { c with uf0 := fieldNat v 0 16, uf1 := fieldNat v 16 16, uf2 := fieldNat v 32 16, uf3 := fieldNat v 48 16 }
    | 0x055 => s.modCore p fun c => { c with escThresh := fieldNat v 0 10, escTraps := fieldNat v 32 32 }
    | 0x057 => sup fun u => { u with snagto := fieldNat v 0 32 }
    | 0x058 => sup fun u => { u with snage := v.getLsbD 63, tvec := word64 (fieldNat v 3 54 * 8) }
    | 0x060 => pow fun w => { w with reserve := fieldNat v 48 15 }
    | 0x061 => pow fun w => { w with t1 := w.t1 && !v.getLsbD 16 }
    | 0x064 => s.modCore p fun c => { c with fb := { c.fb with tail := v } }
    | 0x06A => s.writeQuar p v
    | 0x06B => s.writeTcmecc p v
    | 0x06E => s.writeCspecc (cluOf p) v
    | 0x06F => sup fun u => { u with twb := fieldNat v 0 10, twl := fieldNat v 16 9 }
    | 0x070 => sup fun u => { u with drop := fieldNat v 48 16, tout := fieldNat v 32 16, wplost := fieldNat v 9 7 }
    | 0x071 => sup fun u => { u with wp0 := v &&& ~~~7 }
    | 0x072 => sup fun u => { u with wp1 := v &&& ~~~7 }
    | 0x073 => s.modCore p (·.resumeHelpers v)
    | 0x078 => pow fun w => { w with t2 := w.t2 && !v.getLsbD 4, t3 := w.t3 && !v.getLsbD 5 }
    | 0x100 => s.modCluster (cluOf p) fun c => { c with cspslip := v }
    | 0x101 => s.modCluster (cluOf p) fun c =>
        { c with mxw := (List.range 8).foldl (fun m j => put j (fieldNat v (4 * j) 4) m) c.mxw }
    | _ => s

/-! ### The DIE block -/

/-- A hardware group takes a mask word, as BCFG without `.force` by parcel-relative core `rel` would; a busy one refuses it (R292). Bits that name no core of
the instance are ignored, and a group that is bound to none keeps the word until it is bound (log entry 32). -/
def State.writeBmask (s : State) (d k w : Nat) (v : Word) (rel : Nat) : State :=
  match (s.die d).hw.find? fun g => g.num = k with
  | none => s.modDie d fun y => { y with bmasks := put (20 * k + w) v y.bmasks }
  | some g =>
    match find g.inst s.insts with
    | none => s
    | some i =>
      let x := i.group g.group
      if s.groupBusy g.inst x g.group then
        (s.modDie d fun y => { y with hw := y.hw.map fun z => if z.num = k then { z with refused := true } else z }).noteConfig
          g.inst g.group rel
      else
        let named (r : Nat) : Bool :=
          let q := s.relCore i r
          if dieOf q = d ∧ q % 2048 / 64 = w then v.getLsbD (q % 64) else x.members.contains r
        let members := (List.range i.p).filter named
        (s.modInst g.inst fun j => j.setGroup g.group { x with members := members, bound := !members.isEmpty }).noteConfig
          g.inst g.group rel

/-- The partition that owns a hardware group of a die. -/
def State.hwPart (s : State) (d k : Nat) : Option Nat := ((s.die d).hw.find? fun g => g.num = k).map (·.part)

/-- A write of a die's block at a byte offset; ignored where nothing is listed (R377). PLUMB and LOCK are Felcia's (R384). -/
def State.dieWrite (s : State) (d off : Nat) (v : Word) : State :=
  let o := off / 8
  let n16 := fieldNat v 0 16
  let md (f : Die → Die) : State := s.modDie d f
  if off % 8 ≠ 0 then s
  else if 0x60 ≤ off ∧ off < 0x88 then
    md fun x =>
      if x.router d then
        let one (m : AMap Nat) (dv : Nat) : AMap Nat := (List.range 5).map fun j => (j, look dv (8 * x.rtsel + j) m)
        let new := writeMin 256 5 51 (o - 12) n16 (one x.rtMin 51) (one x.rtCap 256)
        { x with rtMin := put (8 * x.rtsel + (o - 12)) (look 51 (o - 12) new) x.rtMin }
      else x
  else if 0x88 ≤ off ∧ off < 0xB0 then
    md fun x => if x.router d then { x with rtCap := writeCap 51 (8 * x.rtsel + (o - 17)) n16 x.rtMin x.rtCap } else x
  else if 0x100 ≤ off ∧ off < 0x300 then md fun x => { x with resq := put (o - 0x20) (min (fieldNat v 0 5) 16) x.resq }
  else if 0x400 ≤ off ∧ off < 0x480 then
    md fun x => { x with hw := x.hw.map fun z => if z.num = o - 0x80 ∧ v.getLsbD 2 then { z with refused := false } else z }
  else if 0x800 ≤ off ∧ off < 0x1200 then s.writeBmask d ((off - 0x800) / 160) ((off - 0x800) % 160 / 8) v 0
  else if 0x2000 ≤ off ∧ off < 0x4000 then md fun x => { x with feMin := writeMin 4096 1024 4 (o - 0x400) n16 x.feMin x.feCap }
  else if 0x4000 ≤ off ∧ off < 0x6000 then md fun x => { x with feCap := writeCap 4 (o - 0x800) n16 x.feMin x.feCap }
  else if 0x6000 ≤ off ∧ off < 0x6200 then md fun x => { x with ceMin := writeMin 1024 64 16 (o - 0xC00) n16 x.ceMin x.ceCap }
  else if 0x6200 ≤ off ∧ off < 0x6400 then md fun x => { x with ceCap := writeCap 16 (o - 0xC40) n16 x.ceMin x.ceCap }
  else
    match off with
    | 0x08 => md fun x => { x with drops := fieldNat v 48 16 }
    | 0x18 => md fun x => { x with tkbudget := fieldNat v 0 32 }
    | 0x20 => md fun x => { x with migdrop := fieldNat v 0 32 }
    | 0x28 => md fun x => { x with slipCycles := fieldNat v 0 32 }
    | 0x30 => md fun x => { x with tlbsel := word64 (fieldAt (fieldNat v 0 10) 0 10 + fieldAt (fieldNat v 16 13) 16 13) }
    | 0x48 => md fun x => { x with coresel := word64 (fieldAt (fieldNat v 0 16) 0 16 + fieldAt (fieldNat v 32 13) 32 13) }
    | 0x58 => md fun x => { x with rtsel := fieldNat v 0 13 }
    | _ => s

/-! ### The DEV block -/

/-- DEV_QCFGn (R338). -/
def State.writeQcfg (s : State) (n : Nat) (v : Word) : State :=
  let q := s.queue n
  let kind := fieldNat v 57 2
  let logsz := fieldNat v 8 4
  if 1 < q.state ∨ q.packet.isSome ∨ q.owed ≠ 0 ∨ logsz < 4 ∨ kind = 3 then s
  else
    let q1 := { q with prio := fieldNat v 59 5, kind := kind, base := fieldNat v 12 45, logsz := logsz, die := fieldNat v 6 2 }
    s.modQueue n fun _ =>
      if kind = 0 then { q1 with state := 0 }
      else if q.kind = 0 then { q1 with state := 1, head := 0, tail := 0 }
      else q1

/-- DEV_QHEADn.CTX (R338). -/
def State.writeQhead (s : State) (n : Nat) (v : Word) : State :=
  let q := s.queue n
  if 1 < q.state ∨ q.packet.isSome ∨ q.owed ≠ 0 then s else s.modQueue n fun q => { q with ctx := fieldNat v 48 16 }

/-- The number of packets that a tail lies past the head, modulo 2^16. -/
def PQueue.span (q : PQueue) (t : Nat) : Nat := (t + 2 ^ 16 - q.head) % 2 ^ 16

/-- DEV_QTAILn as it is applied: posted, or dropped with the queue stopped (R339, R444, R445). -/
def PQueue.applyTail (q : PQueue) (t : Nat) : PQueue :=
  if 2 ^ q.logsz < q.span t then { q with state := 4, fetchAt := none }
  else
    let q1 := { q with tail := t }
    match q.state with
    | 0 => q1
    | 1 => { q1 with state := 2 }
    | 4 => { q1 with state := if t = q.head then 1 else 2 }
    | _ => { q1 with state := 2 }

/-- A queue's fetch cannot go on: it parks (R444). -/
def PQueue.park (q : PQueue) : PQueue := if q.state = 2 then { q with state := 3, fetchAt := none } else q

/-- A captured write of the wake latch: one entry for a queue, the latest tail (R340). -/
def capture (n t : Nat) : List (Nat × Nat) → List (Nat × Nat)
  | [] => [(n, t)]
  | e :: r => if e.1 = n then (n, t) :: r else e :: capture n t r

/-- DEV_QTAILn: applied, or captured while the queue's die is power-gated, whose wake it then starts; none where the latch is
full and the write is held back (R339, R340, R453). A disabled queue takes no tail. -/
def State.writeQtail (s : State) (n : Nat) (v : Word) : Option State :=
  let q := s.queue n
  let t := fieldNat v 0 16
  let d := s.die q.die
  if d.gated then
    if 64 ≤ d.captured.length ∧ d.captured.all (fun e => e.1 ≠ n) then none
    else some (s.modDie q.die fun x => { x with captured := capture n t x.captured, waking := true })
  else some (s.modQueue n (·.applyTail t))

/-- DEV_STRBASE: only firmware, and only while no partition exists (R92). -/
def State.writeStrbase (s : State) (fw : Bool) (v : Word) : State :=
  if fw && s.parts.isEmpty then { s with strbase := fieldNat v 12 14 } else s

/-! ### The debugger's control (R372, R373) -/

/-- The debugger asks for a stop at the instance's next exchange boundary; refused where the context is not debuggable. -/
def State.dbgStop (s : State) (ctx base : Nat) : State :=
  let s1 := { s with dbgOp := 1, dbgCtx := ctx, dbgBase := base }
  match find ctx s.ctxs with
  | none => { s1 with dbgState := 3 }
  | some c =>
    if !c.dbg then { s1 with dbgState := 3 }
    else
      match s1.dbgInst with
      | none => { s1 with dbgState := 0 }
      | some (n, i) =>
        (match i.dbg with
        | .stopped => { s1 with dbgState := 2 }
        | _ => { s1.modInst n (fun j => { j with dbg := .pending }) with dbgState := 1 })

/-- A pending request is cancelled. -/
def State.dbgCancel (s : State) : State :=
  let s1 := { s with dbgOp := 0, dbgState := 0 }
  match s.dbgInst with
  | some (n, i) =>
    if i.dbg = .pending ∨ i.dbg = .stepping then { s1.modInst n (fun j => { j with dbg := .running }) with dbgState := 0 } else s1
  | none => s1

/-- Every core of a stopped instance continues at the same tick; a step stops again at the next exchange boundary. -/
def State.dbgGo (s : State) (step : Bool) : State :=
  let s1 := { s with dbgOp := if step then 3 else 2, dbgState := 0 }
  match s.dbgInst with
  | some (n, i) =>
    if i.dbg = .stopped then
      let s2 := s1.modInst n fun j => { j with dbg := if step then .stepping else .running }
      let go (x : State) (p : Nat) : State := if (x.core p).stop = some .debug then x.startCore p else x
      { (s.instCores n).foldl go s2 with dbgState := if step then 1 else 0 }
    else s1
  | none => s1

/-- DEV_DBGCTL: what is asked for acts on the instance that the same write names. -/
def State.writeDbgctl (s : State) (v : Word) : State :=
  let s1 := { s with dbgCtx := fieldNat v 32 16, dbgBase := fieldNat v 0 13 }
  match fieldNat v 62 2 with
  | 0 => s1.dbgCancel
  | 1 => s1.dbgStop (fieldNat v 32 16) (fieldNat v 0 13)
  | 2 => s1.dbgGo false
  | _ => s1.dbgGo true

/-- DEV_DBGWIN while the instance is stopped (R373). -/
def State.dbgWrite (s : State) (v : Word) : State :=
  match s.dbgCore with
  | none => s
  | some p =>
    let off := fieldNat s.dbgsel 0 32
    match fieldNat s.dbgsel 62 2 with
    | 0 => if off < 2 ^ 16 ∧ off % 8 = 0 then s.putWord p (off / 64) (off / 8 % 8) v else s
    | 1 => if off < 2 ^ 17 ∧ off % 8 = 0 then s.writeMem p (tcmBase p + off) (natBytes 8 v.toNat) false none else s
    | 2 => if off < 0x100 then s.coreWrite p off v else s
    | _ => s

/-- A write of the DEV block by firmware or by the owning master; DEV_OWNER has its own rule (R355). A tail write that the
wake latch cannot take is held back: then there is no result. -/
def State.devWrite (s : State) (fw : Bool) (off : Nat) (v : Word) : Option State :=
  let o := off / 8
  if off % 8 ≠ 0 then some s
  else if 0x200 ≤ off ∧ off < 0x320 then
    let x := look Port.init (o - 0x40) s.ports
    some { s with ports := put (o - 0x40) { x with retry := fieldNat v 0 32 } s.ports }
  else if 0x10000 ≤ off ∧ off < 0x12000 then some (s.writeQcfg (o - 0x2000) v)
  else if 0x12000 ≤ off ∧ off < 0x14000 then some (s.writeQhead (o - 0x2400) v)
  else if 0x14000 ≤ off ∧ off < 0x16000 then s.writeQtail (o - 0x2800) v
  else
    match off with
    | 0x18 => some (s.writeStrbase fw v)
    | 0x20 => some { s with rmapsel := fieldNat v 0 6 }
    | 0x28 => some (s.writeDbgctl v)
    | 0x30 => some { s with dbgsel := word64 (fieldAt (fieldNat v 0 32) 0 32 + fieldAt (fieldNat v 32 13) 32 13 + fieldAt (fieldNat v 62 2) 62 2) }
    | 0x38 => some (s.dbgWrite v)
    | _ => some s

/-- A write by CSR number. -/
def State.csrWrite (s : State) (p n : Nat) (v : Word) : Option State :=
  if n < 0x4000 then some (s.coreWrite p n v)
  else if n < 0x8000 then some (s.dieWrite (dieOf p) (8 * (n - 0x4000)) v)
  else s.devWrite true (8 * (n - 0x8000)) v

/-! ## CSRR, CSRW, CSRX (R331, R332) -/

/-- Supervisor code may store the mask of a hardware group that its partition owns (R292, R332). -/
def State.ownsGroup (s : State) (p n : Nat) : Bool :=
  let off := 8 * (n - 0x4000)
  decide (0x4000 ≤ n) && decide (n < 0x8000) && decide (0x800 ≤ off) && decide (off < 0x1200) &&
    (match (s.core p).place with
    | some pl => s.hwPart (dieOf p) ((off - 0x800) / 160) = some pl.part
    | none => false)

/-- The trap of an access: cause 1 for a number that names no register, cause 2 below its level (R332). A gang admits no word of
the system group (R301). -/
def csrTrap (n : Nat) (rd wr : Bool) : Nat → Nat → State → Verdict := fun p k s =>
  match csrRule n with
  | none => .trap (s.wordTrap 1)
  | some r =>
    let lv := s.level p k
    let wlv := if s.ownsGroup p n then 1 else r.wlevel
    if (rd && decide (lv < r.read)) || (wr && decide (lv < wlv)) then .trap (s.wordTrap 2)
    else trapWhen (s.core p).gang.isSome (s.wordTrap 3)

/-- A read waits for every earlier instruction that updates the register: CORE_DTSTAT for a DTLD in progress, CORE_UFCNT for the narrowing words before it
(R256, R262, R331). -/
def State.csrAwaits (s : State) (p n : Nat) : Bool :=
  match n with
  | 0x052 => (s.core p).loading.isSome
  | 0x054 => (s.core p).narrowing.any ((s.core p).cycle < ·)
  | _ => false

/-- The checks of a word that reads a register. -/
def csrRead1 (n : Nat) (wr : Bool) : Nat → Nat → State → Verdict := holdIf (fun p s => s.csrAwaits p n) (csrTrap n true wr)

/-- CSRR reads a register (R331). -/
def execCsrr (h : Hdr) (d : BitVec 8) (csr : BitVec 16) (s : State) : Host.Outcome State Fault Refusal :=
  runWord h { specX [dS d] 2 with pre := csrRead1 csr.toNat false } (fun p k s =>
    let (v, s1) := s.csrRead p k csr.toNat
    match s1.twinValue p k v with
    | some (w, s2) => .done (s2.wS p k 2 d w)
    | none => .hold) s

/-- CSRW writes a register; the write of a read-only one has no effect (R6, R331). -/
def execCsrw (h : Hdr) (a : BitVec 8) (csr : BitVec 16) (s : State) : Host.Outcome State Fault Refusal :=
  runWord h { specX [aS a] 2 with pre := csrTrap csr.toNat false true } (fun p k s =>
    match s.csrWrite p csr.toNat (s.rS p k 1 a) with
    | some s1 => .done s1
    | none => .hold) s

/-- CSRX reads and writes a register as one step (R331). -/
def execCsrx (h : Hdr) (d a : BitVec 8) (csr : BitVec 16) (s : State) : Host.Outcome State Fault Refusal :=
  runWord h { specX [dS d, aS a] 2 with pre := csrRead1 csr.toNat true } (fun p k s =>
    let v := s.rS p k 1 a
    let (old, s1) := s.csrRead p k csr.toNat
    match s1.twinValue p k old with
    | some (w, s2) =>
      (match s2.csrWrite p csr.toNat v with
      | some s3 => .done (s3.wS p k 2 d w)
      | none => .hold)
    | none => .hold) s

end Sys2Proof.Machine
end

