-- ==== Sys2Proof/Machine/System.lean ====
section
/-! DEFINITION. The other words of the system group (R330, R333 to R336, R351, R368, R386 to R388). -/

namespace Sys2Proof.Machine

/-- A word below its level, or in a fused gang (R301, R330, R443). -/
def levelTrap (lv : Nat) : Nat → Nat → State → Verdict := fun p k s =>
  if s.level p k < lv then .trap (s.wordTrap 2) else trapWhen (s.core p).gang.isSome (s.wordTrap 3)

/-- A word of the system group that writes S[D]. -/
def systemWord (h : Hdr) (lv lat : Nat) (d : BitVec 8) (ops : List Opnd) (body : Nat → Nat → State → Option (Word × State))
    (s : State) : Host.Outcome State Fault Refusal :=
  runWord h { specX (dS d :: ops) lat with pre := levelTrap lv } (fun p k s =>
    match body p k s with
    | some (v, s1) => .done (s1.wS p k lat d v)
    | none => .hold) s

/-! ## TLBINV (R101, R333) -/

/-- Drop the translations of a partition that a test picks, in every TLB level on every die. -/
def State.dropTlb (s : State) (f : TlbEntry → Bool) : State :=
  let keep (l : List TlbEntry) : List TlbEntry := l.filter fun e => !f e
  { s with
    cores := s.cores.map fun c => (c.1, { c.2 with utlb := keep c.2.utlb })
    clusters := s.clusters.map fun c => (c.1, { c.2 with tlb := keep c.2.tlb })
    dies := s.dies.map fun d => (d.1, { d.2 with tlb := keep d.2.tlb }) }

/-- A store of the strand has not been performed and is not parked: TLBINV is a release toward page walks. -/
def State.storesPending (s : State) (p k : Nat) : Bool :=
  (s.core p).ops.any fun o => o.strand = k && o.kind.writes && !o.parked

/-- A TLBINV of either form. -/
def tlbinvWord (h : Hdr) (lv : Nat) (a b : BitVec 8) (f : Nat → Word → Word → TlbEntry → Bool) (s : State) :
    Host.Outcome State Fault Refusal :=
  runWord h { specX [aS a, bS b] 2 with pre := levelTrap lv } (fun p k s =>
    if s.storesPending p k then .hold
    else
      let part := match (s.core p).place with
        | some pl => pl.part
        | none => 64
      .done (s.dropTlb (f part (s.rS p k 1 a) (s.rS p k 2 b)))) s

/-- TLBINV drops the issuing partition's translations that overlap a byte range (R333). -/
def execTlbinv (h : Hdr) (a b : BitVec 8) (s : State) : Host.Outcome State Fault Refusal :=
  tlbinvWord h 1 a b (fun part x y e =>
    e.part = part && decide (e.va < x.toNat + y.toNat) && decide (x.toNat < e.va + 2 ^ e.log)) s

/-- TLBINV.all drops every translation of the issuing partition (R333). -/
def execTlbinvAll (h : Hdr) (a b : BitVec 8) (s : State) : Host.Outcome State Fault Refusal :=
  tlbinvWord h 1 a b (fun part _ _ e => e.part = part) s

/-- TLBINV.all.p drops every translation of the partition that S[B] names (R333). -/
def execTlbinvAllP (h : Hdr) (a b : BitVec 8) (s : State) : Host.Outcome State Fault Refusal :=
  tlbinvWord h 2 a b (fun _ _ y e => e.part = fieldNat y 0 6) s

/-! ## HALT and CTXLD (R334, R336, R351) -/

/-- HALT stops every strand of the core after the word; what it issued still lands (R334). -/
def execHalt (h : Hdr) (s : State) : Host.Outcome State Fault Refusal :=
  runWord h { specX [] 1 with pre := levelTrap 1 } (fun p _ s => .done (s.modCore p fun c => { c with halt := true })) s

/-- The image of a stopped partition that belongs to a core: the one whose entry the remap table gives to it (R351). -/
def State.savedFor (s : State) (q : Nat) : Option (Nat × SavedCore) :=
  s.parts.findSome? fun x =>
    if x.2.stopped then
      (x.2.saved.find? fun i => (look Remap.none i.log x.2.remap).valid && (look Remap.none i.log x.2.remap).pcid = q).map
        fun i => (x.1, i)
    else none

/-- A TCM image written into a core's TCM. -/
def State.putTcm (s : State) (q : Nat) (i : SavedCore) : State :=
  let inside (l : Nat) : Bool := decide (tcmBase q ≤ l) && decide (l < tcmBase q + 2 ^ 17)
  { s with
    mem := i.tcm.foldl (fun m e => memSet (tcmBase q + e.1) e.2 m) (s.mem.filter fun e => !inside e.1)
    full := i.full.foldl (fun m l => addNat (tcmBase q + l) m) (s.full.filter fun l => !inside l)
    poison := i.poison.foldl (fun m l => addNat (tcmBase q + l) m) (s.poison.filter fun l => !inside l) }

/-- A core takes up a saved image, still stopped: what belongs to the physical core stays (R351, R396). -/
def State.loadImage (s : State) (part q : Nat) (i : SavedCore) : State :=
  let old := s.core q
  let undo := i.core.exch.undo.map fun u => { u with loc := tcmMoved i.pcid q u.loc }
  let new : Core := { i.core.bodiless with
    power := old.power, health := old.health, utlb := [], istore := [], pairStops := i.core.pairStops + (s.now - i.saved)
    exch := { i.core.exch with undo := undo } }
  ((s.renameTraffic part i.pcid q).putTcm q i).setCore q new

/-- The image of a core leaves its partition's list. -/
def State.takeImage (s : State) (part : Nat) (i : SavedCore) : State :=
  s.modPart part fun x => { x with saved := x.saved.filter fun j => j ≠ i }

/-- CTXLD of core `q`: a halted core is restarted, a free core takes its saved image; 2 when the core runs, 1 when there is
nothing to load or firmware may place nothing there (R388, R406, R451). -/
def State.ctxLoad (s : State) (q : Nat) : Nat × State :=
  let c := s.core q
  if c.halt then (0, s.modCore q fun c => { c with halt := false })
  else if c.stop.isNone ∧ c.strands.any (·.2.live) then (2, s)
  else if c.place.isSome ∨ s.barred q then (1, s)
  else
    match s.savedFor q with
    | none => (1, s)
    | some (part, i) => (0, (s.loadImage part q i).takeImage part i)

/-- CTXLD (R336). The layout of its descriptor is not given: whether it is valid and which core it names are free values (log
entry 33). -/
def execCtxld (h : Hdr) (d a : BitVec 8) (s : State) : Host.Outcome State Fault Refusal :=
  systemWord h 2 1 d [aS a] (fun _ _ s =>
    let r := s.freeWord
    let q := fieldNat r 0 13
    if r.getLsbD 63 ∨ !s.isCore q then some (1, s.drawn)
    else
      let (v, s1) := s.drawn.ctxLoad q
      some (word64 v, s1)) s

/-! ## KEYZ (R334, R386) -/

/-- The leaf by which an access of a core reaches its memory: what a TLB holds, or what a walk finds. -/
def State.vaLeaf (s : State) (p : Nat) (va : Word) : Option TlbEntry :=
  match (s.core p).place with
  | none => none
  | some pl =>
    if aperture ≤ va.toNat then none
    else match s.tlbLook p pl.part va.toNat with
    | some e => some e
    | none => match s.walk (s.rootOf pl.ctx) va.toNat with
      | .leaf e log => some { part := pl.part, va := va.toNat / 2 ^ log * 2 ^ log, log := log, leaf := e }
      | .fault => none

/-- An address of a core lies in a page of a named key slot of a die. -/
def State.vaKeyed (s : State) (d mask p : Nat) (va : Word) : Bool :=
  match s.vaLeaf p va with
  | none => false
  | some e => e.leaf.getLsbD 5 && mask.testBit (fieldNat e.leaf 8 4) &&
      (match s.phys (leafAddr e.leaf e.log va.toNat) with
      | some (_, l) => locDie l = d
      | none => false)

/-- An operation in flight uses a named key slot of a die, by its codes or by its scale (R386). -/
def State.usesKey (s : State) (d mask p : Nat) (o : MemOp) : Bool :=
  s.vaKeyed d mask p o.va || (o.kind = .mxq && s.vaKeyed d mask p o.sva)

/-- A message of a pair's engine that waits at its closure router uses a named key slot of a die (R386, R410). -/
def State.sentUsesKey (s : State) (d mask : Nat) (c : Closure) : Bool :=
  let ks := ((s.die d).keys.filter fun k => mask.testBit k.slot).map (·.key)
  c.eng.any fun g => g.parts.any fun x => ks.contains (viaKey x.2.1)

/-- An access in flight uses a named key slot of a die (R386). -/
def State.keyInUse (s : State) (d mask : Nat) : Bool :=
  (s.cores.any fun c => c.2.ops.any fun o => s.usesKey d mask c.1 o) ||
    (s.closures ++ s.parts.flatMap (·.2.held)).any (s.sentUsesKey d mask)

/-- Zeroise key slots of a die (R385). -/
def Die.zeroise (x : Die) (mask : Nat) : Die := { x with keys := x.keys.filter fun k => !mask.testBit k.slot }

/-- KEYZ waits for accesses in flight through the named slots, zeroises them, and answers the mask of those now empty. -/
def execKeyz (h : Hdr) (d a : BitVec 8) (s : State) : Host.Outcome State Fault Refusal :=
  systemWord h 2 1 d [aS a] (fun p k s =>
    let die := dieOf p
    let mask := fieldNat (s.rS p k 1 a) 0 16
    if s.keyInUse die mask then none
    else some (word64 mask, s.modDie die (·.zeroise mask))) s

/-! ## SKIM (R388) -/

/-- The words at a program address of a strand, or none where one cannot be read. -/
def State.readWords (s : State) (p k : Nat) (va : Word) : Nat → Option (List Word)
  | 0 => some []
  | n + 1 =>
    match s.reach p k va 8 false, s.readWords p k (va + 8) n with
    | .loc l _ _, some r => some (s.loadWord l :: r)
    | _, _ => none

/-- The frames of a physical range as ranges of locations: one where it is contiguous, one for each 4 KiB unit of striped
space; none where a frame names no device memory. -/
def State.skimRange (s : State) (a len : Nat) : Option (List SkimRecord) :=
  let unit (i : Nat) : Option Nat := match s.phys (a + 4096 * i) with
    | some (.host, _) => none
    | some (_, l) => some l
    | none => none
  let us := (List.range (len / 4096)).map unit
  if us.any (·.isNone) then none
  else if a < 2 ^ 40 then some [{ kind := 3, unit := 0, off := a, len := len }]
  else some (us.filterMap fun u => u.map fun l => { kind := 3, unit := 0, off := l, len := 4096 })

/-- One record of a job descriptor, or none where it is invalid (R388). -/
def State.skimRecord (s : State) (w0 w1 : Word) : Option (List SkimRecord) :=
  let len := w1.toNat
  let kind := fieldNat w0 60 4
  let unit := fieldNat w0 32 13
  let off := fieldNat w0 0 24
  if len = 0 ∨ len % 4096 ≠ 0 ∨ 2 ^ 48 < len then none
  else if kind = 3 then
    let a := fieldNat w0 0 48
    if a % 4096 ≠ 0 then none else s.skimRange a len
  else if 3 < kind ∨ off % 4096 ≠ 0 then none
  else
    let size := if kind = 0 then 2 ^ 17 else if kind = 1 then 2 ^ 20 else 2 ^ 18
    let known := if kind = 0 then s.isCore unit else s.isCore (8 * unit)
    if size < off + len ∨ !known then none else some [{ kind := kind, unit := unit, off := off, len := len }]

/-- Every record of a descriptor. -/
def State.skimRecords (s : State) : List Word → Option (List SkimRecord)
  | w0 :: w1 :: r =>
    match s.skimRecord w0 w1, s.skimRecords r with
    | some x, some y => some (x ++ y)
    | _, _ => none
  | _ => some []

/-- 4 KiB units of a job. -/
def skimUnits (l : List SkimRecord) : Nat := (l.map fun r => r.len / 4096).foldl (· + ·) 0

/-- A total of the lengths that a descriptor names, before its ranges are looked at. -/
def rawUnits : List Word → Nat
  | _ :: w1 :: r => w1.toNat / 4096 + rawUnits r
  | _ => 0

/-- The job of the descriptor at a program address: its device context and records, or none where it is invalid (R388). -/
def State.skimJob (s : State) (p k : Nat) (va : Word) : Option (Nat × List SkimRecord) :=
  match s.readWords p k va 4 with
  | some [h0, h1, h2, h3] =>
    let n := fieldNat h0 0 16
    if fieldNat h0 16 32 ≠ 0 ∨ h1 ≠ 0 ∨ h2 ≠ 0 ∨ h3 ≠ 0 ∨ n = 0 ∨ 4096 < n then none
    else
      match s.readWords p k (va + 32) (2 * n) with
      | none => none
      | some ws =>
        if 2 ^ 20 - 1 < rawUnits ws then none
        else (s.skimRecords ws).map fun l => (fieldNat h0 48 16, l)
  | _ => none

/-- SKIM starts the skim engine of the die: 0 started, 1 engine busy, 2 descriptor invalid (R334, R388). It reads its own
strand's earlier stores, so it waits for them. -/
def execSkim (h : Hdr) (d a : BitVec 8) (s : State) : Host.Outcome State Fault Refusal :=
  systemWord h 2 2 d [aS a] (fun p k s =>
    if s.storesPending p k then none
    else
      let die := dieOf p
      let st := (s.die die).skimState
      if st = 1 ∨ st = 3 then some (1, s)
      else
        match s.skimJob p k (s.rS p k 1 a) with
        | none => some (2, s)
        | some (ctx, l) =>
          some (0, s.modDie die fun x =>
            { x with skimState := 1, skimCtx := ctx, skimTotal := skimUnits l, skimDone := 0, skimJob := l })) s

/-! ## ATTEST (R387) -/

/-- A 256-bit digest as bytes. -/
def hashBytes (x : BitVec 256) : List Byte := natBytes 32 x.toNat

/-- The report of a device context, but for its nonce (R387): its signature's bytes are free values. -/
def State.report (s : State) (ctx : Nat) (c : DevCtx) : List Byte :=
  natBytes 8 (fieldAt 1 56 8 + fieldAt ctx 32 16 + flagAt c.rollback 3 + flagAt c.paired 2 + flagAt c.dbg 1 + flagAt c.prot 0) ++
  natBytes 8 s.now ++ hashBytes s.tableHash ++ hashBytes s.fwHash ++ hashBytes c.measure ++
  natBytes 8 Config.deviceIdentity.toNat ++ List.replicate 104 0 ++
  (List.range 982).flatMap fun i => natBytes 8 (Config.freeWord (s.fresh + i)).toNat

/-- ATTEST writes the report of device context S[A] behind the nonce at physical address S[B]: 0 written, 1 no such device
context (R334, R387). At an address that R387 does not allow nothing is written and S[D] is a free value. -/
def execAttest (h : Hdr) (d a b : BitVec 8) (s : State) : Host.Outcome State Fault Refusal :=
  systemWord h 2 1 d [aS a, bS b] (fun p k s =>
    let ctx := (s.rS p k 1 a).toNat
    let at_ := (s.rS p k 2 b).toNat
    if !(s.core p).ops.all fun o => o.strand ≠ k then none
    else
      match find ctx s.ctxs with
      | none => some (1, s)
      | some c =>
        match s.phys at_, s.phys (at_ + 8111) with
        | some (_, l), some (_, m) =>
          if at_ % 8 ≠ 0 ∨ 2 ^ 40 ≤ at_ ∨ m ≠ l + 8111 then some (s.freeWord, s.drawn)
          else some (0, { s.writeMem p (l + 32) (s.report ctx c) true none with fresh := s.fresh + 982 })
        | _, _ => some (s.freeWord, s.drawn)) s

/-! ## TKRD, TKGIVE (R335) -/

/-- TKRD reads the core's whole tokens (R335); a shadow takes its primary's value (R412). -/
def execTkrd (h : Hdr) (d : BitVec 8) (s : State) : Host.Outcome State Fault Refusal :=
  systemWord h 0 1 d [] (fun p k s => s.twinValue p k (word64 (s.core p).power.tokens)) s

/-- The most tokens that a hawk holds: less while the core is above the T2 trip (R359, R450). -/
def Power.cap (w : Power) : Nat := if w.t2act then 4096 else 16384

/-- Tokens added to a hawk, up to its cap, and how many they were. -/
def Power.give (w : Power) (n : Nat) : Nat × Power :=
  let room := (w.cap * 1024 - (w.tokens * 1024 + w.frac)) / 1024
  (min n room, { w with tokens := w.tokens + min n room })

/-- TKGIVE adds tokens to the hawk of a physical core and answers how many it added (R335): none where S[A] names no core of the part (DESIGN CHOICE, log
entry 10). -/
def execTkgive (h : Hdr) (d a b : BitVec 8) (s : State) : Host.Outcome State Fault Refusal :=
  systemWord h 2 2 d [aS a, bS b] (fun p k s =>
    let q := fieldNat (s.rS p k 1 a) 0 13
    if !s.isCore q then some (0, s)
    else
      let (n, w) := (s.core q).power.give (s.rS p k 2 b).toNat
      some (word64 n, s.modCore q fun c => { c with power := w })) s

/-! ## QUAR, MCREAD, PSWITCH (R336) -/

/-- The unit is quarantined (R406). -/
def State.isQuar (s : State) (kind unit : Nat) : Bool :=
  match kind with
  | 0 => (s.core unit).health.qc
  | 1 => (s.cluster unit).qa
  | _ => (s.core unit).health.qr

/-- Firmware retires a second bank of an array, rebuilt or in its rebuild, by quarantining its core, or every core of its cluster: STATE 3 (R414, R415). -/
def State.outOfService (s : State) (p : Nat) : State :=
  let n := cluOf p
  let s1 := s.modCore p fun c => if c.health.eccState = 1 ∨ c.health.eccState = 2 then { c with health := { c.health with eccState := 3 } } else c
  if ((s1.cluster n).cspState = 1 ∨ (s1.cluster n).cspState = 2) ∧ (List.range 8).all fun j => (s1.core (8 * n + j)).health.qc then
    s1.modCluster n fun c => { c with cspState := 3 }
  else s1

/-- Quarantine a unit: 0 quarantined, 1 already quarantined, 2 bad unit (R336, R406). -/
def State.quar (s : State) (kind unit : Nat) : Nat × State :=
  if 2 < kind ∨ !s.isCore (if kind = 1 then 8 * unit else unit) then (2, s)
  else if s.isQuar kind unit then (1, s)
  else (0, match kind with
    | 0 => (s.quarCore unit).outOfService unit
    | 1 => s.quarArray unit
    | _ => s.quarRouter unit)

/-- QUAR (R336). -/
def execQuar (h : Hdr) (d a : BitVec 8) (s : State) : Host.Outcome State Fault Refusal :=
  systemWord h 2 1 d [aS a] (fun p k s =>
    let x := s.rS p k 1 a
    let (v, s1) := s.quar (fieldNat x 13 3) (fieldNat x 0 13)
    some (word64 v, s1)) s

/-- MCREAD writes a record of the die's machine-check log into words 0 to 3 of a row (R336, R404). -/
def execMcread (h : Hdr) (d a : BitVec 8) (s : State) : Host.Outcome State Fault Refusal :=
  runWord h { specX [dV d, aS a] 4 with pre := levelTrap 2 } (fun p k s =>
    let (w0, w1, w2, w3) := look (0, 0, 0, 0) (fieldNat (s.rS p k 1 a) 0 12) (s.die (dieOf p)).mclog
    .done (s.wV p k 4 d (rowMask 0 256) (((w3 ++ w2 ++ w1 ++ w0) : BitVec 256).zeroExtend 512))) s

/-- PSWITCH arms a gang switch, or the resume of a stopped partition: 0 armed, 1 the tick is less than 2,000 ticks ahead, 2 one is
armed already (R336, R350, R351). For a partition that does not exist S[D] is a free value. -/
def execPswitch (h : Hdr) (d a b : BitVec 8) (s : State) : Host.Outcome State Fault Refusal :=
  systemWord h 2 2 d [aS a, bS b] (fun p k s =>
    let n := fieldNat (s.rS p k 1 a) 0 6
    let t := (s.rS p k 2 b).toNat
    match find n s.parts with
    | none => some (s.freeWord, s.drawn)
    | some x =>
      if t < s.now + 2000 then some (1, s)
      else if x.armed.isSome then some (2, s)
      else some (0, s.modPart n fun y => { y with armed := some t })) s

/-! ## FBCTL (R335, R368, R371) -/

/-- A control word as it is installed: the forced fields of a device context that is not debuggable, the zero fields, and FAULT
as it stood unless EN is set (R368, R371). -/
def installWord (dbg : Bool) (old new : Word) : Word :=
  let w := new &&& 0x01FFFFFFFFFFFFFC
  let w1 := if dbg then w else w &&& ~~~0xFC
  if w1.getLsbD 2 then w1 else w1 ||| (old &&& 2)

/-- The device context of a core is debuggable; firmware's own core is (R371). -/
def State.debuggable (s : State) (p : Nat) : Bool :=
  match s.tractOf p with
  | none => true
  | some t => match find t.ctx s.ctxs with
    | some c => c.dbg
    | none => false

/-- A core's field book takes a control word; with EN set, DELTA counts from here (R398). -/
def State.installFb (s : State) (p : Nat) (v : Word) : State :=
  let w := installWord (s.debuggable p) (s.core p).fb.ctl v
  s.modCore p fun c => { c with fb := { c.fb with ctl := w, last := if w.getLsbD 2 then s.now else c.fb.last } }

/-- FBCTL installs a control word and answers the previous one (R335). -/
def execFbctl (h : Hdr) (d a : BitVec 8) (s : State) : Host.Outcome State Fault Refusal :=
  systemWord h 1 2 d [aS a] (fun p k s => some ((s.core p).fb.ctl, s.installFb p (s.rS p k 1 a))) s

end Sys2Proof.Machine
end

