-- ==== Sys2Proof/Machine/Owner.lean ====
section
/-! DEFINITION. Writes by the device's masters and by firmware: ownership, queue registers, the debugger, wakes (R6, R292, R338 to
R340, R355, R372, R373, R431, R444, R445, R453, R455). -/

namespace Sys2Proof.Machine

/-! ## Ownership (R355, R455) -/

/-- A master identifier has a valid class: 1 host function, 2 management port, 3 Brirus peer. -/
def validMaster (m : Nat) : Bool := decide (1 ≤ m / 4096) && decide (m / 4096 ≤ 3)

/-- The link of a master is down: the host's, or a peer's port that is not up. -/
def State.linkDown (s : State) (m : Nat) : Bool :=
  match m / 4096 with
  | 1 => !s.hostUp
  | 3 => (look Port.init (m % 4096) s.ports).state ≠ 2
  | _ => false

/-- The release of an owner whose link has been down for 10^9 ticks is applied, where it is due: before a claim, a write or a change of the link of the
same tick (R455). -/
def State.lapse (s : State) : State :=
  match s.linkLost with
  | some t => if s.owner ≠ 0 ∧ t + 10 ^ 9 ≤ s.now then { s with owner := 0, ownerOp := 3, linkLost := none } else s
  | none => s

/-- The tick since which the owner's link has been down follows the link and the owner. -/
def State.fixLink (s0 : State) : State :=
  let s := s0.lapse
  if s.owner ≠ 0 ∧ s.linkDown s.owner then
    (if s.linkLost.isSome then s else { s with linkLost := some s.now })
  else { s with linkLost := none }

/-- An ignored write of a master that is not the owner. -/
def State.refuse (s : State) : State := { s with refused := (s.refused + 1) % 2 ^ 16 }

/-- A write of DEV_OWNER by a master (R355, R455). -/
def State.ownerWrite (s0 : State) (m op succ : Nat) : State :=
  let s := s0.lapse
  if op = 1 ∧ s.owner = 0 then { s with owner := m, ownerOp := 1, ownerSucc := succ, linkLost := none }.fixLink
  else if op = 2 ∧ s.owner = m ∧ validMaster succ then
    { s with owner := succ, ownerOp := 2, ownerSucc := succ, linkLost := none }.fixLink
  else if op = 3 ∧ s.owner = m then { s with owner := 0, ownerOp := 3, ownerSucc := succ, linkLost := none }
  else s.refuse

/-- The master's writes reach the device: it answers but the management port's reads after a T4 trip (R452), and during boot
nothing but them (R381). -/
def State.answers (s : State) : Bool := s.ready && s.dies.all fun d => !d.2.t4

/-- A master may be heard: a host function while the host link is up, a peer while its port is; the management port always. -/
def State.heard (s : State) (m : Nat) : Bool := (s.answers || decide (m / 4096 = 2)) && validMaster m && !s.linkDown m

/-- A write by a master under the rule of ownership; master 0 is plumb-column firmware, which is never refused. -/
def State.asMaster (s : State) (m : Nat) (f : Bool → State → Option State) : Host.Outcome State Fault Refusal :=
  if m = 0 then
    (if s.answers then
      match f true s with
      | some s1 => .next s1
      | none => .fault .notEnabled
    else .fault .notEnabled)
  else if !s.heard m then .fault .notEnabled
  else if m ≠ s.owner then .next s.refuse
  else
    match f false s with
    | some s1 => .next s1
    | none => .fault .notEnabled

/-- OWNER_CLAIM (R355). -/
def execOwnerClaim (master : Nat) (s : State) : Host.Outcome State Fault Refusal :=
  if s.heard master then .next (s.ownerWrite master 1 0) else .fault .notEnabled

/-- OWNER_HANDOVER (R355). -/
def execOwnerHandover (master succ : Nat) (s : State) : Host.Outcome State Fault Refusal :=
  if s.heard master then .next (s.ownerWrite master 2 (succ % 2 ^ 16)) else .fault .notEnabled

/-- OWNER_RELEASE (R355). -/
def execOwnerRelease (master : Nat) (s : State) : Host.Outcome State Fault Refusal :=
  if s.heard master then .next (s.ownerWrite master 3 0) else .fault .notEnabled

/-- OWNER_LINK_LOSS: the owner's link has been down for 10^9 ticks (R455). -/
def execOwnerLinkLoss (s : State) : Host.Outcome State Fault Refusal :=
  match s.linkLost with
  | some t =>
    if s.owner ≠ 0 ∧ s.linkDown s.owner ∧ t + 10 ^ 9 ≤ s.now then .next s.lapse else .fault .notEnabled
  | none => .fault .notEnabled

/-! ## Register writes (R6, R377) -/

/-- A write of a register of the DEV block (block 0) or of a die's block (block 1 + die) by firmware or the owner. Barrier masks
are firmware's (R292). -/
def State.blockWrite (s : State) (blk off : Nat) (v : Word) (fw : Bool) : Option State :=
  if blk = 0 then s.devWrite fw off v
  else if s.dieCount < blk then none
  else if 0x800 ≤ off ∧ off < 0x1200 ∧ !fw then some s
  else some (s.dieWrite (blk - 1) off v)

/-- REGISTER_WRITE: a write of a register field; DEV_OWNER follows its own rule (R355, R377). -/
def execRegisterWrite (master blk off : Nat) (val : Word) (s : State) : Host.Outcome State Fault Refusal :=
  if blk = 0 ∧ off = 0x10 ∧ master ≠ 0 then
    (if s.heard master then .next (s.ownerWrite master (fieldNat val 62 2) (fieldNat val 32 16)) else .fault .notEnabled)
  else s.asMaster master fun fw s => s.blockWrite blk off val fw

/-- DEV_QCFG_WRITE (R338). -/
def execDevQcfgWrite (master n : Nat) (val : Word) (s : State) : Host.Outcome State Fault Refusal :=
  if n < 1024 then s.asMaster master fun _ s => some (s.writeQcfg n val) else .fault .notEnabled

/-- DEV_QHEAD_WRITE (R338). -/
def execDevQheadWrite (master n : Nat) (val : Word) (s : State) : Host.Outcome State Fault Refusal :=
  if n < 1024 then s.asMaster master fun _ s => some (s.writeQhead n val) else .fault .notEnabled

/-- DEV_QTAIL_WRITE (R339, R340): held back while the wake latch is full. -/
def execDevQtailWrite (master n : Nat) (val : Word) (s : State) : Host.Outcome State Fault Refusal :=
  if n < 1024 then s.asMaster master fun _ s => s.writeQtail n val else .fault .notEnabled

/-- Captured writes in arrival order (R340). -/
def State.replay (s : State) (l : List (Nat × Nat)) : State := l.foldl (fun x e => x.modQueue e.1 (·.applyTail e.2)) s

/-- WAKE_COMPLETE: the die's state is restored and the captured writes are replayed (R340). -/
def execWakeComplete (die : Nat) (s : State) : Host.Outcome State Fault Refusal :=
  let d := s.die die
  if d.gated && d.waking then
    .next ((s.modDie die fun x => { x with gated := false, waking := false, wakeTries := 0, captured := [] }).replay d.captured)
  else .fault .notEnabled

/-- WAKE_FAILURE: a failed wake sequence; it is tried twice again, and after the third the captured writes are applied and every
queue of the die parks (R453). -/
def execWakeFailure (die : Nat) (s : State) : Host.Outcome State Fault Refusal :=
  let d := s.die die
  if !(d.gated && d.waking) then .fault .notEnabled
  else if d.wakeTries < 2 then .next (s.modDie die fun x => { x with wakeTries := x.wakeTries + 1 })
  else
    let s1 := (s.modDie die fun x => { x with waking := false, wakeTries := 0, captured := [] }).replay d.captured
    .next { s1 with queues := s1.queues.map fun q =>
      (q.1, if q.2.die = die ∧ q.2.state ≠ 0 then { q.2 with state := 3, fetchAt := none } else q.2) }

/-- DIE_BMASK_WRITE: firmware, or supervisor code of the partition that owns the group, stores a mask word (R292). The event names no core: among the
reconfigurations of a tick it counts as that of parcel-relative core 0, and a later one as in order (DESIGN CHOICE, log entry 48). -/
def execDieBmaskWrite (part die k w : Nat) (fw : Bool) (val : Word) (s : State) : Host.Outcome State Fault Refusal :=
  if 16 ≤ k ∨ 20 ≤ w ∨ s.dieCount ≤ die ∨ !s.answers then .fault .notEnabled
  else if fw ∨ s.hwPart die k = some part then .next (s.writeBmask die k w val 0)
  else .fault .notEnabled

/-! ## The debugger (R372, R373) -/

/-- DEBUG_CANCEL. -/
def execDebugCancel (master : Nat) (s : State) : Host.Outcome State Fault Refusal :=
  s.asMaster master fun _ s => some s.dbgCancel

/-- DEBUG_STOP_REQUEST. -/
def execDebugStopRequest (master ctx lbase : Nat) (s : State) : Host.Outcome State Fault Refusal :=
  s.asMaster master fun _ s => some (s.dbgStop (ctx % 2 ^ 16) (lbase % 2 ^ 13))

/-- DEBUG_RESUME. -/
def execDebugResume (master : Nat) (s : State) : Host.Outcome State Fault Refusal :=
  s.asMaster master fun _ s => some (s.dbgGo false)

/-- DEBUG_STEP. -/
def execDebugStep (master : Nat) (s : State) : Host.Outcome State Fault Refusal :=
  s.asMaster master fun _ s => some (s.dbgGo true)

/-- DEV_DBGWIN_WRITE. -/
def execDevDbgwinWrite (master : Nat) (val : Word) (s : State) : Host.Outcome State Fault Refusal :=
  s.asMaster master fun _ s => some (s.dbgWrite val)

/-- The instance stands at its exchange boundary, with every command complete and every write landed (R372). -/
def State.dbgReady (s : State) (n : Nat) (i : Instance) : Bool :=
  (decide (i.dbg = .pending) || decide (i.dbg = .stepping)) && s.entryReady n i && (s.instCores n).all fun p =>
    (s.core p).settled && (s.core p).chains.all fun x => x.2.cmds.isEmpty

/-- DEBUG_STOP: at the exchange boundary of an instance for which a stop is pending, the cores enter Compute and stop in that tick (R372). -/
def execDebugStop (s : State) : Host.Outcome State Fault Refusal :=
  match s.insts.find? fun x => s.dbgReady x.1 x.2 with
  | none => .fault .notEnabled
  | some (n, _) =>
    let s1 := (s.instCores n).foldl (fun x p => (x.modCore p Core.settle).stopCore p .debug) (s.enterAll n)
    .next { s1.modInst n (fun j => { j with dbg := .stopped }) with dbgState := 2 }

/-! ## HELPER_RESUME (R431) -/

/-- HELPER_RESUME: supervisor code writes STOPPED bits of CORE_TRESUME. -/
def execHelperResume (core : Nat) (val : Word) (s : State) : Host.Outcome State Fault Refusal :=
  if (s.core core).stoppedMask &&& val.toNat = 0 then .fault .notEnabled
  else .next (s.modCore core (·.resumeHelpers val))

end Sys2Proof.Machine
end

