-- ==== Sys2Proof/Machine/Packets.lean ====
section
/-! DEFINITION. The command front end: fetching packets, and the packets other than LAUNCH (R337 to R342, R345, R354, R388, R444). -/

namespace Sys2Proof.Machine

/-! ## Addresses of the front end (R341) -/

/-- A location of the front end: with RS of its page, and whether it is host memory. -/
structure FeLoc where
  loc : Nat
  rs : Bool
  host : Bool
  deriving DecidableEq, Repr

/-- A program address of a device context that exists. -/
def State.ctxLoc (s : State) (ctx : Nat) (a : Word) (wr : Bool) : Option FeLoc :=
  match find ctx s.ctxs with
  | none => none
  | some _ =>
    match s.reachCtx ctx a wr with
    | .loc l rs h => some { loc := l, rs := rs, host := h }
    | _ => none

/-- An address as a queue's ring is addressed: a program address of the user queue's device context, or a host physical
address. -/
def State.queueLoc (s : State) (q : PQueue) (a : Word) (wr : Bool) : Option FeLoc :=
  if q.kind = 1 then s.ctxLoc q.ctx a wr
  else if a.toNat < 2 ^ 44 then some { loc := 2 ^ 44 + a.toNat, rs := false, host := true }
  else none

/-- The address lies in the local aperture (R341). -/
def inAperture (a : Word) : Bool := decide (aperture ≤ a.toNat) && decide (a.toNat < 2 ^ 57)

/-- A store by the front end. -/
def State.feStore (s : State) (x : FeLoc) (bs : List Byte) : State := s.writeMem 8192 x.loc bs x.rs none

/-! ## Packet words -/

/-- TYPE of a packet. -/
def ptype (w : List Word) : Nat := fieldNat (w.getD 0 0) 0 8

/-- CTX of a packet. -/
def pctx (w : List Word) : Nat := fieldNat (w.getD 0 0) 32 16

/-- The flag bits that a type defines, among bits [15:8] of word 0. -/
def flagBits (ty : Nat) : Nat :=
  match ty with
  | 1 => 7
  | 5 => 1
  | _ => 0

/-- Word 0 of a packet is well formed (R341): PRIO is a field of every packet, and only LAUNCH uses it. -/
def packetOk (w : List Word) : Bool :=
  let w0 := w.getD 0 0
  let ty := ptype w
  decide (1 ≤ ty) && decide (ty ≤ 7) && decide (fieldNat w0 8 8 &&& (255 - flagBits ty) = 0) &&
    decide (fieldNat w0 21 11 = 0) && decide (fieldNat w0 48 16 = 0)

/-- The queue accepts the packet (R337, R341). -/
def State.accepts (s : State) (q : PQueue) (w : List Word) : Bool :=
  let ty := ptype w
  let named := (find (pctx w) s.ctxs).isSome
  let creates := ty = 5 && (w.getD 0 0).getLsbD 8
  packetOk w && (q.kind ≠ 1 || ((ty = 1 || ty = 2 || ty = 3 || ty = 4 || ty = 7) && decide (pctx w = q.ctx))) && (named || creates)

/-- A record of a packet (R341, R345). -/
def packetRecord (n : Nat) (w : List Word) (status kind index tick : Nat) : Record :=
  let w6 := w.getD 6 0
  { queue := n, ctx := pctx w, tract := none, teardown := false, retry := false, cring := w.getD 5 0, clog := fieldNat w6 0 4,
    cons := w.getD 7 0, tag := w.getD 11 0, index := index, status := status, kind := kind, tick := tick, unit := 0, nfail := 0,
    irq := if w6.getLsbD 31 then some (fieldNat w6 16 11) else none }

/-- A running queue with nothing posted is idle again. -/
def PQueue.rest (q : PQueue) : PQueue := if q.state = 2 ∧ q.head = q.tail ∧ q.packet.isNone then { q with state := 1 } else q

/-- The packet in hand is done with; the queue goes on. -/
def State.dropPacket (s : State) (n : Nat) : State := s.modQueue n fun q => { q with packet := none, waitAt := none, copy := none }.rest

/-- The packet in hand ends with a record of a status. -/
def State.endPacket (s : State) (n : Nat) (w : List Word) (status : Nat) : State :=
  let r := packetRecord n w status (if ptype w = 1 then 1 else 2) (if ptype w = 1 then fieldNat (w.getD 1 0) 0 32 else 0) s.now
  { s with records := s.records ++ [r] }.dropPacket n

/-- The packet in hand of a queue, when it is of a type. -/
def State.inHand (s : State) (n ty : Nat) : Option (List Word) :=
  match (s.queue n).packet with
  | some w => if ptype w = ty then some w else none
  | none => none

/-! ## Service (R339, R346, R446) -/

/-- A record of the queue waits to be retried. -/
def State.retries (s : State) (n : Nat) : Bool := s.records.any fun r => r.queue = n && r.retry && !r.teardown

/-- The front end's pool of a die may take a packet of a queue (R348): each queue has at most the packet in hand there. -/
def State.feRoom (s : State) (n : Nat) : Bool :=
  let d := (s.queue n).die
  poolRoom 4096 n ((List.range 1024).map fun j =>
    (if (s.queue j).packet.isSome ∧ (s.queue j).die = d then 1 else 0, look 4 j (s.die d).feMin, look 4096 j (s.die d).feCap))

/-- The front end could fetch the queue's next packet. -/
def State.fetchable (s : State) (n : Nat) : Bool :=
  let q := s.queue n
  s.feRoom n && q.state = 2 && q.packet.isNone && q.head ≠ q.tail && !(s.die q.die).gated && !s.retries n && decide (q.die < s.dieCount)

/-! ## COPY (R341, R313) -/

/-- The locations of the words that the front end reads or writes from an address, or none where one faults. -/
def State.feWords (s : State) (ctx : Nat) (a : Word) (n : Nat) (wr : Bool) : Option (List FeLoc) :=
  let l := (List.range n).map fun i => s.ctxLoc ctx (a + word64 (8 * i)) wr
  if l.any (·.isNone) then none else some (l.filterMap id)

/-- The next operation of a front-end copy: a load of one word or a store of one, as a free value picks it (R313, R341); none while it cannot be
made, and the end of the packet when a page of it has gone, or its data cannot be corrected (DESIGN CHOICE, log entry 34). -/
def State.feCopyStep (s : State) (n : Nat) (w : List Word) (m : Cmd) : Host.Outcome State Fault Refusal :=
  match m.pick s.freeWord.toNat with
  | none => .next (s.endPacket n w 0)
  | some (c, l) =>
    match l with
    | [] => .fault .notEnabled
    | x :: _ =>
      match s.ctxLoc (pctx w) x.va !c.reading with
      | none => .next (s.drawn.endPacket n w 5)
      | some f =>
        if f.host && !s.hostUp then .fault .notEnabled
        else if c.reading && s.poisoned f.loc 8 then .next (s.drawn.endPacket n w 5)
        else if c.reading then
          .next (s.drawn.modQueue n fun q => { q with copy := some (m.hasRead c [(x, s.bytes f.loc 8)]) })
        else
          let (m1, s1) := (s.drawn.feStore f (look [] x.num c.got)).cover m f.loc
          .next (s1.modQueue n fun q => { q with copy := some (m1.hasWritten c [x] 0) })

/-- COPY: the front end copies as CPY does, a word at a time. A length or address that is no multiple of 8, one in the aperture, and one that
faults write STATUS 5 and have no effect (log entry 34). -/
def execCopy (n : Nat) (s : State) : Host.Outcome State Fault Refusal :=
  match s.inHand n 2 with
  | none => .fault .notEnabled
  | some w =>
    match (s.queue n).copy with
    | some m => s.feCopyStep n w m
    | none =>
      let cnt := (w.getD 1 0).toNat
      let a := w.getD 2 0
      let b := w.getD 3 0
      if a.toNat % 8 ≠ 0 ∨ b.toNat % 8 ≠ 0 ∨ cnt % 8 ≠ 0 ∨ cnt < 8 ∨ 2 ^ 32 - 8 < cnt ∨ inAperture a ∨ inAperture b ∨
          (s.feWords (pctx w) a (cnt / 8) false).isNone ∨ (s.feWords (pctx w) b (cnt / 8) true).isNone then
        .next (s.endPacket n w 5)
      else
        .next (s.modQueue n fun q => { q with
          copy := some { Cmd.fresh 0 0x40 (Ecw.ofBits 0) 0 0 0 false [] [] with work := plainMoves a b cnt } })

/-! ## SIGNAL and WAIT (R341) -/

/-- SIGNAL: after every earlier packet of the queue has completed, one store. -/
def execSignal (n : Nat) (s : State) : Host.Outcome State Fault Refusal :=
  match s.inHand n 3 with
  | none => .fault .notEnabled
  | some w =>
    let a := w.getD 1 0
    if (s.queue n).owed ≠ 1 then .fault .notEnabled
    else if a.toNat % 8 ≠ 0 ∨ inAperture a then .next (s.endPacket n w 5)
    else
      match s.ctxLoc (pctx w) a true with
      | none => .next (s.endPacket n w 5)
      | some x =>
        if x.host ∧ !s.hostUp then .fault .notEnabled
        else .next ((s.feStore x (natBytes 8 (w.getD 2 0).toNat)).endPacket n w 0)

/-- WAIT: the queue stops fetching until its word is reached or its ticks have passed (R341). One of a word that is not aligned ends with STATUS 5, as
a SIGNAL does (DESIGN CHOICE, log entry 34). -/
def execWait (n : Nat) (s : State) : Host.Outcome State Fault Refusal :=
  match s.inHand n 4 with
  | none => .fault .notEnabled
  | some w =>
    let a := w.getD 1 0
    if (s.queue n).waitAt.isSome then .fault .notEnabled
    else if a.toNat % 8 ≠ 0 ∨ inAperture a then .next (s.endPacket n w 5)
    else .next (s.modQueue n fun q => { q with waitAt := some s.now })

/-- The word that a waiting queue watches: none where it cannot be read, and whether it is reached. -/
def State.waitWord (s : State) (w : List Word) : Option (FeLoc × Bool) :=
  match s.ctxLoc (pctx w) (w.getD 1 0) false with
  | none => none
  | some x => some (x, decide ((w.getD 2 0).toNat ≤ s.loadNat x.loc 8))

/-- WAIT_PACKET_SATISFIED: the word is at least the packet's; a word that cannot be read, or corrected (DESIGN CHOICE, log entry 34), ends the packet with
STATUS 5. -/
def execWaitPacketSatisfied (n : Nat) (s : State) : Host.Outcome State Fault Refusal :=
  match s.inHand n 4, (s.queue n).waitAt with
  | some w, some _ =>
    (match s.waitWord w with
    | none => .next (s.endPacket n w 5)
    | some (x, ok) =>
      if x.host ∧ !s.hostUp then .fault .notEnabled
      else if s.poisoned x.loc 8 then .next (s.endPacket n w 5)
      else if !ok then .fault .notEnabled
      else .next (s.endPacket n w 0))
  | _, _ => .fault .notEnabled

/-- WAIT_PACKET_EXPIRY: the packet's ticks have passed and its word is not reached (R341). -/
def execWaitPacketExpiry (n : Nat) (s : State) : Host.Outcome State Fault Refusal :=
  match s.inHand n 4, (s.queue n).waitAt with
  | some w, some t =>
    if s.now < t + (w.getD 3 0).toNat then .fault .notEnabled
    else
      match s.waitWord w with
      | none => .next (s.endPacket n w 5)
      | some (x, ok) => if ok ∧ !(x.host ∧ !s.hostUp) ∧ !s.poisoned x.loc 8 then .fault .notEnabled else .next (s.endPacket n w 6)
  | _, _ => .fault .notEnabled

/-! ## CONTEXT (R342) -/

/-- A core outside the plumb column of the part. -/
def State.userCore (s : State) (p : Nat) : Bool := s.isCore p && !s.isPlumb p

/-- A partition may be formed with the core: no running instance uses it, as a primary or a shadow, and no running skim job names it (R342, R388, R409;
that cores in use are no part of a new partition is read from R470's run, log entry 84). -/
def State.mayJoin (s : State) (p : Nat) : Bool := s.userCore p && !s.skimNames p && (s.core p).place.isNone

/-- The user cores that a partition may be formed of. -/
def State.freeForPartition (s : State) : List Nat := (List.range 8192).filter s.mayJoin

/-- A key slot number that is free on every die (R385). -/
def State.freeKey (s : State) : Option Nat :=
  (List.range 16).find? fun k => (List.range s.dieCount).all fun d => (s.die d).keys.all (·.slot ≠ k)

/-- A creation may succeed (R342). -/
def State.creates (s : State) (w : List Word) : Bool :=
  let w1 := w.getD 1 0
  let size := (w.getD 3 0).toNat
  let w8 := w.getD 8 0
  let w9 := w.getD 9 0
  (find (pctx w) s.ctxs).isNone && decide (s.parts.length < 64) && decide (1 ≤ size) &&
    decide (size ≤ s.freeForPartition.length) && decide (w1.toNat < 2 ^ 40) && (s.phys (w1.toNat / 4096 * 4096)).isSome &&
    decide (fieldNat w8 57 6 = 0) && decide (fieldNat w8 0 3 = 0) && decide (fieldNat w9 25 38 = 0) &&
    decide (fieldNat w9 10 6 = 0) && (!(w.getD 4 0).getLsbD 0 || s.freeKey.isSome)

/-- Remap entries of a new partition: logical number by place in firmware's list; a quarantined core reads so (R50, R406). -/
def State.newRemap (s : State) : Nat → List Nat → AMap Remap
  | _, [] => []
  | l, p :: r => (l, { valid := true, state := if (s.core p).health.qc then 2 else 0, pcid := p }) :: s.newRemap (l + 1) r

/-- The fingerprint of a fresh key pair: the key is random, so a free value. -/
def State.freeHash (s : State) : BitVec 256 :=
  Config.freeWord s.fresh ++ Config.freeWord (s.fresh + 1) ++ Config.freeWord (s.fresh + 2) ++ Config.freeWord (s.fresh + 3)

/-- A key pair goes into slot `k` of every die (R385). -/
def State.loadKeys (s : State) (ctx k : Nat) : State :=
  let fp := s.freeHash
  { (List.range s.dieCount).foldl (fun x d =>
      x.modDie d fun y => { y with keys := y.keys ++ [{ slot := k, ctx := ctx, fp := fp, key := s.nextId }] }) s with
    fresh := s.fresh + 4, nextId := s.nextId + 1 }

/-- CORE_PTBR of a device context's core. -/
def ptbrWord (c : DevCtx) : Word := word64 (fieldNat c.root 12 36 * 4096 + c.part % 64)

/-- The device context and its partition are created, and every core of it has its root register (R93, R341, R342, R363). -/
def State.create (s : State) (w : List Word) (part : Nat) (pcids : List Nat) : State :=
  let ctx := pctx w
  let prot := (w.getD 4 0).getLsbD 0
  let slot := if prot then s.freeKey else none
  let c : DevCtx :=
    { part := part, root := word64 (fieldNat (w.getD 1 0) 12 36 * 4096), save := w.getD 2 0, prot := prot,
      dbg := (w.getD 4 0).getLsbD 1, tvec := w.getD 8 0, twin := w.getD 9 0, fbword := w.getD 10 0, slot := slot, measure := 0,
      paired := false, rollback := false }
  let pt : Partition :=
    { ctx := ctx, size := pcids.length, remap := s.newRemap 0 pcids, lent := [], armed := none, stopped := false, saved := [],
      savedRes := [], slots := [], held := [], stopTick := 0 }
  let s1 := match slot with
    | some k => s.loadKeys ctx k
    | none => s
  let s2 := pcids.foldl (fun x p => x.modCore p fun y => { y with sup := { y.sup with ptbr := ptbrWord c } }) s1
  { s2 with
    ctxs := put ctx c s1.ctxs
    parts := put part pt s1.parts
    enctx := s1.enctx.filter fun e => e.1 / 4 ≠ part }

/-- CONTEXT_CREATE: a creation, on the partition number and the cores that firmware chooses; one that may not succeed completes
with STATUS 5 (R342). -/
def execContextCreate (n part : Nat) (pcids : List Nat) (s : State) : Host.Outcome State Fault Refusal :=
  match s.inHand n 5 with
  | none => .fault .notEnabled
  | some w =>
    if !(w.getD 0 0).getLsbD 8 then .fault .notEnabled
    else if !s.creates w then .next (s.endPacket n w 5)
    else if 64 ≤ part ∨ (find part s.parts).isSome ∨ pcids.length ≠ (w.getD 3 0).toNat ∨ !decide pcids.Nodup ∨
        !pcids.all s.mayJoin then .fault .notEnabled
    else .next ((s.create w part pcids).endPacket n w 0)

/-- A device context is idle (R342); the packet that asks does not count. -/
def State.ctxIdle (s : State) (ctx n : Nat) : Bool :=
  (s.tracts.all fun t => t.2.ctx ≠ ctx) && (s.records.all fun r => r.ctx ≠ ctx) &&
  (s.queues.all fun q =>
    (q.1 = n || (match q.2.packet with
      | some w => pctx w ≠ ctx
      | none => true)) && (q.2.kind ≠ 1 || q.2.ctx ≠ ctx || q.2.head = q.2.tail)) &&
  (s.cores.all fun c => match c.2.migrate, c.2.place with
    | some _, some pl => pl.ctx ≠ ctx
    | _, _ => true) &&
  s.dies.all fun d => !((d.2.skimState = 1 ∨ d.2.skimState = 3) && d.2.skimCtx = ctx)

/-- The device context, its partition, its hardware groups and its keys are gone (R342). -/
def State.destroy (s : State) (ctx part : Nat) : State :=
  { s with
    ctxs := del ctx s.ctxs
    parts := del part s.parts
    clusters := s.clusters.map fun c => (c.1, { c.2 with tiles := c.2.tiles.filter fun t => t.ctx ≠ ctx })
    dies := s.dies.map fun d =>
      (d.1, { d.2 with hw := d.2.hw.filter fun g => g.part ≠ part, keys := d.2.keys.filter fun k => k.ctx ≠ ctx }) }

/-- CONTEXT_DESTROY: STATUS 0 for an idle device context, else 5 (R342). -/
def execContextDestroy (n : Nat) (s : State) : Host.Outcome State Fault Refusal :=
  match s.inHand n 5 with
  | none => .fault .notEnabled
  | some w =>
    if (w.getD 0 0).getLsbD 8 then .fault .notEnabled
    else
      match find (pctx w) s.ctxs with
      | none => .next (s.endPacket n w 5)
      | some c =>
        if s.ctxIdle (pctx w) n then .next ((s.destroy (pctx w) c.part).endPacket n w 0) else .next (s.endPacket n w 5)

/-! ## MIGRATE (R353, R354) -/

/-- MIGRATE: the request is accepted, and its record follows when it ends, or it is refused (R354); that of a core whose control strand has ended waits
for the end of its instance. `target` is firmware's choice
where the packet leaves it. -/
def execMigrate (n target : Nat) (s : State) : Host.Outcome State Fault Refusal :=
  match s.inHand n 6 with
  | none => .fault .notEnabled
  | some w =>
    match find (pctx w) s.ctxs with
    | none => .next (s.endPacket n w 5)
    | some c =>
      let e := s.remapAt c.part (w.getD 1 0).toNat
      let p := e.pcid
      let own := match (s.core p).place with
        | some pl => decide (pl.part = c.part)
        | none => false
      let t := (w.getD 2 0).toNat
      let r := { packetRecord n w 0 2 0 s.now with ctx := pctx w }
      if !e.valid ∨ e.state ≠ 0 ∨ !own ∨ (s.core p).migrate.isSome then .next (s.endPacket n w 5)
      else if t = 0xFFFF then
        match s.pickTarget p with
        | none => .next ((s.migDrop p).endPacket n w 5)
        | some _ =>
          if s.okTarget p target then
            .next ((s.request p { target := target, named := false, record := some r }).dropPacket n)
          else .fault .notEnabled
      else if !s.okTarget p t then .next (s.endPacket n w 5)
      else .next ((s.request p { target := t, named := true, record := some r }).dropPacket n)

/-! ## The completion window (R47, R345, R405) -/

/-- A record of a tract: its ring, its queue, its tag. -/
def Tract.record (t : Tract) (id index status kind tick unit nfail : Nat) : Record :=
  { queue := t.queue, ctx := t.ctx, tract := some id, teardown := false, retry := false, cring := t.cring, clog := t.clog,
    cons := t.cons, tag := t.tag, index := index, status := status, kind := kind, tick := tick, unit := unit, nfail := nfail,
    irq := if t.irq then some t.vec else none }

/-- The final record: the lowest failed instance's status, and every index that did not end with status 0 when the tract was
killed (R345, R405). -/
def Tract.final (t : Tract) (id tick : Nat) : Record :=
  match t.killed with
  | some (st, unit) =>
    t.record id t.n (if t.failStatus = 0 then st else t.failStatus) 1 tick unit (t.n - (t.lowest - t.nfail))
  | none => t.record id t.n t.failStatus 1 tick 0 t.nfail

/-- The count of failed instances takes a reported status. -/
def Tract.reported (t : Tract) (status : Nat) : Tract :=
  if status = 0 then t
  else { t with nfail := t.nfail + 1, failStatus := if t.failStatus = 0 then status else t.failStatus }

/-- The next record of a tract, when one is due and none waits to be written: index L, or the final one. An index of a killed tract
below the highest placed one that was never placed is reported with the kill's status (log entry 36). -/
def State.pump (s : State) (id : Nat) : State :=
  match find id s.tracts with
  | none => s
  | some t =>
    if s.records.any fun r => r.tract = some id then s
    else
      let emit (st unit tick : Nat) : State :=
        { s.modTract id (fun x => x.reported st) with records := s.records ++ [t.record id t.lowest st 0 tick unit 0] }
      match t.window.find? fun d => d.index = t.lowest with
      | some d => emit d.status d.unit d.tick
      | none =>
        (match t.killed with
        | some (st, _) =>
          if t.placedTop ≤ t.lowest then { s with records := s.records ++ [t.final id s.now] }
          else if s.insts.any fun i => i.2.tract = id && i.2.index = t.lowest then s
          else emit st 0 s.now
        | none => if t.lowest = t.n then { s with records := s.records ++ [t.final id s.now] } else s)

/-! ## TEARDOWN (R341, R388, R466) -/

/-- Every tract of a device context ends with status 4, its commands are discarded. -/
def State.tearDown (s : State) (ctx : Nat) : State :=
  let ts := (s.tracts.filter fun t => t.2.ctx = ctx).map (·.1)
  ts.foldl (fun x t => (x.killTract t 4 0 0).pump t) s

/-- The physical address of a completion ring, which is written, or of CONS, which is read (R464). -/
def State.recordLoc (s : State) (q : PQueue) (a : Word) (wr : Bool) : Word :=
  match s.queueLoc q a wr with
  | some x => word64 x.loc
  | none => a

/-- The routine's core of a die: row 0 of its first plumb column (R464). -/
def State.routineCore (s : State) (d : Nat) : Nat := 2048 * d + 32 * s.plumbFirst d

/-- The note of a die's routine core (R464). -/
def State.noteAt (s : State) (d : Nat) : Nat := tcmBase (s.routineCore d) + 0x100

/-- The job descriptor that firmware writes for a die, with what it lists: the TCM of each core that the device context holds there,
its palette slots, and as many records as firmware needs for its other memory, which are free values (R388, R464; log entry 77). -/
def State.jobWords (s : State) (ctx d : Nat) : List Word × State :=
  let part := (find ctx s.ctxs).map (·.part)
  let cores : List Nat := match s.parts.find? fun x => part = some x.1 with
    | some x => (x.2.remap.filter fun e => e.2.valid && decide (dieOf e.2.pcid = d)).map (·.2.pcid)
    | none => []
  let tcm := cores.flatMap fun p => [word64 (fieldAt p 32 13), word64 (2 ^ 17)]
  let pal := (s.clusters.filter fun c => c.1 / 256 = d).flatMap fun c => (c.2.tiles.filter fun t => t.ctx = ctx).flatMap fun t =>
    [word64 (2 * 2 ^ 60 + fieldAt c.1 32 13 + t.first * 4096), word64 (t.count * 4096)]
  let n := s.freeWord.toNat % 1024
  let other := (List.range (2 * n)).map fun i => Config.freeWord (s.fresh + 1 + i)
  let job := word64 (fieldAt ctx 48 16 + fieldAt (cores.length + pal.length / 2 + n) 0 16) :: 0 :: 0 :: 0 :: (tcm ++ pal ++ other)
  (if cores.isEmpty ∧ pal.isEmpty ∧ n = 0 then [] else job, { s with fresh := s.fresh + 1 + 2 * n })

/-- The core of a die that runs the teardown's routine gets the packet, with the addresses of words 5 and 7 physical, the note and
the job, and the routine is to be entered with `s9` = 0 (R464). -/
def State.prepare (s : State) (ctx : Nat) (w : List Word) (x : State) (d : Nat) : State :=
  let base := tcmBase (s.routineCore d)
  let (job, x1) := x.jobWords ctx d
  let mask := ofBitsSet (((s.die d).keys.filter fun k => k.ctx = ctx).map (·.slot))
  let note : List Word := [1, word64 mask, if job.isEmpty then 0 else word64 (aperture + 0x200), 0]
  let put (y : State) (off : Nat) (l : List Word) : State :=
    y.writeMem 8192 (base + off) (l.flatMap fun v => natBytes 8 v.toNat) true none
  let x2 := (put (put x1 0 w) 0x100 note).modDie d fun y => { y with enter := some 0 }
  if job.isEmpty then x2 else put x2 0x200 job

/-- TEARDOWN: the tracts end, firmware prepares its routine on every die; it writes the record once the keys are gone and the scrub is done (R388, R466). -/
def execTeardown (n : Nat) (s : State) : Host.Outcome State Fault Refusal :=
  match s.inHand n 7 with
  | none => .fault .notEnabled
  | some w =>
    let q := s.queue n
    let w1 := (w.set 5 (s.recordLoc q (w.getD 5 0) true)).set 7 (s.recordLoc q (w.getD 7 0) false)
    let r := { packetRecord n w 0 2 0 s.now with teardown := true, cring := s.recordLoc q (w.getD 5 0) true }
    let s1 := (List.range s.dieCount).foldl (s.prepare (pctx w) w1) (s.tearDown (pctx w))
    .next ({ s1 with records := s1.records ++ [r] }.dropPacket n)

end Sys2Proof.Machine
end

