-- ==== Sys2Proof/Machine/Serve.lean ====
section
/-! DEFINITION. Where an instance may be placed, which queue is served first, and the fetch of a packet (R27, R30, R32, R339, R341, R346, R388, R406,
R409, R444, R451). -/

namespace Sys2Proof.Machine

/-! ## Which index (R47, R347) -/

/-- Take the lowest unplaced index of a die's range. -/
def takeIndex (d : Nat) : List (Nat × Nat × Nat) → Option (Nat × List (Nat × Nat × Nat))
  | [] => none
  | (e, a, b) :: r =>
    if e = d ∧ a < b then some (a, (e, a + 1, b) :: r)
    else (takeIndex d r).map fun x => (x.1, (e, a, b) :: x.2)

/-- The range with the most unplaced indices, the lowest die in a tie. -/
def largest : List (Nat × Nat × Nat) → Option (Nat × Nat × Nat)
  | [] => none
  | x :: r => match largest r with
    | none => some x
    | some y => if x.2.2 - x.2.1 < y.2.2 - y.2.1 ∨ (x.2.2 - x.2.1 = y.2.2 - y.2.1 ∧ y.1 < x.1) then some y else some x

/-- A die whose range is empty takes the upper half of the largest one; none is taken when every range holds less than two. -/
def steal (d : Nat) (l : List (Nat × Nat × Nat)) : List (Nat × Nat × Nat) :=
  match largest l with
  | none => l
  | some (e, a, b) =>
    let h := (b - a) / 2
    if b - a < 2 then l
    else (l.filter fun x => x.1 ≠ d).map (fun x => if x = (e, a, b) then (e, a, b - h) else x) ++ [(d, b - h, b)]

/-- The index that an instance whose home die is `d` gets, and the ranges after it. -/
def Tract.pick (t : Tract) (d : Nat) : Option (Nat × List (Nat × Nat × Nat)) :=
  match takeIndex d t.ranges with
  | some x => some x
  | none => takeIndex d (steal d t.ranges)

/-! ## Where an instance may be placed (R27, R30, R32, R346, R388, R406, R409, R451) -/

/-- A gang of `g` cores can be formed of the cores at consecutive logical numbers from `l` (R27). -/
def Partition.gangAt (pt : Partition) (g l : Nat) : Bool :=
  let q (i : Nat) : Nat := (look Remap.none (l + i) pt.remap).pcid
  q 0 % g = 0 && (List.range g).all fun i => q i = q 0 + i

/-- Every declared gang of an instance at a base. -/
def Partition.gangsAt (pt : Partition) (g p base : Nat) : Bool :=
  g ≤ 1 || (List.range (p / g)).all fun j => pt.gangAt g (base + j * g)

/-- Firmware may place work on the core, whatever runs there. -/
def State.fit (s : State) (p : Nat) : Bool :=
  s.userCore p && !s.barred p

/-- The core is free. -/
def State.freeCore (s : State) (p : Nat) : Bool := s.fit p && (s.core p).place.isNone

/-- The core is free, or would be without the instances of some partitions. -/
def State.freeWithout (s : State) (gone : List Nat) (p : Nat) : Bool :=
  s.fit p && match (s.core p).place with
    | none => true
    | some pl => gone.contains pl.part

/-- A barrier group as it is placed. -/
def newGroup (members : List Nat) : Group :=
  { members := members, arr := [], arrBy := [], done := [], phase := 0, bound := !members.isEmpty, release := [], gone := none, config := none }

/-- The instance of a tract at a base, with an index (R31, R34). -/
def newInst (id : Nat) (t : Tract) (part base index now : Nat) : Instance :=
  { tract := id, index := index, part := part, base := base, p := t.p, g0 := newGroup (List.range t.p),
    g1 := newGroup (t.masks.getD 0 []), g2 := newGroup (t.masks.getD 1 []), g3 := newGroup (t.masks.getD 2 []), x := none,
    enter := none, ended := [], status := none, unit := 0, dbg := if t.dstop then .stopped else .running, datums := [],
    dgroups := [], placedAt := now }

/-- Hardware groups that an instance needs of a die (R32). -/
def State.hwNeed (s : State) (i : Instance) (d : Nat) : Nat :=
  if i.p < 2 then 0
  else ((List.range 4).filter fun g => (i.group g).bound && (s.diesOf i (i.group g).members).contains d).length

/-- Free hardware groups of a die, with the listed partitions' groups taken as free. -/
def State.hwFree (s : State) (d : Nat) (gone : List Nat) : Nat := 16 - ((s.die d).hw.filter fun g => !gone.contains g.part).length

/-- The instance's cores at its base are its partition's and free, its gangs form, its hardware groups are free; cores and groups
of the partitions in `gone` count as free. After a reset the teardowns' routines are entered before a core is released (R464). -/
def State.fitsWith (s : State) (gone : List Nat) (t : Tract) (pt : Partition) (i : Instance) : Bool :=
  !pt.stopped && pt.armed.isNone && decide (i.base + t.p ≤ pt.size) && (s.dies.all fun d => d.2.enter ≠ some 1) &&
  ((List.range t.p).all fun r =>
    let e := look Remap.none (i.base + r) pt.remap
    e.valid && decide (e.state = 0) && s.freeWithout gone e.pcid) &&
  pt.gangsAt t.gang t.p i.base && (List.range 4).all fun d => decide (s.hwNeed i d ≤ s.hwFree d gone)

/-- The partition of a tract. -/
def State.partOf (s : State) (t : Tract) : Option (Nat × Partition) :=
  match find t.ctx s.ctxs with
  | none => none
  | some c => (find c.part s.parts).map fun pt => (c.part, pt)

/-- A core of the partition, active or lent as a shadow. -/
def Partition.owns (pt : Partition) (q : Nat) : Bool :=
  (pt.remap.any fun e => e.2.valid && decide (e.2.state = 0) && decide (e.2.pcid = q)) || pt.lent.any fun e => decide (e.2 = q)

/-- Shadow clusters that may mirror a cluster's listed positions: the cores there are the partition's and free, those of the partitions in `gone` taken
as free (R346, R409). -/
def State.shadowsFor (s : State) (gone : List Nat) (pt : Partition) (clu : Nat) (pos prim used : List Nat) : List Nat :=
  (List.range 1024).filter fun k =>
    decide (2 ≤ gap (colOf (8 * k)) (colOf (8 * clu))) && !used.contains k &&
      pos.all fun j => s.freeWithout gone (8 * k + j) && pt.owns (8 * k + j) && !prim.contains (8 * k + j)

/-- A shadow cluster for each cluster of primaries: firmware's choice, by a free value. -/
def State.pickShadows (s : State) (gone : List Nat) (pt : Partition) (prim : List Nat) : Nat → List Nat → List (Nat × Nat) → Option (List (Nat × Nat))
  | _, [], acc => some acc
  | n, c :: r, acc =>
    let pos := (prim.filter fun p => cluOf p = c).map posOf
    let l := s.shadowsFor gone pt c pos prim (acc.map (·.2))
    match l with
    | [] => none
    | _ :: _ =>
      s.pickShadows gone pt prim (n + 1) r ((c, l.getD ((Config.freeWord (s.fresh + n)).toNat % l.length) 0) :: acc)

/-- The shadow clusters of a paired instance, if it finds them. -/
def State.shadowsOf (s : State) (gone : List Nat) (t : Tract) (pt : Partition) (i : Instance) : Option (List (Nat × Nat)) :=
  let prim := (List.range t.p).map (s.relCore i)
  s.pickShadows gone pt prim 0 ((prim.map cluOf).eraseDups) []

/-- The instance fits, with its shadows where it is paired: an instance needs 2P free cores then (R409). -/
def State.fitsWhole (s : State) (gone : List Nat) (t : Tract) (pt : Partition) (i : Instance) : Bool :=
  s.fitsWith gone t pt i && (!t.paired || (s.shadowsOf gone t pt i).isSome)

/-- The instance fits now. -/
def State.fits (s : State) (t : Tract) (pt : Partition) (i : Instance) : Bool := s.fitsWhole [] t pt i

/-- A tract of the queue still has an index to place, inside its window (R47). -/
def Tract.waits (t : Tract) : Bool :=
  t.killed.isNone && t.ranges.any fun r => decide (r.2.1 < r.2.2) && decide (r.2.1 < t.lowest + 256)

/-- Some base holds an instance of the tract now, with shadows where it is paired, and the index that it would get lies in the window (R47, R346,
R409). -/
def State.placeable (s : State) (id : Nat) (t : Tract) : Bool :=
  t.waits && (match s.partOf t with
    | none => false
    | some (part, pt) => (List.range pt.size).any fun b =>
      let i := newInst id t part b 0 s.now
      s.fits t pt i && (t.pick (dieOf (s.relCore i 0))).any fun x => decide (x.1 < t.lowest + 256))

/-! ## Which queue is served (R346) -/

/-- The queue has a packet to fetch or an instance to place at a level. -/
def State.hasWork (s : State) (n level : Nat) : Bool :=
  (decide ((s.queue n).prio = level) && s.fetchable n) ||
    s.tracts.any fun t => t.2.queue = n && t.2.prio = level && s.placeable t.1 t.2

/-- Queue `m` goes before queue `n` at one level: the greater age, then the lower number. -/
def State.before (s : State) (m n : Nat) : Bool :=
  let a := (s.queue m).age
  let b := (s.queue n).age
  decide (b < a) || (decide (a = b) && decide (m < n))

/-- No queue of the same front end goes before this one for a fetch. -/
def State.served (s : State) (n : Nat) : Bool :=
  let q := s.queue n
  s.fetchable n && s.queues.all fun m =>
    m.1 = n || m.2.die ≠ q.die || !s.fetchable m.1 || decide (m.2.prio < q.prio) || (decide (m.2.prio = q.prio) && !s.before m.1 n)

/-- No tract goes before this one: none of a higher level that could be placed, none of its level whose queue is served first
(R346). -/
def State.turn (s : State) (id : Nat) (t : Tract) : Bool :=
  s.tracts.all fun u =>
    u.1 = id || decide (u.2.prio < t.prio) || (decide (u.2.prio = t.prio) && !(s.before u.2.queue t.queue)) || !s.placeable u.1 u.2

/-- Service of a queue at a level: its age starts again, that of the others with work of the level rises (R346). -/
def State.serve (s : State) (n level : Nat) : State :=
  { s with queues := s.queues.map fun m =>
      (m.1, if m.1 = n then { m.2 with age := 0 }
        else if s.hasWork m.1 level then { m.2 with age := m.2.age + 1 }
        else m.2) }

/-! ## PACKET_FETCH (R339, R341, R444) -/

/-- Address of the queue's packet at HEAD (R337). -/
def PQueue.slot (q : PQueue) : Word := word64 (q.base * 4096 + 128 * (q.head % 2 ^ q.logsz))

/-- PACKET_FETCH: the served queue's next packet is copied, HEAD rises; a refused packet writes its record, a fetch that
faults parks its queue, one over the host link waits while the link is down (R339, R341, R444). -/
def execPacketFetch (n : Nat) (s : State) : Host.Outcome State Fault Refusal :=
  let q := s.queue n
  if !s.served n ∨ !s.answers then .fault .notEnabled
  else
    match s.queueLoc q q.slot false with
    | none => .next (s.modQueue n (·.park))
    | some x =>
      if x.host ∧ !s.hostUp then
        (if q.fetchAt.isSome then .fault .notEnabled else .next (s.modQueue n fun q => { q with fetchAt := some s.now }))
      else
        let w := (List.range 16).map fun i => s.loadWord (x.loc + 8 * i)
        let s1 := (s.serve n q.prio).modQueue n fun q =>
          { q with head := (q.head + 1) % 2 ^ 16, fetchAt := none, packet := some w, owed := q.owed + 1 }
        .next (if s.accepts q w then s1 else s1.endPacket n w 5)

/-- A fetch of the queue has waited for the host link for 50 µs (R444, R448). -/
def State.fetchLate (s : State) (n : Nat) : Bool := (s.queue n).fetchAt.any fun t => !s.hostUp && decide (t + hostLimit ≤ s.now)

/-- QUEUE_FETCH_TIMEOUT: a fetch over the host link that completes with an error, or that gets no completion within 50 µs, parks its queue (R444, R448).
With the link up, that the read errs is the outside's choice (log entry 88). -/
def execQueueFetchTimeout (n : Nat) (s : State) : Host.Outcome State Fault Refusal :=
  let q := s.queue n
  match s.queueLoc q q.slot false with
  | some x => if s.served n ∧ s.answers ∧ x.host ∧ (s.hostUp ∨ s.fetchLate n) then .next (s.modQueue n (·.park)) else .fault .notEnabled
  | none => .fault .notEnabled

/-- A fetch that has waited for 50 µs fails in that tick (R444). -/
def queueFetchOwed (n : Nat) (s : State) : Host.Outcome State Fault Refusal :=
  if s.fetchLate n then execQueueFetchTimeout n s else .fault .notEnabled

end Sys2Proof.Machine
end

