-- ==== Sys2Proof/Machine/Launch.lean ====
section
/-! DEFINITION. LAUNCH, the placement of instances, their completion, completion records and refills (R26 to R32, R46 to R48, R343 to
R347, R369, R405, R409, R430, R446, R461). -/

namespace Sys2Proof.Machine

/-! ## LAUNCH (R343, R347) -/

/-- Words at a program address of a device context, or none where one cannot be read; also whether host memory is among them. -/
def State.feRead (s : State) (ctx : Nat) (a : Word) (n : Nat) : Option (List Word × Bool) :=
  match s.feWords ctx a n false with
  | none => none
  | some l => some (l.map fun x => s.loadWord x.loc, l.any (·.host))

/-- The bytes of words. -/
def bytesOf (l : List Word) : List Byte := l.flatMap fun w => natBytes 8 w.toNat

/-- A placement record: source, length, and aperture value; none where it is refused (R343). -/
def placeRecord (w0 w1 : Word) : Option (Word × Nat × Nat) :=
  let len := fieldNat w1 40 24
  let a := fieldNat w1 0 40
  let off := a % 2 ^ 24
  let kind := a / 2 ^ 37
  let size := if kind = 0 then 2 ^ 17 else 2 ^ 20
  if len % 8 ≠ 0 ∨ w0.toNat % 8 ≠ 0 ∨ off % 8 ≠ 0 ∨ 1 < kind ∨ a / 2 ^ 24 % 8192 ≠ 0 ∨ size < off + len ∨ inAperture w0 then none
  else some (w0, len, a)

/-- Every placement record with its data, read once; the flag says that host memory was read. -/
def State.placeData (s : State) (ctx : Nat) : List Word → Option (List (Nat × List Byte) × Bool)
  | w0 :: w1 :: r =>
    match placeRecord w0 w1, s.placeData ctx r with
    | some (src, len, a), some (l, h) =>
      (match s.feRead ctx src (len / 8) with
      | some (ws, h') => some ((a, bytesOf ws) :: l, h || h')
      | none => none)
    | _, _ => none
  | _ => some ([], false)

/-- The clusters of a die all of whose cores are the partition's and free (R347). -/
def State.freeClusters (s : State) (pt : Partition) (d : Nat) : Nat :=
  let cores := (pt.remap.filter fun e => e.2.valid && e.2.state = 0 && (s.core e.2.pcid).place.isNone).map (·.2.pcid)
  ((List.range 256).filter fun c => (List.range 8).all fun j => cores.contains (8 * (256 * d + c) + j)).length

/-- The static shares of the dies: contiguous ranges in die order, the last with a free cluster takes the remainder (R347). With no
free cluster at all the die of logical core 0 takes every index (log entry 37). -/
def shares (n : Nat) (f : List Nat) (home : Nat) : List (Nat × Nat × Nat) :=
  let total := f.foldl (· + ·) 0
  if total = 0 then [(home, 0, n)]
  else
    let ds := (List.range f.length).filter fun d => f.getD d 0 ≠ 0
    let size (d : Nat) : Nat := n * f.getD d 0 / total
    let first (d : Nat) : Nat := ((ds.filter (· < d)).map size).foldl (· + ·) 0
    ds.map fun d => (d, first d, if ds.all (· ≤ d) then n else first d + size d)

/-- A LAUNCH is refused by its words and by what it names (R343). -/
def launchBad (w : List Word) (c : DevCtx) (pt : Partition) : Bool :=
  let f (i lo n : Nat) : Nat := fieldNat (w.getD i 0) lo n
  let a (i : Nat) : Word := w.getD i 0
  let p := f 1 32 13
  let g := 2 ^ f 1 45 2
  let len := f 3 0 32
  let clog := f 6 0 4
  let cores := if f 0 8 1 = 1 then 2 * p else p
  decide (p = 0) || decide (pt.size < cores) || decide (p % g ≠ 0) ||
  !((List.range (pt.size + 1 - p)).any fun b => pt.gangsAt g p b) ||
  decide ((a 2).toNat % 4096 ≠ 0) || decide ((a 4).toNat % 8 ≠ 0) || decide (clog < 4) ||
  decide ((a 5).toNat % (32 * 2 ^ clog) ≠ 0) || decide ((a 7).toNat % 8 ≠ 0) || decide ((a 8).toNat % 8 ≠ 0) ||
  decide ((a 9).toNat % 8 ≠ 0) || (decide (f 0 10 1 = 1) && !c.dbg) || decide (f 1 0 32 = 0) || decide (len = 0) ||
  decide (2 ^ 22 < len) || decide (len % 8 ≠ 0) || decide (len / 8 ≤ f 3 32 32) || inAperture (a 2) || inAperture (a 8) ||
  inAperture (a 9) || decide (a 13 ≠ 0) || decide (a 14 ≠ 0) || decide (a 15 ≠ 0)

/-- The member masks of groups 1 to 3 as lists. -/
def maskLists (p : Nat) (ws : List Word) : List (List Nat) :=
  let k := (p + 63) / 64
  (List.range 3).map fun g => (List.range p).filter fun r => (ws.getD (g * k + r / 64) 0).getLsbD (r % 64)

/-- The tract of an accepted LAUNCH. -/
def launchTract (n : Nat) (q : PQueue) (w : List Word) (image mws : List Word) (data : List (Nat × List Byte))
    (ranges : List (Nat × Nat × Nat)) : Tract :=
  let f (i lo k : Nat) : Nat := fieldNat (w.getD i 0) lo k
  { ctx := pctx w, queue := n, prio := min (f 0 16 5) q.prio, paired := f 0 8 1 = 1, rollback := f 0 9 1 = 1,
    dstop := f 0 10 1 = 1, n := f 1 0 32, p := f 1 32 13, gang := 2 ^ f 1 45 2, code := w.getD 2 0, image := image,
    entry := f 3 32 32, plantab := w.getD 4 0, cring := w.getD 5 0, clog := f 6 0 4, irq := f 6 31 1 = 1, vec := f 6 16 11,
    cons := w.getD 7 0, masks := maskLists (f 1 32 13) mws, data := data, tag := w.getD 11 0, arg := w.getD 12 0,
    ranges := ranges, lowest := 0, window := [], nfail := 0, failStatus := 0, killed := none, killer := none, lostWords := [], placedTop := 0 }

/-- H after a LAUNCH (R387). -/
def measured (h : BitVec 256) (image : List Byte) : BitVec 256 :=
  BitVec.ofNat 256 (leNat (Sha.digest (natBytes 32 h.toNat ++ Sha.digest image)))

/-- The words that a LAUNCH names: code image, masks, placement data; none where one cannot be read. -/
def State.launchReads (s : State) (w : List Word) : Option (List Word × List Word × List (Nat × List Byte) × Bool) :=
  let ctx := pctx w
  let p := fieldNat (w.getD 1 0) 32 13
  let len := fieldNat (w.getD 3 0) 0 32
  let gm := w.getD 8 0
  let pl := w.getD 9 0
  match s.feRead ctx (w.getD 2 0) (len / 8),
      (if gm = 0 then some ([], false) else s.feRead ctx gm (3 * ((p + 63) / 64))),
      (if pl = 0 then some ([], false) else s.feRead ctx pl (2 * fieldNat (w.getD 10 0) 0 16)) with
  | some (image, h1), some (mws, h2), some (recs, h3) =>
    (match s.placeData ctx recs with
    | some (data, h4) => some (image, mws, data, h1 || h2 || h3 || h4)
    | none => none)
  | _, _, _ => none

/-- LAUNCH: the packet is checked, its masks, placement data and code image are read once, and the tract waits to be placed, or
it is refused with a final record of STATUS 5 (R343). An unreadable code image is refused too (log entry 35). -/
def execLaunch (n : Nat) (s : State) : Host.Outcome State Fault Refusal :=
  match s.inHand n 1 with
  | none => .fault .notEnabled
  | some w =>
    match find (pctx w) s.ctxs with
    | none => .next (s.endPacket n w 5)
    | some c =>
      match find c.part s.parts with
      | none => .next (s.endPacket n w 5)
      | some pt =>
        if launchBad w c pt then .next (s.endPacket n w 5)
        else
          match s.launchReads w with
          | none => .next (s.endPacket n w 5)
          | some (image, mws, data, host) =>
            if host ∧ !s.hostUp then .fault .notEnabled
            else
              let f := (List.range s.dieCount).map fun d => s.freeClusters pt d
              let home := dieOf (look Remap.none 0 pt.remap).pcid
              let t := launchTract n (s.queue n) w image mws data (shares (fieldNat (w.getD 1 0) 0 32) f home)
              let s1 := { s with tracts := put s.nextId t s.tracts, nextId := s.nextId + 1 }
              let s2 := s1.modCtx (pctx w) fun x => { x with
                measure := measured x.measure (bytesOf image), paired := x.paired || t.paired, rollback := x.rollback || t.rollback }
              .next (s2.dropPacket n)

/-! ### The state of a placed core (R58, R154, R344, R369, R394, R430) -/

/-- The field-book control word that firmware installs on logical core `l` (R369, R371). -/
def placedFb (c : DevCtx) (l : Nat) : Word :=
  let w := c.fbword
  if w = 0 then 0 else installWord c.dbg 0 (w + word64 (l * 2 ^ (fieldNat w 8 4 + 13)))

/-- A core right after its core-state reset: what belongs to the physical core stays. -/
def Core.cleared (c : Core) : Core :=
  { Core.init with power := c.power, health := c.health, cycle := c.cycle, sup := { Sup.init with ptbr := c.sup.ptbr } }

/-- The first 4,096 words of a code image by address: what the instruction store holds (R1, R344). -/
def imageWords (code : Nat) (image : List Word) : AMap Word :=
  ((image.take 4096).zip (List.range 4096)).map fun x => (code + 8 * x.2, x.1)

/-- The core takes its place: registers, program, supervisor entry, field book. -/
def Core.placed (c : Core) (t : Tract) (x : DevCtx) (pl : Place) (now : Nat) : Core :=
  let fb := placedFb x pl.log
  let u := Sup.init
  { c.cleared with
    rows := if t.arg = 0 then [] else [(1, t.arg.zeroExtend 512)]
    strands := [(0, { Strand.idle with live := true, pc := t.code + word64 (8 * t.entry), wl := 256, el := 1024 })]
    sup := { u with ptbr := ptbrWord x, snage := x.tvec.getLsbD 63, tvec := word64 (fieldNat x.tvec 3 54 * 8),
                    twl := fieldNat x.twin 16 9, twb := fieldNat x.twin 0 10 }
    fb := { FBook.init with ctl := fb, last := now, since := now }
    istore := imageWords t.code.toNat t.image
    place := some pl
    stop := if t.dstop then some .debug else none
    stopSince := now }

/-- Placement data into a memory: bytes, words empty, errors cleared (R195, R416). -/
def State.placeBytes (s : State) (a : Nat) (bs : List Byte) : State :=
  (List.range (bs.length / 8)).foldl (fun x i => x.setFull (a + 8 * i) false) ((s.store a bs).cleanse a bs.length)

/-- The placement list on one core: its own TCM, and its cluster's scratchpad. -/
def State.placeLists (s : State) (p : Nat) (data : List (Nat × List Byte)) : State :=
  data.foldl (fun x d =>
    let off := d.1 % 2 ^ 24
    x.placeBytes ((if d.1 / 2 ^ 37 = 0 then tcmBase p else cspBase (cluOf p)) + off) d.2) s

/-- A core of the partition stands in the cluster. -/
def State.clusterHolds (s : State) (clu part : Nat) : Bool :=
  (List.range 8).any fun j => match (s.core (8 * clu + j)).place with
    | some q => q.part = part
    | none => false

/-- A partition is placed on the cluster: its frequency is 1.6 GHz, but not raised while a T2 trip acts (R357, R450). -/
def State.startFreq (s : State) (clu : Nat) : State :=
  let hot := (List.range 8).any fun j => (s.core (8 * clu + j)).power.t2act
  s.modCluster clu fun c => { c with freq := if hot then min c.freq 16 else 16 }

/-- One core of an instance is placed. -/
def State.placeCore (s : State) (t : Tract) (x : DevCtx) (p : Nat) (pl : Place) : State :=
  let s1 := if s.clusterHolds (cluOf p) pl.part then s else s.startFreq (cluOf p)
  (s1.modCore p fun c => c.placed t x pl s.now).placeLists p t.data

/-! ### Twins (R409) -/

/-- The shadow core of a primary. -/
def shadowOf (m : List (Nat × Nat)) (p : Nat) : Nat :=
  match m.find? fun e => e.1 = cluOf p with
  | some e => 8 * e.2 + posOf p
  | none => p

/-- Change every partition. -/
def State.mapParts (s : State) (f : Partition → Partition) : State := { s with parts := s.parts.map fun x => (x.1, f x.2) }

/-- Cores that become shadows leave the remap table (R409). -/
def Partition.lend (pt : Partition) (l : List Nat) : Partition :=
  let out := pt.remap.filter fun e => e.2.valid && l.contains e.2.pcid
  { pt with
    remap := pt.remap.map fun e => (e.1, if e.2.valid && l.contains e.2.pcid then { e.2 with valid := false } else e.2)
    lent := out.foldl (fun m e => put e.1 e.2.pcid m) pt.lent }

/-- They come back when their instance has ended, a quarantined one of `q` as such (R406). -/
def Partition.takeBack (pt : Partition) (l q : List Nat) : Partition :=
  let back := pt.lent.filter fun e => l.contains e.2
  { pt with
    remap := back.foldl (fun m e => put e.1 { valid := true, state := if q.contains e.2 then 2 else 0, pcid := e.2 } m) pt.remap
    lent := pt.lent.filter fun e => !l.contains e.2 }

/-! ### INSTANCE_PLACEMENT -/

/-- Every core of an instance is placed, with its twin where it has one. -/
def State.placeAll (s : State) (t : Tract) (x : DevCtx) (n : Nat) (i : Instance) (m : Option (List (Nat × Nat))) : State :=
  (List.range i.p).foldl (fun y r =>
    let p := s.relCore i r
    let pl : Place := { part := i.part, ctx := t.ctx, log := i.base + r, inst := n, rel := r, twin := 0, mate := p }
    match m with
    | none => y.placeCore t x p pl
    | some l =>
      let q := shadowOf l p
      (y.placeCore t x p { pl with twin := 1, mate := q }).placeCore t x q { pl with twin := 2, mate := p }) s

/-- The instance is placed whole (R30): groups, cores, data, and the datum of superstep 0 in rollback mode (R419). Its queue is served: those that had
work of the level before the cores were taken age (R346). -/
def State.place (s : State) (id : Nat) (t : Tract) (x : DevCtx) (i : Instance) (ranges : List (Nat × Nat × Nat))
    (m : Option (List (Nat × Nat))) : State :=
  let n := s.nextId
  let s0 := s.serve t.queue t.prio
  let s1 : State := { s0 with nextId := n + 1, insts := put n i s.insts }
  let s2 := s1.modTract id fun y => { y with ranges := ranges, placedTop := max y.placedTop (i.index + 1) }
  let s3 := match m with
    | none => s2
    | some l => s2.mapParts fun x => x.lend ((List.range i.p).map fun r => shadowOf l (s.relCore i r))
  let s4 := (s3.takeAllHw n i).placeAll t x n i m
  if t.rollback then s4.takeDatum n else s4

/-- The highest level of a partition's running instances. -/
def State.partLevel (s : State) (part : Nat) : Nat :=
  (s.insts.filter fun i => i.2.part = part).foldl (fun a i => max a (match find i.2.tract s.tracts with
    | some t => t.prio
    | none => 0)) 0

/-- The tick of a partition's most recent placement. -/
def State.partPlaced (s : State) (part : Nat) : Nat :=
  (s.insts.filter fun i => i.2.part = part).foldl (fun a i => max a i.2.placedAt) 0

/-- Partitions of strictly lower level that run: the lowest level first, the most recently placed first (R346). -/
def State.victims (s : State) (own prio : Nat) : List Nat :=
  let l := (s.parts.filter fun x => x.1 ≠ own && !x.2.stopped && (s.insts.any fun i => i.2.part = x.1) &&
    decide (s.partLevel x.1 < prio)).map (·.1)
  l.mergeSort fun a b => decide (s.partLevel a < s.partLevel b) ||
    (decide (s.partLevel a = s.partLevel b) && decide (s.partPlaced b ≤ s.partPlaced a))

/-- The shortest run of victims without which the instance fits. -/
def State.preempt (s : State) (t : Tract) (pt : Partition) (i : Instance) : List Nat → List Nat → Option (List Nat)
  | acc, [] => if s.fitsWhole acc t pt i then some acc else none
  | acc, v :: r => if s.fitsWhole acc t pt i then some acc else s.preempt t pt i (acc ++ [v]) r

/-- Firmware arms the switch of a victim, at the earliest tick that PSWITCH allows. -/
def State.armVictim (s : State) (v : Nat) : State :=
  s.modPart v fun x => if x.armed.isSome then x else { x with armed := some (s.now + 2000) }

/-- INSTANCE_PLACEMENT: the next index of a tract is placed at the base that firmware chooses; where the cores are held by
partitions of a strictly lower level, their switches are armed and nothing is placed yet (R346). A die that has run out of indices takes its range from
another one also where the window of R47 then holds the placement back (R347). -/
def execInstancePlacement (tract base : Nat) (s : State) : Host.Outcome State Fault Refusal :=
  match find tract s.tracts with
  | none => .fault .notEnabled
  | some t =>
    match s.partOf t, find t.ctx s.ctxs with
    | some (part, pt), some x =>
      let probe := newInst tract t part base 0 s.now
      if !t.waits ∨ !s.turn tract t ∨ !s.answers then .fault .notEnabled
      else if s.fits t pt probe then
        match t.pick (dieOf (s.relCore probe 0)) with
        | none => .fault .notEnabled
        | some (index, ranges) =>
          if t.lowest + 256 ≤ index then
            if (takeIndex (dieOf (s.relCore probe 0)) t.ranges).isSome then .fault .notEnabled
            else .next (s.modTract tract fun y => { y with ranges := steal (dieOf (s.relCore probe 0)) t.ranges })
          else
            let i := { probe with index := index }
            if t.paired then
              match s.shadowsOf [] t pt i with
              | none => .fault .notEnabled
              | some m => .next ({ s with fresh := s.fresh + m.length }.place tract t x i ranges (some m))
            else .next (s.place tract t x i ranges none)
      else if (List.range pt.size).any fun b => s.fits t pt (newInst tract t part b 0 s.now) then .fault .notEnabled
      else
        match s.preempt t pt probe [] (s.victims part t.prio) with
        | some (v :: r) =>
          if (v :: r).all fun y => match find y s.parts with
            | some z => z.armed.isSome
            | none => true
          then .fault .notEnabled
          else .next ((v :: r).foldl (fun y w => y.armVictim w) s)
        | _ => .fault .notEnabled
    | _, _ => .fault .notEnabled

/-! ## INSTANCE_COMPLETION (R26, R47, R48, R421, R436, R461) -/

/-- Every core of an instance has ended its part, or the instance was ended; and its commands, those of other cores that name its residencies (R461), its
snagged accesses and, at a normal end, its other accesses are over. -/
def State.instOver (s : State) (n : Nat) (i : Instance) : Bool :=
  let ps := s.instCores n
  let normal := i.status.isNone
  (!normal || ps.all fun p => (s.core p).ended) &&
  (ps.all fun p =>
    let c := s.core p
    (c.chains.all fun x => x.2.cmds.isEmpty) && c.sup.snags.isEmpty && (!normal || c.settled) &&
      (c.stop.isNone || (!normal && c.stop ≠ some .migrate))) &&
  (s.clusters.all fun c => c.2.residencies.all fun r => r.inst ≠ n || !s.resBusy (r.handle c.1)) &&
  (!normal || s.hostUp || ps.all fun p => (s.core p).exch.deferred.all fun d => !d.host) &&
  match find i.part s.parts with
  | some pt => !pt.stopped || !normal
  | none => true

/-- The completion status of an instance (R48). -/
def State.instStatus (s : State) (n : Nat) (i : Instance) : Nat :=
  let mine (c : Core) : Bool := c.helpersKilled && (c.place.map (·.inst)) = some n
  let killed := s.cores.any (fun c => mine c.2) || s.parts.any fun x => x.2.saved.any fun y => mine y.core
  match i.status with
  | none => if killed then 3 else 0
  | some 4 => if killed then 3 else 4
  | some x => x

/-- A core is released: its registers keep what they hold until the next placement resets them. -/
def Core.released (c : Core) : Core :=
  { c with
    strands := c.strands.map fun t => (t.1, t.2.finish t.1), locks := [], late := [], ops := [], chains := [], queue := [],
    gang := none, migrate := none, stop := none, place := none, twinVals := [], ended := false, helpersKilled := false,
    sup := { c.sup with sv := false, snags := [], reports := [], snagPend := 0, stopPend := [] }
    exch := { c.exch with state := .compute, todo := [], read := [], undo := [], deferred := [], got := [], planTrap := none, bad := false } }

/-- The claims of a core and the residencies of an instance end (R461). -/
def State.freeUnits (s : State) (n p : Nat) : State :=
  let s1 := s.modCluster (cluOf p) fun c => { c with tiles := c.tiles.filter fun t => t.owner ≠ p }
  ((s1.cluster (cluOf p)).residencies.filter fun r => r.inst = n).foldl (fun x r => x.revoke (cluOf p) r) s1

/-- One core of an ended instance: its deferred effects at a normal end, its claims, its release. -/
def State.releaseCore (s : State) (n p : Nat) (normal : Bool) : State :=
  let s1 := if normal then s.releaseAll p else s
  (((s1.freeUnits n p).endMigrate p 5).modCore p Core.settle).modCore p Core.released

/-- The images of an instance in its stopped partition are dropped. -/
def Partition.dropImages (x : Partition) (n : Nat) : Partition :=
  let mine (y : SavedCore) : Bool := (y.core.place.map (·.inst)) = some n
  { x with saved := x.saved.filter fun y => !mine y
           savedRes := x.savedRes.filter fun y => y.2.inst ≠ n
           held := x.held.filter fun c => !(x.saved.any fun y => mine y && y.pcid = c.primary) }

/-- The tile was a claim of an instance of a stopped partition. -/
def State.orphan (s : State) (n : Nat) (t : Tile) : Bool :=
  t.owner = noOwner && match find n s.insts with
    | some i => decide (i.base ≤ t.log) && decide (t.log < i.base + i.p) && (match find i.tract s.tracts with
      | some tr => tr.ctx = t.ctx
      | none => false)
    | none => false

/-- The residencies of an instance that wait in the image of its stopped partition end too: the generations of their units rise (R461). -/
def State.revokeSaved (s : State) (n part : Nat) : State :=
  match find part s.parts with
  | none => s
  | some pt => (pt.savedRes.filter fun y => y.2.inst = n).foldl (fun x y => x.modCluster y.1 fun c => c.raiseGen y.2.mask) s

/-- What still names an ended instance: groups, images, transfers, closures; its messages on their way no longer belong to a core. -/
def State.forget (s : State) (n part : Nat) (ps : List Nat) : State :=
  let bad := ps.filter fun p => (s.core p).health.qc
  let s1 := ((s.revokeSaved n part).mapParts fun x => x.takeBack ps bad).modPart part fun x => x.dropImages n
  { s1 with
    insts := del n s1.insts
    dies := s1.dies.map fun d => (d.1, { d.2 with hw := d.2.hw.filter fun g => g.inst ≠ n })
    messages := s1.messages.map fun m => if m.part = part ∧ ps.contains m.src then { m with src := 8192 } else m
    transfers := s1.transfers.filter fun t => t.inst ≠ n
    closures := s1.closures.filter fun c => !ps.contains c.primary
    clusters := s1.clusters.map fun c => (c.1, { c.2 with
      tiles := c.2.tiles.filter fun t => !s.orphan n t }) }

/-- INSTANCE_COMPLETION: an instance ends, its cores are released, its status enters the completion window (R47, R48). -/
def execInstanceCompletion (iid : Nat) (s : State) : Host.Outcome State Fault Refusal :=
  match find iid s.insts with
  | none => .fault .notEnabled
  | some i =>
    let ps := s.instCores iid
    if !s.instOver iid i ∨ ps.any s.fbDue then .fault .notEnabled
    else
      let st := s.instStatus iid i
      let d : Done := { index := i.index, status := st, unit := if st = 1 then i.unit else 0, tick := s.now }
      let s1 := ps.foldl (fun x p => x.releaseCore iid p i.status.isNone) s
      .next (((s1.forget iid i.part ps).modTract i.tract fun t => { t with window := t.window ++ [d] }).pump i.tract)

/-! ## COMPLETION_RECORD (R345, R446, R466) -/

/-- What tells completion rings apart: the address, in the host's space or in a user queue's device context. The number k of a ring's records goes on for
as long as the device is not reset, also when its context is created anew (R345; DESIGN CHOICE, log entry 86). -/
def State.ringKey (s : State) (r : Record) : Nat :=
  let q := s.queue r.queue
  (if q.kind = 1 then (q.ctx + 1) * 2 ^ 64 else 0) + r.cring.toNat

/-- The bytes of record `k` of a ring (R345). -/
def Record.bytes (r : Record) (k : Nat) : List Byte :=
  natBytes 8 r.tag.toNat ++
  natBytes 8 (fieldAt r.index 0 32 + fieldAt r.status 32 8 + fieldAt r.kind 40 4) ++
  natBytes 8 r.tick ++
  natBytes 8 (fieldAt r.nfail 0 32 + fieldAt r.unit 32 16 + flagAt (k / 2 ^ r.clog % 2 = 1) 63)

/-- A written record leaves the list; its interrupt is raised, and what it reported is over. -/
def State.recordDone (s : State) (r : Record) : State :=
  let s1 : State := { s with records := s.records.erase r }
  let s2 := match r.irq with
    | some v => s1.raiseMsix v
    | none => s1
  let s3 := match r.tract with
    | none => s2
    | some id =>
      if r.kind = 0 then
        (s2.modTract id fun t => { t with lowest := t.lowest + 1, window := t.window.filter fun d => d.index ≠ r.index }).pump id
      else { s2 with tracts := del id s2.tracts }
  if r.kind = 0 then s3 else s3.modQueue r.queue fun q => { q with owed := q.owed - 1 }

/-- The record's queue parks, and the record waits for its restart (R446). -/
def State.recordFault (s : State) (r : Record) : State :=
  { s.modQueue r.queue (fun q => if q.state = 0 then q else { q with state := 3 }) with
    records := s.records.map fun x => if x = r then { x with retry := true } else x }

/-- A teardown's keys are gone from every die, and the scrub job of each die that has one reads STATE 2 (R466). -/
def State.scrubbed (s : State) (ctx : Nat) : Bool :=
  (s.dies.all fun d => d.2.keys.all fun k => k.ctx ≠ ctx) && (List.range s.dieCount).all fun d =>
    s.loadNat (s.noteAt d + 16) 8 = 0 || ((s.die d).skimState = 2 && (s.die d).skimCtx = ctx)

/-- The words of die 0's DSR by which the other dies report to the routine (R464). -/
def reportWords : List Nat := [0x008005FFF008, 0x008005FFF010, 0x008005FFF018]

/-- The last steps of a teardown, after its record: the reports are cleared, and on every die the outcome is 0 and the note reads 2 (R466, R468, R469). -/
def State.finishTeardown (s : State) : State :=
  let s1 := reportWords.foldl (fun x a => match x.phys a with
    | some (_, l) => x.setFull l false
    | none => x) s
  (List.range s.dieCount).foldl (fun x d =>
    ((x.writeMem 8192 (s.noteAt d + 24) (natBytes 8 0) true none).writeMem 8192 (s.noteAt d) (natBytes 8 2) true none).modDie d
      fun y => { y with enter := none }) s1

/-- Firmware's record of a TEARDOWN, in slot 0 of its ring, written once the keys are gone and the scrub is done, while die 0's note reads 1 with outcome
0, and by no routine that still runs; then the teardown's last steps. A reset between the two has the record written again (R466, R468, R469). A routine
that has set the note to 2 has written the record itself. The event stands for the routine's last lines (DESIGN CHOICE, log entry 86). -/
def State.teardownRecord (s : State) (r : Record) : Host.Outcome State Fault Refusal :=
  let l := r.cring.toNat
  if s.loadNat (s.noteAt 0) 8 ≠ 1 then .next (s.recordDone r)
  else if s.loadNat (s.noteAt 0 + 24) 8 ≠ 0 ∨ (List.range s.dieCount).any (fun d => (s.strand (s.routineCore d) 0).live) ∨ !s.scrubbed r.ctx ∨
      (2 ^ 44 ≤ l ∧ !s.hostUp) then .fault .notEnabled
  else if r.retry then .next (s.finishTeardown.recordDone r)
  else .next { s.writeMem 8192 l ({ r with tick := s.now }.bytes 0) true none with
    records := s.records.map fun x => if x = r then { x with retry := true } else x }

/-- COMPLETION_RECORD: a record is written once its ring has room (R345). The records of one ring are written in order; a write that
faults parks the queue (R446). A teardown's record is firmware's, in slot 0 (R466). -/
def execCompletionRecord (k : Nat) (s : State) : Host.Outcome State Fault Refusal :=
  match s.records[k]? with
  | none => .fault .notEnabled
  | some r =>
    let q := s.queue r.queue
    let key := s.ringKey r
    if r.teardown then s.teardownRecord r
    else if (s.records.take k).any (fun x => !x.teardown && s.ringKey x = key) ∨ ((q.state = 3 ∨ q.state = 4) ∧ s.retries r.queue) then
      .fault .notEnabled
    else
      let n := look 0 key s.ringCount
      let a := r.cring + word64 (32 * (n % 2 ^ r.clog))
      match s.queueLoc q r.cons false, s.queueLoc q a true with
      | some c, some x =>
        if (c.host ∨ x.host) ∧ !s.hostUp then .fault .notEnabled
        else if 2 ^ r.clog ≤ n - s.loadNat c.loc 8 then .fault .notEnabled
        else
          let s1 := s.feStore x (r.bytes n)
          .next ({ s1 with ringCount := put key (n + 1) s1.ringCount }.recordDone r)
      | _, _ => .next (s.recordFault r)

/-! ## INSTRUCTION_REFILL (R344) -/

/-- The word of a core's program at an address, from its die's copy of the code image. -/
def State.imageWord (s : State) (p : Nat) (pc : Word) : Option Word :=
  match s.tractOf p with
  | none => none
  | some t =>
    let off := pc.toNat - t.code.toNat
    if pc.toNat < t.code.toNat ∨ off % 8 ≠ 0 then none else t.image[off / 8]?

/-- A full instruction store gives up a word; which one is not given. -/
def State.refill (s : State) (p : Nat) (pc w : Word) : State :=
  let c := s.core p
  if c.istore.length < 4096 then s.modCore p fun c => { c with istore := put pc.toNat w c.istore }
  else
    let i := s.freeWord.toNat % c.istore.length
    s.drawn.modCore p fun c => { c with istore := put pc.toNat w (c.istore.eraseIdx i) }

/-- The die's copy has lost the word at the strand's PC: its number in the image (R413, R417). -/
def State.lostWord (s : State) (p : Nat) (pc : Word) : Option Nat :=
  match s.tractOf p with
  | none => none
  | some t =>
    let i := (pc.toNat - t.code.toNat) / 8
    if t.code.toNat ≤ pc.toNat ∧ t.lostWords.contains i then some i else none

/-- INSTRUCTION_REFILL: a word that the instruction store does not hold comes from the die's copy (R344). A word that the copy has lost is consumed
instead (R417). -/
def execInstructionRefill (core strand : Nat) (s : State) : Host.Outcome State Fault Refusal :=
  let t := s.strand core strand
  if !t.live ∨ (find t.pc.toNat (s.core core).istore).isSome ∨ (s.lostWord core t.pc).isSome then .fault .notEnabled
  else
    match s.imageWord core t.pc with
    | some w => .next (s.refill core t.pc w)
    | none => .fault .notEnabled

end Sys2Proof.Machine
end

