-- ==== Sys2Proof/Machine/Switch.lean ====
section
/-! DEFINITION. Gang switches, the resume of a stopped partition, and asynchronous entries into supervisor code (R350 to R352, R398,
R427, R439). -/

namespace Sys2Proof.Machine

/-! ## GANG_SWITCH (R350) -/

/-- The cores that run a partition's instances. -/
def State.partCores (s : State) (part : Nat) : List Nat :=
  (s.cores.filter fun c => match c.2.place with
    | some pl => pl.part = part
    | none => false).map (·.1)

/-- Every core of the partition has stopped at T and its traffic is settled. -/
def State.partQuiet (s : State) (part : Nat) : Bool :=
  (s.partCores part).all (fun p => (s.core p).stop = some .gang && s.quietCore p && (s.core p).landed && (s.core p).stopSince ≠ s.now) &&
    s.transfers.all fun t => t.part ≠ part

/-- The image of a core (R350, step 6). -/
def State.imageOf (s : State) (p : Nat) (log : Nat) : SavedCore :=
  let inside (l : Nat) : Bool := decide (tcmBase p ≤ l) && decide (l < tcmBase p + 2 ^ 17)
  { log := log, pcid := p, core := (s.core p).settle, saved := s.now,
    tcm := (s.mem.filter fun e => inside e.1).map fun e => (e.1 - tcmBase p, e.2)
    full := (s.full.filter inside).map (· - tcmBase p)
    poison := (s.poison.filter inside).map (· - tcmBase p) }

/-- A core is saved and leaves its partition; the shadow of a pair has no slot of its own. -/
def State.saveCore (s : State) (part p : Nat) : State :=
  match (s.core p).place with
  | none => s
  | some pl =>
    let img := s.imageOf p pl.log
    let slot := if pl.twin = 2 then [] else [(pl.log, s.fresh)]
    let save := match find pl.ctx s.ctxs with
      | some c => c.save
      | none => 0
    let s1 := if pl.twin = 2 then s else s.writeSlot pl.ctx save pl.log
    (s1.modPart part fun x => { x with saved := x.saved ++ [img], slots := x.slots ++ slot }).modCore p Core.vacated

/-- Pre-emption of a residency: an unpinned one that is VALID becomes EVICTED (R321, R350). -/
def Residency.preempt (r : Residency) : Residency :=
  if !r.pinned ∧ r.state = .valid then { r with state := .evicted } else r

/-- The residencies of the partition go with it. -/
def State.saveResidencies (s : State) (part : Nat) : State :=
  let out := s.clusters.flatMap fun c => (c.2.residencies.filter fun r => r.part = part).map fun r => (c.1, Residency.preempt r)
  { s.modPart part (fun x => { x with savedRes := x.savedRes ++ out }) with
    clusters := s.clusters.map fun c => (c.1, { c.2 with residencies := c.2.residencies.filter fun r => r.part ≠ part }) }

/-- Palette tiles stay in place, held by a device context that is not running; hardware groups are free (R32, R314, R350). -/
def State.looseTiles (s : State) (part : Nat) (ps : List Nat) : State :=
  { s with
    clusters := s.clusters.map fun c =>
      (c.1, { c.2 with tiles := c.2.tiles.map fun t => if ps.contains t.owner then { t with owner := noOwner } else t })
    dies := s.dies.map fun d => (d.1, { d.2 with hw := d.2.hw.filter fun g => g.part ≠ part }) }

/-- What the closure routers hold of the partition's pairs is held until its resume. -/
def State.holdClosures (s : State) (part : Nat) (ps : List Nat) : State :=
  { s.modPart part (fun x => { x with held := x.held ++ s.closures.filter fun c => ps.contains c.primary }) with
    closures := s.closures.filter fun c => !ps.contains c.primary }

/-- An energy account of a device context takes a charge whose size the spec does not state (log entry 20). -/
def State.payFree (s : State) (part k : Nat) : State :=
  { s.drawn with enctx := put (4 * part + k) (look 0 (4 * part + k) s.enctx + s.freeWord.toNat) s.enctx }

/-- The partition is stopped and saved. -/
def State.savePart (s : State) (part t : Nat) : State :=
  let ps := s.partCores part
  let s1 := ((s.holdClosures part ps).looseTiles part ps).saveResidencies part
  let s2 := (ps.foldl (fun x p => x.saveCore part p) s1).payFree part 1
  s2.modPart part fun x => { x with stopped := true, armed := none, stopTick := t }

/-- GANG_SWITCH: at the armed tick every core of the partition stops; once what it has under way is settled, the partition is saved
and its cores are given up. -/
def execGangSwitch (part : Nat) (s : State) : Host.Outcome State Fault Refusal :=
  match find part s.parts with
  | none => .fault .notEnabled
  | some pt =>
    (match pt.armed with
    | none => .fault .notEnabled
    | some t =>
      let late := (s.partCores part).filter fun p => (s.core p).stop ≠ some .gang && (s.core p).stop ≠ some .migrate
      if pt.stopped ∨ s.now < t then .fault .notEnabled
      else if !late.isEmpty then .next (late.foldl (fun x p => x.stopCore p .gang) s)
      else if s.partQuiet part then .next (s.savePart part t)
      else .fault .notEnabled)

/-! ## PARTITION_RESUME (R351, R352) -/

/-- The slots of the image were not touched: version and check value match; with an inner word changed, whether the check value
still matches is a free value (R351). A word that cannot be reached at the resume counts as matching (DESIGN CHOICE, log entry 24). -/
def State.slotGood (s : State) (ctx : Nat) (save : Word) (log b : Nat) : Bool :=
  let same (i : Nat) : Bool := match s.reachCtx ctx (save + word64 (2 ^ 20 * log + 8 * i)) false with
    | .loc l _ _ => s.loadWord l = Config.freeWord (b + i)
    | _ => true
  same 0 && same (slotWords - 1) && ((List.range slotWords).all same || s.freeWord.getLsbD 0)

/-- Every slot of the partition's images matches. -/
def State.slotsGood (s : State) (pt : Partition) : Bool :=
  match find pt.ctx s.ctxs with
  | none => true
  | some c => pt.slots.all fun x => s.slotGood pt.ctx c.save x.1 x.2

/-- The image can go to another core: nothing ties it to its own cluster, to its twin or to its gang. -/
def State.movable (s : State) (pt : Partition) (i : SavedCore) : Bool :=
  let alone := match i.core.place with
    | some pl => pl.twin = 0 && (match find pl.inst s.insts with
      | some x => (match find x.tract s.tracts with
        | some t => decide (t.gang = 1)
        | none => false)
      | none => false)
    | none => false
  alone && i.core.gang.isNone && ((s.cluster (cluOf i.pcid)).tiles.all fun t => !(t.ctx = pt.ctx && t.log = i.log)) &&
    pt.savedRes.all fun r => r.1 ≠ cluOf i.pcid

/-- The cores to which firmware may restore an image: the one that the remap table names, or another free one (R351). -/
def State.homes (s : State) (pt : Partition) (i : SavedCore) : List Nat :=
  let twin := match i.core.place with
    | some pl => decide (pl.twin = 2)
    | none => false
  let q := if twin then i.pcid else (look Remap.none i.log pt.remap).pcid
  (if s.freeCore q then [q] else []) ++ (if s.movable pt i then (List.range 8192).filter s.usableTarget else [])

/-- The remap entry of a logical core names another core. -/
def Partition.rename (pt : Partition) (log q : Nat) : Partition :=
  { pt with remap := pt.remap.map fun e => if e.1 = log then (e.1, { e.2 with pcid := q }) else e }

/-- Every image that CTXLD has not loaded is loaded, at a core of firmware's choice; none where one has no core. -/
def State.restoreAll (s : State) (part : Nat) : List SavedCore → Option State
  | [] => some s
  | i :: r =>
    match find part s.parts with
    | none => none
    | some pt =>
      let l := s.homes pt i
      match l with
      | [] => none
      | _ :: _ =>
        let q := l.getD (s.freeWord.toNat % l.length) 0
        let s1 := (s.drawn.loadImage part q i).takeImage part i
        let twin := match i.core.place with
          | some pl => decide (pl.twin = 2)
          | none => false
        (if twin then s1 else s1.modPart part fun x => x.rename i.log q).restoreAll part r

/-- The tiles of the device context in a cluster are not held by another running one (R352). -/
def State.tilesBack (s : State) (ctx : Nat) : Bool :=
  s.clusters.all fun c => c.2.tiles.all fun t =>
    t.ctx ≠ ctx || t.owner ≠ noOwner || (List.range t.count).all fun i =>
      s.slotOpen c.1 (t.first + i) none

/-- Tiles are again their cores', where these are in the tiles' cluster. -/
def State.claimTiles (s : State) (pt : Partition) : State :=
  { s with clusters := s.clusters.map fun c =>
      (c.1, { c.2 with tiles := c.2.tiles.map fun t =>
        let q := (look Remap.none t.log pt.remap).pcid
        if t.ctx = pt.ctx ∧ t.owner = noOwner ∧ cluOf q = c.1 then { t with owner := q } else t }) }

/-- The plane units of a saved residency are free. -/
def State.unitsFree (s : State) (x : Nat × Residency) : Bool :=
  (s.cluster x.1).residencies.all fun r => r.mask &&& x.2.mask = 0

/-- The partition's residencies come back. -/
def State.putResidencies (s : State) (l : List (Nat × Residency)) : State :=
  l.foldl (fun x r => x.modCluster r.1 fun c => { c with residencies := c.residencies ++ [r.2] }) s

/-- The running instances of a partition. -/
def State.partInsts (s : State) (part : Nat) : List (Nat × Instance) :=
  s.insts.filter fun i => i.2.part = part && i.2.status.isNone

/-- Every die has hardware groups for the partition's instances (R32). -/
def State.hwEnough (s : State) (part : Nat) : Bool :=
  (List.range 4).all fun d => decide (((s.partInsts part).map fun i => s.hwNeed i.2 d).sum ≤ s.hwFree d [])

/-- An exchange in progress starts later by the length of the stop (R352). -/
def Instance.shift (i : Instance) (n : Nat) : Instance := { i with x := i.x.map (· + n), enter := i.enter.map (· + n) }

/-- A core goes on; one whose instance a debugger has stopped stays so. -/
def State.goOn (s : State) (p : Nat) : State :=
  match s.instOf p with
  | some (_, i) => if i.dbg = .stopped then s.modCore p fun c => { c with stop := some .debug } else s.startCore p
  | none => s.startCore p

/-- Every core of the partition resumes in this tick, and the partition is placed on its clusters (R351, R352, R357). -/
def State.resumeAll (s : State) (part : Nat) (pt : Partition) : State :=
  let is := s.partInsts part
  let s0 := (((s.partCores part).map cluOf).eraseDups).foldl State.startFreq s
  let s1 := is.foldl (fun x i => x.modInst i.1 fun j => j.shift (s.now - pt.stopTick)) s0
  let s2 := (is.foldl (fun x i => x.takeAllHw i.1 i.2) s1).putResidencies pt.savedRes
  let s3 := { s2 with closures := s2.closures ++ pt.held }
  let s4 := (s3.modPart part fun x =>
    { x with stopped := false, armed := none, saved := [], savedRes := [], slots := [], held := [] }).payFree part 2
  (s4.partCores part).foldl (fun x p => x.goOn p) (match find part s4.parts with
    | some x => s4.claimTiles x
    | none => s4)

/-- PARTITION_RESUME: at the armed tick of a stopped partition its images are loaded and every core goes on; an image that does not
match tears the device context down with status 4 (R351). The cores to which it is loaded must have hardware groups (R32). -/
def execPartitionResume (part : Nat) (s : State) : Host.Outcome State Fault Refusal :=
  match find part s.parts with
  | none => .fault .notEnabled
  | some pt =>
    (match pt.armed with
    | none => .fault .notEnabled
    | some t =>
      if !pt.stopped ∨ s.now < t ∨ !pt.savedRes.all s.unitsFree ∨ !s.tilesBack pt.ctx then
        .fault .notEnabled
      else if !s.slotsGood pt then .next ((s.drawn.tearDown pt.ctx).modPart part fun x => { x with armed := none })
      else
        match s.drawn.restoreAll part pt.saved with
        | none => .fault .notEnabled
        | some s1 => if s1.hwEnough part then .next (s1.resumeAll part pt) else .fault .notEnabled)

/-! ## ASYNC_TRAP_ENTRY (R427, R430, R434, R438) -/

/-- Words of the snag ring with PEND = 1. -/
def Sup.pending (u : Sup) : Nat := (u.snags.map (·.len)).sum

/-- The next asynchronous cause of a core, and the supervisor's state after it: 23 with the lowest helper first, 22, 21. -/
def Sup.nextAsync (u : Sup) : Option (Trap × Sup) :=
  match u.stopPend with
  | h :: r => some ({ cause := 23, code := h, info := 0 }, { u with stopPend := r })
  | [] =>
    if 0 < u.snagPend then some ({ cause := 22, code := 0, info := word64 u.pending }, { u with snagPend := u.snagPend - 1 })
    else match u.reports with
      | x :: r => some ({ cause := 21, code := x.code, info := x.info }, { u with reports := r })
      | [] => none

/-- The strand that raises an asynchronous cause: the stopped helper, or the control strand. -/
def Trap.raiser (t : Trap) : Nat := if t.cause = 23 then t.code else 0

/-- A core's control strand, and those of its gang, stand at a word boundary: outside a wait, and outside a FUSE whose window is open (log
entry 64). -/
def State.atWord (s : State) (p : Nat) : Bool :=
  (s.members p).all fun q =>
    let t := s.strand q 0
    t.wait.isNone && t.endedBy.isNone && t.fuse.isNone

/-- ASYNC_TRAP_ENTRY: at a word boundary of the control strand, outside supervisor code and outside a wait, the next asynchronous
cause enters supervisor code; a fused gang is dissolved, and every member enters (R427, R429). -/
def execAsyncTrapEntry (core : Nat) (s : State) : Host.Outcome State Fault Refusal :=
  let c := s.core core
  let t := c.strand 0
  if !t.live ∨ !s.atWord core ∨ c.sup.sv ∨ c.stop.isSome ∨ c.halt then .fault .notEnabled
  else
    match c.sup.nextAsync with
    | none => .fault .notEnabled
    | some (tr, u) =>
      let s1 := s.modCore core fun x => { x with sup := u }
      .next ((s.members core).foldl (fun x p =>
        (x.modCore p fun y => { y with gang := none }).enterSup p tr.raiser tr (x.strand p 0).pc (x.strand p 0).pc) s1)

end Sys2Proof.Machine
end

