-- ==== Sys2Proof/Machine/Heat.lean ====
section
/-! DEFINITION. Power tokens, frequency, ballast, heat and the field book's own events (R357 to R367, R397, R398, R450 to R452). -/

namespace Sys2Proof.Machine

/-! ## Token passing and frequency (R357, R360, R361) -/

/-- The physical cores of the part. -/
def State.allCores (s : State) : List Nat := (List.range 8192).filter s.isCore

/-- The mesh neighbours of a core, in the order west, east, north, south, without quarantined ones (R12, R360). -/
def State.neighbours (s : State) (p : Nat) : List Nat :=
  s.allCores.filter fun q => decide (gap (meshX p) (meshX q) + gap (meshY p) (meshY q) = 1) && !s.unfit q

/-- Step 1 of a passing, for one core: it offers its surplus in equal parts; the hawks of `s0` decide. -/
def State.offer (s0 : State) (x : State) (p : Nat) : State :=
  let w := (s0.core p).power
  let ns := s0.neighbours p
  let each := (w.tokens - w.reserve) / ns.length
  if each = 0 then x
  else
    ns.foldl (fun y q => y.modCore q fun c => { c with power := { c.power with offers := c.power.offers ++ [(p, each)] } })
      (x.modCore p fun c => { c with power := { c.power with tokens := c.power.tokens - each * ns.length } })

/-- Cores of a die (R360). -/
def dieCores : Nat := 1280

/-- Step 2: the plumb column of each die grants. -/
def State.grant (s : State) (p : Nat) : State :=
  s.modCore p fun c => { c with power := { c.power with transit := c.power.transit + (s.die (dieOf p)).tkbudget / dieCores } }

/-- The frequency of a cluster after a microsecond boundary (R357, R450). -/
def State.nextFreq (s : State) (clu : Nat) : Nat :=
  let ps := (List.range 8).map fun j => (s.core (8 * clu + j)).power
  let h := (ps.map (·.tokens)).sum
  let f := (s.cluster clu).freq
  if 65536 ≤ h then if ps.any (·.t2act) then f else min (f + 1) 20
  else if h < 16384 then max (f - 1) 8
  else f

/-- Every cluster's frequency is set. -/
def State.setFreqs (s : State) : State :=
  ((s.allCores.filter fun p => posOf p = 0).map cluOf).foldl (fun x n => x.modCluster n fun c => { c with freq := s.nextFreq n }) s

/-- TOKEN_PASSING: at a microsecond boundary frequencies are set, cores offer, firmware grants; what is offered and granted is in
transit until the next tick (R357, R360). -/
def execTokenPassing (s : State) : Host.Outcome State Fault Refusal :=
  if s.now % 1000 ≠ 0 ∨ s.passed = some s.now ∨ !s.answers ∨ s.cores.any (fun c => s.fbDue c.1) then .fault .notEnabled
  else
    let s1 := s.allCores.foldl (s.offer) s.setFreqs
    .next { s.allCores.foldl (fun x p => x.grant p) s1 with passed := some s.now }

/-- A hawk adds its grant and its offers in that order; what of the offers did not fit, by giver (R360, log entry 38). -/
def Power.takeAll (w : Power) : Power × List (Nat × Nat) :=
  let w1 := (w.give w.transit).2
  let (w2, back) := w.offers.foldl (fun (y, l) o =>
    let (m, z) := Power.give y o.2
    (z, if m < o.2 then l ++ [(o.1, o.2 - m)] else l)) (w1, [])
  ({ w2 with transit := 0, offers := [] }, back)

/-- A hawk adds what is on its way to it; the rest is collected for the givers. -/
def State.addTokens (x : State × List (Nat × Nat)) (p : Nat) : State × List (Nat × Nat) :=
  let (w, back) := (x.1.core p).power.takeAll
  (x.1.modCore p fun c => { c with power := w }, x.2 ++ back)

/-- TOKEN_ADD: at the tick after a passing every hawk adds its grant and its offers; an offer that does not fit returns to its
giver, a grant that does not fit is discarded (R360). What a returned offer holds above its giver's cap is dropped (DESIGN CHOICE, log entry 87). -/
def execTokenAdd (s : State) : Host.Outcome State Fault Refusal :=
  let due := s.allCores.filter fun p => 0 < (s.core p).power.transit || !(s.core p).power.offers.isEmpty
  match s.passed with
  | none => .fault .notEnabled
  | some t =>
    if s.now ≤ t ∨ due.isEmpty ∨ !s.answers then .fault .notEnabled
    else
      let (s1, back) := due.foldl State.addTokens (s, [])
      .next (back.foldl (fun x o => x.modCore o.1 fun c => { c with power := (c.power.give o.2).2 }) s1)

/-! ## BALLAST_PASS (R362, R363) -/

/-- The fall of an array's draw for a partition within 100 ns is above the energy table's limit, which counts per microsecond, and the ballast
against it has not lasted 2 µs (R362, R383; log entry 39). -/
def State.ballastDue (s : State) (clu part : Nat) : Bool :=
  let d := ((s.cluster clu).drawOf part).roll s.now
  decide (s.charge (8 * clu) 16 < 10 * (d.last - d.cur)) && d.since.all fun t => decide (s.now < t + 2000)

/-- BALLAST_PASS: one ballast pass of a cluster's array, charged to account 3 of the device context on the partition whose draw fell. -/
def execBallastPass (clu part : Nat) (s : State) : Host.Outcome State Fault Refusal :=
  let p := 8 * clu
  if !s.isCore p ∨ (find part s.parts).isNone ∨ s.charge p 16 = 0 ∨ (s.cluster clu).qa ∨ !s.answers ∨ !s.ballastDue clu part then
    .fault .notEnabled
  else
    .next { s.modCluster clu (·.ballast part (s.charge p 17) s.now) with
      enctx := put (4 * part + 3) (look 0 (4 * part + 3) s.enctx + s.charge p 17) s.enctx }

/-! ## THERMAL_SAMPLE (R364, R365, R450, R451) -/

/-- Trips of a sample: T1, T2 and T3 with their hysteresis. -/
def Power.sample (w : Power) (temp : BitVec 16) : Power :=
  let t := temp.toInt
  let up (act : Bool) (hi : Int) : Bool := !act && decide (hi ≤ t)
  { w with
    temp := temp
    t1 := w.t1 || up w.t1act 380
    t1act := decide (380 ≤ t) || (w.t1act && decide (360 ≤ t))
    t2 := w.t2 || up w.t2act 412
    t2act := decide (412 ≤ t) || (w.t2act && decide (392 ≤ t))
    t3 := w.t3 || up w.t3act 440
    t3act := decide (440 ≤ t) || (w.t3act && decide (400 ≤ t))
    tokens := if up w.t2act 412 then min w.tokens 4096 else w.tokens }

/-- Firmware's answer to a T1 warning: a migration request to the coolest free core, or a drop that is counted (R353, R365). -/
def State.warn (s : State) (p : Nat) : State :=
  let c := s.core p
  let active := match c.place with
    | some pl => decide (pl.twin ≠ 2) && decide ((s.remapAt pl.part pl.log).state = 0)
    | none => false
  if !active ∨ c.ended ∨ c.migrate.isSome then s
  else match s.pickTarget p with
    | some q => s.request p { target := q, named := false, record := none }
    | none => s.migDrop p

/-- The first microsecond boundary at least 2,000 ticks ahead. -/
def State.tripTick (s : State) : Nat := (s.now + 2000 + 999) / 1000 * 1000

/-- The partition holds a core of the cluster. -/
def Partition.inCluster (pt : Partition) (clu : Nat) : Bool :=
  (pt.remap.any fun e => e.2.valid && decide (cluOf e.2.pcid = clu)) || pt.lent.any fun e => cluOf e.2 = clu

/-- A T3 trip arms a gang switch of every partition on the cluster; an earlier one that is armed stays (R451). -/
def State.armCluster (s : State) (clu : Nat) : State :=
  { s with parts := s.parts.map fun x =>
      (x.1, if !x.2.stopped && x.2.inCluster clu then
        { x.2 with armed := some (match x.2.armed with
          | some t => min t s.tripTick
          | none => s.tripTick) }
      else x.2) }

/-- THERMAL_SAMPLE: once a microsecond a core's sensor is read into CORE_THERM, with the trips from T1 to T3. The reading falls on the microsecond
boundaries (DESIGN CHOICE, log entry 70). -/
def execThermalSample (core : Nat) (temp : BitVec 16) (s : State) : Host.Outcome State Fault Refusal :=
  let w := (s.core core).power
  if !s.isCore core ∨ !s.answers ∨ s.now % 1000 ≠ 0 ∨ w.sampled = some s.now then .fault .notEnabled
  else
    let new := { w.sample temp with sampled := some s.now }
    let s1 := s.modCore core fun c => { c with power := new }
    let s2 := if new.t1act && !w.t1act then (s1.modCore core fun c => c.wake 0 3).warn core else s1
    let s3 := if new.t2act && !w.t2act then
        s2.modCluster (cluOf core) fun c => { c with freq := max 8 (c.freq / 2) }
      else s2
    .next (if new.t3act && !w.t3act then s3.armCluster (cluOf core) else s3)

/-! ## T4_TRIP (R452) -/

/-- An instance of the tract uses the die's cores, or, by a free value, its memory (log entry 40). -/
def State.usesDie (s : State) (die t : Nat) : Bool :=
  (s.insts.filter fun i => i.2.tract = t).any fun i =>
    ((s.instCores i.1).any fun p => dieOf p = die) || (Config.freeWord (s.fresh + t)).getLsbD 0

/-- A tract ends with status 4, its instances complete. -/
def State.cutTract (s : State) (t : Nat) : State :=
  let is := s.insts.filter fun i => i.2.tract = t
  let s1 := s.killTract t 4 0 0
  let done (i : Nat × Instance) : Done := { index := i.2.index, status := s1.instStatus i.1 i.2, unit := 0, tick := s.now }
  (s1.modTract t fun x => { x with window := x.window ++ is.map done }).pump t

/-- Every die stops all work: what was under way is gone, memories and registers hold what they held. -/
def State.blackout (s : State) : State :=
  { s with
    cores := s.cores.map fun c => (c.1, { c.2.halted with chains := [], ops := [], late := [], locks := [], queue := [],
                                                          place := none, stop := none, migrate := none })
    insts := [], transfers := [], messages := [], closures := []
    queues := s.queues.map fun q => (q.1, { q.2 with packet := none, waitAt := none, copy := none }) }

/-- T4_TRIP: a core of the die is at 120 °C; the die's power is removed, every die stops all work, tracts that used it end with
status 4, whose records die 0 writes while it is powered. -/
def execT4Trip (die : Nat) (s : State) : Host.Outcome State Fault Refusal :=
  let hot := s.cores.any fun c => dieOf c.1 = die && decide (480 ≤ c.2.power.temp.toInt)
  if s.dieCount ≤ die ∨ !(s.die die).powered ∨ !hot then .fault .notEnabled
  else
    let ts := (s.tracts.map (·.1)).filter (s.usesDie die)
    let s1 := ts.foldl (fun x t => x.cutTract t) s
    let s2 := (s1.modDie die fun d => { d with powered := false, t4 := true }).blackout
    .next { s2 with
      fresh := s.fresh + s.nextId
      tracts := s2.tracts.filter fun t => ts.contains t.1
      records := s2.records.filter fun r => r.teardown || ((s2.die 0).powered && match r.tract with
        | some t => ts.contains t
        | none => false) }

/-! ## FIELD_BOOK_STATE_CHANGE and PC_SAMPLE (R366, R367, R397, R398) -/

/-- PC_SAMPLE: every 2^(PCS + 9) ticks the sampler records the PC of the strand that issued most recently. Where its period starts is not given: it
falls on the multiples of its length (DESIGN CHOICE, log entry 41). -/
def execPcSample (core : Nat) (s : State) : Host.Outcome State Fault Refusal :=
  let c := s.core core
  let k := fieldNat c.fb.ctl 5 3
  if k = 0 ∨ !c.fb.ctl.getLsbD 2 ∨ s.now % 2 ^ (k + 9) ≠ 0 ∨ c.fb.sampled = some s.now then .fault .notEnabled
  else .next ((s.modCore core fun x => { x with fb := { x.fb with sampled := some s.now } }).fbRecord core 2 0 (c.strand c.fb.recent).pc
    (word64 c.fb.recent))

/-- The step can be taken. -/
def isNext (o : Host.Outcome State Fault Refusal) : Bool :=
  match o with
  | .next _ => true
  | _ => false

/-- What a core owes in this tick before its state for the field book is taken: its waits' ends (R279), its exchange's start and records (R35, R42), its
sensor's reading (R364), the PC sample (R367), the timeouts of its ring, of its FUSE and of its accesses to host memory (R252, R436, R448). -/
def coreOwes (p : Nat) (c : Core) : List (State → Host.Outcome State Fault Refusal) :=
  [execExchangeStart p, execExchangeRecordIssue p, execThermalSample p c.power.temp, execPcSample p,
    execFuseWindowTimeout (cluOf p) (posOf p), fun s => s.fbFlush p] ++
  (c.strands.map fun t => execWaitCompletion p t.1) ++ (c.strands.map fun t => execLdsInTime p t.1) ++
  (c.strands.map fun t => execWaitExpiry p t.1) ++ (c.sup.snags.map fun g => execSnagTimeout p g.idx) ++ (c.ops.map fun o => execHostAccessTimeout p o.id o.elem) ++
  (c.exch.deferred.filterMap (·.op)).map fun o => execHostAccessTimeout p o.id o.elem

/-- FIELD_BOOK_STATE_CHANGE: at the end of a tick, when the core owes nothing else in it, its state or cause changes; a record is written when records
are on. The core issues no word between this and the tick's end (R366). -/
def execFieldBookStateChange (core : Nat) (s : State) : Host.Outcome State Fault Refusal :=
  if !s.isCore core ∨ !s.fbDue core ∨ (coreOwes core (s.core core)).any (fun f => isNext (f s)) then .fault .notEnabled
  else
    let (st, ca) := s.fbState core
    .next ((s.modCore core fun c => { c with fb := { c.fb.close s.now with state := st, cause := ca, closed := some s.now } }).fbRecord core 0 0 0 0)

end Sys2Proof.Machine
end

