-- ==== Sys2Proof/Machine/Boot.lean ====
section
/-! DEFINITION. The skim engine, resets and boot, the Brirus ports and the host link (R375 to R389, R448, R449, R455 to R457, R464 to
R467). -/

namespace Sys2Proof.Machine

/-! ## SKIM_UNIT (R83, R388, R389) -/

/-- Location of the first byte that a job record covers. -/
def SkimRecord.base (r : SkimRecord) : Nat :=
  match r.kind with
  | 0 => tcmBase r.unit + r.off
  | 1 => cspBase r.unit + r.off
  | 2 => palBase r.unit + r.off
  | _ => r.off

/-- Location of the 4 KiB unit with a number in a job. -/
def skimUnitAt : List SkimRecord → Nat → Option Nat
  | [], _ => none
  | r :: rest, n => if n < r.len / 4096 then some (r.base + 4096 * n) else skimUnitAt rest (n - r.len / 4096)

/-- SKIM_UNIT: the next unit of a running job is zero and empty; after the last one STATE is 2. Its energy, whose size the spec does
not state, goes to the device's account 0 (R363, log entry 20). -/
def execSkimUnit (die : Nat) (s : State) : Host.Outcome State Fault Refusal :=
  let d := s.die die
  if d.skimState ≠ 1 ∨ d.skimTotal ≤ d.skimDone ∨ s.dies.any (fun x => x.2.t4) then .fault .notEnabled
  else
    match skimUnitAt d.skimJob d.skimDone with
    | none => .fault .notEnabled
    | some l =>
      let s1 := (s.wipe l 4096).modDie die fun x =>
        { x with skimDone := x.skimDone + 1, skimState := if x.skimTotal ≤ x.skimDone + 1 then 2 else 1 }
      .next { s1.drawn with enovh := put 0 (look 0 0 s.enovh + s.freeWord.toNat) s.enovh }

/-! ## Boot (R14, R381 to R384) -/

/-- Bytes of device-striped space with a plumb-column width, at the reset value of DEV_STRBASE (R91, R92). -/
def stripedSpace (dies w : Nat) : Nat := dies * (32 * (40 - w)) * (2 ^ 26 - 0x2000 * 4096)

/-- Bytes `o` to `o + n - 1` of the table as a little-endian number (R383). -/
def tableNat (t : BootTable) (o n : Nat) : Nat := leNat ((t.image.drop o).take n)

/-- W and TLEN. -/
def tableW (t : BootTable) : Nat := tableNat t 0x001 1
def tableLen (t : BootTable) : Nat := tableNat t 0x004 4

/-- The first plumb column of a die, and its token budget. -/
def tableRole (t : BootTable) (d : Nat) : Nat := tableNat t (0x008 + d) 1
def tableBudget (t : BootTable) (d : Nat) : Nat := tableNat t (0x018 + 4 * d) 4

/-- HDMSZ, and ENOFF. -/
def tableHdm (t : BootTable) : Nat := tableNat t 0x010 8
def tableEnoff (t : BootTable) : Nat := tableNat t 0x028 4

/-- The 32 entries of the energy table. -/
def tableEnergy (t : BootTable) : List Nat := (List.range 32).map fun i => tableNat t (tableEnoff t + 4 * i) 4

/-- The layout marks the byte at an offset zero: it lies in a zero field, or after the header and outside the energy table (R383). -/
def tableZero (t : BootTable) (i : Nat) : Bool :=
  [0x002, 0x003, 0x00C, 0x00D, 0x00E, 0x00F].contains i || (decide (0x40 ≤ i) && !(decide (tableEnoff t ≤ i) && decide (i < tableEnoff t + 128)))

/-- TLEN, ENOFF and ENLEN are in range, the energy table lies in the table, and the zero bytes are zero (R383). -/
def tableLayoutOk (t : BootTable) : Bool :=
  let n := tableLen t
  let e := tableEnoff t
  decide (n % 8 = 0) && decide (0xC0 ≤ n) && decide (n ≤ 65536) && decide (n ≤ t.image.length) && decide (e % 8 = 0) && decide (0x40 ≤ e) &&
    decide (e + 128 ≤ n) && decide (tableNat t 0x02C 4 = 128) &&
    ((t.image.take n).zipIdx.all fun x => !tableZero t x.2 || decide (x.1 = 0#8))

/-- The table is well formed (R382, R383). -/
def tableOk (t : BootTable) (dies : Nat) : Bool :=
  decide (tableNat t 0 1 = 1) && decide (1 ≤ tableW t) && decide (tableW t ≤ 4) && tableLayoutOk t &&
    ((List.range dies).all fun d => decide (tableRole t d + tableW t ≤ 40)) && decide (tableHdm t % 2 ^ 30 = 0) &&
    decide (tableHdm t ≤ stripedSpace dies (tableW t)) && ((tableEnergy t).drop 18).all (· = 0)

/-- The SHA-256 of bytes as a little-endian number of 256 bits. -/
def hash256 (bs : List Byte) : BitVec 256 := BitVec.ofNat 256 (leNat (Sha.digest bs))

/-- The measurement of the table: the bytes that its signature covers (R381, R383). -/
def tableHashOf (t : BootTable) : BitVec 256 := hash256 (t.image.take (tableLen t))

/-- Where boot ends: STEP and FAIL; in which step a format failure is found is a free value. -/
def State.bootEnd (s : State) (t : BootTable) : Nat × Nat :=
  if !t.tableSigOk then (1, 1)
  else if !tableOk t s.dieCount then (1 + s.freeWord.toNat % 3, 2)
  else if !t.diesAgree then (2, 4)
  else if !t.fwSigOk then (4, 3)
  else (6, 0)

/-- Columns `c` to `c + w - 1` as a mask. -/
def plumbMask (c w : Nat) : BitVec 40 := BitVec.ofNat 40 ((2 ^ w - 1) * 2 ^ c)

/-- Step 3 on one die: roles, firewall, token budget, energy table; a pending scrub goes on (R381, R384, R389). -/
def applyTable (t : BootTable) (n : Nat) (d : Die) : Die :=
  { d with
    plumb := plumbMask (tableRole t n) (tableW t), fwLock := true, tkbudget := tableBudget t n,
    energy := tableEnergy t, skimState := if d.skimState = 3 then 1 else d.skimState, bootStep := 3, powered := true }

/-- Step 3 on the whole device (R381). -/
def State.applyBoot (s : State) (t : BootTable) : State :=
  let ds := List.range s.dieCount
  { ds.foldl (fun x n => x.modDie n (applyTable t n)) s with
    plumbW := tableW t
    plumbCol := ds.map fun n => (n, tableRole t n)
    hdmsz := tableHdm t
    rstScrub := s.dies.any fun d => d.2.skimState = 3 }

/-- Step 4: the firmware image is measured; its words are not held (log entry 8). -/
def State.measureFirmware (s : State) (t : BootTable) : State :=
  { s with fwHash := hash256 (t.firmware.take (tableNat t 0x038 4)) }

/-- Step 5: ports with a partner, which is a free value of each port, begin to train; the host link is up. -/
def State.trainAll (s : State) : State :=
  let n := 9 * s.dieCount
  { s with
    ports := (List.range n).map fun j =>
      (j, if (Config.freeWord (s.fresh + j)).getLsbD 0 then { Port.init with state := 1, trainAt := s.now } else Port.init)
    fresh := s.fresh + n
    hostUp := true }

/-- Once boot is done, and before it releases a core, firmware enters the teardown's routine with `s9` = 1 on each die whose note reads 1 (R464). -/
def State.reenter (s : State) : State :=
  (List.range s.dieCount).foldl (fun x d => if s.loadNat (s.noteAt d) 8 = 1 then x.modDie d fun y => { y with enter := some 1 } else x) s

/-- Boot: the steps of R381 up to READY, or to the failure that stops them: a step before it has taken place, step 3 when the firmware's
signature fails in step 4. `train` says that the links train. -/
def State.boot (s : State) (t : BootTable) (train : Bool) : State :=
  let (step, fail) := s.bootEnd t
  let s0 := { s.drawn with bootStep := step, bootFail := fail, ready := decide (fail = 0),
                           tableHash := if fail = 1 then s.tableHash else tableHashOf t }
  let s1 := if step < 4 then s0 else s0.applyBoot t
  let s2 := if fail = 0 then (s1.measureFirmware t).reenter else s1
  if fail = 0 ∧ train then s2.trainAll else s2

/-! ## Resets (R456, R457) -/

/-- What a core keeps at a warm reset: its quarantines and its retired bank (R407, R415). -/
def Health.kept (x : Health) : Health :=
  { Health.init with qc := x.qc, qr := x.qr, eccState := x.eccState, bank := x.bank, prog := x.prog }

/-- What a cluster keeps. -/
def Cluster.kept (c : Cluster) : Cluster :=
  { Cluster.init with qa := c.qa, cspState := c.cspState, cspBank := c.cspBank, cspProg := c.cspProg }

/-- What a die keeps: its machine-check log and its skim job, pending when it ran (R389, R404). -/
def Die.kept (d : Die) : Die :=
  { Die.init with mclog := d.mclog, mccount := d.mccount, skimState := if d.skimState = 1 then 3 else d.skimState,
                  skimCtx := d.skimCtx, skimTotal := d.skimTotal, skimDone := d.skimDone, skimJob := d.skimJob }

/-- Host memory, which no reset of the device touches. -/
def hostCells (m : List Host.Cell) : List Host.Cell := m.filter fun e => decide (2 ^ 44 ≤ e.1) && decide (e.1 < 2 ^ 45)

/-- POWER_ON_RESET: everything is at its reset value, all memory zero and empty, and the device boots (R381, R456). -/
def execPowerOnReset (tbl : BootTable) (s : State) : Host.Outcome State Fault Refusal :=
  let s1 := { State.reset with
    part := s.part, mem := hostCells s.mem, msix := s.msix, hostReads := s.hostReads, agenda := s.agenda, focus := s.focus, fresh := s.fresh,
    nextId := s.nextId }
  .next (s1.boot tbl true)

/-- What a warm reset of a kind leaves before it boots: the timebase, memories, quarantines, retirements, logs, skim jobs and the
records that firmware owes for teardowns (R456, R464, R466). -/
def State.warm (s : State) (kind owner : Nat) : State :=
  let t4 := s.dies.find? fun d => d.2.t4
  { State.reset with
    now := s.now, part := s.part, mem := s.mem, full := s.full, poison := s.poison, keyed := s.keyed
    cores := s.cores.map fun c => (c.1, { Core.init with health := c.2.health.kept })
    clusters := s.clusters.map fun c => (c.1, c.2.kept)
    dies := s.dies.map fun d => (d.1, d.2.kept)
    owner := owner
    records := (s.records.filter (·.teardown)).map fun r => { r with retry := false }
    msix := s.msix
    hostReads := s.hostReads
    rstKind := kind
    rstT4 := t4.isSome
    rstT4die := (t4.map (·.1)).getD 0
    rstTick := s.now % 2 ^ 48
    agenda := s.agenda, focus := s.focus, fresh := s.fresh, nextId := s.nextId }

/-- DEVICE_RESET: memories and logs are kept, boot runs again, the links train again. -/
def execDeviceReset (tbl : BootTable) (s : State) : Host.Outcome State Fault Refusal := .next ((s.warm 1 0).boot tbl true)

/-- FUNCTION_LEVEL_RESET, by the host over its link: as a device reset, but the links stay as they are, and DEV_OWNER whole where the owner is no host
function. It is no exit from a T4 trip (R452). -/
def execFunctionLevelReset (tbl : BootTable) (s : State) : Host.Outcome State Fault Refusal :=
  if !s.hostUp ∨ s.dies.any (fun d => d.2.t4) then .fault .notEnabled
  else
    let s1 := s.warm 2 (if s.owner / 4096 = 1 then 0 else s.owner)
    let s2 := { s1 with ports := s.ports, hostUp := s.hostUp }
    .next ((if s.owner / 4096 = 1 then s2
      else { s2 with ownerOp := s.ownerOp, ownerSucc := s.ownerSucc, refused := s.refused, linkLost := s.linkLost }).boot tbl false)

/-! ## Host accesses (R141, R375, R376, R384, R388) -/

/-- The die to whose plumb column a location belongs: its channels, and its cores' and clusters' memories. -/
def State.plumbLoc (s : State) (l : Nat) : Option Nat :=
  let l := plain l
  let p := if l < 2 ^ 39 then l / 2 ^ 26
    else if 2 ^ 48 ≤ l ∧ l < 2 ^ 49 then (l - 2 ^ 48) / 2 ^ 17
    else if 2 ^ 49 ≤ l ∧ l < 2 ^ 50 then 8 * ((l - 2 ^ 49) / 2 ^ 20)
    else 8192
  if p < 8192 ∧ s.isPlumb p then some (dieOf p) else none

/-- The words of a burst that writes from outside cover one after the other: the eighth clears the burst's error (R416). -/
def State.burstWord (s : State) (l : Nat) : State :=
  let a := plain l
  let n := if a % 64 = 0 then 1 else if s.burst.1 = a then s.burst.2 + 1 else 0
  if n = 8 then { s with burst := (0, 0) }.cleanse (a / 64 * 64) 64 else { s with burst := if n = 0 then (0, 0) else (a + 8, n) }

/-- A write of some of the 8 bytes at a location, from outside the device. -/
def State.outsideWrite (s : State) (l : Nat) (data : Word) (bytes : BitVec 8) : State :=
  if bytes = 0xFF#8 then (s.writeMem 8192 l (natBytes 8 data.toNat) true none).burstWord l
  else (bitsSet 8 bytes.toNat).foldl (fun x i => x.writeMem 8192 (l + i) [data.extractLsb' (8 * i) 8] true none) s

/-- The answer to a host's read of 8 bytes: its data, as poisoned where it is, or zero from a range that a skim job names (R388, R417). -/
def State.answerHost (s : State) (l : Nat) : State :=
  { s with hostReads := s.hostReads ++ [if s.skimmed l then (0, false) else (s.loadWord l, s.poisoned l 8)] }

/-- CXL_MEM_REQUEST: a read returns its data and changes nothing; a write stores its bytes, but into a range that a skim job names (R388, R417). -/
def execCxlMemRequest (off : Nat) (write : Bool) (data : Word) (bytes : BitVec 8) (s : State) :
    Host.Outcome State Fault Refusal :=
  if off % 8 ≠ 0 ∨ s.hdmsz ≤ off ∨ !s.hostUp ∨ !s.answers then .fault .notEnabled
  else
    let l := s.unstripe none off
    if !write then .next (s.answerHost l) else if s.skimmed l then .next s else .next (s.outsideWrite l data bytes)

/-- HOST_LINK_DOWN (R448, R455). -/
def execHostLinkDown (s : State) : Host.Outcome State Fault Refusal :=
  if s.hostUp then .next { s with hostUp := false }.fixLink else .fault .notEnabled

/-- HOST_LINK_UP: held MSI-X signals are sent in their order (R448, R455). -/
def execHostLinkUp (s : State) : Host.Outcome State Fault Refusal :=
  if s.hostUp then .fault .notEnabled
  else .next { s with hostUp := true, msix := s.msix ++ s.msixHeld, msixHeld := []
                      queues := s.queues.map fun (q : Nat × PQueue) => (q.1, { q.2 with fetchAt := none }) }.fixLink

/-! ## Brirus ports (R378 to R380, R449, R455) -/

/-- A port of the part. -/
def State.port (s : State) (j : Nat) : Port := look Port.init j s.ports

/-- Change a port; the owner's link is watched. -/
def State.setPort (s : State) (j : Nat) (x : Port) : State := { s with ports := put j x s.ports }.fixLink

/-- The port exists. -/
def State.isPort (s : State) (j : Nat) : Bool := decide (j < 9 * s.dieCount)

/-- BRIRUS_TRAINING: a port that is down begins to train with its partner; one that trains comes up, and what is not acknowledged is
replayed (R378, R449). An attempt without success changes nothing; one that comes 50 ms after the start of training or later is none. -/
def execBrirusTraining (port : Nat) (ok : Bool) (rate peer : Nat) (s : State) : Host.Outcome State Fault Refusal :=
  let x := s.port port
  if !s.isPort port ∨ 2 < rate ∨ 65535 < peer ∨ !s.answers then .fault .notEnabled
  else
    match x.state with
    | 0 => .next (s.setPort port { x with state := 1, trainAt := s.now })
    | 1 => if x.trainAt + 50000000 ≤ s.now then .fault .notEnabled
      else if !ok then .next s
      else .next (s.setPort port { x with state := 2, rate := rate, peer := peer, fails := 0,
                                          retry := if x.replay.isEmpty then x.retry else (x.retry + 1) % 2 ^ 32 })
    | _ => .fault .notEnabled

/-- TRAINING_TIMEOUT: a port that is not up 50 ms after its training began has failed (R378). -/
def execTrainingTimeout (port : Nat) (s : State) : Host.Outcome State Fault Refusal :=
  let x := s.port port
  if x.state ≠ 1 ∨ s.now < x.trainAt + 50000000 then .fault .notEnabled else .next (s.setPort port { x with state := 3, replay := [] })

/-- Sent flits before the number that a flit acknowledges leave the replay buffer; a number that names none of them
acknowledges nothing (log entry 42). -/
def Port.acked (x : Port) (ack : Nat) : Port :=
  let n := (ack + 1024 - (x.sendSeq + 1024 - x.replay.length) % 1024) % 1024
  if n = 0 ∨ x.replay.length < n then x else { x with replay := x.replay.drop n, fails := 0 }

/-- A flit is sent, and kept until it is acknowledged. -/
def Port.send (x : Port) (f : Flit) : Port :=
  { x with replay := x.replay ++ [{ f with seq := x.sendSeq, ack := x.expect }], sendSeq := (x.sendSeq + 1) % 1024 }

/-- The answer to a peer's request: the data read, zero for a write, or an unsupported-request error for what is dropped or cannot be delivered
(R447). -/
def answerTo (f : Flit) (data : Option Word) (poison : Bool) : Flit :=
  { f with data := data.getD 0, write := false, good := true, poison := poison, unsup := data.isNone }

/-- What a peer reads is poisoned: it is returned as such (R417). -/
def State.peerPoison (s : State) (f : Flit) : Bool :=
  match s.reachCtx f.fctx f.addr f.write with
  | .loc l _ _ => !f.write && (s.plumbLoc l).isNone && !s.skimmed l && s.poisoned l 8
  | _ => false

/-- A peer's remote-memory request: a system-scope access to a translated address of the named device context (R379, R384, R388); no data where it is
not delivered or is dropped (R447). -/
def State.peerAccess (s : State) (f : Flit) : State × Option Word :=
  match s.reachCtx f.fctx f.addr f.write with
  | .loc l _ _ =>
    (match s.plumbLoc l with
    | some d => (s.modDie d fun x => { x with drops := min (x.drops + 1) 65535 }, none)
    | none =>
      if s.skimmed l then (s, some 0)
      else if f.write then (s.outsideWrite l f.data f.bytes, some 0)
      else (s, some (s.loadWord l)))
  | _ => (s, none)

/-- BRIRUS_FLIT: a flit with an error or out of sequence is dropped, and the port sends a negative acknowledgement for the one it expects; one in sequence acknowledges what was sent
and is delivered. What the classes from 1 on do at the receiver is not given: they are accepted (log entry 43). A failed
port discards. -/
def execBrirusFlit (port : Nat) (flit : Flit) (s : State) : Host.Outcome State Fault Refusal :=
  let x := s.port port
  if !s.isPort port ∨ !s.answers then .fault .notEnabled
  else
    match x.state with
    | 3 => .next s
    | 2 =>
      if !flit.good ∨ flit.seq % 1024 ≠ x.expect then .next (s.setPort port { x with naks := x.naks + 1 })
      else
        let y := { x.acked (flit.ack % 1024) with expect := (x.expect + 1) % 1024 }
        if flit.cls ≠ 0 then .next (s.setPort port y)
        else if flit.addr.toNat % 8 ≠ 0 ∨ 512 ≤ y.replay.length then .fault .notEnabled
        else
          let (s1, v) := s.peerAccess flit
          .next (s1.setPort port (y.send (answerTo flit v (s.peerPoison flit))))
    | _ => .fault .notEnabled

/-- BRIRUS_NAK: the port replays from the first flit that is not acknowledged; the eighth failure of one flit in a row retrains the
port (R379, R449). -/
def execBrirusNak (port seq : Nat) (s : State) : Host.Outcome State Fault Refusal :=
  let x := (s.port port).acked (seq % 1024)
  if (s.port port).state ≠ 2 ∨ !s.isPort port ∨ !s.answers then .fault .notEnabled
  else if x.replay.isEmpty then .next (s.setPort port x)
  else if 8 ≤ x.fails then .next (s.setPort port { x with state := 1, trainAt := s.now, fails := 0 })
  else .next (s.setPort port { x with fails := x.fails + 1, retry := (x.retry + 1) % 2 ^ 32 })

end Sys2Proof.Machine
end

