-- ==== Sys2Proof/Machine/Dispatch.lean ====
section
/-! DEFINITION. Which meaning belongs to which instruction: one arm for each constructor. -/

namespace Sys2Proof.Machine

def exec (i : Instr) (s : State) : Host.Outcome State Fault Refusal :=
  match i with
  | .nop h => Sys2Proof.Machine.execNop h s
  | .tgt h t imm => Sys2Proof.Machine.execTgt h t imm s
  | .tgts h t a => Sys2Proof.Machine.execTgts h t a s
  | .lnk h => Sys2Proof.Machine.execLnk h s
  | .loop h q => Sys2Proof.Machine.execLoop h q s
  | .loopSet h a => Sys2Proof.Machine.execLoopSet h a s
  | .repb h a stride mask => Sys2Proof.Machine.execRepb h a stride mask s
  | .start h a hn => Sys2Proof.Machine.execStart h a hn s
  | .join h d b wall => Sys2Proof.Machine.execJoin h d b wall s
  | .hkill h a => Sys2Proof.Machine.execHkill h a s
  | .ids h d k => Sys2Proof.Machine.execIds h d k s
  | .clk h d => Sys2Proof.Machine.execClk h d s
  | .sleep h d a b wall => Sys2Proof.Machine.execSleep h d a b wall s
  | .mark h value => Sys2Proof.Machine.execMark h value s
  | .win h a => Sys2Proof.Machine.execWin h a s
  | .wins h delta limit => Sys2Proof.Machine.execWins h delta limit s
  | .wswap h a => Sys2Proof.Machine.execWswap h a s
  | .wrd h d => Sys2Proof.Machine.execWrd h d s
  | .wdrain h d b wall => Sys2Proof.Machine.execWdrain h d b wall s
  | .tdel h d a => Sys2Proof.Machine.execTdel h d a s
  | .tret h a => Sys2Proof.Machine.execTret h a s
  | .env h a => Sys2Proof.Machine.execEnv h a s
  | .snagw h a b => Sys2Proof.Machine.execSnagw h a b s
  | .snagx h a b => Sys2Proof.Machine.execSnagx h a b s
  | .add h d a b => Sys2Proof.Machine.execAdd h d a b s
  | .sub h d a b => Sys2Proof.Machine.execSub h d a b s
  | .addi h d a imm => Sys2Proof.Machine.execAddi h d a imm s
  | .mul h d a b => Sys2Proof.Machine.execMul h d a b s
  | .mulh h d a b => Sys2Proof.Machine.execMulh h d a b s
  | .mulhu h d a b => Sys2Proof.Machine.execMulhu h d a b s
  | .div h d a b => Sys2Proof.Machine.execDiv h d a b s
  | .divu h d a b => Sys2Proof.Machine.execDivu h d a b s
  | .rem h d a b => Sys2Proof.Machine.execRem h d a b s
  | .remu h d a b => Sys2Proof.Machine.execRemu h d a b s
  | .and h d a b => Sys2Proof.Machine.execAnd h d a b s
  | .or h d a b => Sys2Proof.Machine.execOr h d a b s
  | .xor h d a b => Sys2Proof.Machine.execXor h d a b s
  | .andn h d a b => Sys2Proof.Machine.execAndn h d a b s
  | .shl h d a b => Sys2Proof.Machine.execShl h d a b s
  | .shr h d a b => Sys2Proof.Machine.execShr h d a b s
  | .sra h d a b => Sys2Proof.Machine.execSra h d a b s
  | .rot h d a b => Sys2Proof.Machine.execRot h d a b s
  | .clz h d a => Sys2Proof.Machine.execClz h d a s
  | .ctz h d a => Sys2Proof.Machine.execCtz h d a s
  | .popc h d a => Sys2Proof.Machine.execPopc h d a s
  | .min h d a b => Sys2Proof.Machine.execMin h d a b s
  | .max h d a b => Sys2Proof.Machine.execMax h d a b s
  | .minu h d a b => Sys2Proof.Machine.execMinu h d a b s
  | .maxu h d a b => Sys2Proof.Machine.execMaxu h d a b s
  | .sel h d a b qc => Sys2Proof.Machine.execSel h d a b qc s
  | .scmp h q a b cc u => Sys2Proof.Machine.execScmp h q a b cc u s
  | .scmps h d a b cc u => Sys2Proof.Machine.execScmps h d a b cc u s
  | .li h d imm => Sys2Proof.Machine.execLi h d imm s
  | .lih h d imm36 => Sys2Proof.Machine.execLih h d imm36 s
  | .agen h d a b sh disp => Sys2Proof.Machine.execAgen h d a b sh disp s
  | .bfx h d a pos len => Sys2Proof.Machine.execBfx h d a pos len s
  | .bfi h d a pos len => Sys2Proof.Machine.execBfi h d a pos len s
  | .sext h d a n => Sys2Proof.Machine.execSext h d a n s
  | .zext h d a n => Sys2Proof.Machine.execZext h d a n s
  | .mov h d a => Sys2Proof.Machine.execMov h d a s
  | .fadd h d a b ty rm => Sys2Proof.Machine.execFadd h d a b ty rm s
  | .fsub h d a b ty rm => Sys2Proof.Machine.execFsub h d a b ty rm s
  | .fmul h d a b ty rm => Sys2Proof.Machine.execFmul h d a b ty rm s
  | .ffma h d a b c ty rm => Sys2Proof.Machine.execFfma h d a b c ty rm s
  | .fdiv h d a b ty rm => Sys2Proof.Machine.execFdiv h d a b ty rm s
  | .fsqrt h d a ty rm => Sys2Proof.Machine.execFsqrt h d a ty rm s
  | .fmin h d a b ty => Sys2Proof.Machine.execFmin h d a b ty s
  | .fmax h d a b ty => Sys2Proof.Machine.execFmax h d a b ty s
  | .fcmp h q a b ty cc => Sys2Proof.Machine.execFcmp h q a b ty cc s
  | .fclass h d a ty => Sys2Proof.Machine.execFclass h d a ty s
  | .fcvt h d a ty rm fl => Sys2Proof.Machine.execFcvt h d a ty rm fl s
  | .fcvti h d a ty rm fl => Sys2Proof.Machine.execFcvti h d a ty rm fl s
  | .vadd h d a b ty m => Sys2Proof.Machine.execVadd h d a b ty m s
  | .vsub h d a b ty m => Sys2Proof.Machine.execVsub h d a b ty m s
  | .vmul h d a b ty m => Sys2Proof.Machine.execVmul h d a b ty m s
  | .vmulh h d a b ty u m => Sys2Proof.Machine.execVmulh h d a b ty u m s
  | .vmad h d a b c ty => Sys2Proof.Machine.execVmad h d a b c ty s
  | .vand h d a b ty m => Sys2Proof.Machine.execVand h d a b ty m s
  | .vor h d a b ty m => Sys2Proof.Machine.execVor h d a b ty m s
  | .vxor h d a b ty m => Sys2Proof.Machine.execVxor h d a b ty m s
  | .vshl h d a b ty m => Sys2Proof.Machine.execVshl h d a b ty m s
  | .vshr h d a b ty m => Sys2Proof.Machine.execVshr h d a b ty m s
  | .vsra h d a b ty m => Sys2Proof.Machine.execVsra h d a b ty m s
  | .vmin h d a b ty u m => Sys2Proof.Machine.execVmin h d a b ty u m s
  | .vmax h d a b ty u m => Sys2Proof.Machine.execVmax h d a b ty u m s
  | .vabs h d a ty m => Sys2Proof.Machine.execVabs h d a ty m s
  | .vcmp h q a b ty cc u m => Sys2Proof.Machine.execVcmp h q a b ty cc u m s
  | .vsel h d a b qc ty => Sys2Proof.Machine.execVsel h d a b qc ty s
  | .vadds h d a b ty u m => Sys2Proof.Machine.execVadds h d a b ty u m s
  | .vsubs h d a b ty u m => Sys2Proof.Machine.execVsubs h d a b ty u m s
  | .vdot4 h d a b c fl => Sys2Proof.Machine.execVdot4 h d a b c fl s
  | .vpopc h d a ty m => Sys2Proof.Machine.execVpopc h d a ty m s
  | .vclz h d a ty m => Sys2Proof.Machine.execVclz h d a ty m s
  | .vmov h d a ty m => Sys2Proof.Machine.execVmov h d a ty m s
  | .vfadd h d a b ty rm m => Sys2Proof.Machine.execVfadd h d a b ty rm m s
  | .vfsub h d a b ty rm m => Sys2Proof.Machine.execVfsub h d a b ty rm m s
  | .vfmul h d a b ty rm m => Sys2Proof.Machine.execVfmul h d a b ty rm m s
  | .vfma h d a b c ty rm => Sys2Proof.Machine.execVfma h d a b c ty rm s
  | .vfms h d a b c ty rm => Sys2Proof.Machine.execVfms h d a b c ty rm s
  | .vfnma h d a b c ty rm => Sys2Proof.Machine.execVfnma h d a b c ty rm s
  | .vfdiv h d a b ty rm m => Sys2Proof.Machine.execVfdiv h d a b ty rm m s
  | .vfsqrt h d a ty rm m => Sys2Proof.Machine.execVfsqrt h d a ty rm m s
  | .vfrec h d a rm m => Sys2Proof.Machine.execVfrec h d a rm m s
  | .vfrsq h d a rm m => Sys2Proof.Machine.execVfrsq h d a rm m s
  | .vfexp2 h d a rm m => Sys2Proof.Machine.execVfexp2 h d a rm m s
  | .vflog2 h d a rm m => Sys2Proof.Machine.execVflog2 h d a rm m s
  | .vfmin h d a b ty m => Sys2Proof.Machine.execVfmin h d a b ty m s
  | .vfmax h d a b ty m => Sys2Proof.Machine.execVfmax h d a b ty m s
  | .vfcmp h q a b ty cc m => Sys2Proof.Machine.execVfcmp h q a b ty cc m s
  | .vfclass h d a ty m => Sys2Proof.Machine.execVfclass h d a ty m s
  | .vfcvt h d a ty rm fl m => Sys2Proof.Machine.execVfcvt h d a ty rm fl m s
  | .vfnarrow h d a b c ty rm u => Sys2Proof.Machine.execVfnarrow h d a b c ty rm u s
  | .vfwiden h d a b ty fl m => Sys2Proof.Machine.execVfwiden h d a b ty fl m s
  | .vfred h d a ty rm fl m => Sys2Proof.Machine.execVfred h d a ty rm fl m s
  | .vfamax h d a ty m => Sys2Proof.Machine.execVfamax h d a ty m s
  | .vperm h d a b ty m => Sys2Proof.Machine.execVperm h d a b ty m s
  | .vrot h d a b ty m => Sys2Proof.Machine.execVrot h d a b ty m s
  | .vbfly h d a b ty m => Sys2Proof.Machine.execVbfly h d a b ty m s
  | .vbcst h d a b ty m => Sys2Proof.Machine.execVbcst h d a b ty m s
  | .vcomp h d a qb ty m => Sys2Proof.Machine.execVcomp h d a qb ty m s
  | .vxpnd h d a qb ty m => Sys2Proof.Machine.execVxpnd h d a qb ty m s
  | .vsplat h d a ty => Sys2Proof.Machine.execVsplat h d a ty s
  | .vext h d a b ty u m => Sys2Proof.Machine.execVext h d a b ty u m s
  | .vins h d a b ty => Sys2Proof.Machine.execVins h d a b ty s
  | .qand h q qa qb => Sys2Proof.Machine.execQand h q qa qb s
  | .qor h q qa qb => Sys2Proof.Machine.execQor h q qa qb s
  | .qxor h q qa qb => Sys2Proof.Machine.execQxor h q qa qb s
  | .qnot h q qa => Sys2Proof.Machine.execQnot h q qa s
  | .qpop h d qa => Sys2Proof.Machine.execQpop h d qa s
  | .qfirst h d qa => Sys2Proof.Machine.execQfirst h d qa s
  | .qmov h q a => Sys2Proof.Machine.execQmov h q a s
  | .qmovX h d qa => Sys2Proof.Machine.execQmovX h d qa s
  | .gany h q qa u => Sys2Proof.Machine.execGany h q qa u s
  | .gall h q qa u => Sys2Proof.Machine.execGall h q qa u s
  | .gbcast h d a => Sys2Proof.Machine.execGbcast h d a s
  | .glane h d => Sys2Proof.Machine.execGlane h d s
  | .dtld h a => Sys2Proof.Machine.execDtld h a s
  | .dtrd h d a => Sys2Proof.Machine.execDtrd h d a s
  | .dtdec h d a b ty rm u m => Sys2Proof.Machine.execDtdec h d a b ty rm u m s
  | .dtenc h d a b c ty rm fl => Sys2Proof.Machine.execDtenc h d a b c ty rm fl s
  | .mxq h d a b c ty rm => Sys2Proof.Machine.execMxq h d a b c ty rm s
  | .mxqMem h d a b c ty rm => Sys2Proof.Machine.execMxqMem h d a b c ty rm s
  | .mxdq h d a b ty rm u m => Sys2Proof.Machine.execMxdq h d a b ty rm u m s
  | .ufcnt h d => Sys2Proof.Machine.execUfcnt h d s
  | .scsel h d a b c ty => Sys2Proof.Machine.execScsel h d a b c ty s
  | .ld h d a disp scope ord sz => Sys2Proof.Machine.execLd h d a disp scope ord sz s
  | .st h d a disp scope ord sz => Sys2Proof.Machine.execSt h d a disp scope ord sz s
  | .ldv h d a disp scope ord => Sys2Proof.Machine.execLdv h d a disp scope ord s
  | .stv h d a disp scope ord => Sys2Proof.Machine.execStv h d a disp scope ord s
  | .ldvx h d a b scope ord sz m => Sys2Proof.Machine.execLdvx h d a b scope ord sz m s
  | .stvx h d a b scope ord sz m => Sys2Proof.Machine.execStvx h d a b scope ord sz m s
  | .lds h d a b scope sz wall => Sys2Proof.Machine.execLds h d a b scope sz wall s
  | .stf h d a disp scope sz => Sys2Proof.Machine.execStf h d a disp scope sz s
  | .feclr h a disp scope ord => Sys2Proof.Machine.execFeclr h a disp scope ord s
  | .ferd h d a disp scope ord => Sys2Proof.Machine.execFerd h d a disp scope ord s
  | .aadd h d a b scope ord sz => Sys2Proof.Machine.execAadd h d a b scope ord sz s
  | .aand h d a b scope ord sz => Sys2Proof.Machine.execAand h d a b scope ord sz s
  | .aor h d a b scope ord sz => Sys2Proof.Machine.execAor h d a b scope ord sz s
  | .axor h d a b scope ord sz => Sys2Proof.Machine.execAxor h d a b scope ord sz s
  | .amin h d a b scope ord sz => Sys2Proof.Machine.execAmin h d a b scope ord sz s
  | .amax h d a b scope ord sz => Sys2Proof.Machine.execAmax h d a b scope ord sz s
  | .aminu h d a b scope ord sz => Sys2Proof.Machine.execAminu h d a b scope ord sz s
  | .amaxu h d a b scope ord sz => Sys2Proof.Machine.execAmaxu h d a b scope ord sz s
  | .axchg h d a b scope ord sz => Sys2Proof.Machine.execAxchg h d a b scope ord sz s
  | .acas h d a b c scope ord sz => Sys2Proof.Machine.execAcas h d a b c scope ord sz s
  | .afadd h d a b scope ord sz => Sys2Proof.Machine.execAfadd h d a b scope ord sz s
  | .radd h d a disp scope ord sz => Sys2Proof.Machine.execRadd h d a disp scope ord sz s
  | .rand h d a disp scope ord sz => Sys2Proof.Machine.execRand h d a disp scope ord sz s
  | .rior h d a disp scope ord sz => Sys2Proof.Machine.execRior h d a disp scope ord sz s
  | .rxor h d a disp scope ord sz => Sys2Proof.Machine.execRxor h d a disp scope ord sz s
  | .rmin h d a disp scope ord sz => Sys2Proof.Machine.execRmin h d a disp scope ord sz s
  | .rmax h d a disp scope ord sz => Sys2Proof.Machine.execRmax h d a disp scope ord sz s
  | .rfadd h d a disp scope ord sz => Sys2Proof.Machine.execRfadd h d a disp scope ord sz s
  | .fence h d b classes scope wall => Sys2Proof.Machine.execFence h d b classes scope wall s
  | .barr h d g => Sys2Proof.Machine.execBarr h d g s
  | .bwait h d g b wall => Sys2Proof.Machine.execBwait h d g b wall s
  | .bwd h d g => Sys2Proof.Machine.execBwd h d g s
  | .bstat h d g => Sys2Proof.Machine.execBstat h d g s
  | .send h a b scope m => Sys2Proof.Machine.execSend h a b scope m s
  | .recv h d a b wall => Sys2Proof.Machine.execRecv h d a b wall s
  | .qstat h d => Sys2Proof.Machine.execQstat h d s
  | .waitseq h d a b wall => Sys2Proof.Machine.execWaitseq h d a b wall s
  | .xplan h a => Sys2Proof.Machine.execXplan h a s
  | .sstep h a b u wall => Sys2Proof.Machine.execSstep h a b u wall s
  | .bcfg h d g b u => Sys2Proof.Machine.execBcfg h d g b u s
  | .append h d a b u => Sys2Proof.Machine.execAppend h d a b u s
  | .chain h d a => Sys2Proof.Machine.execChain h d a s
  | .chainUnbind h d a => Sys2Proof.Machine.execChainUnbind h d a s
  | .seqrd h d a k => Sys2Proof.Machine.execSeqrd h d a k s
  | .claim h d n => Sys2Proof.Machine.execClaim h d n s
  | .rels h a => Sys2Proof.Machine.execRels h a s
  | .tshape h a b => Sys2Proof.Machine.execTshape h a b s
  | .trow h d a b => Sys2Proof.Machine.execTrow h d a b s
  | .tcol h d a b => Sys2Proof.Machine.execTcol h d a b s
  | .twrow h a b c => Sys2Proof.Machine.execTwrow h a b c s
  | .twcol h a b c => Sys2Proof.Machine.execTwcol h a b c s
  | .wralloc h d a => Sys2Proof.Machine.execWralloc h d a s
  | .wrpin h a => Sys2Proof.Machine.execWrpin h a s
  | .wrunpin h a => Sys2Proof.Machine.execWrunpin h a s
  | .wrrevoke h a => Sys2Proof.Machine.execWrrevoke h a s
  | .wrquery h d a => Sys2Proof.Machine.execWrquery h d a s
  | .laclr h a => Sys2Proof.Machine.execLaclr h a s
  | .laadd h a b u => Sys2Proof.Machine.execLaadd h a b u s
  | .ladot h a b c => Sys2Proof.Machine.execLadot h a b c s
  | .larnd h d a ty rm => Sys2Proof.Machine.execLarnd h d a ty rm s
  | .lamrg h a b => Sys2Proof.Machine.execLamrg h a b s
  | .laflg h d a => Sys2Proof.Machine.execLaflg h d a s
  | .laflgClr h d a => Sys2Proof.Machine.execLaflgClr h d a s
  | .fuse h d gs => Sys2Proof.Machine.execFuse h d gs s
  | .split h t => Sys2Proof.Machine.execSplit h t s
  | .migpt h d => Sys2Proof.Machine.execMigpt h d s
  | .lcid h d k => Sys2Proof.Machine.execLcid h d k s
  | .csrr h d csr => Sys2Proof.Machine.execCsrr h d csr s
  | .csrw h a csr => Sys2Proof.Machine.execCsrw h a csr s
  | .csrx h d a csr => Sys2Proof.Machine.execCsrx h d a csr s
  | .tlbinv h a b => Sys2Proof.Machine.execTlbinv h a b s
  | .tlbinvAll h a b => Sys2Proof.Machine.execTlbinvAll h a b s
  | .tlbinvAllP h a b => Sys2Proof.Machine.execTlbinvAllP h a b s
  | .halt h => Sys2Proof.Machine.execHalt h s
  | .keyz h d a => Sys2Proof.Machine.execKeyz h d a s
  | .skim h d a => Sys2Proof.Machine.execSkim h d a s
  | .attest h d a b => Sys2Proof.Machine.execAttest h d a b s
  | .tkrd h d => Sys2Proof.Machine.execTkrd h d s
  | .tkgive h d a b => Sys2Proof.Machine.execTkgive h d a b s
  | .quar h d a => Sys2Proof.Machine.execQuar h d a s
  | .mcread h d a => Sys2Proof.Machine.execMcread h d a s
  | .pswitch h d a b => Sys2Proof.Machine.execPswitch h d a b s
  | .fbctl h d a => Sys2Proof.Machine.execFbctl h d a s
  | .ctxld h d a => Sys2Proof.Machine.execCtxld h d a s
  | .mmt8t8 e => Sys2Proof.Machine.execMmt8t8 e s
  | .mmst8t8 e => Sys2Proof.Machine.execMmst8t8 e s
  | .mmt8bf e => Sys2Proof.Machine.execMmt8bf e s
  | .mmst8bf e => Sys2Proof.Machine.execMmst8bf e s
  | .mmbfbf e => Sys2Proof.Machine.execMmbfbf e s
  | .mmsbfbf e => Sys2Proof.Machine.execMmsbfbf e s
  | .mmf16f16 e => Sys2Proof.Machine.execMmf16f16 e s
  | .mmsf16f16 e => Sys2Proof.Machine.execMmsf16f16 e s
  | .mmi8i8 e => Sys2Proof.Machine.execMmi8i8 e s
  | .mmsi8i8 e => Sys2Proof.Machine.execMmsi8i8 e s
  | .mmt4t8 e => Sys2Proof.Machine.execMmt4t8 e s
  | .mmst4t8 e => Sys2Proof.Machine.execMmst4t8 e s
  | .mmt4t4 e => Sys2Proof.Machine.execMmt4t4 e s
  | .mmst4t4 e => Sys2Proof.Machine.execMmst4t4 e s
  | .mmx8x8 e => Sys2Proof.Machine.execMmx8x8 e s
  | .mmsx8x8 e => Sys2Proof.Machine.execMmsx8x8 e s
  | .mmx4x8 e => Sys2Proof.Machine.execMmx4x8 e s
  | .mmsx4x8 e => Sys2Proof.Machine.execMmsx4x8 e s
  | .mmx4x4 e => Sys2Proof.Machine.execMmx4x4 e s
  | .mmsx4x4 e => Sys2Proof.Machine.execMmsx4x4 e s
  | .wload e => Sys2Proof.Machine.execWload e s
  | .mxsig e => Sys2Proof.Machine.execMxsig e s
  | .cpy e => Sys2Proof.Machine.execCpy e s
  | .cpys e => Sys2Proof.Machine.execCpys e s
  | .cpyg e => Sys2Proof.Machine.execCpyg e s
  | .cpyf e => Sys2Proof.Machine.execCpyf e s
  | .cpymx e => Sys2Proof.Machine.execCpymx e s
  | .sig e => Sys2Proof.Machine.execSig e s
  | .cred e => Sys2Proof.Machine.execCred e s
  | .credx e => Sys2Proof.Machine.execCredx e s
  | .cgath e => Sys2Proof.Machine.execCgath e s
  | .cbcast e => Sys2Proof.Machine.execCbcast e s
  | .engineCommandComplete core slot => Sys2Proof.Machine.execEngineCommandComplete core slot s
  | .registerWrite master blk off val => Sys2Proof.Machine.execRegisterWrite master blk off val s
  | .devQcfgWrite master n val => Sys2Proof.Machine.execDevQcfgWrite master n val s
  | .devQheadWrite master n val => Sys2Proof.Machine.execDevQheadWrite master n val s
  | .devQtailWrite master n val => Sys2Proof.Machine.execDevQtailWrite master n val s
  | .wakeComplete die => Sys2Proof.Machine.execWakeComplete die s
  | .wakeFailure die => Sys2Proof.Machine.execWakeFailure die s
  | .packetFetch n => Sys2Proof.Machine.execPacketFetch n s
  | .queueFetchTimeout n => Sys2Proof.Machine.execQueueFetchTimeout n s
  | .launch n => Sys2Proof.Machine.execLaunch n s
  | .copy n => Sys2Proof.Machine.execCopy n s
  | .signal n => Sys2Proof.Machine.execSignal n s
  | .wait n => Sys2Proof.Machine.execWait n s
  | .waitPacketExpiry n => Sys2Proof.Machine.execWaitPacketExpiry n s
  | .contextCreate n part pcids => Sys2Proof.Machine.execContextCreate n part pcids s
  | .contextDestroy n => Sys2Proof.Machine.execContextDestroy n s
  | .migrate n target => Sys2Proof.Machine.execMigrate n target s
  | .teardown n => Sys2Proof.Machine.execTeardown n s
  | .instancePlacement tract base => Sys2Proof.Machine.execInstancePlacement tract base s
  | .instanceCompletion iid => Sys2Proof.Machine.execInstanceCompletion iid s
  | .completionRecord k => Sys2Proof.Machine.execCompletionRecord k s
  | .instructionRefill core strand => Sys2Proof.Machine.execInstructionRefill core strand s
  | .ownerClaim master => Sys2Proof.Machine.execOwnerClaim master s
  | .ownerHandover master succ => Sys2Proof.Machine.execOwnerHandover master succ s
  | .ownerRelease master => Sys2Proof.Machine.execOwnerRelease master s
  | .ownerLinkLoss => Sys2Proof.Machine.execOwnerLinkLoss s
  | .debugCancel master => Sys2Proof.Machine.execDebugCancel master s
  | .debugStopRequest master ctx lbase => Sys2Proof.Machine.execDebugStopRequest master ctx lbase s
  | .debugResume master => Sys2Proof.Machine.execDebugResume master s
  | .debugStep master => Sys2Proof.Machine.execDebugStep master s
  | .debugStop => Sys2Proof.Machine.execDebugStop s
  | .devDbgwinWrite master val => Sys2Proof.Machine.execDevDbgwinWrite master val s
  | .dieBmaskWrite part die k w fw val => Sys2Proof.Machine.execDieBmaskWrite part die k w fw val s
  | .helperResume core val => Sys2Proof.Machine.execHelperResume core val s
  | .inFieldTest core => Sys2Proof.Machine.execInFieldTest core s
  | .inFieldTestDone core passed => Sys2Proof.Machine.execInFieldTestDone core passed s
  | .quarantineClear core bits => Sys2Proof.Machine.execQuarantineClear core bits s
  | .bankRebuild core csp bank => Sys2Proof.Machine.execBankRebuild core csp bank s
  | .rebuildStripe core csp => Sys2Proof.Machine.execRebuildStripe core csp s
  | .exchangeStart core => Sys2Proof.Machine.execExchangeStart core s
  | .exchangeRecordIssue core => Sys2Proof.Machine.execExchangeRecordIssue core s
  | .exchangeReceive k => Sys2Proof.Machine.execExchangeReceive k s
  | .computeEntry iid => Sys2Proof.Machine.execComputeEntry iid s
  | .barrierRelease iid g => Sys2Proof.Machine.execBarrierRelease iid g s
  | .waitCompletion core strand => Sys2Proof.Machine.execWaitCompletion core strand s
  | .waitExpiry core strand => Sys2Proof.Machine.execWaitExpiry core strand s
  | .fuseWindowTimeout clu pos => Sys2Proof.Machine.execFuseWindowTimeout clu pos s
  | .messageDelivery k => Sys2Proof.Machine.execMessageDelivery k s
  | .pageWalk core id elem => Sys2Proof.Machine.execPageWalk core id elem s
  | .snagTimeout core idx => Sys2Proof.Machine.execSnagTimeout core idx s
  | .asyncTrapEntry core => Sys2Proof.Machine.execAsyncTrapEntry core s
  | .migrationCommit core => Sys2Proof.Machine.execMigrationCommit core s
  | .gangSwitch part => Sys2Proof.Machine.execGangSwitch part s
  | .partitionResume part => Sys2Proof.Machine.execPartitionResume part s
  | .machineCheck core strand unit lane obs expected => Sys2Proof.Machine.execMachineCheck core strand unit lane obs expected s
  | .poisonConsumption core strand cause addr => Sys2Proof.Machine.execPoisonConsumption core strand cause addr s
  | .closureCheck k => Sys2Proof.Machine.execClosureCheck k s
  | .closureTimeout k => Sys2Proof.Machine.execClosureTimeout k s
  | .thermalSample core temp => Sys2Proof.Machine.execThermalSample core temp s
  | .t4Trip die => Sys2Proof.Machine.execT4Trip die s
  | .tokenPassing => Sys2Proof.Machine.execTokenPassing s
  | .tokenAdd => Sys2Proof.Machine.execTokenAdd s
  | .ballastPass clu part => Sys2Proof.Machine.execBallastPass clu part s
  | .fieldBookStateChange core => Sys2Proof.Machine.execFieldBookStateChange core s
  | .pcSample core => Sys2Proof.Machine.execPcSample core s
  | .skimUnit die => Sys2Proof.Machine.execSkimUnit die s
  | .powerOnReset tbl => Sys2Proof.Machine.execPowerOnReset tbl s
  | .deviceReset tbl => Sys2Proof.Machine.execDeviceReset tbl s
  | .functionLevelReset tbl => Sys2Proof.Machine.execFunctionLevelReset tbl s
  | .brirusTraining port ok rate peer => Sys2Proof.Machine.execBrirusTraining port ok rate peer s
  | .trainingTimeout port => Sys2Proof.Machine.execTrainingTimeout port s
  | .brirusFlit port flit => Sys2Proof.Machine.execBrirusFlit port flit s
  | .brirusNak port seq => Sys2Proof.Machine.execBrirusNak port seq s
  | .cxlMemRequest off write data bytes => Sys2Proof.Machine.execCxlMemRequest off write data bytes s
  | .hostLinkDown => Sys2Proof.Machine.execHostLinkDown s
  | .hostLinkUp => Sys2Proof.Machine.execHostLinkUp s
  | .hostAccessTimeout core id elem => Sys2Proof.Machine.execHostAccessTimeout core id elem s
  | .memoryAccessPerformed core id elem => Sys2Proof.Machine.execMemoryAccessPerformed core id elem s
  | .waitPacketSatisfied n => Sys2Proof.Machine.execWaitPacketSatisfied n s

end Sys2Proof.Machine
end

