-- ==== Sys2Proof/Machine/Fetch.lean ====
section
/-! DEFINITION. One step of the device: the issue of a word, the run of an engine command, the passing of time, and what the environment
does besides the events of the opcode table (R53, R65, R279, R344, R356, R358, R360, R416, R425, R427, R436). -/

namespace Sys2Proof.Machine

/-! ## The issue of a word -/

/-- The strand may issue its next word: it owns a program counter, is in no wait and not stopped, and its core runs (R53) and has not yet taken
this tick's state for its field book (R366); a fused gang issues through its leader, when every member's strand is ready (R27, R28). -/
def State.canIssue (s : State) (p k : Nat) : Bool :=
  s.strandRuns p k && (s.core p).fb.closed ≠ some s.now && match (s.core p).gang with
    | none => true
    | some (_, l) => decide (p = l) && decide (k = 0) && (s.members p).all fun q => s.strandRuns q 0 && (s.core q).fb.closed ≠ some s.now

/-- The failed snag entry that a strand, or a member of its gang, takes before its next word, with its core; a control strand not in supervisor code
(R430, R436). -/
def State.failedSnag (s : State) (p k : Nat) : Option (Nat × Nat × Word) :=
  (s.members p).findSome? fun q => if k = 0 ∧ (s.core q).sup.sv then none else (s.strand q k).failed.head?.map fun x => (q, x)

/-- Cause 20 of a strand (R436). -/
def State.takeFailed (s : State) (p k : Nat) (x : Nat × Nat × Word) : State :=
  let t : Trap := { cause := 20, code := x.2.1, info := x.2.2 }
  let s1 := s.modStrand x.1 k fun y => { y with failed := y.failed.tail }
  let pc := (s.strand p k).pc
  if k = 0 then
    (s1.members p).foldl (fun y q => (y.modCore q fun c => { c with gang := none }).enterSup q 0 t (y.strand q 0).pc (y.strand q 0).pc) s1
  else s1.takeTrap p k t pc pc

/-- The core, of those that issue with a core, for whose control strand an asynchronous cause waits, outside supervisor code (R427). -/
def State.asyncDue (s : State) (p k : Nat) : Option Nat :=
  if k = 0 then (s.members p).find? fun q => !(s.core q).sup.sv && (s.core q).sup.nextAsync.isSome else none

/-- The repetition buffer of a strand after a fetch: it takes a word of an open body, and holds none of a body that is closed or left (R75, R76). -/
def State.buffered (s : State) (p k : Nat) (w : Word) : State :=
  let t := s.strand p k
  if s.inBody p k then s.modStrand p k fun t => { t with body := put t.pc.toNat w t.body }
  else if t.body.isEmpty then s
  else s.modStrand p k fun t => { t with body := [] }

/-- The word that strand `k` of core `p` fetches runs: decoded and executed, or an illegal instruction (R183, R425). -/
def State.runFetched (s : State) (p k : Nat) (w : Word) : Host.Outcome State Fault Refusal :=
  let s1 := { s.buffered p k w with focus := { pcid := p, strand := k, slot := 0, word := w } }
  match decodeWord w with
  | .ok i => exec i s1
  | .error _ => .next (s1.trapAll k (s1.wordTrap 1) (s1.members p))

/-- A fetch of a word that the program does not have: cause 11 at the target (R65, R425). -/
def State.fetchFault (s : State) (p k : Nat) : State :=
  s.trapAll k { cause := 11, code := 0, info := (s.strand p k).pc } (s.members p)

/-- The fetch: late results that are due have landed; the word comes from the repetition buffer or from the core's instruction store, which is refilled
from the program's image first where it does not hold the word (R75, R344). -/
def State.fetch (s0 : State) (p k : Nat) : Host.Outcome State Fault Refusal :=
  let s := (s0.members p).foldl (fun x q => x.modCore q Core.land) s0
  let pc := (s.strand p k).pc
  match s.wordAt p k with
  | some w => s.runFetched p k w
  | none =>
    match s.imageWord p pc with
    | some _ => execInstructionRefill p k s
    | none => .next (s.fetchFault p k)

/-- What a fetch of a strand brings about issues a word of its core: its program-order numbers go on, or the word's trap stops the strand. -/
def State.issues (s : State) (p k : Nat) : Bool :=
  s.canIssue p k && (s.failedSnag p k).isNone && (s.asyncDue p k).isNone && (s.wordAt p k).isSome &&
    match s.fetch p k with
    | .next t => decide ((t.core p).seq ≠ (s.core p).seq) || (t.strand p k).stopped || !(t.strand p k).live
    | _ => false

/-- Another ready strand of the core has gone longer without issuing: the arbiter takes that one first (R53). -/
def State.ahead (s : State) (p k : Nat) : Bool :=
  (s.core p).strands.any fun t => decide (t.1 ≠ k) && decide (t.2.age < (s.strand p k).age) && s.issues p t.1

/-- A strand's turn: a failed snag entry, then an asynchronous cause, then its next word when the arbiter takes it (R53, R427, R436). -/
def State.issue (s : State) (p k : Nat) : Host.Outcome State Fault Refusal :=
  if !s.canIssue p k then .fault .notReady
  else
    match s.failedSnag p k with
    | some x => .next (s.takeFailed p k x)
    | none => match s.asyncDue p k with
      | some q => execAsyncTrapEntry q s
      | none => if s.ahead p k then .fault .notReady else s.fetch p k

/-! ## The run of a command -/

/-- The oldest command of a chain slot runs: the meaning of its opcode (R310). -/
def State.runEngine (s : State) (p slot : Nat) : Host.Outcome State Fault Refusal :=
  match (s.core p).headCmd slot with
  | none => .fault .notEnabled
  | some m =>
    let s1 := { s with focus := { pcid := p, strand := m.strand, slot := slot, word := 0 } }
    runCmd m.eop m.ecw (runnerOf m.eop) s1

/-! ## The passing of time (R17, R19, R356, R357) -/

/-- Arithmetic cycles of a cluster's clock from tick `a` to tick `b`. -/
def cyclesIn (freq a b : Nat) : Nat := b * freq / 10 - a * freq / 10

/-- A core after some ticks: its cycles, and no word issued yet in the new tick. -/
def Core.pass (c : Core) (n : Nat) : Core := { c with cycle := c.cycle + n, fb := { c.fb with ran := false } }.land

/-- What a core owes in this tick: what comes before the change of its field-book state, and that change (R366). -/
def coreDue (p : Nat) (c : Core) : List (State → Host.Outcome State Fault Refusal) := coreOwes p c ++ [execFieldBookStateChange p]

/-- What an instance owes: the releases of its barriers, its entry into Compute (R35, R286). -/
def instDue (n : Nat) : List (State → Host.Outcome State Fault Refusal) :=
  [execBarrierRelease n 1, execBarrierRelease n 2, execBarrierRelease n 3, execComputeEntry n]

/-- The ballast of an array that its 100 ns would leave too far fallen (R362). -/
def State.ballastOwed (s : State) (clu : Nat) (c : Cluster) : List (State → Host.Outcome State Fault Refusal) :=
  if s.now % 100 = 99 ∧ 0 < s.charge (8 * clu) 17 then c.draws.map fun d => execBallastPass clu d.part else []

/-- The steps that this tick owes, before the next one begins: tokens that arrive come first, and the passing comes last (R350, R351, R357, R360,
R378, R411). -/
def State.due (s : State) : List (State → Host.Outcome State Fault Refusal) :=
  execOwnerLinkLoss :: execTokenAdd :: (s.cores.flatMap fun c => coreDue c.1 c.2) ++ (s.insts.flatMap fun i => instDue i.1) ++
  (s.clusters.flatMap fun c => s.ballastOwed c.1 c.2) ++
  ((List.range s.closures.length).map fun k => execClosureTimeout k) ++ (s.ports.map fun x => execTrainingTimeout x.1) ++
  execDebugStop :: (s.queues.flatMap fun q => [execWaitPacketSatisfied q.1, execWaitPacketExpiry q.1, queueFetchOwed q.1]) ++
  (s.parts.flatMap fun x => [execGangSwitch x.1, execPartitionResume x.1]) ++ [execTokenPassing]

/-- A twin or its mate is stopped in this tick (R412). -/
def State.pairAway (s : State) (c : Core) : Bool :=
  match c.place with
  | some pl => pl.twin ≠ 0 && (c.stop.isSome || (s.core pl.mate).stop.isSome)
  | none => false

/-- One tick passes, unless this one still owes a step. -/
def State.tick1 (s : State) : Host.Outcome State Fault Refusal :=
  if s.due.any fun f => isNext (f s) then .fault .notEnabled
  else
    let cyc (p : Nat) : Nat := cyclesIn (s.cluster (cluOf p)).freq s.now (s.now + 1)
    .next { s with now := s.now + 1, cores := s.cores.map fun c => (c.1, { c.2.pass (cyc c.1) with
      pairStops := c.2.pairStops + (if s.pairAway c.2 then 1 else 0) }) }

/-- Ticks pass, one by one, with nothing between them. -/
def State.tick (s : State) : Nat → Host.Outcome State Fault Refusal
  | 0 => .fault .notEnabled
  | 1 => s.tick1
  | n + 2 => match s.tick1 with
    | .next t => t.tick (n + 1)
    | x => x

/-! ## What the environment does besides the events -/

/-- A codeword of a memory turns uncorrectable (R416). -/
def State.spoil (s : State) (l : Nat) : State := { s with poison := addNat (codeword l).1 s.poison }

/-- A word of a register row turns uncorrectable. -/
def State.spoilRow (s : State) (p w : Nat) : State := s.modCore p fun c => { c with bad := addNat w c.bad }

/-- Word `w` of the planes of the residency that holds a plane unit turns uncorrectable. -/
def State.spoilPlane (s : State) (clu u w : Nat) : State :=
  s.modCluster clu fun c => { c with residencies := c.residencies.map fun r => if r.mask.testBit u then { r with bad := addNat w r.bad } else r }

/-- A word of the die's copy of a tract's code image turns uncorrectable. -/
def State.spoilCode (s : State) (t w : Nat) : State := s.modTract t fun x => { x with lostWords := addNat w x.lostWords }

/-- A corrected symbol of a TCM or of a scratchpad is counted; a rebuilt array corrects none (R413, R414). -/
def State.corrected (s : State) (p : Nat) (csp : Bool) : Host.Outcome State Fault Refusal :=
  if csp then
    if 1 < (s.cluster (cluOf p)).cspState then .fault .notEnabled
    else .next (s.modCluster (cluOf p) fun c => { c with cspCorr := (c.cspCorr + 1) % 2 ^ 32 })
  else if 1 < (s.core p).health.eccState then .fault .notEnabled
  else .next (s.modCore p fun c => { c with health := { c.health with corr := (c.health.corr + 1) % 2 ^ 32 } })

/-- A die may be power-gated: it is not die 0, no core of it is placed and no queue of it runs (log entry 44). -/
def State.mayGate (s : State) (d : Nat) : Bool :=
  decide (0 < d) && decide (d < s.dieCount) && !(s.die d).gated && s.answers &&
    (s.cores.all fun c => dieOf c.1 ≠ d || c.2.place.isNone) && s.queues.all fun q => q.2.die ≠ d || q.2.state ≠ 2

/-- A core of the plumb column begins with words of the firmware image, window base 0 and limit 256 (R58, R381, R464; log entry 8). -/
def Core.boots (c : Core) (pc : Word) (ws : List Word) (s8 s9 : Word) : Core :=
  { c.blendRow 1 (rowMask 0 128) ((s9 ++ s8).zeroExtend 512) with
    strands := put 0 { Strand.idle with live := true, pc := pc, wl := 256, el := 1024 } c.strands
    istore := ((ws.take 4096).zip (List.range 4096)).map fun x => (pc.toNat + 8 * x.2, x.1) }

/-- Felcia begins a strand with words of the firmware image on a core of the plumb column. Where a teardown's routine is to be entered on the core, it is
entered, with `s8` the die's number and `s9` as it is due (R464). -/
def State.startFirmware (s : State) (p : Nat) (pc : Word) (ws : List Word) (s8 s9 : Word) : Host.Outcome State Fault Refusal :=
  let d := dieOf p
  let due := if p = s.routineCore d then (s.die d).enter else none
  if s.isPlumb p && s.answers && s.isCore p && !(s.strand p 0).live && decide (pc.toNat % 8 = 0) &&
      (due.all fun v => s8 = word64 d && s9 = word64 v) then
    .next ((s.modCore p fun c => c.boots pc ws s8 s9).modDie d fun x => { x with enter := if due.isSome then none else x.enter })
  else .fault .notEnabled

/-- What an action does. -/
def State.act (s : State) : Action → Host.Outcome State Fault Refusal
  | .issue p k => s.issue p k
  | .engine p slot => s.runEngine p slot
  | .ev i => exec i s
  | .tick n => s.tick n
  | .evict lvl unit idx => .next (s.evictTlb lvl unit idx)
  | .poison l => .next (s.spoil l)
  | .poisonRow p w => .next (s.spoilRow p w)
  | .poisonPlane c u w => .next (s.spoilPlane c u w)
  | .poisonCode t w => .next (s.spoilCode t w)
  | .corrected p csp => s.corrected p csp
  | .gate d => if s.mayGate d then .next (s.modDie d fun x => { x with gated := true }) else .fault .notEnabled
  | .migrate p q => s.ownRequest p q
  | .arrive p => s.arrive p
  | .bookWrite p => s.fbFlush p
  | .firmware p pc ws s8 s9 => s.startFirmware p pc ws s8 s9

/-! ## The step that comes when the environment chooses none (log entry 3) -/

/-- The first of some steps that the state allows. -/
def firstStep (s : State) : List (State → Host.Outcome State Fault Refusal) → Host.Outcome State Fault Refusal
  | [] => .fault .idle
  | f :: r => match f s with
    | .next t => .next t
    | _ => firstStep s r

/-- The steps of a core that need no choice: its accesses, walks, waits, commands. -/
def coreSteps (p : Nat) (c : Core) : List (State → Host.Outcome State Fault Refusal) :=
  (c.ops.flatMap fun o => [execMemoryAccessPerformed p o.id o.elem, execPageWalk p o.id o.elem]) ++
  (c.strands.map fun t => execWaitCompletion p t.1) ++
  (c.chains.flatMap fun x => [execEngineCommandComplete p x.1, fun s => s.runEngine p x.1]) ++
  [execExchangeStart p, execExchangeRecordIssue p, fun s => s.arrive p]

/-- The steps of an instance that need no choice. -/
def instSteps (n : Nat) : List (State → Host.Outcome State Fault Refusal) :=
  [execBarrierRelease n 1, execBarrierRelease n 2, execBarrierRelease n 3, execComputeEntry n, execInstanceCompletion n]

/-- The steps of the whole device that need no choice. -/
def freeSteps (s : State) : List (State → Host.Outcome State Fault Refusal) :=
  (s.cores.flatMap fun c => coreSteps c.1 c.2) ++ (s.insts.flatMap fun i => instSteps i.1) ++
  ((List.range s.transfers.length).map fun k => execExchangeReceive k) ++
  ((List.range s.messages.length).map fun k => execMessageDelivery k) ++
  ((List.range s.closures.length).map fun k => execClosureCheck k) ++
  ((List.range s.records.length).map fun k => execCompletionRecord k)

/-- A strand before those that have issued later. -/
def byAge (t : Nat × Strand) : List (Nat × Strand) → List (Nat × Strand)
  | [] => [t]
  | x :: r => if t.2.age < x.2.age then t :: x :: r else x :: byAge t r

/-- Strands that may issue, on each core the one that has gone longest without issuing first (R53). -/
def State.ready1 (s : State) : List (Nat × Nat) :=
  s.cores.flatMap fun c => ((c.2.strands.filter fun t => s.canIssue c.1 t.1).foldr byAge []).map fun t => (c.1, t.1)

/-- The turns of ready strands, one after the other; a strand that is held at issue passes its turn. -/
def turns : List (Nat × Nat) → State → Option State
  | [], _ => none
  | (p, k) :: r, s =>
    match s.issue p k with
    | .next t => if { t with focus := s.focus } = s then turns r s else some t
    | _ => turns r s

/-- The step of a device whose environment names none: what needs no choice, else the turn of a strand, else what the tick owes, and one tick; a
device without a placed or running core waits for its host. -/
def State.auto (s : State) : Host.Outcome State Fault Refusal :=
  match firstStep s (freeSteps s) with
  | .next t => .next t
  | _ =>
    match turns s.ready1 s with
    | some t => .next t
    | none =>
      match firstStep s s.due with
      | .next t => .next t
      | _ => if s.cores.any fun c => c.2.strands.any fun t => t.2.live then s.tick1 else .fault .idle

/-! ## The fetch of a word that is given (for `withFetchWord`) -/

/-- A core whose strand's next word is `w`, with nothing pending that would come before it, nor another strand. -/
def Core.ready (c : Core) (k : Nat) (w : Word) : Core :=
  let t := c.strand k
  let t1 : Strand := if t.live then t else { t with live := true, wb := 0, wl := 256, eb := 0, el := 1024 }
  { c.setStrand k { t1 with
      wait := none, endedBy := none, fuse := none, readyAt := 0, age := 0, stopped := false, past := false, aside := [], failed := [], body := [] } with
    istore := put t1.pc.toNat w c.istore
    stop := none, halt := false, resumeAt := 0, gang := none
    fb := { c.fb with closed := none }
    sup := { c.sup with stopPend := [], snagPend := 0, reports := [] } }

/-- A core whose chain slot holds one command, which may run. -/
def Core.readyCmd (c : Core) (slot eop : Nat) (e : Ecw) : Core :=
  let m := Cmd.fresh 1 eop e 0 0 0 false c.table []
  { c with chains := put slot { look Chain.free slot c.chains with
      bound := true, eng := (eopEngine eop).getD 0, appended := 1, completed := 0, cmds := [m] } c.chains }

end Sys2Proof.Machine
end

