-- ==== Sys2Proof/Machine/Step.lean ====
section
/-! DEFINITION. The step of the device, and where it finds its next instruction. -/

namespace Sys2Proof.Machine

/-- One step: the environment's next choice, or, with none, the device's own (log entries 2 and 3). -/
def step (s : State) : Host.Outcome State Fault Refusal :=
  match s.agenda with
  | [] => s.auto
  | a :: r => { s with agenda := r }.act a

/-- The state with an instruction where the step fetches its next one: a 64-bit word at the program counter of the strand in focus, or a
256-bit command word as the oldest of the slot in focus; the next step runs it. -/
def State.withFetchWord (s : State) (nbits w : Nat) : State :=
  let p := s.focus.pcid
  if nbits ≤ 64 then
    { s.modCore p (fun c => c.ready s.focus.strand (BitVec.ofNat 64 w)) with agenda := [.issue p s.focus.strand] }
  else
    let x := BitVec.ofNat 256 w
    { s.modCore p (fun c => c.readyCmd s.focus.slot (fieldNat x 56 8) (Ecw.ofBits x)) with agenda := [.engine p s.focus.slot] }

end Sys2Proof.Machine
end

