-- ==== Sys2Proof/Safety.lean ====
section
/-! DEFINITION. What statements about the machine are said with: when a word issues, what a word's effect leaves. -/

namespace Sys2Proof.Machine

/-- Every member of the gang of the strand in focus passes the checks of a word: it meets no trap, its operands can be read and written,
and its charge can be paid (R53, R62, R68, R69, R358, R426). A core that is not fused is the one member of its gang. -/
abbrev Clear (h : Hdr) (w : WordSpec) (s : State) : Prop :=
  s.members s.focus.pcid ≠ [] ∧ s.checkAll s.focus.strand h w (s.members s.focus.pcid) = .go

/-- The state in which a word has issued on every member and has had no effect yet. -/
def State.begun (s : State) (w : WordSpec) : State :=
  (s.members s.focus.pcid).foldl (fun x q => x.issued q s.focus.strand w) s

/-- The execution predicate keeps a word from acting on a strand (R63, R173). -/
def WordSpec.off (w : WordSpec) (h : Hdr) (p k : Nat) (s : State) : Bool := w.gated && !(s.pred p k h.eq.toNat).getLsbD 0

/-- An effect on one member, where its execution predicate lets the word act. -/
def WordSpec.on (w : WordSpec) (h : Hdr) (eff : Nat → Nat → State → State) (k p : Nat) (s : State) : State :=
  if w.off h p k s then s else eff p k s

/-- The state after a word with an effect on each member in turn. -/
def State.went (s : State) (h : Hdr) (w : WordSpec) (eff : Nat → Nat → State → State) : State :=
  (s.members s.focus.pcid).foldl (fun x p => w.on h eff s.focus.strand p x) (s.begun w)

/-- The state after a word with an effect on each member in turn, and after its selector (R174, R175). -/
def State.ran (s : State) (h : Hdr) (w : WordSpec) (eff : Nat → Nat → State → State) : State :=
  (s.went h w eff).selectAll (if w.cls.seesOwn then s.went h w eff else s) s.focus.strand h (s.members s.focus.pcid)

/-- A condition holds for each of some members in the state that the effects on those before it leave. -/
def Each (ok : Nat → State → Prop) (eff : Nat → State → State) : List Nat → State → Prop
  | [], _ => True
  | p :: r, s => ok p s ∧ Each ok eff r (eff p s)

/-- A word passes its checks, and on each member that its predicate lets it act on the condition of its effect holds. -/
def Able (h : Hdr) (w : WordSpec) (ok : Nat → Nat → State → Prop) (eff : Nat → Nat → State → State) (s : State) : Prop :=
  Clear h w s ∧ Each (fun p x => w.off h p s.focus.strand x = false → ok p s.focus.strand x) (w.on h eff s.focus.strand)
    (s.members s.focus.pcid) (s.begun w)

/-- Wherever its word passes the checks, an instruction completes with an effect on each member of the gang. -/
def Runs (i : Instr) (h : Hdr) (w : WordSpec) (eff : Nat → Nat → State → State) : Prop :=
  ∀ s, Clear h w s → exec i s = .next (s.ran h w eff)

/-- S[D] := a value, with a latency. -/
def intoS (lat : Nat) (d : BitVec 8) (v : Nat → Nat → State → Word) : Nat → Nat → State → State := fun p k x => x.wS p k lat d (v p k x)

/-- S[D] := f of S[A]. -/
def ofA (lat : Nat) (d a : BitVec 8) (f : Word → Word) : Nat → Nat → State → State := intoS lat d fun p k x => f (x.rS p k 1 a)

/-- S[D] := f of S[A] and S[B]. -/
def ofAB (lat : Nat) (d a b : BitVec 8) (f : Word → Word → Word) : Nat → Nat → State → State :=
  intoS lat d fun p k x => f (x.rS p k 1 a) (x.rS p k 2 b)

/-- S[D] := a value of an effect under bit 0 of EQ, as a class V word writes a scalar (R237). -/
def intoSq (h : Hdr) (lat : Nat) (d : BitVec 8) (v : Nat → Nat → State → Word) : Nat → Nat → State → State := fun p k x =>
  if (x.pred p k h.eq.toNat).getLsbD 0 then x.wS p k lat d (v p k x) else x

/-- Row D := lanes of `w` bits, written where EQ enables the lane (R237). -/
def intoV (h : Hdr) (lat w : Nat) (d : BitVec 8) (v : Nat → Nat → State → List Nat) : Nat → Nat → State → State := fun p k x =>
  x.putLanes p k lat w h d (v p k x)

/-- Lane by lane: f of a row A under a modifier. -/
def lanesA (h : Hdr) (lat w : Nat) (d a : BitVec 8) (m : BitVec 12) (f : Nat → Nat) : Nat → Nat → State → State :=
  intoV h lat w d fun p k x => (lanesOf w (modified m 0 (x.rV p k 1 a))).map f

/-- Lane by lane: f of rows A and B under a modifier. -/
def lanesAB (h : Hdr) (lat w : Nat) (d a b : BitVec 8) (m : BitVec 12) (f : Nat → Nat → Nat) : Nat → Nat → State → State :=
  intoV h lat w d fun p k x => List.zipWith f (lanesOf w (modified m 0 (x.rV p k 1 a))) (lanesOf w (modified m 1 (x.rV p k 2 b)))

/-- Lane by lane: f of rows A, B and C. -/
def lanesABC (h : Hdr) (lat w : Nat) (d a b c : BitVec 8) (f : Nat → Nat → Nat → Nat) : Nat → Nat → State → State :=
  intoV h lat w d fun p k x =>
    (List.range (512 / w)).map fun i =>
      f ((lanesOf w (x.rV p k 1 a)).getD i 0) ((lanesOf w (x.rV p k 2 b)).getD i 0) ((lanesOf w (x.rV p k 3 c)).getD i 0)

/-- Q[D] := bits, written where EQ is 1; a write of q0 has no effect (R237). -/
def intoQ (h : Hdr) (q : BitVec 3) (v : Nat → Nat → State → BitVec 16) : Nat → Nat → State → State := fun p k x =>
  x.wQmask p k 1 q (x.pred p k h.eq.toNat) (v p k x)

/-- An instruction completes with an effect, and then its selector, wherever its word passes the checks and the condition of the effect holds
on each member that its predicate lets it act on. -/
def RunsIf (i : Instr) (h : Hdr) (w : WordSpec) (ok : Nat → Nat → State → Prop) (eff : Nat → Nat → State → State) : Prop :=
  ∀ s, Able h w ok eff s → exec i s = .next (s.ran h w eff)

/-- The same for a word that says itself where its strand goes on, or that leaves its strand waiting. -/
def GoesIf (i : Instr) (h : Hdr) (w : WordSpec) (ok : Nat → Nat → State → Prop) (eff : Nat → Nat → State → State) : Prop :=
  ∀ s, Able h w ok eff s → exec i s = .next (s.went h w eff)

/-- The condition under which a word's own trap is taken: the core is not fused, and the word acts. -/
abbrev Alone (h : Hdr) (w : WordSpec) (s : State) : Prop :=
  (s.core s.focus.pcid).gang = none ∧ Clear h w s ∧ w.off h s.focus.pcid s.focus.strand (s.begun w) = false

/-- An instruction on a core that is not fused raises a trap where a condition holds: the trap is taken and the word has no effect. A cause that a
header may delegate waits for a pending write of that header (R69, R427). -/
def TrapsIf (i : Instr) (h : Hdr) (w : WordSpec) (ok : Nat → Nat → State → Prop) (t : Nat → Nat → State → Trap) : Prop :=
  ∀ s, Alone h w s → ok s.focus.pcid s.focus.strand (s.begun w) →
    s.trapHeld s.focus.strand (t s.focus.pcid s.focus.strand (s.begun w)) [s.focus.pcid] = false →
    exec i s = .next (s.trapAll s.focus.strand (t s.focus.pcid s.focus.strand (s.begun w)) [s.focus.pcid])

/-- The header of a strand lets the first causes of a word be decided: no write of it is pending that the word reads, and it can be read (R69,
R417). -/
abbrev State.HeaderClear (s : State) (p k : Nat) (h : Hdr) (w : WordSpec) : Prop :=
  s.headerHeld p k h w = false ∧ (s.readsHeader p k h w && (s.core p).rowBad (s.strand p k).wb) = false

/-- What a wait word begins on a strand: what it waits for, its deadline scalar, whether stopped ticks count, its status scalar, and the
state in which it begins. -/
structure WaitForm where
  first : Nat → Nat → State → State
  kind : Nat → Nat → State → WaitKind
  deadline : Nat → Nat → State → Word
  wall : BitVec 1
  dest : Nat → Nat → State → Option Dest

/-- The wait of a wait word (R277, R278). -/
def WaitForm.wait (f : WaitForm) (h : Hdr) (p k : Nat) (x : State) : Wait :=
  (f.first p k x).newWait p (f.kind p k x) (f.deadline p k x) f.wall (f.dest p k x) h

/-- A wait word ends at once where its condition holds, with that status; it ends at once as a poll where its deadline is 0 and no step of this tick
would complete it; else the strand waits (R277, R279). -/
def WaitsFor (i : Instr) (h : Hdr) (w : WordSpec) (ok : Nat → Nat → State → Prop) (f : WaitForm) : Prop :=
  (∀ st, RunsIf i h w (fun p k x => ok p k x ∧ (f.first p k x).paired p = false ∧ (f.first p k x).waitStatus p k (f.wait h p k x) = some st)
    (fun p k x => (f.first p k x).endEffects p k (f.wait h p k x) st)) ∧
  RunsIf i h w (fun p k x => ok p k x ∧ (f.first p k x).paired p = false ∧
      (f.first p k x).waitStatus p k (f.wait h p k x) = none ∧ (f.wait h p k x).deadline = 0 ∧
      (f.first p k x).endsNow p (f.wait h p k x) = false)
    (fun p k x => (f.first p k x).endEffects p k (f.wait h p k x) ((f.first p k x).expiryStatus p k (f.wait h p k x))) ∧
  GoesIf i h w (fun p k x => ok p k x ∧ ((f.first p k x).paired p = true ∨
      ((f.first p k x).waitStatus p k (f.wait h p k x) = none ∧
        ((f.wait h p k x).deadline ≠ 0 ∨ (f.first p k x).endsNow p (f.wait h p k x) = true))))
    (fun p k x => (f.first p k x).hold p k (f.wait h p k x))

/-- Memory operations of a strand may issue now: nothing faulted waits for a run of the ring while the word is of class M (R434), no older access on the
snag ring holds them (R473), every count has room (R128), and where the core has no ring none would fault (R432). -/
abbrev State.MayIssue (s : State) (p k : Nat) (l : List MemOp) : Prop :=
  (s.classM && (s.core p).pathFull) = false ∧ (∀ o ∈ l, ∀ x ∈ (s.core p).snagOps, x.snagHolds o = false) ∧
  s.countRoom p k l = true ∧
  (2 ≤ (s.core p).sup.tcmLen ∨ ∀ o ∈ l, s.faultNow p o = none)

/-- The core's operations after those of a word have issued: youngest last. -/
def State.withOps (s : State) (p : Nat) (l : List MemOp) : State := s.modCore p fun c => { c with ops := c.ops ++ l }

/-- The number that an access which writes a register returns: a load the bytes that its strand sees, or full-empty bits where it is one of a
FERD; a returning atomic the old bytes (R111, R269, R272, R274, R275). -/
def State.returned (s : State) (p : Nat) (o : MemOp) (l : Nat) : Nat :=
  if o.ferd then (if s.seenFull p o l then 1 else 0)
  else if o.kind = .atomic then (extend o.sz (s.loadNat l o.bytes)).toNat
  else (extend o.sz (s.seen p o l)).toNat

/-- An operation in flight is performed when its turn has come, where it leads: its effect takes place at its location, and the number that it
returns lands in its register, at once, or in its order where an older write of the word is pending or the row is locked; that of an LDS stays with its wait,
whose end writes it (R68, R73, R113, R266, R272). -/
def State.Lands (s : State) (p : Nat) (o : MemOp) : Prop :=
  (s.core p).opAt o.id o.elem = some o → s.opReady p o = true → s.paired p = false →
  ∀ l rs host, s.access p o = .loc l rs host → s.mayPerform p o l host = true →
    let t := (s.pay p 0 (s.accessCharge p l o.bytes)).perform p o l rs host
    exec (.memoryAccessPerformed p o.id o.elem) s = .next t ∧
    (o.kind = .load ∨ (o.kind = .atomic ∧ (host = false ∨ s.rollbackMode p = false)) → ∀ r, o.row = some r →
      let m := rowMask o.bit o.width
      let v : Row := BitVec.ofNat 512 (s.returned p o l % 2 ^ o.width * 2 ^ o.bit)
      if (s.core p).blocked o.id r m = false ∧ (s.core p).locked r = false then t.row p r = blend (s.row p r) m v
      else { id := o.id, due := (s.core p).cycle + 1, row := r, mask := m, value := v } ∈ (t.core p).late) ∧
    (o.kind = .lds → ∀ w v, (s.strand p o.strand).wait = some w → w.kind = .lds o.id none v →
      (t.strand p o.strand).wait = some { w with kind := .lds o.id (some 0) (BitVec.ofNat 64 (s.returned p o l)) })

/-- A word issues memory operations where a condition holds, with what it does beside, and so completes: each of the operations is performed
when its turn has come, from the state that the word leaves on. -/
def IssuesAnd (i : Instr) (h : Hdr) (w : WordSpec) (ok : Nat → Nat → State → Prop) (l : Nat → Nat → State → List MemOp)
    (after : Nat → Nat → State → State → State) : Prop :=
  RunsIf i h w (fun p k x => ok p k x ∧ x.MayIssue p k (l p k x)) (fun p k x => after p k x (x.withOps p (l p k x))) ∧
  ∀ s t, Able h w (fun p k x => ok p k x ∧ x.MayIssue p k (l p k x)) (fun p k x => after p k x (x.withOps p (l p k x))) s →
    exec i s = .next t → ∀ p ∈ s.members s.focus.pcid, ∀ o ∈ l p s.focus.strand (s.begun w), t.Lands p o

/-- A word issues memory operations where a condition holds, and nothing else. -/
def IssuesIf (i : Instr) (h : Hdr) (w : WordSpec) (ok : Nat → Nat → State → Prop) (l : Nat → Nat → State → List MemOp) : Prop :=
  IssuesAnd i h w ok l fun _ _ _ y => y

/-- A memory word issues its operations, whose addresses are multiples of `n`, and traps with the alignment fault at the first that is
not (R266). -/
def Issues (i : Instr) (h : Hdr) (w : WordSpec) (n : Nat) (l : Nat → Nat → State → List MemOp) : Prop :=
  IssuesIf i h w (fun p k x => ∀ o ∈ l p k x, o.va.toNat % n = 0) l ∧
  ∀ o, TrapsIf i h w (fun p k x => (l p k x).find? (fun o => o.va.toNat % n ≠ 0) = some o) (fun _ _ _ => { cause := 6, code := 0, info := o.va })

/-- The tile that a tile word names for a core, brought back into its slots where it was saved; none where the word names no live claim
of the core, while a command names the tile, and while its slots are taken (R316, R317). -/
def State.openTile (s : State) (p : Nat) (w : Word) : Option (State × Tile) :=
  match s.tileOf p w with
  | none => none
  | some t => if (s.core p).tileBusy t then none else s.touch (cluOf p) t

/-- An effect on an opened tile. -/
def withTile (w : Nat → Nat → State → Word) (f : Nat → Nat → State → State → Tile → State) : Nat → Nat → State → State := fun p k x =>
  match x.openTile p (w p k x) with
  | some (y, t) => f p k x y t
  | none => x

/-- The tile that a word names can be opened, and a condition holds of it. -/
def tileIs (w : Nat → Nat → State → Word) (ok : Nat → Nat → State → State → Tile → Prop) : Nat → Nat → State → Prop := fun p k x =>
  ∃ y t, x.openTile p (w p k x) = some (y, t) ∧ ok p k x y t

/-- A long accumulator that an address names for a strand can be used: it lies in the core's TCM, no older operation touches it, the words
read hold no error, and word 0 has its fixed fields zero (R103, R104, R328). -/
def accIs (va : Nat → Nat → State → Word) (reads : Nat → Nat → State → List Nat) : Nat → Nat → State → Prop := fun p k x =>
  ∃ l, x.objectAt p k (va p k x) = .ok l ∧ x.objectHeld p k (va p k x) = false ∧
    (∀ i ∈ reads p k x, x.poisoned (l + 8 * i) 8 = false) ∧ badWord0 (x.loadWord l) = false

/-- The location of the accumulator that an address names. -/
def accLoc (va : Nat → Nat → State → Word) (p k : Nat) (x : State) : Nat :=
  match x.objectAt p k (va p k x) with
  | .ok l => l
  | .error _ => 0

/-- The state after the charge of the reads of `n` words of an accumulator. -/
def State.accPaid (x : State) (p n : Nat) : State := x.pay p 0 (n * x.charge p 4)

/-- An accumulator word may write an object: the hawk holds the charge of its reads, and its stores may issue (R104, R358). -/
def accMayWrite (va : Nat → Nat → State → Word) (n : Nat → Nat → State → Nat) (z : Nat → Nat → State → Acc) (p k : Nat) (x : State) : Prop :=
  x.canPay p (n p k x * x.charge p 4) = true ∧
    (x.accPaid p (n p k x)).MayIssue p k (x.accOps p k (accLoc va p k x) (va p k x) (z p k x))

/-- The state after an accumulator word has issued the stores of an object. -/
def accWritten (va : Nat → Nat → State → Word) (n : Nat → Nat → State → Nat) (z : Nat → Nat → State → Acc) (p k : Nat) (x : State) : State :=
  (x.accPaid p (n p k x)).withOps p (x.accOps p k (accLoc va p k x) (va p k x) (z p k x))

/-- The stage in which a copy, a signal, a collective or a matrix command has no work left to begin. -/
def lastStage (eop : Nat) : Nat :=
  if eop ≤ 0x1A then 6 else if eop = 0x42 ∨ 0x60 ≤ eop then 3 else 2

/-- The opcode of each engine command and what it does (R186, R312, R323, R324, R327). -/
noncomputable def commandsOf (e : Ecw) : List (Instr × Nat × Runner) :=
  [(.mmt8t8 e, 0x01, matrixRun), (.mmt8bf e, 0x02, matrixRun), (.mmbfbf e, 0x03, matrixRun), (.mmf16f16 e, 0x04, matrixRun),
   (.mmi8i8 e, 0x05, matrixRun), (.mmt4t8 e, 0x06, matrixRun), (.mmt4t4 e, 0x07, matrixRun), (.mmx8x8 e, 0x08, matrixRun),
   (.mmx4x8 e, 0x09, matrixRun), (.mmx4x4 e, 0x0A, matrixRun), (.mmst8t8 e, 0x11, matrixRun), (.mmst8bf e, 0x12, matrixRun),
   (.mmsbfbf e, 0x13, matrixRun), (.mmsf16f16 e, 0x14, matrixRun), (.mmsi8i8 e, 0x15, matrixRun), (.mmst4t8 e, 0x16, matrixRun),
   (.mmst4t4 e, 0x17, matrixRun), (.mmsx8x8 e, 0x18, matrixRun), (.mmsx4x8 e, 0x19, matrixRun), (.mmsx4x4 e, 0x1A, matrixRun),
   (.wload e, 0x20, wloadRun), (.mxsig e, 0x21, sigRun), (.cpy e, 0x40, cpyRun false), (.cpys e, 0x41, cpysRun), (.cpyg e, 0x42, cpygRun),
   (.cpyf e, 0x43, cpyRun true), (.cpymx e, 0x44, cpymxRun), (.sig e, 0x45, sigRun), (.cred e, 0x60, credRun), (.credx e, 0x61, credxRun),
   (.cgath e, 0x62, collCopyRun true), (.cbcast e, 0x63, collCopyRun false)]

/-- What a word leaves alone of its own core: everything but the register rows and their pending writes, the strands, the count of words,
the hawk, the counts of lost reads with the word that the next may pair with, and the field book's own records. -/
def Core.kept (c : Core) : Core :=
  { c with rows := [], bad := [], late := [], strands := [], seq := 0, power := { c.power with tokens := 0, frac := 0 },
           rbloss := [], first := none, fb := { c.fb with ctl := 0, head := 0, lost := 0, last := 0, ran := false, recent := 0, busy := 0 } }

/-- What a word leaves alone of the device outside the cores, whatever its selector: everything but the energy accounts, the instances
that an END reaches, and the memory, the residencies, saved ones too, and the poison that a field-book record touches. -/
def State.kept (s : State) : State :=
  { s with cores := [], clusters := [], parts := [], mem := [], keyed := [], poison := [], insts := [], enctx := [], enovh := [] }

/-- What a word leaves alone of its own core, also where its selector makes a record for the field book: that record may wait for the host link, and its
write may install a translation (R99, R370, R448). -/
def Core.keptTraced (c : Core) : Core := { c.kept with utlb := [], fb := { c.kept.fb with pend := [] } }

/-- What a word leaves alone of the device outside the cores, also where its selector makes such a record: it may install a translation in the die's
TLB, or be dropped at a firewall (R99, R384). -/
def State.keptTraced (s : State) : State := { s.kept with dies := [], fresh := 0 }

/-- An effect that writes a scalar or a row named by field D and nothing else. -/
def WritesReg (h : Hdr) (vec : Bool) (d : BitVec 8) (eff : Nat → Nat → State → State) : Prop :=
  (vec = false ∧ ∃ lat v, eff = intoS lat d v ∨ eff = intoSq h lat d v) ∨ (vec = true ∧ ∃ lat n v, eff = intoV h lat n d v)

/-- The physical row that field D names for a strand. -/
def State.rowOfD (s : State) (p k : Nat) (vec : Bool) (d : BitVec 8) : Nat :=
  (s.strand p k).wb + if vec then s.vName p k 0 d.toNat else s.sName p k 0 d.toNat / 8

/-- A word's selector makes no field-book record: the trace is off, or the selector goes on at the next word. -/
abbrev State.untraced (s : State) (p : Nat) (h : Hdr) : Prop :=
  (s.core p).fb.ctl.getLsbD 4 = false ∨ (s.core p).fb.ctl.getLsbD 2 = false ∨ h.na = 0 ∨ h.na = 6

/-- Where a taken selector goes on, as its field-book record names it, read from the state that it goes by: 0 for END (R174, R367). -/
def State.aim (src : State) (p k : Nat) (h : Hdr) (pc : Word) : Word :=
  if h.na = 7 then 0
  else if h.na = 5 then BitVec.ofNat 64 (fieldNat (src.hword p k 1) 3 54 * 8)
  else (pc &&& 0xFFFFFFFF00000000) ||| ((src.target p k (h.na.toNat - 1)).zeroExtend 64 &&& 0xFFFFFFF8)

/-- The state in which a taken selector has made its record for the field book, after the effect of its word: it leaves an open body first (R76, R367). -/
def State.traced (y : State) (s : State) (w : WordSpec) (p k : Nat) (h : Hdr) : State :=
  let src := if w.cls.seesOwn then y else s
  let z := if src.inBody p k then y.putHbits p k 6 52 1 0 else y
  if src.condition p k h then z.fbRecord p 3 0 (s.strand p k).pc (src.aim p k h (s.strand p k).pc) else y

/-- A state in which the step's next choice is made, and is another's turn. -/
def State.rest (s : State) : State := { s with agenda := s.agenda.tail }

end Sys2Proof.Machine
end

