-- ==== Sys2Proof/Certificates/Slice0/Obligations.lean ====
section
/-! DEFINITION. The statements about the machine, for the provers. -/

open Sys2Proof Sys2Proof.Machine

/-! ## Scalar words -/

/-- Scalar integer words complete with the effects and latencies of the table of R226: sums, products and their high halves, bitwise
words, shifts and rotates by S[B] mod 64, minima and maxima, counts, moves and selection. -/
def Obligations.ScalarIntegerWords : Prop :=
  ∀ (h : Hdr) (d a b : BitVec 8),
    Runs (.add h d a b) h (specS [dS d, aS a, bS b] 1) (ofAB 1 d a b fun x y => BitVec.ofNat 64 (x.toNat + y.toNat)) ∧
    Runs (.sub h d a b) h (specS [dS d, aS a, bS b] 1) (ofAB 1 d a b fun x y => BitVec.ofInt 64 (x.toInt - y.toInt)) ∧
    (∀ imm, Runs (.addi h d a imm) h (specS [dS d, aS a] 1) (ofA 1 d a fun x => BitVec.ofInt 64 (x.toInt + imm.toInt))) ∧
    Runs (.mul h d a b) h (specS [dS d, aS a, bS b] 3) (ofAB 3 d a b fun x y => BitVec.ofNat 64 (x.toNat * y.toNat % 2 ^ 64)) ∧
    Runs (.mulh h d a b) h (specS [dS d, aS a, bS b] 3) (ofAB 3 d a b fun x y => BitVec.ofInt 64 ((x.toInt * y.toInt).fdiv (2 ^ 64))) ∧
    Runs (.mulhu h d a b) h (specS [dS d, aS a, bS b] 3) (ofAB 3 d a b fun x y => BitVec.ofNat 64 (x.toNat * y.toNat / 2 ^ 64)) ∧
    Runs (.and h d a b) h (specS [dS d, aS a, bS b] 1) (ofAB 1 d a b fun x y => x &&& y) ∧
    Runs (.or h d a b) h (specS [dS d, aS a, bS b] 1) (ofAB 1 d a b fun x y => x ||| y) ∧
    Runs (.xor h d a b) h (specS [dS d, aS a, bS b] 1) (ofAB 1 d a b fun x y => x ^^^ y) ∧
    Runs (.andn h d a b) h (specS [dS d, aS a, bS b] 1) (ofAB 1 d a b fun x y => x &&& ~~~y) ∧
    Runs (.shl h d a b) h (specS [dS d, aS a, bS b] 1) (ofAB 1 d a b fun x y => BitVec.ofNat 64 (x.toNat * 2 ^ (y.toNat % 64))) ∧
    Runs (.shr h d a b) h (specS [dS d, aS a, bS b] 1) (ofAB 1 d a b fun x y => BitVec.ofNat 64 (x.toNat / 2 ^ (y.toNat % 64))) ∧
    Runs (.sra h d a b) h (specS [dS d, aS a, bS b] 1) (ofAB 1 d a b fun x y => BitVec.ofInt 64 (x.toInt.fdiv (2 ^ (y.toNat % 64)))) ∧
    Runs (.rot h d a b) h (specS [dS d, aS a, bS b] 1)
      (ofAB 1 d a b fun x y => (x <<< (y.toNat % 64)) ||| (x >>> (64 - y.toNat % 64))) ∧
    Runs (.clz h d a) h (specS [dS d, aS a] 1) (ofA 1 d a fun x => BitVec.ofNat 64 (clz 64 x.toNat)) ∧
    Runs (.ctz h d a) h (specS [dS d, aS a] 1) (ofA 1 d a fun x => BitVec.ofNat 64 (ctz 64 x.toNat)) ∧
    Runs (.popc h d a) h (specS [dS d, aS a] 1) (ofA 1 d a fun x => BitVec.ofNat 64 ((List.range 64).countP fun i => x.getLsbD i)) ∧
    Runs (.min h d a b) h (specS [dS d, aS a, bS b] 1) (ofAB 1 d a b fun x y => BitVec.ofInt 64 (min x.toInt y.toInt)) ∧
    Runs (.max h d a b) h (specS [dS d, aS a, bS b] 1) (ofAB 1 d a b fun x y => BitVec.ofInt 64 (max x.toInt y.toInt)) ∧
    Runs (.minu h d a b) h (specS [dS d, aS a, bS b] 1) (ofAB 1 d a b fun x y => BitVec.ofNat 64 (min x.toNat y.toNat)) ∧
    Runs (.maxu h d a b) h (specS [dS d, aS a, bS b] 1) (ofAB 1 d a b fun x y => BitVec.ofNat 64 (max x.toNat y.toNat)) ∧
    (∀ q, Runs (.sel h d a b q) h { specS [dS d, aS a, bS b] 1 with usesHeader := decide (q ≠ 0) }
      (intoS 1 d fun p k x => if (x.pred p k q.toNat).getLsbD 0 then x.rS p k 1 a else x.rS p k 2 b)) ∧
    Runs (.mov h d a) h (specS [dS d, aS a] 1) (ofA 1 d a fun x => x)

/-- Division never traps: quotients and remainders by every case of the table of R227, a zero divisor and −2^63 / −1 among them. -/
def Obligations.DivisionCases : Prop :=
  ∀ (h : Hdr) (d a b : BitVec 8),
    Runs (.div h d a b) h (specS [dS d, aS a, bS b] 36) (ofAB 36 d a b fun x y =>
      if y = 0 then 0xFFFFFFFFFFFFFFFF
      else if x.toInt = -(2 ^ 63) ∧ y.toInt = -1 then BitVec.ofInt 64 (-(2 ^ 63))
      else BitVec.ofInt 64 (x.toInt.tdiv y.toInt)) ∧
    Runs (.divu h d a b) h (specS [dS d, aS a, bS b] 36) (ofAB 36 d a b fun x y =>
      if y = 0 then 0xFFFFFFFFFFFFFFFF else BitVec.ofNat 64 (x.toNat / y.toNat)) ∧
    Runs (.rem h d a b) h (specS [dS d, aS a, bS b] 36) (ofAB 36 d a b fun x y =>
      if y = 0 then x
      else if x.toInt = -(2 ^ 63) ∧ y.toInt = -1 then 0
      else BitVec.ofInt 64 (x.toInt - y.toInt * x.toInt.tdiv y.toInt)) ∧
    Runs (.remu h d a b) h (specS [dS d, aS a, bS b] 36) (ofAB 36 d a b fun x y =>
      if y = 0 then x else BitVec.ofNat 64 (x.toNat - y.toNat * (x.toNat / y.toNat)))

/-- The bit-field words: their effects, where their fields lie in the immediate, and the field values that make the word an undefined
encoding (R229). -/
def Obligations.BitFields : Prop :=
  (∀ (h : Hdr) (d a : BitVec 8) (pos : BitVec 6) (len n : BitVec 7),
    Runs (.bfx h d a pos len) h (specS [dS d, aS a] 1)
      (ofA 1 d a fun x => (x >>> pos.toNat) &&& BitVec.ofNat 64 (2 ^ len.toNat - 1)) ∧
    Runs (.bfi h d a pos len) h (specS [dBoth d, aS a] 1) (intoS 1 d fun p k x =>
      let m := BitVec.ofNat 64 (2 ^ len.toNat - 1) <<< pos.toNat
      (x.rS p k 0 d &&& ~~~m) ||| ((x.rS p k 1 a <<< pos.toNat) &&& m)) ∧
    (1 ≤ n.toNat → n.toNat ≤ 64 → Runs (.sext h d a n) h (specS [dS d, aS a] 1)
      (ofA 1 d a fun x => (x <<< (64 - n.toNat)).sshiftRight (64 - n.toNat))) ∧
    Runs (.zext h d a n) h (specS [dS d, aS a] 1) (ofA 1 d a fun x => x &&& BitVec.ofNat 64 (2 ^ n.toNat - 1))) ∧
  ∀ f : Fields,
    (f.op = 0x05F ∨ f.op = 0x060 →
      (f.imm28.extractLsb' 13 15 ≠ 0 ∨ f.imm28.extractLsb' 6 7 = 0 ∨ 64 < (f.imm28.extractLsb' 6 7).toNat ∨
        64 < (f.imm28.extractLsb' 0 6).toNat + (f.imm28.extractLsb' 6 7).toNat) → ∃ e, decodeFields f = .error e) ∧
    (f.op = 0x061 ∨ f.op = 0x062 →
      (f.imm28.extractLsb' 7 21 ≠ 0 ∨ f.imm28.extractLsb' 0 7 = 0 ∨ 64 < (f.imm28.extractLsb' 0 7).toNat) →
        ∃ e, decodeFields f = .error e) ∧
    ∀ i, decodeFields f = .ok i →
      (f.op = 0x05F → i = .bfx f.hdr f.d f.a (f.imm28.extractLsb' 0 6) (f.imm28.extractLsb' 6 7)) ∧
      (f.op = 0x060 → i = .bfi f.hdr f.d f.a (f.imm28.extractLsb' 0 6) (f.imm28.extractLsb' 6 7)) ∧
      (f.op = 0x061 → i = .sext f.hdr f.d f.a (f.imm28.extractLsb' 0 7)) ∧
      (f.op = 0x062 → i = .zext f.hdr f.d f.a (f.imm28.extractLsb' 0 7))

/-- Comparisons and constants: SCMP, SCMPS, LI, LIH and AGEN complete with their results, signed or unsigned comparisons by U and SCMP's
predicate in time for its own selector; where the immediates of the last three lie (R226, R228, R230, R231). -/
def Obligations.ScalarCompareAndConstants : Prop :=
  ∀ (h : Hdr) (d a b : BitVec 8),
    (∀ (q : BitVec 3) (cc : BitVec 4) (u : BitVec 1), cc.toNat ≤ 5 →
      let holds (x y : Word) : Bool :=
        let x' : Int := if u = 1 then x.toNat else x.toInt
        let y' : Int := if u = 1 then y.toNat else y.toInt
        match cc.toNat with
        | 0 => x' = y'
        | 1 => x' ≠ y'
        | 2 => x' < y'
        | 3 => x' ≤ y'
        | 4 => y' < x'
        | _ => y' ≤ x'
      Runs (.scmp h q a b cc u) h (specHeader [aS a, bS b] (qWords q)) (fun p k x =>
        x.wQ p k 1 q (if holds (x.rS p k 1 a) (x.rS p k 2 b) then 0xFFFF else 0x0000)) ∧
      Runs (.scmps h d a b cc u) h (specS [dS d, aS a, bS b] 1) (ofAB 1 d a b fun x y => if holds x y then 1 else 0)) ∧
    (∀ imm, Runs (.li h d imm) h (specS [dS d] 1) (intoS 1 d fun _ _ _ => imm.signExtend 64)) ∧
    (∀ imm, Runs (.lih h d imm) h (specS [dBoth d] 1)
      (intoS 1 d fun p k x => (imm.zeroExtend 64 <<< 28) ||| (x.rS p k 0 d &&& 0x0FFFFFFF))) ∧
    (∀ (sh : BitVec 3) (disp : BitVec 17), Runs (.agen h d a b sh disp) h (specS [dS d, aS a, bS b] 1)
      (ofAB 1 d a b fun x y => x + (y <<< sh.toNat) + disp.signExtend 64)) ∧
    ∀ f i, decodeFields f = .ok i →
      (f.op = 0x05C → i = .li f.hdr f.d f.imm28) ∧ (f.op = 0x05D → i = .lih f.hdr f.d (f.a ++ f.b ++ f.c ++ f.m)) ∧
      (f.op = 0x05E → i = .agen f.hdr f.d f.a f.b (f.imm20.extractLsb' 17 3) (f.imm20.extractLsb' 0 17))

/-- Scalar floating-point words: exact results rounded once to TY in the mode RM, selections, classes and conversions, with the latencies
of R233 (R233 to R235). A minimum or maximum of a number and a NaN is the number, of two NaNs the canonical NaN, and −0 lies below +0; a
comparison with a NaN is false but for `.ne` and `.un` (R146, R179, R234). -/
def Obligations.ScalarFloatWords : Prop :=
  (∀ (h : Hdr) (d a b c : BitVec 8) (ty rm : BitVec 3),
     let f := fmtOf ty.toNat
     let val (x : Word) : FVal := fpVal f (x.toNat % 2 ^ f.width)
     let rnd (v : FVal) : Word := BitVec.ofNat 64 (roundTo f rm.toNat v)
     let slow := if ty = 0 then 16 else 28
     Runs (.fadd h d a b ty rm) h (specS [dS d, aS a, bS b] 4) (ofAB 4 d a b fun x y => rnd ((val x).add (rm == 3) (val y))) ∧
     Runs (.fsub h d a b ty rm) h (specS [dS d, aS a, bS b] 4) (ofAB 4 d a b fun x y => rnd ((val x).add (rm == 3) (val y).negate)) ∧
     Runs (.fmul h d a b ty rm) h (specS [dS d, aS a, bS b] 4) (ofAB 4 d a b fun x y => rnd ((val x).mul (val y))) ∧
     Runs (.ffma h d a b c ty rm) h (specS [dS d, aS a, bS b, cS c] 4) (intoS 4 d fun p k x =>
       rnd (((val (x.rS p k 1 a)).mul (val (x.rS p k 2 b))).add (rm == 3) (val (x.rS p k 3 c)))) ∧
     Runs (.fdiv h d a b ty rm) h (specS [dS d, aS a, bS b] slow) (ofAB slow d a b fun x y => rnd ((val x).div (val y))) ∧
     Runs (.fsqrt h d a ty rm) h (specS [dS d, aS a] slow) (ofA slow d a fun x => rnd (val x).sqrt) ∧
     Runs (.fmin h d a b ty) h (specS [dS d, aS a, bS b] 4)
       (ofAB 4 d a b fun x y => BitVec.ofNat 64 (fpMinMax f false (x.toNat % 2 ^ f.width) (y.toNat % 2 ^ f.width))) ∧
     Runs (.fmax h d a b ty) h (specS [dS d, aS a, bS b] 4)
       (ofAB 4 d a b fun x y => BitVec.ofNat 64 (fpMinMax f true (x.toNat % 2 ^ f.width) (y.toNat % 2 ^ f.width))) ∧
     (∀ (q : BitVec 3) (cc : BitVec 4), Runs (.fcmp h q a b ty cc) h (specHeader [aS a, bS b] (qWords q)) (fun p k x =>
       x.wQ p k 1 q (if fpCmp cc.toNat (val (x.rS p k 1 a)) (val (x.rS p k 2 b)) then 0xFFFF else 0x0000))) ∧
     Runs (.fclass h d a ty) h (specS [dS d, aS a] 1) (ofA 1 d a fun x => BitVec.ofNat 64 (fpClass f (x.toNat % 2 ^ f.width))) ∧
     (∀ fl : BitVec 2, Runs (.fcvt h d a ty rm fl) h (specS [dS d, aS a] 4) (ofA 4 d a fun x =>
       let g := if fl = 0 then fp32 else if fl = 1 then fp64 else if fl = 2 then fp16 else bf16
       rnd (fpVal g (x.toNat % 2 ^ g.width)))) ∧
     (∀ fl : BitVec 2, Runs (.fcvti h d a ty rm fl) h (specS [dS d, aS a] 4) (ofA 4 d a fun x =>
       if fl = 0 then BitVec.ofNat 64 (fpToInt 64 false rm.toNat (val x))
       else if fl = 1 then BitVec.ofNat 64 (fpToInt 64 true rm.toNat (val x))
       else if fl = 2 then rnd (intVal x.toInt) else rnd (intVal x.toNat)))) ∧
  ∀ (f : Fmt) (x y : Nat) (wantMax : Bool),
    ((fpVal f x).isNan → (fpVal f y).isNan → fpMinMax f wantMax x y = f.nanBits) ∧
    ((fpVal f x).isNan → ¬(fpVal f y).isNan → fpMinMax f wantMax x y = y) ∧
    (¬(fpVal f x).isNan → (fpVal f y).isNan → fpMinMax f wantMax x y = x) ∧
    (∀ m n e g, fpPick wantMax (.fin true 0 e) (.fin false 0 g) = some wantMax ∧ fpPick wantMax (.fin false 0 e) (.fin true 0 g) = some !wantMax ∧
      fpCmp 0 (.fin m 0 e) (.fin n 0 g) = true) ∧
    ((fpVal f x).isNan ∨ (fpVal f y).isNan → ∀ cc ≤ 7, fpCmp cc (fpVal f x) (fpVal f y) = decide (cc = 1 ∨ cc = 6))

/-! ## Vector words -/

/-- Vector integer words complete lane by lane with the effects of the table of R241. -/
def Obligations.VectorIntegerWords : Prop :=
  ∀ (h : Hdr) (d a b c : BitVec 8) (ty : BitVec 3) (u : BitVec 1) (m : BitVec 12),
    let w := intW ty
    let lat := if ty = 4 then 6 else 4
    let occ := if ty = 4 then 2 else 1
    let rd (x : Nat) : Int := readInt w (u == 1) x
    let two (l o : Nat) : WordSpec := { specV [dV d, aV a, bV b] l with occ := o }
    let one : WordSpec := { specV [dV d, aV a] 2 with occ := 1 }
    Runs (.vadd h d a b ty m) h (two 2 1) (lanesAB h 2 w d a b m fun x y => (x + y) % 2 ^ w) ∧
    Runs (.vsub h d a b ty m) h (two 2 1) (lanesAB h 2 w d a b m fun x y => wrapInt w ((x : Int) - y)) ∧
    Runs (.vmul h d a b ty m) h (two lat occ) (lanesAB h lat w d a b m fun x y => x * y % 2 ^ w) ∧
    Runs (.vmulh h d a b ty u m) h (two lat occ) (lanesAB h lat w d a b m fun x y => wrapInt w ((rd x * rd y).fdiv (2 ^ w))) ∧
    Runs (.vmad h d a b c ty) h { specV [dV d, aV a, bV b, cV c] lat with occ := occ }
      (lanesABC h lat w d a b c fun x y z => (x * y + z) % 2 ^ w) ∧
    Runs (.vand h d a b ty m) h (two 2 1) (lanesAB h 2 w d a b m fun x y => x &&& y) ∧
    Runs (.vor h d a b ty m) h (two 2 1) (lanesAB h 2 w d a b m fun x y => x ||| y) ∧
    Runs (.vxor h d a b ty m) h (two 2 1) (lanesAB h 2 w d a b m fun x y => x ^^^ y) ∧
    Runs (.vshl h d a b ty m) h (two 2 1) (lanesAB h 2 w d a b m fun x y => x * 2 ^ (y % w) % 2 ^ w) ∧
    Runs (.vshr h d a b ty m) h (two 2 1) (lanesAB h 2 w d a b m fun x y => x / 2 ^ (y % w)) ∧
    Runs (.vsra h d a b ty m) h (two 2 1) (lanesAB h 2 w d a b m fun x y => wrapInt w ((sint w x).fdiv (2 ^ (y % w)))) ∧
    Runs (.vmin h d a b ty u m) h (two 2 1) (lanesAB h 2 w d a b m fun x y => wrapInt w (min (rd x) (rd y))) ∧
    Runs (.vmax h d a b ty u m) h (two 2 1) (lanesAB h 2 w d a b m fun x y => wrapInt w (max (rd x) (rd y))) ∧
    Runs (.vabs h d a ty m) h one (lanesA h 2 w d a m fun x => (sint w x).natAbs % 2 ^ w) ∧
    Runs (.vadds h d a b ty u m) h (two 2 1) (lanesAB h 2 w d a b m fun x y => wrapInt w (clampInt w (u == 1) (rd x + rd y))) ∧
    Runs (.vsubs h d a b ty u m) h (two 2 1) (lanesAB h 2 w d a b m fun x y => wrapInt w (clampInt w (u == 1) (rd x - rd y))) ∧
    (∀ fl : BitVec 2, Runs (.vdot4 h d a b c fl) h { specV [dV d, aV a, bV b, cV c] 4 with occ := 1 }
      (lanesABC h 4 32 d a b c fun x y z => wrapInt 32 ((z : Int) +
        (readInt 8 (fl.getLsbD 0) (x % 256) * readInt 8 (fl.getLsbD 1) (y % 256) +
         readInt 8 (fl.getLsbD 0) (x / 2 ^ 8 % 256) * readInt 8 (fl.getLsbD 1) (y / 2 ^ 8 % 256) +
         readInt 8 (fl.getLsbD 0) (x / 2 ^ 16 % 256) * readInt 8 (fl.getLsbD 1) (y / 2 ^ 16 % 256) +
         readInt 8 (fl.getLsbD 0) (x / 2 ^ 24 % 256) * readInt 8 (fl.getLsbD 1) (y / 2 ^ 24 % 256))))) ∧
    Runs (.vpopc h d a ty m) h one (lanesA h 2 w d a m (popc w)) ∧
    Runs (.vclz h d a ty m) h one (lanesA h 2 w d a m (clz w)) ∧
    Runs (.vmov h d a ty m) h one (lanesA h 2 w d a m fun x => x) ∧
    (∀ q, Runs (.vsel h d a b q ty) h { specV [dV d, aV a, bV b] 2 with usesHeader := decide (q ≠ 0) } (fun p k x =>
      x.wV p k 2 d (maskFor w (x.pred p k h.eq.toNat)) (blend (x.rV p k 2 b) (maskFor w (x.pred p k q.toNat)) (x.rV p k 1 a)))) ∧
    (∀ (q : BitVec 3) (cc : BitVec 4), Runs (.vcmp h q a b ty cc u m) h { specV [aV a, bV b] 1 with hw := qWords q } (fun p k x =>
      x.wQmask p k 1 q (cmpMask w (x.pred p k h.eq.toNat)) (cmpBits w (List.zipWith (fun y z => intCmp cc.toNat (rd y) (rd z))
        (lanesOf w (modified m 0 (x.rV p k 1 a))) (lanesOf w (modified m 1 (x.rV p k 2 b)))))))

/-- Vector floating-point words complete lane by lane: exact results rounded once (R242, R244, R246, R247). -/
def Obligations.VectorFloatWords : Prop :=
  ∀ (h : Hdr) (d a b c : BitVec 8) (ty rm : BitVec 3) (m : BitVec 12),
    let f := fmtOf ty.toNat
    let rnd (v : FVal) : Nat := roundTo f rm.toNat v
    let at64 (x y : Nat) : Nat := if ty = 4 then y else x
    let two (l o : Nat) : WordSpec := { specV [dV d, aV a, bV b] l with occ := o }
    let one (l o : Nat) : WordSpec := { specV [dV d, aV a] l with occ := o }
    let three : WordSpec := { specV [dV d, aV a, bV b, cV c] (at64 4 6) with occ := at64 1 2 }
    let fn (g : FVal → FVal) : Nat → Nat → State → State :=
      lanesA h 12 32 d a m fun x => roundTo fp32 rm.toNat (g (fpVal fp32 x))
    Runs (.vfadd h d a b ty rm m) h (two (at64 4 6) (at64 1 2))
      (lanesAB h (at64 4 6) f.width d a b m fun x y => rnd ((fpVal f x).add (rm == 3) (fpVal f y))) ∧
    Runs (.vfsub h d a b ty rm m) h (two (at64 4 6) (at64 1 2))
      (lanesAB h (at64 4 6) f.width d a b m fun x y => rnd ((fpVal f x).add (rm == 3) (fpVal f y).negate)) ∧
    Runs (.vfmul h d a b ty rm m) h (two (at64 4 6) (at64 1 2))
      (lanesAB h (at64 4 6) f.width d a b m fun x y => rnd ((fpVal f x).mul (fpVal f y))) ∧
    Runs (.vfma h d a b c ty rm) h three (lanesABC h (at64 4 6) f.width d a b c fun x y z =>
      rnd (((fpVal f x).mul (fpVal f y)).add (rm == 3) (fpVal f z))) ∧
    Runs (.vfms h d a b c ty rm) h three (lanesABC h (at64 4 6) f.width d a b c fun x y z =>
      rnd (((fpVal f x).mul (fpVal f y)).add (rm == 3) (fpVal f z).negate)) ∧
    Runs (.vfnma h d a b c ty rm) h three (lanesABC h (at64 4 6) f.width d a b c fun x y z =>
      rnd (((fpVal f x).mul (fpVal f y)).negate.add (rm == 3) (fpVal f z))) ∧
    Runs (.vfdiv h d a b ty rm m) h (two (at64 20 36) (at64 4 8))
      (lanesAB h (at64 20 36) f.width d a b m fun x y => rnd ((fpVal f x).div (fpVal f y))) ∧
    Runs (.vfsqrt h d a ty rm m) h (one (at64 20 36) (at64 4 8)) (lanesA h (at64 20 36) f.width d a m fun x => rnd (fpVal f x).sqrt) ∧
    Runs (.vfrec h d a rm m) h (one 12 2) (fn fun v => FVal.div (.fin false 1 0) v) ∧
    Runs (.vfrsq h d a rm m) h (one 12 2) (fn FVal.rsqrt) ∧
    Runs (.vfexp2 h d a rm m) h (one 12 2) (fn FVal.exp2) ∧
    Runs (.vflog2 h d a rm m) h (one 12 2) (fn FVal.log2) ∧
    Runs (.vfmin h d a b ty m) h (two 2 (at64 1 2)) (lanesAB h 2 f.width d a b m (fpMinMax f false)) ∧
    Runs (.vfmax h d a b ty m) h (two 2 (at64 1 2)) (lanesAB h 2 f.width d a b m (fpMinMax f true)) ∧
    (∀ (q : BitVec 3) (cc : BitVec 4), Runs (.vfcmp h q a b ty cc m) h { specV [aV a, bV b] 1 with hw := qWords q } (fun p k x =>
      x.wQmask p k 1 q (cmpMask f.width (x.pred p k h.eq.toNat)) (cmpBits f.width
        (List.zipWith (fun y z => fpCmp cc.toNat (fpVal f y) (fpVal f z))
          (lanesOf f.width (modified m 0 (x.rV p k 1 a))) (lanesOf f.width (modified m 1 (x.rV p k 2 b))))))) ∧
    Runs (.vfclass h d a ty m) h (one 2 1) (lanesA h 2 f.width d a m (fpClass f)) ∧
    (∀ fl : BitVec 2, Runs (.vfcvt h d a ty rm fl m) h (one 4 (at64 1 2)) (lanesA h 4 f.width d a m fun x =>
      if fl = 0 then fpToInt f.width false rm.toNat (fpVal f x)
      else if fl = 1 then fpToInt f.width true rm.toNat (fpVal f x)
      else if fl = 2 then rnd (intVal (sint f.width x)) else rnd (intVal x))) ∧
    (∀ fl : BitVec 2, Runs (.vfwiden h d a b ty fl m) h (specV [dV d, aV a, bS b] 4) (intoV h 4 f.width d fun p k x =>
      let g := if fl = 0 then fp32 else if fl = 2 then fp16 else bf16
      let n := 512 / f.width
      (List.range n).map fun i => roundTo f 0 (fpVal g (fieldNat (modified m 0 (x.rV p k 1 a))
        (g.width * ((x.rS p k 2 b).toNat % (512 / g.width / n) * n + i)) g.width)))) ∧
    (∀ fl : BitVec 2, Runs (.vfred h d a ty rm fl m) h { specV [dS d, aV a] (at64 12 16) with occ := at64 2 4 }
      (intoSq h (at64 12 16) d fun p k x => BitVec.ofNat 64 ((treeReduce
        (if fl = 0 then fun y z => rnd ((fpVal f y).add (rm = 3) (fpVal f z)) else fpMinMax f (decide (fl ≠ 1))) (if ty = 4 then 3 else 4)
        (lanesOf f.width (modified m 0 (x.rV p k 1 a)))).headD 0))) ∧
    Runs (.vfamax h d a ty m) h
      { specV ([dS d, aV a] ++ (if ty = 0 then [aVnext a] else [])) 4 with occ := if ty = 0 then 2 else 1 }
      (intoSq h 4 d fun p k x => BitVec.ofNat 64 (absMax f (lanesOf f.width (modified m 0 (x.rV p k 1 a)) ++
        (if ty = 0 then lanesOf f.width (modified m 0 (x.rVnext p k 1 a)) else []))))

/-- Lane words complete with the movements of R248. -/
def Obligations.LaneWords : Prop :=
  ∀ (h : Hdr) (d a b : BitVec 8) (ty q : BitVec 3) (m : BitVec 12),
    let w := intW ty
    let n := 512 / w
    let src (p k : Nat) (x : State) (i : Nat) : Nat := (lanesOf w (modified m 0 (x.rV p k 1 a))).getD i 0
    let all (f : Nat → Nat) : List Nat := (List.range n).map f
    let picks (p k : Nat) (x : State) : List Nat := (List.range n).filter (laneOn w (x.pred p k q.toNat))
    Runs (.vperm h d a b ty m) h (specV [dV d, aV a, bV b] 3) (intoV h 3 w d fun p k x =>
      all fun i => src p k x ((lanesOf w (modified m 1 (x.rV p k 2 b))).getD i 0 % n)) ∧
    Runs (.vrot h d a b ty m) h (specV [dV d, aV a, bS b] 2)
      (intoV h 2 w d fun p k x => all fun i => src p k x ((i + (x.rS p k 2 b).toNat) % n)) ∧
    Runs (.vbfly h d a b ty m) h (specV [dV d, aV a, bS b] 2)
      (intoV h 2 w d fun p k x => all fun i => src p k x (i ^^^ ((x.rS p k 2 b).toNat % n))) ∧
    Runs (.vbcst h d a b ty m) h (specV [dV d, aV a, bS b] 2)
      (intoV h 2 w d fun p k x => all fun _ => src p k x ((x.rS p k 2 b).toNat % n)) ∧
    Runs (.vcomp h d a q ty m) h { specV [dV d, aV a] 3 with usesHeader := decide (q ≠ 0) }
      (intoV h 3 w d fun p k x => (picks p k x).map (src p k x)) ∧
    Runs (.vxpnd h d a q ty m) h { specV [dV d, aV a] 3 with usesHeader := decide (q ≠ 0) } (intoV h 3 w d fun p k x =>
      all fun i => if laneOn w (x.pred p k q.toNat) i then src p k x ((picks p k x).filter (· < i)).length else 0) ∧
    Runs (.vsplat h d a ty) h (specV [dV d, aS a] 2) (intoV h 2 w d fun p k x => all fun _ => (x.rS p k 1 a).toNat % 2 ^ w) ∧
    (∀ u : BitVec 1, Runs (.vext h d a b ty u m) h (specV [dS d, aV a, bS b] 2) (intoSq h 2 d fun p k x =>
      let v := src p k x ((x.rS p k 2 b).toNat % n)
      if u = 1 then BitVec.ofInt 64 (sint w v) else BitVec.ofNat 64 v)) ∧
    Runs (.vins h d a b ty) h (specV [dVboth d, aS a, bS b] 2) (fun p k x =>
      let i := (x.rS p k 2 b).toNat % n
      x.wV p k 2 d (maskFor w (x.pred p k h.eq.toNat) &&& rowMask (w * i) w) (rowOfLanes w (List.replicate n (x.rS p k 1 a).toNat)))

/-- Predicate words and the words that read across a gang complete with the effects of R249 and R250. -/
def Obligations.PredicateAndGangWords : Prop :=
  ∀ (h : Hdr) (d a : BitVec 8) (q qa qb : BitVec 3),
    let sQ : WordSpec := { specV [] 1 with usesHeader := true, hw := qWords q }
    let sR : WordSpec := { specV [dS d] 1 with usesHeader := decide (qa ≠ 0) }
    Runs (.qand h q qa qb) h sQ (intoQ h q fun p k x => x.pred p k qa.toNat &&& x.pred p k qb.toNat) ∧
    Runs (.qor h q qa qb) h sQ (intoQ h q fun p k x => x.pred p k qa.toNat ||| x.pred p k qb.toNat) ∧
    Runs (.qxor h q qa qb) h sQ (intoQ h q fun p k x => x.pred p k qa.toNat ^^^ x.pred p k qb.toNat) ∧
    Runs (.qnot h q qa) h sQ (intoQ h q fun p k x => x.pred p k qa.toNat ^^^ 0xFFFF) ∧
    Runs (.qpop h d qa) h sR
      (intoSq h 1 d fun p k x => BitVec.ofNat 64 ((List.range 16).countP fun i => (x.pred p k qa.toNat).getLsbD i)) ∧
    Runs (.qfirst h d qa) h sR (intoSq h 1 d fun p k x =>
      BitVec.ofNat 64 (((List.range 16).find? fun i => (x.pred p k qa.toNat).getLsbD i).getD 16)) ∧
    Runs (.qmov h q a) h { specV [aS a] 1 with hw := qWords q } (intoQ h q fun p k x => (x.rS p k 1 a).extractLsb' 0 16) ∧
    Runs (.qmovX h d qa) h sR (intoSq h 1 d fun p k x => (x.pred p k qa.toNat).zeroExtend 64) ∧
    ∀ s : State, Clear h sQ s →
      let k := s.focus.strand
      let ms := s.members s.focus.pcid
      let some1 := ms.any fun p => s.pred p k qa.toNat != 0
      let all1 := ms.all fun p => s.pred p k qa.toNat != 0
      exec (.gany h q qa 0) s = .next (s.ran h sQ (intoQ h q fun _ _ _ => if some1 then 0xFFFF else 0)) ∧
      exec (.gany h q qa 1) s = .next (s.ran h sQ (intoQ h q fun _ _ _ => ms.foldl (fun v p => v ||| s.pred p k qa.toNat) 0)) ∧
      exec (.gall h q qa 0) s = .next (s.ran h sQ (intoQ h q fun _ _ _ => if all1 then 0xFFFF else 0)) ∧
      exec (.gall h q qa 1) s = .next (s.ran h sQ (intoQ h q fun _ _ _ => ms.foldl (fun v p => v &&& s.pred p k qa.toNat) 0xFFFF)) ∧
      (Clear h (specV [dS d, aS a] 2) s → exec (.gbcast h d a) s = .next (s.ran h (specV [dS d, aS a] 2) (intoSq h 2 d fun _ _ _ =>
        s.rS (match (s.core s.focus.pcid).gang with
          | some (_, l) => l
          | none => s.focus.pcid) k 1 a))) ∧
      (Clear h (specV [dS d] 1) s → exec (.glane h d) s = .next (s.ran h (specV [dS d] 1) (intoSq h 1 d fun p _ x =>
        match (x.core p).gang with
        | some (g, l) => BitVec.ofNat 64 (p - l + 256 * g)
        | none => 256)))

/-! ## Formats -/

/-- Decode-table and quantisation words: reads, decoding, narrowing and encoding into a part of a row with the count of underflows, the
clearing read of the counts, and scale selection; each that uses the table waits for a DTLD in progress, and the read of the counts for
earlier narrowing words. Encoding to a table that is not valid for it traps instead (R161, R162, R245, R256 to R263). The scale of SCSEL where the
table has no largest entry is a free value (log entry 10), and that MXQ reads S[C] only with RM = 5 is the model's reading (log entry 71). -/
def Obligations.FormatWords : Prop :=
  ∀ (h : Hdr) (d a b c : BitVec 8) (ty rm : BitVec 3),
    let f := fmtOf ty.toNat
    let n := 512 / f.width
    let after (w : WordSpec) : WordSpec := { w with pre := tableWait }
    let narrowing : WordSpec := { narrowSpec d a b c rm with pre := if isCode ty then tableWait else noTrap }
    let block : WordSpec := after (specV [dV d, aV a, aVnext a, bS b, { cS c with src := decide (rm = 5) }] 6)
    let encodes (p _ : Nat) (x : State) : Prop := (x.core p).tableFault ty = none
    let narrows (src : Fmt) (p k : Nat) (x : State) : State :=
      x.narrowInto p k 4 h ty rm d ((lanesOf src.width (x.rV p k 1 a)).map (fpVal src))
        ((x.rS p k 2 b).toNat % (512 / targetW ty / (512 / src.width)) * (512 / src.width)) (x.rS p k 3 c)
    let noMax (p k : Nat) (x : State) : Prop :=
      let amax := (fpVal fp32 (fieldNat (x.rS p k 1 a) 0 32)).abs
      (largestEntry (x.core p).table (ty == 5)).isZero ∧ ¬amax.isZero ∧ ¬amax.isNan ∧ ¬amax.isInf
    Runs (.dtrd h d a) h (after (specV [dV d, aS a] 2)) (intoV h 2 32 d fun p k x =>
      (List.range 16).map fun i => ((x.core p).table.getD (16 * ((x.rS p k 1 a).toNat % 16) + i) 0).toNat) ∧
    (∀ (u : BitVec 1) (m : BitVec 12),
      let w := if u = 1 then 4 else 8
      Runs (.dtdec h d a b ty rm u m) h (after (specV [dV d, aV a, bS b] 4)) (intoV h 4 f.width d fun p k x => (List.range n).map fun i =>
        roundTo f rm.toNat (tableVal (x.core p).table (fieldNat (modified m 0 (x.rV p k 1 a))
          (w * ((x.rS p k 2 b).toNat % (512 / w / n) * n + i)) w))) ∧
      Runs (.mxdq h d a b ty rm u m) h (after (specV [dV d, aV a, bS b] 4)) (intoV h 4 f.width d fun p k x =>
        let bv := x.rS p k 2 b
        (List.range n).map fun i =>
          let v := tableVal (x.core p).table (fieldNat (modified m 0 (x.rV p k 1 a))
            (w * (32 * (fieldNat bv 8 2 % (if u = 1 then 4 else 2)) + (if ty = 0 then 16 * fieldNat bv 10 1 else 0) + i)) w)
          roundTo f rm.toNat (if fieldNat bv 0 8 = 255 then .nan else v.scale ((fieldNat bv 0 8 : Int) - 127)))) ∧
    (∀ u : BitVec 1, RunsIf (.vfnarrow h d a b c ty rm u) h narrowing encodes (narrows (if u = 1 then fp64 else fp32))) ∧
    (∀ fl : BitVec 2, RunsIf (.dtenc h d a b c ty rm fl) h (after (narrowSpec d a b c rm)) encodes (narrows (if fl = 2 then fp16 else bf16))) ∧
    RunsIf (.mxq h d a b c ty rm) h block encodes (fun p k x =>
      let bv := x.rS p k 2 b
      x.narrowInto p k 6 h ty rm d (mxElems (x.rV p k 1 a) (x.rVnext p k 1 a) (fieldNat bv 0 8))
        (32 * (fieldNat bv 8 2 % (if ty = 3 then 2 else 4))) (x.rS p k 3 c)) ∧
    Runs (.ufcnt h d) h { specV [dS d] 1 with pre := holdIf (fun p x => (x.core p).narrowing.any ((x.core p).cycle < ·)) noTrap } (fun p k x =>
      if (x.pred p k h.eq.toNat).getLsbD 0 then
        (x.wS p k 1 d (x.core p).ufcnt).modCore p fun c => { c with uf0 := 0, uf1 := 0, uf2 := 0, uf3 := 0 }
      else x) ∧
    RunsIf (.scsel h d a b c ty) h (after (specV [dS d, aS a, bS b, cS c] 2)) (fun p k x => encodes p k x ∧ ¬noMax p k x)
      (intoSq h 2 d fun p k x => BitVec.ofNat 64 (scaleSelect (fpVal fp32 (fieldNat (x.rS p k 1 a) 0 32)).abs
        (largestEntry (x.core p).table (ty == 5)) (x.rS p k 2 b).toNat (x.rS p k 3 c).toNat)) ∧
    RunsIf (.scsel h d a b c ty) h (after (specV [dS d, aS a, bS b, cS c] 2)) (fun p k x => encodes p k x ∧ noMax p k x)
      (fun p k x => x.drawn.putScalar p k 2 h d (x.freeWord &&& 0xFF)) ∧
    ∀ (t : Trap) (i : Instr) (w : WordSpec),
      (i, w) ∈ [(.vfnarrow h d a b c ty rm 0, narrowing), (.vfnarrow h d a b c ty rm 1, narrowing),
        (.dtenc h d a b c ty rm 2, after (narrowSpec d a b c rm)), (.dtenc h d a b c ty rm 3, after (narrowSpec d a b c rm)),
        (.mxq h d a b c ty rm, block), (.scsel h d a b c ty, after (specV [dS d, aS a, bS b, cS c] 2))] →
      TrapsIf i h w (fun p _ x => (x.core p).tableFault ty = some t) (fun _ _ _ => t)

/-! ## Sequencing, windows, traps -/

/-- Sequencing words complete: target slots and link, loop counter, an opened repetition buffer, identity, time and marks (R204 to R207,
R212, R214). -/
def Obligations.SequencingWords : Prop :=
  ∀ (h : Hdr) (d a : BitVec 8),
    let sL (l : List Opnd) (hw : List Nat) : WordSpec := { specX l 1 with usesHeader := true, hw := hw, pre := trapIfOpen }
    Runs (.nop h) h (specS [] 1) (fun _ _ x => x) ∧
    (∀ (t : BitVec 2) (imm : BitVec 28), Runs (.tgt h t imm) h (specHeader [] [2 + t.toNat / 2])
      (fun p k x => x.wT p k t (((x.strand p k).pc + 8 * imm.signExtend 64).extractLsb' 0 32))) ∧
    (∀ t : BitVec 2, Runs (.tgts h t a) h (specHeader [aS a] [2 + t.toNat / 2])
      (fun p k x => x.wT p k t ((x.rS p k 1 a).extractLsb' 0 32))) ∧
    Runs (.lnk h) h (specHeader [] [1]) (fun p k x => x.writeDest p 1 ⟨(x.strand p k).wb, 1⟩ ((x.strand p k).pc + 8)) ∧
    (∀ q : BitVec 3, Runs (.loop h q) h (sL [] (6 :: qWords q)) (fun p k x =>
      let lc := fieldNat (x.hword p k 6) 0 32 - 1
      (x.putHbits p k 6 0 32 lc).putPred p k q.toNat (if lc = 0 then 0 else 0xFFFF))) ∧
    Runs (.loopSet h a) h (sL [aS a] [6]) (fun p k x => x.putHbits p k 6 0 32 (fieldNat (x.rS p k 1 a) 0 32)) ∧
    (∀ stride mask : BitVec 4, GoesIf (.repb h a stride mask) h (sL [aS a] [6]) (fun _ _ _ => True) (fun p k x =>
      ((x.putHmask p k 6 (bitMask 0 57) (setBits (x.hword p k 6) 0 57 (fieldNat (x.rS p k 1 a) 0 32 + stride.toNat * 2 ^ 32 + 15 * 2 ^ 36 +
        mask.toNat * 2 ^ 40 + 2 ^ 52))).modStrand p k Strand.takeUp).goto p k ((x.strand p k).pc + 8))) ∧
    (∀ sel : BitVec 2, Runs (.ids h d sel) h (specS [dS d] 1) (intoS 1 d fun p k x =>
      match sel.toNat with
      | 0 => BitVec.ofNat 64 (((x.instOf p).map fun i => i.2.index).getD 0)
      | 1 => BitVec.ofNat 64 (((x.tractOf p).map fun t => t.n).getD 0)
      | 2 => BitVec.ofNat 64 k
      | _ => BitVec.ofNat 64 (x.core p).exch.count)) ∧
    RunsIf (.clk h d) h (specS [dS d] 1) (fun p _ x => x.paired p = false) (intoS 1 d fun _ _ x => BitVec.ofNat 64 x.now) ∧
    ∀ value : BitVec 20, Runs (.mark h value) h (specS [] 1) (fun p k x =>
      if (x.core p).fb.ctl.getLsbD 3 then x.fbRecord p 1 value.toNat (x.strand p k).pc (BitVec.ofNat 64 x.now) else x)

/-- Helper, window and envelope words complete where their descriptors are right, and trap with cause 5 and the code of the refusal where
they are not (R201, R208, R209, R211, R216, R217, R220, R222, R425). -/
def Obligations.HelperAndWindowWords : Prop :=
  ∀ (h : Hdr) (d a : BitVec 8),
    let one : WordSpec := { specX [aS a] 1 with pre := controlOnly }
    let open' (l : List Opnd) : WordSpec := { specX l 1 with pre := trapIfOpen }
    let refused (code : Nat) (p k : Nat) (x : State) : Trap := { cause := 5, code := code, info := x.rS p k 1 a }
    (∀ hn : BitVec 4,
      let code (p k : Nat) (x : State) : Nat := (x.core p).startRefusal hn.toNat (x.rS p k 1 a)
      RunsIf (.start h a hn) h one (fun p k x => code p k x = 0 ∧ x.allDone p hn.toNat = true) (fun p k x =>
        let v := x.rS p k 1 a
        x.modStrand p hn.toNat fun t => { t with
          began := x.curId p
          readyAt := (x.core p).cycle + 2
          endedBy := none
          fuse := none
          live := true
          eb := fieldNat v 30 10
          el := fieldNat v 19 11
          wb := fieldNat v 9 10
          wl := fieldNat v 0 9
          pc := (x.strand p k).pc + 8 * (v.extractLsb' 40 24).signExtend 64
          wait := none
          stopped := false
          past := false
          aside := []
          failed := []
          body := []
          age := x.curId p }) ∧
      ∀ n, n ≠ 0 → TrapsIf (.start h a hn) h one (fun p k x => code p k x = n) (refused n)) ∧
    Runs (.hkill h a) h one (fun p k x => ((bitsSet 11 (x.rS p k 1 a).toNat).filter (· ≠ 0)).foldl (fun y n => y.killHelper p n) x) ∧
    (let len (p k : Nat) (x : State) : Nat :=
        if fieldNat (x.rS p k 1 a) 16 9 = 0 then (x.strand p k).wl else fieldNat (x.rS p k 1 a) 16 9
      let out (p k : Nat) (x : State) : Bool := (x.strand p k).outside (fieldNat (x.rS p k 1 a) 0 10) (len p k x)
      RunsIf (.win h a) h (open' [aS a]) (fun p k x => len p k x ≤ 256 ∧ out p k x = false)
        (fun p k x => x.setWindow p k (fieldNat (x.rS p k 1 a) 0 10) (len p k x)) ∧
      TrapsIf (.win h a) h (open' [aS a]) (fun p k x => 256 < len p k x) (refused 2) ∧
      TrapsIf (.win h a) h (open' [aS a]) (fun p k x => len p k x ≤ 256 ∧ out p k x = true) (refused 1)) ∧
    (∀ (delta : BitVec 11) (limit : BitVec 9),
      let nb (p k : Nat) (x : State) : Int := (x.strand p k).wb + delta.toInt
      let len (p k : Nat) (x : State) : Nat := if limit = 0 then (x.strand p k).wl else limit.toNat
      RunsIf (.wins h delta limit) h (open' [])
        (fun p k x => len p k x ≤ 256 ∧ 0 ≤ nb p k x ∧ (x.strand p k).outside (nb p k x).toNat (len p k x) = false)
        (fun p k x => x.setWindow p k (nb p k x).toNat (len p k x)) ∧
      (let asked (p k : Nat) (x : State) : Word := BitVec.ofNat 64 ((BitVec.ofInt 10 (nb p k x)).toNat + len p k x % 512 * 2 ^ 16 +
          (BitVec.ofInt 32 (nb p k x)).toNat * 2 ^ 32);
        TrapsIf (.wins h delta limit) h (open' []) (fun p k x => 256 < len p k x)
          (fun p k x => { cause := 5, code := 2, info := asked p k x }) ∧
        TrapsIf (.wins h delta limit) h (open' [])
          (fun p k x => len p k x ≤ 256 ∧ (nb p k x < 0 ∨ (x.strand p k).outside (nb p k x).toNat (len p k x) = true))
          (fun p k x => { cause := 5, code := 1, info := asked p k x }))) ∧
    (let nb (p k : Nat) (x : State) : Nat := fieldNat (x.rS p k 1 a) 0 10
      let nl (p k : Nat) (x : State) : Nat := fieldNat (x.rS p k 1 a) 16 9
      GoesIf (.wswap h a) h { specX [aS a] 2 with noHeader := true, pre := trapAtEnd }
        (fun p k x => 1 ≤ nl p k x ∧ nl p k x ≤ 256 ∧ (x.strand p k).outside (nb p k x) (nl p k x) = false ∧
          (x.core p).locked (x.strand p k).wb = false ∧ (x.core p).saturated (x.strand p k).wb = false ∧
          (x.core p).busy (nb p k x) = false)
        (fun p k x =>
          let y := x.writeDest p 1 ⟨(x.strand p k).wb, 0⟩ ((x.strand p k).pc + 8)
          let y := if x.inBody p k then y.putHbits p k 6 53 4 (fieldNat (x.hword p k 6) 53 4 + 1) else y
          let y := y.setWindow p k (nb p k x) (nl p k x)
          y.goto p k (BitVec.ofNat 64 (fieldNat (y.hword p k 0) 3 54 * 8))) ∧
      TrapsIf (.wswap h a) h { specX [aS a] 2 with noHeader := true, pre := trapAtEnd } (fun p k x => nl p k x = 0 ∨ 256 < nl p k x) (refused 2) ∧
      TrapsIf (.wswap h a) h { specX [aS a] 2 with noHeader := true, pre := trapAtEnd }
        (fun p k x => 1 ≤ nl p k x ∧ nl p k x ≤ 256 ∧ (x.strand p k).outside (nb p k x) (nl p k x) = true) (refused 1)) ∧
    Runs (.wrd h d) h (specX [dS d] 1) (intoS 1 d fun p k x =>
      let t := x.strand p k
      BitVec.ofNat 64 (t.wb % 1024 + t.wl % 512 * 2 ^ 16 + t.eb % 1024 * 2 ^ 32 + t.el % 2048 * 2 ^ 48)) ∧
    (let spec : WordSpec := { specX [dS d, aS a] 1 with usesHeader := true, hw := [7] };
      RunsIf (.tdel h d a) h spec (fun p k x => fieldNat (x.rS p k 1 a) 61 3 = 0) (fun p k x =>
        (x.putHmask p k 7 (~~~0 ^^^ bitMask 60 1)
          (setBits (setBits (x.rS p k 1 a) 0 3 0) 60 1 (fieldNat (x.hword p k 7) 60 1))).wS p k 1 d (x.hword p k 7)) ∧
      TrapsIf (.tdel h d a) h spec (fun p k x => fieldNat (x.rS p k 1 a) 61 3 ≠ 0) (fun _ _ x => x.wordTrap 3)) ∧
    (let n (p k : Nat) (x : State) : Nat := fieldNat (x.rS p k 1 a) 60 4
      let eb (p k : Nat) (x : State) : Nat := fieldNat (x.rS p k 1 a) 32 10
      let el (p k : Nat) (x : State) : Nat := fieldNat (x.rS p k 1 a) 48 11
      RunsIf (.env h a) h one (fun p k x => (x.core p).envRefusal (n p k x) (eb p k x) (el p k x) = 0)
        (fun p k x => x.modStrand p (n p k x) fun t => { t with eb := eb p k x, el := el p k x }) ∧
      ∀ code, code ≠ 0 → TrapsIf (.env h a) h one (fun p k x => (x.core p).envRefusal (n p k x) (eb p k x) (el p k x) = code)
        (refused code))

/-- TRET returns from a delegated handler with the window left as it is, and from supervisor code with the saved window; the strand goes on
at S[A], and a strand that runs no handler traps with cause 3 (R221, R430). -/
def Obligations.TrapReturn : Prop :=
  ∀ (h : Hdr) (a : BitVec 8),
    let spec : WordSpec := { specX [aS a] 2 with usesHeader := true, hw := [7], pre := trapIfNone }
    let sup (p k : Nat) (x : State) : Prop := k = 0 ∧ (x.core p).sup.sv = true
    let next (p k : Nat) (x : State) : Word := BitVec.ofNat 64 (fieldNat (x.rS p k 1 a) 3 54 * 8)
    GoesIf (.tret h a) h spec (fun p k x => ¬sup p k x)
      (fun p k x => (x.putHbits p k 7 60 1 0).modStrand p k fun t => { t.takeUp with pc := next p k x }) ∧
    GoesIf (.tret h a) h spec sup (fun p k x =>
      ((x.putHbits p 0 7 60 1 0).modStrand p 0 fun t => { t.takeUp with
        wb := fieldNat t.frame.w0 32 10, wl := fieldNat t.frame.w0 48 9, pc := next p k x }).modCore p fun c =>
          { c with sup := { c.sup with sv := false } }) ∧
    ∀ s : State,
      let p := s.focus.pcid
      let k := s.focus.strand
      (s.core p).gang = none → s.HeaderClear p k h spec → fieldNat (s.hword p k 7) 60 1 = 0 →
        exec (.tret h a) s = .next (s.trapAll k (s.wordTrap 3) [p])

/-- SNAGW completes and SNAGX fails the pending run of ring entries that S[A] names; where none is pending there they trap with cause 3
(R223, R435, R436). -/
def Obligations.SnagWords : Prop :=
  ∀ (h : Hdr) (a b : BitVec 8),
    let i (p k : Nat) (x : State) : Nat := fieldNat (x.rS p k 1 a) 0 8
    let sw : WordSpec := { specX [aS a, { bV b with src := false }] 1 with pre := controlOnly }
    let sx : WordSpec := { specX [aS a, bS b] 1 with pre := controlOnly }
    let writes (g : Snag) : Option Nat := match g.owner with
      | .op o => o.row
      | .engine _ _ => none
    (∀ g, RunsIf (.snagw h a b) h sw (fun p k x => (x.core p).snagAt (i p k x) = some g ∧ writes g = none)
      (fun p _ x => x.completeSnag p g 0)) ∧
    (∀ g r, RunsIf (.snagw h a b) h sw (fun p k x => (x.core p).snagAt (i p k x) = some g ∧ writes g = some r ∧
        (x.core p).busy (x.opRow p k (bV b)) = false ∧ (x.core p).locked r = false)
      (fun p k x => x.completeSnag p g (x.rV p k 2 b))) ∧
    (∀ g, RunsIf (.snagx h a b) h sx (fun p k x => (x.core p).snagAt (i p k x) = some g)
      (fun p k x => x.failSnag p g (fieldNat (x.rS p k 2 b) 0 8))) ∧
    TrapsIf (.snagw h a b) h sw (fun p k x => (x.core p).snagAt (i p k x) = none) (fun _ _ x => x.wordTrap 3) ∧
    TrapsIf (.snagx h a b) h sx (fun p k x => (x.core p).snagAt (i p k x) = none) (fun _ _ x => x.wordTrap 3)

/-! ## Waits -/

/-- The wait words: each ends at once where its condition holds, ends at once as a poll where its deadline is 0, and else leaves its strand
waiting (R126, R210, R213, R219, R277, R279, R288, R295, R297, R299). SLEEP and SSTEP begin with a condition that does not hold yet, so they
end at once only as polls; a poll of a BWAIT whose release, or of an SSTEP whose entry into Compute, falls in its own tick waits for it instead (R279,
R299, R439). -/
def Obligations.WaitWords : Prop :=
  ∀ (h : Hdr) (d a b : BitVec 8) (wall : BitVec 1),
    let always (_ _ : Nat) (_ : State) : Prop := True
    let start (_ _ : Nat) (x : State) : State := x
    let dl (p k : Nat) (x : State) : Word := x.rS p k 2 b
    let none' (_ _ : Nat) (_ : State) : Option Dest := none
    let dest (p k : Nat) (x : State) : Option Dest := some (x.destOf p k 0 d)
    WaitsFor (.join h d b wall) h (specWait [dSrc d, bS b]) always
      ⟨start, fun p k x => .join (fieldNat (x.rS p k 0 d) 0 11), dl, wall, none'⟩ ∧
    WaitsFor (.sleep h d a b wall) h (specWait [dS d, aS a, bS b]) always
      ⟨start, fun p k x => .sleep (fieldNat (x.rS p k 1 a) 0 (if k = 0 then 4 else 2)) 0, dl, wall, dest⟩ ∧
    WaitsFor (.wdrain h d b wall) h (specWait [dSrc d, bS b])
      (fun p k x =>
        let f := fieldNat (x.rS p k 0 d) 0 10
        let n := fieldNat (x.rS p k 0 d) 16 11
        n = 0 ∨ ((x.strand p k).eb ≤ f ∧ f + n ≤ (x.strand p k).eb + (x.strand p k).el))
      ⟨start, fun p k x => .wdrain (fieldNat (x.rS p k 0 d) 0 10) (fieldNat (x.rS p k 0 d) 16 11), dl, wall, none'⟩ ∧
    (∀ (classes : BitVec 8) (scope : BitVec 3), WaitsFor (.fence h d b classes scope wall) h (specWait [dS d, bS b]) always
      ⟨fun p k x => x.modCore p fun c => c.markFence k (x.curId p), fun p _ x => .fence classes.toNat scope.toNat (x.curId p) none, dl, wall,
        dest⟩) ∧
    (∀ g : BitVec 2, WaitsFor (.bwait h d g b wall) h { specWait [dS d, bS b] with pre := groupZero g }
      (fun p _ x => x.paired p = false)
      ⟨fun p _ x => if x.bwaitCase p g.toNat = 1 then x.consumeDone p g.toNat else x,
        fun p _ x => if x.bwaitCase p g.toNat = 2 then .bwait g.toNat none none else .bwait g.toNat none (some 0), dl, wall, dest⟩) ∧
    WaitsFor (.recv h d a b wall) h (specWait [dV d, { aS a with src := false, dst := true }, bS b]) always
      ⟨start, fun p k x => .recv ((x.strand p k).wb + x.vName p k 0 d.toNat) (x.destOf p k 1 a), dl, wall, none'⟩ ∧
    WaitsFor (.waitseq h d a b wall) h (specWait [dSrc d, aS a, bS b]) always
      ⟨start, fun p k x => match (x.core p).chainOf (x.rS p k 0 d) with
        | some (slot, c) => .waitseq slot c.gen c.eng (x.rS p k 1 a).toNat
        | none => .waitseq 0 (2 ^ 24) 0 (x.rS p k 1 a).toNat, dl, wall, none'⟩ ∧
    ∀ u : BitVec 1,
      let carried (p k : Nat) (x : State) : Option Word := if u = 1 then some (x.rS p k 1 a) else none
      let arrive (p k : Nat) (x : State) : State :=
        if (x.core p).exch.state = .compute then
          (x.modCore p fun c => { c with exch := { c.exch with
            plan := c.exch.sel, carried := carried p k x, pc := (c.strand k).pc, state := .arrived, mark := c.seq,
            sup := (x.who p k).sup } }).arriveEntry p
        else x
      WaitsFor (.sstep h a b u wall) h { specWait ((if u = 1 then [aS a] else []) ++ [bS b]) with pre := sstepTrap }
        (fun p k x => (carried p k x).bind (x.carryTrap p k) = none ∧ (x.core p).exch.planTrap = none ∧ x.sstepHeld p = false)
        ⟨arrive, fun p k x => .sstep ((arrive p k x).sstepCount p), fun p k x => (arrive p k x).rS p k 2 b, wall, none'⟩

/-! ## Memory words -/

/-- Loads, stores, full-empty words, atomics and reductions complete: they issue their operations in program order, each with its address,
width, order and bound register, each of which is performed when its turn has come, with the value that it returns in its register; and they
raise the alignment fault at the first address that is not aligned (R264 to R276). INFO of a misaligned LDV or STV is EA (R425; log entry 25); that the
lowest enabled element whose address is misaligned is the one that LDVX and STVX report is the model's choice (log entry 25). The words of a row access that
name memory on both sides of the aperture's first address are marked as such: they reach nothing (R87). -/
def Obligations.MemoryWords : Prop :=
  ∀ (h : Hdr) (d a b c : BitVec 8) (disp : BitVec 20) (scope sz : BitVec 3) (ord : BitVec 2) (m : BitVec 12) (wall : BitVec 1),
    let at' (kind : AccKind) (p k : Nat) (x : State) : MemOp :=
      { x.newOp p k kind (x.rS p k 1 a + disp.signExtend 64) sz.toNat with ord := ord.toNat, scope := scope.toNat }
    let row (p k : Nat) (x : State) : Nat := (x.strand p k).wb + x.vName p k 0 d.toNat
    let words (o : MemOp) (f : Nat → MemOp → MemOp) (p k : Nat) (x : State) : List MemOp :=
      let js := (List.range 8).filter fun j => (x.pred p k h.eq.toNat).getLsbD (2 * j)
      let past (j : Nat) : Bool := decide (aperture ≤ (o.va + BitVec.ofNat 64 (8 * j)).toNat)
      js.map fun j => f j { o with elem := j, va := o.va + BitVec.ofNat 64 (8 * j), straddle := js.any past && js.any fun j => !past j }
    let w := if sz.toNat = 1 then 32 else 64
    let elems (kind : AccKind) (p k : Nat) (x : State) : List MemOp :=
      ((List.range (512 / w)).filter (laneOn w (x.pred p k h.eq.toNat))).map fun i =>
        { x.newOp p k kind (x.rS p k 1 a + BitVec.ofInt 64 (sint w (fieldNat (modified m 1 (x.rV p k 2 b)) (w * i) w))) sz.toNat with
          elem := i, ord := ord.toNat, scope := scope.toNat }
    let bound (p k : Nat) (x : State) (o : MemOp) : MemOp := o.toScalar (x.destOf p k 0 d)
    let atomic (aop : Nat) (p k : Nat) (x : State) : List MemOp :=
      [bound p k x { x.newOp p k .atomic (x.rS p k 1 a) sz.toNat with
        ord := ord.toNat, scope := scope.toNat, aop := aop, data := x.rS p k 2 b }]
    let reduction (aop : Nat) (p k : Nat) (x : State) : List MemOp :=
      [{ at' .reduction p k x with aop := aop, data := x.rS p k 0 d }]
    let full (p k : Nat) (x : State) : Bool :=
      decide (x.pred p k h.eq.toNat &&& 0x5555 = 0x5555) && decide ((x.rS p k 1 a + disp.signExtend 64).toNat % 64 = 0)
    let ea (p k : Nat) (x : State) : Nat := (x.rS p k 1 a + disp.signExtend 64).toNat
    let misaligned (p k : Nat) (x : State) : Trap := { cause := 6, code := 0, info := x.rS p k 1 a + disp.signExtend 64 }
    let n := szBytes sz.toNat
    let three := specM [dS d, aS a, bS b] true
    let two := specM [dSrc d, aS a] true
    Issues (.ld h d a disp scope ord sz) h (specM [dS d, aS a] true) n (fun p k x => [bound p k x (at' .load p k x)]) ∧
    Issues (.st h d a disp scope ord sz) h two n (fun p k x => [{ at' .store p k x with data := x.rS p k 0 d }]) ∧
    (let i : Instr := .ldv h d a disp scope ord
      let l (p k : Nat) (x : State) : List MemOp :=
        words { at' .load p k x with bytes := 8, sz := 0 } (fun j o => o.toScalar { row := row p k x, word := j }) p k x
      IssuesIf i h (specM [dV d, aS a] false) (fun p k x => l p k x = [] ∨ ea p k x % 8 = 0) l ∧
      TrapsIf i h (specM [dV d, aS a] false) (fun p k x => l p k x ≠ [] ∧ ea p k x % 8 ≠ 0) misaligned) ∧
    (let i : Instr := .stv h d a disp scope ord
      let l (p k : Nat) (x : State) : List MemOp :=
        words { at' .store p k x with bytes := 8, sz := 0, whole := full p k x } (fun j o => { o with data := rowWord (x.rV p k 0 d) j }) p k x
      IssuesIf i h (specM [dVsrc d, aS a] false) (fun p k x => l p k x = [] ∨ ea p k x % 8 = 0) l ∧
      TrapsIf i h (specM [dVsrc d, aS a] false) (fun p k x => l p k x ≠ [] ∧ ea p k x % 8 ≠ 0) misaligned) ∧
    Issues (.ldvx h d a b scope ord sz m) h (specM [dV d, aS a, bV b] false) (w / 8) (fun p k x =>
      (elems .load p k x).map fun o => { o with row := some (row p k x), bit := w * o.elem, width := w }) ∧
    (let i : Instr := .stvx h d a b scope ord sz m;
      IssuesIf i h (specM [dVsrc d, aS a, bV b] false) (fun p k x => ∀ o ∈ elems .store p k x, o.va.toNat % (w / 8) = 0)
        (fun p k x => x.unshadowed p ((elems .store p k x).map fun o =>
          { o with data := BitVec.ofNat 64 (fieldNat (x.rV p k 0 d) (w * o.elem) w) })) ∧
      ∀ o, TrapsIf i h (specM [dVsrc d, aS a, bV b] false)
        (fun p k x => (elems .store p k x).find? (fun o => o.va.toNat % (w / 8) ≠ 0) = some o)
        (fun _ _ _ => { cause := 6, code := 0, info := o.va })) ∧
    Issues (.stf h d a disp scope sz) h two n (fun p k x => [{ at' .stf p k x with ord := 2, data := x.rS p k 0 d }]) ∧
    Issues (.feclr h a disp scope ord) h (specM [aS a] true) 8 (fun p k x => [{ at' .feclr p k x with bytes := 8, sz := 0 }]) ∧
    IssuesIf (.ferd h d a disp scope ord) h (specM [dS d, aS a] true) (fun p k x => ea p k x % 512 = 0)
      (fun p k x => (List.range 64).map fun j =>
        { at' .load p k x with bytes := 8, sz := 0, va := (at' .load p k x).va + BitVec.ofNat 64 (8 * j), elem := j, ferd := true,
                               row := some (x.destOf p k 0 d).row, bit := 64 * (x.destOf p k 0 d).word + j, width := 1 }) ∧
    TrapsIf (.ferd h d a disp scope ord) h (specM [dS d, aS a] true) (fun p k x => ea p k x % 512 ≠ 0) misaligned ∧
    Issues (.aadd h d a b scope ord sz) h three n (atomic 0) ∧ Issues (.aand h d a b scope ord sz) h three n (atomic 1) ∧
    Issues (.aor h d a b scope ord sz) h three n (atomic 2) ∧ Issues (.axor h d a b scope ord sz) h three n (atomic 3) ∧
    Issues (.amin h d a b scope ord sz) h three n (atomic 4) ∧ Issues (.amax h d a b scope ord sz) h three n (atomic 5) ∧
    Issues (.aminu h d a b scope ord sz) h three n (atomic 6) ∧ Issues (.amaxu h d a b scope ord sz) h three n (atomic 7) ∧
    Issues (.axchg h d a b scope ord sz) h three n (atomic 8) ∧ Issues (.afadd h d a b scope ord sz) h three n (atomic 10) ∧
    Issues (.acas h d a b c scope ord sz) h (specM [dS d, aS a, bS b, cS c] true) n (fun p k x =>
      [bound p k x { x.newOp p k .atomic (x.rS p k 1 a) sz.toNat with
        ord := ord.toNat, scope := scope.toNat, aop := 9, data := x.rS p k 3 c, cmp := x.rS p k 2 b }]) ∧
    Issues (.radd h d a disp scope ord sz) h two n (reduction 0) ∧ Issues (.rand h d a disp scope ord sz) h two n (reduction 1) ∧
    Issues (.rior h d a disp scope ord sz) h two n (reduction 2) ∧ Issues (.rxor h d a disp scope ord sz) h two n (reduction 3) ∧
    Issues (.rmin h d a disp scope ord sz) h two n (reduction 4) ∧ Issues (.rmax h d a disp scope ord sz) h two n (reduction 5) ∧
    Issues (.rfadd h d a disp scope ord sz) h two n (reduction 10) ∧
    ∀ s : State,
      let p := s.focus.pcid
      let k := s.focus.strand
      let x := s.begun three
      let o := bound p k x { x.newOp p k .lds (x.rS p k 1 a) sz.toNat with ord := 1, scope := scope.toNat }
      Alone h three s → o.va.toNat % n = 0 → x.MayIssue p k [o] →
        let t := (x.withOps p [o]).hold p k (x.newWait p (.lds (x.curId p) none 0) (x.rS p k 2 b) wall (some (x.destOf p k 0 d)) h)
        exec (.lds h d a b scope sz wall) s = .next t ∧ t.Lands p o

/-- Quantisation to memory issues one store of a block and its scale and counts underflows. DTLD issues one load for each of the 128 words of an
image in the core's TCM, and the last of them to be performed changes the decode table. What keeps either from it traps (R256, R259, R260). DTLD loads
whatever EQ enables (log entry 25), and MXQ reads S[C] only with RM = 5 (log entry 71): both are the model's readings. -/
def Obligations.BlockAndTableWords : Prop :=
  ∀ (h : Hdr) (d a b c : BitVec 8) (ty rm : BitVec 3),
    let sq : WordSpec := { specV [dSrc d, dSnext d, aV a, aVnext a, bS b, { cS c with src := decide (rm = 5) }] 6 with pre := tableWait }
    let sd : WordSpec := { specV [aS a] 1 with pre := tableWait }
    let n := if ty = 3 then 32 else 16
    let es (p k : Nat) (x : State) : List (Nat × Bool) :=
      ((mxElems (x.rV p k 1 a) (x.rVnext p k 1 a) (fieldNat (x.rS p k 2 b) 0 8)).zip (List.range 32)).map fun y =>
        narrowElem (x.core p).table ty rm.toNat y.1 (x.rndOf p (x.rS p k 3 c) y.2)
    let block (p k : Nat) (x : State) : MemOp := { x.newOp p k .mxq (x.rS p k 0 d) 0 with
      bytes := n, sz := if ty = 3 then 0 else 1, sva := x.rSnext p k d, scale := BitVec.ofNat 8 (fieldNat (x.rS p k 2 b) 0 8),
      codes := natBytes n (packLanes (if ty = 3 then 8 else 4) ((es p k x).map (·.1))) }
    IssuesAnd (.mxqMem h d a b c ty rm) h sq (fun p k x => (x.rS p k 0 d).toNat % n = 0 ∧ (x.core p).tableFault ty = none)
      (fun p k x => [block p k x]) (fun p k x y => y.countUf p 6 0 ((es p k x).map (·.2))) ∧
    TrapsIf (.mxqMem h d a b c ty rm) h sq (fun p k x => (x.rS p k 0 d).toNat % n ≠ 0)
      (fun p k x => { cause := 6, code := 0, info := x.rS p k 0 d }) ∧
    (∀ t, TrapsIf (.mxqMem h d a b c ty rm) h sq
      (fun p k x => (x.rS p k 0 d).toNat % n = 0 ∧ (x.core p).tableFault ty = some t) (fun _ _ _ => t)) ∧
    (let off (p k : Nat) (x : State) : Nat := (x.rS p k 1 a).toNat - aperture
      let wrong (p k : Nat) (x : State) : Prop := (x.rS p k 1 a).toNat < aperture ∨ 2 ^ 17 < off p k x + 1024 ∨ off p k x % 4 ≠ 0 ∨
        ((x.core p).inSupArea (off p k x) 1024 ∧ (x.who p k).sup = false ∧ (x.who p k).firmware = false)
      IssuesAnd (.dtld h a) h sd (fun p k x => ¬wrong p k x)
        (fun p k x => (List.range 128).map fun j => { x.newOp p k .table (x.rS p k 1 a + BitVec.ofNat 64 (8 * j)) 0 with elem := j })
        (fun p _ _ y => y.modCore p fun c => { c with loading := some { due := c.cycle + 16, words := [] } }) ∧
      TrapsIf (.dtld h a) h sd wrong (fun p k x => { cause := 8, code := 0, info := x.rS p k 1 a })) ∧
    ∀ (s : State) (p : Nat) (o : MemOp) (l : Nat) (rs host : Bool) (tl : TableLoad),
      o.kind = .table → o.row = none → (s.core p).opAt o.id o.elem = some o → s.opReady p o = true → s.paired p = false →
      s.access p o = .loc l rs host → s.mayPerform p o l host = true → host = false → o.whole = false → (s.core p).loading = some tl →
        let ws := put o.elem (BitVec.ofNat 64 (s.seen p o l)) tl.words
        ∃ t, exec (.memoryAccessPerformed p o.id o.elem) s = .next t ∧
          (ws.length < 128 → (t.core p).table = (s.core p).table ∧ (t.core p).loading = some { tl with words := ws }) ∧
          (128 ≤ ws.length → (t.core p).loading = none ∧
            (t.core p).table = tableOfImage (ws.flatMap fun w => natBytes 8 w.2.toNat) ∧
            (t.core p).v8 = tableV8 (t.core p).table ∧ (t.core p).v4 = tableV4 (t.core p).table)

/-! ## Barriers, messages, chains -/

/-- Barrier, message and plan words complete on a core that is not one of a pair: arrival, withdrawal, membership, state, SEND, queue state
and the choice of a plan (R287, R289 to R291, R293, R296, R298). A mask address of BCFG that is not an aligned own-TCM range which the strand may read
raises the address fault, cause 8, with the address: that trap is the model's choice (log entry 48). -/
def Obligations.BarrierAndMessageWords : Prop :=
  ∀ (h : Hdr) (d a b : BitVec 8) (g : BitVec 2),
    let unpaired (p _ : Nat) (x : State) : Prop := x.paired p = false
    let st (v : Nat) : Word := BitVec.ofNat 64 v
    let turned (f : Nat → State → Bool) (pre : Nat → Nat → State → Verdict) : Nat → Nat → State → Verdict := holdIf f pre
    RunsIf (.barr h d g) h { specX [dS d] 1 with pre := turned (fun p x => x.groupTurned p g.toNat true) (groupZero g) } unpaired
      (fun p k x => (x.barr p k g.toNat).2.wS p k 1 d (st (x.barr p k g.toNat).1)) ∧
    RunsIf (.bwd h d g) h { specX [dS d] 1 with pre := turned (fun p x => x.groupTurned p g.toNat false) noTrap } unpaired
      (fun p k x => (x.bwd p g.toNat).2.wS p k 1 d (st (x.bwd p g.toNat).1)) ∧
    RunsIf (.bstat h d g) h (specX [dS d] 2) unpaired (intoS 2 d fun p _ x => x.bstat p g.toNat) ∧
    RunsIf (.qstat h d) h (specX [dS d] 2) unpaired (intoS 2 d fun p _ x => x.qstat p) ∧
    (∀ (scope : BitVec 3) (m : BitVec 12), RunsIf (.send h a b scope m) h (specX [aV a, bS b] 1)
      (fun p k x => x.paired p = false ∧ (∀ o ∈ (x.core p).snagOps, o.strand ≠ k) ∧ (x.ostcnt p k).1 < 65535)
      (fun p k x => x.sendMessage (x.newMessage p k (modified m 0 (x.rV p k 1 a)) (x.rS p k 2 b)))) ∧
    Runs (.xplan h a) h { specX [aS a] 1 with pre := helperTrap } (fun p k x =>
      x.modCore p fun c => { c with exch := { c.exch with sel := fieldNat (x.rS p k 1 a) 0 8 } }) ∧
    ∀ u : BitVec 1,
      let off (p k : Nat) (x : State) : Nat := (x.rS p k 2 b).toNat - aperture
      let cores (p : Nat) (x : State) : Nat := ((x.instOf p).map fun i => i.2.p).getD 0
      let len (p : Nat) (x : State) : Nat := 8 * ((cores p x + 63) / 64)
      let wrong (p k : Nat) (x : State) : Prop := (x.rS p k 2 b).toNat < aperture ∨ 2 ^ 17 < off p k x + len p x ∨ off p k x % 8 ≠ 0 ∨
        ((x.core p).inSupArea (off p k x) (len p x) ∧ (x.who p k).sup = false ∧ (x.who p k).firmware = false)
      let result (p k : Nat) (x : State) : Nat × State :=
        x.bcfg p g.toNat (bitsSet (cores p x) (x.loadNat (tcmBase p + off p k x) (len p x))) (u == 1)
      RunsIf (.bcfg h d g b u) h { specX [dS d, bS b] 1 with pre := turned (fun p x => x.configTurned p g.toNat) (groupZero g) }
        (fun p k x => x.paired p = false ∧ ¬wrong p k x ∧ x.poisoned (tcmBase p + off p k x) (len p x) = false ∧
          x.readHeld p k (x.rS p k 2 b) (len p x) = false)
        (fun p k x => (result p k x).2.wS p k 1 d (st (result p k x).1)) ∧
      TrapsIf (.bcfg h d g b u) h { specX [dS d, bS b] 1 with pre := turned (fun p x => x.configTurned p g.toNat) (groupZero g) } wrong
        (fun p k x => { cause := 8, code := 0, info := x.rS p k 2 b })

/-- Chain words complete: CHAIN binds the lowest free slot and clears the completion word, or answers status 2 for a bad descriptor and 1
where no slot is free, each once the charges of what it reads and stores are taken (R358, R383); CHAIN.UNBIND frees a slot whose commands have completed; SEQRD reads a chain's counts and its error record; APPEND
issues the four stores of the command word and adds the command, or traps with cause 1 for a handle that names no chain, for an opcode
of another engine, and for one of no engine of the part whatever the handle (R3, R305, R306, R308). That a descriptor address which is not the strand's own TCM gives status 2 is the model's choice (log
entry 66). -/
def Obligations.ChainWords : Prop :=
  ∀ (h : Hdr) (d a b : BitVec 8),
    let two : WordSpec := specX [dS d, aS a] 2
    (let sc : WordSpec := { two with pre := chainTrap a }
      let at' (p k : Nat) (x : State) : Option Nat := x.ownDescriptor p (x.who p k).sup (x.rS p k 1 a)
      let calm (p k : Nat) (x : State) (l : Nat) : Prop :=
        at' p k x = some l ∧ (x.core p).unsettled k = false ∧ x.descriptorHeld p k (x.rS p k 1 a) l = false
      let bad (v : Nat) : Nat → Nat → State → State := intoS 2 d fun _ _ _ => BitVec.ofNat 64 (v * 2 ^ 56)
      let eng (x : State) (l : Nat) : Nat := fieldNat (x.loadWord l) 0 2
      let logn (x : State) (l : Nat) : Nat := fieldNat (x.loadWord l) 4 4
      let form (x : State) (l : Nat) : Bool := descriptorOk (x.loadWord l) (x.loadWord (l + 8)) (x.loadWord (l + 16)) (x.loadWord (l + 24))
      let ring (p k : Nat) (x : State) (l : Nat) : Option Bool :=
        x.bindableAll p (x.who p k).sup 32 (ringEntries (x.loadWord (l + 8)) (logn x l))
      let word (p k : Nat) (x : State) (l : Nat) : Option Bool := x.bindable p (x.who p k).sup (x.loadWord (l + 16)) 8
      let good (p k : Nat) (x : State) (l : Nat) : Prop :=
        calm p k x l ∧ form x l = true ∧ ring p k x l = some true ∧ word p k x l = some true
      let read (p : Nat) (x : State) : Prop := x.canPay p (x.charge p 4) = true
      let paidBad (v : Nat) (p k : Nat) (x : State) : State := bad v p k (x.pay p 0 (x.charge p 4))
      let cost (p k : Nat) (x : State) (l : Nat) : Nat := x.chainCharge p (x.who p k).sup (x.loadWord (l + 16))
      RunsIf (.chain h d a) h sc (fun p k x => at' p k x = none) (bad 2) ∧
      RunsIf (.chain h d a) h sc (fun p k x => read p x ∧ ∃ l, calm p k x l ∧ form x l = false) (paidBad 2) ∧
      RunsIf (.chain h d a) h sc
        (fun p k x => read p x ∧ ∃ l r w, calm p k x l ∧ form x l = true ∧ ring p k x l = some r ∧ word p k x l = some w ∧ (r && w) = false)
        (paidBad 2) ∧
      RunsIf (.chain h d a) h sc (fun p k x => read p x ∧ ∃ l, good p k x l ∧ (x.core p).freeSlot = none) (paidBad 1) ∧
      RunsIf (.chain h d a) h sc (fun p k x => ∃ l, good p k x l ∧ (x.core p).freeSlot.isSome = true ∧ x.canPay p (cost p k x l) = true)
        (fun p k x =>
          let l := (at' p k x).getD 0
          let i := (x.core p).freeSlot.getD 0
          let g := ((look Chain.free i (x.core p).chains).gen + 1) % 2 ^ 24
          let w2 := x.loadWord (l + 16)
          let w3 := x.loadWord (l + 24)
          let c : Chain := { Chain.free with
            bound := true, gen := g, eng := eng x l, logn := logn x l, ring := x.loadWord (l + 8), cword := w2,
            hirq := w3.getLsbD 63, vec := fieldNat w3 0 11, binder := k }
          let y := (x.pay p 0 (cost p k x l)).chainWalked p (ringEntries (x.loadWord (l + 8)) (logn x l)) w2
          ((y.clearCword p (x.who p k).sup w2).modCore p fun y => { y with chains := put i c y.chains }).wS p k 2 d
            (BitVec.ofNat 64 (g * 2 ^ 8 + eng x l * 2 ^ 4 + i)))) ∧
    (let ch (p k : Nat) (x : State) : Option (Nat × Chain) := (x.core p).chainOf (x.rS p k 1 a);
      RunsIf (.chainUnbind h d a) h two (fun p k x => ch p k x = none) (intoS 2 d fun _ _ _ => BitVec.ofNat 64 (2 * 2 ^ 56)) ∧
      RunsIf (.chainUnbind h d a) h two (fun p k x => ∃ i c, ch p k x = some (i, c) ∧ c.cmds = []) (fun p k x =>
        let y := (ch p k x).getD (0, Chain.free)
        (x.modCore p fun c => { c with chains := put y.1 { Chain.free with gen := y.2.gen } c.chains }).wS p k 2 d 0) ∧
      ∀ sel : BitVec 2, RunsIf (.seqrd h d a sel) h two (fun p _ x => x.paired p = false) (fun p k x =>
        match ch p k x with
        | none => x.wS p k 2 d 0xFFFFFFFFFFFFFFFF
        | some (i, c) =>
          if sel.toNat = 2 then (x.modCore p fun y => { y with chains := put i { c with err := 0 } y.chains }).wS p k 2 d c.err
          else x.wS p k 2 d (match sel.toNat with
            | 0 => BitVec.ofNat 64 c.completed
            | 1 => BitVec.ofNat 64 c.appended
            | _ => c.err))) ∧
    ∀ u : BitVec 1,
      let spec : WordSpec := { specX [dSrc d, aV a, bS b] 2 with pre := appendTrap d a u.toNat }
      let ch (p k : Nat) (x : State) : Option (Nat × Chain) := (x.core p).chainOf (x.rS p k 0 d)
      let eop (p k : Nat) (x : State) : Nat := (ecwOfRow (x.rV p k 1 a) u.toNat).1
      let e0 (p k : Nat) (x : State) : Ecw := (ecwOfRow (x.rV p k 1 a) u.toNat).2
      let rows (p k : Nat) (x : State) : List Nat :=
        if namesRows (eop p k x) (e0 p k x).opd then
          (List.range (rowRange (e0 p k x).opd).2).map fun i => (x.strand p k).wb + (rowRange (e0 p k x).opd).1 + i
        else []
      let word (p k : Nat) (x : State) (c : Chain) : Ecw :=
        let sc := x.rS p k 2 b
        { e0 p k x with
          sca := sc.extractLsb' 0 8, scb := sc.extractLsb' 8 8
          link := c.ring + BitVec.ofNat 64 (32 * ((c.appended + 1) % 2 ^ c.logn))
          opd := if namesRows (eop p k x) (e0 p k x).opd then
              setBits (e0 p k x).opd 0 10 ((x.strand p k).wb + (rowRange (e0 p k x).opd).1) else (e0 p k x).opd }
      let chain (p k : Nat) (x : State) : Nat × Chain := (ch p k x).getD (0, Chain.free)
      let stores (p k : Nat) (x : State) : List MemOp :=
        let c := (chain p k x).2
        x.appendOps p k (c.ring + BitVec.ofNat 64 (32 * (c.appended % 2 ^ c.logn))) (word p k x c) (eop p k x)
      let ready (p k : Nat) (x : State) (c : Chain) : Prop :=
        eopEngine (eop p k x) = some c.eng ∧ x.rowsTrap p k (eop p k x) (e0 p k x).opd = none ∧
          (∀ r ∈ rows p k x, (x.core p).busy r = false) ∧ x.appendHeld p k (eop p k x) = false
      IssuesAnd (.append h d a b u) h spec
        (fun p k x => ∃ i c, ch p k x = some (i, c) ∧ ready p k x c ∧ x.staleTrap p (eop p k x) (e0 p k x).hc = none ∧
          c.appended - c.completed < 2 ^ c.logn ∧ (usesTable (eop p k x) = false ∨ (x.core p).thirdTable = false) ∧
          (∀ o ∈ (x.core p).snagOps, o.strand ≠ k) ∧ ((x.core p).openCmds k).length < 65535)
        stores (fun p k x y =>
          let i := (chain p k x).1
          let c := (chain p k x).2
          let m := Cmd.fresh (c.appended + 1) (eop p k x) (word p k x c) k (x.strand p k).pc (x.curId p) (x.who p k).sup (x.core p).table
            (rows p k x)
          y.modCore p fun z => { z.readRow (x.opRow p k (aV a)) 2 with
            locks := z.locks ++ rows p k x
            chains := put i { c with appended := c.appended + 1, cmds := c.cmds ++ [m] } z.chains }) ∧
      (∀ t, TrapsIf (.append h d a b u) h spec (fun p k x => ∃ i c, ch p k x = some (i, c) ∧ eopEngine (eop p k x) = some c.eng ∧
        x.rowsTrap p k (eop p k x) (e0 p k x).opd = some t) (fun _ _ _ => t)) ∧
      (∀ t, TrapsIf (.append h d a b u) h spec (fun p k x => ∃ i c, ch p k x = some (i, c) ∧ ready p k x c ∧
        x.staleTrap p (eop p k x) (e0 p k x).hc = some t) (fun _ _ _ => t)) ∧
      ∀ s : State,
        let p := s.focus.pcid
        let k := s.focus.strand
        let names (o : Opnd) : Prop := s.opInWindow p k o = true ∧ s.opHeld p k false o = false
        (s.core p).gang = none → s.HeaderClear p k h spec →
          ((names (dSrc d) ∧ (ch p k s = none ∨ ∃ i c, ch p k s = some (i, c) ∧ names (aV a) ∧ eopEngine (eop p k s) ≠ some c.eng)) ∨
            (s.opInWindow p k (dSrc d) = false ∧ names (aV a) ∧
              (eopEngine (eop p k s) = none ∨ (eopEngine (eop p k s) = some 2 ∧ s.coll = false)))) →
          exec (.append h d a b u) s = .next (s.trapAll k (s.wordTrap 1) [p])

/-! ## Palette, residencies, long accumulators -/

/-- Palette words complete: CLAIM takes the lowest free run of slots or answers status 1, RELS frees a tile, TSHAPE shapes it, TROW and TCOL
read and TWROW and TWCOL write a slice or a column of it; a tile word that names no claim of the core traps with cause 14 (R314 to R317). -/
def Obligations.PaletteWords : Prop :=
  ∀ (h : Hdr) (d a b c : BitVec 8),
    let w (p k : Nat) (x : State) : Word := x.rS p k 1 a
    let paid (p : Nat) (y : State) : State := y.pay p 0 (y.charge p 14)
    let rich (p : Nat) (y : State) : Prop := y.canPay p (y.charge p 14) = true
    (∀ n : BitVec 7,
      let run (p : Nat) (x : State) : Option Nat :=
        (List.range (65 - n.toNat)).find? fun f => (List.range n.toNat).all fun i => x.slotFree (cluOf p) (f + i)
      Runs (.claim h d n) h (specX [dS d] 2) (fun p k x =>
        match run p x with
        | none => x.wS p k 2 d (BitVec.ofNat 64 (2 ^ 16))
        | some f =>
          let t : Tile := { first := f, count := n.toNat, owner := p, ctx := (x.claimant p).1, log := (x.claimant p).2, shaped := false,
                            fmt := 0, tileRows := 0, cols := 0, saved := none }
          (((x.saveTiles (cluOf p) f n.toNat).wipe (palBase (cluOf p) + 4096 * f) (4096 * n.toNat)).modCluster (cluOf p)
            fun c => { c with tiles := c.tiles ++ [t] }).wS p k 2 d (BitVec.ofNat 64 (n.toNat * 64 + f)))) ∧
    RunsIf (.rels h a) h (specX [aS a] 1) (fun p k x => ∃ t, x.tileOf p (w p k x) = some t ∧ (x.core p).tileBusy t = false)
      (fun p k x => x.modCluster (cluOf p) fun y => { y with tiles := y.tiles.filter fun t => some t ≠ x.tileOf p (w p k x) }) ∧
    (let sh (p k : Nat) (x : State) : Word := x.rS p k 2 b;
      RunsIf (.tshape h a b) h (specX [aS a, bS b] 1)
        (tileIs w fun p k x _ t => fieldNat (sh p k x) 36 28 = 0 ∧ fieldNat (sh p k x) 32 4 ≤ 6 ∧ fieldNat (sh p k x) 16 16 ≠ 0 ∧
          fieldNat (sh p k x) 0 16 ≠ 0 ∧
          fieldNat (sh p k x) 0 16 * pitchOf (fieldNat (sh p k x) 32 4) (fieldNat (sh p k x) 16 16) ≤ 4096 * t.count)
        (withTile w fun p k x y t => y.setTile (cluOf p) t { t with
          shaped := true, fmt := fieldNat (sh p k x) 32 4, tileRows := fieldNat (sh p k x) 0 16, cols := fieldNat (sh p k x) 16 16 })) ∧
    (let slice (idx : Word) (p : Nat) (t : Tile) : Nat := tileLoc (cluOf p) t + fieldNat idx 0 16 * t.pitch + 64 * fieldNat idx 16 16
      let inside (idx : Word) (t : Tile) : Prop := t.shaped = true ∧ fieldNat idx 0 16 < t.tileRows ∧ 64 * fieldNat idx 16 16 < t.pitch
      let col (idx : Word) (t : Tile) : Prop := t.shaped = true ∧ fieldNat idx 16 16 < t.cols
      let n (t : Tile) : Nat := 512 / tileBits t.fmt
      RunsIf (.trow h d a b) h (specX [dV d, aS a, bS b] 3)
        (tileIs w fun p k _ y t => inside (y.rS p k 2 b) t ∧ y.poisoned (slice (y.rS p k 2 b) p t) 64 = false ∧ rich p y)
        (withTile w fun p k x y t => (paid p y).wV p k 3 d (laneMask (x.pred p k h.eq.toNat))
          (rowOfBytes (y.bytes (slice (y.rS p k 2 b) p t) 64))) ∧
      RunsIf (.twrow h a b c) h (specX [aS a, bV b, cS c] 1) (tileIs w fun p k _ y t => inside (y.rS p k 3 c) t ∧ rich p y)
        (withTile w fun p k x y t =>
          (paid p y).putTileLanes (slice (y.rS p k 3 c) p t) (x.pred p k h.eq.toNat) (y.rV p k 2 b)) ∧
      RunsIf (.tcol h d a b) h (specX [dV d, aS a, bS b] 4)
        (tileIs w fun p k x y t => col (y.rS p k 2 b) t ∧ rich p y ∧ ∀ i < n t, fieldNat (y.rS p k 2 b) 0 16 + i < t.tileRows →
          (x.pred p k h.eq.toNat).getLsbD (i * tileBits t.fmt / 32) = true →
          y.poisoned (tileLoc (cluOf p) t + (fieldNat (y.rS p k 2 b) 0 16 + i) * t.pitch +
            fieldNat (y.rS p k 2 b) 16 16 * tileBits t.fmt / 8) 1 = false)
        (withTile w fun p k x y t => (paid p y).wV p k 4 d (laneMask (x.pred p k h.eq.toNat))
          (rowOfLanes (tileBits t.fmt) ((List.range (n t)).map fun i =>
            if fieldNat (y.rS p k 2 b) 0 16 + i < t.tileRows then
              y.tileElem (cluOf p) t (fieldNat (y.rS p k 2 b) 0 16 + i) (fieldNat (y.rS p k 2 b) 16 16) else 0))) ∧
      RunsIf (.twcol h a b c) h (specX [aS a, bV b, cS c] 1) (tileIs w fun p k _ y t => col (y.rS p k 3 c) t ∧ rich p y)
        (withTile w fun p k x y t => (List.range (n t)).foldl (fun z i =>
          if fieldNat (y.rS p k 3 c) 0 16 + i < t.tileRows ∧ (x.pred p k h.eq.toNat).getLsbD (i * tileBits t.fmt / 32) then
            z.putElem (cluOf p) t (fieldNat (y.rS p k 3 c) 0 16 + i) (fieldNat (y.rS p k 3 c) 16 16)
              (fieldNat (y.rV p k 2 b) (tileBits t.fmt * i) (tileBits t.fmt))
          else z) (paid p y))) ∧
    ∀ (i : Instr) (spec : WordSpec),
      (i, spec) ∈ [(.rels h a, specX [aS a] 1), (.tshape h a b, specX [aS a, bS b] 1), (.trow h d a b, specX [dV d, aS a, bS b] 3),
        (.twrow h a b c, specX [aS a, bV b, cS c] 1), (.tcol h d a b, specX [dV d, aS a, bS b] 4),
        (.twcol h a b c, specX [aS a, bV b, cS c] 1)] →
      TrapsIf i h spec (fun p k x => x.tileOf p (w p k x) = none) (fun p k x => { cause := 14, code := 0, info := w p k x })

/-- Residency words complete: WRALLOC allocates plane units under a handle or answers a status, WRPIN and WRUNPIN set and clear PINNED,
WRREVOKE frees a residency that no command of any core names, WRQUERY reads its state; a value that is no live handle traps with cause 15 (R318 to
R322). -/
def Obligations.ResidencyWords : Prop :=
  ∀ (h : Hdr) (d a : BitVec 8),
    let v (p k : Nat) (x : State) : Word := x.rS p k 1 a
    let res (p k : Nat) (x : State) : Option Residency := x.liveRes p (v p k x).toNat
    let onHandle (f : Nat → Residency → State → State) : Nat → Nat → State → State := fun p k x => match res p k x with
      | some r => f p r x
      | none => x
    let second (p k : Nat) (x : State) : Dest :=
      { row := (x.strand p k).wb + x.sName p k 0 (d.toNat + 1) / 8, word := x.sName p k 0 (d.toNat + 1) % 8 }
    Runs (.wralloc h d a) h (specX [dS d, ⟨0, false, d.toNat + 1, false, true⟩, aS a] 4) (fun p k x =>
      let req := v p k x
      let (st, u) := x.wralloc p req
      if st ≠ 0 then (x.writeDest p 4 (x.destOf p k 0 d) 0).writeDest p 4 (second p k x) (BitVec.ofNat 64 st)
      else
        let n := fieldNat req 8 4 * fmtcUnits (fieldNat req 0 2)
        let g := (List.range n).foldl (fun z i => max z (look 0 (u + i) (x.cluster (cluOf p)).unitGen)) 0
        let r : Residency := {
          gen := g, mask := (2 ^ n - 1) * 2 ^ u, part := (x.ownerOf p).1, ctx := (x.ownerOf p).2,
          inst := (((x.core p).place).map fun l => l.inst).getD 0,
          fmtc := fieldNat req 0 2, planes := fieldNat req 8 4, sparse := req.getLsbD 2, pinned := false, state := .empty,
          wfmt := none, src := 0, scl := 0, ranges := [], table := [], data := [], scales := [], bad := [], fills := [] }
        (((x.modCluster (cluOf p) fun c => { c with
          residencies := c.residencies ++ [r]
          unitGen := (List.range n).foldl (fun z i => put (u + i) g z) c.unitGen }).writeDest p 4 (x.destOf p k 0 d)
            (BitVec.ofNat 64 (g * 2 ^ 28 + (x.ownerOf p).1 % 4 * 2 ^ 26 + cluOf p * 2 ^ 16 + (2 ^ n - 1) * 2 ^ u))).writeDest p 4
            (second p k x) 0)) ∧
    RunsIf (.wrpin h a) h (specX [aS a] 2) (fun p k x => (res p k x).isSome)
      (onHandle fun p r x => x.modRes (cluOf p) r.mask fun y => { y with pinned := true }) ∧
    RunsIf (.wrunpin h a) h (specX [aS a] 2) (fun p k x => (res p k x).isSome)
      (onHandle fun p r x => x.modRes (cluOf p) r.mask fun y => { y with pinned := false }) ∧
    RunsIf (.wrrevoke h a) h (specX [aS a] 2) (fun p k x => ∃ r, res p k x = some r ∧ x.resBusy (r.handle (cluOf p)) = false)
      (onHandle fun p r x => x.revoke (cluOf p) r) ∧
    RunsIf (.wrquery h d a) h (specX [dS d, aS a] 2) (fun p _ x => x.paired p = false)
      (intoS 2 d fun p k x => ((res p k x).map Residency.query).getD 0) ∧
    ∀ i ∈ [Instr.wrpin h a, .wrunpin h a, .wrrevoke h a],
      TrapsIf i h (specX [aS a] 2) (fun p k x => res p k x = none) (fun p k x => { cause := 15, code := 0, info := v p k x })

/-- Long-accumulator words complete on an object of the core's TCM: cleared, added to exactly, merged, rounded, its flags read. An address that
names no object traps with cause 12, that of B behind that of A; a word 0 whose fixed fields are not zero traps with cause 13, but not of LACLR,
which writes any object (R103, R104, R167 to R169, R328, R443). An object in the supervisor area is none that another strand's address may name, by R443
(log entry 65). -/
def Obligations.LongAccumulatorWords : Prop :=
  ∀ (h : Hdr) (d a b c : BitVec 8),
    let va (p k : Nat) (x : State) : Word := x.rS p k 1 a
    let vb (p k : Nat) (x : State) : Word := x.rS p k 2 b
    let all (_ _ : Nat) (_ : State) : List Nat := List.range 11
    let zeroth (_ _ : Nat) (_ : State) : List Nat := [0]
    let spec (l : List Opnd) (lat : Nat) : WordSpec := { specX l lat with usesHeader := true, hw := [5] }
    let words (n : Nat) (_ _ : Nat) (_ : State) : Nat := n
    let rich (n p : Nat) (x : State) : Prop := x.canPay p (n * x.charge p 4) = true
    let fp (r : Row) (i : Nat) : FVal := fpVal fp32 (fieldNat r (32 * i) 32)
    let lanes (p k : Nat) (x : State) : List Nat := (List.range 16).filter fun i => (x.pred p k h.eq.toNat).getLsbD i
    let adds (xs : Nat → Nat → State → List FVal) (p k : Nat) (x : State) : List Nat := addReads (x.readAcc (accLoc va p k x)) (xs p k x)
    let count (xs : Nat → Nat → State → List FVal) (p k : Nat) (x : State) : Nat := (adds xs p k x).eraseDups.length
    let sum (xs : Nat → Nat → State → List FVal) (p k : Nat) (x : State) : Acc :=
      ((xs p k x).foldl Acc.add (x.readAcc (accLoc va p k x))).settle.count
    let able (xs : Nat → Nat → State → List FVal) (p k : Nat) (x : State) : Prop :=
      accIs va (adds xs) p k x ∧ accMayWrite va (count xs) (sum xs) p k x
    let added (xs : Nat → Nat → State → List FVal) (p k : Nat) (x : State) : State :=
      (accWritten va (count xs) (sum xs) p k x).orLaev p k (sum xs p k x)
    let merged (p k : Nat) (x : State) : Acc := ((x.readAcc (accLoc va p k x)).merge (x.readAcc (accLoc vb p k x))).count
    let cleared (p k : Nat) (x : State) : List MemOp := [{ x.newOp p k .acc (va p k x) 0 with data := 0 }]
    let rowTerms (p k : Nat) (x : State) : List FVal := (lanes p k x).map fun i => fp (x.rV p k 2 b) i
    let oneTerm (p k : Nat) (x : State) : List FVal := if (x.pred p k h.eq.toNat).getLsbD 0 then [fpVal fp32 (fieldNat (x.rS p k 2 b) 0 32)] else []
    let products (p k : Nat) (x : State) : List FVal := (lanes p k x).map fun i => (fp (x.rV p k 2 b) i).mul (fp (x.rV p k 3 c) i)
    RunsIf (.laclr h a) h (specX [aS a] 2) (fun p k x => (∃ l, x.objectAt p k (va p k x) = .ok l) ∧ x.objectHeld p k (va p k x) = false ∧
        accMayWrite va (words 0) (fun _ _ _ => Acc.zero) p k x)
      (accWritten va (words 0) fun _ _ _ => Acc.zero) ∧
    RunsIf (.laadd h a b 0) h (spec [aS a, bV b] 4) (able rowTerms) (added rowTerms) ∧
    RunsIf (.laadd h a b 1) h (spec [aS a, bS b] 4) (able oneTerm) (added oneTerm) ∧
    RunsIf (.ladot h a b c) h (spec [aS a, bV b, cV c] 4) (able products) (added products) ∧
    (∀ ty rm : BitVec 3, RunsIf (.larnd h d a ty rm) h (specX [dS d, aS a] 6) (fun p k x => accIs va all p k x ∧ rich 11 p x) (fun p k x =>
      (x.accPaid p 11).wS p k 6 d
        (BitVec.ofNat 64 ((x.readAcc (accLoc va p k x)).round (if ty = 0 then fp32 else fp64) rm.toNat)))) ∧
    RunsIf (.lamrg h a b) h (spec [aS a, bS b] 3)
      (fun p k x => accIs va all p k x ∧ accIs vb all p k x ∧ accMayWrite va (words 22) merged p k x)
      (fun p k x => (accWritten va (words 22) merged p k x).orLaev p k (merged p k x)) ∧
    RunsIf (.laflg h d a) h (specX [dS d, aS a] 2) (fun p k x => accIs va zeroth p k x ∧ rich 1 p x)
      (fun p k x => (x.accPaid p 1).wS p k 2 d (x.loadWord (accLoc va p k x))) ∧
    RunsIf (.laflgClr h d a) h (specX [dS d, aS a] 2)
      (fun p k x => accIs va zeroth p k x ∧ rich 1 p x ∧ (x.accPaid p 1).MayIssue p k (cleared p k x))
      (fun p k x => ((x.accPaid p 1).withOps p (cleared p k x)).wS p k 2 d (x.loadWord (accLoc va p k x))) ∧
    (∀ (s : State) (p : Nat) (o : MemOp) (l : Nat) (rs host : Bool), o.kind = .acc → (s.core p).opAt o.id o.elem = some o →
      s.opReady p o = true → s.paired p = false → s.access p o = .loc l rs host → s.mayPerform p o l host = true →
        exec (.memoryAccessPerformed p o.id o.elem) s = .next ((s.pay p 0 (s.accessCharge p l o.bytes)).perform p o l rs host) ∧
        l = tcmBase p + (o.va.toNat - aperture)) ∧
    let off (f : Nat → Nat → State → Word) (p k : Nat) (x : State) : Nat := (f p k x).toNat - aperture
    let far (f : Nat → Nat → State → Word) (p k : Nat) (x : State) : Prop :=
      (f p k x).toNat < aperture ∨ 2 ^ 17 ≤ off f p k x ∨ off f p k x % 128 ≠ 0 ∨
        ((x.core p).inSupArea (off f p k x) 88 = true ∧ (x.who p k).sup = false ∧ (x.who p k).firmware = false)
    let broken (f : Nat → Nat → State → Word) (reads : Nat → Nat → State → List Nat) (p k : Nat) (x : State) : Prop :=
      let l := tcmBase p + off f p k x
      x.objectHeld p k (f p k x) = false ∧ (∀ i ∈ reads p k x, x.poisoned (l + 8 * i) 8 = false) ∧
        (fieldNat (x.loadWord l) 4 12 ≠ 0 ∨ fieldNat (x.loadWord l) 48 16 ≠ 0)
    let fault (cause : Nat) (f : Nat → Nat → State → Word) (p k : Nat) (x : State) : Trap := { cause := cause, code := 0, info := f p k x }
    let oneObject : List (Instr × WordSpec × (Nat → Nat → State → List Nat)) :=
      [(.laadd h a b 0, spec [aS a, bV b] 4, adds rowTerms), (.laadd h a b 1, spec [aS a, bS b] 4, adds oneTerm),
        (.ladot h a b c, spec [aS a, bV b, cV c] 4, adds products), (.laflg h d a, specX [dS d, aS a] 2, zeroth),
        (.laflgClr h d a, specX [dS d, aS a] 2, zeroth)]
    TrapsIf (.laclr h a) h (specX [aS a] 2) (far va) (fault 12 va) ∧
    (∀ x ∈ oneObject, TrapsIf x.1 h x.2.1 (far va) (fault 12 va) ∧
      TrapsIf x.1 h x.2.1 (fun p k y => ¬far va p k y ∧ broken va x.2.2 p k y) (fault 13 va)) ∧
    (∀ ty rm : BitVec 3, TrapsIf (.larnd h d a ty rm) h (specX [dS d, aS a] 6) (far va) (fault 12 va) ∧
      TrapsIf (.larnd h d a ty rm) h (specX [dS d, aS a] 6) (fun p k x => ¬far va p k x ∧ broken va all p k x) (fault 13 va)) ∧
    TrapsIf (.lamrg h a b) h (spec [aS a, bS b] 3) (far va) (fault 12 va) ∧
    TrapsIf (.lamrg h a b) h (spec [aS a, bS b] 3) (fun p k x => ¬far va p k x ∧ far vb p k x) (fault 12 vb) ∧
    TrapsIf (.lamrg h a b) h (spec [aS a, bS b] 3) (fun p k x => ¬far va p k x ∧ ¬far vb p k x ∧ broken va all p k x) (fault 13 va) ∧
    TrapsIf (.lamrg h a b) h (spec [aS a, bS b] 3) (fun p k x => ¬far vb p k x ∧ accIs va all p k x ∧ broken vb all p k x) (fault 13 vb)

/-! ## Gangs, identity, system words -/

/-- FUSE opens or joins a window of 255 cycles and closes it with the check's status when the group is complete; SPLIT sends each member to its own target;
LCID reads the core's numbers; MIGPT answers whether the core's work moves (R252 to R254, R329). That a FUSE joins the opener's window whatever g it
names is the model's choice (log entry 45). -/
def Obligations.GangAndPlacementWords : Prop :=
  ∀ (h : Hdr) (d : BitVec 8),
    let fs : WordSpec := { specX [dS d] 1 with usesHeader := true, pre := fuseTrap }
    (∀ gs : BitVec 4,
      let win (p : Nat) (x : State) : Nat × Nat × Nat :=
        (((x.fuses (cluOf p)).find? fun r => (fuseGroup r.2.opener r.2.group).contains p).map
          fun r => (r.2.opener, r.2.group, r.2.opened)).getD (p, gs.toNat, (x.core p).cycle)
      let joined (p k : Nat) (x : State) : State := x.modStrand p 0 fun t => { t with
        fuse := some { opener := (win p x).1, group := (win p x).2.1, opened := (win p x).2.2, dest := x.destOf p k 0 d, g := gs.toNat,
                       id := x.curId p } }
      let full (p k : Nat) (x : State) : Prop :=
        ∀ q ∈ fuseGroup (win p x).1 (win p x).2.1, ∃ r ∈ (joined p k x).fuseWindow (win p x).1, r.1 = q
      let open' (p : Nat) (x : State) : Prop := (x.core (win p x).1).cycle ≤ (win p x).2.2 + 255
      GoesIf (.fuse h d gs) h fs (fun p k x => open' p x ∧ ¬full p k x) joined ∧
      GoesIf (.fuse h d gs) h fs (fun p k x => open' p x ∧ full p k x) (fun p k x =>
        (joined p k x).closeFuse (win p x).1 (win p x).2.1
          ((joined p k x).fuseCheck (fuseGroup (win p x).1 (win p x).2.1) ((joined p k x).fuseWindow (win p x).1) (win p x).2.1))) ∧
    (∀ t : BitVec 2, GoesIf (.split h t) h { specX [] 2 with pre := fuseTrap, usesHeader := true } (fun _ _ _ => True) (fun p k x =>
      (x.goto p k (((x.strand p k).pc &&& 0xFFFFFFFF00000000) ||| ((x.target p k t.toNat).zeroExtend 64 &&& 0xFFFFFFF8))).modCore p
        fun c => { c with gang := none })) ∧
    (∀ sel : BitVec 2, Runs (.lcid h d sel) h (specX [dS d] 1) (intoS 1 d fun p _ x =>
      match (x.core p).place, x.instOf p with
      | some l, some (_, i) => BitVec.ofNat 64 (match sel.toNat with
        | 0 => l.rel
        | 1 => i.base
        | 2 => i.p
        | _ => i.base + l.rel)
      | _, _ => 0)) ∧
    Runs (.migpt h d) h { specX [dS d] 2 with pre := controlOnly } (fun p k x =>
      if (x.core p).migrate = none then x.wS p k 2 d 0
      else if (x.core p).helpers ≠ [] ∨ x.ract p k = true then x.wS p k 2 d 2
      else (x.atBoundary p).1.wS p k 2 d (if (x.atBoundary p).2 then 1 else 0))

/-- CSRR, CSRW and CSRX complete at a level that may reach the register, a read of CORE_DTSTAT once no DTLD is in progress and one of CORE_UFCNT
behind the narrowing words, and CSRX reads before it writes; a number that names no register
traps with cause 1, a register above the strand's level with cause 2, on a core that is not fused (R331, R332). -/
def Obligations.CsrWords : Prop :=
  ∀ (h : Hdr) (d a : BitVec 8) (csr : BitVec 16),
    let n := csr.toNat
    RunsIf (.csrr h d csr) h { specX [dS d] 2 with pre := csrRead1 n false } (fun p k x => (x.csrRead p k n).2.paired p = false)
      (fun p k x => (x.csrRead p k n).2.wS p k 2 d (x.csrRead p k n).1) ∧
    RunsIf (.csrw h a csr) h { specX [aS a] 2 with pre := csrTrap n false true } (fun p k x => (x.csrWrite p n (x.rS p k 1 a)).isSome)
      (fun p k x => (x.csrWrite p n (x.rS p k 1 a)).getD x) ∧
    RunsIf (.csrx h d a csr) h { specX [dS d, aS a] 2 with pre := csrRead1 n true }
      (fun p k x => (x.csrRead p k n).2.paired p = false ∧ ((x.csrRead p k n).2.csrWrite p n (x.rS p k 1 a)).isSome)
      (fun p k x => (((x.csrRead p k n).2.csrWrite p n (x.rS p k 1 a)).getD x).wS p k 2 d (x.csrRead p k n).1) ∧
    ∀ (s : State) (i : Instr) (rd wr : Bool),
      (i, rd, wr) ∈ [(Instr.csrr h d csr, true, false), (.csrw h a csr, false, true), (.csrx h d a csr, true, true)] →
      let p := s.focus.pcid
      let k := s.focus.strand
      let spec : WordSpec :=
        { specX (if rd then (if wr then [dS d, aS a] else [dS d]) else [aS a]) 2 with pre := csrTrap n rd wr }
      (s.core p).gang = none → s.HeaderClear p k h spec →
      (csrRule n = none → exec i s = .next (s.trapAll k { cause := 1, code := 0, info := s.focus.word } [p])) ∧
      ∀ r, csrRule n = some r →
        ((rd = true ∧ s.level p k < r.read) ∨ (wr = true ∧ s.ownsGroup p n = false ∧ s.level p k < r.write.getD r.read)) →
        exec i s = .next (s.trapAll k { cause := 2, code := 0, info := s.focus.word } [p])

/-- The other words of the system group complete at their level: TLBINV, HALT, KEYZ, SKIM, ATTEST, TKRD, TKGIVE, QUAR, MCREAD, PSWITCH,
FBCTL and CTXLD (R330, R333 to R336, R351, R385 to R388). The descriptor of CTXLD and the answers for addresses and partitions that the
rules do not speak of are free values (log entries 10 and 33). -/
def Obligations.SystemWords : Prop :=
  ∀ (h : Hdr) (d a b : BitVec 8),
    let sys (lv lat : Nat) (ops : List Opnd) : WordSpec := { specX (dS d :: ops) lat with pre := levelTrap lv }
    let inv (lv : Nat) : WordSpec := { specX [aS a, bS b] 2 with pre := levelTrap lv }
    let stored (p k : Nat) (x : State) : Prop := x.storesPending p k = false
    let part (p : Nat) (x : State) : Nat := ((x.core p).place.map fun l => l.part).getD 64
    let va (p k : Nat) (x : State) : Word := x.rS p k 1 a
    let vb (p k : Nat) (x : State) : Word := x.rS p k 2 b
    RunsIf (.tlbinv h a b) h (inv 1) stored (fun p k x => x.dropTlb fun e =>
      e.part = part p x && decide (e.va < (va p k x).toNat + (vb p k x).toNat) && decide ((va p k x).toNat < e.va + 2 ^ e.log)) ∧
    RunsIf (.tlbinvAll h a b) h (inv 1) stored (fun p _ x => x.dropTlb fun e => e.part = part p x) ∧
    RunsIf (.tlbinvAllP h a b) h (inv 2) stored (fun p k x => x.dropTlb fun e => e.part = fieldNat (vb p k x) 0 6) ∧
    Runs (.halt h) h { specX [] 1 with pre := levelTrap 1 } (fun p _ x => x.modCore p fun c => { c with halt := true }) ∧
    RunsIf (.keyz h d a) h (sys 2 1 [aS a])
      (fun p k x => (∀ c ∈ x.cores, ∀ o ∈ c.2.ops, x.usesKey (dieOf p) (fieldNat (va p k x) 0 16) c.1 o = false) ∧
        ∀ c, c ∈ x.closures ∨ (∃ y ∈ x.parts, c ∈ y.2.held) → x.sentUsesKey (dieOf p) (fieldNat (va p k x) 0 16) c = false)
      (fun p k x => (x.modDie (dieOf p) fun y => { y with keys := y.keys.filter fun q => !(fieldNat (va p k x) 0 16).testBit q.slot }).wS
        p k 1 d (BitVec.ofNat 64 (fieldNat (va p k x) 0 16))) ∧
    RunsIf (.skim h d a) h (sys 2 2 [aS a]) stored (fun p k x =>
      let st := (x.die (dieOf p)).skimState
      if st = 1 ∨ st = 3 then x.wS p k 2 d 1
      else match x.skimJob p k (va p k x) with
        | none => x.wS p k 2 d 2
        | some (ctx, l) => (x.modDie (dieOf p) fun y =>
            { y with skimState := 1, skimCtx := ctx, skimTotal := skimUnits l, skimDone := 0, skimJob := l }).wS p k 2 d 0) ∧
    RunsIf (.attest h d a b) h (sys 2 1 [aS a, bS b]) (fun p k x => (∀ o ∈ (x.core p).ops, o.strand ≠ k) ∧ find (va p k x).toNat x.ctxs = none)
      (intoS 1 d fun _ _ _ => 1) ∧
    (∀ c l, RunsIf (.attest h d a b) h (sys 2 1 [aS a, bS b])
      (fun p k x => (∀ o ∈ (x.core p).ops, o.strand ≠ k) ∧ find (va p k x).toNat x.ctxs = some c ∧ (vb p k x).toNat % 8 = 0 ∧
        (vb p k x).toNat < 2 ^ 40 ∧ (∃ r, x.phys (vb p k x).toNat = some (r, l)) ∧ ∃ r, x.phys ((vb p k x).toNat + 8111) = some (r, l + 8111))
      (fun p k x => ({ x.writeMem p (l + 32) (x.report (va p k x).toNat c) true none with fresh := x.fresh + 982 } : State).wS p k 1 d 0)) ∧
    RunsIf (.tkrd h d) h (sys 0 1 []) (fun p _ x => x.paired p = false)
      (intoS 1 d fun p _ x => BitVec.ofNat 64 (x.core p).power.tokens) ∧
    Runs (.tkgive h d a b) h (sys 2 2 [aS a, bS b]) (fun p k x =>
      let q := fieldNat (va p k x) 0 13
      if x.isCore q then
        (x.modCore q fun c => { c with power := (c.power.give (vb p k x).toNat).2 }).wS p k 2 d
          (BitVec.ofNat 64 ((x.core q).power.give (vb p k x).toNat).1)
      else x.wS p k 2 d 0) ∧
    Runs (.quar h d a) h (sys 2 1 [aS a]) (fun p k x =>
      let r := x.quar (fieldNat (va p k x) 13 3) (fieldNat (va p k x) 0 13)
      r.2.wS p k 1 d (BitVec.ofNat 64 r.1)) ∧
    Runs (.mcread h d a) h { specX [dV d, aS a] 4 with pre := levelTrap 2 } (fun p k x =>
      let r := look (0, 0, 0, 0) (fieldNat (va p k x) 0 12) (x.die (dieOf p)).mclog
      x.wV p k 4 d (rowMask 0 256) (((r.2.2.2 ++ r.2.2.1 ++ r.2.1 ++ r.1) : BitVec 256).zeroExtend 512)) ∧
    Runs (.pswitch h d a b) h (sys 2 2 [aS a, bS b]) (fun p k x =>
      let n := fieldNat (va p k x) 0 6
      match find n x.parts with
      | none => x.drawn.wS p k 2 d x.freeWord
      | some y =>
        if (vb p k x).toNat < x.now + 2000 then x.wS p k 2 d 1
        else if y.armed.isSome then x.wS p k 2 d 2
        else (x.modPart n fun z => { z with armed := some (vb p k x).toNat }).wS p k 2 d 0) ∧
    Runs (.fbctl h d a) h (sys 1 2 [aS a]) (fun p k x => (x.installFb p (va p k x)).wS p k 2 d (x.core p).fb.ctl) ∧
    Runs (.ctxld h d a) h (sys 2 1 [aS a]) (fun p k x =>
      let r := x.freeWord
      if r.getLsbD 63 ∨ x.isCore (fieldNat r 0 13) = false then x.drawn.wS p k 1 d 1
      else (x.drawn.ctxLoad (fieldNat r 0 13)).2.wS p k 1 d (BitVec.ofNat 64 (x.drawn.ctxLoad (fieldNat r 0 13)).1))

/-- A word of the system group below its level traps with cause 2 on a core that is not fused, and has no effect (R330, R443). -/
def Obligations.PrivilegeTraps : Prop :=
  ∀ (s : State) (h : Hdr) (d a b : BitVec 8) (i : Instr) (lv : Nat) (w : WordSpec),
    let sys (lat : Nat) (ops : List Opnd) : WordSpec := specX (dS d :: ops) lat
    (i, lv, w) ∈ [(Instr.tlbinv h a b, 1, specX [aS a, bS b] 2), (.tlbinvAll h a b, 1, specX [aS a, bS b] 2),
      (.tlbinvAllP h a b, 2, specX [aS a, bS b] 2), (.halt h, 1, specX [] 1), (.keyz h d a, 2, sys 1 [aS a]), (.skim h d a, 2, sys 2 [aS a]),
      (.attest h d a b, 2, sys 1 [aS a, bS b]), (.tkgive h d a b, 2, sys 2 [aS a, bS b]), (.quar h d a, 2, sys 1 [aS a]),
      (.mcread h d a, 2, specX [dV d, aS a] 4), (.pswitch h d a b, 2, sys 2 [aS a, bS b]), (.fbctl h d a, 1, sys 2 [aS a]),
      (.ctxld h d a, 2, sys 1 [aS a])] →
    (s.core s.focus.pcid).gang = none → s.level s.focus.pcid s.focus.strand < lv →
      s.HeaderClear s.focus.pcid s.focus.strand h { w with pre := levelTrap lv } →
      exec i s = .next (s.trapAll s.focus.strand { cause := 2, code := 0, info := s.focus.word } [s.focus.pcid])

/-! ## Engine commands -/

/-- Every engine command completes, step by step, where it is the oldest command of the slot in focus and may run: with work left, the read or
the write that is picked takes place where its parts lead, and a part that faults makes a ring entry on which the command waits; with no work
left in its last stage it ends, with STATUS 0, EVENTS and RELOAD, or a WLOAD with status 1 where its metadata breaks the rule; before that its
rule gives its next stage, or a status (R108, R131, R309 to R312, R323 to R327, R353, R358). Its charge is a premise of a step: the engine waits for
it, and it falls on the core whose engine had started the command, before a migration too. -/
def Obligations.EngineCommands : Prop :=
  ∀ (e : Ecw) (i : Instr) (eop : Nat) (run : Runner) (s : State) (m : Cmd), (i, eop, run) ∈ commandsOf e →
    let p := s.focus.pcid
    let slot := s.focus.slot
    s.runnable p slot = some m → m.eop = eop → m.ecw = e →
      (m.work ≠ [] → ∀ c l, m.pick s.freeWord.toNat = some (c, l) →
        (∀ xs, s.partsAt p m.sup (!c.reading) l = .ok xs → s.paired p = false →
          let q := m.engineOf p
          let cost := (xs.map fun x => s.toll q x.1 x.2.1).sum
          s.canPay q cost = true →
          let y := l.foldl (fun y x => if x.loc.isSome then y else y.walked p x.va) (s.drawn.payFor p q cost)
          (c.reading = true →
            exec i s = .next (y.modCmd p slot m.seq fun _ => m.hasRead c (xs.map fun x => (x.1, y.engBytes p x.2.1 x.1.n)))) ∧
          (c.reading = false →
            let w := y.engStores p m (run.full m) (xs.zip (xs.map fun x => (run.value m c x.1.num).1))
            exec i s = .next (w.2.modCmd p slot m.seq fun _ =>
              w.1.hasWritten c (xs.map (·.1)) ((xs.map fun x => (run.value m c x.1.num).2).foldl (fun a v => a ||| v) 0)))) ∧
        ∀ kind cause va s2, s.partsAt p m.sup (!c.reading) l = .fault kind cause va →
          s.drawn.engFault p slot m kind cause va (fun j x => { x with phase := .snagged j, started := true })
            (fun x => { x with phase := .finished, started := true, status := 2 }) = some s2 → exec i s = .next s2) ∧
      (m.work = [] →
        (m.stage = lastStage eop → eop ≠ 0x20 →
          exec i s = .next (s.endCmd p slot m 0 (if eop ≤ 0x1A then m.events else 0) (if eop ≤ 0x1A then m.reload else 0))) ∧
        (eop ≤ 0x1A → m.stage = 5 → fieldNat e.dst 53 3 = 5 → ∀ t, s.tileDesc p e.dst = some t →
          (e.ofl.getLsbD 0 = true ∨ s.tilePoison (cluOf p) t (rowsOf e) = none) →
          let cost := rowsOf e * 8 * s.charge p 14
          s.canPay p cost = true →
          let w := (s.pay p 0 cost).storeTile p m t
          exec i s = .next ((w.1.cleanTile (cluOf p) t (rowsOf e)).endCmd p slot m 0 (m.events ||| w.2) m.reload)) ∧
        (eop = 0x20 → m.stage = 2 → ∀ r, s.liveRes p e.hc.toNat = some r →
          exec i s = .next (match s.endFill p m r with
            | some s1 => s1.endCmd p slot m 0 0 0
            | none => s.endCmd p slot m 1 0 0)) ∧
        (∀ s1 m1, run.go p slot m s = .go s1 m1 → exec i s = .next (s1.modCmd p slot m.seq fun _ => { m1 with started := true })) ∧
        (∀ s1 st ev rl, run.go p slot m s = .done s1 st ev rl → exec i s = .next (s1.endCmd p slot m st ev rl)) ∧
        ∀ s1 s2 kind cause va, run.go p slot m s = .snag s1 kind cause va →
          s1.engFault p slot m kind cause va (fun j x => { x with phase := .snagged j, started := true })
            (fun x => { x with phase := .finished, started := true, status := 2 }) = some s2 → exec i s = .next s2)

/-- SIG and MXSIG, step by step: a field that must be zero and is not, or a destination that is not aligned to 8 bytes, ends the command with
status 1 and no store; else it reads its destination's extended descriptor where it has one, of which ADDR alone has a meaning here, by the model's
choice (log entry 71), stores V at the destination, sets the word full, and ends with status 0 (R312). -/
def Obligations.SignalCommands : Prop :=
  ∀ (e : Ecw) (s : State) (m : Cmd) (i : Instr),
    let p := s.focus.pcid
    let slot := s.focus.slot
    s.runnable p slot = some m → m.ecw = e → m.engine = none → (i = .sig e ∧ m.eop = 0x45) ∨ (i = .mxsig e ∧ m.eop = 0x21) →
      let dst : Word := match descOf e.dst with
        | .addr va => va
        | _ => look 0 2 m.args
      let right : Prop := e.ofl = 0 ∧ e.p0 = 0 ∧ e.p1 = 0 ∧ e.hc = 0 ∧ descOf e.dst ≠ .bad
      let part : Part := { num := 0, va := dst, loc := none, n := 8, toll := 2 }
      let store : Piece := { num := 0, reads := [], got := [], writes := [part], block := false, sent := [] }
      (m.stage = 0 → m.work = [] → ¬right → exec i s = .next (s.endCmd p slot m 1 0 0)) ∧
      (m.stage = 0 → m.work = [] → right →
        exec i s = .next (s.modCmd p slot m.seq fun _ => { m with stage := 1, work := extReads 2 e.dst, started := true })) ∧
      (m.stage = 1 → m.work = [] → descOf e.dst ≠ .bad → dst.toNat % 8 ≠ 0 → exec i s = .next (s.endCmd p slot m 1 0 0)) ∧
      (m.stage = 1 → m.work = [] → descOf e.dst ≠ .bad → dst.toNat % 8 = 0 →
        exec i s = .next (s.modCmd p slot m.seq fun _ => { m with stage := 2, work := [store], started := true })) ∧
      (m.work = [store] → s.paired p = false → ∀ l rs host, s.partAt p m.sup true part = .ok (l, rs, host) →
        s.canPay p (s.accessCharge p l 64 + s.charge p 12) = true →
        let y := (s.drawn.pay p 0 (s.accessCharge p l 64 + s.charge p 12)).walked p dst
        let w := (y.engStore p dst l (natBytes 8 e.opd.toNat) rs host true).cover m l
        exec i s = .next (w.2.modCmd p slot m.seq fun _ => { w.1 with work := [], progress := m.progress + 1, asked := none, parked := false })) ∧
      (m.stage = 2 → m.work = [] → exec i s = .next (s.endCmd p slot m 0 0 0))

/-- A command that has done its work completes by two writes, each a step once the hawk of its engine's core holds its charge: its status in the
second word of its ring entry, then its sequence number in the completion word, which is set full; then the chain counts it. Where its status could not be written it completes with STATUS 2,
and where its completion word could not, without that write (R310); that a command which had failed keeps its own STATUS then is the model's
choice (log entry 68). -/
def Obligations.CommandCompletion : Prop :=
  ∀ (s : State) (core slot : Nat) (m : Cmd),
    let ch := look Chain.free slot (s.core core).chains
    let at' (va : Word) : Part := { num := 0, va := va, loc := none, n := 8, toll := 1 }
    let q := m.engineOf core
    let rich (l : Nat) : Prop := s.canPay q (s.accessCharge q l 64) = true
    let paid (va : Word) (l : Nat) : State := (s.payFor core q (s.accessCharge q l 64)).walked core va
    let entry := ch.ring + BitVec.ofNat 64 (32 * ((m.seq - 1) % 2 ^ ch.logn) + 8)
    let failed : Cmd := { m with status := if m.status = 0 then 2 else m.status }
    let i : Instr := .engineCommandComplete core slot
    (s.core core).headCmd slot = some m → (s.core core).stop ≠ some .gang → (s.core core).resumeAt ≤ s.now → s.paired core = false →
      (m.phase = .finished ∨ m.phase = .completing 0 256 → ∀ l rs host, s.partAt core m.sup true (at' entry) = .ok (l, rs, host) → rich l →
        exec i s = .next (((paid entry l).engStore core entry l (natBytes 8 m.statusWord) rs host false).modCmd core slot m.seq
          fun _ => { m with phase := .completing 1 256, parked := false })) ∧
      (∀ l rs host, s.partAt core m.sup true (at' ch.cword) = .ok (l, rs, host) → rich l →
        (m.phase = .completing 1 256 →
          exec i s = .next (((paid ch.cword l).engStore core ch.cword l (natBytes 8 m.seq) rs host true).finishCmd core slot m true)) ∧
        (m.phase = .completing 2 256 →
          exec i s = .next (((paid ch.cword l).engStore core ch.cword l (natBytes 8 m.seq) rs host true).finishCmd core slot failed true))) ∧
      (∀ w, 3 ≤ w → m.phase = .completing w 256 → exec i s = .next (s.finishCmd core slot failed false))

/-! ## Events of memory and of waiting -/

/-- Accesses in flight: one whose turn has come is performed where it leads, or its fault becomes a ring entry; a page walk ends with a
translation in every TLB level or with a fault of cause 9; a host access that a link which is down has not served within 50 µs fails with cause
7, and so does a deferred effect of a core that has one there and whose datum or end waits for it; a ring entry that has reached its limit fails
(R100, R113, R129, R266, R421, R434, R436, R448). The time counts from the issue of the access, which is the model's choice (log entry 76). -/
def Obligations.MemoryEvents : Prop :=
  (∀ (s : State) (p id elem : Nat) (o : MemOp), (s.core p).opAt id elem = none → (s.core p).deferredOp id elem = some o →
    s.hostUp = false → o.since + 50000 ≤ s.now → s.releaseDue p = true →
    exec (.hostAccessTimeout p id elem) s = .next ((s.modCore p fun c => { c with
      exch := { c.exch with deferred := c.exch.deferred.filter fun d => d.op ≠ some o } }).snagOp p o 7)) ∧
  ∀ (s : State) (p id elem : Nat) (o : MemOp), (s.core p).opAt id elem = some o →
    (∀ l rs host, s.opReady p o = true → s.access p o = .loc l rs host → s.mayPerform p o l host = true → s.paired p = false →
      exec (.memoryAccessPerformed p id elem) s = .next ((s.pay p 0 (s.accessCharge p l o.bytes)).perform p o l rs host)) ∧
    (∀ c, s.opReady p o = true → s.access p o = .fault c → exec (.memoryAccessPerformed p id elem) s = .next (s.snagOp p o c)) ∧
    (∀ l rs, s.access p o = .loc l rs true → s.hostUp = false → o.since + 50000 ≤ s.now →
      o.parked = false ∨ ((s.core p).freeRun (o.snagEntries 7 0).length).isSome = true →
      exec (.hostAccessTimeout p id elem) s = .next (s.snagOp p o 7)) ∧
    (∀ pl va, (s.core p).place = some pl → s.missAddr p o = some va →
      (s.walk (s.rootOf pl.ctx) va.toNat = .fault → exec (.pageWalk p id elem) s =
        .next ((s.walkers (dieOf p) pl.part (va.toNat / 4096)).foldl (fun x y => match (x.core y.1).opAt y.2.id y.2.elem with
          | some z => x.snagOp y.1 z 9
          | none => x) s)) ∧
      ∀ e log, s.walk (s.rootOf pl.ctx) va.toNat = .leaf e log → exec (.pageWalk p id elem) s =
        .next (s.install p { part := pl.part, va := va.toNat / 2 ^ log * 2 ^ log, log := log, leaf := e })) ∧
    ∀ idx g, (s.core p).snagAt idx = some g → max (s.core p).sup.snagto 1000 ≤ s.snagAge p g → (s.core p).stop = none →
      exec (.snagTimeout p idx) s = .next ((s.failSnag p g g.cause).modCore p fun c =>
        { c with sup := { c.sup with tout := min (c.sup.tout + 1) 65535 } })

/-- A wait ends when its condition holds, with that status, or when its deadline has come and the condition does not hold; a completed
phase releases its BWAITs; a FUSE window closes with status 1 from its cycle 255 on; a message enters the queue of its destination, or is dropped
and counted where the destination is not there (R252, R279, R280, R282, R286, R293, R294). -/
def Obligations.WaitingEvents : Prop :=
  ∀ (s : State),
    (∀ p k w, (s.strand p k).wait = some w → (s.core p).stop = none → s.paired p = false →
      (∀ st, s.waitStatus p k w = some st → exec (.waitCompletion p k) s = .next (s.endWait p k w st)) ∧
      (s.waitStatus p k w = none → s.expired p w = true → s.ldsFirst p w = false → s.endsNow p w = false → exec (.waitExpiry p k) s = .next (s.expire p k w))) ∧
    (∀ n g i t, find n s.insts = some i → t ∈ (i.group g).release → (∀ u ∈ (i.group g).release, t ≤ u) → t ≤ s.now → s.partStopped i.part = false →
      let gone := ((s.instCores n).filter fun p => (s.core p).hasDue g t).map s.relOf
      exec (.barrierRelease n g) s = .next ((s.modInst n fun j =>
        j.setGroup g { j.group g with release := (j.group g).release.erase t, done := (j.group g).done.filter fun r => !gone.contains r }).modInstCores n
          fun c => c.releaseBwaits g t)) ∧
    (∀ clu pos r, (s.strand (8 * clu + pos) 0).fuse = some r → r.opened + 255 ≤ (s.core r.opener).cycle →
      exec (.fuseWindowTimeout clu pos) s = .next (s.closeFuse r.opener r.group 1)) ∧
    ∀ k m, s.messages[k]? = some m →
      (∀ x ∈ s.messages.take k, ¬(x.src = m.src ∧ x.strand = m.strand ∧ x.dst = m.dst)) → s.partStopped m.part = false →
      s.sendReady m = true →
      let e := s.remapAt m.part m.dst
      let gone : State := { s with messages := s.messages.eraseIdx k }
      (e.valid = false ∨ e.state = 2 →
        exec (.messageDelivery k) s = .next (gone.modCore m.src fun c => { c with undel := min (c.undel + 1) 65535 })) ∧
      (e.valid = true → e.state = 0 → (s.core e.pcid).stop ≠ some .gang → s.msgRoom e.pcid = true → s.paired e.pcid = false →
        exec (.messageDelivery k) s = .next (gone.modCore e.pcid (·.enqueue m)))

/-- Supersteps: a core whose exchange start has come latches its plan, or takes the plan trap; it issues its records in the order of their
offsets, reading a word a step, and a record leaves with its last word; its words land in their destination one by one, and the bytes count with
the last of them for the superstep that sent them; a record that names the supervisor area of another origin moves nothing; a parcel enters
Compute when its exchange barrier is complete; the closure routers forward what both twins agree on and end the tract where they do not (R34,
R35, R42 to R45, R108, R384, R410). How the fault of a record reaches its sender is the model's choice (log entry 28). -/
def Obligations.SuperstepEvents : Prop :=
  ∀ (s : State),
    (∀ p n i t x rx l info, s.instOf p = some (n, i) → s.tractOf p = some t → i.x = some x → x ≤ s.now →
      (s.core p).exch.state = .arrived → (s.core p).stop = none → i.status = none →
      (s.startPlan p i t = (.got (rx, l), info) → exec (.exchangeStart p) s = .next (((s.planWalked p i t).modCore p fun c =>
        { c with exch := { c.exch with state := .exchanging, todo := l, rxtotal := rx } }).addRx p 0 (s.core p).exch.count)) ∧
      ∀ d, s.startPlan p i t = (.bad d, info) → exec (.exchangeStart p) s = .next ((s.dropAt d).planTrap p info)) ∧
    (∀ p n i r,
      let e := (s.core p).exch
      let js := (List.range (r.len / 8)).filter fun j => (find j e.read).isNone
      let j := js.getD (s.freeWord.toNat % js.length) 0
      let l := s.spaceLoc p r.sspace r.srcoff + 8 * j
      let cost := if e.read = [] then (r.len + 63) / 64 * s.charge p 13 else 0
      s.instOf p = some (n, i) → earliest e.todo = some r → e.state = .exchanging → 2 * i.x.getD 0 + r.offset ≤ 2 * s.now →
      (s.core p).stop = none → s.poisoned l 8 = false → s.canPay p cost = true →
      let got := put j (s.loadWord l) e.read
      let s1 := (s.drawn.pay p 0 cost).modCore p fun c => { c with exch := { c.exch with read := got } }
      (1 < js.length → exec (.exchangeRecordIssue p) s = .next s1) ∧
      (js.length ≤ 1 → s1.paired p = false →
        let ws := (List.range (r.len / 8)).map fun q => look 0 q got
        let s2 := s1.modCore p fun c => { c with exch := { c.exch with todo := c.exch.todo.filter (fun q => q.num ≠ r.num), read := [] } }
        let t : Transfer := { src := p, part := i.part, dst := i.base + r.dlc, dspace := r.dspace, off := r.dstoff,
                              bytes := ws.flatMap fun w => natBytes 8 w.toNat, setfull := r.setfull, inst := n,
                              hash := closureHash (r.word0 :: ws), sup := (s1.core p).exch.sup, counted := true, num := r.num,
                              step := (s1.core p).exch.count, left := List.range (r.len / 8) }
        let mine := (s1.core p).inSupArea r.srcoff r.len
        (r.sspace ≠ 0 ∨ (s1.core p).exch.sup = true ∨ mine = false →
          exec (.exchangeRecordIssue p) s = .next (({ s2 with transfers := s2.transfers ++ [t] } : State).finishExch p)) ∧
        (r.sspace = 0 → (s1.core p).exch.sup = false → mine = true →
          exec (.exchangeRecordIssue p) s = .next ((s2.exchFault p (aperture + r.srcoff)).finishExch p)))) ∧
    (∀ k t i,
      let e := s.remapAt t.part t.dst
      let s1 : State := { s.slip with transfers := s.transfers.eraseIdx k }
      let j := t.left.getD (s.freeWord.toNat % t.left.length) 0
      let wrote (x : State) : State := x.writeRouted t.src (s.spaceLoc e.pcid t.dspace t.off + 8 * j) ((t.bytes.drop (8 * j)).take 8) false
        (if t.setfull then some true else none)
      s.transfers[k]? = some t → find t.inst s.insts = some i → i.status = none → e.valid = true →
      (e.state = 0 → t.dspace ≠ 0 ∨ t.sup = true ∨ (s.core e.pcid).inSupArea t.off t.bytes.length = false →
        (1 < t.left.length → exec (.exchangeReceive k) s =
          .next (wrote { s.drawn with transfers := s.transfers.set k { t with left := t.left.erase j } })) ∧
        (t.left.length ≤ 1 →
          let s2 := wrote { s.drawn.slip with transfers := s.transfers.eraseIdx k }
          exec (.exchangeReceive k) s = .next (if t.counted then s2.addRxBoth e.pcid t.bytes.length t.step else s2))) ∧
      (e.state = 2 → exec (.exchangeReceive k) s = .next s1) ∧
      (e.state = 0 → t.dspace = 0 → t.sup = false → (s.core e.pcid).inSupArea t.off t.bytes.length = true →
        exec (.exchangeReceive k) s = .next (s1.exchFault t.src (aperture + 2 ^ 38 + t.dst * 2 ^ 24 + t.off)))) ∧
    (∀ n i, find n s.insts = some i → s.entryReady n i = true → i.dbg = .running → exec (.computeEntry n) s = .next (s.enterAll n)) ∧
    ∀ k c, s.closures[k]? = some c →
      let s1 : State := { s with closures := s.closures.eraseIdx k }
      (∀ x s2, c.hashP = some x → c.hashS = some x → s1.forward c = some s2 → exec (.closureCheck k) s = .next s2) ∧
      (∀ x y, c.hashP = some x → c.hashS = some y → x ≠ y → s.localLds c = false → exec (.closureCheck k) s = .next (s1.mismatch c)) ∧
      (c.hashP = none ∨ c.hashS = none → 65536 < s.now - c.since - (s.stopTicks c.primary - c.stops) → s.localLds c = false →
        exec (.closureTimeout k) s = .next (s1.mismatch c))

/-! ## Events of the host, the front end and the placement -/

/-- Writes of DEV_OWNER by a master that is heard: a claim of a free device, a handover and a release by the owner take effect, every other
is refused and counted; the owner whose link is lost for a second loses the device, which a claim of that tick finds free (R355, R455). -/
def Obligations.OwnerEvents : Prop :=
  ∀ (s : State) (m succ : Nat),
    let lost : Prop := s.owner ≠ 0 ∧ ∃ t, s.linkLost = some t ∧ t + 10 ^ 9 ≤ s.now
    let free : State := { s with owner := 0, ownerOp := 3, linkLost := none }
    (lost → s.heard m = true →
      exec (.ownerClaim m) s = .next ({ free with owner := m, ownerOp := 1, ownerSucc := 0, linkLost := none } : State).fixLink) ∧
    (¬lost → s.heard m = true →
      (s.owner = 0 → exec (.ownerClaim m) s = .next ({ s with owner := m, ownerOp := 1, ownerSucc := 0, linkLost := none } : State).fixLink) ∧
      (s.owner ≠ 0 → exec (.ownerClaim m) s = .next s.refuse) ∧
      (s.owner = m → validMaster (succ % 2 ^ 16) = true → exec (.ownerHandover m succ) s =
        .next ({ s with owner := succ % 2 ^ 16, ownerOp := 2, ownerSucc := succ % 2 ^ 16, linkLost := none } : State).fixLink) ∧
      (s.owner = m → validMaster (succ % 2 ^ 16) = false → exec (.ownerHandover m succ) s = .next s.refuse) ∧
      (s.owner ≠ m → exec (.ownerHandover m succ) s = .next s.refuse ∧ exec (.ownerRelease m) s = .next s.refuse) ∧
      (s.owner = m → exec (.ownerRelease m) s = .next { s with owner := 0, ownerOp := 3, ownerSucc := 0, linkLost := none })) ∧
    (lost → s.linkDown s.owner = true → exec .ownerLinkLoss s = .next free)

/-- Register writes and the debugger's commands by the owner of the device take effect, and those of any other master that is heard are
refused and counted (R337, R355, R372, R373). -/
def Obligations.MasterWrites : Prop :=
  ∀ (s : State) (m n ctx lbase blk off : Nat) (v : Word),
    (s.heard m = true → m ≠ 0 → m = s.owner → n < 1024 →
      exec (.devQcfgWrite m n v) s = .next (s.writeQcfg n v) ∧ exec (.devQheadWrite m n v) s = .next (s.writeQhead n v) ∧
      (∀ s', s.writeQtail n v = some s' → exec (.devQtailWrite m n v) s = .next s') ∧
      (∀ s', ¬(blk = 0 ∧ off = 0x10) → s.blockWrite blk off v false = some s' → exec (.registerWrite m blk off v) s = .next s') ∧
      exec (.debugCancel m) s = .next s.dbgCancel ∧
      exec (.debugStopRequest m ctx lbase) s = .next (s.dbgStop (ctx % 2 ^ 16) (lbase % 2 ^ 13)) ∧
      exec (.debugResume m) s = .next (s.dbgGo false) ∧ exec (.debugStep m) s = .next (s.dbgGo true) ∧
      exec (.devDbgwinWrite m v) s = .next (s.dbgWrite v)) ∧
    (s.heard m = true → m ≠ 0 → m ≠ s.owner → n < 1024 →
      ∀ i ∈ [Instr.devQcfgWrite m n v, .devQheadWrite m n v, .devQtailWrite m n v, .debugCancel m, .debugStopRequest m ctx lbase,
          .debugResume m, .debugStep m, .devDbgwinWrite m v], exec i s = .next s.refuse) ∧
    (s.heard m = true → m ≠ 0 → m ≠ s.owner → ¬(blk = 0 ∧ off = 0x10) → exec (.registerWrite m blk off v) s = .next s.refuse)

/-- A die that wakes acts on the tail writes that it captured; one that does not wake at the third try acts on them and its queues are parked.
A mask word of a hardware group is stored by firmware or by supervisor code whose partition owns the group, and counts among the
reconfigurations of its tick as one of parcel-relative core 0, which is the model's choice (log entry 48). An instance under a debugger's
command stops at its Compute entry. Stopped helpers resume (R292, R340, R372, R431). Where a mask stored to an unbound group is kept is the
model's choice (log entry 32). -/
def Obligations.DeviceEvents : Prop :=
  ∀ (s : State),
    (∀ d, (s.die d).gated = true → (s.die d).waking = true →
      exec (.wakeComplete d) s = .next ((s.modDie d fun x =>
        { x with gated := false, waking := false, wakeTries := 0, captured := [] }).replay (s.die d).captured) ∧
      ((s.die d).wakeTries < 2 → exec (.wakeFailure d) s = .next (s.modDie d fun x => { x with wakeTries := x.wakeTries + 1 })) ∧
      (2 ≤ (s.die d).wakeTries → ∃ s', exec (.wakeFailure d) s = .next s' ∧ (s'.die d).captured = [] ∧
        ∀ q ∈ s'.queues, q.2.die = d → q.2.state = 0 ∨ q.2.state = 3)) ∧
    (∀ part d k w fw v, k < 16 → w < 20 → d < s.dieCount → s.answers = true → fw = true ∨ s.hwPart d k = some part →
      exec (.dieBmaskWrite part d k w fw v) s = .next (s.writeBmask d k w v 0)) ∧
    (∀ n i, s.insts.find? (fun x => s.dbgReady x.1 x.2) = some (n, i) →
      let s1 := (s.instCores n).foldl (fun x p => (x.modCore p Core.settle).stopCore p .debug) (s.enterAll n)
      exec .debugStop s = .next { s1.modInst n (fun j => { j with dbg := .stopped }) with dbgState := 2 }) ∧
    ∀ p (v : Word), (s.core p).stoppedMask &&& v.toNat ≠ 0 → exec (.helperResume p v) s = .next (s.modCore p (·.resumeHelpers v))

/-- Packets: a queue that is served fetches its next packet, and parks where the packet's address does not lead to memory, or where a fetch over
the host link errs or has no completion within 50 µs; COPY, SIGNAL, WAIT, CONTEXT, MIGRATE and TEARDOWN act and owe their record, with status 0 where they are valid and 5 where they are not
(R337 to R342, R354, R444, R464, R466). What COPY refuses besides and a WAIT of a word that is not aligned are the model's reading (log entry 34),
and so is that a target on a gated die is refused (log entry 44). -/
def Obligations.PacketEvents : Prop :=
  ∀ (s : State) (n : Nat),
    let q := s.queue n
    (s.served n = true → s.answers = true →
      (s.queueLoc q q.slot false = none → exec (.packetFetch n) s = .next (s.modQueue n (·.park))) ∧
      ∀ x, s.queueLoc q q.slot false = some x →
        (x.host = false ∨ s.hostUp = true →
          let w := (List.range 16).map fun i => s.loadWord (x.loc + 8 * i)
          let s1 := (s.serve n q.prio).modQueue n fun y =>
            { y with head := (y.head + 1) % 2 ^ 16, fetchAt := none, packet := some w, owed := y.owed + 1 }
          exec (.packetFetch n) s = .next (if s.accepts q w then s1 else s1.endPacket n w 5)) ∧
        (x.host = true → s.hostUp = false → q.fetchAt = none →
          exec (.packetFetch n) s = .next (s.modQueue n fun y => { y with fetchAt := some s.now })) ∧
        (x.host = true → s.hostUp = true ∨ (∃ t, q.fetchAt = some t ∧ t + 50000 ≤ s.now) →
          exec (.queueFetchTimeout n) s = .next (s.modQueue n (·.park)))) ∧
    (∀ w, s.inHand n 2 = some w →
      let c := (w.getD 1 0).toNat
      let a := w.getD 2 0
      let b := w.getD 3 0
      let m0 := Cmd.fresh 0 0x40 (Ecw.ofBits 0) 0 0 0 false [] []
      (q.copy = none → a.toNat % 8 = 0 → b.toNat % 8 = 0 → c % 8 = 0 → 8 ≤ c → c ≤ 2 ^ 32 - 8 → inAperture a = false → inAperture b = false →
        (s.feWords (pctx w) a (c / 8) false).isSome = true → (s.feWords (pctx w) b (c / 8) true).isSome = true →
        exec (.copy n) s = .next (s.modQueue n fun y => { y with copy := some { m0 with work := plainMoves a b c } })) ∧
      (q.copy = none → a.toNat % 8 ≠ 0 ∨ b.toNat % 8 ≠ 0 ∨ c % 8 ≠ 0 ∨ c < 8 ∨ 2 ^ 32 - 8 < c ∨ inAperture a = true ∨ inAperture b = true ∨
          s.feWords (pctx w) a (c / 8) false = none ∨ s.feWords (pctx w) b (c / 8) true = none →
        exec (.copy n) s = .next (s.endPacket n w 5)) ∧
      ∀ m, q.copy = some m → (m.pick s.freeWord.toNat = none → exec (.copy n) s = .next (s.endPacket n w 0)) ∧
        ∀ d x l f, m.pick s.freeWord.toNat = some (d, x :: l) → s.ctxLoc (pctx w) x.va (!d.reading) = some f →
          f.host = false ∨ s.hostUp = true →
          (d.reading = true → s.poisoned f.loc 8 = false → exec (.copy n) s =
            .next (s.drawn.modQueue n fun y => { y with copy := some (m.hasRead d [(x, s.bytes f.loc 8)]) })) ∧
          (d.reading = true → s.poisoned f.loc 8 = true → exec (.copy n) s = .next (s.drawn.endPacket n w 5)) ∧
          (d.reading = false →
            let z := (s.drawn.feStore f (look [] x.num d.got)).cover m f.loc
            exec (.copy n) s = .next (z.2.modQueue n fun y => { y with copy := some (z.1.hasWritten d [x] 0) }))) ∧
    (∀ w x, s.inHand n 3 = some w → q.owed = 1 → (w.getD 1 0).toNat % 8 = 0 → inAperture (w.getD 1 0) = false →
      s.ctxLoc (pctx w) (w.getD 1 0) true = some x → x.host = false ∨ s.hostUp = true →
      exec (.signal n) s = .next ((s.feStore x (natBytes 8 (w.getD 2 0).toNat)).endPacket n w 0)) ∧
    (∀ w, s.inHand n 3 = some w → q.owed = 1 → (w.getD 1 0).toNat % 8 ≠ 0 ∨ inAperture (w.getD 1 0) = true ∨
      s.ctxLoc (pctx w) (w.getD 1 0) true = none → exec (.signal n) s = .next (s.endPacket n w 5)) ∧
    (∀ w, s.inHand n 4 = some w →
      (q.waitAt = none → (w.getD 1 0).toNat % 8 = 0 → inAperture (w.getD 1 0) = false →
        exec (.wait n) s = .next (s.modQueue n fun y => { y with waitAt := some s.now })) ∧
      (q.waitAt = none → (w.getD 1 0).toNat % 8 ≠ 0 ∨ inAperture (w.getD 1 0) = true → exec (.wait n) s = .next (s.endPacket n w 5)) ∧
      ∀ t x ok, q.waitAt = some t → s.waitWord w = some (x, ok) →
        (ok = true → x.host = false ∨ s.hostUp = true → s.poisoned x.loc 8 = false →
          exec (.waitPacketSatisfied n) s = .next (s.endPacket n w 0)) ∧
        (ok = false → t + (w.getD 3 0).toNat ≤ s.now → exec (.waitPacketExpiry n) s = .next (s.endPacket n w 6))) ∧
    (∀ w, s.inHand n 5 = some w →
      ((w.getD 0 0).getLsbD 8 = true → s.creates w = true → ∀ part pcids, part < 64 → find part s.parts = none →
        pcids.length = (w.getD 3 0).toNat → pcids.Nodup → (∀ p ∈ pcids, s.userCore p = true ∧ s.skimNames p = false ∧ (s.core p).place = none) →
        exec (.contextCreate n part pcids) s = .next ((s.create w part pcids).endPacket n w 0)) ∧
      ((w.getD 0 0).getLsbD 8 = true → s.creates w = false → ∀ part pcids,
        exec (.contextCreate n part pcids) s = .next (s.endPacket n w 5)) ∧
      ((w.getD 0 0).getLsbD 8 = false → find (pctx w) s.ctxs = none → exec (.contextDestroy n) s = .next (s.endPacket n w 5)) ∧
      ∀ c, (w.getD 0 0).getLsbD 8 = false → find (pctx w) s.ctxs = some c →
        (s.ctxIdle (pctx w) n = true → exec (.contextDestroy n) s = .next ((s.destroy (pctx w) c.part).endPacket n w 0)) ∧
        (s.ctxIdle (pctx w) n = false → exec (.contextDestroy n) s = .next (s.endPacket n w 5))) ∧
    (∀ w target, s.inHand n 6 = some w →
      (find (pctx w) s.ctxs = none → exec (.migrate n target) s = .next (s.endPacket n w 5)) ∧
      ∀ c, find (pctx w) s.ctxs = some c →
        let e := s.remapAt c.part (w.getD 1 0).toNat
        let dest := (w.getD 2 0).toNat
        let mine : Prop := ∃ pl, (s.core e.pcid).place = some pl ∧ pl.part = c.part
        let r := { packetRecord n w 0 2 0 s.now with ctx := pctx w }
        let asked (x : State) (core : Nat) (named : Bool) : State :=
          (x.request e.pcid { target := core, named := named, record := some r }).dropPacket n
        (e.valid = false ∨ e.state ≠ 0 ∨ ¬mine ∨ (s.core e.pcid).migrate ≠ none → exec (.migrate n target) s = .next (s.endPacket n w 5)) ∧
        (e.valid = true → e.state = 0 → mine → (s.core e.pcid).migrate = none →
          (dest ≠ 0xFFFF → s.okTarget e.pcid dest = true → exec (.migrate n target) s = .next (asked s dest true)) ∧
          (dest ≠ 0xFFFF → s.okTarget e.pcid dest = false → exec (.migrate n target) s = .next (s.endPacket n w 5)) ∧
          (dest = 0xFFFF → s.pickTarget e.pcid = none → exec (.migrate n target) s = .next ((s.migDrop e.pcid).endPacket n w 5)) ∧
          (dest = 0xFFFF → s.pickTarget e.pcid ≠ none → s.okTarget e.pcid target = true →
            exec (.migrate n target) s = .next (asked s target false)))) ∧
    ∀ w, s.inHand n 7 = some w →
      let w1 := (w.set 5 (s.recordLoc q (w.getD 5 0) true)).set 7 (s.recordLoc q (w.getD 7 0) false)
      let s1 := (List.range s.dieCount).foldl (s.prepare (pctx w) w1) (s.tearDown (pctx w))
      exec (.teardown n) s = .next (({ s1 with records := s1.records ++
        [{ packetRecord n w 0 2 0 s.now with teardown := true, cring := s.recordLoc q (w.getD 5 0) true }] } : State).dropPacket n)

/-- LAUNCH makes a tract of its image, its masks and its data, shared out over the dies; an instance is placed where it fits; an instance that
is over leaves its cores and its result waits in the tract's window; a completion record is written at its place of the ring; a word of the
image comes into a core's instruction store (R30, R46, R47, R343 to R347). A code image that cannot be read is the model's reading (log entry
35), and so are a launch without a free cluster and what a killed tract reports (log entries 36 and 37). -/
def Obligations.PlacementEvents : Prop :=
  ∀ (s : State),
    (∀ n w c pt image mws data host, s.inHand n 1 = some w → find (pctx w) s.ctxs = some c → find c.part s.parts = some pt →
      (launchBad w c pt = true → exec (.launch n) s = .next (s.endPacket n w 5)) ∧
      (launchBad w c pt = false → s.launchReads w = some (image, mws, data, host) → host = false ∨ s.hostUp = true →
        let home := dieOf (look Remap.none 0 pt.remap).pcid
        let t := launchTract n (s.queue n) w image mws data
          (shares (fieldNat (w.getD 1 0) 0 32) ((List.range s.dieCount).map fun d => s.freeClusters pt d) home)
        let s1 : State := { s with tracts := put s.nextId t s.tracts, nextId := s.nextId + 1 }
        exec (.launch n) s = .next ((s1.modCtx (pctx w) fun x => { x with
          measure := measured x.measure (bytesOf image), paired := x.paired || t.paired, rollback := x.rollback || t.rollback }).dropPacket n))) ∧
    (∀ tract t part pt x base index ranges,
      let probe := newInst tract t part base 0 s.now
      find tract s.tracts = some t → s.partOf t = some (part, pt) → find t.ctx s.ctxs = some x → t.waits = true → s.turn tract t = true →
      s.answers = true → s.fits t pt probe = true → t.pick (dieOf (s.relCore probe 0)) = some (index, ranges) → index < t.lowest + 256 →
      t.paired = false →
      exec (.instancePlacement tract base) s = .next (s.place tract t x { probe with index := index } ranges none)) ∧
    (∀ n i, find n s.insts = some i → s.instOver n i = true → (s.instCores n).any s.fbDue = false →
      let st := s.instStatus n i
      exec (.instanceCompletion n) s = .next (((((s.instCores n).foldl (fun x p => x.releaseCore n p i.status.isNone) s).forget n i.part
        (s.instCores n)).modTract i.tract fun t => { t with window := t.window ++
          [{ index := i.index, status := st, unit := if st = 1 then i.unit else 0, tick := s.now }] }).pump i.tract)) ∧
    (∀ k r c x, s.records[k]? = some r → r.teardown = false →
      let key := s.ringKey r
      let j := look 0 key s.ringCount
      (∀ y ∈ s.records.take k, y.teardown = false → s.ringKey y ≠ key) → (((s.queue r.queue).state ≠ 3 ∧ (s.queue r.queue).state ≠ 4) ∨ s.retries r.queue = false) →
      s.queueLoc (s.queue r.queue) r.cons false = some c →
      s.queueLoc (s.queue r.queue) (r.cring + word64 (32 * (j % 2 ^ r.clog))) true = some x →
      ((c.host = false ∧ x.host = false) ∨ s.hostUp = true) → j - s.loadNat c.loc 8 < 2 ^ r.clog →
      let s1 := s.feStore x (r.bytes j)
      exec (.completionRecord k) s = .next (({ s1 with ringCount := put key (j + 1) s1.ringCount } : State).recordDone r)) ∧
    ∀ p k w, (s.strand p k).live = true → find (s.strand p k).pc.toNat (s.core p).istore = none →
      s.lostWord p (s.strand p k).pc = none → s.imageWord p (s.strand p k).pc = some w → exec (.instructionRefill p k) s = .next (s.refill p (s.strand p k).pc w)

/-! ## Events of health, scheduling, power and the links -/

/-- Health: the in-field test of a quarantined unit starts and ends, a passed test lets firmware clear the quarantine, a bank rebuild starts
and goes on stripe by stripe; a residue mismatch makes a record, kills the tract and quarantines the core or the array; an access that reads
an uncorrectable error makes a record and kills the tract (R401 to R407, R414 to R417). The energy of the in-field test is a free value (log
entry 20). -/
def Obligations.HealthEvents : Prop :=
  ∀ (s : State) (p : Nat),
    (s.quarBits p ≠ 0 → (s.core p).health.test = false → exec (.inFieldTest p) s =
      .next (s.modCore p fun c => { c with health := { c.health with test := true, result := 1 } })) ∧
    (∀ ok, (s.core p).health.test = true →
      let s1 := s.modCore p fun c => { c with health := { c.health with test := false, result := if ok then 2 else 3 } }
      exec (.inFieldTestDone p ok) s = .next { s1.drawn with enovh := put 1 (look 0 1 s1.enovh + s1.freeWord.toNat) s1.enovh }) ∧
    (∀ b, (s.core p).health.result = 2 → exec (.quarantineClear p b) s = .next (s.clearQuar p b)) ∧
    (∀ bank, exec (.bankRebuild p false bank) s = .next (if (s.core p).health.eccState = 0 ∧ bank ≤ 9 then
        s.modCore p fun c => { c with health := { c.health with eccState := 1, bank := bank, prog := 0 } } else s) ∧
      exec (.bankRebuild p true bank) s = .next (if (s.cluster (cluOf p)).cspState = 0 ∧ bank ≤ 33 then
        s.modCluster (cluOf p) fun c => { c with cspState := 1, cspBank := bank, cspProg := 0 } else s)) ∧
    ((s.core p).health.eccState = 1 → 
      let n := if (s.core p).health.prog + 1 < 2048 then (s.core p).health.prog + 1 else 2048
      exec (.rebuildStripe p false) s =
        .next (s.modCore p fun c => { c with health := { c.health with prog := n, eccState := if n < 2048 then 1 else 2 } })) ∧
    ((s.cluster (cluOf p)).cspState = 1 →
      let n := if (s.cluster (cluOf p)).cspProg + 1 < 4096 then (s.cluster (cluOf p)).cspProg + 1 else 0
      exec (.rebuildStripe p true) s =
        .next (s.modCluster (cluOf p) fun c => { c with cspProg := n, cspState := if n = 0 then 2 else 1 })) ∧
    (∀ k unit lane obs exp, residueRange unit lane obs exp = true → unit ≠ 4 → s.strandRuns p k = true →
      residueUnit ((s.core p).opcodeAt (s.strand p k).pc) unit = true →
      exec (.machineCheck p k unit lane obs exp) s = .next (((s.mcLog p
        { cause := if unit < 2 then 1 else 2, unit := unit, lane := lane, op := (s.core p).opcodeAt (s.strand p k).pc, eop := 0,
          pc := (s.strand p k).pc, obs := obs, expected := exp }).killTractOf p 1 p).quarCore p)) ∧
    (∀ slot lane obs exp m l, residueRange 4 lane obs exp = true → (look Chain.free slot (s.core p).chains).eng = 1 →
      (look Chain.free slot (s.core p).chains).cmds = m :: l → s.passFails p m = true →
      exec (.machineCheck p slot 4 lane obs exp) s = .next ((((s.mcLog p
        { cause := 3, unit := 4, lane := lane, op := 0, eop := m.eop, pc := m.pc, obs := obs, expected := exp }).stopCmd p slot
          m.seq).killTractOf p 1 (2 ^ 13 + cluOf p)).quarArray (cluOf p))) ∧
    ∀ k cause addr o, s.poisonOp p k addr = some o → poisonCause addr = cause →
      exec (.poisonConsumption p k cause addr) s = .next (s.consumeWord p o cause addr)

/-- Scheduling: a pending cause of supervisor code is taken by a control strand that could issue, and a fused gang dissolves; a migration
whose matrix queue is empty and whose accesses and register writes have settled is committed where its target is still usable and its die has the
hardware groups; a gang switch first stops the partition's cores and then saves them, and a stopped partition resumes on cores whose dies have the
groups (R29, R32, R350 to R353, R395, R429). The words of an image and the energy of a save are free values (log entries 20 and 24); that a commit
waits for its target is the model's choice (log entry 21). -/
def Obligations.SchedulingEvents : Prop :=
  ∀ (s : State),
    (∀ p tr u, (s.strand p 0).live = true → s.atWord p = true → (s.core p).sup.sv = false → (s.core p).stop = none →
      (s.core p).halt = false → (s.core p).sup.nextAsync = some (tr, u) →
      exec (.asyncTrapEntry p) s = .next ((s.members p).foldl (fun x q =>
        (x.modCore q fun c => { c with gang := none }).enterSup q tr.raiser tr (x.strand q 0).pc (x.strand q 0).pc)
          (s.modCore p fun c => { c with sup := u }))) ∧
    (∀ p m, (s.core p).migrate = some m → (s.core p).stop = some .migrate → s.unsettled p = false → (s.core p).stopSince ≠ s.now →
      s.okTarget p m.target = true → s.hwTakes p m.target = true →
      exec (.migrationCommit p) s = .next (((s.endMigrate p 0).setRemapPart p 0).moveCore p m.target)) ∧
    ∀ part pt t, find part s.parts = some pt → pt.armed = some t → t ≤ s.now →
      (pt.stopped = false →
        let late := (s.partCores part).filter fun p => (s.core p).stop ≠ some .gang && (s.core p).stop ≠ some .migrate
        (late ≠ [] → exec (.gangSwitch part) s = .next (late.foldl (fun x p => x.stopCore p .gang) s)) ∧
        (late = [] → s.partQuiet part = true → exec (.gangSwitch part) s = .next (s.savePart part t))) ∧
      (pt.stopped = true → (∀ r ∈ pt.savedRes, s.unitsFree r = true) → s.tilesBack pt.ctx = true →
        (∀ s1, s.slotsGood pt = true → s.drawn.restoreAll part pt.saved = some s1 → s1.hwEnough part = true →
          exec (.partitionResume part) s = .next (s1.resumeAll part pt)) ∧
        (s.slotsGood pt = false → exec (.partitionResume part) s =
          .next ((s.drawn.tearDown pt.ctx).modPart part fun x => { x with armed := none })))

/-- Power: tokens pass at every microsecond and arrive after it, ballast is charged to its partition, temperatures raise the trips, a die that
trips T4 goes dark, the field book records a change of state once a core owes nothing else in the tick, and a sample (R357 to R369, R450 to R452). The windows in which a fall of draw is
measured, what a die's memory is used for, the phase of the PC sampler and that of the sensor are the model's choices (log entries 39 to 41
and 70). -/
def Obligations.PowerEvents : Prop :=
  ∀ (s : State),
    (s.now % 1000 = 0 → s.passed ≠ some s.now → s.answers = true → s.cores.any (fun c => s.fbDue c.1) = false →
      exec .tokenPassing s = .next { s.allCores.foldl (fun x p => x.grant p) (s.allCores.foldl (State.offer s) s.setFreqs) with passed := some s.now }) ∧
    (∀ t, s.passed = some t → t < s.now → s.answers = true →
      let due := s.allCores.filter fun p => decide (0 < (s.core p).power.transit) || !(s.core p).power.offers.isEmpty
      due ≠ [] →
        let x := due.foldl State.addTokens (s, [])
        exec .tokenAdd s = .next (x.2.foldl (fun y o => y.modCore o.1 fun c => { c with power := (c.power.give o.2).2 }) x.1)) ∧
    (∀ clu part pt, s.isCore (8 * clu) = true → find part s.parts = some pt → s.charge (8 * clu) 16 ≠ 0 → (s.cluster clu).qa = false →
      s.answers = true → s.ballastDue clu part = true → exec (.ballastPass clu part) s =
        .next { s.modCluster clu (·.ballast part (s.charge (8 * clu) 17) s.now) with
          enctx := put (4 * part + 3) (look 0 (4 * part + 3) s.enctx + s.charge (8 * clu) 17) s.enctx }) ∧
    (∀ p temp, s.isCore p = true → s.answers = true → s.now % 1000 = 0 → (s.core p).power.sampled ≠ some s.now →
      let w := (s.core p).power
      let new : Power := { Power.sample w temp with sampled := some s.now }
      let s1 := s.modCore p fun c => { c with power := new }
      let s2 := if new.t1act && !w.t1act then (s1.modCore p fun c => c.wake 0 3).warn p else s1
      let s3 := if new.t2act && !w.t2act then s2.modCluster (cluOf p) fun c => { c with freq := max 8 (c.freq / 2) } else s2
      exec (.thermalSample p temp) s = .next (if new.t3act && !w.t3act then s3.armCluster (cluOf p) else s3)) ∧
    (∀ d p c, d < s.dieCount → (s.die d).powered = true → (p, c) ∈ s.cores → dieOf p = d → 480 ≤ c.power.temp.toInt →
      ∃ s', exec (.t4Trip d) s = .next s' ∧ s'.answers = false) ∧
    (∀ p, s.isCore p = true → s.fbDue p = true → (∀ f ∈ coreOwes p (s.core p), ∀ x, f s ≠ .next x) →
      exec (.fieldBookStateChange p) s = .next ((s.modCore p fun c =>
        { c with fb := { c.fb.close s.now with state := (s.fbState p).1, cause := (s.fbState p).2, closed := some s.now } }).fbRecord
          p 0 0 0 0)) ∧
    ∀ p, fieldNat (s.core p).fb.ctl 5 3 ≠ 0 → (s.core p).fb.ctl.getLsbD 2 = true →
      s.now % 2 ^ (fieldNat (s.core p).fb.ctl 5 3 + 9) = 0 → (s.core p).fb.sampled ≠ some s.now → exec (.pcSample p) s =
      .next ((s.modCore p fun x => { x with fb := { x.fb with sampled := some s.now } }).fbRecord p 2 0 ((s.core p).strand (s.core p).fb.recent).pc (BitVec.ofNat 64 (s.core p).fb.recent))

/-- The skim engine zeroes its next unit; the three resets boot the device; the host link goes down and up; the ports train, time out,
exchange flits and NAKs, and a request that is dropped or cannot be delivered gets an unsupported-request error; the host reads and writes
host-managed memory (R375, R378 to R381, R388, R447 to R449, R455 to R457). What ACK acknowledges, the energy of the skim engine, what power-on
keeps of the environment's own state and the form of the answer to a class 0 flit are the model's choices (log entries 20, 42, 43 and 52). -/
def Obligations.ResetAndLinkEvents : Prop :=
  ∀ (s : State),
    (∀ d l, (∀ x ∈ s.dies, x.2.t4 = false) → (s.die d).skimState = 1 → (s.die d).skimDone < (s.die d).skimTotal → skimUnitAt (s.die d).skimJob (s.die d).skimDone = some l →
      ∃ s', exec (.skimUnit d) s = .next s' ∧ (s'.die d).skimDone = (s.die d).skimDone + 1 ∧
        (s'.die d).skimState = (if (s.die d).skimTotal ≤ (s.die d).skimDone + 1 then 2 else 1) ∧
        ∀ a, a < 2 ^ 64 → l ≤ a → a < l + 4096 → s'.byte a = 0) ∧
    (∀ tbl, exec (.powerOnReset tbl) s = .next (({ State.reset with
        part := s.part, mem := hostCells s.mem, msix := s.msix, hostReads := s.hostReads, agenda := s.agenda, focus := s.focus,
        fresh := s.fresh, nextId := s.nextId } : State).boot tbl true) ∧
      exec (.deviceReset tbl) s = .next ((s.warm 1 0).boot tbl true) ∧
      (s.hostUp = true → (∀ d ∈ s.dies, d.2.t4 = false) →
        (s.owner / 4096 = 1 → exec (.functionLevelReset tbl) s =
          .next (({ s.warm 2 0 with ports := s.ports, hostUp := s.hostUp } : State).boot tbl false)) ∧
        (s.owner / 4096 ≠ 1 → exec (.functionLevelReset tbl) s = .next (({ s.warm 2 s.owner with
          ports := s.ports, hostUp := s.hostUp, ownerOp := s.ownerOp, ownerSucc := s.ownerSucc, refused := s.refused,
          linkLost := s.linkLost } : State).boot tbl false)))) ∧
    (s.hostUp = true → exec .hostLinkDown s = .next ({ s with hostUp := false } : State).fixLink) ∧
    (s.hostUp = false → exec .hostLinkUp s =
      .next ({ s with hostUp := true, msix := s.msix ++ s.msixHeld, msixHeld := [],
                      queues := s.queues.map fun (q : Nat × PQueue) => (q.1, { q.2 with fetchAt := none }) } : State).fixLink) ∧
    (∀ off wr data bs, off % 8 = 0 → off < s.hdmsz → s.hostUp = true → s.answers = true →
      let l := s.unstripe none off
      let answer : Word × Bool := if s.skimmed l then (0, false) else (s.loadWord l, s.poisoned l 8)
      exec (.cxlMemRequest off wr data bs) s = .next (if wr = false then { s with hostReads := s.hostReads ++ [answer] }
        else if s.skimmed l then s else s.outsideWrite l data bs)) ∧
    ∀ j, s.isPort j = true →
      let x := s.port j
      (∀ ok rate peer, rate ≤ 2 → peer ≤ 65535 → s.answers = true →
        (x.state = 0 → exec (.brirusTraining j ok rate peer) s = .next (s.setPort j { x with state := 1, trainAt := s.now })) ∧
        (x.state = 1 → ok = true → s.now < x.trainAt + 50000000 →
          let n := if x.replay = [] then x.retry else (x.retry + 1) % 2 ^ 32
          exec (.brirusTraining j ok rate peer) s =
            .next (s.setPort j { x with state := 2, rate := rate, peer := peer, fails := 0, retry := n }))) ∧
      (x.state = 1 → x.trainAt + 50000000 ≤ s.now → exec (.trainingTimeout j) s = .next (s.setPort j { x with state := 3, replay := [] })) ∧
      (∀ flit : Flit, s.answers = true → x.state = 2 → flit.good = true → flit.seq % 1024 = x.expect → flit.cls = 0 →
        flit.addr.toNat % 8 = 0 →
        let y := { x.acked (flit.ack % 1024) with expect := (x.expect + 1) % 1024 }
        let v := (s.peerAccess flit).2
        y.replay.length < 512 → exec (.brirusFlit j flit) s = .next ((s.peerAccess flit).1.setPort j (y.send
          { flit with data := v.getD 0, write := false, good := true, poison := s.peerPoison flit, unsup := v.isNone }))) ∧
      (∀ flit : Flit, s.answers = true → x.state = 2 → flit.good = false ∨ flit.seq % 1024 ≠ x.expect →
        exec (.brirusFlit j flit) s = .next (s.setPort j { x with naks := x.naks + 1 })) ∧
      ∀ seq, s.answers = true → x.state = 2 → (x.acked (seq % 1024)).replay ≠ [] → x.fails < 8 →
        exec (.brirusNak j seq) s = .next (s.setPort j { x.acked (seq % 1024) with
          fails := (x.acked (seq % 1024)).fails + 1, retry := ((x.acked (seq % 1024)).retry + 1) % 2 ^ 32 })

/-! ## Encodings and the step -/

/-- Decoding the words of every well-formed instruction gives it back (R171 to R187). -/
def Obligations.DecodeOfEncode : Prop :=
  ∀ i : Instr, i.wf = true → encode i ≠ [] → decodeWords (encode i) = .ok i

/-- A word that decodes is the one encoding of what it decodes to, and that is well-formed: no bit is dropped, no field that must be zero is
ignored (R183). -/
def Obligations.EncodeOfDecode : Prop :=
  ∀ (w : Word) (i : Instr), decodeWord w = .ok i → i.wf = true ∧ encode i = [w]

/-- Words that the text writes out decode to the instructions that it says they are (R181, R231, R284, R306). -/
def Obligations.SampleWords : Prop :=
  let h : Hdr := { na := 0, nq := 0, nn := 0, eq := 0 }
  decodeWord 0x002F8150500000B0 = .ok (.bfx h 21 5 48 2) ∧
  decodeWord 0x682D002151602000 = .ok (.scmp { na := 3, nq := 2, nn := 0, eq := 0 } 2 21 22 1 0) ∧
  decodeWord 0x010000E061000000 = .ok (.append h 14 6 16 0) ∧
  decodeWord 0x00F0014001E01800 = .ok (.fence h 20 30 1 4 0) ∧
  decodeWord 0x00C30020B1E80000 = .ok (.lds h 2 11 30 4 0 0)

/-- A step runs the decoded instruction: where the next choice is the turn of a strand that may issue, that takes no trap before its word, that
the arbiter takes (no strand of its core that has gone longer without issuing could issue: log entry 2) and whose word, from its repetition buffer or
the core's instruction store, decodes, the step is the meaning of that instruction on the state in which the strand is in focus and its repetition
buffer holds the word of an open body (R75); where the choice is a
command, it is the meaning of the command; where it is an event, of the event. -/
def Obligations.StepRunsDecoded : Prop :=
  ∀ (s : State) (r : List Action),
    (∀ p k w i, s.agenda = .issue p k :: r →
      let x := (s.rest.members p).foldl (fun y q => y.modCore q Core.land) s.rest
      s.rest.canIssue p k = true → s.rest.failedSnag p k = none → s.rest.asyncDue p k = none → s.rest.ahead p k = false →
      x.wordAt p k = some w → decodeWord w = .ok i →
        step s = exec i { x.buffered p k w with focus := { pcid := p, strand := k, slot := 0, word := w } }) ∧
    (∀ p slot m i run, s.agenda = .engine p slot :: r → (s.rest.core p).headCmd slot = some m → (i, m.eop, run) ∈ commandsOf m.ecw →
        step s = exec i { s.rest with focus := { pcid := p, strand := m.strand, slot := slot, word := 0 } }) ∧
    ∀ i, s.agenda = .ev i :: r → step s = exec i s.rest

/-- A fetched word that is an undefined encoding traps with cause 1 and the word, and a fetch that leads to no word of the program traps with
cause 11 and the address; nothing else happens (R65, R183, R425). -/
def Obligations.UndecodableWordsTrap : Prop :=
  ∀ (s : State) (r : List Action) (p k : Nat), s.agenda = .issue p k :: r →
    let x := (s.rest.members p).foldl (fun y q => y.modCore q Core.land) s.rest
    s.rest.canIssue p k = true → s.rest.failedSnag p k = none → s.rest.asyncDue p k = none → s.rest.ahead p k = false →
    (∀ w e, x.wordAt p k = some w → decodeWord w = .error e →
      let y : State := { x.buffered p k w with focus := { pcid := p, strand := k, slot := 0, word := w } }
      step s = .next (y.trapAll k { cause := 1, code := 0, info := w } (y.members p))) ∧
    (x.wordAt p k = none → x.imageWord p (x.strand p k).pc = none →
      step s = .next (x.trapAll k { cause := 11, code := 0, info := (x.strand p k).pc } (x.members p)))

/-! ## Memory -/

/-- The memory right after reset is in canonical form: it lists nothing, and an unlisted byte reads as zero (R83, R456; for host
memory that is the model's choice, log entry 7). -/
def Obligations.ResetMemoryCanonical : Prop := Memory.wf State.reset.mem

/-- Every step keeps the memory in canonical form: locations strictly rising, no byte listed that reads as an unlisted one does, which is
zero (for host memory the model's choice, log entry 7). -/
def Obligations.StepKeepsMemoryCanonical : Prop :=
  ∀ s t : State, Memory.wf s.mem → step s = .next t → Memory.wf t.mem

/-- An access that is performed changes the bytes that it stores and no other: a load none, a store its bytes at the location that its
address leads to and at that location's mirror where it goes by the routers, a block store its codes and then its scale in the same way, a
read-modify-write the new value there (R80, R111, R260, R266, R275, R410). A byte is read with one key: with the key of the store, or anywhere outside
the lines that the store touches (R385). -/
def Obligations.StoresLand : Prop :=
  ∀ (s t : State) (p id elem l : Nat) (o : MemOp) (rs host : Bool), (s.core p).opAt id elem = some o → s.access p o = .loc l rs host →
    s.paired p = false → host = false ∨ s.rollbackMode p = false → exec (.memoryAccessPerformed p id elem) s = .next t →
    let sent (va : Word) (x : Nat) (bs : List Byte) : List (Nat × List Byte) :=
      (x, bs) :: if remoteVa va then ((s.mirrorLoc x).map fun m => (m, bs)).toList else []
    let writes : List (Nat × List Byte) := match o.kind with
      | .store | .stf => sent o.va l (natBytes o.bytes o.data.toNat)
      | .atomic | .reduction => sent o.va l (natBytes o.bytes
          (rmw o.aop (8 * o.bytes) (s.loadNat l o.bytes) (o.data.toNat % 2 ^ (8 * o.bytes)) (o.cmp.toNat % 2 ^ (8 * o.bytes))))
      | .mxq => sent o.va l o.codes ++ sent o.sva (s.scaleLoc p o).1 [o.scale]
      | .acc => [(l, natBytes 8 o.data.toNat)]
      | .load | .lds | .table | .feclr => []
    let put (w : Nat × List Byte) (a : Nat) (v : Byte) : Byte :=
      if viaKey a = viaKey w.1 ∧ plain w.1 ≤ plain a ∧ plain a < plain w.1 + w.2.length then w.2.getD (plain a - plain w.1) 0 else v
    ∀ a, (∀ w ∈ writes, viaKey a = viaKey w.1 ∨ plain a / 64 ∉ linesOf (plain w.1) w.2.length) →
      t.byte a = writes.foldl (fun v w => put w a v) (s.byte a)

/-! ## Registers -/

/-- Register names: a scalar is a word of its row; a scalar, a row and a predicate read back what was written to them, where no write of their
row is pending and the row is not locked, and keep everything else; q0 reads all ones and ignores writes; a lane result changes the lanes that the predicate enables (R61, R63, R237). -/
def Obligations.RegisterNames : Prop :=
  ∀ (s : State) (p k f : Nat) (d n : BitVec 8) (h : Hdr),
    let free (r : Nat) : Prop := (s.core p).busy r = false ∧ (s.core p).locked r = false
    s.rS p k f n = rowWord (s.rV p k f (BitVec.ofNat 8 (n.toNat / 8))) (n.toNat % 8) ∧
    (∀ v, (s.destOf p k 0 d).row ≠ (s.strand p k).wb → free (s.destOf p k 0 d).row →
      (s.wS p k 1 d v).rS p k f n = if s.destOf p k f n = s.destOf p k 0 d then v else s.rS p k f n) ∧
    (∀ m v r, free (s.opRow p k (dV d)) → (s.wV p k 1 d m v).row p r =
      if r = (s.strand p k).wb + s.vName p k 0 d.toNat then blend (s.row p r) m v else s.row p r) ∧
    s.pred p k 0 = 0xFFFF ∧ (∀ v, s.wQ p k 1 0 v = s) ∧
    (∀ (q r : BitVec 3) v, q ≠ 0 → free (s.strand p k).wb →
      (s.wQ p k 1 q v).pred p k r.toNat = if r = q then v else s.pred p k r.toNat) ∧
    ∀ w ∈ [4, 8, 16, 32, 64], ∀ (l : List Nat) (i : Nat), i < 512 / w →
      free (s.opRow p k (dV d)) →
      let r := (s.strand p k).wb + s.vName p k 0 d.toNat
      fieldNat ((s.putLanes p k 1 w h d l).row p r) (w * i) w =
        if laneOn w (s.pred p k h.eq.toNat) i then l.getD i 0 % 2 ^ w else fieldNat (s.row p r) (w * i) w

/-- A result of a longer latency is bound at issue to its row and lands there when its cycle has come, unless the row is locked or an older
write to the same word is pending; until then the row keeps its value and its scoreboard bit is set (R67, R68, R73). -/
def Obligations.LateResultsLand : Prop :=
  ∀ (s : State) (p r lat : Nat) (m v : Row), 2 ≤ lat →
    let l : Late := { id := (s.core p).seq, due := (s.core p).cycle + lat, row := r, mask := m, value := v }
    let t := s.writeRow p r lat m v
    (∀ q, t.row p q = s.row p q) ∧ (t.core p).late = (s.core p).late ++ [l] ∧ (t.core p).busy r = true ∧
    ∀ c : Core, c.late = [l] →
      (c.cycle < l.due → c.land = c) ∧ (c.locked r = true → c.land = c) ∧
      (l.due ≤ c.cycle → c.locked r = false → c.blocked l.id r m = false →
        c.land.row r = blend (c.row r) m v ∧ c.land.late = [] ∧ ∀ q, q ≠ r → c.land.row q = c.row q)

/-- When a word passes the checks on a core that is not fused: its header can be read, if it reads it, and written, if it moves in it; no cause of
its own, no trap of the repetition buffer, every name inside the window, nothing that holds its operands, no source that cannot be corrected, and a
hawk that can pay (R53, R62, R68, R69, R73, R76, R358, R417, R426). -/
def Obligations.WordChecks : Prop :=
  ∀ (h : Hdr) (w : WordSpec) (s : State), (s.core s.focus.pcid).gang = none →
    let p := s.focus.pcid
    let k := s.focus.strand
    let wb := (s.strand p k).wb
    Clear h w s ↔
      (w.noHeader = false → h.eq ≠ 0 ∨ h.na ≠ 0 ∨ w.usesHeader = true ∨ s.inBody p k = true →
        (s.core p).busy wb = false ∧ (s.core p).rowBad wb = false) ∧
      (w.hw ≠ [] ∨ (s.inBody p k = true ∧ w.noHeader = false) →
        (s.core p).locked wb = false ∧ (s.core p).saturated wb = false) ∧
      w.pre p k s = .go ∧ (s.strand p k).past = false ∧ (h.na = 6 → s.inBody p k = true) ∧
      (∀ o ∈ w.ops, s.opInWindow p k o = true) ∧ (∀ o ∈ w.ops, s.opHeld p k w.atOnce o = false) ∧
      (∀ o ∈ w.ops, o.src = true → (s.core p).rowBad (s.opRow p k o) = false) ∧ s.canPay p (s.wordCharge p w) = true

/-- A register name at or past the window limit raises the limit trap, with the first such field in the order D, A, B, C as its code and the
name after staggering; the word has no effect (R62, R425): so does every word that names its registers as the checks of a word do, on a core that is
not fused, once its header can be read and its own causes 1 to 3 are not met (R426); among them are the words of every class that are listed. Which of
several fields is named is the model's choice (log entry 23). -/
def Obligations.LimitTraps : Prop :=
  (∀ (s : State) (i : Instr) (h : Hdr) (w : WordSpec) (body : Body), exec i s = runWord h w body s →
    let p := s.focus.pcid
    let k := s.focus.strand
    (s.core p).gang = none → s.HeaderClear p k h w → w.pre p k s = .go → (s.strand p k).past = false → (h.na = 6 → s.inBody p k = true) →
    ∀ o, w.ops.find? (fun o => !s.opInWindow p k o) = some o →
      let t : Trap := { cause := 4, code := o.field, info := BitVec.ofNat 64 (s.opName p k o) }
      s.trapHeld k t [p] = false → exec i s = .next (s.trapAll k t [p])) ∧
  ∀ (h : Hdr) (d a b c : BitVec 8) (ty rm q : BitVec 3) (m : BitVec 12) (n : BitVec 16),
    let after (w : WordSpec) : WordSpec := { w with pre := tableWait }
    ∀ iw ∈ ([(.add h d a b, specS [dS d, aS a, bS b] 1), (.mul h d a b, specS [dS d, aS a, bS b] 3), (.div h d a b, specS [dS d, aS a, bS b] 36),
      (.mov h d a, specS [dS d, aS a] 1), (.clz h d a, specS [dS d, aS a] 1), (.li h d 0, specS [dS d] 1), (.lih h d 0, specS [dBoth d] 1),
      (.bfi h d a 0 1, specS [dBoth d, aS a] 1), (.sel h d a b q, { specS [dS d, aS a, bS b] 1 with usesHeader := decide (q ≠ 0) }),
      (.scmp h q a b 0 0, specHeader [aS a, bS b] (qWords q)), (.fadd h d a b ty rm, specS [dS d, aS a, bS b] 4),
      (.ffma h d a b c ty rm, specS [dS d, aS a, bS b, cS c] 4), (.fcmp h q a b ty 0, specHeader [aS a, bS b] (qWords q)),
      (.tgts h 0 a, specHeader [aS a] [2]), (.clk h d, specS [dS d] 1), (.ids h d 0, specS [dS d] 1),
      (.vadd h d a b ty m, specV [dV d, aV a, bV b] 2),
      (.vmad h d a b c ty, { specV [dV d, aV a, bV b, cV c] (if ty = 4 then 6 else 4) with occ := if ty = 4 then 2 else 1 }),
      (.vcmp h q a b ty 0 0 m, { specV [aV a, bV b] 1 with hw := qWords q }), (.vsplat h d a ty, specV [dV d, aS a] 2),
      (.vext h d a b ty 0 m, specV [dS d, aV a, bS b] 2), (.vins h d a b ty, specV [dVboth d, aS a, bS b] 2),
      (.vperm h d a b ty m, specV [dV d, aV a, bV b] 3), (.vrot h d a b ty m, specV [dV d, aV a, bS b] 2),
      (.qpop h d q, { specV [dS d] 1 with usesHeader := decide (q ≠ 0) }), (.qmov h q a, { specV [aS a] 1 with hw := qWords q }),
      (.gbcast h d a, specV [dS d, aS a] 2), (.glane h d, specV [dS d] 1), (.dtrd h d a, after (specV [dV d, aS a] 2)),
      (.scsel h d a b c ty, after (specV [dS d, aS a, bS b, cS c] 2)),
      (.mxq h d a b c ty rm, after (specV [dV d, aV a, aVnext a, bS b, { cS c with src := decide (rm = 5) }] 6)),
      (.dtld h a, after (specV [aS a] 1)), (.start h a 1, { specX [aS a] 1 with pre := controlOnly }),
      (.hkill h a, { specX [aS a] 1 with pre := controlOnly }), (.win h a, { specX [aS a] 1 with pre := trapIfOpen }),
      (.wrd h d, specX [dS d] 1), (.csrr h d n, { specX [dS d] 2 with pre := csrRead1 n.toNat false }),
      (.csrw h a n, { specX [aS a] 2 with pre := csrTrap n.toNat false true })] : List (Instr × WordSpec)),
      ∀ s, ∃ body : Body, exec iw.1 s = runWord h iw.2 body s

/-! ## Traps and waits -/

/-- Taking a trap: a delegated one writes the frame, sets INH and goes on at HADDR in the same window; one of the control strand enters
supervisor code through CORE_TWIN and CORE_TVEC; a second one there ends the instance with status 4; one of a helper stops the helper and
is pending for the control strand (R427 to R430). INH shows at once where no write of its header row is pending and the row is not locked. -/
def Obligations.TrapDelivery : Prop :=
  ∀ (s : State) (p k : Nat) (t : Trap) (tpc npc : Word),
    let st := s.strand p k
    let u := (s.core p).sup
    let h7 := s.hword p k 7
    let handled : Prop := ((t.cause = 4 ∧ h7.getLsbD 57 = true) ∨ (t.cause = 19 ∧ h7.getLsbD 58 = true) ∨
      (t.cause = 16 ∧ h7.getLsbD 59 = true)) ∧ h7.getLsbD 60 = false
    let s' := s.takeTrap p k t tpc npc
    let framed (deleg : Bool) (raiser : Nat) (f : TrapFrame) : Prop :=
      fieldNat f.w0 0 8 = t.cause ∧ fieldNat f.w0 8 8 = t.code ∧ fieldNat f.w0 16 4 = raiser ∧ f.w0.getLsbD 20 = deleg ∧
      fieldNat f.w0 32 10 = st.wb ∧ fieldNat f.w0 48 9 = st.wl ∧ f.w1 = tpc ∧ f.w2 = npc ∧ f.w3 = t.info
    t.cause < 256 → t.code < 256 → k < 16 → st.wb < 1024 → st.wl < 512 →
    (handled → framed true k (s'.strand p k).frame ∧ (s'.strand p k).pc = BitVec.ofNat 64 (fieldNat h7 3 54 * 8) ∧
      (s'.strand p k).wb = st.wb ∧ (s'.strand p k).wl = st.wl ∧
      ((s.core p).busy st.wb = false → (s.core p).locked st.wb = false → (s'.hword p k 7).getLsbD 60 = true)) ∧
    (¬handled → k = 0 → u.sv = false → u.tvec ≠ 0 → u.twl ≠ 0 → st.eb ≤ u.twb → u.twb + u.twl ≤ st.eb + st.el →
      framed false 0 (s'.strand p 0).frame ∧ (s'.strand p 0).pc = u.tvec ∧ (s'.strand p 0).wb = u.twb ∧ (s'.strand p 0).wl = u.twl ∧
      (s'.core p).sup.sv = true ∧
      ((s.core p).busy u.twb = false → (s.core p).locked u.twb = false → (s'.hword p 0 7).getLsbD 60 = true)) ∧
    (¬handled → k = 0 → u.sv = true ∨ u.tvec = 0 → ∀ pl i, (s.core p).place = some pl → find pl.inst s.insts = some i → i.status = none →
      ∃ j, find pl.inst s'.insts = some j ∧ j.status = some 4) ∧
    (¬handled → k ≠ 0 → framed false k (s'.strand p k).frame ∧ (s'.strand p k).stopped = true ∧ (s'.strand p k).live = st.live ∧
      (s'.strand p k).wb = st.wb ∧ (s'.strand p k).wl = st.wl ∧ k ∈ (s'.core p).sup.stopPend) ∧
    (t.cause ≠ 18 → s.trapAll k t [p] = s.takeTrap p k t st.pc (st.pc + 8))

/-- The end of a wait writes WST and ESC in the header of the current window, where no older write of that row is pending and the row is not
locked: a wait that ends with status 0 clears ESC, one that ends with status 1 raises it by one up to 1,023 except when D is 0, every other ending
leaves it (R280, R281). -/
def Obligations.WaitEndHeader : Prop :=
  ∀ (s : State) (p k status : Nat) (w : Wait),
    let wb := (s.strand p k).wb
    let esc := fieldNat (s.hword p k 5) 54 10
    let s' := s.endHeader w.id p k status w.deadline
    let esc' := fieldNat (s'.hword p k 5) 54 10
    ((∀ m, (s.core p).blocked w.id wb m = false) → (s.core p).locked wb = false →
      fieldNat (s'.hword p k 5) 48 2 = (if status = 0 then 0 else if status = 1 then 1 else if status = 3 then 3 else 2) ∧
      (status = 0 → esc' = 0) ∧ (status = 1 → w.deadline ≠ 0 → esc' = min (esc + 1) 1023) ∧ (status = 1 → w.deadline = 0 → esc' = esc) ∧
      (status ≠ 0 → status ≠ 1 → esc' = esc)) ∧
    (∀ j < 54, ¬(48 ≤ j ∧ j < 50) → (s'.hword p k 5).getLsbD j = (s.hword p k 5).getLsbD j) ∧
    (∀ j < 8, j ≠ 5 → s'.hword p k j = s.hword p k j) ∧ (∀ r, r ≠ wb → s'.row p r = s.row p r) ∧
    (w.dest = none → (∀ row hd, w.kind ≠ .recv row hd) → (∀ mask, w.kind ≠ .join mask) → s.endEffects p k w status = s')

/-- BARR: status 7 without a group or membership, 8 for a second arrival, else 0; the arrival that makes every member's ARR 1 completes the
phase: every ARR is 0, every member's DONE is 1, the phase count rises by one, and the release comes 8 ticks later when every member lies on
one die and 24 ticks later otherwise (R286, R287). -/
def Obligations.BarrierPhase : Prop :=
  ∀ (s : State) (p k g n : Nat) (i : Instance), 1 ≤ g → g ≤ 3 → s.instOf p = some (n, i) → find n s.insts = some i →
    let x := i.group g
    let r := s.relOf p
    (x.bound = false ∨ r ∉ x.members → s.barr p k g = (7, s)) ∧
    (x.bound = true → r ∈ x.members → r ∈ x.arr → s.barr p k g = (8, s)) ∧
    (x.bound = true → r ∈ x.members → r ∉ x.arr →
      (s.barr p k g).1 = 0 ∧ ∃ j, find n (s.barr p k g).2.insts = some j ∧
        ((∀ m ∈ x.members, m = r ∨ m ∈ x.arr) →
          (j.group g).arr = [] ∧ (j.group g).done = x.members ∧ (j.group g).phase = x.phase + 1 ∧
          ((∀ a ∈ x.members, ∀ b ∈ x.members, dieOf (s.relCore i a) = dieOf (s.relCore i b)) → (j.group g).release = x.release ++ [s.now + 8]) ∧
          ((∃ a ∈ x.members, ∃ b ∈ x.members, dieOf (s.relCore i a) ≠ dieOf (s.relCore i b)) → (j.group g).release = x.release ++ [s.now + 24])) ∧
        ((∃ m ∈ x.members, m ≠ r ∧ m ∉ x.arr) →
          (∀ m, m ∈ (j.group g).arr ↔ m = r ∨ m ∈ x.arr) ∧ (j.group g).done = x.done ∧ (j.group g).phase = x.phase ∧
          (j.group g).release = x.release))

/-! ## Special registers and reset -/

/-- A register of the core, its cluster, its die or the device reads back what was written to its writable fields, a field that is cleared by
writing 1 to it is, and a read-only one keeps its value; a minimum or cap of a queue pool that would break the pool is ignored; the numbers from 0x4000
on are the words of the die's block and those from 0x8000 on of the device's (R6, R79, R82, R89, R92, R159, R161, R282, R331, R332, R348, R349, R359,
R366, R377, R380, R428, R431, R436, R437, R450). -/
def Obligations.SpecialRegisters : Prop :=
  ∀ (s : State) (p k n d : Nat) (v : Word),
    let back (n : Nat) : Word := ((s.coreWrite p n v).coreRead p k n).1
    let was (n : Nat) : Word := (s.coreRead p k n).1
    let die (off : Nat) : Word := ((s.dieWrite d off v).dieRead d off).1
    let dev (off : Nat) : Option Word := (s.devWrite true off v).map fun t => (t.devRead off).1
    let quotas (a b num pool dmin dcap : Nat) (mins caps : State → AMap Nat) : Prop := ∀ j < num,
      let m := fieldNat v 0 16
      let fits : Prop := ((List.range num).map fun i => if i = j then m else look dmin i (mins s)).foldl (· + ·) 0 ≤ pool ∧ m ≤ look dcap j (caps s)
      (fits → back (a + j) = BitVec.ofNat 64 m) ∧ (¬fits → back (a + j) = was (a + j)) ∧
      (look dmin j (mins s) ≤ m → back (b + j) = BitVec.ofNat 64 m) ∧ (m < look dmin j (mins s) → back (b + j) = was (b + j)) ∧
      ∀ i, i ≠ j → look dmin i (mins (s.coreWrite p (a + j) v)) = look dmin i (mins s) ∧ look dcap i (caps (s.coreWrite p (b + j) v)) = look dcap i (caps s)
    (n < 0x4000 → s.csrWrite p n v = some (s.coreWrite p n v) ∧ s.csrRead p k n = s.coreRead p k n) ∧
    (0x4000 ≤ n → n < 0x8000 → s.csrWrite p n v = some (s.dieWrite (dieOf p) (8 * (n - 0x4000)) v) ∧
      s.csrRead p k n = s.dieRead (dieOf p) (8 * (n - 0x4000))) ∧
    (0x8000 ≤ n → s.csrWrite p n v = s.devWrite true (8 * (n - 0x8000)) v ∧ s.csrRead p k n = s.devRead (8 * (n - 0x8000))) ∧
    back 0x053 = v ∧ back 0x054 = v ∧ back 0x064 = v ∧ back 0x071 = v &&& ~~~7 ∧ back 0x072 = v &&& ~~~7 ∧
    back 0x057 = v &&& 0xFFFFFFFF ∧ back 0x055 = v &&& 0xFFFFFFFF000003FF ∧ back 0x058 = v &&& 0x81FFFFFFFFFFFFF8 ∧
    (fieldNat v 0 5 + fieldNat v 8 6 ≤ 32 → back 0x050 = v &&& 0x3F1F) ∧ (32 < fieldNat v 0 5 + fieldNat v 8 6 → s.coreWrite p 0x050 v = s) ∧
    fieldNat (back 0x06F) 0 10 = fieldNat v 0 10 ∧ fieldNat (back 0x06F) 16 9 = fieldNat v 16 9 ∧
    ((s.coreWrite p 0x06F v).core p).sup.sv = (s.core p).sup.sv ∧
    (∀ j ≤ 10, back (0x082 + 4 * j) = v) ∧ (∀ j < 8, back (0x040 + j) = v) ∧
    fieldNat (back 0x060) 48 15 = fieldNat v 48 15 ∧ back 0x060 &&& 0xFFFFFFFFFFFF = was 0x060 &&& 0xFFFFFFFFFFFF ∧
    back 0x061 = was 0x061 &&& ~~~(v &&& 0x10000) ∧ back 0x078 = was 0x078 &&& ~~~(v &&& 0x30) ∧
    back 0x070 = (v &&& 0xFFFFFFFF0000FE00) ||| (was 0x070 &&& 0xFFFF01FF) ∧
    fieldNat (back 0x06B) 32 32 = fieldNat v 32 32 ∧ fieldNat (back 0x06E) 32 32 = fieldNat v 32 32 ∧
    back 0x100 = v ∧ back 0x101 = v &&& 0xFFFFFFFF ∧
    quotas 0x0C0 0x0D0 16 64 4 64 (fun x => (x.core p).eqMin) (fun x => (x.core p).eqCap) ∧
    quotas 0x108 0x110 8 512 64 512 (fun x => (x.cluster (cluOf p)).pqMin) (fun x => (x.cluster (cluOf p)).pqCap) ∧
    (n ≤ 0x03F ∨ n ∈ [0x051, 0x052, 0x056, 0x062, 0x063, 0x065, 0x066, 0x067, 0x068, 0x069, 0x06C, 0x06D, 0x074, 0x075, 0x076, 0x077, 0x079, 0x102] →
      s.coreWrite p n v = s) ∧
    (die 0x18 = v &&& 0xFFFFFFFF ∧ die 0x20 = v &&& 0xFFFFFFFF ∧ die 0x30 = v &&& 0x1FFF03FF ∧ die 0x48 = v &&& 0x1FFF0000FFFF ∧
      die 0x58 = v &&& 0x1FFF ∧ fieldNat (die 0x08) 48 16 = fieldNat v 48 16 ∧ fieldNat (die 0x28) 0 32 = fieldNat v 0 32 ∧
      (∀ j < 64, die (0x100 + 8 * j) = BitVec.ofNat 64 (min (fieldNat v 0 5) 16)) ∧
      ∀ off ∈ [0x00, 0x10, 0x38, 0x40], s.dieWrite d off v = s) ∧
    dev 0x20 = some (v &&& 0x3F) ∧ dev 0x30 = some (v &&& 0xC0001FFFFFFFFFFF) ∧
    (s.parts = [] → dev 0x18 = some (v &&& 0x3FFF000)) ∧ (s.parts ≠ [] → s.devWrite true 0x18 v = some s) ∧ s.devWrite false 0x18 v = some s ∧
    (∀ j < 36, (dev (0x200 + 8 * j)).map (fieldNat · 0 32) = some (fieldNat v 0 32)) ∧
    ∀ off ∈ [0x00, 0x08, 0x40, 0x80, 0x88, 0x90], s.devWrite true off v = some s

/-- Registers right after reset hold the values that their tables give (R1, R19, R82, R89, R93, R152, R159, R161, R282, R337, R348, R349, R355,
R357, R359, R361, R431, R436, R437, R457). -/
def Obligations.ResetRegisters : Prop :=
  (∀ p k : Nat,
    let rd (n : Nat) : Word := (State.reset.coreRead p k n).1
    rd 0x050 = 0x21E ∧ rd 0x051 = 0 ∧ rd 0x052 = 2 ∧ rd 0x053 = 0 ∧ rd 0x054 = 0 ∧ rd 0x055 = 16 ∧ rd 0x056 = 0 ∧ rd 0x057 = 1000000 ∧
    rd 0x058 = 0 ∧ rd 0x060 = 0x1000000000000000 ∧ rd 0x06F = 0 ∧ rd 0x070 = 0 ∧ rd 0x071 = 0 ∧ rd 0x072 = 0 ∧ rd 0x073 = 0 ∧
    rd 0x079 = 0 ∧ rd 0x101 = 0 ∧ rd 0x102 = 16 ∧ (∀ j < 16, rd (0x0C0 + j) = 4 ∧ rd (0x0D0 + j) = 64) ∧
    ∀ j < 8, rd (0x108 + j) = 64 ∧ rd (0x110 + j) = 512) ∧
  (State.reset.csrRead 0 0 0x8000).1 = 0x0160408D1ABE4300 ∧ (State.reset.csrRead 0 0 0x8001).1 = 0 ∧
  State.reset.owner = 0 ∧ State.reset.strbase = 0x2000 ∧ (∀ d, (State.reset.die d).tkbudget = 1200000) ∧
  ∀ n, (State.reset.queue n).state = 0 ∧ (State.reset.queue n).logsz = 4 ∧ (State.reset.queue n).head = 0 ∧ (State.reset.queue n).tail = 0

/-! ## Frames -/

/-- What a word that writes one register and reads the header of its window, as all such words do, leaves unchanged when it completes on a core
that is not fused: every other register row; the header
row too where D does not name it, but for the loop word; every other strand unless the control strand ends; every other core; every special
register, accumulator, exception register and memory operation of its core; every byte of memory, unless its selector makes a record for the
field book: memory, and the translations that the write of the record installs, are then what that record makes of them, at the head of the ring and
through the translation of the state that the word's effect leaves (R7, R61, R64, R99, R174, R226, R367, R370). -/
def Obligations.RegisterWordFrame : Prop :=
  ∀ (i : Instr) (h : Hdr) (w : WordSpec) (eff : Nat → Nat → State → State) (vec : Bool) (d : BitVec 8) (s t : State),
    let p := s.focus.pcid
    let k := s.focus.strand
    let wb := (s.strand p k).wb
    let row := s.rowOfD p k vec d
    Runs i h w eff → WritesReg h vec d eff → w.noHeader = false → (s.core p).gang = none → Clear h w s → exec i s = .next t →
      (∀ r, r ≠ row → r ≠ wb → t.row p r = s.row p r) ∧
      (row ≠ wb → ∀ j < 8, j ≠ 6 → rowWord (t.row p wb) j = rowWord (s.row p wb) j) ∧
      (∀ l ∈ (t.core p).late, l ∈ (s.core p).late ∨ l.row = row) ∧
      (∀ q, q ≠ p → t.core q = s.core q) ∧ t.keptTraced = s.keptTraced ∧
      (h.na ≠ 7 ∨ k ≠ 0 → (t.core p).keptTraced = (s.core p).keptTraced ∧ t.insts = s.insts ∧ ∀ j, j ≠ k → t.strand p j = s.strand p j) ∧
      (s.untraced p h → t.kept = s.kept ∧ t.mem = s.mem ∧ t.keyed = s.keyed ∧ t.poison = s.poison ∧ t.clusters = s.clusters ∧ t.parts = s.parts ∧
        (h.na ≠ 7 ∨ k ≠ 0 → (t.core p).kept = (s.core p).kept)) ∧
      (let y := (s.went h w eff).traced s w p k h
       ¬s.untraced p h → t.mem = y.mem ∧ t.keyed = y.keyed ∧ t.poison = y.poison ∧ t.clusters = y.clusters ∧ t.dies = y.dies ∧
        (t.core p).utlb = (y.core p).utlb ∧ (t.core p).fb = (y.core p).fb)

/-- What a word that issues memory operations leaves unchanged when it completes on a core that is not fused: it appends its operations and
writes no register and no byte of memory, but for the loop word of the header and a field-book record of its selector; the operations are
performed later, each on its own (R110, R114, R266). -/
def Obligations.MemoryWordFrame : Prop :=
  ∀ (i : Instr) (h : Hdr) (w : WordSpec) (n : Nat) (l : Nat → Nat → State → List MemOp) (s t : State),
    let p := s.focus.pcid
    let k := s.focus.strand
    let wb := (s.strand p k).wb
    let x := s.begun w
    let ops := if w.off h p k x then [] else l p k x
    Issues i h w n l → w.noHeader = false → (s.core p).gang = none → Clear h w s → (∀ o ∈ ops, o.va.toNat % n = 0) → x.MayIssue p k ops → exec i s = .next t →
      (h.na ≠ 7 ∨ k ≠ 0 → (t.core p).ops = (s.core p).ops ++ ops ∧ t.insts = s.insts ∧
        (t.core p).keptTraced = { (s.core p).keptTraced with ops := (s.core p).ops ++ ops } ∧ ∀ j, j ≠ k → t.strand p j = s.strand p j) ∧
      (∀ r, r ≠ wb → t.row p r = s.row p r) ∧ (∀ j < 8, j ≠ 6 → rowWord (t.row p wb) j = rowWord (s.row p wb) j) ∧
      (t.core p).late = (s.core p).late ∧ (∀ q, q ≠ p → t.core q = s.core q) ∧ t.keptTraced = s.keptTraced ∧
      (s.untraced p h → t.kept = s.kept ∧ t.mem = s.mem ∧ t.keyed = s.keyed ∧ t.poison = s.poison ∧ t.clusters = s.clusters ∧ t.parts = s.parts ∧
        (h.na ≠ 7 ∨ k ≠ 0 → (t.core p).kept = { (s.core p).kept with ops := (s.core p).ops ++ ops })) ∧
      (let y := (s.went h w fun p k x => x.withOps p (l p k x)).traced s w p k h
       ¬s.untraced p h → t.mem = y.mem ∧ t.keyed = y.keyed ∧ t.poison = y.poison ∧ t.clusters = y.clusters ∧ t.dies = y.dies ∧
        (t.core p).utlb = (y.core p).utlb ∧ (t.core p).fb = (y.core p).fb)
end

