-- ==== Sys2Proof/Laws/Dispatch.lean ====
section
/-! SUPPORT. The meaning of each instruction, so that no proof unfolds the whole dispatch. -/

namespace Sys2Proof.Machine

theorem exec_nop (h : Hdr) (s : State) : exec (.nop h) s = execNop h s := rfl
theorem exec_tgt (h : Hdr) (t : BitVec 2) (imm : BitVec 28) (s : State) : exec (.tgt h t imm) s = execTgt h t imm s := rfl
theorem exec_tgts (h : Hdr) (t : BitVec 2) (a : BitVec 8) (s : State) : exec (.tgts h t a) s = execTgts h t a s := rfl
theorem exec_lnk (h : Hdr) (s : State) : exec (.lnk h) s = execLnk h s := rfl
theorem exec_loop (h : Hdr) (q : BitVec 3) (s : State) : exec (.loop h q) s = execLoop h q s := rfl
theorem exec_loopSet (h : Hdr) (a : BitVec 8) (s : State) : exec (.loopSet h a) s = execLoopSet h a s := rfl
theorem exec_repb (h : Hdr) (a : BitVec 8) (stride mask : BitVec 4) (s : State) : exec (.repb h a stride mask) s = execRepb h a stride mask s := rfl
theorem exec_start (h : Hdr) (a : BitVec 8) (hn : BitVec 4) (s : State) : exec (.start h a hn) s = execStart h a hn s := rfl
theorem exec_join (h : Hdr) (d b : BitVec 8) (wall : BitVec 1) (s : State) : exec (.join h d b wall) s = execJoin h d b wall s := rfl
theorem exec_hkill (h : Hdr) (a : BitVec 8) (s : State) : exec (.hkill h a) s = execHkill h a s := rfl
theorem exec_ids (h : Hdr) (d : BitVec 8) (k : BitVec 2) (s : State) : exec (.ids h d k) s = execIds h d k s := rfl
theorem exec_clk (h : Hdr) (d : BitVec 8) (s : State) : exec (.clk h d) s = execClk h d s := rfl
theorem exec_sleep (h : Hdr) (d a b : BitVec 8) (wall : BitVec 1) (s : State) : exec (.sleep h d a b wall) s = execSleep h d a b wall s := rfl
theorem exec_mark (h : Hdr) (value : BitVec 20) (s : State) : exec (.mark h value) s = execMark h value s := rfl
theorem exec_win (h : Hdr) (a : BitVec 8) (s : State) : exec (.win h a) s = execWin h a s := rfl
theorem exec_wins (h : Hdr) (delta : BitVec 11) (limit : BitVec 9) (s : State) : exec (.wins h delta limit) s = execWins h delta limit s := rfl
theorem exec_wswap (h : Hdr) (a : BitVec 8) (s : State) : exec (.wswap h a) s = execWswap h a s := rfl
theorem exec_wrd (h : Hdr) (d : BitVec 8) (s : State) : exec (.wrd h d) s = execWrd h d s := rfl
theorem exec_wdrain (h : Hdr) (d b : BitVec 8) (wall : BitVec 1) (s : State) : exec (.wdrain h d b wall) s = execWdrain h d b wall s := rfl
theorem exec_tdel (h : Hdr) (d a : BitVec 8) (s : State) : exec (.tdel h d a) s = execTdel h d a s := rfl
theorem exec_tret (h : Hdr) (a : BitVec 8) (s : State) : exec (.tret h a) s = execTret h a s := rfl
theorem exec_env (h : Hdr) (a : BitVec 8) (s : State) : exec (.env h a) s = execEnv h a s := rfl
theorem exec_snagw (h : Hdr) (a b : BitVec 8) (s : State) : exec (.snagw h a b) s = execSnagw h a b s := rfl
theorem exec_snagx (h : Hdr) (a b : BitVec 8) (s : State) : exec (.snagx h a b) s = execSnagx h a b s := rfl
theorem exec_add (h : Hdr) (d a b : BitVec 8) (s : State) : exec (.add h d a b) s = execAdd h d a b s := rfl
theorem exec_sub (h : Hdr) (d a b : BitVec 8) (s : State) : exec (.sub h d a b) s = execSub h d a b s := rfl
theorem exec_addi (h : Hdr) (d a : BitVec 8) (imm : BitVec 28) (s : State) : exec (.addi h d a imm) s = execAddi h d a imm s := rfl
theorem exec_mul (h : Hdr) (d a b : BitVec 8) (s : State) : exec (.mul h d a b) s = execMul h d a b s := rfl
theorem exec_mulh (h : Hdr) (d a b : BitVec 8) (s : State) : exec (.mulh h d a b) s = execMulh h d a b s := rfl
theorem exec_mulhu (h : Hdr) (d a b : BitVec 8) (s : State) : exec (.mulhu h d a b) s = execMulhu h d a b s := rfl
theorem exec_div (h : Hdr) (d a b : BitVec 8) (s : State) : exec (.div h d a b) s = execDiv h d a b s := rfl
theorem exec_divu (h : Hdr) (d a b : BitVec 8) (s : State) : exec (.divu h d a b) s = execDivu h d a b s := rfl
theorem exec_rem (h : Hdr) (d a b : BitVec 8) (s : State) : exec (.rem h d a b) s = execRem h d a b s := rfl
theorem exec_remu (h : Hdr) (d a b : BitVec 8) (s : State) : exec (.remu h d a b) s = execRemu h d a b s := rfl
theorem exec_and (h : Hdr) (d a b : BitVec 8) (s : State) : exec (.and h d a b) s = execAnd h d a b s := rfl
theorem exec_or (h : Hdr) (d a b : BitVec 8) (s : State) : exec (.or h d a b) s = execOr h d a b s := rfl
theorem exec_xor (h : Hdr) (d a b : BitVec 8) (s : State) : exec (.xor h d a b) s = execXor h d a b s := rfl
theorem exec_andn (h : Hdr) (d a b : BitVec 8) (s : State) : exec (.andn h d a b) s = execAndn h d a b s := rfl
theorem exec_shl (h : Hdr) (d a b : BitVec 8) (s : State) : exec (.shl h d a b) s = execShl h d a b s := rfl
theorem exec_shr (h : Hdr) (d a b : BitVec 8) (s : State) : exec (.shr h d a b) s = execShr h d a b s := rfl
theorem exec_sra (h : Hdr) (d a b : BitVec 8) (s : State) : exec (.sra h d a b) s = execSra h d a b s := rfl
theorem exec_rot (h : Hdr) (d a b : BitVec 8) (s : State) : exec (.rot h d a b) s = execRot h d a b s := rfl
theorem exec_clz (h : Hdr) (d a : BitVec 8) (s : State) : exec (.clz h d a) s = execClz h d a s := rfl
theorem exec_ctz (h : Hdr) (d a : BitVec 8) (s : State) : exec (.ctz h d a) s = execCtz h d a s := rfl
theorem exec_popc (h : Hdr) (d a : BitVec 8) (s : State) : exec (.popc h d a) s = execPopc h d a s := rfl
theorem exec_min (h : Hdr) (d a b : BitVec 8) (s : State) : exec (.min h d a b) s = execMin h d a b s := rfl
theorem exec_max (h : Hdr) (d a b : BitVec 8) (s : State) : exec (.max h d a b) s = execMax h d a b s := rfl
theorem exec_minu (h : Hdr) (d a b : BitVec 8) (s : State) : exec (.minu h d a b) s = execMinu h d a b s := rfl
theorem exec_maxu (h : Hdr) (d a b : BitVec 8) (s : State) : exec (.maxu h d a b) s = execMaxu h d a b s := rfl
theorem exec_sel (h : Hdr) (d a b : BitVec 8) (qc : BitVec 3) (s : State) : exec (.sel h d a b qc) s = execSel h d a b qc s := rfl
theorem exec_scmp (h : Hdr) (q : BitVec 3) (a b : BitVec 8) (cc : BitVec 4) (u : BitVec 1) (s : State) : exec (.scmp h q a b cc u) s = execScmp h q a b cc u s := rfl
theorem exec_scmps (h : Hdr) (d a b : BitVec 8) (cc : BitVec 4) (u : BitVec 1) (s : State) : exec (.scmps h d a b cc u) s = execScmps h d a b cc u s := rfl
theorem exec_li (h : Hdr) (d : BitVec 8) (imm : BitVec 28) (s : State) : exec (.li h d imm) s = execLi h d imm s := rfl
theorem exec_lih (h : Hdr) (d : BitVec 8) (imm36 : BitVec 36) (s : State) : exec (.lih h d imm36) s = execLih h d imm36 s := rfl
theorem exec_agen (h : Hdr) (d a b : BitVec 8) (sh : BitVec 3) (disp : BitVec 17) (s : State) : exec (.agen h d a b sh disp) s = execAgen h d a b sh disp s := rfl
theorem exec_bfx (h : Hdr) (d a : BitVec 8) (pos : BitVec 6) (len : BitVec 7) (s : State) : exec (.bfx h d a pos len) s = execBfx h d a pos len s := rfl
theorem exec_bfi (h : Hdr) (d a : BitVec 8) (pos : BitVec 6) (len : BitVec 7) (s : State) : exec (.bfi h d a pos len) s = execBfi h d a pos len s := rfl
theorem exec_sext (h : Hdr) (d a : BitVec 8) (n : BitVec 7) (s : State) : exec (.sext h d a n) s = execSext h d a n s := rfl
theorem exec_zext (h : Hdr) (d a : BitVec 8) (n : BitVec 7) (s : State) : exec (.zext h d a n) s = execZext h d a n s := rfl
theorem exec_mov (h : Hdr) (d a : BitVec 8) (s : State) : exec (.mov h d a) s = execMov h d a s := rfl
theorem exec_fadd (h : Hdr) (d a b : BitVec 8) (ty rm : BitVec 3) (s : State) : exec (.fadd h d a b ty rm) s = execFadd h d a b ty rm s := rfl
theorem exec_fsub (h : Hdr) (d a b : BitVec 8) (ty rm : BitVec 3) (s : State) : exec (.fsub h d a b ty rm) s = execFsub h d a b ty rm s := rfl
theorem exec_fmul (h : Hdr) (d a b : BitVec 8) (ty rm : BitVec 3) (s : State) : exec (.fmul h d a b ty rm) s = execFmul h d a b ty rm s := rfl
theorem exec_ffma (h : Hdr) (d a b c : BitVec 8) (ty rm : BitVec 3) (s : State) : exec (.ffma h d a b c ty rm) s = execFfma h d a b c ty rm s := rfl
theorem exec_fdiv (h : Hdr) (d a b : BitVec 8) (ty rm : BitVec 3) (s : State) : exec (.fdiv h d a b ty rm) s = execFdiv h d a b ty rm s := rfl
theorem exec_fsqrt (h : Hdr) (d a : BitVec 8) (ty rm : BitVec 3) (s : State) : exec (.fsqrt h d a ty rm) s = execFsqrt h d a ty rm s := rfl
theorem exec_fmin (h : Hdr) (d a b : BitVec 8) (ty : BitVec 3) (s : State) : exec (.fmin h d a b ty) s = execFmin h d a b ty s := rfl
theorem exec_fmax (h : Hdr) (d a b : BitVec 8) (ty : BitVec 3) (s : State) : exec (.fmax h d a b ty) s = execFmax h d a b ty s := rfl
theorem exec_fcmp (h : Hdr) (q : BitVec 3) (a b : BitVec 8) (ty : BitVec 3) (cc : BitVec 4) (s : State) : exec (.fcmp h q a b ty cc) s = execFcmp h q a b ty cc s := rfl
theorem exec_fclass (h : Hdr) (d a : BitVec 8) (ty : BitVec 3) (s : State) : exec (.fclass h d a ty) s = execFclass h d a ty s := rfl
theorem exec_fcvt (h : Hdr) (d a : BitVec 8) (ty rm : BitVec 3) (fl : BitVec 2) (s : State) : exec (.fcvt h d a ty rm fl) s = execFcvt h d a ty rm fl s := rfl
theorem exec_fcvti (h : Hdr) (d a : BitVec 8) (ty rm : BitVec 3) (fl : BitVec 2) (s : State) : exec (.fcvti h d a ty rm fl) s = execFcvti h d a ty rm fl s := rfl
theorem exec_vadd (h : Hdr) (d a b : BitVec 8) (ty : BitVec 3) (m : BitVec 12) (s : State) : exec (.vadd h d a b ty m) s = execVadd h d a b ty m s := rfl
theorem exec_vsub (h : Hdr) (d a b : BitVec 8) (ty : BitVec 3) (m : BitVec 12) (s : State) : exec (.vsub h d a b ty m) s = execVsub h d a b ty m s := rfl
theorem exec_vmul (h : Hdr) (d a b : BitVec 8) (ty : BitVec 3) (m : BitVec 12) (s : State) : exec (.vmul h d a b ty m) s = execVmul h d a b ty m s := rfl
theorem exec_vmulh (h : Hdr) (d a b : BitVec 8) (ty : BitVec 3) (u : BitVec 1) (m : BitVec 12) (s : State) : exec (.vmulh h d a b ty u m) s = execVmulh h d a b ty u m s := rfl
theorem exec_vmad (h : Hdr) (d a b c : BitVec 8) (ty : BitVec 3) (s : State) : exec (.vmad h d a b c ty) s = execVmad h d a b c ty s := rfl
theorem exec_vand (h : Hdr) (d a b : BitVec 8) (ty : BitVec 3) (m : BitVec 12) (s : State) : exec (.vand h d a b ty m) s = execVand h d a b ty m s := rfl
theorem exec_vor (h : Hdr) (d a b : BitVec 8) (ty : BitVec 3) (m : BitVec 12) (s : State) : exec (.vor h d a b ty m) s = execVor h d a b ty m s := rfl
theorem exec_vxor (h : Hdr) (d a b : BitVec 8) (ty : BitVec 3) (m : BitVec 12) (s : State) : exec (.vxor h d a b ty m) s = execVxor h d a b ty m s := rfl
theorem exec_vshl (h : Hdr) (d a b : BitVec 8) (ty : BitVec 3) (m : BitVec 12) (s : State) : exec (.vshl h d a b ty m) s = execVshl h d a b ty m s := rfl
theorem exec_vshr (h : Hdr) (d a b : BitVec 8) (ty : BitVec 3) (m : BitVec 12) (s : State) : exec (.vshr h d a b ty m) s = execVshr h d a b ty m s := rfl
theorem exec_vsra (h : Hdr) (d a b : BitVec 8) (ty : BitVec 3) (m : BitVec 12) (s : State) : exec (.vsra h d a b ty m) s = execVsra h d a b ty m s := rfl
theorem exec_vmin (h : Hdr) (d a b : BitVec 8) (ty : BitVec 3) (u : BitVec 1) (m : BitVec 12) (s : State) : exec (.vmin h d a b ty u m) s = execVmin h d a b ty u m s := rfl
theorem exec_vmax (h : Hdr) (d a b : BitVec 8) (ty : BitVec 3) (u : BitVec 1) (m : BitVec 12) (s : State) : exec (.vmax h d a b ty u m) s = execVmax h d a b ty u m s := rfl
theorem exec_vabs (h : Hdr) (d a : BitVec 8) (ty : BitVec 3) (m : BitVec 12) (s : State) : exec (.vabs h d a ty m) s = execVabs h d a ty m s := rfl
theorem exec_vcmp (h : Hdr) (q : BitVec 3) (a b : BitVec 8) (ty : BitVec 3) (cc : BitVec 4) (u : BitVec 1) (m : BitVec 12) (s : State) : exec (.vcmp h q a b ty cc u m) s = execVcmp h q a b ty cc u m s := rfl
theorem exec_vsel (h : Hdr) (d a b : BitVec 8) (qc ty : BitVec 3) (s : State) : exec (.vsel h d a b qc ty) s = execVsel h d a b qc ty s := rfl
theorem exec_vadds (h : Hdr) (d a b : BitVec 8) (ty : BitVec 3) (u : BitVec 1) (m : BitVec 12) (s : State) : exec (.vadds h d a b ty u m) s = execVadds h d a b ty u m s := rfl
theorem exec_vsubs (h : Hdr) (d a b : BitVec 8) (ty : BitVec 3) (u : BitVec 1) (m : BitVec 12) (s : State) : exec (.vsubs h d a b ty u m) s = execVsubs h d a b ty u m s := rfl
theorem exec_vdot4 (h : Hdr) (d a b c : BitVec 8) (fl : BitVec 2) (s : State) : exec (.vdot4 h d a b c fl) s = execVdot4 h d a b c fl s := rfl
theorem exec_vpopc (h : Hdr) (d a : BitVec 8) (ty : BitVec 3) (m : BitVec 12) (s : State) : exec (.vpopc h d a ty m) s = execVpopc h d a ty m s := rfl
theorem exec_vclz (h : Hdr) (d a : BitVec 8) (ty : BitVec 3) (m : BitVec 12) (s : State) : exec (.vclz h d a ty m) s = execVclz h d a ty m s := rfl
theorem exec_vmov (h : Hdr) (d a : BitVec 8) (ty : BitVec 3) (m : BitVec 12) (s : State) : exec (.vmov h d a ty m) s = execVmov h d a ty m s := rfl
theorem exec_vfadd (h : Hdr) (d a b : BitVec 8) (ty rm : BitVec 3) (m : BitVec 12) (s : State) : exec (.vfadd h d a b ty rm m) s = execVfadd h d a b ty rm m s := rfl
theorem exec_vfsub (h : Hdr) (d a b : BitVec 8) (ty rm : BitVec 3) (m : BitVec 12) (s : State) : exec (.vfsub h d a b ty rm m) s = execVfsub h d a b ty rm m s := rfl
theorem exec_vfmul (h : Hdr) (d a b : BitVec 8) (ty rm : BitVec 3) (m : BitVec 12) (s : State) : exec (.vfmul h d a b ty rm m) s = execVfmul h d a b ty rm m s := rfl
theorem exec_vfma (h : Hdr) (d a b c : BitVec 8) (ty rm : BitVec 3) (s : State) : exec (.vfma h d a b c ty rm) s = execVfma h d a b c ty rm s := rfl
theorem exec_vfms (h : Hdr) (d a b c : BitVec 8) (ty rm : BitVec 3) (s : State) : exec (.vfms h d a b c ty rm) s = execVfms h d a b c ty rm s := rfl
theorem exec_vfnma (h : Hdr) (d a b c : BitVec 8) (ty rm : BitVec 3) (s : State) : exec (.vfnma h d a b c ty rm) s = execVfnma h d a b c ty rm s := rfl
theorem exec_vfdiv (h : Hdr) (d a b : BitVec 8) (ty rm : BitVec 3) (m : BitVec 12) (s : State) : exec (.vfdiv h d a b ty rm m) s = execVfdiv h d a b ty rm m s := rfl
theorem exec_vfsqrt (h : Hdr) (d a : BitVec 8) (ty rm : BitVec 3) (m : BitVec 12) (s : State) : exec (.vfsqrt h d a ty rm m) s = execVfsqrt h d a ty rm m s := rfl
theorem exec_vfrec (h : Hdr) (d a : BitVec 8) (rm : BitVec 3) (m : BitVec 12) (s : State) : exec (.vfrec h d a rm m) s = execVfrec h d a rm m s := rfl
theorem exec_vfrsq (h : Hdr) (d a : BitVec 8) (rm : BitVec 3) (m : BitVec 12) (s : State) : exec (.vfrsq h d a rm m) s = execVfrsq h d a rm m s := rfl
theorem exec_vfexp2 (h : Hdr) (d a : BitVec 8) (rm : BitVec 3) (m : BitVec 12) (s : State) : exec (.vfexp2 h d a rm m) s = execVfexp2 h d a rm m s := rfl
theorem exec_vflog2 (h : Hdr) (d a : BitVec 8) (rm : BitVec 3) (m : BitVec 12) (s : State) : exec (.vflog2 h d a rm m) s = execVflog2 h d a rm m s := rfl
theorem exec_vfmin (h : Hdr) (d a b : BitVec 8) (ty : BitVec 3) (m : BitVec 12) (s : State) : exec (.vfmin h d a b ty m) s = execVfmin h d a b ty m s := rfl
theorem exec_vfmax (h : Hdr) (d a b : BitVec 8) (ty : BitVec 3) (m : BitVec 12) (s : State) : exec (.vfmax h d a b ty m) s = execVfmax h d a b ty m s := rfl
theorem exec_vfcmp (h : Hdr) (q : BitVec 3) (a b : BitVec 8) (ty : BitVec 3) (cc : BitVec 4) (m : BitVec 12) (s : State) : exec (.vfcmp h q a b ty cc m) s = execVfcmp h q a b ty cc m s := rfl
theorem exec_vfclass (h : Hdr) (d a : BitVec 8) (ty : BitVec 3) (m : BitVec 12) (s : State) : exec (.vfclass h d a ty m) s = execVfclass h d a ty m s := rfl
theorem exec_vfcvt (h : Hdr) (d a : BitVec 8) (ty rm : BitVec 3) (fl : BitVec 2) (m : BitVec 12) (s : State) : exec (.vfcvt h d a ty rm fl m) s = execVfcvt h d a ty rm fl m s := rfl
theorem exec_vfnarrow (h : Hdr) (d a b c : BitVec 8) (ty rm : BitVec 3) (u : BitVec 1) (s : State) : exec (.vfnarrow h d a b c ty rm u) s = execVfnarrow h d a b c ty rm u s := rfl
theorem exec_vfwiden (h : Hdr) (d a b : BitVec 8) (ty : BitVec 3) (fl : BitVec 2) (m : BitVec 12) (s : State) : exec (.vfwiden h d a b ty fl m) s = execVfwiden h d a b ty fl m s := rfl
theorem exec_vfred (h : Hdr) (d a : BitVec 8) (ty rm : BitVec 3) (fl : BitVec 2) (m : BitVec 12) (s : State) : exec (.vfred h d a ty rm fl m) s = execVfred h d a ty rm fl m s := rfl
theorem exec_vfamax (h : Hdr) (d a : BitVec 8) (ty : BitVec 3) (m : BitVec 12) (s : State) : exec (.vfamax h d a ty m) s = execVfamax h d a ty m s := rfl
theorem exec_vperm (h : Hdr) (d a b : BitVec 8) (ty : BitVec 3) (m : BitVec 12) (s : State) : exec (.vperm h d a b ty m) s = execVperm h d a b ty m s := rfl
theorem exec_vrot (h : Hdr) (d a b : BitVec 8) (ty : BitVec 3) (m : BitVec 12) (s : State) : exec (.vrot h d a b ty m) s = execVrot h d a b ty m s := rfl
theorem exec_vbfly (h : Hdr) (d a b : BitVec 8) (ty : BitVec 3) (m : BitVec 12) (s : State) : exec (.vbfly h d a b ty m) s = execVbfly h d a b ty m s := rfl
theorem exec_vbcst (h : Hdr) (d a b : BitVec 8) (ty : BitVec 3) (m : BitVec 12) (s : State) : exec (.vbcst h d a b ty m) s = execVbcst h d a b ty m s := rfl
theorem exec_vcomp (h : Hdr) (d a : BitVec 8) (qb ty : BitVec 3) (m : BitVec 12) (s : State) : exec (.vcomp h d a qb ty m) s = execVcomp h d a qb ty m s := rfl
theorem exec_vxpnd (h : Hdr) (d a : BitVec 8) (qb ty : BitVec 3) (m : BitVec 12) (s : State) : exec (.vxpnd h d a qb ty m) s = execVxpnd h d a qb ty m s := rfl
theorem exec_vsplat (h : Hdr) (d a : BitVec 8) (ty : BitVec 3) (s : State) : exec (.vsplat h d a ty) s = execVsplat h d a ty s := rfl
theorem exec_vext (h : Hdr) (d a b : BitVec 8) (ty : BitVec 3) (u : BitVec 1) (m : BitVec 12) (s : State) : exec (.vext h d a b ty u m) s = execVext h d a b ty u m s := rfl
theorem exec_vins (h : Hdr) (d a b : BitVec 8) (ty : BitVec 3) (s : State) : exec (.vins h d a b ty) s = execVins h d a b ty s := rfl
theorem exec_qand (h : Hdr) (q qa qb : BitVec 3) (s : State) : exec (.qand h q qa qb) s = execQand h q qa qb s := rfl
theorem exec_qor (h : Hdr) (q qa qb : BitVec 3) (s : State) : exec (.qor h q qa qb) s = execQor h q qa qb s := rfl
theorem exec_qxor (h : Hdr) (q qa qb : BitVec 3) (s : State) : exec (.qxor h q qa qb) s = execQxor h q qa qb s := rfl
theorem exec_qnot (h : Hdr) (q qa : BitVec 3) (s : State) : exec (.qnot h q qa) s = execQnot h q qa s := rfl
theorem exec_qpop (h : Hdr) (d : BitVec 8) (qa : BitVec 3) (s : State) : exec (.qpop h d qa) s = execQpop h d qa s := rfl
theorem exec_qfirst (h : Hdr) (d : BitVec 8) (qa : BitVec 3) (s : State) : exec (.qfirst h d qa) s = execQfirst h d qa s := rfl
theorem exec_qmov (h : Hdr) (q : BitVec 3) (a : BitVec 8) (s : State) : exec (.qmov h q a) s = execQmov h q a s := rfl
theorem exec_qmovX (h : Hdr) (d : BitVec 8) (qa : BitVec 3) (s : State) : exec (.qmovX h d qa) s = execQmovX h d qa s := rfl
theorem exec_gany (h : Hdr) (q qa : BitVec 3) (u : BitVec 1) (s : State) : exec (.gany h q qa u) s = execGany h q qa u s := rfl
theorem exec_gall (h : Hdr) (q qa : BitVec 3) (u : BitVec 1) (s : State) : exec (.gall h q qa u) s = execGall h q qa u s := rfl
theorem exec_gbcast (h : Hdr) (d a : BitVec 8) (s : State) : exec (.gbcast h d a) s = execGbcast h d a s := rfl
theorem exec_glane (h : Hdr) (d : BitVec 8) (s : State) : exec (.glane h d) s = execGlane h d s := rfl
theorem exec_dtld (h : Hdr) (a : BitVec 8) (s : State) : exec (.dtld h a) s = execDtld h a s := rfl
theorem exec_dtrd (h : Hdr) (d a : BitVec 8) (s : State) : exec (.dtrd h d a) s = execDtrd h d a s := rfl
theorem exec_dtdec (h : Hdr) (d a b : BitVec 8) (ty rm : BitVec 3) (u : BitVec 1) (m : BitVec 12) (s : State) : exec (.dtdec h d a b ty rm u m) s = execDtdec h d a b ty rm u m s := rfl
theorem exec_dtenc (h : Hdr) (d a b c : BitVec 8) (ty rm : BitVec 3) (fl : BitVec 2) (s : State) : exec (.dtenc h d a b c ty rm fl) s = execDtenc h d a b c ty rm fl s := rfl
theorem exec_mxq (h : Hdr) (d a b c : BitVec 8) (ty rm : BitVec 3) (s : State) : exec (.mxq h d a b c ty rm) s = execMxq h d a b c ty rm s := rfl
theorem exec_mxqMem (h : Hdr) (d a b c : BitVec 8) (ty rm : BitVec 3) (s : State) : exec (.mxqMem h d a b c ty rm) s = execMxqMem h d a b c ty rm s := rfl
theorem exec_mxdq (h : Hdr) (d a b : BitVec 8) (ty rm : BitVec 3) (u : BitVec 1) (m : BitVec 12) (s : State) : exec (.mxdq h d a b ty rm u m) s = execMxdq h d a b ty rm u m s := rfl
theorem exec_ufcnt (h : Hdr) (d : BitVec 8) (s : State) : exec (.ufcnt h d) s = execUfcnt h d s := rfl
theorem exec_scsel (h : Hdr) (d a b c : BitVec 8) (ty : BitVec 3) (s : State) : exec (.scsel h d a b c ty) s = execScsel h d a b c ty s := rfl
theorem exec_ld (h : Hdr) (d a : BitVec 8) (disp : BitVec 20) (scope : BitVec 3) (ord : BitVec 2) (sz : BitVec 3) (s : State) : exec (.ld h d a disp scope ord sz) s = execLd h d a disp scope ord sz s := rfl
theorem exec_st (h : Hdr) (d a : BitVec 8) (disp : BitVec 20) (scope : BitVec 3) (ord : BitVec 2) (sz : BitVec 3) (s : State) : exec (.st h d a disp scope ord sz) s = execSt h d a disp scope ord sz s := rfl
theorem exec_ldv (h : Hdr) (d a : BitVec 8) (disp : BitVec 20) (scope : BitVec 3) (ord : BitVec 2) (s : State) : exec (.ldv h d a disp scope ord) s = execLdv h d a disp scope ord s := rfl
theorem exec_stv (h : Hdr) (d a : BitVec 8) (disp : BitVec 20) (scope : BitVec 3) (ord : BitVec 2) (s : State) : exec (.stv h d a disp scope ord) s = execStv h d a disp scope ord s := rfl
theorem exec_ldvx (h : Hdr) (d a b : BitVec 8) (scope : BitVec 3) (ord : BitVec 2) (sz : BitVec 3) (m : BitVec 12) (s : State) : exec (.ldvx h d a b scope ord sz m) s = execLdvx h d a b scope ord sz m s := rfl
theorem exec_stvx (h : Hdr) (d a b : BitVec 8) (scope : BitVec 3) (ord : BitVec 2) (sz : BitVec 3) (m : BitVec 12) (s : State) : exec (.stvx h d a b scope ord sz m) s = execStvx h d a b scope ord sz m s := rfl
theorem exec_lds (h : Hdr) (d a b : BitVec 8) (scope sz : BitVec 3) (wall : BitVec 1) (s : State) : exec (.lds h d a b scope sz wall) s = execLds h d a b scope sz wall s := rfl
theorem exec_stf (h : Hdr) (d a : BitVec 8) (disp : BitVec 20) (scope sz : BitVec 3) (s : State) : exec (.stf h d a disp scope sz) s = execStf h d a disp scope sz s := rfl
theorem exec_feclr (h : Hdr) (a : BitVec 8) (disp : BitVec 20) (scope : BitVec 3) (ord : BitVec 2) (s : State) : exec (.feclr h a disp scope ord) s = execFeclr h a disp scope ord s := rfl
theorem exec_ferd (h : Hdr) (d a : BitVec 8) (disp : BitVec 20) (scope : BitVec 3) (ord : BitVec 2) (s : State) : exec (.ferd h d a disp scope ord) s = execFerd h d a disp scope ord s := rfl
theorem exec_aadd (h : Hdr) (d a b : BitVec 8) (scope : BitVec 3) (ord : BitVec 2) (sz : BitVec 3) (s : State) : exec (.aadd h d a b scope ord sz) s = execAadd h d a b scope ord sz s := rfl
theorem exec_aand (h : Hdr) (d a b : BitVec 8) (scope : BitVec 3) (ord : BitVec 2) (sz : BitVec 3) (s : State) : exec (.aand h d a b scope ord sz) s = execAand h d a b scope ord sz s := rfl
theorem exec_aor (h : Hdr) (d a b : BitVec 8) (scope : BitVec 3) (ord : BitVec 2) (sz : BitVec 3) (s : State) : exec (.aor h d a b scope ord sz) s = execAor h d a b scope ord sz s := rfl
theorem exec_axor (h : Hdr) (d a b : BitVec 8) (scope : BitVec 3) (ord : BitVec 2) (sz : BitVec 3) (s : State) : exec (.axor h d a b scope ord sz) s = execAxor h d a b scope ord sz s := rfl
theorem exec_amin (h : Hdr) (d a b : BitVec 8) (scope : BitVec 3) (ord : BitVec 2) (sz : BitVec 3) (s : State) : exec (.amin h d a b scope ord sz) s = execAmin h d a b scope ord sz s := rfl
theorem exec_amax (h : Hdr) (d a b : BitVec 8) (scope : BitVec 3) (ord : BitVec 2) (sz : BitVec 3) (s : State) : exec (.amax h d a b scope ord sz) s = execAmax h d a b scope ord sz s := rfl
theorem exec_aminu (h : Hdr) (d a b : BitVec 8) (scope : BitVec 3) (ord : BitVec 2) (sz : BitVec 3) (s : State) : exec (.aminu h d a b scope ord sz) s = execAminu h d a b scope ord sz s := rfl
theorem exec_amaxu (h : Hdr) (d a b : BitVec 8) (scope : BitVec 3) (ord : BitVec 2) (sz : BitVec 3) (s : State) : exec (.amaxu h d a b scope ord sz) s = execAmaxu h d a b scope ord sz s := rfl
theorem exec_axchg (h : Hdr) (d a b : BitVec 8) (scope : BitVec 3) (ord : BitVec 2) (sz : BitVec 3) (s : State) : exec (.axchg h d a b scope ord sz) s = execAxchg h d a b scope ord sz s := rfl
theorem exec_acas (h : Hdr) (d a b c : BitVec 8) (scope : BitVec 3) (ord : BitVec 2) (sz : BitVec 3) (s : State) : exec (.acas h d a b c scope ord sz) s = execAcas h d a b c scope ord sz s := rfl
theorem exec_afadd (h : Hdr) (d a b : BitVec 8) (scope : BitVec 3) (ord : BitVec 2) (sz : BitVec 3) (s : State) : exec (.afadd h d a b scope ord sz) s = execAfadd h d a b scope ord sz s := rfl
theorem exec_radd (h : Hdr) (d a : BitVec 8) (disp : BitVec 20) (scope : BitVec 3) (ord : BitVec 2) (sz : BitVec 3) (s : State) : exec (.radd h d a disp scope ord sz) s = execRadd h d a disp scope ord sz s := rfl
theorem exec_rand (h : Hdr) (d a : BitVec 8) (disp : BitVec 20) (scope : BitVec 3) (ord : BitVec 2) (sz : BitVec 3) (s : State) : exec (.rand h d a disp scope ord sz) s = execRand h d a disp scope ord sz s := rfl
theorem exec_rior (h : Hdr) (d a : BitVec 8) (disp : BitVec 20) (scope : BitVec 3) (ord : BitVec 2) (sz : BitVec 3) (s : State) : exec (.rior h d a disp scope ord sz) s = execRior h d a disp scope ord sz s := rfl
theorem exec_rxor (h : Hdr) (d a : BitVec 8) (disp : BitVec 20) (scope : BitVec 3) (ord : BitVec 2) (sz : BitVec 3) (s : State) : exec (.rxor h d a disp scope ord sz) s = execRxor h d a disp scope ord sz s := rfl
theorem exec_rmin (h : Hdr) (d a : BitVec 8) (disp : BitVec 20) (scope : BitVec 3) (ord : BitVec 2) (sz : BitVec 3) (s : State) : exec (.rmin h d a disp scope ord sz) s = execRmin h d a disp scope ord sz s := rfl
theorem exec_rmax (h : Hdr) (d a : BitVec 8) (disp : BitVec 20) (scope : BitVec 3) (ord : BitVec 2) (sz : BitVec 3) (s : State) : exec (.rmax h d a disp scope ord sz) s = execRmax h d a disp scope ord sz s := rfl
theorem exec_rfadd (h : Hdr) (d a : BitVec 8) (disp : BitVec 20) (scope : BitVec 3) (ord : BitVec 2) (sz : BitVec 3) (s : State) : exec (.rfadd h d a disp scope ord sz) s = execRfadd h d a disp scope ord sz s := rfl
theorem exec_fence (h : Hdr) (d b classes : BitVec 8) (scope : BitVec 3) (wall : BitVec 1) (s : State) : exec (.fence h d b classes scope wall) s = execFence h d b classes scope wall s := rfl
theorem exec_barr (h : Hdr) (d : BitVec 8) (g : BitVec 2) (s : State) : exec (.barr h d g) s = execBarr h d g s := rfl
theorem exec_bwait (h : Hdr) (d : BitVec 8) (g : BitVec 2) (b : BitVec 8) (wall : BitVec 1) (s : State) : exec (.bwait h d g b wall) s = execBwait h d g b wall s := rfl
theorem exec_bwd (h : Hdr) (d : BitVec 8) (g : BitVec 2) (s : State) : exec (.bwd h d g) s = execBwd h d g s := rfl
theorem exec_bstat (h : Hdr) (d : BitVec 8) (g : BitVec 2) (s : State) : exec (.bstat h d g) s = execBstat h d g s := rfl
theorem exec_send (h : Hdr) (a b : BitVec 8) (scope : BitVec 3) (m : BitVec 12) (s : State) : exec (.send h a b scope m) s = execSend h a b scope m s := rfl
theorem exec_recv (h : Hdr) (d a b : BitVec 8) (wall : BitVec 1) (s : State) : exec (.recv h d a b wall) s = execRecv h d a b wall s := rfl
theorem exec_qstat (h : Hdr) (d : BitVec 8) (s : State) : exec (.qstat h d) s = execQstat h d s := rfl
theorem exec_waitseq (h : Hdr) (d a b : BitVec 8) (wall : BitVec 1) (s : State) : exec (.waitseq h d a b wall) s = execWaitseq h d a b wall s := rfl
theorem exec_xplan (h : Hdr) (a : BitVec 8) (s : State) : exec (.xplan h a) s = execXplan h a s := rfl
theorem exec_sstep (h : Hdr) (a b : BitVec 8) (u wall : BitVec 1) (s : State) : exec (.sstep h a b u wall) s = execSstep h a b u wall s := rfl
theorem exec_bcfg (h : Hdr) (d : BitVec 8) (g : BitVec 2) (b : BitVec 8) (u : BitVec 1) (s : State) : exec (.bcfg h d g b u) s = execBcfg h d g b u s := rfl
theorem exec_append (h : Hdr) (d a b : BitVec 8) (u : BitVec 1) (s : State) : exec (.append h d a b u) s = execAppend h d a b u s := rfl
theorem exec_chain (h : Hdr) (d a : BitVec 8) (s : State) : exec (.chain h d a) s = execChain h d a s := rfl
theorem exec_chainUnbind (h : Hdr) (d a : BitVec 8) (s : State) : exec (.chainUnbind h d a) s = execChainUnbind h d a s := rfl
theorem exec_seqrd (h : Hdr) (d a : BitVec 8) (k : BitVec 2) (s : State) : exec (.seqrd h d a k) s = execSeqrd h d a k s := rfl
theorem exec_claim (h : Hdr) (d : BitVec 8) (n : BitVec 7) (s : State) : exec (.claim h d n) s = execClaim h d n s := rfl
theorem exec_rels (h : Hdr) (a : BitVec 8) (s : State) : exec (.rels h a) s = execRels h a s := rfl
theorem exec_tshape (h : Hdr) (a b : BitVec 8) (s : State) : exec (.tshape h a b) s = execTshape h a b s := rfl
theorem exec_trow (h : Hdr) (d a b : BitVec 8) (s : State) : exec (.trow h d a b) s = execTrow h d a b s := rfl
theorem exec_tcol (h : Hdr) (d a b : BitVec 8) (s : State) : exec (.tcol h d a b) s = execTcol h d a b s := rfl
theorem exec_twrow (h : Hdr) (a b c : BitVec 8) (s : State) : exec (.twrow h a b c) s = execTwrow h a b c s := rfl
theorem exec_twcol (h : Hdr) (a b c : BitVec 8) (s : State) : exec (.twcol h a b c) s = execTwcol h a b c s := rfl
theorem exec_wralloc (h : Hdr) (d a : BitVec 8) (s : State) : exec (.wralloc h d a) s = execWralloc h d a s := rfl
theorem exec_wrpin (h : Hdr) (a : BitVec 8) (s : State) : exec (.wrpin h a) s = execWrpin h a s := rfl
theorem exec_wrunpin (h : Hdr) (a : BitVec 8) (s : State) : exec (.wrunpin h a) s = execWrunpin h a s := rfl
theorem exec_wrrevoke (h : Hdr) (a : BitVec 8) (s : State) : exec (.wrrevoke h a) s = execWrrevoke h a s := rfl
theorem exec_wrquery (h : Hdr) (d a : BitVec 8) (s : State) : exec (.wrquery h d a) s = execWrquery h d a s := rfl
theorem exec_laclr (h : Hdr) (a : BitVec 8) (s : State) : exec (.laclr h a) s = execLaclr h a s := rfl
theorem exec_laadd (h : Hdr) (a b : BitVec 8) (u : BitVec 1) (s : State) : exec (.laadd h a b u) s = execLaadd h a b u s := rfl
theorem exec_ladot (h : Hdr) (a b c : BitVec 8) (s : State) : exec (.ladot h a b c) s = execLadot h a b c s := rfl
theorem exec_larnd (h : Hdr) (d a : BitVec 8) (ty rm : BitVec 3) (s : State) : exec (.larnd h d a ty rm) s = execLarnd h d a ty rm s := rfl
theorem exec_lamrg (h : Hdr) (a b : BitVec 8) (s : State) : exec (.lamrg h a b) s = execLamrg h a b s := rfl
theorem exec_laflg (h : Hdr) (d a : BitVec 8) (s : State) : exec (.laflg h d a) s = execLaflg h d a s := rfl
theorem exec_laflgClr (h : Hdr) (d a : BitVec 8) (s : State) : exec (.laflgClr h d a) s = execLaflgClr h d a s := rfl
theorem exec_fuse (h : Hdr) (d : BitVec 8) (gs : BitVec 4) (s : State) : exec (.fuse h d gs) s = execFuse h d gs s := rfl
theorem exec_split (h : Hdr) (t : BitVec 2) (s : State) : exec (.split h t) s = execSplit h t s := rfl
theorem exec_migpt (h : Hdr) (d : BitVec 8) (s : State) : exec (.migpt h d) s = execMigpt h d s := rfl
theorem exec_lcid (h : Hdr) (d : BitVec 8) (k : BitVec 2) (s : State) : exec (.lcid h d k) s = execLcid h d k s := rfl
theorem exec_csrr (h : Hdr) (d : BitVec 8) (csr : BitVec 16) (s : State) : exec (.csrr h d csr) s = execCsrr h d csr s := rfl
theorem exec_csrw (h : Hdr) (a : BitVec 8) (csr : BitVec 16) (s : State) : exec (.csrw h a csr) s = execCsrw h a csr s := rfl
theorem exec_csrx (h : Hdr) (d a : BitVec 8) (csr : BitVec 16) (s : State) : exec (.csrx h d a csr) s = execCsrx h d a csr s := rfl
theorem exec_tlbinv (h : Hdr) (a b : BitVec 8) (s : State) : exec (.tlbinv h a b) s = execTlbinv h a b s := rfl
theorem exec_tlbinvAll (h : Hdr) (a b : BitVec 8) (s : State) : exec (.tlbinvAll h a b) s = execTlbinvAll h a b s := rfl
theorem exec_tlbinvAllP (h : Hdr) (a b : BitVec 8) (s : State) : exec (.tlbinvAllP h a b) s = execTlbinvAllP h a b s := rfl
theorem exec_halt (h : Hdr) (s : State) : exec (.halt h) s = execHalt h s := rfl
theorem exec_keyz (h : Hdr) (d a : BitVec 8) (s : State) : exec (.keyz h d a) s = execKeyz h d a s := rfl
theorem exec_skim (h : Hdr) (d a : BitVec 8) (s : State) : exec (.skim h d a) s = execSkim h d a s := rfl
theorem exec_attest (h : Hdr) (d a b : BitVec 8) (s : State) : exec (.attest h d a b) s = execAttest h d a b s := rfl
theorem exec_tkrd (h : Hdr) (d : BitVec 8) (s : State) : exec (.tkrd h d) s = execTkrd h d s := rfl
theorem exec_tkgive (h : Hdr) (d a b : BitVec 8) (s : State) : exec (.tkgive h d a b) s = execTkgive h d a b s := rfl
theorem exec_quar (h : Hdr) (d a : BitVec 8) (s : State) : exec (.quar h d a) s = execQuar h d a s := rfl
theorem exec_mcread (h : Hdr) (d a : BitVec 8) (s : State) : exec (.mcread h d a) s = execMcread h d a s := rfl
theorem exec_pswitch (h : Hdr) (d a b : BitVec 8) (s : State) : exec (.pswitch h d a b) s = execPswitch h d a b s := rfl
theorem exec_fbctl (h : Hdr) (d a : BitVec 8) (s : State) : exec (.fbctl h d a) s = execFbctl h d a s := rfl
theorem exec_ctxld (h : Hdr) (d a : BitVec 8) (s : State) : exec (.ctxld h d a) s = execCtxld h d a s := rfl
theorem exec_mmt8t8 (e : Ecw) (s : State) : exec (.mmt8t8 e) s = execMmt8t8 e s := rfl
theorem exec_mmst8t8 (e : Ecw) (s : State) : exec (.mmst8t8 e) s = execMmst8t8 e s := rfl
theorem exec_mmt8bf (e : Ecw) (s : State) : exec (.mmt8bf e) s = execMmt8bf e s := rfl
theorem exec_mmst8bf (e : Ecw) (s : State) : exec (.mmst8bf e) s = execMmst8bf e s := rfl
theorem exec_mmbfbf (e : Ecw) (s : State) : exec (.mmbfbf e) s = execMmbfbf e s := rfl
theorem exec_mmsbfbf (e : Ecw) (s : State) : exec (.mmsbfbf e) s = execMmsbfbf e s := rfl
theorem exec_mmf16f16 (e : Ecw) (s : State) : exec (.mmf16f16 e) s = execMmf16f16 e s := rfl
theorem exec_mmsf16f16 (e : Ecw) (s : State) : exec (.mmsf16f16 e) s = execMmsf16f16 e s := rfl
theorem exec_mmi8i8 (e : Ecw) (s : State) : exec (.mmi8i8 e) s = execMmi8i8 e s := rfl
theorem exec_mmsi8i8 (e : Ecw) (s : State) : exec (.mmsi8i8 e) s = execMmsi8i8 e s := rfl
theorem exec_mmt4t8 (e : Ecw) (s : State) : exec (.mmt4t8 e) s = execMmt4t8 e s := rfl
theorem exec_mmst4t8 (e : Ecw) (s : State) : exec (.mmst4t8 e) s = execMmst4t8 e s := rfl
theorem exec_mmt4t4 (e : Ecw) (s : State) : exec (.mmt4t4 e) s = execMmt4t4 e s := rfl
theorem exec_mmst4t4 (e : Ecw) (s : State) : exec (.mmst4t4 e) s = execMmst4t4 e s := rfl
theorem exec_mmx8x8 (e : Ecw) (s : State) : exec (.mmx8x8 e) s = execMmx8x8 e s := rfl
theorem exec_mmsx8x8 (e : Ecw) (s : State) : exec (.mmsx8x8 e) s = execMmsx8x8 e s := rfl
theorem exec_mmx4x8 (e : Ecw) (s : State) : exec (.mmx4x8 e) s = execMmx4x8 e s := rfl
theorem exec_mmsx4x8 (e : Ecw) (s : State) : exec (.mmsx4x8 e) s = execMmsx4x8 e s := rfl
theorem exec_mmx4x4 (e : Ecw) (s : State) : exec (.mmx4x4 e) s = execMmx4x4 e s := rfl
theorem exec_mmsx4x4 (e : Ecw) (s : State) : exec (.mmsx4x4 e) s = execMmsx4x4 e s := rfl
theorem exec_wload (e : Ecw) (s : State) : exec (.wload e) s = execWload e s := rfl
theorem exec_mxsig (e : Ecw) (s : State) : exec (.mxsig e) s = execMxsig e s := rfl
theorem exec_cpy (e : Ecw) (s : State) : exec (.cpy e) s = execCpy e s := rfl
theorem exec_cpys (e : Ecw) (s : State) : exec (.cpys e) s = execCpys e s := rfl
theorem exec_cpyg (e : Ecw) (s : State) : exec (.cpyg e) s = execCpyg e s := rfl
theorem exec_cpyf (e : Ecw) (s : State) : exec (.cpyf e) s = execCpyf e s := rfl
theorem exec_cpymx (e : Ecw) (s : State) : exec (.cpymx e) s = execCpymx e s := rfl
theorem exec_sig (e : Ecw) (s : State) : exec (.sig e) s = execSig e s := rfl
theorem exec_cred (e : Ecw) (s : State) : exec (.cred e) s = execCred e s := rfl
theorem exec_credx (e : Ecw) (s : State) : exec (.credx e) s = execCredx e s := rfl
theorem exec_cgath (e : Ecw) (s : State) : exec (.cgath e) s = execCgath e s := rfl
theorem exec_cbcast (e : Ecw) (s : State) : exec (.cbcast e) s = execCbcast e s := rfl
theorem exec_engineCommandComplete (core : Nat) (slot : Nat) (s : State) : exec (.engineCommandComplete core slot) s = execEngineCommandComplete core slot s := rfl
theorem exec_registerWrite (master : Nat) (blk : Nat) (off : Nat) (val : Word) (s : State) : exec (.registerWrite master blk off val) s = execRegisterWrite master blk off val s := rfl
theorem exec_devQcfgWrite (master : Nat) (n : Nat) (val : Word) (s : State) : exec (.devQcfgWrite master n val) s = execDevQcfgWrite master n val s := rfl
theorem exec_devQheadWrite (master : Nat) (n : Nat) (val : Word) (s : State) : exec (.devQheadWrite master n val) s = execDevQheadWrite master n val s := rfl
theorem exec_devQtailWrite (master : Nat) (n : Nat) (val : Word) (s : State) : exec (.devQtailWrite master n val) s = execDevQtailWrite master n val s := rfl
theorem exec_wakeComplete (die : Nat) (s : State) : exec (.wakeComplete die) s = execWakeComplete die s := rfl
theorem exec_wakeFailure (die : Nat) (s : State) : exec (.wakeFailure die) s = execWakeFailure die s := rfl
theorem exec_packetFetch (n : Nat) (s : State) : exec (.packetFetch n) s = execPacketFetch n s := rfl
theorem exec_queueFetchTimeout (n : Nat) (s : State) : exec (.queueFetchTimeout n) s = execQueueFetchTimeout n s := rfl
theorem exec_launch (n : Nat) (s : State) : exec (.launch n) s = execLaunch n s := rfl
theorem exec_copy (n : Nat) (s : State) : exec (.copy n) s = execCopy n s := rfl
theorem exec_signal (n : Nat) (s : State) : exec (.signal n) s = execSignal n s := rfl
theorem exec_wait (n : Nat) (s : State) : exec (.wait n) s = execWait n s := rfl
theorem exec_waitPacketExpiry (n : Nat) (s : State) : exec (.waitPacketExpiry n) s = execWaitPacketExpiry n s := rfl
theorem exec_contextCreate (n : Nat) (part : Nat) (pcids : List Nat) (s : State) : exec (.contextCreate n part pcids) s = execContextCreate n part pcids s := rfl
theorem exec_contextDestroy (n : Nat) (s : State) : exec (.contextDestroy n) s = execContextDestroy n s := rfl
theorem exec_migrate (n : Nat) (target : Nat) (s : State) : exec (.migrate n target) s = execMigrate n target s := rfl
theorem exec_teardown (n : Nat) (s : State) : exec (.teardown n) s = execTeardown n s := rfl
theorem exec_instancePlacement (tract : Nat) (base : Nat) (s : State) : exec (.instancePlacement tract base) s = execInstancePlacement tract base s := rfl
theorem exec_instanceCompletion (iid : Nat) (s : State) : exec (.instanceCompletion iid) s = execInstanceCompletion iid s := rfl
theorem exec_completionRecord (k : Nat) (s : State) : exec (.completionRecord k) s = execCompletionRecord k s := rfl
theorem exec_instructionRefill (core : Nat) (strand : Nat) (s : State) : exec (.instructionRefill core strand) s = execInstructionRefill core strand s := rfl
theorem exec_ownerClaim (master : Nat) (s : State) : exec (.ownerClaim master) s = execOwnerClaim master s := rfl
theorem exec_ownerHandover (master : Nat) (succ : Nat) (s : State) : exec (.ownerHandover master succ) s = execOwnerHandover master succ s := rfl
theorem exec_ownerRelease (master : Nat) (s : State) : exec (.ownerRelease master) s = execOwnerRelease master s := rfl
theorem exec_ownerLinkLoss (s : State) : exec (.ownerLinkLoss) s = execOwnerLinkLoss s := rfl
theorem exec_debugCancel (master : Nat) (s : State) : exec (.debugCancel master) s = execDebugCancel master s := rfl
theorem exec_debugStopRequest (master : Nat) (ctx : Nat) (lbase : Nat) (s : State) : exec (.debugStopRequest master ctx lbase) s = execDebugStopRequest master ctx lbase s := rfl
theorem exec_debugResume (master : Nat) (s : State) : exec (.debugResume master) s = execDebugResume master s := rfl
theorem exec_debugStep (master : Nat) (s : State) : exec (.debugStep master) s = execDebugStep master s := rfl
theorem exec_debugStop (s : State) : exec (.debugStop) s = execDebugStop s := rfl
theorem exec_devDbgwinWrite (master : Nat) (val : Word) (s : State) : exec (.devDbgwinWrite master val) s = execDevDbgwinWrite master val s := rfl
theorem exec_dieBmaskWrite (part : Nat) (die : Nat) (k : Nat) (w : Nat) (fw : Bool) (val : Word) (s : State) : exec (.dieBmaskWrite part die k w fw val) s = execDieBmaskWrite part die k w fw val s := rfl
theorem exec_helperResume (core : Nat) (val : Word) (s : State) : exec (.helperResume core val) s = execHelperResume core val s := rfl
theorem exec_inFieldTest (core : Nat) (s : State) : exec (.inFieldTest core) s = execInFieldTest core s := rfl
theorem exec_inFieldTestDone (core : Nat) (passed : Bool) (s : State) : exec (.inFieldTestDone core passed) s = execInFieldTestDone core passed s := rfl
theorem exec_quarantineClear (core : Nat) (bits : BitVec 3) (s : State) : exec (.quarantineClear core bits) s = execQuarantineClear core bits s := rfl
theorem exec_bankRebuild (core : Nat) (csp : Bool) (bank : Nat) (s : State) : exec (.bankRebuild core csp bank) s = execBankRebuild core csp bank s := rfl
theorem exec_rebuildStripe (core : Nat) (csp : Bool) (s : State) : exec (.rebuildStripe core csp) s = execRebuildStripe core csp s := rfl
theorem exec_exchangeStart (core : Nat) (s : State) : exec (.exchangeStart core) s = execExchangeStart core s := rfl
theorem exec_exchangeRecordIssue (core : Nat) (s : State) : exec (.exchangeRecordIssue core) s = execExchangeRecordIssue core s := rfl
theorem exec_exchangeReceive (k : Nat) (s : State) : exec (.exchangeReceive k) s = execExchangeReceive k s := rfl
theorem exec_computeEntry (iid : Nat) (s : State) : exec (.computeEntry iid) s = execComputeEntry iid s := rfl
theorem exec_barrierRelease (iid : Nat) (g : Nat) (s : State) : exec (.barrierRelease iid g) s = execBarrierRelease iid g s := rfl
theorem exec_waitCompletion (core : Nat) (strand : Nat) (s : State) : exec (.waitCompletion core strand) s = execWaitCompletion core strand s := rfl
theorem exec_waitExpiry (core : Nat) (strand : Nat) (s : State) : exec (.waitExpiry core strand) s = execWaitExpiry core strand s := rfl
theorem exec_fuseWindowTimeout (clu : Nat) (pos : Nat) (s : State) : exec (.fuseWindowTimeout clu pos) s = execFuseWindowTimeout clu pos s := rfl
theorem exec_messageDelivery (k : Nat) (s : State) : exec (.messageDelivery k) s = execMessageDelivery k s := rfl
theorem exec_pageWalk (core : Nat) (id : Nat) (elem : Nat) (s : State) : exec (.pageWalk core id elem) s = execPageWalk core id elem s := rfl
theorem exec_snagTimeout (core : Nat) (idx : Nat) (s : State) : exec (.snagTimeout core idx) s = execSnagTimeout core idx s := rfl
theorem exec_asyncTrapEntry (core : Nat) (s : State) : exec (.asyncTrapEntry core) s = execAsyncTrapEntry core s := rfl
theorem exec_migrationCommit (core : Nat) (s : State) : exec (.migrationCommit core) s = execMigrationCommit core s := rfl
theorem exec_gangSwitch (part : Nat) (s : State) : exec (.gangSwitch part) s = execGangSwitch part s := rfl
theorem exec_partitionResume (part : Nat) (s : State) : exec (.partitionResume part) s = execPartitionResume part s := rfl
theorem exec_machineCheck (core : Nat) (strand : Nat) (unit : Nat) (lane : Nat) (obs : Nat) (expected : Nat) (s : State) : exec (.machineCheck core strand unit lane obs expected) s = execMachineCheck core strand unit lane obs expected s := rfl
theorem exec_poisonConsumption (core : Nat) (strand : Nat) (cause : Nat) (addr : Nat) (s : State) : exec (.poisonConsumption core strand cause addr) s = execPoisonConsumption core strand cause addr s := rfl
theorem exec_closureCheck (k : Nat) (s : State) : exec (.closureCheck k) s = execClosureCheck k s := rfl
theorem exec_closureTimeout (k : Nat) (s : State) : exec (.closureTimeout k) s = execClosureTimeout k s := rfl
theorem exec_thermalSample (core : Nat) (temp : BitVec 16) (s : State) : exec (.thermalSample core temp) s = execThermalSample core temp s := rfl
theorem exec_t4Trip (die : Nat) (s : State) : exec (.t4Trip die) s = execT4Trip die s := rfl
theorem exec_tokenPassing (s : State) : exec (.tokenPassing) s = execTokenPassing s := rfl
theorem exec_tokenAdd (s : State) : exec (.tokenAdd) s = execTokenAdd s := rfl
theorem exec_ballastPass (clu : Nat) (part : Nat) (s : State) : exec (.ballastPass clu part) s = execBallastPass clu part s := rfl
theorem exec_fieldBookStateChange (core : Nat) (s : State) : exec (.fieldBookStateChange core) s = execFieldBookStateChange core s := rfl
theorem exec_pcSample (core : Nat) (s : State) : exec (.pcSample core) s = execPcSample core s := rfl
theorem exec_skimUnit (die : Nat) (s : State) : exec (.skimUnit die) s = execSkimUnit die s := rfl
theorem exec_powerOnReset (tbl : BootTable) (s : State) : exec (.powerOnReset tbl) s = execPowerOnReset tbl s := rfl
theorem exec_deviceReset (tbl : BootTable) (s : State) : exec (.deviceReset tbl) s = execDeviceReset tbl s := rfl
theorem exec_functionLevelReset (tbl : BootTable) (s : State) : exec (.functionLevelReset tbl) s = execFunctionLevelReset tbl s := rfl
theorem exec_brirusTraining (port : Nat) (ok : Bool) (rate : Nat) (peer : Nat) (s : State) : exec (.brirusTraining port ok rate peer) s = execBrirusTraining port ok rate peer s := rfl
theorem exec_trainingTimeout (port : Nat) (s : State) : exec (.trainingTimeout port) s = execTrainingTimeout port s := rfl
theorem exec_brirusFlit (port : Nat) (flit : Flit) (s : State) : exec (.brirusFlit port flit) s = execBrirusFlit port flit s := rfl
theorem exec_brirusNak (port : Nat) (seq : Nat) (s : State) : exec (.brirusNak port seq) s = execBrirusNak port seq s := rfl
theorem exec_cxlMemRequest (off : Nat) (write : Bool) (data : Word) (bytes : BitVec 8) (s : State) : exec (.cxlMemRequest off write data bytes) s = execCxlMemRequest off write data bytes s := rfl
theorem exec_hostLinkDown (s : State) : exec (.hostLinkDown) s = execHostLinkDown s := rfl
theorem exec_hostLinkUp (s : State) : exec (.hostLinkUp) s = execHostLinkUp s := rfl
theorem exec_hostAccessTimeout (core : Nat) (id : Nat) (elem : Nat) (s : State) : exec (.hostAccessTimeout core id elem) s = execHostAccessTimeout core id elem s := rfl
theorem exec_memoryAccessPerformed (core : Nat) (id : Nat) (elem : Nat) (s : State) : exec (.memoryAccessPerformed core id elem) s = execMemoryAccessPerformed core id elem s := rfl
theorem exec_waitPacketSatisfied (n : Nat) (s : State) : exec (.waitPacketSatisfied n) s = execWaitPacketSatisfied n s := rfl

end Sys2Proof.Machine
end

