-- ==== Sys2Proof/Laws/Encoding.lean ====
section
/-! SUPPORT. Slices of joined bit vectors, and what shows that an encoding decodes to the instruction it stands for. -/

namespace Sys2Proof

@[simp] theorem slice_low {m n : Nat} (a : BitVec m) (b : BitVec n) : BitVec.extractLsb' 0 n (no_index (a ++ b)) = b := by
  apply BitVec.eq_of_getLsbD_eq; intro i hi; simp [BitVec.getLsbD_append, hi]

@[simp] theorem slice_up {m n : Nat} {a : BitVec m} {b : BitVec n} {s l : Nat} (h : n ≤ s) :
    BitVec.extractLsb' s l (no_index (a ++ b)) = a.extractLsb' (s - n) l := by
  apply BitVec.eq_of_getLsbD_eq; intro i hi
  have h1 : ¬ s + i < n := by omega
  have h2 : s + i - n = s - n + i := by omega
  simp [BitVec.getLsbD_append, hi, h1, h2]

@[simp] theorem slice_in {m n : Nat} {a : BitVec m} {b : BitVec n} {s l : Nat} (h : s + l ≤ n) :
    BitVec.extractLsb' s l (no_index (a ++ b)) = b.extractLsb' s l := by
  apply BitVec.eq_of_getLsbD_eq; intro i hi
  have h1 : s + i < n := by omega
  simp [BitVec.getLsbD_append, hi, h1]

theorem slice_join {n s l k t : Nat} {x : BitVec n} (h : s + l = t) :
    x.extractLsb' t k ++ x.extractLsb' s l = x.extractLsb' s (k + l) := by
  subst h
  apply BitVec.eq_of_getLsbD_eq; intro i hi
  simp only [BitVec.getLsbD_append, BitVec.getLsbD_extractLsb']
  by_cases h : i < l
  · simp [h, hi]
  · have h1 : i - l < k := by omega
    have h2 : s + l + (i - l) = s + i := by omega
    simp [h, hi, h1, h2]

@[simp] theorem slice_slice {n s l t k : Nat} {x : BitVec n} (h : t + k ≤ l) :
    (x.extractLsb' s l).extractLsb' t k = x.extractLsb' (s + t) k := by
  apply BitVec.eq_of_getLsbD_eq; intro i hi
  have h1 : t + i < l := by omega
  simp [hi, h1, Nat.add_assoc]

@[simp] theorem bit4_mxq (ty rm : BitVec 3) : (ty ++ rm ++ 0#2 ++ 0#4)[4] = false := by
  show BitVec.getLsbD (ty ++ rm ++ 0#2 ++ 0#4) 4 = false
  simp only [BitVec.getLsbD_append]; rfl

@[simp] theorem bit4_mxqMem (ty rm : BitVec 3) : (ty ++ rm ++ 1#2 ++ 0#4)[4] = true := by
  show BitVec.getLsbD (ty ++ rm ++ 1#2 ++ 0#4) 4 = true
  simp only [BitVec.getLsbD_append]; rfl

/-- The fields of a word are those that made it (R171). -/
@[simp] theorem Fields.ofWord_word (f : Fields) : Fields.ofWord f.word = f := by
  simp only [Fields.ofWord, Fields.word, Nat.reduceAdd]
  simp

/-- A word with given fields is the word of its fields. -/
theorem Fields.word_ofWord (w : Word) : (Fields.ofWord w).word = w := by
  simp only [Fields.ofWord, Fields.word]
  rw [slice_join (t := 61) (s := 58) (l := 3) (k := 3) rfl,
    slice_join (t := 58) (s := 57) (l := 1) (k := 6) rfl,
    slice_join (t := 57) (s := 47) (l := 10) (k := 7) rfl,
    slice_join (t := 47) (s := 44) (l := 3) (k := 17) rfl,
    slice_join (t := 44) (s := 36) (l := 8) (k := 20) rfl,
    slice_join (t := 36) (s := 28) (l := 8) (k := 28) rfl,
    slice_join (t := 28) (s := 20) (l := 8) (k := 36) rfl,
    slice_join (t := 20) (s := 12) (l := 8) (k := 44) rfl,
    slice_join (t := 12) (s := 0) (l := 12) (k := 52) rfl]
  exact BitVec.extractLsb'_eq_self

/-- The command fields that a command word holds are those that made it (R185). -/
@[simp] theorem Ecw.ofBits_bits (e : Ecw) (n : BitVec 8) : Ecw.ofBits (e.bits n) = e := by
  simp only [Ecw.ofBits, Ecw.bits]
  simp

/-! ### The fields of an instruction word as the encoder makes them -/

section

variable (h : Hdr) (op : BitVec 10) (d a b c : BitVec 8) (m : BitVec 12)

@[simp] theorem mkFields_hdr : (mkFields h op d a b c m).hdr = h := rfl
@[simp] theorem mkFields_d : (mkFields h op d a b c m).d = d := rfl
@[simp] theorem mkFields_a : (mkFields h op d a b c m).a = a := rfl
@[simp] theorem mkFields_b : (mkFields h op d a b c m).b = b := rfl
@[simp] theorem mkFields_c : (mkFields h op d a b c m).c = c := rfl
@[simp] theorem mkFields_m : (mkFields h op d a b c m).m = m := rfl
@[simp] theorem mkImm28_hdr (x : BitVec 28) : (mkImm28 h op d a x).hdr = h := rfl
@[simp] theorem mkImm28_d (x : BitVec 28) : (mkImm28 h op d a x).d = d := rfl
@[simp] theorem mkImm28_a (x : BitVec 28) : (mkImm28 h op d a x).a = a := rfl
@[simp] theorem mkImm20_hdr (x : BitVec 20) : (mkImm20 h op d a b x).hdr = h := rfl
@[simp] theorem mkImm20_d (x : BitVec 20) : (mkImm20 h op d a b x).d = d := rfl
@[simp] theorem mkImm20_a (x : BitVec 20) : (mkImm20 h op d a b x).a = a := rfl
@[simp] theorem mkImm20_b (x : BitVec 20) : (mkImm20 h op d a b x).b = b := rfl

@[simp] theorem mkImm28_imm28 (x : BitVec 28) : (mkImm28 h op d a x).imm28 = x := by
  show x.extractLsb' 20 8 ++ x.extractLsb' 12 8 ++ x.extractLsb' 0 12 = x
  rw [slice_join (t := 20) (s := 12) (l := 8) (k := 8) rfl, slice_join (t := 12) (s := 0) (l := 12) (k := 16) rfl]
  exact BitVec.extractLsb'_eq_self

@[simp] theorem mkImm20_imm20 (x : BitVec 20) : (mkImm20 h op d a b x).imm20 = x := by
  show x.extractLsb' 12 8 ++ x.extractLsb' 0 12 = x
  rw [slice_join (t := 12) (s := 0) (l := 12) (k := 8) rfl]
  exact BitVec.extractLsb'_eq_self

@[simp] theorem mkImm28_m (x : BitVec 28) : (mkImm28 h op d a x).m = x.extractLsb' 0 12 := rfl

@[simp] theorem mkImm28_imm20 (x : BitVec 28) : (mkImm28 h op d a x).imm20 = x.extractLsb' 0 20 := by
  show x.extractLsb' 12 8 ++ x.extractLsb' 0 12 = _
  rw [slice_join (t := 12) (s := 0) (l := 12) (k := 8) rfl]

@[simp] theorem mkImm28_imm36 (x : BitVec 36) : (mkImm28 h op d (x.extractLsb' 28 8) (x.extractLsb' 0 28)).imm36 = x := by
  show x.extractLsb' 28 8 ++ (x.extractLsb' 0 28).extractLsb' 20 8 ++ (x.extractLsb' 0 28).extractLsb' 12 8 ++
    (x.extractLsb' 0 28).extractLsb' 0 12 = x
  rw [slice_slice (by decide), slice_slice (by decide), slice_slice (by decide)]
  rw [slice_join (t := 28) (s := 20) (l := 8) (k := 8) rfl, slice_join (t := 20) (s := 12) (l := 8) (k := 16) rfl,
    slice_join (t := 12) (s := 0) (l := 12) (k := 24) rfl]
  exact BitVec.extractLsb'_eq_self

@[simp] theorem mkFields_disp (x : BitVec 20) : (mkFields h op d a (x.extractLsb' 12 8) c (x.extractLsb' 0 12)).disp = x := by
  show x.extractLsb' 12 8 ++ x.extractLsb' 0 12 = x
  rw [slice_join (t := 12) (s := 0) (l := 12) (k := 8) rfl]
  exact BitVec.extractLsb'_eq_self

end

end Sys2Proof
end

