-- ==== Sys2Proof/Laws/State.lean ====
section
/-! SUPPORT. One lemma for each field of the state and of a core under each plain update: what the update leaves alone. -/

namespace Sys2Proof.Machine


/-! ### `State.setCore` -/

@[simp] theorem State.setCore_now (s : State) (p : Nat) (c : Core) : (s.setCore p c).now = s.now := rfl
@[simp] theorem State.setCore_part (s : State) (p : Nat) (c : Core) : (s.setCore p c).part = s.part := rfl
@[simp] theorem State.setCore_plumbW (s : State) (p : Nat) (c : Core) : (s.setCore p c).plumbW = s.plumbW := rfl
@[simp] theorem State.setCore_plumbCol (s : State) (p : Nat) (c : Core) : (s.setCore p c).plumbCol = s.plumbCol := rfl
@[simp] theorem State.setCore_clusters (s : State) (p : Nat) (c : Core) : (s.setCore p c).clusters = s.clusters := rfl
@[simp] theorem State.setCore_dies (s : State) (p : Nat) (c : Core) : (s.setCore p c).dies = s.dies := rfl
@[simp] theorem State.setCore_mem (s : State) (p : Nat) (c : Core) : (s.setCore p c).mem = s.mem := rfl
@[simp] theorem State.setCore_full (s : State) (p : Nat) (c : Core) : (s.setCore p c).full = s.full := rfl
@[simp] theorem State.setCore_poison (s : State) (p : Nat) (c : Core) : (s.setCore p c).poison = s.poison := rfl
@[simp] theorem State.setCore_keyed (s : State) (p : Nat) (c : Core) : (s.setCore p c).keyed = s.keyed := rfl
@[simp] theorem State.setCore_strbase (s : State) (p : Nat) (c : Core) : (s.setCore p c).strbase = s.strbase := rfl
@[simp] theorem State.setCore_rmapsel (s : State) (p : Nat) (c : Core) : (s.setCore p c).rmapsel = s.rmapsel := rfl
@[simp] theorem State.setCore_owner (s : State) (p : Nat) (c : Core) : (s.setCore p c).owner = s.owner := rfl
@[simp] theorem State.setCore_ownerOp (s : State) (p : Nat) (c : Core) : (s.setCore p c).ownerOp = s.ownerOp := rfl
@[simp] theorem State.setCore_ownerSucc (s : State) (p : Nat) (c : Core) : (s.setCore p c).ownerSucc = s.ownerSucc := rfl
@[simp] theorem State.setCore_refused (s : State) (p : Nat) (c : Core) : (s.setCore p c).refused = s.refused := rfl
@[simp] theorem State.setCore_linkLost (s : State) (p : Nat) (c : Core) : (s.setCore p c).linkLost = s.linkLost := rfl
@[simp] theorem State.setCore_dbgOp (s : State) (p : Nat) (c : Core) : (s.setCore p c).dbgOp = s.dbgOp := rfl
@[simp] theorem State.setCore_dbgState (s : State) (p : Nat) (c : Core) : (s.setCore p c).dbgState = s.dbgState := rfl
@[simp] theorem State.setCore_dbgCtx (s : State) (p : Nat) (c : Core) : (s.setCore p c).dbgCtx = s.dbgCtx := rfl
@[simp] theorem State.setCore_dbgBase (s : State) (p : Nat) (c : Core) : (s.setCore p c).dbgBase = s.dbgBase := rfl
@[simp] theorem State.setCore_dbgsel (s : State) (p : Nat) (c : Core) : (s.setCore p c).dbgsel = s.dbgsel := rfl
@[simp] theorem State.setCore_ready (s : State) (p : Nat) (c : Core) : (s.setCore p c).ready = s.ready := rfl
@[simp] theorem State.setCore_bootStep (s : State) (p : Nat) (c : Core) : (s.setCore p c).bootStep = s.bootStep := rfl
@[simp] theorem State.setCore_bootFail (s : State) (p : Nat) (c : Core) : (s.setCore p c).bootFail = s.bootFail := rfl
@[simp] theorem State.setCore_passed (s : State) (p : Nat) (c : Core) : (s.setCore p c).passed = s.passed := rfl
@[simp] theorem State.setCore_enovh (s : State) (p : Nat) (c : Core) : (s.setCore p c).enovh = s.enovh := rfl
@[simp] theorem State.setCore_enctx (s : State) (p : Nat) (c : Core) : (s.setCore p c).enctx = s.enctx := rfl
@[simp] theorem State.setCore_ports (s : State) (p : Nat) (c : Core) : (s.setCore p c).ports = s.ports := rfl
@[simp] theorem State.setCore_burst (s : State) (p : Nat) (c : Core) : (s.setCore p c).burst = s.burst := rfl
@[simp] theorem State.setCore_queues (s : State) (p : Nat) (c : Core) : (s.setCore p c).queues = s.queues := rfl
@[simp] theorem State.setCore_hostUp (s : State) (p : Nat) (c : Core) : (s.setCore p c).hostUp = s.hostUp := rfl
@[simp] theorem State.setCore_msixHeld (s : State) (p : Nat) (c : Core) : (s.setCore p c).msixHeld = s.msixHeld := rfl
@[simp] theorem State.setCore_msix (s : State) (p : Nat) (c : Core) : (s.setCore p c).msix = s.msix := rfl
@[simp] theorem State.setCore_hostReads (s : State) (p : Nat) (c : Core) : (s.setCore p c).hostReads = s.hostReads := rfl
@[simp] theorem State.setCore_hdmsz (s : State) (p : Nat) (c : Core) : (s.setCore p c).hdmsz = s.hdmsz := rfl
@[simp] theorem State.setCore_rstKind (s : State) (p : Nat) (c : Core) : (s.setCore p c).rstKind = s.rstKind := rfl
@[simp] theorem State.setCore_rstT4 (s : State) (p : Nat) (c : Core) : (s.setCore p c).rstT4 = s.rstT4 := rfl
@[simp] theorem State.setCore_rstT4die (s : State) (p : Nat) (c : Core) : (s.setCore p c).rstT4die = s.rstT4die := rfl
@[simp] theorem State.setCore_rstScrub (s : State) (p : Nat) (c : Core) : (s.setCore p c).rstScrub = s.rstScrub := rfl
@[simp] theorem State.setCore_rstTick (s : State) (p : Nat) (c : Core) : (s.setCore p c).rstTick = s.rstTick := rfl
@[simp] theorem State.setCore_tableHash (s : State) (p : Nat) (c : Core) : (s.setCore p c).tableHash = s.tableHash := rfl
@[simp] theorem State.setCore_fwHash (s : State) (p : Nat) (c : Core) : (s.setCore p c).fwHash = s.fwHash := rfl
@[simp] theorem State.setCore_ctxs (s : State) (p : Nat) (c : Core) : (s.setCore p c).ctxs = s.ctxs := rfl
@[simp] theorem State.setCore_parts (s : State) (p : Nat) (c : Core) : (s.setCore p c).parts = s.parts := rfl
@[simp] theorem State.setCore_tracts (s : State) (p : Nat) (c : Core) : (s.setCore p c).tracts = s.tracts := rfl
@[simp] theorem State.setCore_insts (s : State) (p : Nat) (c : Core) : (s.setCore p c).insts = s.insts := rfl
@[simp] theorem State.setCore_records (s : State) (p : Nat) (c : Core) : (s.setCore p c).records = s.records := rfl
@[simp] theorem State.setCore_ringCount (s : State) (p : Nat) (c : Core) : (s.setCore p c).ringCount = s.ringCount := rfl
@[simp] theorem State.setCore_messages (s : State) (p : Nat) (c : Core) : (s.setCore p c).messages = s.messages := rfl
@[simp] theorem State.setCore_transfers (s : State) (p : Nat) (c : Core) : (s.setCore p c).transfers = s.transfers := rfl
@[simp] theorem State.setCore_closures (s : State) (p : Nat) (c : Core) : (s.setCore p c).closures = s.closures := rfl
@[simp] theorem State.setCore_nextId (s : State) (p : Nat) (c : Core) : (s.setCore p c).nextId = s.nextId := rfl
@[simp] theorem State.setCore_agenda (s : State) (p : Nat) (c : Core) : (s.setCore p c).agenda = s.agenda := rfl
@[simp] theorem State.setCore_focus (s : State) (p : Nat) (c : Core) : (s.setCore p c).focus = s.focus := rfl
@[simp] theorem State.setCore_fresh (s : State) (p : Nat) (c : Core) : (s.setCore p c).fresh = s.fresh := rfl

/-! ### `State.modCore` -/

@[simp] theorem State.modCore_now (s : State) (p : Nat) (f : Core → Core) : (s.modCore p f).now = s.now := rfl
@[simp] theorem State.modCore_part (s : State) (p : Nat) (f : Core → Core) : (s.modCore p f).part = s.part := rfl
@[simp] theorem State.modCore_plumbW (s : State) (p : Nat) (f : Core → Core) : (s.modCore p f).plumbW = s.plumbW := rfl
@[simp] theorem State.modCore_plumbCol (s : State) (p : Nat) (f : Core → Core) : (s.modCore p f).plumbCol = s.plumbCol := rfl
@[simp] theorem State.modCore_clusters (s : State) (p : Nat) (f : Core → Core) : (s.modCore p f).clusters = s.clusters := rfl
@[simp] theorem State.modCore_dies (s : State) (p : Nat) (f : Core → Core) : (s.modCore p f).dies = s.dies := rfl
@[simp] theorem State.modCore_mem (s : State) (p : Nat) (f : Core → Core) : (s.modCore p f).mem = s.mem := rfl
@[simp] theorem State.modCore_full (s : State) (p : Nat) (f : Core → Core) : (s.modCore p f).full = s.full := rfl
@[simp] theorem State.modCore_poison (s : State) (p : Nat) (f : Core → Core) : (s.modCore p f).poison = s.poison := rfl
@[simp] theorem State.modCore_keyed (s : State) (p : Nat) (f : Core → Core) : (s.modCore p f).keyed = s.keyed := rfl
@[simp] theorem State.modCore_strbase (s : State) (p : Nat) (f : Core → Core) : (s.modCore p f).strbase = s.strbase := rfl
@[simp] theorem State.modCore_rmapsel (s : State) (p : Nat) (f : Core → Core) : (s.modCore p f).rmapsel = s.rmapsel := rfl
@[simp] theorem State.modCore_owner (s : State) (p : Nat) (f : Core → Core) : (s.modCore p f).owner = s.owner := rfl
@[simp] theorem State.modCore_ownerOp (s : State) (p : Nat) (f : Core → Core) : (s.modCore p f).ownerOp = s.ownerOp := rfl
@[simp] theorem State.modCore_ownerSucc (s : State) (p : Nat) (f : Core → Core) : (s.modCore p f).ownerSucc = s.ownerSucc := rfl
@[simp] theorem State.modCore_refused (s : State) (p : Nat) (f : Core → Core) : (s.modCore p f).refused = s.refused := rfl
@[simp] theorem State.modCore_linkLost (s : State) (p : Nat) (f : Core → Core) : (s.modCore p f).linkLost = s.linkLost := rfl
@[simp] theorem State.modCore_dbgOp (s : State) (p : Nat) (f : Core → Core) : (s.modCore p f).dbgOp = s.dbgOp := rfl
@[simp] theorem State.modCore_dbgState (s : State) (p : Nat) (f : Core → Core) : (s.modCore p f).dbgState = s.dbgState := rfl
@[simp] theorem State.modCore_dbgCtx (s : State) (p : Nat) (f : Core → Core) : (s.modCore p f).dbgCtx = s.dbgCtx := rfl
@[simp] theorem State.modCore_dbgBase (s : State) (p : Nat) (f : Core → Core) : (s.modCore p f).dbgBase = s.dbgBase := rfl
@[simp] theorem State.modCore_dbgsel (s : State) (p : Nat) (f : Core → Core) : (s.modCore p f).dbgsel = s.dbgsel := rfl
@[simp] theorem State.modCore_ready (s : State) (p : Nat) (f : Core → Core) : (s.modCore p f).ready = s.ready := rfl
@[simp] theorem State.modCore_bootStep (s : State) (p : Nat) (f : Core → Core) : (s.modCore p f).bootStep = s.bootStep := rfl
@[simp] theorem State.modCore_bootFail (s : State) (p : Nat) (f : Core → Core) : (s.modCore p f).bootFail = s.bootFail := rfl
@[simp] theorem State.modCore_passed (s : State) (p : Nat) (f : Core → Core) : (s.modCore p f).passed = s.passed := rfl
@[simp] theorem State.modCore_enovh (s : State) (p : Nat) (f : Core → Core) : (s.modCore p f).enovh = s.enovh := rfl
@[simp] theorem State.modCore_enctx (s : State) (p : Nat) (f : Core → Core) : (s.modCore p f).enctx = s.enctx := rfl
@[simp] theorem State.modCore_ports (s : State) (p : Nat) (f : Core → Core) : (s.modCore p f).ports = s.ports := rfl
@[simp] theorem State.modCore_burst (s : State) (p : Nat) (f : Core → Core) : (s.modCore p f).burst = s.burst := rfl
@[simp] theorem State.modCore_queues (s : State) (p : Nat) (f : Core → Core) : (s.modCore p f).queues = s.queues := rfl
@[simp] theorem State.modCore_hostUp (s : State) (p : Nat) (f : Core → Core) : (s.modCore p f).hostUp = s.hostUp := rfl
@[simp] theorem State.modCore_msixHeld (s : State) (p : Nat) (f : Core → Core) : (s.modCore p f).msixHeld = s.msixHeld := rfl
@[simp] theorem State.modCore_msix (s : State) (p : Nat) (f : Core → Core) : (s.modCore p f).msix = s.msix := rfl
@[simp] theorem State.modCore_hostReads (s : State) (p : Nat) (f : Core → Core) : (s.modCore p f).hostReads = s.hostReads := rfl
@[simp] theorem State.modCore_hdmsz (s : State) (p : Nat) (f : Core → Core) : (s.modCore p f).hdmsz = s.hdmsz := rfl
@[simp] theorem State.modCore_rstKind (s : State) (p : Nat) (f : Core → Core) : (s.modCore p f).rstKind = s.rstKind := rfl
@[simp] theorem State.modCore_rstT4 (s : State) (p : Nat) (f : Core → Core) : (s.modCore p f).rstT4 = s.rstT4 := rfl
@[simp] theorem State.modCore_rstT4die (s : State) (p : Nat) (f : Core → Core) : (s.modCore p f).rstT4die = s.rstT4die := rfl
@[simp] theorem State.modCore_rstScrub (s : State) (p : Nat) (f : Core → Core) : (s.modCore p f).rstScrub = s.rstScrub := rfl
@[simp] theorem State.modCore_rstTick (s : State) (p : Nat) (f : Core → Core) : (s.modCore p f).rstTick = s.rstTick := rfl
@[simp] theorem State.modCore_tableHash (s : State) (p : Nat) (f : Core → Core) : (s.modCore p f).tableHash = s.tableHash := rfl
@[simp] theorem State.modCore_fwHash (s : State) (p : Nat) (f : Core → Core) : (s.modCore p f).fwHash = s.fwHash := rfl
@[simp] theorem State.modCore_ctxs (s : State) (p : Nat) (f : Core → Core) : (s.modCore p f).ctxs = s.ctxs := rfl
@[simp] theorem State.modCore_parts (s : State) (p : Nat) (f : Core → Core) : (s.modCore p f).parts = s.parts := rfl
@[simp] theorem State.modCore_tracts (s : State) (p : Nat) (f : Core → Core) : (s.modCore p f).tracts = s.tracts := rfl
@[simp] theorem State.modCore_insts (s : State) (p : Nat) (f : Core → Core) : (s.modCore p f).insts = s.insts := rfl
@[simp] theorem State.modCore_records (s : State) (p : Nat) (f : Core → Core) : (s.modCore p f).records = s.records := rfl
@[simp] theorem State.modCore_ringCount (s : State) (p : Nat) (f : Core → Core) : (s.modCore p f).ringCount = s.ringCount := rfl
@[simp] theorem State.modCore_messages (s : State) (p : Nat) (f : Core → Core) : (s.modCore p f).messages = s.messages := rfl
@[simp] theorem State.modCore_transfers (s : State) (p : Nat) (f : Core → Core) : (s.modCore p f).transfers = s.transfers := rfl
@[simp] theorem State.modCore_closures (s : State) (p : Nat) (f : Core → Core) : (s.modCore p f).closures = s.closures := rfl
@[simp] theorem State.modCore_nextId (s : State) (p : Nat) (f : Core → Core) : (s.modCore p f).nextId = s.nextId := rfl
@[simp] theorem State.modCore_agenda (s : State) (p : Nat) (f : Core → Core) : (s.modCore p f).agenda = s.agenda := rfl
@[simp] theorem State.modCore_focus (s : State) (p : Nat) (f : Core → Core) : (s.modCore p f).focus = s.focus := rfl
@[simp] theorem State.modCore_fresh (s : State) (p : Nat) (f : Core → Core) : (s.modCore p f).fresh = s.fresh := rfl

/-! ### `State.modStrand` -/

@[simp] theorem State.modStrand_now (s : State) (p k : Nat) (f : Strand → Strand) : (s.modStrand p k f).now = s.now := rfl
@[simp] theorem State.modStrand_part (s : State) (p k : Nat) (f : Strand → Strand) : (s.modStrand p k f).part = s.part := rfl
@[simp] theorem State.modStrand_plumbW (s : State) (p k : Nat) (f : Strand → Strand) : (s.modStrand p k f).plumbW = s.plumbW := rfl
@[simp] theorem State.modStrand_plumbCol (s : State) (p k : Nat) (f : Strand → Strand) : (s.modStrand p k f).plumbCol = s.plumbCol := rfl
@[simp] theorem State.modStrand_clusters (s : State) (p k : Nat) (f : Strand → Strand) : (s.modStrand p k f).clusters = s.clusters := rfl
@[simp] theorem State.modStrand_dies (s : State) (p k : Nat) (f : Strand → Strand) : (s.modStrand p k f).dies = s.dies := rfl
@[simp] theorem State.modStrand_mem (s : State) (p k : Nat) (f : Strand → Strand) : (s.modStrand p k f).mem = s.mem := rfl
@[simp] theorem State.modStrand_full (s : State) (p k : Nat) (f : Strand → Strand) : (s.modStrand p k f).full = s.full := rfl
@[simp] theorem State.modStrand_poison (s : State) (p k : Nat) (f : Strand → Strand) : (s.modStrand p k f).poison = s.poison := rfl
@[simp] theorem State.modStrand_keyed (s : State) (p k : Nat) (f : Strand → Strand) : (s.modStrand p k f).keyed = s.keyed := rfl
@[simp] theorem State.modStrand_strbase (s : State) (p k : Nat) (f : Strand → Strand) : (s.modStrand p k f).strbase = s.strbase := rfl
@[simp] theorem State.modStrand_rmapsel (s : State) (p k : Nat) (f : Strand → Strand) : (s.modStrand p k f).rmapsel = s.rmapsel := rfl
@[simp] theorem State.modStrand_owner (s : State) (p k : Nat) (f : Strand → Strand) : (s.modStrand p k f).owner = s.owner := rfl
@[simp] theorem State.modStrand_ownerOp (s : State) (p k : Nat) (f : Strand → Strand) : (s.modStrand p k f).ownerOp = s.ownerOp := rfl
@[simp] theorem State.modStrand_ownerSucc (s : State) (p k : Nat) (f : Strand → Strand) : (s.modStrand p k f).ownerSucc = s.ownerSucc := rfl
@[simp] theorem State.modStrand_refused (s : State) (p k : Nat) (f : Strand → Strand) : (s.modStrand p k f).refused = s.refused := rfl
@[simp] theorem State.modStrand_linkLost (s : State) (p k : Nat) (f : Strand → Strand) : (s.modStrand p k f).linkLost = s.linkLost := rfl
@[simp] theorem State.modStrand_dbgOp (s : State) (p k : Nat) (f : Strand → Strand) : (s.modStrand p k f).dbgOp = s.dbgOp := rfl
@[simp] theorem State.modStrand_dbgState (s : State) (p k : Nat) (f : Strand → Strand) : (s.modStrand p k f).dbgState = s.dbgState := rfl
@[simp] theorem State.modStrand_dbgCtx (s : State) (p k : Nat) (f : Strand → Strand) : (s.modStrand p k f).dbgCtx = s.dbgCtx := rfl
@[simp] theorem State.modStrand_dbgBase (s : State) (p k : Nat) (f : Strand → Strand) : (s.modStrand p k f).dbgBase = s.dbgBase := rfl
@[simp] theorem State.modStrand_dbgsel (s : State) (p k : Nat) (f : Strand → Strand) : (s.modStrand p k f).dbgsel = s.dbgsel := rfl
@[simp] theorem State.modStrand_ready (s : State) (p k : Nat) (f : Strand → Strand) : (s.modStrand p k f).ready = s.ready := rfl
@[simp] theorem State.modStrand_bootStep (s : State) (p k : Nat) (f : Strand → Strand) : (s.modStrand p k f).bootStep = s.bootStep := rfl
@[simp] theorem State.modStrand_bootFail (s : State) (p k : Nat) (f : Strand → Strand) : (s.modStrand p k f).bootFail = s.bootFail := rfl
@[simp] theorem State.modStrand_passed (s : State) (p k : Nat) (f : Strand → Strand) : (s.modStrand p k f).passed = s.passed := rfl
@[simp] theorem State.modStrand_enovh (s : State) (p k : Nat) (f : Strand → Strand) : (s.modStrand p k f).enovh = s.enovh := rfl
@[simp] theorem State.modStrand_enctx (s : State) (p k : Nat) (f : Strand → Strand) : (s.modStrand p k f).enctx = s.enctx := rfl
@[simp] theorem State.modStrand_ports (s : State) (p k : Nat) (f : Strand → Strand) : (s.modStrand p k f).ports = s.ports := rfl
@[simp] theorem State.modStrand_burst (s : State) (p k : Nat) (f : Strand → Strand) : (s.modStrand p k f).burst = s.burst := rfl
@[simp] theorem State.modStrand_queues (s : State) (p k : Nat) (f : Strand → Strand) : (s.modStrand p k f).queues = s.queues := rfl
@[simp] theorem State.modStrand_hostUp (s : State) (p k : Nat) (f : Strand → Strand) : (s.modStrand p k f).hostUp = s.hostUp := rfl
@[simp] theorem State.modStrand_msixHeld (s : State) (p k : Nat) (f : Strand → Strand) : (s.modStrand p k f).msixHeld = s.msixHeld := rfl
@[simp] theorem State.modStrand_msix (s : State) (p k : Nat) (f : Strand → Strand) : (s.modStrand p k f).msix = s.msix := rfl
@[simp] theorem State.modStrand_hostReads (s : State) (p k : Nat) (f : Strand → Strand) : (s.modStrand p k f).hostReads = s.hostReads := rfl
@[simp] theorem State.modStrand_hdmsz (s : State) (p k : Nat) (f : Strand → Strand) : (s.modStrand p k f).hdmsz = s.hdmsz := rfl
@[simp] theorem State.modStrand_rstKind (s : State) (p k : Nat) (f : Strand → Strand) : (s.modStrand p k f).rstKind = s.rstKind := rfl
@[simp] theorem State.modStrand_rstT4 (s : State) (p k : Nat) (f : Strand → Strand) : (s.modStrand p k f).rstT4 = s.rstT4 := rfl
@[simp] theorem State.modStrand_rstT4die (s : State) (p k : Nat) (f : Strand → Strand) : (s.modStrand p k f).rstT4die = s.rstT4die := rfl
@[simp] theorem State.modStrand_rstScrub (s : State) (p k : Nat) (f : Strand → Strand) : (s.modStrand p k f).rstScrub = s.rstScrub := rfl
@[simp] theorem State.modStrand_rstTick (s : State) (p k : Nat) (f : Strand → Strand) : (s.modStrand p k f).rstTick = s.rstTick := rfl
@[simp] theorem State.modStrand_tableHash (s : State) (p k : Nat) (f : Strand → Strand) : (s.modStrand p k f).tableHash = s.tableHash := rfl
@[simp] theorem State.modStrand_fwHash (s : State) (p k : Nat) (f : Strand → Strand) : (s.modStrand p k f).fwHash = s.fwHash := rfl
@[simp] theorem State.modStrand_ctxs (s : State) (p k : Nat) (f : Strand → Strand) : (s.modStrand p k f).ctxs = s.ctxs := rfl
@[simp] theorem State.modStrand_parts (s : State) (p k : Nat) (f : Strand → Strand) : (s.modStrand p k f).parts = s.parts := rfl
@[simp] theorem State.modStrand_tracts (s : State) (p k : Nat) (f : Strand → Strand) : (s.modStrand p k f).tracts = s.tracts := rfl
@[simp] theorem State.modStrand_insts (s : State) (p k : Nat) (f : Strand → Strand) : (s.modStrand p k f).insts = s.insts := rfl
@[simp] theorem State.modStrand_records (s : State) (p k : Nat) (f : Strand → Strand) : (s.modStrand p k f).records = s.records := rfl
@[simp] theorem State.modStrand_ringCount (s : State) (p k : Nat) (f : Strand → Strand) : (s.modStrand p k f).ringCount = s.ringCount := rfl
@[simp] theorem State.modStrand_messages (s : State) (p k : Nat) (f : Strand → Strand) : (s.modStrand p k f).messages = s.messages := rfl
@[simp] theorem State.modStrand_transfers (s : State) (p k : Nat) (f : Strand → Strand) : (s.modStrand p k f).transfers = s.transfers := rfl
@[simp] theorem State.modStrand_closures (s : State) (p k : Nat) (f : Strand → Strand) : (s.modStrand p k f).closures = s.closures := rfl
@[simp] theorem State.modStrand_nextId (s : State) (p k : Nat) (f : Strand → Strand) : (s.modStrand p k f).nextId = s.nextId := rfl
@[simp] theorem State.modStrand_agenda (s : State) (p k : Nat) (f : Strand → Strand) : (s.modStrand p k f).agenda = s.agenda := rfl
@[simp] theorem State.modStrand_focus (s : State) (p k : Nat) (f : Strand → Strand) : (s.modStrand p k f).focus = s.focus := rfl
@[simp] theorem State.modStrand_fresh (s : State) (p k : Nat) (f : Strand → Strand) : (s.modStrand p k f).fresh = s.fresh := rfl

/-! ### `State.blendRow` -/

@[simp] theorem State.blendRow_now (s : State) (p r : Nat) (m v : Row) : (s.blendRow p r m v).now = s.now := rfl
@[simp] theorem State.blendRow_part (s : State) (p r : Nat) (m v : Row) : (s.blendRow p r m v).part = s.part := rfl
@[simp] theorem State.blendRow_plumbW (s : State) (p r : Nat) (m v : Row) : (s.blendRow p r m v).plumbW = s.plumbW := rfl
@[simp] theorem State.blendRow_plumbCol (s : State) (p r : Nat) (m v : Row) : (s.blendRow p r m v).plumbCol = s.plumbCol := rfl
@[simp] theorem State.blendRow_clusters (s : State) (p r : Nat) (m v : Row) : (s.blendRow p r m v).clusters = s.clusters := rfl
@[simp] theorem State.blendRow_dies (s : State) (p r : Nat) (m v : Row) : (s.blendRow p r m v).dies = s.dies := rfl
@[simp] theorem State.blendRow_mem (s : State) (p r : Nat) (m v : Row) : (s.blendRow p r m v).mem = s.mem := rfl
@[simp] theorem State.blendRow_full (s : State) (p r : Nat) (m v : Row) : (s.blendRow p r m v).full = s.full := rfl
@[simp] theorem State.blendRow_poison (s : State) (p r : Nat) (m v : Row) : (s.blendRow p r m v).poison = s.poison := rfl
@[simp] theorem State.blendRow_keyed (s : State) (p r : Nat) (m v : Row) : (s.blendRow p r m v).keyed = s.keyed := rfl
@[simp] theorem State.blendRow_strbase (s : State) (p r : Nat) (m v : Row) : (s.blendRow p r m v).strbase = s.strbase := rfl
@[simp] theorem State.blendRow_rmapsel (s : State) (p r : Nat) (m v : Row) : (s.blendRow p r m v).rmapsel = s.rmapsel := rfl
@[simp] theorem State.blendRow_owner (s : State) (p r : Nat) (m v : Row) : (s.blendRow p r m v).owner = s.owner := rfl
@[simp] theorem State.blendRow_ownerOp (s : State) (p r : Nat) (m v : Row) : (s.blendRow p r m v).ownerOp = s.ownerOp := rfl
@[simp] theorem State.blendRow_ownerSucc (s : State) (p r : Nat) (m v : Row) : (s.blendRow p r m v).ownerSucc = s.ownerSucc := rfl
@[simp] theorem State.blendRow_refused (s : State) (p r : Nat) (m v : Row) : (s.blendRow p r m v).refused = s.refused := rfl
@[simp] theorem State.blendRow_linkLost (s : State) (p r : Nat) (m v : Row) : (s.blendRow p r m v).linkLost = s.linkLost := rfl
@[simp] theorem State.blendRow_dbgOp (s : State) (p r : Nat) (m v : Row) : (s.blendRow p r m v).dbgOp = s.dbgOp := rfl
@[simp] theorem State.blendRow_dbgState (s : State) (p r : Nat) (m v : Row) : (s.blendRow p r m v).dbgState = s.dbgState := rfl
@[simp] theorem State.blendRow_dbgCtx (s : State) (p r : Nat) (m v : Row) : (s.blendRow p r m v).dbgCtx = s.dbgCtx := rfl
@[simp] theorem State.blendRow_dbgBase (s : State) (p r : Nat) (m v : Row) : (s.blendRow p r m v).dbgBase = s.dbgBase := rfl
@[simp] theorem State.blendRow_dbgsel (s : State) (p r : Nat) (m v : Row) : (s.blendRow p r m v).dbgsel = s.dbgsel := rfl
@[simp] theorem State.blendRow_ready (s : State) (p r : Nat) (m v : Row) : (s.blendRow p r m v).ready = s.ready := rfl
@[simp] theorem State.blendRow_bootStep (s : State) (p r : Nat) (m v : Row) : (s.blendRow p r m v).bootStep = s.bootStep := rfl
@[simp] theorem State.blendRow_bootFail (s : State) (p r : Nat) (m v : Row) : (s.blendRow p r m v).bootFail = s.bootFail := rfl
@[simp] theorem State.blendRow_passed (s : State) (p r : Nat) (m v : Row) : (s.blendRow p r m v).passed = s.passed := rfl
@[simp] theorem State.blendRow_enovh (s : State) (p r : Nat) (m v : Row) : (s.blendRow p r m v).enovh = s.enovh := rfl
@[simp] theorem State.blendRow_enctx (s : State) (p r : Nat) (m v : Row) : (s.blendRow p r m v).enctx = s.enctx := rfl
@[simp] theorem State.blendRow_ports (s : State) (p r : Nat) (m v : Row) : (s.blendRow p r m v).ports = s.ports := rfl
@[simp] theorem State.blendRow_burst (s : State) (p r : Nat) (m v : Row) : (s.blendRow p r m v).burst = s.burst := rfl
@[simp] theorem State.blendRow_queues (s : State) (p r : Nat) (m v : Row) : (s.blendRow p r m v).queues = s.queues := rfl
@[simp] theorem State.blendRow_hostUp (s : State) (p r : Nat) (m v : Row) : (s.blendRow p r m v).hostUp = s.hostUp := rfl
@[simp] theorem State.blendRow_msixHeld (s : State) (p r : Nat) (m v : Row) : (s.blendRow p r m v).msixHeld = s.msixHeld := rfl
@[simp] theorem State.blendRow_msix (s : State) (p r : Nat) (m v : Row) : (s.blendRow p r m v).msix = s.msix := rfl
@[simp] theorem State.blendRow_hostReads (s : State) (p r : Nat) (m v : Row) : (s.blendRow p r m v).hostReads = s.hostReads := rfl
@[simp] theorem State.blendRow_hdmsz (s : State) (p r : Nat) (m v : Row) : (s.blendRow p r m v).hdmsz = s.hdmsz := rfl
@[simp] theorem State.blendRow_rstKind (s : State) (p r : Nat) (m v : Row) : (s.blendRow p r m v).rstKind = s.rstKind := rfl
@[simp] theorem State.blendRow_rstT4 (s : State) (p r : Nat) (m v : Row) : (s.blendRow p r m v).rstT4 = s.rstT4 := rfl
@[simp] theorem State.blendRow_rstT4die (s : State) (p r : Nat) (m v : Row) : (s.blendRow p r m v).rstT4die = s.rstT4die := rfl
@[simp] theorem State.blendRow_rstScrub (s : State) (p r : Nat) (m v : Row) : (s.blendRow p r m v).rstScrub = s.rstScrub := rfl
@[simp] theorem State.blendRow_rstTick (s : State) (p r : Nat) (m v : Row) : (s.blendRow p r m v).rstTick = s.rstTick := rfl
@[simp] theorem State.blendRow_tableHash (s : State) (p r : Nat) (m v : Row) : (s.blendRow p r m v).tableHash = s.tableHash := rfl
@[simp] theorem State.blendRow_fwHash (s : State) (p r : Nat) (m v : Row) : (s.blendRow p r m v).fwHash = s.fwHash := rfl
@[simp] theorem State.blendRow_ctxs (s : State) (p r : Nat) (m v : Row) : (s.blendRow p r m v).ctxs = s.ctxs := rfl
@[simp] theorem State.blendRow_parts (s : State) (p r : Nat) (m v : Row) : (s.blendRow p r m v).parts = s.parts := rfl
@[simp] theorem State.blendRow_tracts (s : State) (p r : Nat) (m v : Row) : (s.blendRow p r m v).tracts = s.tracts := rfl
@[simp] theorem State.blendRow_insts (s : State) (p r : Nat) (m v : Row) : (s.blendRow p r m v).insts = s.insts := rfl
@[simp] theorem State.blendRow_records (s : State) (p r : Nat) (m v : Row) : (s.blendRow p r m v).records = s.records := rfl
@[simp] theorem State.blendRow_ringCount (s : State) (p r : Nat) (m v : Row) : (s.blendRow p r m v).ringCount = s.ringCount := rfl
@[simp] theorem State.blendRow_messages (s : State) (p r : Nat) (m v : Row) : (s.blendRow p r m v).messages = s.messages := rfl
@[simp] theorem State.blendRow_transfers (s : State) (p r : Nat) (m v : Row) : (s.blendRow p r m v).transfers = s.transfers := rfl
@[simp] theorem State.blendRow_closures (s : State) (p r : Nat) (m v : Row) : (s.blendRow p r m v).closures = s.closures := rfl
@[simp] theorem State.blendRow_nextId (s : State) (p r : Nat) (m v : Row) : (s.blendRow p r m v).nextId = s.nextId := rfl
@[simp] theorem State.blendRow_agenda (s : State) (p r : Nat) (m v : Row) : (s.blendRow p r m v).agenda = s.agenda := rfl
@[simp] theorem State.blendRow_focus (s : State) (p r : Nat) (m v : Row) : (s.blendRow p r m v).focus = s.focus := rfl
@[simp] theorem State.blendRow_fresh (s : State) (p r : Nat) (m v : Row) : (s.blendRow p r m v).fresh = s.fresh := rfl

/-! ### `State.putWord` -/

@[simp] theorem State.putWord_now (s : State) (p r w : Nat) (v : Word) : (s.putWord p r w v).now = s.now := rfl
@[simp] theorem State.putWord_part (s : State) (p r w : Nat) (v : Word) : (s.putWord p r w v).part = s.part := rfl
@[simp] theorem State.putWord_plumbW (s : State) (p r w : Nat) (v : Word) : (s.putWord p r w v).plumbW = s.plumbW := rfl
@[simp] theorem State.putWord_plumbCol (s : State) (p r w : Nat) (v : Word) : (s.putWord p r w v).plumbCol = s.plumbCol := rfl
@[simp] theorem State.putWord_clusters (s : State) (p r w : Nat) (v : Word) : (s.putWord p r w v).clusters = s.clusters := rfl
@[simp] theorem State.putWord_dies (s : State) (p r w : Nat) (v : Word) : (s.putWord p r w v).dies = s.dies := rfl
@[simp] theorem State.putWord_mem (s : State) (p r w : Nat) (v : Word) : (s.putWord p r w v).mem = s.mem := rfl
@[simp] theorem State.putWord_full (s : State) (p r w : Nat) (v : Word) : (s.putWord p r w v).full = s.full := rfl
@[simp] theorem State.putWord_poison (s : State) (p r w : Nat) (v : Word) : (s.putWord p r w v).poison = s.poison := rfl
@[simp] theorem State.putWord_keyed (s : State) (p r w : Nat) (v : Word) : (s.putWord p r w v).keyed = s.keyed := rfl
@[simp] theorem State.putWord_strbase (s : State) (p r w : Nat) (v : Word) : (s.putWord p r w v).strbase = s.strbase := rfl
@[simp] theorem State.putWord_rmapsel (s : State) (p r w : Nat) (v : Word) : (s.putWord p r w v).rmapsel = s.rmapsel := rfl
@[simp] theorem State.putWord_owner (s : State) (p r w : Nat) (v : Word) : (s.putWord p r w v).owner = s.owner := rfl
@[simp] theorem State.putWord_ownerOp (s : State) (p r w : Nat) (v : Word) : (s.putWord p r w v).ownerOp = s.ownerOp := rfl
@[simp] theorem State.putWord_ownerSucc (s : State) (p r w : Nat) (v : Word) : (s.putWord p r w v).ownerSucc = s.ownerSucc := rfl
@[simp] theorem State.putWord_refused (s : State) (p r w : Nat) (v : Word) : (s.putWord p r w v).refused = s.refused := rfl
@[simp] theorem State.putWord_linkLost (s : State) (p r w : Nat) (v : Word) : (s.putWord p r w v).linkLost = s.linkLost := rfl
@[simp] theorem State.putWord_dbgOp (s : State) (p r w : Nat) (v : Word) : (s.putWord p r w v).dbgOp = s.dbgOp := rfl
@[simp] theorem State.putWord_dbgState (s : State) (p r w : Nat) (v : Word) : (s.putWord p r w v).dbgState = s.dbgState := rfl
@[simp] theorem State.putWord_dbgCtx (s : State) (p r w : Nat) (v : Word) : (s.putWord p r w v).dbgCtx = s.dbgCtx := rfl
@[simp] theorem State.putWord_dbgBase (s : State) (p r w : Nat) (v : Word) : (s.putWord p r w v).dbgBase = s.dbgBase := rfl
@[simp] theorem State.putWord_dbgsel (s : State) (p r w : Nat) (v : Word) : (s.putWord p r w v).dbgsel = s.dbgsel := rfl
@[simp] theorem State.putWord_ready (s : State) (p r w : Nat) (v : Word) : (s.putWord p r w v).ready = s.ready := rfl
@[simp] theorem State.putWord_bootStep (s : State) (p r w : Nat) (v : Word) : (s.putWord p r w v).bootStep = s.bootStep := rfl
@[simp] theorem State.putWord_bootFail (s : State) (p r w : Nat) (v : Word) : (s.putWord p r w v).bootFail = s.bootFail := rfl
@[simp] theorem State.putWord_passed (s : State) (p r w : Nat) (v : Word) : (s.putWord p r w v).passed = s.passed := rfl
@[simp] theorem State.putWord_enovh (s : State) (p r w : Nat) (v : Word) : (s.putWord p r w v).enovh = s.enovh := rfl
@[simp] theorem State.putWord_enctx (s : State) (p r w : Nat) (v : Word) : (s.putWord p r w v).enctx = s.enctx := rfl
@[simp] theorem State.putWord_ports (s : State) (p r w : Nat) (v : Word) : (s.putWord p r w v).ports = s.ports := rfl
@[simp] theorem State.putWord_burst (s : State) (p r w : Nat) (v : Word) : (s.putWord p r w v).burst = s.burst := rfl
@[simp] theorem State.putWord_queues (s : State) (p r w : Nat) (v : Word) : (s.putWord p r w v).queues = s.queues := rfl
@[simp] theorem State.putWord_hostUp (s : State) (p r w : Nat) (v : Word) : (s.putWord p r w v).hostUp = s.hostUp := rfl
@[simp] theorem State.putWord_msixHeld (s : State) (p r w : Nat) (v : Word) : (s.putWord p r w v).msixHeld = s.msixHeld := rfl
@[simp] theorem State.putWord_msix (s : State) (p r w : Nat) (v : Word) : (s.putWord p r w v).msix = s.msix := rfl
@[simp] theorem State.putWord_hostReads (s : State) (p r w : Nat) (v : Word) : (s.putWord p r w v).hostReads = s.hostReads := rfl
@[simp] theorem State.putWord_hdmsz (s : State) (p r w : Nat) (v : Word) : (s.putWord p r w v).hdmsz = s.hdmsz := rfl
@[simp] theorem State.putWord_rstKind (s : State) (p r w : Nat) (v : Word) : (s.putWord p r w v).rstKind = s.rstKind := rfl
@[simp] theorem State.putWord_rstT4 (s : State) (p r w : Nat) (v : Word) : (s.putWord p r w v).rstT4 = s.rstT4 := rfl
@[simp] theorem State.putWord_rstT4die (s : State) (p r w : Nat) (v : Word) : (s.putWord p r w v).rstT4die = s.rstT4die := rfl
@[simp] theorem State.putWord_rstScrub (s : State) (p r w : Nat) (v : Word) : (s.putWord p r w v).rstScrub = s.rstScrub := rfl
@[simp] theorem State.putWord_rstTick (s : State) (p r w : Nat) (v : Word) : (s.putWord p r w v).rstTick = s.rstTick := rfl
@[simp] theorem State.putWord_tableHash (s : State) (p r w : Nat) (v : Word) : (s.putWord p r w v).tableHash = s.tableHash := rfl
@[simp] theorem State.putWord_fwHash (s : State) (p r w : Nat) (v : Word) : (s.putWord p r w v).fwHash = s.fwHash := rfl
@[simp] theorem State.putWord_ctxs (s : State) (p r w : Nat) (v : Word) : (s.putWord p r w v).ctxs = s.ctxs := rfl
@[simp] theorem State.putWord_parts (s : State) (p r w : Nat) (v : Word) : (s.putWord p r w v).parts = s.parts := rfl
@[simp] theorem State.putWord_tracts (s : State) (p r w : Nat) (v : Word) : (s.putWord p r w v).tracts = s.tracts := rfl
@[simp] theorem State.putWord_insts (s : State) (p r w : Nat) (v : Word) : (s.putWord p r w v).insts = s.insts := rfl
@[simp] theorem State.putWord_records (s : State) (p r w : Nat) (v : Word) : (s.putWord p r w v).records = s.records := rfl
@[simp] theorem State.putWord_ringCount (s : State) (p r w : Nat) (v : Word) : (s.putWord p r w v).ringCount = s.ringCount := rfl
@[simp] theorem State.putWord_messages (s : State) (p r w : Nat) (v : Word) : (s.putWord p r w v).messages = s.messages := rfl
@[simp] theorem State.putWord_transfers (s : State) (p r w : Nat) (v : Word) : (s.putWord p r w v).transfers = s.transfers := rfl
@[simp] theorem State.putWord_closures (s : State) (p r w : Nat) (v : Word) : (s.putWord p r w v).closures = s.closures := rfl
@[simp] theorem State.putWord_nextId (s : State) (p r w : Nat) (v : Word) : (s.putWord p r w v).nextId = s.nextId := rfl
@[simp] theorem State.putWord_agenda (s : State) (p r w : Nat) (v : Word) : (s.putWord p r w v).agenda = s.agenda := rfl
@[simp] theorem State.putWord_focus (s : State) (p r w : Nat) (v : Word) : (s.putWord p r w v).focus = s.focus := rfl
@[simp] theorem State.putWord_fresh (s : State) (p r w : Nat) (v : Word) : (s.putWord p r w v).fresh = s.fresh := rfl

/-! ### `State.goto` -/

@[simp] theorem State.goto_now (s : State) (p k : Nat) (a : Word) : (s.goto p k a).now = s.now := rfl
@[simp] theorem State.goto_part (s : State) (p k : Nat) (a : Word) : (s.goto p k a).part = s.part := rfl
@[simp] theorem State.goto_plumbW (s : State) (p k : Nat) (a : Word) : (s.goto p k a).plumbW = s.plumbW := rfl
@[simp] theorem State.goto_plumbCol (s : State) (p k : Nat) (a : Word) : (s.goto p k a).plumbCol = s.plumbCol := rfl
@[simp] theorem State.goto_clusters (s : State) (p k : Nat) (a : Word) : (s.goto p k a).clusters = s.clusters := rfl
@[simp] theorem State.goto_dies (s : State) (p k : Nat) (a : Word) : (s.goto p k a).dies = s.dies := rfl
@[simp] theorem State.goto_mem (s : State) (p k : Nat) (a : Word) : (s.goto p k a).mem = s.mem := rfl
@[simp] theorem State.goto_full (s : State) (p k : Nat) (a : Word) : (s.goto p k a).full = s.full := rfl
@[simp] theorem State.goto_poison (s : State) (p k : Nat) (a : Word) : (s.goto p k a).poison = s.poison := rfl
@[simp] theorem State.goto_keyed (s : State) (p k : Nat) (a : Word) : (s.goto p k a).keyed = s.keyed := rfl
@[simp] theorem State.goto_strbase (s : State) (p k : Nat) (a : Word) : (s.goto p k a).strbase = s.strbase := rfl
@[simp] theorem State.goto_rmapsel (s : State) (p k : Nat) (a : Word) : (s.goto p k a).rmapsel = s.rmapsel := rfl
@[simp] theorem State.goto_owner (s : State) (p k : Nat) (a : Word) : (s.goto p k a).owner = s.owner := rfl
@[simp] theorem State.goto_ownerOp (s : State) (p k : Nat) (a : Word) : (s.goto p k a).ownerOp = s.ownerOp := rfl
@[simp] theorem State.goto_ownerSucc (s : State) (p k : Nat) (a : Word) : (s.goto p k a).ownerSucc = s.ownerSucc := rfl
@[simp] theorem State.goto_refused (s : State) (p k : Nat) (a : Word) : (s.goto p k a).refused = s.refused := rfl
@[simp] theorem State.goto_linkLost (s : State) (p k : Nat) (a : Word) : (s.goto p k a).linkLost = s.linkLost := rfl
@[simp] theorem State.goto_dbgOp (s : State) (p k : Nat) (a : Word) : (s.goto p k a).dbgOp = s.dbgOp := rfl
@[simp] theorem State.goto_dbgState (s : State) (p k : Nat) (a : Word) : (s.goto p k a).dbgState = s.dbgState := rfl
@[simp] theorem State.goto_dbgCtx (s : State) (p k : Nat) (a : Word) : (s.goto p k a).dbgCtx = s.dbgCtx := rfl
@[simp] theorem State.goto_dbgBase (s : State) (p k : Nat) (a : Word) : (s.goto p k a).dbgBase = s.dbgBase := rfl
@[simp] theorem State.goto_dbgsel (s : State) (p k : Nat) (a : Word) : (s.goto p k a).dbgsel = s.dbgsel := rfl
@[simp] theorem State.goto_ready (s : State) (p k : Nat) (a : Word) : (s.goto p k a).ready = s.ready := rfl
@[simp] theorem State.goto_bootStep (s : State) (p k : Nat) (a : Word) : (s.goto p k a).bootStep = s.bootStep := rfl
@[simp] theorem State.goto_bootFail (s : State) (p k : Nat) (a : Word) : (s.goto p k a).bootFail = s.bootFail := rfl
@[simp] theorem State.goto_passed (s : State) (p k : Nat) (a : Word) : (s.goto p k a).passed = s.passed := rfl
@[simp] theorem State.goto_enovh (s : State) (p k : Nat) (a : Word) : (s.goto p k a).enovh = s.enovh := rfl
@[simp] theorem State.goto_enctx (s : State) (p k : Nat) (a : Word) : (s.goto p k a).enctx = s.enctx := rfl
@[simp] theorem State.goto_ports (s : State) (p k : Nat) (a : Word) : (s.goto p k a).ports = s.ports := rfl
@[simp] theorem State.goto_burst (s : State) (p k : Nat) (a : Word) : (s.goto p k a).burst = s.burst := rfl
@[simp] theorem State.goto_queues (s : State) (p k : Nat) (a : Word) : (s.goto p k a).queues = s.queues := rfl
@[simp] theorem State.goto_hostUp (s : State) (p k : Nat) (a : Word) : (s.goto p k a).hostUp = s.hostUp := rfl
@[simp] theorem State.goto_msixHeld (s : State) (p k : Nat) (a : Word) : (s.goto p k a).msixHeld = s.msixHeld := rfl
@[simp] theorem State.goto_msix (s : State) (p k : Nat) (a : Word) : (s.goto p k a).msix = s.msix := rfl
@[simp] theorem State.goto_hostReads (s : State) (p k : Nat) (a : Word) : (s.goto p k a).hostReads = s.hostReads := rfl
@[simp] theorem State.goto_hdmsz (s : State) (p k : Nat) (a : Word) : (s.goto p k a).hdmsz = s.hdmsz := rfl
@[simp] theorem State.goto_rstKind (s : State) (p k : Nat) (a : Word) : (s.goto p k a).rstKind = s.rstKind := rfl
@[simp] theorem State.goto_rstT4 (s : State) (p k : Nat) (a : Word) : (s.goto p k a).rstT4 = s.rstT4 := rfl
@[simp] theorem State.goto_rstT4die (s : State) (p k : Nat) (a : Word) : (s.goto p k a).rstT4die = s.rstT4die := rfl
@[simp] theorem State.goto_rstScrub (s : State) (p k : Nat) (a : Word) : (s.goto p k a).rstScrub = s.rstScrub := rfl
@[simp] theorem State.goto_rstTick (s : State) (p k : Nat) (a : Word) : (s.goto p k a).rstTick = s.rstTick := rfl
@[simp] theorem State.goto_tableHash (s : State) (p k : Nat) (a : Word) : (s.goto p k a).tableHash = s.tableHash := rfl
@[simp] theorem State.goto_fwHash (s : State) (p k : Nat) (a : Word) : (s.goto p k a).fwHash = s.fwHash := rfl
@[simp] theorem State.goto_ctxs (s : State) (p k : Nat) (a : Word) : (s.goto p k a).ctxs = s.ctxs := rfl
@[simp] theorem State.goto_parts (s : State) (p k : Nat) (a : Word) : (s.goto p k a).parts = s.parts := rfl
@[simp] theorem State.goto_tracts (s : State) (p k : Nat) (a : Word) : (s.goto p k a).tracts = s.tracts := rfl
@[simp] theorem State.goto_insts (s : State) (p k : Nat) (a : Word) : (s.goto p k a).insts = s.insts := rfl
@[simp] theorem State.goto_records (s : State) (p k : Nat) (a : Word) : (s.goto p k a).records = s.records := rfl
@[simp] theorem State.goto_ringCount (s : State) (p k : Nat) (a : Word) : (s.goto p k a).ringCount = s.ringCount := rfl
@[simp] theorem State.goto_messages (s : State) (p k : Nat) (a : Word) : (s.goto p k a).messages = s.messages := rfl
@[simp] theorem State.goto_transfers (s : State) (p k : Nat) (a : Word) : (s.goto p k a).transfers = s.transfers := rfl
@[simp] theorem State.goto_closures (s : State) (p k : Nat) (a : Word) : (s.goto p k a).closures = s.closures := rfl
@[simp] theorem State.goto_nextId (s : State) (p k : Nat) (a : Word) : (s.goto p k a).nextId = s.nextId := rfl
@[simp] theorem State.goto_agenda (s : State) (p k : Nat) (a : Word) : (s.goto p k a).agenda = s.agenda := rfl
@[simp] theorem State.goto_focus (s : State) (p k : Nat) (a : Word) : (s.goto p k a).focus = s.focus := rfl
@[simp] theorem State.goto_fresh (s : State) (p k : Nat) (a : Word) : (s.goto p k a).fresh = s.fresh := rfl

/-! ### `State.modCluster` -/

@[simp] theorem State.modCluster_now (s : State) (n : Nat) (f : Cluster → Cluster) : (s.modCluster n f).now = s.now := rfl
@[simp] theorem State.modCluster_part (s : State) (n : Nat) (f : Cluster → Cluster) : (s.modCluster n f).part = s.part := rfl
@[simp] theorem State.modCluster_plumbW (s : State) (n : Nat) (f : Cluster → Cluster) : (s.modCluster n f).plumbW = s.plumbW := rfl
@[simp] theorem State.modCluster_plumbCol (s : State) (n : Nat) (f : Cluster → Cluster) : (s.modCluster n f).plumbCol = s.plumbCol := rfl
@[simp] theorem State.modCluster_cores (s : State) (n : Nat) (f : Cluster → Cluster) : (s.modCluster n f).cores = s.cores := rfl
@[simp] theorem State.modCluster_dies (s : State) (n : Nat) (f : Cluster → Cluster) : (s.modCluster n f).dies = s.dies := rfl
@[simp] theorem State.modCluster_mem (s : State) (n : Nat) (f : Cluster → Cluster) : (s.modCluster n f).mem = s.mem := rfl
@[simp] theorem State.modCluster_full (s : State) (n : Nat) (f : Cluster → Cluster) : (s.modCluster n f).full = s.full := rfl
@[simp] theorem State.modCluster_poison (s : State) (n : Nat) (f : Cluster → Cluster) : (s.modCluster n f).poison = s.poison := rfl
@[simp] theorem State.modCluster_keyed (s : State) (n : Nat) (f : Cluster → Cluster) : (s.modCluster n f).keyed = s.keyed := rfl
@[simp] theorem State.modCluster_strbase (s : State) (n : Nat) (f : Cluster → Cluster) : (s.modCluster n f).strbase = s.strbase := rfl
@[simp] theorem State.modCluster_rmapsel (s : State) (n : Nat) (f : Cluster → Cluster) : (s.modCluster n f).rmapsel = s.rmapsel := rfl
@[simp] theorem State.modCluster_owner (s : State) (n : Nat) (f : Cluster → Cluster) : (s.modCluster n f).owner = s.owner := rfl
@[simp] theorem State.modCluster_ownerOp (s : State) (n : Nat) (f : Cluster → Cluster) : (s.modCluster n f).ownerOp = s.ownerOp := rfl
@[simp] theorem State.modCluster_ownerSucc (s : State) (n : Nat) (f : Cluster → Cluster) : (s.modCluster n f).ownerSucc = s.ownerSucc := rfl
@[simp] theorem State.modCluster_refused (s : State) (n : Nat) (f : Cluster → Cluster) : (s.modCluster n f).refused = s.refused := rfl
@[simp] theorem State.modCluster_linkLost (s : State) (n : Nat) (f : Cluster → Cluster) : (s.modCluster n f).linkLost = s.linkLost := rfl
@[simp] theorem State.modCluster_dbgOp (s : State) (n : Nat) (f : Cluster → Cluster) : (s.modCluster n f).dbgOp = s.dbgOp := rfl
@[simp] theorem State.modCluster_dbgState (s : State) (n : Nat) (f : Cluster → Cluster) : (s.modCluster n f).dbgState = s.dbgState := rfl
@[simp] theorem State.modCluster_dbgCtx (s : State) (n : Nat) (f : Cluster → Cluster) : (s.modCluster n f).dbgCtx = s.dbgCtx := rfl
@[simp] theorem State.modCluster_dbgBase (s : State) (n : Nat) (f : Cluster → Cluster) : (s.modCluster n f).dbgBase = s.dbgBase := rfl
@[simp] theorem State.modCluster_dbgsel (s : State) (n : Nat) (f : Cluster → Cluster) : (s.modCluster n f).dbgsel = s.dbgsel := rfl
@[simp] theorem State.modCluster_ready (s : State) (n : Nat) (f : Cluster → Cluster) : (s.modCluster n f).ready = s.ready := rfl
@[simp] theorem State.modCluster_bootStep (s : State) (n : Nat) (f : Cluster → Cluster) : (s.modCluster n f).bootStep = s.bootStep := rfl
@[simp] theorem State.modCluster_bootFail (s : State) (n : Nat) (f : Cluster → Cluster) : (s.modCluster n f).bootFail = s.bootFail := rfl
@[simp] theorem State.modCluster_passed (s : State) (n : Nat) (f : Cluster → Cluster) : (s.modCluster n f).passed = s.passed := rfl
@[simp] theorem State.modCluster_enovh (s : State) (n : Nat) (f : Cluster → Cluster) : (s.modCluster n f).enovh = s.enovh := rfl
@[simp] theorem State.modCluster_enctx (s : State) (n : Nat) (f : Cluster → Cluster) : (s.modCluster n f).enctx = s.enctx := rfl
@[simp] theorem State.modCluster_ports (s : State) (n : Nat) (f : Cluster → Cluster) : (s.modCluster n f).ports = s.ports := rfl
@[simp] theorem State.modCluster_burst (s : State) (n : Nat) (f : Cluster → Cluster) : (s.modCluster n f).burst = s.burst := rfl
@[simp] theorem State.modCluster_queues (s : State) (n : Nat) (f : Cluster → Cluster) : (s.modCluster n f).queues = s.queues := rfl
@[simp] theorem State.modCluster_hostUp (s : State) (n : Nat) (f : Cluster → Cluster) : (s.modCluster n f).hostUp = s.hostUp := rfl
@[simp] theorem State.modCluster_msixHeld (s : State) (n : Nat) (f : Cluster → Cluster) : (s.modCluster n f).msixHeld = s.msixHeld := rfl
@[simp] theorem State.modCluster_msix (s : State) (n : Nat) (f : Cluster → Cluster) : (s.modCluster n f).msix = s.msix := rfl
@[simp] theorem State.modCluster_hostReads (s : State) (n : Nat) (f : Cluster → Cluster) : (s.modCluster n f).hostReads = s.hostReads := rfl
@[simp] theorem State.modCluster_hdmsz (s : State) (n : Nat) (f : Cluster → Cluster) : (s.modCluster n f).hdmsz = s.hdmsz := rfl
@[simp] theorem State.modCluster_rstKind (s : State) (n : Nat) (f : Cluster → Cluster) : (s.modCluster n f).rstKind = s.rstKind := rfl
@[simp] theorem State.modCluster_rstT4 (s : State) (n : Nat) (f : Cluster → Cluster) : (s.modCluster n f).rstT4 = s.rstT4 := rfl
@[simp] theorem State.modCluster_rstT4die (s : State) (n : Nat) (f : Cluster → Cluster) : (s.modCluster n f).rstT4die = s.rstT4die := rfl
@[simp] theorem State.modCluster_rstScrub (s : State) (n : Nat) (f : Cluster → Cluster) : (s.modCluster n f).rstScrub = s.rstScrub := rfl
@[simp] theorem State.modCluster_rstTick (s : State) (n : Nat) (f : Cluster → Cluster) : (s.modCluster n f).rstTick = s.rstTick := rfl
@[simp] theorem State.modCluster_tableHash (s : State) (n : Nat) (f : Cluster → Cluster) : (s.modCluster n f).tableHash = s.tableHash := rfl
@[simp] theorem State.modCluster_fwHash (s : State) (n : Nat) (f : Cluster → Cluster) : (s.modCluster n f).fwHash = s.fwHash := rfl
@[simp] theorem State.modCluster_ctxs (s : State) (n : Nat) (f : Cluster → Cluster) : (s.modCluster n f).ctxs = s.ctxs := rfl
@[simp] theorem State.modCluster_parts (s : State) (n : Nat) (f : Cluster → Cluster) : (s.modCluster n f).parts = s.parts := rfl
@[simp] theorem State.modCluster_tracts (s : State) (n : Nat) (f : Cluster → Cluster) : (s.modCluster n f).tracts = s.tracts := rfl
@[simp] theorem State.modCluster_insts (s : State) (n : Nat) (f : Cluster → Cluster) : (s.modCluster n f).insts = s.insts := rfl
@[simp] theorem State.modCluster_records (s : State) (n : Nat) (f : Cluster → Cluster) : (s.modCluster n f).records = s.records := rfl
@[simp] theorem State.modCluster_ringCount (s : State) (n : Nat) (f : Cluster → Cluster) : (s.modCluster n f).ringCount = s.ringCount := rfl
@[simp] theorem State.modCluster_messages (s : State) (n : Nat) (f : Cluster → Cluster) : (s.modCluster n f).messages = s.messages := rfl
@[simp] theorem State.modCluster_transfers (s : State) (n : Nat) (f : Cluster → Cluster) : (s.modCluster n f).transfers = s.transfers := rfl
@[simp] theorem State.modCluster_closures (s : State) (n : Nat) (f : Cluster → Cluster) : (s.modCluster n f).closures = s.closures := rfl
@[simp] theorem State.modCluster_nextId (s : State) (n : Nat) (f : Cluster → Cluster) : (s.modCluster n f).nextId = s.nextId := rfl
@[simp] theorem State.modCluster_agenda (s : State) (n : Nat) (f : Cluster → Cluster) : (s.modCluster n f).agenda = s.agenda := rfl
@[simp] theorem State.modCluster_focus (s : State) (n : Nat) (f : Cluster → Cluster) : (s.modCluster n f).focus = s.focus := rfl
@[simp] theorem State.modCluster_fresh (s : State) (n : Nat) (f : Cluster → Cluster) : (s.modCluster n f).fresh = s.fresh := rfl

/-! ### `State.markStale` -/

@[simp] theorem State.markStale_now (s : State) (a n : Nat) : (s.markStale a n).now = s.now := rfl
@[simp] theorem State.markStale_part (s : State) (a n : Nat) : (s.markStale a n).part = s.part := rfl
@[simp] theorem State.markStale_plumbW (s : State) (a n : Nat) : (s.markStale a n).plumbW = s.plumbW := rfl
@[simp] theorem State.markStale_plumbCol (s : State) (a n : Nat) : (s.markStale a n).plumbCol = s.plumbCol := rfl
@[simp] theorem State.markStale_cores (s : State) (a n : Nat) : (s.markStale a n).cores = s.cores := rfl
@[simp] theorem State.markStale_dies (s : State) (a n : Nat) : (s.markStale a n).dies = s.dies := rfl
@[simp] theorem State.markStale_mem (s : State) (a n : Nat) : (s.markStale a n).mem = s.mem := rfl
@[simp] theorem State.markStale_full (s : State) (a n : Nat) : (s.markStale a n).full = s.full := rfl
@[simp] theorem State.markStale_poison (s : State) (a n : Nat) : (s.markStale a n).poison = s.poison := rfl
@[simp] theorem State.markStale_keyed (s : State) (a n : Nat) : (s.markStale a n).keyed = s.keyed := rfl
@[simp] theorem State.markStale_strbase (s : State) (a n : Nat) : (s.markStale a n).strbase = s.strbase := rfl
@[simp] theorem State.markStale_rmapsel (s : State) (a n : Nat) : (s.markStale a n).rmapsel = s.rmapsel := rfl
@[simp] theorem State.markStale_owner (s : State) (a n : Nat) : (s.markStale a n).owner = s.owner := rfl
@[simp] theorem State.markStale_ownerOp (s : State) (a n : Nat) : (s.markStale a n).ownerOp = s.ownerOp := rfl
@[simp] theorem State.markStale_ownerSucc (s : State) (a n : Nat) : (s.markStale a n).ownerSucc = s.ownerSucc := rfl
@[simp] theorem State.markStale_refused (s : State) (a n : Nat) : (s.markStale a n).refused = s.refused := rfl
@[simp] theorem State.markStale_linkLost (s : State) (a n : Nat) : (s.markStale a n).linkLost = s.linkLost := rfl
@[simp] theorem State.markStale_dbgOp (s : State) (a n : Nat) : (s.markStale a n).dbgOp = s.dbgOp := rfl
@[simp] theorem State.markStale_dbgState (s : State) (a n : Nat) : (s.markStale a n).dbgState = s.dbgState := rfl
@[simp] theorem State.markStale_dbgCtx (s : State) (a n : Nat) : (s.markStale a n).dbgCtx = s.dbgCtx := rfl
@[simp] theorem State.markStale_dbgBase (s : State) (a n : Nat) : (s.markStale a n).dbgBase = s.dbgBase := rfl
@[simp] theorem State.markStale_dbgsel (s : State) (a n : Nat) : (s.markStale a n).dbgsel = s.dbgsel := rfl
@[simp] theorem State.markStale_ready (s : State) (a n : Nat) : (s.markStale a n).ready = s.ready := rfl
@[simp] theorem State.markStale_bootStep (s : State) (a n : Nat) : (s.markStale a n).bootStep = s.bootStep := rfl
@[simp] theorem State.markStale_bootFail (s : State) (a n : Nat) : (s.markStale a n).bootFail = s.bootFail := rfl
@[simp] theorem State.markStale_passed (s : State) (a n : Nat) : (s.markStale a n).passed = s.passed := rfl
@[simp] theorem State.markStale_enovh (s : State) (a n : Nat) : (s.markStale a n).enovh = s.enovh := rfl
@[simp] theorem State.markStale_enctx (s : State) (a n : Nat) : (s.markStale a n).enctx = s.enctx := rfl
@[simp] theorem State.markStale_ports (s : State) (a n : Nat) : (s.markStale a n).ports = s.ports := rfl
@[simp] theorem State.markStale_burst (s : State) (a n : Nat) : (s.markStale a n).burst = s.burst := rfl
@[simp] theorem State.markStale_queues (s : State) (a n : Nat) : (s.markStale a n).queues = s.queues := rfl
@[simp] theorem State.markStale_hostUp (s : State) (a n : Nat) : (s.markStale a n).hostUp = s.hostUp := rfl
@[simp] theorem State.markStale_msixHeld (s : State) (a n : Nat) : (s.markStale a n).msixHeld = s.msixHeld := rfl
@[simp] theorem State.markStale_msix (s : State) (a n : Nat) : (s.markStale a n).msix = s.msix := rfl
@[simp] theorem State.markStale_hostReads (s : State) (a n : Nat) : (s.markStale a n).hostReads = s.hostReads := rfl
@[simp] theorem State.markStale_hdmsz (s : State) (a n : Nat) : (s.markStale a n).hdmsz = s.hdmsz := rfl
@[simp] theorem State.markStale_rstKind (s : State) (a n : Nat) : (s.markStale a n).rstKind = s.rstKind := rfl
@[simp] theorem State.markStale_rstT4 (s : State) (a n : Nat) : (s.markStale a n).rstT4 = s.rstT4 := rfl
@[simp] theorem State.markStale_rstT4die (s : State) (a n : Nat) : (s.markStale a n).rstT4die = s.rstT4die := rfl
@[simp] theorem State.markStale_rstScrub (s : State) (a n : Nat) : (s.markStale a n).rstScrub = s.rstScrub := rfl
@[simp] theorem State.markStale_rstTick (s : State) (a n : Nat) : (s.markStale a n).rstTick = s.rstTick := rfl
@[simp] theorem State.markStale_tableHash (s : State) (a n : Nat) : (s.markStale a n).tableHash = s.tableHash := rfl
@[simp] theorem State.markStale_fwHash (s : State) (a n : Nat) : (s.markStale a n).fwHash = s.fwHash := rfl
@[simp] theorem State.markStale_ctxs (s : State) (a n : Nat) : (s.markStale a n).ctxs = s.ctxs := rfl
@[simp] theorem State.markStale_tracts (s : State) (a n : Nat) : (s.markStale a n).tracts = s.tracts := rfl
@[simp] theorem State.markStale_insts (s : State) (a n : Nat) : (s.markStale a n).insts = s.insts := rfl
@[simp] theorem State.markStale_records (s : State) (a n : Nat) : (s.markStale a n).records = s.records := rfl
@[simp] theorem State.markStale_ringCount (s : State) (a n : Nat) : (s.markStale a n).ringCount = s.ringCount := rfl
@[simp] theorem State.markStale_messages (s : State) (a n : Nat) : (s.markStale a n).messages = s.messages := rfl
@[simp] theorem State.markStale_transfers (s : State) (a n : Nat) : (s.markStale a n).transfers = s.transfers := rfl
@[simp] theorem State.markStale_closures (s : State) (a n : Nat) : (s.markStale a n).closures = s.closures := rfl
@[simp] theorem State.markStale_nextId (s : State) (a n : Nat) : (s.markStale a n).nextId = s.nextId := rfl
@[simp] theorem State.markStale_agenda (s : State) (a n : Nat) : (s.markStale a n).agenda = s.agenda := rfl
@[simp] theorem State.markStale_focus (s : State) (a n : Nat) : (s.markStale a n).focus = s.focus := rfl
@[simp] theorem State.markStale_fresh (s : State) (a n : Nat) : (s.markStale a n).fresh = s.fresh := rfl

/-! ### `State.modDie` -/

@[simp] theorem State.modDie_now (s : State) (n : Nat) (f : Die → Die) : (s.modDie n f).now = s.now := rfl
@[simp] theorem State.modDie_part (s : State) (n : Nat) (f : Die → Die) : (s.modDie n f).part = s.part := rfl
@[simp] theorem State.modDie_plumbW (s : State) (n : Nat) (f : Die → Die) : (s.modDie n f).plumbW = s.plumbW := rfl
@[simp] theorem State.modDie_plumbCol (s : State) (n : Nat) (f : Die → Die) : (s.modDie n f).plumbCol = s.plumbCol := rfl
@[simp] theorem State.modDie_cores (s : State) (n : Nat) (f : Die → Die) : (s.modDie n f).cores = s.cores := rfl
@[simp] theorem State.modDie_clusters (s : State) (n : Nat) (f : Die → Die) : (s.modDie n f).clusters = s.clusters := rfl
@[simp] theorem State.modDie_mem (s : State) (n : Nat) (f : Die → Die) : (s.modDie n f).mem = s.mem := rfl
@[simp] theorem State.modDie_full (s : State) (n : Nat) (f : Die → Die) : (s.modDie n f).full = s.full := rfl
@[simp] theorem State.modDie_poison (s : State) (n : Nat) (f : Die → Die) : (s.modDie n f).poison = s.poison := rfl
@[simp] theorem State.modDie_keyed (s : State) (n : Nat) (f : Die → Die) : (s.modDie n f).keyed = s.keyed := rfl
@[simp] theorem State.modDie_strbase (s : State) (n : Nat) (f : Die → Die) : (s.modDie n f).strbase = s.strbase := rfl
@[simp] theorem State.modDie_rmapsel (s : State) (n : Nat) (f : Die → Die) : (s.modDie n f).rmapsel = s.rmapsel := rfl
@[simp] theorem State.modDie_owner (s : State) (n : Nat) (f : Die → Die) : (s.modDie n f).owner = s.owner := rfl
@[simp] theorem State.modDie_ownerOp (s : State) (n : Nat) (f : Die → Die) : (s.modDie n f).ownerOp = s.ownerOp := rfl
@[simp] theorem State.modDie_ownerSucc (s : State) (n : Nat) (f : Die → Die) : (s.modDie n f).ownerSucc = s.ownerSucc := rfl
@[simp] theorem State.modDie_refused (s : State) (n : Nat) (f : Die → Die) : (s.modDie n f).refused = s.refused := rfl
@[simp] theorem State.modDie_linkLost (s : State) (n : Nat) (f : Die → Die) : (s.modDie n f).linkLost = s.linkLost := rfl
@[simp] theorem State.modDie_dbgOp (s : State) (n : Nat) (f : Die → Die) : (s.modDie n f).dbgOp = s.dbgOp := rfl
@[simp] theorem State.modDie_dbgState (s : State) (n : Nat) (f : Die → Die) : (s.modDie n f).dbgState = s.dbgState := rfl
@[simp] theorem State.modDie_dbgCtx (s : State) (n : Nat) (f : Die → Die) : (s.modDie n f).dbgCtx = s.dbgCtx := rfl
@[simp] theorem State.modDie_dbgBase (s : State) (n : Nat) (f : Die → Die) : (s.modDie n f).dbgBase = s.dbgBase := rfl
@[simp] theorem State.modDie_dbgsel (s : State) (n : Nat) (f : Die → Die) : (s.modDie n f).dbgsel = s.dbgsel := rfl
@[simp] theorem State.modDie_ready (s : State) (n : Nat) (f : Die → Die) : (s.modDie n f).ready = s.ready := rfl
@[simp] theorem State.modDie_bootStep (s : State) (n : Nat) (f : Die → Die) : (s.modDie n f).bootStep = s.bootStep := rfl
@[simp] theorem State.modDie_bootFail (s : State) (n : Nat) (f : Die → Die) : (s.modDie n f).bootFail = s.bootFail := rfl
@[simp] theorem State.modDie_passed (s : State) (n : Nat) (f : Die → Die) : (s.modDie n f).passed = s.passed := rfl
@[simp] theorem State.modDie_enovh (s : State) (n : Nat) (f : Die → Die) : (s.modDie n f).enovh = s.enovh := rfl
@[simp] theorem State.modDie_enctx (s : State) (n : Nat) (f : Die → Die) : (s.modDie n f).enctx = s.enctx := rfl
@[simp] theorem State.modDie_ports (s : State) (n : Nat) (f : Die → Die) : (s.modDie n f).ports = s.ports := rfl
@[simp] theorem State.modDie_burst (s : State) (n : Nat) (f : Die → Die) : (s.modDie n f).burst = s.burst := rfl
@[simp] theorem State.modDie_queues (s : State) (n : Nat) (f : Die → Die) : (s.modDie n f).queues = s.queues := rfl
@[simp] theorem State.modDie_hostUp (s : State) (n : Nat) (f : Die → Die) : (s.modDie n f).hostUp = s.hostUp := rfl
@[simp] theorem State.modDie_msixHeld (s : State) (n : Nat) (f : Die → Die) : (s.modDie n f).msixHeld = s.msixHeld := rfl
@[simp] theorem State.modDie_msix (s : State) (n : Nat) (f : Die → Die) : (s.modDie n f).msix = s.msix := rfl
@[simp] theorem State.modDie_hostReads (s : State) (n : Nat) (f : Die → Die) : (s.modDie n f).hostReads = s.hostReads := rfl
@[simp] theorem State.modDie_hdmsz (s : State) (n : Nat) (f : Die → Die) : (s.modDie n f).hdmsz = s.hdmsz := rfl
@[simp] theorem State.modDie_rstKind (s : State) (n : Nat) (f : Die → Die) : (s.modDie n f).rstKind = s.rstKind := rfl
@[simp] theorem State.modDie_rstT4 (s : State) (n : Nat) (f : Die → Die) : (s.modDie n f).rstT4 = s.rstT4 := rfl
@[simp] theorem State.modDie_rstT4die (s : State) (n : Nat) (f : Die → Die) : (s.modDie n f).rstT4die = s.rstT4die := rfl
@[simp] theorem State.modDie_rstScrub (s : State) (n : Nat) (f : Die → Die) : (s.modDie n f).rstScrub = s.rstScrub := rfl
@[simp] theorem State.modDie_rstTick (s : State) (n : Nat) (f : Die → Die) : (s.modDie n f).rstTick = s.rstTick := rfl
@[simp] theorem State.modDie_tableHash (s : State) (n : Nat) (f : Die → Die) : (s.modDie n f).tableHash = s.tableHash := rfl
@[simp] theorem State.modDie_fwHash (s : State) (n : Nat) (f : Die → Die) : (s.modDie n f).fwHash = s.fwHash := rfl
@[simp] theorem State.modDie_ctxs (s : State) (n : Nat) (f : Die → Die) : (s.modDie n f).ctxs = s.ctxs := rfl
@[simp] theorem State.modDie_parts (s : State) (n : Nat) (f : Die → Die) : (s.modDie n f).parts = s.parts := rfl
@[simp] theorem State.modDie_tracts (s : State) (n : Nat) (f : Die → Die) : (s.modDie n f).tracts = s.tracts := rfl
@[simp] theorem State.modDie_insts (s : State) (n : Nat) (f : Die → Die) : (s.modDie n f).insts = s.insts := rfl
@[simp] theorem State.modDie_records (s : State) (n : Nat) (f : Die → Die) : (s.modDie n f).records = s.records := rfl
@[simp] theorem State.modDie_ringCount (s : State) (n : Nat) (f : Die → Die) : (s.modDie n f).ringCount = s.ringCount := rfl
@[simp] theorem State.modDie_messages (s : State) (n : Nat) (f : Die → Die) : (s.modDie n f).messages = s.messages := rfl
@[simp] theorem State.modDie_transfers (s : State) (n : Nat) (f : Die → Die) : (s.modDie n f).transfers = s.transfers := rfl
@[simp] theorem State.modDie_closures (s : State) (n : Nat) (f : Die → Die) : (s.modDie n f).closures = s.closures := rfl
@[simp] theorem State.modDie_nextId (s : State) (n : Nat) (f : Die → Die) : (s.modDie n f).nextId = s.nextId := rfl
@[simp] theorem State.modDie_agenda (s : State) (n : Nat) (f : Die → Die) : (s.modDie n f).agenda = s.agenda := rfl
@[simp] theorem State.modDie_focus (s : State) (n : Nat) (f : Die → Die) : (s.modDie n f).focus = s.focus := rfl
@[simp] theorem State.modDie_fresh (s : State) (n : Nat) (f : Die → Die) : (s.modDie n f).fresh = s.fresh := rfl

/-! ### `State.modQueue` -/

@[simp] theorem State.modQueue_now (s : State) (n : Nat) (f : PQueue → PQueue) : (s.modQueue n f).now = s.now := rfl
@[simp] theorem State.modQueue_part (s : State) (n : Nat) (f : PQueue → PQueue) : (s.modQueue n f).part = s.part := rfl
@[simp] theorem State.modQueue_plumbW (s : State) (n : Nat) (f : PQueue → PQueue) : (s.modQueue n f).plumbW = s.plumbW := rfl
@[simp] theorem State.modQueue_plumbCol (s : State) (n : Nat) (f : PQueue → PQueue) : (s.modQueue n f).plumbCol = s.plumbCol := rfl
@[simp] theorem State.modQueue_cores (s : State) (n : Nat) (f : PQueue → PQueue) : (s.modQueue n f).cores = s.cores := rfl
@[simp] theorem State.modQueue_clusters (s : State) (n : Nat) (f : PQueue → PQueue) : (s.modQueue n f).clusters = s.clusters := rfl
@[simp] theorem State.modQueue_dies (s : State) (n : Nat) (f : PQueue → PQueue) : (s.modQueue n f).dies = s.dies := rfl
@[simp] theorem State.modQueue_mem (s : State) (n : Nat) (f : PQueue → PQueue) : (s.modQueue n f).mem = s.mem := rfl
@[simp] theorem State.modQueue_full (s : State) (n : Nat) (f : PQueue → PQueue) : (s.modQueue n f).full = s.full := rfl
@[simp] theorem State.modQueue_poison (s : State) (n : Nat) (f : PQueue → PQueue) : (s.modQueue n f).poison = s.poison := rfl
@[simp] theorem State.modQueue_keyed (s : State) (n : Nat) (f : PQueue → PQueue) : (s.modQueue n f).keyed = s.keyed := rfl
@[simp] theorem State.modQueue_strbase (s : State) (n : Nat) (f : PQueue → PQueue) : (s.modQueue n f).strbase = s.strbase := rfl
@[simp] theorem State.modQueue_rmapsel (s : State) (n : Nat) (f : PQueue → PQueue) : (s.modQueue n f).rmapsel = s.rmapsel := rfl
@[simp] theorem State.modQueue_owner (s : State) (n : Nat) (f : PQueue → PQueue) : (s.modQueue n f).owner = s.owner := rfl
@[simp] theorem State.modQueue_ownerOp (s : State) (n : Nat) (f : PQueue → PQueue) : (s.modQueue n f).ownerOp = s.ownerOp := rfl
@[simp] theorem State.modQueue_ownerSucc (s : State) (n : Nat) (f : PQueue → PQueue) : (s.modQueue n f).ownerSucc = s.ownerSucc := rfl
@[simp] theorem State.modQueue_refused (s : State) (n : Nat) (f : PQueue → PQueue) : (s.modQueue n f).refused = s.refused := rfl
@[simp] theorem State.modQueue_linkLost (s : State) (n : Nat) (f : PQueue → PQueue) : (s.modQueue n f).linkLost = s.linkLost := rfl
@[simp] theorem State.modQueue_dbgOp (s : State) (n : Nat) (f : PQueue → PQueue) : (s.modQueue n f).dbgOp = s.dbgOp := rfl
@[simp] theorem State.modQueue_dbgState (s : State) (n : Nat) (f : PQueue → PQueue) : (s.modQueue n f).dbgState = s.dbgState := rfl
@[simp] theorem State.modQueue_dbgCtx (s : State) (n : Nat) (f : PQueue → PQueue) : (s.modQueue n f).dbgCtx = s.dbgCtx := rfl
@[simp] theorem State.modQueue_dbgBase (s : State) (n : Nat) (f : PQueue → PQueue) : (s.modQueue n f).dbgBase = s.dbgBase := rfl
@[simp] theorem State.modQueue_dbgsel (s : State) (n : Nat) (f : PQueue → PQueue) : (s.modQueue n f).dbgsel = s.dbgsel := rfl
@[simp] theorem State.modQueue_ready (s : State) (n : Nat) (f : PQueue → PQueue) : (s.modQueue n f).ready = s.ready := rfl
@[simp] theorem State.modQueue_bootStep (s : State) (n : Nat) (f : PQueue → PQueue) : (s.modQueue n f).bootStep = s.bootStep := rfl
@[simp] theorem State.modQueue_bootFail (s : State) (n : Nat) (f : PQueue → PQueue) : (s.modQueue n f).bootFail = s.bootFail := rfl
@[simp] theorem State.modQueue_passed (s : State) (n : Nat) (f : PQueue → PQueue) : (s.modQueue n f).passed = s.passed := rfl
@[simp] theorem State.modQueue_enovh (s : State) (n : Nat) (f : PQueue → PQueue) : (s.modQueue n f).enovh = s.enovh := rfl
@[simp] theorem State.modQueue_enctx (s : State) (n : Nat) (f : PQueue → PQueue) : (s.modQueue n f).enctx = s.enctx := rfl
@[simp] theorem State.modQueue_ports (s : State) (n : Nat) (f : PQueue → PQueue) : (s.modQueue n f).ports = s.ports := rfl
@[simp] theorem State.modQueue_burst (s : State) (n : Nat) (f : PQueue → PQueue) : (s.modQueue n f).burst = s.burst := rfl
@[simp] theorem State.modQueue_hostUp (s : State) (n : Nat) (f : PQueue → PQueue) : (s.modQueue n f).hostUp = s.hostUp := rfl
@[simp] theorem State.modQueue_msixHeld (s : State) (n : Nat) (f : PQueue → PQueue) : (s.modQueue n f).msixHeld = s.msixHeld := rfl
@[simp] theorem State.modQueue_msix (s : State) (n : Nat) (f : PQueue → PQueue) : (s.modQueue n f).msix = s.msix := rfl
@[simp] theorem State.modQueue_hostReads (s : State) (n : Nat) (f : PQueue → PQueue) : (s.modQueue n f).hostReads = s.hostReads := rfl
@[simp] theorem State.modQueue_hdmsz (s : State) (n : Nat) (f : PQueue → PQueue) : (s.modQueue n f).hdmsz = s.hdmsz := rfl
@[simp] theorem State.modQueue_rstKind (s : State) (n : Nat) (f : PQueue → PQueue) : (s.modQueue n f).rstKind = s.rstKind := rfl
@[simp] theorem State.modQueue_rstT4 (s : State) (n : Nat) (f : PQueue → PQueue) : (s.modQueue n f).rstT4 = s.rstT4 := rfl
@[simp] theorem State.modQueue_rstT4die (s : State) (n : Nat) (f : PQueue → PQueue) : (s.modQueue n f).rstT4die = s.rstT4die := rfl
@[simp] theorem State.modQueue_rstScrub (s : State) (n : Nat) (f : PQueue → PQueue) : (s.modQueue n f).rstScrub = s.rstScrub := rfl
@[simp] theorem State.modQueue_rstTick (s : State) (n : Nat) (f : PQueue → PQueue) : (s.modQueue n f).rstTick = s.rstTick := rfl
@[simp] theorem State.modQueue_tableHash (s : State) (n : Nat) (f : PQueue → PQueue) : (s.modQueue n f).tableHash = s.tableHash := rfl
@[simp] theorem State.modQueue_fwHash (s : State) (n : Nat) (f : PQueue → PQueue) : (s.modQueue n f).fwHash = s.fwHash := rfl
@[simp] theorem State.modQueue_ctxs (s : State) (n : Nat) (f : PQueue → PQueue) : (s.modQueue n f).ctxs = s.ctxs := rfl
@[simp] theorem State.modQueue_parts (s : State) (n : Nat) (f : PQueue → PQueue) : (s.modQueue n f).parts = s.parts := rfl
@[simp] theorem State.modQueue_tracts (s : State) (n : Nat) (f : PQueue → PQueue) : (s.modQueue n f).tracts = s.tracts := rfl
@[simp] theorem State.modQueue_insts (s : State) (n : Nat) (f : PQueue → PQueue) : (s.modQueue n f).insts = s.insts := rfl
@[simp] theorem State.modQueue_records (s : State) (n : Nat) (f : PQueue → PQueue) : (s.modQueue n f).records = s.records := rfl
@[simp] theorem State.modQueue_ringCount (s : State) (n : Nat) (f : PQueue → PQueue) : (s.modQueue n f).ringCount = s.ringCount := rfl
@[simp] theorem State.modQueue_messages (s : State) (n : Nat) (f : PQueue → PQueue) : (s.modQueue n f).messages = s.messages := rfl
@[simp] theorem State.modQueue_transfers (s : State) (n : Nat) (f : PQueue → PQueue) : (s.modQueue n f).transfers = s.transfers := rfl
@[simp] theorem State.modQueue_closures (s : State) (n : Nat) (f : PQueue → PQueue) : (s.modQueue n f).closures = s.closures := rfl
@[simp] theorem State.modQueue_nextId (s : State) (n : Nat) (f : PQueue → PQueue) : (s.modQueue n f).nextId = s.nextId := rfl
@[simp] theorem State.modQueue_agenda (s : State) (n : Nat) (f : PQueue → PQueue) : (s.modQueue n f).agenda = s.agenda := rfl
@[simp] theorem State.modQueue_focus (s : State) (n : Nat) (f : PQueue → PQueue) : (s.modQueue n f).focus = s.focus := rfl
@[simp] theorem State.modQueue_fresh (s : State) (n : Nat) (f : PQueue → PQueue) : (s.modQueue n f).fresh = s.fresh := rfl

/-! ### `State.store` -/

@[simp] theorem State.store_now (s : State) (a : Nat) (bs : List Byte) : (s.store a bs).now = s.now := rfl
@[simp] theorem State.store_part (s : State) (a : Nat) (bs : List Byte) : (s.store a bs).part = s.part := rfl
@[simp] theorem State.store_plumbW (s : State) (a : Nat) (bs : List Byte) : (s.store a bs).plumbW = s.plumbW := rfl
@[simp] theorem State.store_plumbCol (s : State) (a : Nat) (bs : List Byte) : (s.store a bs).plumbCol = s.plumbCol := rfl
@[simp] theorem State.store_cores (s : State) (a : Nat) (bs : List Byte) : (s.store a bs).cores = s.cores := rfl
@[simp] theorem State.store_clusters (s : State) (a : Nat) (bs : List Byte) : (s.store a bs).clusters = s.clusters := rfl
@[simp] theorem State.store_dies (s : State) (a : Nat) (bs : List Byte) : (s.store a bs).dies = s.dies := rfl
@[simp] theorem State.store_full (s : State) (a : Nat) (bs : List Byte) : (s.store a bs).full = s.full := rfl
@[simp] theorem State.store_poison (s : State) (a : Nat) (bs : List Byte) : (s.store a bs).poison = s.poison := rfl
@[simp] theorem State.store_strbase (s : State) (a : Nat) (bs : List Byte) : (s.store a bs).strbase = s.strbase := rfl
@[simp] theorem State.store_rmapsel (s : State) (a : Nat) (bs : List Byte) : (s.store a bs).rmapsel = s.rmapsel := rfl
@[simp] theorem State.store_owner (s : State) (a : Nat) (bs : List Byte) : (s.store a bs).owner = s.owner := rfl
@[simp] theorem State.store_ownerOp (s : State) (a : Nat) (bs : List Byte) : (s.store a bs).ownerOp = s.ownerOp := rfl
@[simp] theorem State.store_ownerSucc (s : State) (a : Nat) (bs : List Byte) : (s.store a bs).ownerSucc = s.ownerSucc := rfl
@[simp] theorem State.store_refused (s : State) (a : Nat) (bs : List Byte) : (s.store a bs).refused = s.refused := rfl
@[simp] theorem State.store_linkLost (s : State) (a : Nat) (bs : List Byte) : (s.store a bs).linkLost = s.linkLost := rfl
@[simp] theorem State.store_dbgOp (s : State) (a : Nat) (bs : List Byte) : (s.store a bs).dbgOp = s.dbgOp := rfl
@[simp] theorem State.store_dbgState (s : State) (a : Nat) (bs : List Byte) : (s.store a bs).dbgState = s.dbgState := rfl
@[simp] theorem State.store_dbgCtx (s : State) (a : Nat) (bs : List Byte) : (s.store a bs).dbgCtx = s.dbgCtx := rfl
@[simp] theorem State.store_dbgBase (s : State) (a : Nat) (bs : List Byte) : (s.store a bs).dbgBase = s.dbgBase := rfl
@[simp] theorem State.store_dbgsel (s : State) (a : Nat) (bs : List Byte) : (s.store a bs).dbgsel = s.dbgsel := rfl
@[simp] theorem State.store_ready (s : State) (a : Nat) (bs : List Byte) : (s.store a bs).ready = s.ready := rfl
@[simp] theorem State.store_bootStep (s : State) (a : Nat) (bs : List Byte) : (s.store a bs).bootStep = s.bootStep := rfl
@[simp] theorem State.store_bootFail (s : State) (a : Nat) (bs : List Byte) : (s.store a bs).bootFail = s.bootFail := rfl
@[simp] theorem State.store_passed (s : State) (a : Nat) (bs : List Byte) : (s.store a bs).passed = s.passed := rfl
@[simp] theorem State.store_enovh (s : State) (a : Nat) (bs : List Byte) : (s.store a bs).enovh = s.enovh := rfl
@[simp] theorem State.store_enctx (s : State) (a : Nat) (bs : List Byte) : (s.store a bs).enctx = s.enctx := rfl
@[simp] theorem State.store_ports (s : State) (a : Nat) (bs : List Byte) : (s.store a bs).ports = s.ports := rfl
@[simp] theorem State.store_burst (s : State) (a : Nat) (bs : List Byte) : (s.store a bs).burst = s.burst := rfl
@[simp] theorem State.store_queues (s : State) (a : Nat) (bs : List Byte) : (s.store a bs).queues = s.queues := rfl
@[simp] theorem State.store_hostUp (s : State) (a : Nat) (bs : List Byte) : (s.store a bs).hostUp = s.hostUp := rfl
@[simp] theorem State.store_msixHeld (s : State) (a : Nat) (bs : List Byte) : (s.store a bs).msixHeld = s.msixHeld := rfl
@[simp] theorem State.store_msix (s : State) (a : Nat) (bs : List Byte) : (s.store a bs).msix = s.msix := rfl
@[simp] theorem State.store_hostReads (s : State) (a : Nat) (bs : List Byte) : (s.store a bs).hostReads = s.hostReads := rfl
@[simp] theorem State.store_hdmsz (s : State) (a : Nat) (bs : List Byte) : (s.store a bs).hdmsz = s.hdmsz := rfl
@[simp] theorem State.store_rstKind (s : State) (a : Nat) (bs : List Byte) : (s.store a bs).rstKind = s.rstKind := rfl
@[simp] theorem State.store_rstT4 (s : State) (a : Nat) (bs : List Byte) : (s.store a bs).rstT4 = s.rstT4 := rfl
@[simp] theorem State.store_rstT4die (s : State) (a : Nat) (bs : List Byte) : (s.store a bs).rstT4die = s.rstT4die := rfl
@[simp] theorem State.store_rstScrub (s : State) (a : Nat) (bs : List Byte) : (s.store a bs).rstScrub = s.rstScrub := rfl
@[simp] theorem State.store_rstTick (s : State) (a : Nat) (bs : List Byte) : (s.store a bs).rstTick = s.rstTick := rfl
@[simp] theorem State.store_tableHash (s : State) (a : Nat) (bs : List Byte) : (s.store a bs).tableHash = s.tableHash := rfl
@[simp] theorem State.store_fwHash (s : State) (a : Nat) (bs : List Byte) : (s.store a bs).fwHash = s.fwHash := rfl
@[simp] theorem State.store_ctxs (s : State) (a : Nat) (bs : List Byte) : (s.store a bs).ctxs = s.ctxs := rfl
@[simp] theorem State.store_parts (s : State) (a : Nat) (bs : List Byte) : (s.store a bs).parts = s.parts := rfl
@[simp] theorem State.store_tracts (s : State) (a : Nat) (bs : List Byte) : (s.store a bs).tracts = s.tracts := rfl
@[simp] theorem State.store_insts (s : State) (a : Nat) (bs : List Byte) : (s.store a bs).insts = s.insts := rfl
@[simp] theorem State.store_records (s : State) (a : Nat) (bs : List Byte) : (s.store a bs).records = s.records := rfl
@[simp] theorem State.store_ringCount (s : State) (a : Nat) (bs : List Byte) : (s.store a bs).ringCount = s.ringCount := rfl
@[simp] theorem State.store_messages (s : State) (a : Nat) (bs : List Byte) : (s.store a bs).messages = s.messages := rfl
@[simp] theorem State.store_transfers (s : State) (a : Nat) (bs : List Byte) : (s.store a bs).transfers = s.transfers := rfl
@[simp] theorem State.store_closures (s : State) (a : Nat) (bs : List Byte) : (s.store a bs).closures = s.closures := rfl
@[simp] theorem State.store_nextId (s : State) (a : Nat) (bs : List Byte) : (s.store a bs).nextId = s.nextId := rfl
@[simp] theorem State.store_agenda (s : State) (a : Nat) (bs : List Byte) : (s.store a bs).agenda = s.agenda := rfl
@[simp] theorem State.store_focus (s : State) (a : Nat) (bs : List Byte) : (s.store a bs).focus = s.focus := rfl
@[simp] theorem State.store_fresh (s : State) (a : Nat) (bs : List Byte) : (s.store a bs).fresh = s.fresh := rfl

/-! ### `State.setFull` -/

@[simp] theorem State.setFull_now (s : State) (a : Nat) (b : Bool) : (s.setFull a b).now = s.now := rfl
@[simp] theorem State.setFull_part (s : State) (a : Nat) (b : Bool) : (s.setFull a b).part = s.part := rfl
@[simp] theorem State.setFull_plumbW (s : State) (a : Nat) (b : Bool) : (s.setFull a b).plumbW = s.plumbW := rfl
@[simp] theorem State.setFull_plumbCol (s : State) (a : Nat) (b : Bool) : (s.setFull a b).plumbCol = s.plumbCol := rfl
@[simp] theorem State.setFull_cores (s : State) (a : Nat) (b : Bool) : (s.setFull a b).cores = s.cores := rfl
@[simp] theorem State.setFull_clusters (s : State) (a : Nat) (b : Bool) : (s.setFull a b).clusters = s.clusters := rfl
@[simp] theorem State.setFull_dies (s : State) (a : Nat) (b : Bool) : (s.setFull a b).dies = s.dies := rfl
@[simp] theorem State.setFull_mem (s : State) (a : Nat) (b : Bool) : (s.setFull a b).mem = s.mem := rfl
@[simp] theorem State.setFull_poison (s : State) (a : Nat) (b : Bool) : (s.setFull a b).poison = s.poison := rfl
@[simp] theorem State.setFull_keyed (s : State) (a : Nat) (b : Bool) : (s.setFull a b).keyed = s.keyed := rfl
@[simp] theorem State.setFull_strbase (s : State) (a : Nat) (b : Bool) : (s.setFull a b).strbase = s.strbase := rfl
@[simp] theorem State.setFull_rmapsel (s : State) (a : Nat) (b : Bool) : (s.setFull a b).rmapsel = s.rmapsel := rfl
@[simp] theorem State.setFull_owner (s : State) (a : Nat) (b : Bool) : (s.setFull a b).owner = s.owner := rfl
@[simp] theorem State.setFull_ownerOp (s : State) (a : Nat) (b : Bool) : (s.setFull a b).ownerOp = s.ownerOp := rfl
@[simp] theorem State.setFull_ownerSucc (s : State) (a : Nat) (b : Bool) : (s.setFull a b).ownerSucc = s.ownerSucc := rfl
@[simp] theorem State.setFull_refused (s : State) (a : Nat) (b : Bool) : (s.setFull a b).refused = s.refused := rfl
@[simp] theorem State.setFull_linkLost (s : State) (a : Nat) (b : Bool) : (s.setFull a b).linkLost = s.linkLost := rfl
@[simp] theorem State.setFull_dbgOp (s : State) (a : Nat) (b : Bool) : (s.setFull a b).dbgOp = s.dbgOp := rfl
@[simp] theorem State.setFull_dbgState (s : State) (a : Nat) (b : Bool) : (s.setFull a b).dbgState = s.dbgState := rfl
@[simp] theorem State.setFull_dbgCtx (s : State) (a : Nat) (b : Bool) : (s.setFull a b).dbgCtx = s.dbgCtx := rfl
@[simp] theorem State.setFull_dbgBase (s : State) (a : Nat) (b : Bool) : (s.setFull a b).dbgBase = s.dbgBase := rfl
@[simp] theorem State.setFull_dbgsel (s : State) (a : Nat) (b : Bool) : (s.setFull a b).dbgsel = s.dbgsel := rfl
@[simp] theorem State.setFull_ready (s : State) (a : Nat) (b : Bool) : (s.setFull a b).ready = s.ready := rfl
@[simp] theorem State.setFull_bootStep (s : State) (a : Nat) (b : Bool) : (s.setFull a b).bootStep = s.bootStep := rfl
@[simp] theorem State.setFull_bootFail (s : State) (a : Nat) (b : Bool) : (s.setFull a b).bootFail = s.bootFail := rfl
@[simp] theorem State.setFull_passed (s : State) (a : Nat) (b : Bool) : (s.setFull a b).passed = s.passed := rfl
@[simp] theorem State.setFull_enovh (s : State) (a : Nat) (b : Bool) : (s.setFull a b).enovh = s.enovh := rfl
@[simp] theorem State.setFull_enctx (s : State) (a : Nat) (b : Bool) : (s.setFull a b).enctx = s.enctx := rfl
@[simp] theorem State.setFull_ports (s : State) (a : Nat) (b : Bool) : (s.setFull a b).ports = s.ports := rfl
@[simp] theorem State.setFull_burst (s : State) (a : Nat) (b : Bool) : (s.setFull a b).burst = s.burst := rfl
@[simp] theorem State.setFull_queues (s : State) (a : Nat) (b : Bool) : (s.setFull a b).queues = s.queues := rfl
@[simp] theorem State.setFull_hostUp (s : State) (a : Nat) (b : Bool) : (s.setFull a b).hostUp = s.hostUp := rfl
@[simp] theorem State.setFull_msixHeld (s : State) (a : Nat) (b : Bool) : (s.setFull a b).msixHeld = s.msixHeld := rfl
@[simp] theorem State.setFull_msix (s : State) (a : Nat) (b : Bool) : (s.setFull a b).msix = s.msix := rfl
@[simp] theorem State.setFull_hostReads (s : State) (a : Nat) (b : Bool) : (s.setFull a b).hostReads = s.hostReads := rfl
@[simp] theorem State.setFull_hdmsz (s : State) (a : Nat) (b : Bool) : (s.setFull a b).hdmsz = s.hdmsz := rfl
@[simp] theorem State.setFull_rstKind (s : State) (a : Nat) (b : Bool) : (s.setFull a b).rstKind = s.rstKind := rfl
@[simp] theorem State.setFull_rstT4 (s : State) (a : Nat) (b : Bool) : (s.setFull a b).rstT4 = s.rstT4 := rfl
@[simp] theorem State.setFull_rstT4die (s : State) (a : Nat) (b : Bool) : (s.setFull a b).rstT4die = s.rstT4die := rfl
@[simp] theorem State.setFull_rstScrub (s : State) (a : Nat) (b : Bool) : (s.setFull a b).rstScrub = s.rstScrub := rfl
@[simp] theorem State.setFull_rstTick (s : State) (a : Nat) (b : Bool) : (s.setFull a b).rstTick = s.rstTick := rfl
@[simp] theorem State.setFull_tableHash (s : State) (a : Nat) (b : Bool) : (s.setFull a b).tableHash = s.tableHash := rfl
@[simp] theorem State.setFull_fwHash (s : State) (a : Nat) (b : Bool) : (s.setFull a b).fwHash = s.fwHash := rfl
@[simp] theorem State.setFull_ctxs (s : State) (a : Nat) (b : Bool) : (s.setFull a b).ctxs = s.ctxs := rfl
@[simp] theorem State.setFull_parts (s : State) (a : Nat) (b : Bool) : (s.setFull a b).parts = s.parts := rfl
@[simp] theorem State.setFull_tracts (s : State) (a : Nat) (b : Bool) : (s.setFull a b).tracts = s.tracts := rfl
@[simp] theorem State.setFull_insts (s : State) (a : Nat) (b : Bool) : (s.setFull a b).insts = s.insts := rfl
@[simp] theorem State.setFull_records (s : State) (a : Nat) (b : Bool) : (s.setFull a b).records = s.records := rfl
@[simp] theorem State.setFull_ringCount (s : State) (a : Nat) (b : Bool) : (s.setFull a b).ringCount = s.ringCount := rfl
@[simp] theorem State.setFull_messages (s : State) (a : Nat) (b : Bool) : (s.setFull a b).messages = s.messages := rfl
@[simp] theorem State.setFull_transfers (s : State) (a : Nat) (b : Bool) : (s.setFull a b).transfers = s.transfers := rfl
@[simp] theorem State.setFull_closures (s : State) (a : Nat) (b : Bool) : (s.setFull a b).closures = s.closures := rfl
@[simp] theorem State.setFull_nextId (s : State) (a : Nat) (b : Bool) : (s.setFull a b).nextId = s.nextId := rfl
@[simp] theorem State.setFull_agenda (s : State) (a : Nat) (b : Bool) : (s.setFull a b).agenda = s.agenda := rfl
@[simp] theorem State.setFull_focus (s : State) (a : Nat) (b : Bool) : (s.setFull a b).focus = s.focus := rfl
@[simp] theorem State.setFull_fresh (s : State) (a : Nat) (b : Bool) : (s.setFull a b).fresh = s.fresh := rfl

/-! ### `State.cleanse` -/

@[simp] theorem State.cleanse_now (s : State) (a n : Nat) : (s.cleanse a n).now = s.now := rfl
@[simp] theorem State.cleanse_part (s : State) (a n : Nat) : (s.cleanse a n).part = s.part := rfl
@[simp] theorem State.cleanse_plumbW (s : State) (a n : Nat) : (s.cleanse a n).plumbW = s.plumbW := rfl
@[simp] theorem State.cleanse_plumbCol (s : State) (a n : Nat) : (s.cleanse a n).plumbCol = s.plumbCol := rfl
@[simp] theorem State.cleanse_cores (s : State) (a n : Nat) : (s.cleanse a n).cores = s.cores := rfl
@[simp] theorem State.cleanse_clusters (s : State) (a n : Nat) : (s.cleanse a n).clusters = s.clusters := rfl
@[simp] theorem State.cleanse_dies (s : State) (a n : Nat) : (s.cleanse a n).dies = s.dies := rfl
@[simp] theorem State.cleanse_mem (s : State) (a n : Nat) : (s.cleanse a n).mem = s.mem := rfl
@[simp] theorem State.cleanse_full (s : State) (a n : Nat) : (s.cleanse a n).full = s.full := rfl
@[simp] theorem State.cleanse_keyed (s : State) (a n : Nat) : (s.cleanse a n).keyed = s.keyed := rfl
@[simp] theorem State.cleanse_strbase (s : State) (a n : Nat) : (s.cleanse a n).strbase = s.strbase := rfl
@[simp] theorem State.cleanse_rmapsel (s : State) (a n : Nat) : (s.cleanse a n).rmapsel = s.rmapsel := rfl
@[simp] theorem State.cleanse_owner (s : State) (a n : Nat) : (s.cleanse a n).owner = s.owner := rfl
@[simp] theorem State.cleanse_ownerOp (s : State) (a n : Nat) : (s.cleanse a n).ownerOp = s.ownerOp := rfl
@[simp] theorem State.cleanse_ownerSucc (s : State) (a n : Nat) : (s.cleanse a n).ownerSucc = s.ownerSucc := rfl
@[simp] theorem State.cleanse_refused (s : State) (a n : Nat) : (s.cleanse a n).refused = s.refused := rfl
@[simp] theorem State.cleanse_linkLost (s : State) (a n : Nat) : (s.cleanse a n).linkLost = s.linkLost := rfl
@[simp] theorem State.cleanse_dbgOp (s : State) (a n : Nat) : (s.cleanse a n).dbgOp = s.dbgOp := rfl
@[simp] theorem State.cleanse_dbgState (s : State) (a n : Nat) : (s.cleanse a n).dbgState = s.dbgState := rfl
@[simp] theorem State.cleanse_dbgCtx (s : State) (a n : Nat) : (s.cleanse a n).dbgCtx = s.dbgCtx := rfl
@[simp] theorem State.cleanse_dbgBase (s : State) (a n : Nat) : (s.cleanse a n).dbgBase = s.dbgBase := rfl
@[simp] theorem State.cleanse_dbgsel (s : State) (a n : Nat) : (s.cleanse a n).dbgsel = s.dbgsel := rfl
@[simp] theorem State.cleanse_ready (s : State) (a n : Nat) : (s.cleanse a n).ready = s.ready := rfl
@[simp] theorem State.cleanse_bootStep (s : State) (a n : Nat) : (s.cleanse a n).bootStep = s.bootStep := rfl
@[simp] theorem State.cleanse_bootFail (s : State) (a n : Nat) : (s.cleanse a n).bootFail = s.bootFail := rfl
@[simp] theorem State.cleanse_passed (s : State) (a n : Nat) : (s.cleanse a n).passed = s.passed := rfl
@[simp] theorem State.cleanse_enovh (s : State) (a n : Nat) : (s.cleanse a n).enovh = s.enovh := rfl
@[simp] theorem State.cleanse_enctx (s : State) (a n : Nat) : (s.cleanse a n).enctx = s.enctx := rfl
@[simp] theorem State.cleanse_ports (s : State) (a n : Nat) : (s.cleanse a n).ports = s.ports := rfl
@[simp] theorem State.cleanse_burst (s : State) (a n : Nat) : (s.cleanse a n).burst = s.burst := rfl
@[simp] theorem State.cleanse_queues (s : State) (a n : Nat) : (s.cleanse a n).queues = s.queues := rfl
@[simp] theorem State.cleanse_hostUp (s : State) (a n : Nat) : (s.cleanse a n).hostUp = s.hostUp := rfl
@[simp] theorem State.cleanse_msixHeld (s : State) (a n : Nat) : (s.cleanse a n).msixHeld = s.msixHeld := rfl
@[simp] theorem State.cleanse_msix (s : State) (a n : Nat) : (s.cleanse a n).msix = s.msix := rfl
@[simp] theorem State.cleanse_hostReads (s : State) (a n : Nat) : (s.cleanse a n).hostReads = s.hostReads := rfl
@[simp] theorem State.cleanse_hdmsz (s : State) (a n : Nat) : (s.cleanse a n).hdmsz = s.hdmsz := rfl
@[simp] theorem State.cleanse_rstKind (s : State) (a n : Nat) : (s.cleanse a n).rstKind = s.rstKind := rfl
@[simp] theorem State.cleanse_rstT4 (s : State) (a n : Nat) : (s.cleanse a n).rstT4 = s.rstT4 := rfl
@[simp] theorem State.cleanse_rstT4die (s : State) (a n : Nat) : (s.cleanse a n).rstT4die = s.rstT4die := rfl
@[simp] theorem State.cleanse_rstScrub (s : State) (a n : Nat) : (s.cleanse a n).rstScrub = s.rstScrub := rfl
@[simp] theorem State.cleanse_rstTick (s : State) (a n : Nat) : (s.cleanse a n).rstTick = s.rstTick := rfl
@[simp] theorem State.cleanse_tableHash (s : State) (a n : Nat) : (s.cleanse a n).tableHash = s.tableHash := rfl
@[simp] theorem State.cleanse_fwHash (s : State) (a n : Nat) : (s.cleanse a n).fwHash = s.fwHash := rfl
@[simp] theorem State.cleanse_ctxs (s : State) (a n : Nat) : (s.cleanse a n).ctxs = s.ctxs := rfl
@[simp] theorem State.cleanse_parts (s : State) (a n : Nat) : (s.cleanse a n).parts = s.parts := rfl
@[simp] theorem State.cleanse_tracts (s : State) (a n : Nat) : (s.cleanse a n).tracts = s.tracts := rfl
@[simp] theorem State.cleanse_insts (s : State) (a n : Nat) : (s.cleanse a n).insts = s.insts := rfl
@[simp] theorem State.cleanse_records (s : State) (a n : Nat) : (s.cleanse a n).records = s.records := rfl
@[simp] theorem State.cleanse_ringCount (s : State) (a n : Nat) : (s.cleanse a n).ringCount = s.ringCount := rfl
@[simp] theorem State.cleanse_messages (s : State) (a n : Nat) : (s.cleanse a n).messages = s.messages := rfl
@[simp] theorem State.cleanse_transfers (s : State) (a n : Nat) : (s.cleanse a n).transfers = s.transfers := rfl
@[simp] theorem State.cleanse_closures (s : State) (a n : Nat) : (s.cleanse a n).closures = s.closures := rfl
@[simp] theorem State.cleanse_nextId (s : State) (a n : Nat) : (s.cleanse a n).nextId = s.nextId := rfl
@[simp] theorem State.cleanse_agenda (s : State) (a n : Nat) : (s.cleanse a n).agenda = s.agenda := rfl
@[simp] theorem State.cleanse_focus (s : State) (a n : Nat) : (s.cleanse a n).focus = s.focus := rfl
@[simp] theorem State.cleanse_fresh (s : State) (a n : Nat) : (s.cleanse a n).fresh = s.fresh := rfl

/-! ### `State.drawn` -/

@[simp] theorem State.drawn_now (s : State) : (s.drawn).now = s.now := rfl
@[simp] theorem State.drawn_part (s : State) : (s.drawn).part = s.part := rfl
@[simp] theorem State.drawn_plumbW (s : State) : (s.drawn).plumbW = s.plumbW := rfl
@[simp] theorem State.drawn_plumbCol (s : State) : (s.drawn).plumbCol = s.plumbCol := rfl
@[simp] theorem State.drawn_cores (s : State) : (s.drawn).cores = s.cores := rfl
@[simp] theorem State.drawn_clusters (s : State) : (s.drawn).clusters = s.clusters := rfl
@[simp] theorem State.drawn_dies (s : State) : (s.drawn).dies = s.dies := rfl
@[simp] theorem State.drawn_mem (s : State) : (s.drawn).mem = s.mem := rfl
@[simp] theorem State.drawn_full (s : State) : (s.drawn).full = s.full := rfl
@[simp] theorem State.drawn_poison (s : State) : (s.drawn).poison = s.poison := rfl
@[simp] theorem State.drawn_keyed (s : State) : (s.drawn).keyed = s.keyed := rfl
@[simp] theorem State.drawn_strbase (s : State) : (s.drawn).strbase = s.strbase := rfl
@[simp] theorem State.drawn_rmapsel (s : State) : (s.drawn).rmapsel = s.rmapsel := rfl
@[simp] theorem State.drawn_owner (s : State) : (s.drawn).owner = s.owner := rfl
@[simp] theorem State.drawn_ownerOp (s : State) : (s.drawn).ownerOp = s.ownerOp := rfl
@[simp] theorem State.drawn_ownerSucc (s : State) : (s.drawn).ownerSucc = s.ownerSucc := rfl
@[simp] theorem State.drawn_refused (s : State) : (s.drawn).refused = s.refused := rfl
@[simp] theorem State.drawn_linkLost (s : State) : (s.drawn).linkLost = s.linkLost := rfl
@[simp] theorem State.drawn_dbgOp (s : State) : (s.drawn).dbgOp = s.dbgOp := rfl
@[simp] theorem State.drawn_dbgState (s : State) : (s.drawn).dbgState = s.dbgState := rfl
@[simp] theorem State.drawn_dbgCtx (s : State) : (s.drawn).dbgCtx = s.dbgCtx := rfl
@[simp] theorem State.drawn_dbgBase (s : State) : (s.drawn).dbgBase = s.dbgBase := rfl
@[simp] theorem State.drawn_dbgsel (s : State) : (s.drawn).dbgsel = s.dbgsel := rfl
@[simp] theorem State.drawn_ready (s : State) : (s.drawn).ready = s.ready := rfl
@[simp] theorem State.drawn_bootStep (s : State) : (s.drawn).bootStep = s.bootStep := rfl
@[simp] theorem State.drawn_bootFail (s : State) : (s.drawn).bootFail = s.bootFail := rfl
@[simp] theorem State.drawn_passed (s : State) : (s.drawn).passed = s.passed := rfl
@[simp] theorem State.drawn_enovh (s : State) : (s.drawn).enovh = s.enovh := rfl
@[simp] theorem State.drawn_enctx (s : State) : (s.drawn).enctx = s.enctx := rfl
@[simp] theorem State.drawn_ports (s : State) : (s.drawn).ports = s.ports := rfl
@[simp] theorem State.drawn_burst (s : State) : (s.drawn).burst = s.burst := rfl
@[simp] theorem State.drawn_queues (s : State) : (s.drawn).queues = s.queues := rfl
@[simp] theorem State.drawn_hostUp (s : State) : (s.drawn).hostUp = s.hostUp := rfl
@[simp] theorem State.drawn_msixHeld (s : State) : (s.drawn).msixHeld = s.msixHeld := rfl
@[simp] theorem State.drawn_msix (s : State) : (s.drawn).msix = s.msix := rfl
@[simp] theorem State.drawn_hostReads (s : State) : (s.drawn).hostReads = s.hostReads := rfl
@[simp] theorem State.drawn_hdmsz (s : State) : (s.drawn).hdmsz = s.hdmsz := rfl
@[simp] theorem State.drawn_rstKind (s : State) : (s.drawn).rstKind = s.rstKind := rfl
@[simp] theorem State.drawn_rstT4 (s : State) : (s.drawn).rstT4 = s.rstT4 := rfl
@[simp] theorem State.drawn_rstT4die (s : State) : (s.drawn).rstT4die = s.rstT4die := rfl
@[simp] theorem State.drawn_rstScrub (s : State) : (s.drawn).rstScrub = s.rstScrub := rfl
@[simp] theorem State.drawn_rstTick (s : State) : (s.drawn).rstTick = s.rstTick := rfl
@[simp] theorem State.drawn_tableHash (s : State) : (s.drawn).tableHash = s.tableHash := rfl
@[simp] theorem State.drawn_fwHash (s : State) : (s.drawn).fwHash = s.fwHash := rfl
@[simp] theorem State.drawn_ctxs (s : State) : (s.drawn).ctxs = s.ctxs := rfl
@[simp] theorem State.drawn_parts (s : State) : (s.drawn).parts = s.parts := rfl
@[simp] theorem State.drawn_tracts (s : State) : (s.drawn).tracts = s.tracts := rfl
@[simp] theorem State.drawn_insts (s : State) : (s.drawn).insts = s.insts := rfl
@[simp] theorem State.drawn_records (s : State) : (s.drawn).records = s.records := rfl
@[simp] theorem State.drawn_ringCount (s : State) : (s.drawn).ringCount = s.ringCount := rfl
@[simp] theorem State.drawn_messages (s : State) : (s.drawn).messages = s.messages := rfl
@[simp] theorem State.drawn_transfers (s : State) : (s.drawn).transfers = s.transfers := rfl
@[simp] theorem State.drawn_closures (s : State) : (s.drawn).closures = s.closures := rfl
@[simp] theorem State.drawn_nextId (s : State) : (s.drawn).nextId = s.nextId := rfl
@[simp] theorem State.drawn_agenda (s : State) : (s.drawn).agenda = s.agenda := rfl
@[simp] theorem State.drawn_focus (s : State) : (s.drawn).focus = s.focus := rfl

/-! ### `State.modPart` -/

@[simp] theorem State.modPart_now (s : State) (n : Nat) (f : Partition → Partition) : (s.modPart n f).now = s.now := by
  unfold State.modPart; split <;> rfl
@[simp] theorem State.modPart_part (s : State) (n : Nat) (f : Partition → Partition) : (s.modPart n f).part = s.part := by
  unfold State.modPart; split <;> rfl
@[simp] theorem State.modPart_plumbW (s : State) (n : Nat) (f : Partition → Partition) : (s.modPart n f).plumbW = s.plumbW := by
  unfold State.modPart; split <;> rfl
@[simp] theorem State.modPart_plumbCol (s : State) (n : Nat) (f : Partition → Partition) : (s.modPart n f).plumbCol = s.plumbCol := by
  unfold State.modPart; split <;> rfl
@[simp] theorem State.modPart_cores (s : State) (n : Nat) (f : Partition → Partition) : (s.modPart n f).cores = s.cores := by
  unfold State.modPart; split <;> rfl
@[simp] theorem State.modPart_clusters (s : State) (n : Nat) (f : Partition → Partition) : (s.modPart n f).clusters = s.clusters := by
  unfold State.modPart; split <;> rfl
@[simp] theorem State.modPart_dies (s : State) (n : Nat) (f : Partition → Partition) : (s.modPart n f).dies = s.dies := by
  unfold State.modPart; split <;> rfl
@[simp] theorem State.modPart_mem (s : State) (n : Nat) (f : Partition → Partition) : (s.modPart n f).mem = s.mem := by
  unfold State.modPart; split <;> rfl
@[simp] theorem State.modPart_full (s : State) (n : Nat) (f : Partition → Partition) : (s.modPart n f).full = s.full := by
  unfold State.modPart; split <;> rfl
@[simp] theorem State.modPart_poison (s : State) (n : Nat) (f : Partition → Partition) : (s.modPart n f).poison = s.poison := by
  unfold State.modPart; split <;> rfl
@[simp] theorem State.modPart_keyed (s : State) (n : Nat) (f : Partition → Partition) : (s.modPart n f).keyed = s.keyed := by
  unfold State.modPart; split <;> rfl
@[simp] theorem State.modPart_strbase (s : State) (n : Nat) (f : Partition → Partition) : (s.modPart n f).strbase = s.strbase := by
  unfold State.modPart; split <;> rfl
@[simp] theorem State.modPart_rmapsel (s : State) (n : Nat) (f : Partition → Partition) : (s.modPart n f).rmapsel = s.rmapsel := by
  unfold State.modPart; split <;> rfl
@[simp] theorem State.modPart_owner (s : State) (n : Nat) (f : Partition → Partition) : (s.modPart n f).owner = s.owner := by
  unfold State.modPart; split <;> rfl
@[simp] theorem State.modPart_ownerOp (s : State) (n : Nat) (f : Partition → Partition) : (s.modPart n f).ownerOp = s.ownerOp := by
  unfold State.modPart; split <;> rfl
@[simp] theorem State.modPart_ownerSucc (s : State) (n : Nat) (f : Partition → Partition) : (s.modPart n f).ownerSucc = s.ownerSucc := by
  unfold State.modPart; split <;> rfl
@[simp] theorem State.modPart_refused (s : State) (n : Nat) (f : Partition → Partition) : (s.modPart n f).refused = s.refused := by
  unfold State.modPart; split <;> rfl
@[simp] theorem State.modPart_linkLost (s : State) (n : Nat) (f : Partition → Partition) : (s.modPart n f).linkLost = s.linkLost := by
  unfold State.modPart; split <;> rfl
@[simp] theorem State.modPart_dbgOp (s : State) (n : Nat) (f : Partition → Partition) : (s.modPart n f).dbgOp = s.dbgOp := by
  unfold State.modPart; split <;> rfl
@[simp] theorem State.modPart_dbgState (s : State) (n : Nat) (f : Partition → Partition) : (s.modPart n f).dbgState = s.dbgState := by
  unfold State.modPart; split <;> rfl
@[simp] theorem State.modPart_dbgCtx (s : State) (n : Nat) (f : Partition → Partition) : (s.modPart n f).dbgCtx = s.dbgCtx := by
  unfold State.modPart; split <;> rfl
@[simp] theorem State.modPart_dbgBase (s : State) (n : Nat) (f : Partition → Partition) : (s.modPart n f).dbgBase = s.dbgBase := by
  unfold State.modPart; split <;> rfl
@[simp] theorem State.modPart_dbgsel (s : State) (n : Nat) (f : Partition → Partition) : (s.modPart n f).dbgsel = s.dbgsel := by
  unfold State.modPart; split <;> rfl
@[simp] theorem State.modPart_ready (s : State) (n : Nat) (f : Partition → Partition) : (s.modPart n f).ready = s.ready := by
  unfold State.modPart; split <;> rfl
@[simp] theorem State.modPart_bootStep (s : State) (n : Nat) (f : Partition → Partition) : (s.modPart n f).bootStep = s.bootStep := by
  unfold State.modPart; split <;> rfl
@[simp] theorem State.modPart_bootFail (s : State) (n : Nat) (f : Partition → Partition) : (s.modPart n f).bootFail = s.bootFail := by
  unfold State.modPart; split <;> rfl
@[simp] theorem State.modPart_passed (s : State) (n : Nat) (f : Partition → Partition) : (s.modPart n f).passed = s.passed := by
  unfold State.modPart; split <;> rfl
@[simp] theorem State.modPart_enovh (s : State) (n : Nat) (f : Partition → Partition) : (s.modPart n f).enovh = s.enovh := by
  unfold State.modPart; split <;> rfl
@[simp] theorem State.modPart_enctx (s : State) (n : Nat) (f : Partition → Partition) : (s.modPart n f).enctx = s.enctx := by
  unfold State.modPart; split <;> rfl
@[simp] theorem State.modPart_ports (s : State) (n : Nat) (f : Partition → Partition) : (s.modPart n f).ports = s.ports := by
  unfold State.modPart; split <;> rfl
@[simp] theorem State.modPart_burst (s : State) (n : Nat) (f : Partition → Partition) : (s.modPart n f).burst = s.burst := by
  unfold State.modPart; split <;> rfl
@[simp] theorem State.modPart_queues (s : State) (n : Nat) (f : Partition → Partition) : (s.modPart n f).queues = s.queues := by
  unfold State.modPart; split <;> rfl
@[simp] theorem State.modPart_hostUp (s : State) (n : Nat) (f : Partition → Partition) : (s.modPart n f).hostUp = s.hostUp := by
  unfold State.modPart; split <;> rfl
@[simp] theorem State.modPart_msixHeld (s : State) (n : Nat) (f : Partition → Partition) : (s.modPart n f).msixHeld = s.msixHeld := by
  unfold State.modPart; split <;> rfl
@[simp] theorem State.modPart_msix (s : State) (n : Nat) (f : Partition → Partition) : (s.modPart n f).msix = s.msix := by
  unfold State.modPart; split <;> rfl
@[simp] theorem State.modPart_hostReads (s : State) (n : Nat) (f : Partition → Partition) : (s.modPart n f).hostReads = s.hostReads := by
  unfold State.modPart; split <;> rfl
@[simp] theorem State.modPart_hdmsz (s : State) (n : Nat) (f : Partition → Partition) : (s.modPart n f).hdmsz = s.hdmsz := by
  unfold State.modPart; split <;> rfl
@[simp] theorem State.modPart_rstKind (s : State) (n : Nat) (f : Partition → Partition) : (s.modPart n f).rstKind = s.rstKind := by
  unfold State.modPart; split <;> rfl
@[simp] theorem State.modPart_rstT4 (s : State) (n : Nat) (f : Partition → Partition) : (s.modPart n f).rstT4 = s.rstT4 := by
  unfold State.modPart; split <;> rfl
@[simp] theorem State.modPart_rstT4die (s : State) (n : Nat) (f : Partition → Partition) : (s.modPart n f).rstT4die = s.rstT4die := by
  unfold State.modPart; split <;> rfl
@[simp] theorem State.modPart_rstScrub (s : State) (n : Nat) (f : Partition → Partition) : (s.modPart n f).rstScrub = s.rstScrub := by
  unfold State.modPart; split <;> rfl
@[simp] theorem State.modPart_rstTick (s : State) (n : Nat) (f : Partition → Partition) : (s.modPart n f).rstTick = s.rstTick := by
  unfold State.modPart; split <;> rfl
@[simp] theorem State.modPart_tableHash (s : State) (n : Nat) (f : Partition → Partition) : (s.modPart n f).tableHash = s.tableHash := by
  unfold State.modPart; split <;> rfl
@[simp] theorem State.modPart_fwHash (s : State) (n : Nat) (f : Partition → Partition) : (s.modPart n f).fwHash = s.fwHash := by
  unfold State.modPart; split <;> rfl
@[simp] theorem State.modPart_ctxs (s : State) (n : Nat) (f : Partition → Partition) : (s.modPart n f).ctxs = s.ctxs := by
  unfold State.modPart; split <;> rfl
@[simp] theorem State.modPart_tracts (s : State) (n : Nat) (f : Partition → Partition) : (s.modPart n f).tracts = s.tracts := by
  unfold State.modPart; split <;> rfl
@[simp] theorem State.modPart_insts (s : State) (n : Nat) (f : Partition → Partition) : (s.modPart n f).insts = s.insts := by
  unfold State.modPart; split <;> rfl
@[simp] theorem State.modPart_records (s : State) (n : Nat) (f : Partition → Partition) : (s.modPart n f).records = s.records := by
  unfold State.modPart; split <;> rfl
@[simp] theorem State.modPart_ringCount (s : State) (n : Nat) (f : Partition → Partition) : (s.modPart n f).ringCount = s.ringCount := by
  unfold State.modPart; split <;> rfl
@[simp] theorem State.modPart_messages (s : State) (n : Nat) (f : Partition → Partition) : (s.modPart n f).messages = s.messages := by
  unfold State.modPart; split <;> rfl
@[simp] theorem State.modPart_transfers (s : State) (n : Nat) (f : Partition → Partition) : (s.modPart n f).transfers = s.transfers := by
  unfold State.modPart; split <;> rfl
@[simp] theorem State.modPart_closures (s : State) (n : Nat) (f : Partition → Partition) : (s.modPart n f).closures = s.closures := by
  unfold State.modPart; split <;> rfl
@[simp] theorem State.modPart_nextId (s : State) (n : Nat) (f : Partition → Partition) : (s.modPart n f).nextId = s.nextId := by
  unfold State.modPart; split <;> rfl
@[simp] theorem State.modPart_agenda (s : State) (n : Nat) (f : Partition → Partition) : (s.modPart n f).agenda = s.agenda := by
  unfold State.modPart; split <;> rfl
@[simp] theorem State.modPart_focus (s : State) (n : Nat) (f : Partition → Partition) : (s.modPart n f).focus = s.focus := by
  unfold State.modPart; split <;> rfl
@[simp] theorem State.modPart_fresh (s : State) (n : Nat) (f : Partition → Partition) : (s.modPart n f).fresh = s.fresh := by
  unfold State.modPart; split <;> rfl

/-! ### `State.modTract` -/

@[simp] theorem State.modTract_now (s : State) (n : Nat) (f : Tract → Tract) : (s.modTract n f).now = s.now := by
  unfold State.modTract; split <;> rfl
@[simp] theorem State.modTract_part (s : State) (n : Nat) (f : Tract → Tract) : (s.modTract n f).part = s.part := by
  unfold State.modTract; split <;> rfl
@[simp] theorem State.modTract_plumbW (s : State) (n : Nat) (f : Tract → Tract) : (s.modTract n f).plumbW = s.plumbW := by
  unfold State.modTract; split <;> rfl
@[simp] theorem State.modTract_plumbCol (s : State) (n : Nat) (f : Tract → Tract) : (s.modTract n f).plumbCol = s.plumbCol := by
  unfold State.modTract; split <;> rfl
@[simp] theorem State.modTract_cores (s : State) (n : Nat) (f : Tract → Tract) : (s.modTract n f).cores = s.cores := by
  unfold State.modTract; split <;> rfl
@[simp] theorem State.modTract_clusters (s : State) (n : Nat) (f : Tract → Tract) : (s.modTract n f).clusters = s.clusters := by
  unfold State.modTract; split <;> rfl
@[simp] theorem State.modTract_dies (s : State) (n : Nat) (f : Tract → Tract) : (s.modTract n f).dies = s.dies := by
  unfold State.modTract; split <;> rfl
@[simp] theorem State.modTract_mem (s : State) (n : Nat) (f : Tract → Tract) : (s.modTract n f).mem = s.mem := by
  unfold State.modTract; split <;> rfl
@[simp] theorem State.modTract_full (s : State) (n : Nat) (f : Tract → Tract) : (s.modTract n f).full = s.full := by
  unfold State.modTract; split <;> rfl
@[simp] theorem State.modTract_poison (s : State) (n : Nat) (f : Tract → Tract) : (s.modTract n f).poison = s.poison := by
  unfold State.modTract; split <;> rfl
@[simp] theorem State.modTract_keyed (s : State) (n : Nat) (f : Tract → Tract) : (s.modTract n f).keyed = s.keyed := by
  unfold State.modTract; split <;> rfl
@[simp] theorem State.modTract_strbase (s : State) (n : Nat) (f : Tract → Tract) : (s.modTract n f).strbase = s.strbase := by
  unfold State.modTract; split <;> rfl
@[simp] theorem State.modTract_rmapsel (s : State) (n : Nat) (f : Tract → Tract) : (s.modTract n f).rmapsel = s.rmapsel := by
  unfold State.modTract; split <;> rfl
@[simp] theorem State.modTract_owner (s : State) (n : Nat) (f : Tract → Tract) : (s.modTract n f).owner = s.owner := by
  unfold State.modTract; split <;> rfl
@[simp] theorem State.modTract_ownerOp (s : State) (n : Nat) (f : Tract → Tract) : (s.modTract n f).ownerOp = s.ownerOp := by
  unfold State.modTract; split <;> rfl
@[simp] theorem State.modTract_ownerSucc (s : State) (n : Nat) (f : Tract → Tract) : (s.modTract n f).ownerSucc = s.ownerSucc := by
  unfold State.modTract; split <;> rfl
@[simp] theorem State.modTract_refused (s : State) (n : Nat) (f : Tract → Tract) : (s.modTract n f).refused = s.refused := by
  unfold State.modTract; split <;> rfl
@[simp] theorem State.modTract_linkLost (s : State) (n : Nat) (f : Tract → Tract) : (s.modTract n f).linkLost = s.linkLost := by
  unfold State.modTract; split <;> rfl
@[simp] theorem State.modTract_dbgOp (s : State) (n : Nat) (f : Tract → Tract) : (s.modTract n f).dbgOp = s.dbgOp := by
  unfold State.modTract; split <;> rfl
@[simp] theorem State.modTract_dbgState (s : State) (n : Nat) (f : Tract → Tract) : (s.modTract n f).dbgState = s.dbgState := by
  unfold State.modTract; split <;> rfl
@[simp] theorem State.modTract_dbgCtx (s : State) (n : Nat) (f : Tract → Tract) : (s.modTract n f).dbgCtx = s.dbgCtx := by
  unfold State.modTract; split <;> rfl
@[simp] theorem State.modTract_dbgBase (s : State) (n : Nat) (f : Tract → Tract) : (s.modTract n f).dbgBase = s.dbgBase := by
  unfold State.modTract; split <;> rfl
@[simp] theorem State.modTract_dbgsel (s : State) (n : Nat) (f : Tract → Tract) : (s.modTract n f).dbgsel = s.dbgsel := by
  unfold State.modTract; split <;> rfl
@[simp] theorem State.modTract_ready (s : State) (n : Nat) (f : Tract → Tract) : (s.modTract n f).ready = s.ready := by
  unfold State.modTract; split <;> rfl
@[simp] theorem State.modTract_bootStep (s : State) (n : Nat) (f : Tract → Tract) : (s.modTract n f).bootStep = s.bootStep := by
  unfold State.modTract; split <;> rfl
@[simp] theorem State.modTract_bootFail (s : State) (n : Nat) (f : Tract → Tract) : (s.modTract n f).bootFail = s.bootFail := by
  unfold State.modTract; split <;> rfl
@[simp] theorem State.modTract_passed (s : State) (n : Nat) (f : Tract → Tract) : (s.modTract n f).passed = s.passed := by
  unfold State.modTract; split <;> rfl
@[simp] theorem State.modTract_enovh (s : State) (n : Nat) (f : Tract → Tract) : (s.modTract n f).enovh = s.enovh := by
  unfold State.modTract; split <;> rfl
@[simp] theorem State.modTract_enctx (s : State) (n : Nat) (f : Tract → Tract) : (s.modTract n f).enctx = s.enctx := by
  unfold State.modTract; split <;> rfl
@[simp] theorem State.modTract_ports (s : State) (n : Nat) (f : Tract → Tract) : (s.modTract n f).ports = s.ports := by
  unfold State.modTract; split <;> rfl
@[simp] theorem State.modTract_burst (s : State) (n : Nat) (f : Tract → Tract) : (s.modTract n f).burst = s.burst := by
  unfold State.modTract; split <;> rfl
@[simp] theorem State.modTract_queues (s : State) (n : Nat) (f : Tract → Tract) : (s.modTract n f).queues = s.queues := by
  unfold State.modTract; split <;> rfl
@[simp] theorem State.modTract_hostUp (s : State) (n : Nat) (f : Tract → Tract) : (s.modTract n f).hostUp = s.hostUp := by
  unfold State.modTract; split <;> rfl
@[simp] theorem State.modTract_msixHeld (s : State) (n : Nat) (f : Tract → Tract) : (s.modTract n f).msixHeld = s.msixHeld := by
  unfold State.modTract; split <;> rfl
@[simp] theorem State.modTract_msix (s : State) (n : Nat) (f : Tract → Tract) : (s.modTract n f).msix = s.msix := by
  unfold State.modTract; split <;> rfl
@[simp] theorem State.modTract_hostReads (s : State) (n : Nat) (f : Tract → Tract) : (s.modTract n f).hostReads = s.hostReads := by
  unfold State.modTract; split <;> rfl
@[simp] theorem State.modTract_hdmsz (s : State) (n : Nat) (f : Tract → Tract) : (s.modTract n f).hdmsz = s.hdmsz := by
  unfold State.modTract; split <;> rfl
@[simp] theorem State.modTract_rstKind (s : State) (n : Nat) (f : Tract → Tract) : (s.modTract n f).rstKind = s.rstKind := by
  unfold State.modTract; split <;> rfl
@[simp] theorem State.modTract_rstT4 (s : State) (n : Nat) (f : Tract → Tract) : (s.modTract n f).rstT4 = s.rstT4 := by
  unfold State.modTract; split <;> rfl
@[simp] theorem State.modTract_rstT4die (s : State) (n : Nat) (f : Tract → Tract) : (s.modTract n f).rstT4die = s.rstT4die := by
  unfold State.modTract; split <;> rfl
@[simp] theorem State.modTract_rstScrub (s : State) (n : Nat) (f : Tract → Tract) : (s.modTract n f).rstScrub = s.rstScrub := by
  unfold State.modTract; split <;> rfl
@[simp] theorem State.modTract_rstTick (s : State) (n : Nat) (f : Tract → Tract) : (s.modTract n f).rstTick = s.rstTick := by
  unfold State.modTract; split <;> rfl
@[simp] theorem State.modTract_tableHash (s : State) (n : Nat) (f : Tract → Tract) : (s.modTract n f).tableHash = s.tableHash := by
  unfold State.modTract; split <;> rfl
@[simp] theorem State.modTract_fwHash (s : State) (n : Nat) (f : Tract → Tract) : (s.modTract n f).fwHash = s.fwHash := by
  unfold State.modTract; split <;> rfl
@[simp] theorem State.modTract_ctxs (s : State) (n : Nat) (f : Tract → Tract) : (s.modTract n f).ctxs = s.ctxs := by
  unfold State.modTract; split <;> rfl
@[simp] theorem State.modTract_parts (s : State) (n : Nat) (f : Tract → Tract) : (s.modTract n f).parts = s.parts := by
  unfold State.modTract; split <;> rfl
@[simp] theorem State.modTract_insts (s : State) (n : Nat) (f : Tract → Tract) : (s.modTract n f).insts = s.insts := by
  unfold State.modTract; split <;> rfl
@[simp] theorem State.modTract_records (s : State) (n : Nat) (f : Tract → Tract) : (s.modTract n f).records = s.records := by
  unfold State.modTract; split <;> rfl
@[simp] theorem State.modTract_ringCount (s : State) (n : Nat) (f : Tract → Tract) : (s.modTract n f).ringCount = s.ringCount := by
  unfold State.modTract; split <;> rfl
@[simp] theorem State.modTract_messages (s : State) (n : Nat) (f : Tract → Tract) : (s.modTract n f).messages = s.messages := by
  unfold State.modTract; split <;> rfl
@[simp] theorem State.modTract_transfers (s : State) (n : Nat) (f : Tract → Tract) : (s.modTract n f).transfers = s.transfers := by
  unfold State.modTract; split <;> rfl
@[simp] theorem State.modTract_closures (s : State) (n : Nat) (f : Tract → Tract) : (s.modTract n f).closures = s.closures := by
  unfold State.modTract; split <;> rfl
@[simp] theorem State.modTract_nextId (s : State) (n : Nat) (f : Tract → Tract) : (s.modTract n f).nextId = s.nextId := by
  unfold State.modTract; split <;> rfl
@[simp] theorem State.modTract_agenda (s : State) (n : Nat) (f : Tract → Tract) : (s.modTract n f).agenda = s.agenda := by
  unfold State.modTract; split <;> rfl
@[simp] theorem State.modTract_focus (s : State) (n : Nat) (f : Tract → Tract) : (s.modTract n f).focus = s.focus := by
  unfold State.modTract; split <;> rfl
@[simp] theorem State.modTract_fresh (s : State) (n : Nat) (f : Tract → Tract) : (s.modTract n f).fresh = s.fresh := by
  unfold State.modTract; split <;> rfl

/-! ### `State.modInst` -/

@[simp] theorem State.modInst_now (s : State) (n : Nat) (f : Instance → Instance) : (s.modInst n f).now = s.now := by
  unfold State.modInst; split <;> rfl
@[simp] theorem State.modInst_part (s : State) (n : Nat) (f : Instance → Instance) : (s.modInst n f).part = s.part := by
  unfold State.modInst; split <;> rfl
@[simp] theorem State.modInst_plumbW (s : State) (n : Nat) (f : Instance → Instance) : (s.modInst n f).plumbW = s.plumbW := by
  unfold State.modInst; split <;> rfl
@[simp] theorem State.modInst_plumbCol (s : State) (n : Nat) (f : Instance → Instance) : (s.modInst n f).plumbCol = s.plumbCol := by
  unfold State.modInst; split <;> rfl
@[simp] theorem State.modInst_cores (s : State) (n : Nat) (f : Instance → Instance) : (s.modInst n f).cores = s.cores := by
  unfold State.modInst; split <;> rfl
@[simp] theorem State.modInst_clusters (s : State) (n : Nat) (f : Instance → Instance) : (s.modInst n f).clusters = s.clusters := by
  unfold State.modInst; split <;> rfl
@[simp] theorem State.modInst_dies (s : State) (n : Nat) (f : Instance → Instance) : (s.modInst n f).dies = s.dies := by
  unfold State.modInst; split <;> rfl
@[simp] theorem State.modInst_mem (s : State) (n : Nat) (f : Instance → Instance) : (s.modInst n f).mem = s.mem := by
  unfold State.modInst; split <;> rfl
@[simp] theorem State.modInst_full (s : State) (n : Nat) (f : Instance → Instance) : (s.modInst n f).full = s.full := by
  unfold State.modInst; split <;> rfl
@[simp] theorem State.modInst_poison (s : State) (n : Nat) (f : Instance → Instance) : (s.modInst n f).poison = s.poison := by
  unfold State.modInst; split <;> rfl
@[simp] theorem State.modInst_keyed (s : State) (n : Nat) (f : Instance → Instance) : (s.modInst n f).keyed = s.keyed := by
  unfold State.modInst; split <;> rfl
@[simp] theorem State.modInst_strbase (s : State) (n : Nat) (f : Instance → Instance) : (s.modInst n f).strbase = s.strbase := by
  unfold State.modInst; split <;> rfl
@[simp] theorem State.modInst_rmapsel (s : State) (n : Nat) (f : Instance → Instance) : (s.modInst n f).rmapsel = s.rmapsel := by
  unfold State.modInst; split <;> rfl
@[simp] theorem State.modInst_owner (s : State) (n : Nat) (f : Instance → Instance) : (s.modInst n f).owner = s.owner := by
  unfold State.modInst; split <;> rfl
@[simp] theorem State.modInst_ownerOp (s : State) (n : Nat) (f : Instance → Instance) : (s.modInst n f).ownerOp = s.ownerOp := by
  unfold State.modInst; split <;> rfl
@[simp] theorem State.modInst_ownerSucc (s : State) (n : Nat) (f : Instance → Instance) : (s.modInst n f).ownerSucc = s.ownerSucc := by
  unfold State.modInst; split <;> rfl
@[simp] theorem State.modInst_refused (s : State) (n : Nat) (f : Instance → Instance) : (s.modInst n f).refused = s.refused := by
  unfold State.modInst; split <;> rfl
@[simp] theorem State.modInst_linkLost (s : State) (n : Nat) (f : Instance → Instance) : (s.modInst n f).linkLost = s.linkLost := by
  unfold State.modInst; split <;> rfl
@[simp] theorem State.modInst_dbgOp (s : State) (n : Nat) (f : Instance → Instance) : (s.modInst n f).dbgOp = s.dbgOp := by
  unfold State.modInst; split <;> rfl
@[simp] theorem State.modInst_dbgState (s : State) (n : Nat) (f : Instance → Instance) : (s.modInst n f).dbgState = s.dbgState := by
  unfold State.modInst; split <;> rfl
@[simp] theorem State.modInst_dbgCtx (s : State) (n : Nat) (f : Instance → Instance) : (s.modInst n f).dbgCtx = s.dbgCtx := by
  unfold State.modInst; split <;> rfl
@[simp] theorem State.modInst_dbgBase (s : State) (n : Nat) (f : Instance → Instance) : (s.modInst n f).dbgBase = s.dbgBase := by
  unfold State.modInst; split <;> rfl
@[simp] theorem State.modInst_dbgsel (s : State) (n : Nat) (f : Instance → Instance) : (s.modInst n f).dbgsel = s.dbgsel := by
  unfold State.modInst; split <;> rfl
@[simp] theorem State.modInst_ready (s : State) (n : Nat) (f : Instance → Instance) : (s.modInst n f).ready = s.ready := by
  unfold State.modInst; split <;> rfl
@[simp] theorem State.modInst_bootStep (s : State) (n : Nat) (f : Instance → Instance) : (s.modInst n f).bootStep = s.bootStep := by
  unfold State.modInst; split <;> rfl
@[simp] theorem State.modInst_bootFail (s : State) (n : Nat) (f : Instance → Instance) : (s.modInst n f).bootFail = s.bootFail := by
  unfold State.modInst; split <;> rfl
@[simp] theorem State.modInst_passed (s : State) (n : Nat) (f : Instance → Instance) : (s.modInst n f).passed = s.passed := by
  unfold State.modInst; split <;> rfl
@[simp] theorem State.modInst_enovh (s : State) (n : Nat) (f : Instance → Instance) : (s.modInst n f).enovh = s.enovh := by
  unfold State.modInst; split <;> rfl
@[simp] theorem State.modInst_enctx (s : State) (n : Nat) (f : Instance → Instance) : (s.modInst n f).enctx = s.enctx := by
  unfold State.modInst; split <;> rfl
@[simp] theorem State.modInst_ports (s : State) (n : Nat) (f : Instance → Instance) : (s.modInst n f).ports = s.ports := by
  unfold State.modInst; split <;> rfl
@[simp] theorem State.modInst_burst (s : State) (n : Nat) (f : Instance → Instance) : (s.modInst n f).burst = s.burst := by
  unfold State.modInst; split <;> rfl
@[simp] theorem State.modInst_queues (s : State) (n : Nat) (f : Instance → Instance) : (s.modInst n f).queues = s.queues := by
  unfold State.modInst; split <;> rfl
@[simp] theorem State.modInst_hostUp (s : State) (n : Nat) (f : Instance → Instance) : (s.modInst n f).hostUp = s.hostUp := by
  unfold State.modInst; split <;> rfl
@[simp] theorem State.modInst_msixHeld (s : State) (n : Nat) (f : Instance → Instance) : (s.modInst n f).msixHeld = s.msixHeld := by
  unfold State.modInst; split <;> rfl
@[simp] theorem State.modInst_msix (s : State) (n : Nat) (f : Instance → Instance) : (s.modInst n f).msix = s.msix := by
  unfold State.modInst; split <;> rfl
@[simp] theorem State.modInst_hostReads (s : State) (n : Nat) (f : Instance → Instance) : (s.modInst n f).hostReads = s.hostReads := by
  unfold State.modInst; split <;> rfl
@[simp] theorem State.modInst_hdmsz (s : State) (n : Nat) (f : Instance → Instance) : (s.modInst n f).hdmsz = s.hdmsz := by
  unfold State.modInst; split <;> rfl
@[simp] theorem State.modInst_rstKind (s : State) (n : Nat) (f : Instance → Instance) : (s.modInst n f).rstKind = s.rstKind := by
  unfold State.modInst; split <;> rfl
@[simp] theorem State.modInst_rstT4 (s : State) (n : Nat) (f : Instance → Instance) : (s.modInst n f).rstT4 = s.rstT4 := by
  unfold State.modInst; split <;> rfl
@[simp] theorem State.modInst_rstT4die (s : State) (n : Nat) (f : Instance → Instance) : (s.modInst n f).rstT4die = s.rstT4die := by
  unfold State.modInst; split <;> rfl
@[simp] theorem State.modInst_rstScrub (s : State) (n : Nat) (f : Instance → Instance) : (s.modInst n f).rstScrub = s.rstScrub := by
  unfold State.modInst; split <;> rfl
@[simp] theorem State.modInst_rstTick (s : State) (n : Nat) (f : Instance → Instance) : (s.modInst n f).rstTick = s.rstTick := by
  unfold State.modInst; split <;> rfl
@[simp] theorem State.modInst_tableHash (s : State) (n : Nat) (f : Instance → Instance) : (s.modInst n f).tableHash = s.tableHash := by
  unfold State.modInst; split <;> rfl
@[simp] theorem State.modInst_fwHash (s : State) (n : Nat) (f : Instance → Instance) : (s.modInst n f).fwHash = s.fwHash := by
  unfold State.modInst; split <;> rfl
@[simp] theorem State.modInst_ctxs (s : State) (n : Nat) (f : Instance → Instance) : (s.modInst n f).ctxs = s.ctxs := by
  unfold State.modInst; split <;> rfl
@[simp] theorem State.modInst_parts (s : State) (n : Nat) (f : Instance → Instance) : (s.modInst n f).parts = s.parts := by
  unfold State.modInst; split <;> rfl
@[simp] theorem State.modInst_tracts (s : State) (n : Nat) (f : Instance → Instance) : (s.modInst n f).tracts = s.tracts := by
  unfold State.modInst; split <;> rfl
@[simp] theorem State.modInst_records (s : State) (n : Nat) (f : Instance → Instance) : (s.modInst n f).records = s.records := by
  unfold State.modInst; split <;> rfl
@[simp] theorem State.modInst_ringCount (s : State) (n : Nat) (f : Instance → Instance) : (s.modInst n f).ringCount = s.ringCount := by
  unfold State.modInst; split <;> rfl
@[simp] theorem State.modInst_messages (s : State) (n : Nat) (f : Instance → Instance) : (s.modInst n f).messages = s.messages := by
  unfold State.modInst; split <;> rfl
@[simp] theorem State.modInst_transfers (s : State) (n : Nat) (f : Instance → Instance) : (s.modInst n f).transfers = s.transfers := by
  unfold State.modInst; split <;> rfl
@[simp] theorem State.modInst_closures (s : State) (n : Nat) (f : Instance → Instance) : (s.modInst n f).closures = s.closures := by
  unfold State.modInst; split <;> rfl
@[simp] theorem State.modInst_nextId (s : State) (n : Nat) (f : Instance → Instance) : (s.modInst n f).nextId = s.nextId := by
  unfold State.modInst; split <;> rfl
@[simp] theorem State.modInst_agenda (s : State) (n : Nat) (f : Instance → Instance) : (s.modInst n f).agenda = s.agenda := by
  unfold State.modInst; split <;> rfl
@[simp] theorem State.modInst_focus (s : State) (n : Nat) (f : Instance → Instance) : (s.modInst n f).focus = s.focus := by
  unfold State.modInst; split <;> rfl
@[simp] theorem State.modInst_fresh (s : State) (n : Nat) (f : Instance → Instance) : (s.modInst n f).fresh = s.fresh := by
  unfold State.modInst; split <;> rfl

/-! ### `State.modCtx` -/

@[simp] theorem State.modCtx_now (s : State) (n : Nat) (f : DevCtx → DevCtx) : (s.modCtx n f).now = s.now := by
  unfold State.modCtx; split <;> rfl
@[simp] theorem State.modCtx_part (s : State) (n : Nat) (f : DevCtx → DevCtx) : (s.modCtx n f).part = s.part := by
  unfold State.modCtx; split <;> rfl
@[simp] theorem State.modCtx_plumbW (s : State) (n : Nat) (f : DevCtx → DevCtx) : (s.modCtx n f).plumbW = s.plumbW := by
  unfold State.modCtx; split <;> rfl
@[simp] theorem State.modCtx_plumbCol (s : State) (n : Nat) (f : DevCtx → DevCtx) : (s.modCtx n f).plumbCol = s.plumbCol := by
  unfold State.modCtx; split <;> rfl
@[simp] theorem State.modCtx_cores (s : State) (n : Nat) (f : DevCtx → DevCtx) : (s.modCtx n f).cores = s.cores := by
  unfold State.modCtx; split <;> rfl
@[simp] theorem State.modCtx_clusters (s : State) (n : Nat) (f : DevCtx → DevCtx) : (s.modCtx n f).clusters = s.clusters := by
  unfold State.modCtx; split <;> rfl
@[simp] theorem State.modCtx_dies (s : State) (n : Nat) (f : DevCtx → DevCtx) : (s.modCtx n f).dies = s.dies := by
  unfold State.modCtx; split <;> rfl
@[simp] theorem State.modCtx_mem (s : State) (n : Nat) (f : DevCtx → DevCtx) : (s.modCtx n f).mem = s.mem := by
  unfold State.modCtx; split <;> rfl
@[simp] theorem State.modCtx_full (s : State) (n : Nat) (f : DevCtx → DevCtx) : (s.modCtx n f).full = s.full := by
  unfold State.modCtx; split <;> rfl
@[simp] theorem State.modCtx_poison (s : State) (n : Nat) (f : DevCtx → DevCtx) : (s.modCtx n f).poison = s.poison := by
  unfold State.modCtx; split <;> rfl
@[simp] theorem State.modCtx_keyed (s : State) (n : Nat) (f : DevCtx → DevCtx) : (s.modCtx n f).keyed = s.keyed := by
  unfold State.modCtx; split <;> rfl
@[simp] theorem State.modCtx_strbase (s : State) (n : Nat) (f : DevCtx → DevCtx) : (s.modCtx n f).strbase = s.strbase := by
  unfold State.modCtx; split <;> rfl
@[simp] theorem State.modCtx_rmapsel (s : State) (n : Nat) (f : DevCtx → DevCtx) : (s.modCtx n f).rmapsel = s.rmapsel := by
  unfold State.modCtx; split <;> rfl
@[simp] theorem State.modCtx_owner (s : State) (n : Nat) (f : DevCtx → DevCtx) : (s.modCtx n f).owner = s.owner := by
  unfold State.modCtx; split <;> rfl
@[simp] theorem State.modCtx_ownerOp (s : State) (n : Nat) (f : DevCtx → DevCtx) : (s.modCtx n f).ownerOp = s.ownerOp := by
  unfold State.modCtx; split <;> rfl
@[simp] theorem State.modCtx_ownerSucc (s : State) (n : Nat) (f : DevCtx → DevCtx) : (s.modCtx n f).ownerSucc = s.ownerSucc := by
  unfold State.modCtx; split <;> rfl
@[simp] theorem State.modCtx_refused (s : State) (n : Nat) (f : DevCtx → DevCtx) : (s.modCtx n f).refused = s.refused := by
  unfold State.modCtx; split <;> rfl
@[simp] theorem State.modCtx_linkLost (s : State) (n : Nat) (f : DevCtx → DevCtx) : (s.modCtx n f).linkLost = s.linkLost := by
  unfold State.modCtx; split <;> rfl
@[simp] theorem State.modCtx_dbgOp (s : State) (n : Nat) (f : DevCtx → DevCtx) : (s.modCtx n f).dbgOp = s.dbgOp := by
  unfold State.modCtx; split <;> rfl
@[simp] theorem State.modCtx_dbgState (s : State) (n : Nat) (f : DevCtx → DevCtx) : (s.modCtx n f).dbgState = s.dbgState := by
  unfold State.modCtx; split <;> rfl
@[simp] theorem State.modCtx_dbgCtx (s : State) (n : Nat) (f : DevCtx → DevCtx) : (s.modCtx n f).dbgCtx = s.dbgCtx := by
  unfold State.modCtx; split <;> rfl
@[simp] theorem State.modCtx_dbgBase (s : State) (n : Nat) (f : DevCtx → DevCtx) : (s.modCtx n f).dbgBase = s.dbgBase := by
  unfold State.modCtx; split <;> rfl
@[simp] theorem State.modCtx_dbgsel (s : State) (n : Nat) (f : DevCtx → DevCtx) : (s.modCtx n f).dbgsel = s.dbgsel := by
  unfold State.modCtx; split <;> rfl
@[simp] theorem State.modCtx_ready (s : State) (n : Nat) (f : DevCtx → DevCtx) : (s.modCtx n f).ready = s.ready := by
  unfold State.modCtx; split <;> rfl
@[simp] theorem State.modCtx_bootStep (s : State) (n : Nat) (f : DevCtx → DevCtx) : (s.modCtx n f).bootStep = s.bootStep := by
  unfold State.modCtx; split <;> rfl
@[simp] theorem State.modCtx_bootFail (s : State) (n : Nat) (f : DevCtx → DevCtx) : (s.modCtx n f).bootFail = s.bootFail := by
  unfold State.modCtx; split <;> rfl
@[simp] theorem State.modCtx_passed (s : State) (n : Nat) (f : DevCtx → DevCtx) : (s.modCtx n f).passed = s.passed := by
  unfold State.modCtx; split <;> rfl
@[simp] theorem State.modCtx_enovh (s : State) (n : Nat) (f : DevCtx → DevCtx) : (s.modCtx n f).enovh = s.enovh := by
  unfold State.modCtx; split <;> rfl
@[simp] theorem State.modCtx_enctx (s : State) (n : Nat) (f : DevCtx → DevCtx) : (s.modCtx n f).enctx = s.enctx := by
  unfold State.modCtx; split <;> rfl
@[simp] theorem State.modCtx_ports (s : State) (n : Nat) (f : DevCtx → DevCtx) : (s.modCtx n f).ports = s.ports := by
  unfold State.modCtx; split <;> rfl
@[simp] theorem State.modCtx_burst (s : State) (n : Nat) (f : DevCtx → DevCtx) : (s.modCtx n f).burst = s.burst := by
  unfold State.modCtx; split <;> rfl
@[simp] theorem State.modCtx_queues (s : State) (n : Nat) (f : DevCtx → DevCtx) : (s.modCtx n f).queues = s.queues := by
  unfold State.modCtx; split <;> rfl
@[simp] theorem State.modCtx_hostUp (s : State) (n : Nat) (f : DevCtx → DevCtx) : (s.modCtx n f).hostUp = s.hostUp := by
  unfold State.modCtx; split <;> rfl
@[simp] theorem State.modCtx_msixHeld (s : State) (n : Nat) (f : DevCtx → DevCtx) : (s.modCtx n f).msixHeld = s.msixHeld := by
  unfold State.modCtx; split <;> rfl
@[simp] theorem State.modCtx_msix (s : State) (n : Nat) (f : DevCtx → DevCtx) : (s.modCtx n f).msix = s.msix := by
  unfold State.modCtx; split <;> rfl
@[simp] theorem State.modCtx_hostReads (s : State) (n : Nat) (f : DevCtx → DevCtx) : (s.modCtx n f).hostReads = s.hostReads := by
  unfold State.modCtx; split <;> rfl
@[simp] theorem State.modCtx_hdmsz (s : State) (n : Nat) (f : DevCtx → DevCtx) : (s.modCtx n f).hdmsz = s.hdmsz := by
  unfold State.modCtx; split <;> rfl
@[simp] theorem State.modCtx_rstKind (s : State) (n : Nat) (f : DevCtx → DevCtx) : (s.modCtx n f).rstKind = s.rstKind := by
  unfold State.modCtx; split <;> rfl
@[simp] theorem State.modCtx_rstT4 (s : State) (n : Nat) (f : DevCtx → DevCtx) : (s.modCtx n f).rstT4 = s.rstT4 := by
  unfold State.modCtx; split <;> rfl
@[simp] theorem State.modCtx_rstT4die (s : State) (n : Nat) (f : DevCtx → DevCtx) : (s.modCtx n f).rstT4die = s.rstT4die := by
  unfold State.modCtx; split <;> rfl
@[simp] theorem State.modCtx_rstScrub (s : State) (n : Nat) (f : DevCtx → DevCtx) : (s.modCtx n f).rstScrub = s.rstScrub := by
  unfold State.modCtx; split <;> rfl
@[simp] theorem State.modCtx_rstTick (s : State) (n : Nat) (f : DevCtx → DevCtx) : (s.modCtx n f).rstTick = s.rstTick := by
  unfold State.modCtx; split <;> rfl
@[simp] theorem State.modCtx_tableHash (s : State) (n : Nat) (f : DevCtx → DevCtx) : (s.modCtx n f).tableHash = s.tableHash := by
  unfold State.modCtx; split <;> rfl
@[simp] theorem State.modCtx_fwHash (s : State) (n : Nat) (f : DevCtx → DevCtx) : (s.modCtx n f).fwHash = s.fwHash := by
  unfold State.modCtx; split <;> rfl
@[simp] theorem State.modCtx_parts (s : State) (n : Nat) (f : DevCtx → DevCtx) : (s.modCtx n f).parts = s.parts := by
  unfold State.modCtx; split <;> rfl
@[simp] theorem State.modCtx_tracts (s : State) (n : Nat) (f : DevCtx → DevCtx) : (s.modCtx n f).tracts = s.tracts := by
  unfold State.modCtx; split <;> rfl
@[simp] theorem State.modCtx_insts (s : State) (n : Nat) (f : DevCtx → DevCtx) : (s.modCtx n f).insts = s.insts := by
  unfold State.modCtx; split <;> rfl
@[simp] theorem State.modCtx_records (s : State) (n : Nat) (f : DevCtx → DevCtx) : (s.modCtx n f).records = s.records := by
  unfold State.modCtx; split <;> rfl
@[simp] theorem State.modCtx_ringCount (s : State) (n : Nat) (f : DevCtx → DevCtx) : (s.modCtx n f).ringCount = s.ringCount := by
  unfold State.modCtx; split <;> rfl
@[simp] theorem State.modCtx_messages (s : State) (n : Nat) (f : DevCtx → DevCtx) : (s.modCtx n f).messages = s.messages := by
  unfold State.modCtx; split <;> rfl
@[simp] theorem State.modCtx_transfers (s : State) (n : Nat) (f : DevCtx → DevCtx) : (s.modCtx n f).transfers = s.transfers := by
  unfold State.modCtx; split <;> rfl
@[simp] theorem State.modCtx_closures (s : State) (n : Nat) (f : DevCtx → DevCtx) : (s.modCtx n f).closures = s.closures := by
  unfold State.modCtx; split <;> rfl
@[simp] theorem State.modCtx_nextId (s : State) (n : Nat) (f : DevCtx → DevCtx) : (s.modCtx n f).nextId = s.nextId := by
  unfold State.modCtx; split <;> rfl
@[simp] theorem State.modCtx_agenda (s : State) (n : Nat) (f : DevCtx → DevCtx) : (s.modCtx n f).agenda = s.agenda := by
  unfold State.modCtx; split <;> rfl
@[simp] theorem State.modCtx_focus (s : State) (n : Nat) (f : DevCtx → DevCtx) : (s.modCtx n f).focus = s.focus := by
  unfold State.modCtx; split <;> rfl
@[simp] theorem State.modCtx_fresh (s : State) (n : Nat) (f : DevCtx → DevCtx) : (s.modCtx n f).fresh = s.fresh := by
  unfold State.modCtx; split <;> rfl

/-! ### `State.writeRow` -/

@[simp] theorem State.writeRow_now (s : State) (p r lat : Nat) (m v : Row) : (s.writeRow p r lat m v).now = s.now := by
  unfold State.writeRow State.writeRowAs; split <;> rfl
@[simp] theorem State.writeRow_part (s : State) (p r lat : Nat) (m v : Row) : (s.writeRow p r lat m v).part = s.part := by
  unfold State.writeRow State.writeRowAs; split <;> rfl
@[simp] theorem State.writeRow_plumbW (s : State) (p r lat : Nat) (m v : Row) : (s.writeRow p r lat m v).plumbW = s.plumbW := by
  unfold State.writeRow State.writeRowAs; split <;> rfl
@[simp] theorem State.writeRow_plumbCol (s : State) (p r lat : Nat) (m v : Row) : (s.writeRow p r lat m v).plumbCol = s.plumbCol := by
  unfold State.writeRow State.writeRowAs; split <;> rfl
@[simp] theorem State.writeRow_clusters (s : State) (p r lat : Nat) (m v : Row) : (s.writeRow p r lat m v).clusters = s.clusters := by
  unfold State.writeRow State.writeRowAs; split <;> rfl
@[simp] theorem State.writeRow_dies (s : State) (p r lat : Nat) (m v : Row) : (s.writeRow p r lat m v).dies = s.dies := by
  unfold State.writeRow State.writeRowAs; split <;> rfl
@[simp] theorem State.writeRow_mem (s : State) (p r lat : Nat) (m v : Row) : (s.writeRow p r lat m v).mem = s.mem := by
  unfold State.writeRow State.writeRowAs; split <;> rfl
@[simp] theorem State.writeRow_full (s : State) (p r lat : Nat) (m v : Row) : (s.writeRow p r lat m v).full = s.full := by
  unfold State.writeRow State.writeRowAs; split <;> rfl
@[simp] theorem State.writeRow_poison (s : State) (p r lat : Nat) (m v : Row) : (s.writeRow p r lat m v).poison = s.poison := by
  unfold State.writeRow State.writeRowAs; split <;> rfl
@[simp] theorem State.writeRow_keyed (s : State) (p r lat : Nat) (m v : Row) : (s.writeRow p r lat m v).keyed = s.keyed := by
  unfold State.writeRow State.writeRowAs; split <;> rfl
@[simp] theorem State.writeRow_strbase (s : State) (p r lat : Nat) (m v : Row) : (s.writeRow p r lat m v).strbase = s.strbase := by
  unfold State.writeRow State.writeRowAs; split <;> rfl
@[simp] theorem State.writeRow_rmapsel (s : State) (p r lat : Nat) (m v : Row) : (s.writeRow p r lat m v).rmapsel = s.rmapsel := by
  unfold State.writeRow State.writeRowAs; split <;> rfl
@[simp] theorem State.writeRow_owner (s : State) (p r lat : Nat) (m v : Row) : (s.writeRow p r lat m v).owner = s.owner := by
  unfold State.writeRow State.writeRowAs; split <;> rfl
@[simp] theorem State.writeRow_ownerOp (s : State) (p r lat : Nat) (m v : Row) : (s.writeRow p r lat m v).ownerOp = s.ownerOp := by
  unfold State.writeRow State.writeRowAs; split <;> rfl
@[simp] theorem State.writeRow_ownerSucc (s : State) (p r lat : Nat) (m v : Row) : (s.writeRow p r lat m v).ownerSucc = s.ownerSucc := by
  unfold State.writeRow State.writeRowAs; split <;> rfl
@[simp] theorem State.writeRow_refused (s : State) (p r lat : Nat) (m v : Row) : (s.writeRow p r lat m v).refused = s.refused := by
  unfold State.writeRow State.writeRowAs; split <;> rfl
@[simp] theorem State.writeRow_linkLost (s : State) (p r lat : Nat) (m v : Row) : (s.writeRow p r lat m v).linkLost = s.linkLost := by
  unfold State.writeRow State.writeRowAs; split <;> rfl
@[simp] theorem State.writeRow_dbgOp (s : State) (p r lat : Nat) (m v : Row) : (s.writeRow p r lat m v).dbgOp = s.dbgOp := by
  unfold State.writeRow State.writeRowAs; split <;> rfl
@[simp] theorem State.writeRow_dbgState (s : State) (p r lat : Nat) (m v : Row) : (s.writeRow p r lat m v).dbgState = s.dbgState := by
  unfold State.writeRow State.writeRowAs; split <;> rfl
@[simp] theorem State.writeRow_dbgCtx (s : State) (p r lat : Nat) (m v : Row) : (s.writeRow p r lat m v).dbgCtx = s.dbgCtx := by
  unfold State.writeRow State.writeRowAs; split <;> rfl
@[simp] theorem State.writeRow_dbgBase (s : State) (p r lat : Nat) (m v : Row) : (s.writeRow p r lat m v).dbgBase = s.dbgBase := by
  unfold State.writeRow State.writeRowAs; split <;> rfl
@[simp] theorem State.writeRow_dbgsel (s : State) (p r lat : Nat) (m v : Row) : (s.writeRow p r lat m v).dbgsel = s.dbgsel := by
  unfold State.writeRow State.writeRowAs; split <;> rfl
@[simp] theorem State.writeRow_ready (s : State) (p r lat : Nat) (m v : Row) : (s.writeRow p r lat m v).ready = s.ready := by
  unfold State.writeRow State.writeRowAs; split <;> rfl
@[simp] theorem State.writeRow_bootStep (s : State) (p r lat : Nat) (m v : Row) : (s.writeRow p r lat m v).bootStep = s.bootStep := by
  unfold State.writeRow State.writeRowAs; split <;> rfl
@[simp] theorem State.writeRow_bootFail (s : State) (p r lat : Nat) (m v : Row) : (s.writeRow p r lat m v).bootFail = s.bootFail := by
  unfold State.writeRow State.writeRowAs; split <;> rfl
@[simp] theorem State.writeRow_passed (s : State) (p r lat : Nat) (m v : Row) : (s.writeRow p r lat m v).passed = s.passed := by
  unfold State.writeRow State.writeRowAs; split <;> rfl
@[simp] theorem State.writeRow_enovh (s : State) (p r lat : Nat) (m v : Row) : (s.writeRow p r lat m v).enovh = s.enovh := by
  unfold State.writeRow State.writeRowAs; split <;> rfl
@[simp] theorem State.writeRow_enctx (s : State) (p r lat : Nat) (m v : Row) : (s.writeRow p r lat m v).enctx = s.enctx := by
  unfold State.writeRow State.writeRowAs; split <;> rfl
@[simp] theorem State.writeRow_ports (s : State) (p r lat : Nat) (m v : Row) : (s.writeRow p r lat m v).ports = s.ports := by
  unfold State.writeRow State.writeRowAs; split <;> rfl
@[simp] theorem State.writeRow_burst (s : State) (p r lat : Nat) (m v : Row) : (s.writeRow p r lat m v).burst = s.burst := by
  unfold State.writeRow State.writeRowAs; split <;> rfl
@[simp] theorem State.writeRow_queues (s : State) (p r lat : Nat) (m v : Row) : (s.writeRow p r lat m v).queues = s.queues := by
  unfold State.writeRow State.writeRowAs; split <;> rfl
@[simp] theorem State.writeRow_hostUp (s : State) (p r lat : Nat) (m v : Row) : (s.writeRow p r lat m v).hostUp = s.hostUp := by
  unfold State.writeRow State.writeRowAs; split <;> rfl
@[simp] theorem State.writeRow_msixHeld (s : State) (p r lat : Nat) (m v : Row) : (s.writeRow p r lat m v).msixHeld = s.msixHeld := by
  unfold State.writeRow State.writeRowAs; split <;> rfl
@[simp] theorem State.writeRow_msix (s : State) (p r lat : Nat) (m v : Row) : (s.writeRow p r lat m v).msix = s.msix := by
  unfold State.writeRow State.writeRowAs; split <;> rfl
@[simp] theorem State.writeRow_hostReads (s : State) (p r lat : Nat) (m v : Row) : (s.writeRow p r lat m v).hostReads = s.hostReads := by
  unfold State.writeRow State.writeRowAs; split <;> rfl
@[simp] theorem State.writeRow_hdmsz (s : State) (p r lat : Nat) (m v : Row) : (s.writeRow p r lat m v).hdmsz = s.hdmsz := by
  unfold State.writeRow State.writeRowAs; split <;> rfl
@[simp] theorem State.writeRow_rstKind (s : State) (p r lat : Nat) (m v : Row) : (s.writeRow p r lat m v).rstKind = s.rstKind := by
  unfold State.writeRow State.writeRowAs; split <;> rfl
@[simp] theorem State.writeRow_rstT4 (s : State) (p r lat : Nat) (m v : Row) : (s.writeRow p r lat m v).rstT4 = s.rstT4 := by
  unfold State.writeRow State.writeRowAs; split <;> rfl
@[simp] theorem State.writeRow_rstT4die (s : State) (p r lat : Nat) (m v : Row) : (s.writeRow p r lat m v).rstT4die = s.rstT4die := by
  unfold State.writeRow State.writeRowAs; split <;> rfl
@[simp] theorem State.writeRow_rstScrub (s : State) (p r lat : Nat) (m v : Row) : (s.writeRow p r lat m v).rstScrub = s.rstScrub := by
  unfold State.writeRow State.writeRowAs; split <;> rfl
@[simp] theorem State.writeRow_rstTick (s : State) (p r lat : Nat) (m v : Row) : (s.writeRow p r lat m v).rstTick = s.rstTick := by
  unfold State.writeRow State.writeRowAs; split <;> rfl
@[simp] theorem State.writeRow_tableHash (s : State) (p r lat : Nat) (m v : Row) : (s.writeRow p r lat m v).tableHash = s.tableHash := by
  unfold State.writeRow State.writeRowAs; split <;> rfl
@[simp] theorem State.writeRow_fwHash (s : State) (p r lat : Nat) (m v : Row) : (s.writeRow p r lat m v).fwHash = s.fwHash := by
  unfold State.writeRow State.writeRowAs; split <;> rfl
@[simp] theorem State.writeRow_ctxs (s : State) (p r lat : Nat) (m v : Row) : (s.writeRow p r lat m v).ctxs = s.ctxs := by
  unfold State.writeRow State.writeRowAs; split <;> rfl
@[simp] theorem State.writeRow_parts (s : State) (p r lat : Nat) (m v : Row) : (s.writeRow p r lat m v).parts = s.parts := by
  unfold State.writeRow State.writeRowAs; split <;> rfl
@[simp] theorem State.writeRow_tracts (s : State) (p r lat : Nat) (m v : Row) : (s.writeRow p r lat m v).tracts = s.tracts := by
  unfold State.writeRow State.writeRowAs; split <;> rfl
@[simp] theorem State.writeRow_insts (s : State) (p r lat : Nat) (m v : Row) : (s.writeRow p r lat m v).insts = s.insts := by
  unfold State.writeRow State.writeRowAs; split <;> rfl
@[simp] theorem State.writeRow_records (s : State) (p r lat : Nat) (m v : Row) : (s.writeRow p r lat m v).records = s.records := by
  unfold State.writeRow State.writeRowAs; split <;> rfl
@[simp] theorem State.writeRow_ringCount (s : State) (p r lat : Nat) (m v : Row) : (s.writeRow p r lat m v).ringCount = s.ringCount := by
  unfold State.writeRow State.writeRowAs; split <;> rfl
@[simp] theorem State.writeRow_messages (s : State) (p r lat : Nat) (m v : Row) : (s.writeRow p r lat m v).messages = s.messages := by
  unfold State.writeRow State.writeRowAs; split <;> rfl
@[simp] theorem State.writeRow_transfers (s : State) (p r lat : Nat) (m v : Row) : (s.writeRow p r lat m v).transfers = s.transfers := by
  unfold State.writeRow State.writeRowAs; split <;> rfl
@[simp] theorem State.writeRow_closures (s : State) (p r lat : Nat) (m v : Row) : (s.writeRow p r lat m v).closures = s.closures := by
  unfold State.writeRow State.writeRowAs; split <;> rfl
@[simp] theorem State.writeRow_nextId (s : State) (p r lat : Nat) (m v : Row) : (s.writeRow p r lat m v).nextId = s.nextId := by
  unfold State.writeRow State.writeRowAs; split <;> rfl
@[simp] theorem State.writeRow_agenda (s : State) (p r lat : Nat) (m v : Row) : (s.writeRow p r lat m v).agenda = s.agenda := by
  unfold State.writeRow State.writeRowAs; split <;> rfl
@[simp] theorem State.writeRow_focus (s : State) (p r lat : Nat) (m v : Row) : (s.writeRow p r lat m v).focus = s.focus := by
  unfold State.writeRow State.writeRowAs; split <;> rfl
@[simp] theorem State.writeRow_fresh (s : State) (p r lat : Nat) (m v : Row) : (s.writeRow p r lat m v).fresh = s.fresh := by
  unfold State.writeRow State.writeRowAs; split <;> rfl

/-! ### `State.putPred` -/

@[simp] theorem State.putPred_now (s : State) (p k q : Nat) (v : BitVec 16) : (s.putPred p k q v).now = s.now := by
  unfold State.putPred; split <;> [rfl; exact State.writeRow_now ..]
@[simp] theorem State.putPred_part (s : State) (p k q : Nat) (v : BitVec 16) : (s.putPred p k q v).part = s.part := by
  unfold State.putPred; split <;> [rfl; exact State.writeRow_part ..]
@[simp] theorem State.putPred_plumbW (s : State) (p k q : Nat) (v : BitVec 16) : (s.putPred p k q v).plumbW = s.plumbW := by
  unfold State.putPred; split <;> [rfl; exact State.writeRow_plumbW ..]
@[simp] theorem State.putPred_plumbCol (s : State) (p k q : Nat) (v : BitVec 16) : (s.putPred p k q v).plumbCol = s.plumbCol := by
  unfold State.putPred; split <;> [rfl; exact State.writeRow_plumbCol ..]
@[simp] theorem State.putPred_clusters (s : State) (p k q : Nat) (v : BitVec 16) : (s.putPred p k q v).clusters = s.clusters := by
  unfold State.putPred; split <;> [rfl; exact State.writeRow_clusters ..]
@[simp] theorem State.putPred_dies (s : State) (p k q : Nat) (v : BitVec 16) : (s.putPred p k q v).dies = s.dies := by
  unfold State.putPred; split <;> [rfl; exact State.writeRow_dies ..]
@[simp] theorem State.putPred_mem (s : State) (p k q : Nat) (v : BitVec 16) : (s.putPred p k q v).mem = s.mem := by
  unfold State.putPred; split <;> [rfl; exact State.writeRow_mem ..]
@[simp] theorem State.putPred_full (s : State) (p k q : Nat) (v : BitVec 16) : (s.putPred p k q v).full = s.full := by
  unfold State.putPred; split <;> [rfl; exact State.writeRow_full ..]
@[simp] theorem State.putPred_poison (s : State) (p k q : Nat) (v : BitVec 16) : (s.putPred p k q v).poison = s.poison := by
  unfold State.putPred; split <;> [rfl; exact State.writeRow_poison ..]
@[simp] theorem State.putPred_keyed (s : State) (p k q : Nat) (v : BitVec 16) : (s.putPred p k q v).keyed = s.keyed := by
  unfold State.putPred; split <;> [rfl; exact State.writeRow_keyed ..]
@[simp] theorem State.putPred_strbase (s : State) (p k q : Nat) (v : BitVec 16) : (s.putPred p k q v).strbase = s.strbase := by
  unfold State.putPred; split <;> [rfl; exact State.writeRow_strbase ..]
@[simp] theorem State.putPred_rmapsel (s : State) (p k q : Nat) (v : BitVec 16) : (s.putPred p k q v).rmapsel = s.rmapsel := by
  unfold State.putPred; split <;> [rfl; exact State.writeRow_rmapsel ..]
@[simp] theorem State.putPred_owner (s : State) (p k q : Nat) (v : BitVec 16) : (s.putPred p k q v).owner = s.owner := by
  unfold State.putPred; split <;> [rfl; exact State.writeRow_owner ..]
@[simp] theorem State.putPred_ownerOp (s : State) (p k q : Nat) (v : BitVec 16) : (s.putPred p k q v).ownerOp = s.ownerOp := by
  unfold State.putPred; split <;> [rfl; exact State.writeRow_ownerOp ..]
@[simp] theorem State.putPred_ownerSucc (s : State) (p k q : Nat) (v : BitVec 16) : (s.putPred p k q v).ownerSucc = s.ownerSucc := by
  unfold State.putPred; split <;> [rfl; exact State.writeRow_ownerSucc ..]
@[simp] theorem State.putPred_refused (s : State) (p k q : Nat) (v : BitVec 16) : (s.putPred p k q v).refused = s.refused := by
  unfold State.putPred; split <;> [rfl; exact State.writeRow_refused ..]
@[simp] theorem State.putPred_linkLost (s : State) (p k q : Nat) (v : BitVec 16) : (s.putPred p k q v).linkLost = s.linkLost := by
  unfold State.putPred; split <;> [rfl; exact State.writeRow_linkLost ..]
@[simp] theorem State.putPred_dbgOp (s : State) (p k q : Nat) (v : BitVec 16) : (s.putPred p k q v).dbgOp = s.dbgOp := by
  unfold State.putPred; split <;> [rfl; exact State.writeRow_dbgOp ..]
@[simp] theorem State.putPred_dbgState (s : State) (p k q : Nat) (v : BitVec 16) : (s.putPred p k q v).dbgState = s.dbgState := by
  unfold State.putPred; split <;> [rfl; exact State.writeRow_dbgState ..]
@[simp] theorem State.putPred_dbgCtx (s : State) (p k q : Nat) (v : BitVec 16) : (s.putPred p k q v).dbgCtx = s.dbgCtx := by
  unfold State.putPred; split <;> [rfl; exact State.writeRow_dbgCtx ..]
@[simp] theorem State.putPred_dbgBase (s : State) (p k q : Nat) (v : BitVec 16) : (s.putPred p k q v).dbgBase = s.dbgBase := by
  unfold State.putPred; split <;> [rfl; exact State.writeRow_dbgBase ..]
@[simp] theorem State.putPred_dbgsel (s : State) (p k q : Nat) (v : BitVec 16) : (s.putPred p k q v).dbgsel = s.dbgsel := by
  unfold State.putPred; split <;> [rfl; exact State.writeRow_dbgsel ..]
@[simp] theorem State.putPred_ready (s : State) (p k q : Nat) (v : BitVec 16) : (s.putPred p k q v).ready = s.ready := by
  unfold State.putPred; split <;> [rfl; exact State.writeRow_ready ..]
@[simp] theorem State.putPred_bootStep (s : State) (p k q : Nat) (v : BitVec 16) : (s.putPred p k q v).bootStep = s.bootStep := by
  unfold State.putPred; split <;> [rfl; exact State.writeRow_bootStep ..]
@[simp] theorem State.putPred_bootFail (s : State) (p k q : Nat) (v : BitVec 16) : (s.putPred p k q v).bootFail = s.bootFail := by
  unfold State.putPred; split <;> [rfl; exact State.writeRow_bootFail ..]
@[simp] theorem State.putPred_passed (s : State) (p k q : Nat) (v : BitVec 16) : (s.putPred p k q v).passed = s.passed := by
  unfold State.putPred; split <;> [rfl; exact State.writeRow_passed ..]
@[simp] theorem State.putPred_enovh (s : State) (p k q : Nat) (v : BitVec 16) : (s.putPred p k q v).enovh = s.enovh := by
  unfold State.putPred; split <;> [rfl; exact State.writeRow_enovh ..]
@[simp] theorem State.putPred_enctx (s : State) (p k q : Nat) (v : BitVec 16) : (s.putPred p k q v).enctx = s.enctx := by
  unfold State.putPred; split <;> [rfl; exact State.writeRow_enctx ..]
@[simp] theorem State.putPred_ports (s : State) (p k q : Nat) (v : BitVec 16) : (s.putPred p k q v).ports = s.ports := by
  unfold State.putPred; split <;> [rfl; exact State.writeRow_ports ..]
@[simp] theorem State.putPred_burst (s : State) (p k q : Nat) (v : BitVec 16) : (s.putPred p k q v).burst = s.burst := by
  unfold State.putPred; split <;> [rfl; exact State.writeRow_burst ..]
@[simp] theorem State.putPred_queues (s : State) (p k q : Nat) (v : BitVec 16) : (s.putPred p k q v).queues = s.queues := by
  unfold State.putPred; split <;> [rfl; exact State.writeRow_queues ..]
@[simp] theorem State.putPred_hostUp (s : State) (p k q : Nat) (v : BitVec 16) : (s.putPred p k q v).hostUp = s.hostUp := by
  unfold State.putPred; split <;> [rfl; exact State.writeRow_hostUp ..]
@[simp] theorem State.putPred_msixHeld (s : State) (p k q : Nat) (v : BitVec 16) : (s.putPred p k q v).msixHeld = s.msixHeld := by
  unfold State.putPred; split <;> [rfl; exact State.writeRow_msixHeld ..]
@[simp] theorem State.putPred_msix (s : State) (p k q : Nat) (v : BitVec 16) : (s.putPred p k q v).msix = s.msix := by
  unfold State.putPred; split <;> [rfl; exact State.writeRow_msix ..]
@[simp] theorem State.putPred_hostReads (s : State) (p k q : Nat) (v : BitVec 16) : (s.putPred p k q v).hostReads = s.hostReads := by
  unfold State.putPred; split <;> [rfl; exact State.writeRow_hostReads ..]
@[simp] theorem State.putPred_hdmsz (s : State) (p k q : Nat) (v : BitVec 16) : (s.putPred p k q v).hdmsz = s.hdmsz := by
  unfold State.putPred; split <;> [rfl; exact State.writeRow_hdmsz ..]
@[simp] theorem State.putPred_rstKind (s : State) (p k q : Nat) (v : BitVec 16) : (s.putPred p k q v).rstKind = s.rstKind := by
  unfold State.putPred; split <;> [rfl; exact State.writeRow_rstKind ..]
@[simp] theorem State.putPred_rstT4 (s : State) (p k q : Nat) (v : BitVec 16) : (s.putPred p k q v).rstT4 = s.rstT4 := by
  unfold State.putPred; split <;> [rfl; exact State.writeRow_rstT4 ..]
@[simp] theorem State.putPred_rstT4die (s : State) (p k q : Nat) (v : BitVec 16) : (s.putPred p k q v).rstT4die = s.rstT4die := by
  unfold State.putPred; split <;> [rfl; exact State.writeRow_rstT4die ..]
@[simp] theorem State.putPred_rstScrub (s : State) (p k q : Nat) (v : BitVec 16) : (s.putPred p k q v).rstScrub = s.rstScrub := by
  unfold State.putPred; split <;> [rfl; exact State.writeRow_rstScrub ..]
@[simp] theorem State.putPred_rstTick (s : State) (p k q : Nat) (v : BitVec 16) : (s.putPred p k q v).rstTick = s.rstTick := by
  unfold State.putPred; split <;> [rfl; exact State.writeRow_rstTick ..]
@[simp] theorem State.putPred_tableHash (s : State) (p k q : Nat) (v : BitVec 16) : (s.putPred p k q v).tableHash = s.tableHash := by
  unfold State.putPred; split <;> [rfl; exact State.writeRow_tableHash ..]
@[simp] theorem State.putPred_fwHash (s : State) (p k q : Nat) (v : BitVec 16) : (s.putPred p k q v).fwHash = s.fwHash := by
  unfold State.putPred; split <;> [rfl; exact State.writeRow_fwHash ..]
@[simp] theorem State.putPred_ctxs (s : State) (p k q : Nat) (v : BitVec 16) : (s.putPred p k q v).ctxs = s.ctxs := by
  unfold State.putPred; split <;> [rfl; exact State.writeRow_ctxs ..]
@[simp] theorem State.putPred_parts (s : State) (p k q : Nat) (v : BitVec 16) : (s.putPred p k q v).parts = s.parts := by
  unfold State.putPred; split <;> [rfl; exact State.writeRow_parts ..]
@[simp] theorem State.putPred_tracts (s : State) (p k q : Nat) (v : BitVec 16) : (s.putPred p k q v).tracts = s.tracts := by
  unfold State.putPred; split <;> [rfl; exact State.writeRow_tracts ..]
@[simp] theorem State.putPred_insts (s : State) (p k q : Nat) (v : BitVec 16) : (s.putPred p k q v).insts = s.insts := by
  unfold State.putPred; split <;> [rfl; exact State.writeRow_insts ..]
@[simp] theorem State.putPred_records (s : State) (p k q : Nat) (v : BitVec 16) : (s.putPred p k q v).records = s.records := by
  unfold State.putPred; split <;> [rfl; exact State.writeRow_records ..]
@[simp] theorem State.putPred_ringCount (s : State) (p k q : Nat) (v : BitVec 16) : (s.putPred p k q v).ringCount = s.ringCount := by
  unfold State.putPred; split <;> [rfl; exact State.writeRow_ringCount ..]
@[simp] theorem State.putPred_messages (s : State) (p k q : Nat) (v : BitVec 16) : (s.putPred p k q v).messages = s.messages := by
  unfold State.putPred; split <;> [rfl; exact State.writeRow_messages ..]
@[simp] theorem State.putPred_transfers (s : State) (p k q : Nat) (v : BitVec 16) : (s.putPred p k q v).transfers = s.transfers := by
  unfold State.putPred; split <;> [rfl; exact State.writeRow_transfers ..]
@[simp] theorem State.putPred_closures (s : State) (p k q : Nat) (v : BitVec 16) : (s.putPred p k q v).closures = s.closures := by
  unfold State.putPred; split <;> [rfl; exact State.writeRow_closures ..]
@[simp] theorem State.putPred_nextId (s : State) (p k q : Nat) (v : BitVec 16) : (s.putPred p k q v).nextId = s.nextId := by
  unfold State.putPred; split <;> [rfl; exact State.writeRow_nextId ..]
@[simp] theorem State.putPred_agenda (s : State) (p k q : Nat) (v : BitVec 16) : (s.putPred p k q v).agenda = s.agenda := by
  unfold State.putPred; split <;> [rfl; exact State.writeRow_agenda ..]
@[simp] theorem State.putPred_focus (s : State) (p k q : Nat) (v : BitVec 16) : (s.putPred p k q v).focus = s.focus := by
  unfold State.putPred; split <;> [rfl; exact State.writeRow_focus ..]
@[simp] theorem State.putPred_fresh (s : State) (p k q : Nat) (v : BitVec 16) : (s.putPred p k q v).fresh = s.fresh := by
  unfold State.putPred; split <;> [rfl; exact State.writeRow_fresh ..]

/-! ### `Core.setStrand` -/

@[simp] theorem Core.setStrand_rows (c : Core) (k : Nat) (t : Strand) : (c.setStrand k t).rows = c.rows := rfl
@[simp] theorem Core.setStrand_bad (c : Core) (k : Nat) (t : Strand) : (c.setStrand k t).bad = c.bad := rfl
@[simp] theorem Core.setStrand_locks (c : Core) (k : Nat) (t : Strand) : (c.setStrand k t).locks = c.locks := rfl
@[simp] theorem Core.setStrand_reading (c : Core) (k : Nat) (t : Strand) : (c.setStrand k t).reading = c.reading := rfl
@[simp] theorem Core.setStrand_late (c : Core) (k : Nat) (t : Strand) : (c.setStrand k t).late = c.late := rfl
@[simp] theorem Core.setStrand_cycle (c : Core) (k : Nat) (t : Strand) : (c.setStrand k t).cycle = c.cycle := rfl
@[simp] theorem Core.setStrand_seq (c : Core) (k : Nat) (t : Strand) : (c.setStrand k t).seq = c.seq := rfl
@[simp] theorem Core.setStrand_ops (c : Core) (k : Nat) (t : Strand) : (c.setStrand k t).ops = c.ops := rfl
@[simp] theorem Core.setStrand_utlb (c : Core) (k : Nat) (t : Strand) : (c.setStrand k t).utlb = c.utlb := rfl
@[simp] theorem Core.setStrand_rbloss (c : Core) (k : Nat) (t : Strand) : (c.setStrand k t).rbloss = c.rbloss := rfl
@[simp] theorem Core.setStrand_first (c : Core) (k : Nat) (t : Strand) : (c.setStrand k t).first = c.first := rfl
@[simp] theorem Core.setStrand_table (c : Core) (k : Nat) (t : Strand) : (c.setStrand k t).table = c.table := rfl
@[simp] theorem Core.setStrand_v8 (c : Core) (k : Nat) (t : Strand) : (c.setStrand k t).v8 = c.v8 := rfl
@[simp] theorem Core.setStrand_v4 (c : Core) (k : Nat) (t : Strand) : (c.setStrand k t).v4 = c.v4 := rfl
@[simp] theorem Core.setStrand_loading (c : Core) (k : Nat) (t : Strand) : (c.setStrand k t).loading = c.loading := rfl
@[simp] theorem Core.setStrand_srseed (c : Core) (k : Nat) (t : Strand) : (c.setStrand k t).srseed = c.srseed := rfl
@[simp] theorem Core.setStrand_uf0 (c : Core) (k : Nat) (t : Strand) : (c.setStrand k t).uf0 = c.uf0 := rfl
@[simp] theorem Core.setStrand_uf1 (c : Core) (k : Nat) (t : Strand) : (c.setStrand k t).uf1 = c.uf1 := rfl
@[simp] theorem Core.setStrand_uf2 (c : Core) (k : Nat) (t : Strand) : (c.setStrand k t).uf2 = c.uf2 := rfl
@[simp] theorem Core.setStrand_uf3 (c : Core) (k : Nat) (t : Strand) : (c.setStrand k t).uf3 = c.uf3 := rfl
@[simp] theorem Core.setStrand_narrowing (c : Core) (k : Nat) (t : Strand) : (c.setStrand k t).narrowing = c.narrowing := rfl
@[simp] theorem Core.setStrand_escTraps (c : Core) (k : Nat) (t : Strand) : (c.setStrand k t).escTraps = c.escTraps := rfl
@[simp] theorem Core.setStrand_escThresh (c : Core) (k : Nat) (t : Strand) : (c.setStrand k t).escThresh = c.escThresh := rfl
@[simp] theorem Core.setStrand_sup (c : Core) (k : Nat) (t : Strand) : (c.setStrand k t).sup = c.sup := rfl
@[simp] theorem Core.setStrand_power (c : Core) (k : Nat) (t : Strand) : (c.setStrand k t).power = c.power := rfl
@[simp] theorem Core.setStrand_fb (c : Core) (k : Nat) (t : Strand) : (c.setStrand k t).fb = c.fb := rfl
@[simp] theorem Core.setStrand_health (c : Core) (k : Nat) (t : Strand) : (c.setStrand k t).health = c.health := rfl
@[simp] theorem Core.setStrand_exch (c : Core) (k : Nat) (t : Strand) : (c.setStrand k t).exch = c.exch := rfl
@[simp] theorem Core.setStrand_eqMin (c : Core) (k : Nat) (t : Strand) : (c.setStrand k t).eqMin = c.eqMin := rfl
@[simp] theorem Core.setStrand_eqCap (c : Core) (k : Nat) (t : Strand) : (c.setStrand k t).eqCap = c.eqCap := rfl
@[simp] theorem Core.setStrand_chains (c : Core) (k : Nat) (t : Strand) : (c.setStrand k t).chains = c.chains := rfl
@[simp] theorem Core.setStrand_queue (c : Core) (k : Nat) (t : Strand) : (c.setStrand k t).queue = c.queue := rfl
@[simp] theorem Core.setStrand_undel (c : Core) (k : Nat) (t : Strand) : (c.setStrand k t).undel = c.undel := rfl
@[simp] theorem Core.setStrand_gang (c : Core) (k : Nat) (t : Strand) : (c.setStrand k t).gang = c.gang := rfl
@[simp] theorem Core.setStrand_migrate (c : Core) (k : Nat) (t : Strand) : (c.setStrand k t).migrate = c.migrate := rfl
@[simp] theorem Core.setStrand_stop (c : Core) (k : Nat) (t : Strand) : (c.setStrand k t).stop = c.stop := rfl
@[simp] theorem Core.setStrand_halt (c : Core) (k : Nat) (t : Strand) : (c.setStrand k t).halt = c.halt := rfl
@[simp] theorem Core.setStrand_resumeAt (c : Core) (k : Nat) (t : Strand) : (c.setStrand k t).resumeAt = c.resumeAt := rfl
@[simp] theorem Core.setStrand_stopTotal (c : Core) (k : Nat) (t : Strand) : (c.setStrand k t).stopTotal = c.stopTotal := rfl
@[simp] theorem Core.setStrand_stopSince (c : Core) (k : Nat) (t : Strand) : (c.setStrand k t).stopSince = c.stopSince := rfl
@[simp] theorem Core.setStrand_pairStops (c : Core) (k : Nat) (t : Strand) : (c.setStrand k t).pairStops = c.pairStops := rfl
@[simp] theorem Core.setStrand_place (c : Core) (k : Nat) (t : Strand) : (c.setStrand k t).place = c.place := rfl
@[simp] theorem Core.setStrand_twinVals (c : Core) (k : Nat) (t : Strand) : (c.setStrand k t).twinVals = c.twinVals := rfl
@[simp] theorem Core.setStrand_istore (c : Core) (k : Nat) (t : Strand) : (c.setStrand k t).istore = c.istore := rfl
@[simp] theorem Core.setStrand_ended (c : Core) (k : Nat) (t : Strand) : (c.setStrand k t).ended = c.ended := rfl
@[simp] theorem Core.setStrand_helpersKilled (c : Core) (k : Nat) (t : Strand) : (c.setStrand k t).helpersKilled = c.helpersKilled := rfl
@[simp] theorem Core.setStrand_cut (c : Core) (k : Nat) (t : Strand) : (c.setStrand k t).cut = c.cut := rfl

/-! ### `Core.setRow` -/

@[simp] theorem Core.setRow_bad (c : Core) (r : Nat) (v : Row) : (c.setRow r v).bad = c.bad := rfl
@[simp] theorem Core.setRow_locks (c : Core) (r : Nat) (v : Row) : (c.setRow r v).locks = c.locks := rfl
@[simp] theorem Core.setRow_reading (c : Core) (r : Nat) (v : Row) : (c.setRow r v).reading = c.reading := rfl
@[simp] theorem Core.setRow_late (c : Core) (r : Nat) (v : Row) : (c.setRow r v).late = c.late := rfl
@[simp] theorem Core.setRow_strands (c : Core) (r : Nat) (v : Row) : (c.setRow r v).strands = c.strands := rfl
@[simp] theorem Core.setRow_cycle (c : Core) (r : Nat) (v : Row) : (c.setRow r v).cycle = c.cycle := rfl
@[simp] theorem Core.setRow_seq (c : Core) (r : Nat) (v : Row) : (c.setRow r v).seq = c.seq := rfl
@[simp] theorem Core.setRow_ops (c : Core) (r : Nat) (v : Row) : (c.setRow r v).ops = c.ops := rfl
@[simp] theorem Core.setRow_utlb (c : Core) (r : Nat) (v : Row) : (c.setRow r v).utlb = c.utlb := rfl
@[simp] theorem Core.setRow_rbloss (c : Core) (r : Nat) (v : Row) : (c.setRow r v).rbloss = c.rbloss := rfl
@[simp] theorem Core.setRow_first (c : Core) (r : Nat) (v : Row) : (c.setRow r v).first = c.first := rfl
@[simp] theorem Core.setRow_table (c : Core) (r : Nat) (v : Row) : (c.setRow r v).table = c.table := rfl
@[simp] theorem Core.setRow_v8 (c : Core) (r : Nat) (v : Row) : (c.setRow r v).v8 = c.v8 := rfl
@[simp] theorem Core.setRow_v4 (c : Core) (r : Nat) (v : Row) : (c.setRow r v).v4 = c.v4 := rfl
@[simp] theorem Core.setRow_loading (c : Core) (r : Nat) (v : Row) : (c.setRow r v).loading = c.loading := rfl
@[simp] theorem Core.setRow_srseed (c : Core) (r : Nat) (v : Row) : (c.setRow r v).srseed = c.srseed := rfl
@[simp] theorem Core.setRow_uf0 (c : Core) (r : Nat) (v : Row) : (c.setRow r v).uf0 = c.uf0 := rfl
@[simp] theorem Core.setRow_uf1 (c : Core) (r : Nat) (v : Row) : (c.setRow r v).uf1 = c.uf1 := rfl
@[simp] theorem Core.setRow_uf2 (c : Core) (r : Nat) (v : Row) : (c.setRow r v).uf2 = c.uf2 := rfl
@[simp] theorem Core.setRow_uf3 (c : Core) (r : Nat) (v : Row) : (c.setRow r v).uf3 = c.uf3 := rfl
@[simp] theorem Core.setRow_narrowing (c : Core) (r : Nat) (v : Row) : (c.setRow r v).narrowing = c.narrowing := rfl
@[simp] theorem Core.setRow_escTraps (c : Core) (r : Nat) (v : Row) : (c.setRow r v).escTraps = c.escTraps := rfl
@[simp] theorem Core.setRow_escThresh (c : Core) (r : Nat) (v : Row) : (c.setRow r v).escThresh = c.escThresh := rfl
@[simp] theorem Core.setRow_sup (c : Core) (r : Nat) (v : Row) : (c.setRow r v).sup = c.sup := rfl
@[simp] theorem Core.setRow_power (c : Core) (r : Nat) (v : Row) : (c.setRow r v).power = c.power := rfl
@[simp] theorem Core.setRow_fb (c : Core) (r : Nat) (v : Row) : (c.setRow r v).fb = c.fb := rfl
@[simp] theorem Core.setRow_health (c : Core) (r : Nat) (v : Row) : (c.setRow r v).health = c.health := rfl
@[simp] theorem Core.setRow_exch (c : Core) (r : Nat) (v : Row) : (c.setRow r v).exch = c.exch := rfl
@[simp] theorem Core.setRow_eqMin (c : Core) (r : Nat) (v : Row) : (c.setRow r v).eqMin = c.eqMin := rfl
@[simp] theorem Core.setRow_eqCap (c : Core) (r : Nat) (v : Row) : (c.setRow r v).eqCap = c.eqCap := rfl
@[simp] theorem Core.setRow_chains (c : Core) (r : Nat) (v : Row) : (c.setRow r v).chains = c.chains := rfl
@[simp] theorem Core.setRow_queue (c : Core) (r : Nat) (v : Row) : (c.setRow r v).queue = c.queue := rfl
@[simp] theorem Core.setRow_undel (c : Core) (r : Nat) (v : Row) : (c.setRow r v).undel = c.undel := rfl
@[simp] theorem Core.setRow_gang (c : Core) (r : Nat) (v : Row) : (c.setRow r v).gang = c.gang := rfl
@[simp] theorem Core.setRow_migrate (c : Core) (r : Nat) (v : Row) : (c.setRow r v).migrate = c.migrate := rfl
@[simp] theorem Core.setRow_stop (c : Core) (r : Nat) (v : Row) : (c.setRow r v).stop = c.stop := rfl
@[simp] theorem Core.setRow_halt (c : Core) (r : Nat) (v : Row) : (c.setRow r v).halt = c.halt := rfl
@[simp] theorem Core.setRow_resumeAt (c : Core) (r : Nat) (v : Row) : (c.setRow r v).resumeAt = c.resumeAt := rfl
@[simp] theorem Core.setRow_stopTotal (c : Core) (r : Nat) (v : Row) : (c.setRow r v).stopTotal = c.stopTotal := rfl
@[simp] theorem Core.setRow_stopSince (c : Core) (r : Nat) (v : Row) : (c.setRow r v).stopSince = c.stopSince := rfl
@[simp] theorem Core.setRow_pairStops (c : Core) (r : Nat) (v : Row) : (c.setRow r v).pairStops = c.pairStops := rfl
@[simp] theorem Core.setRow_place (c : Core) (r : Nat) (v : Row) : (c.setRow r v).place = c.place := rfl
@[simp] theorem Core.setRow_twinVals (c : Core) (r : Nat) (v : Row) : (c.setRow r v).twinVals = c.twinVals := rfl
@[simp] theorem Core.setRow_istore (c : Core) (r : Nat) (v : Row) : (c.setRow r v).istore = c.istore := rfl
@[simp] theorem Core.setRow_ended (c : Core) (r : Nat) (v : Row) : (c.setRow r v).ended = c.ended := rfl
@[simp] theorem Core.setRow_helpersKilled (c : Core) (r : Nat) (v : Row) : (c.setRow r v).helpersKilled = c.helpersKilled := rfl
@[simp] theorem Core.setRow_cut (c : Core) (r : Nat) (v : Row) : (c.setRow r v).cut = c.cut := rfl

/-! ### `Core.blendRow` -/

@[simp] theorem Core.blendRow_locks (c : Core) (r : Nat) (m v : Row) : (c.blendRow r m v).locks = c.locks := rfl
@[simp] theorem Core.blendRow_reading (c : Core) (r : Nat) (m v : Row) : (c.blendRow r m v).reading = c.reading := rfl
@[simp] theorem Core.blendRow_late (c : Core) (r : Nat) (m v : Row) : (c.blendRow r m v).late = c.late := rfl
@[simp] theorem Core.blendRow_strands (c : Core) (r : Nat) (m v : Row) : (c.blendRow r m v).strands = c.strands := rfl
@[simp] theorem Core.blendRow_cycle (c : Core) (r : Nat) (m v : Row) : (c.blendRow r m v).cycle = c.cycle := rfl
@[simp] theorem Core.blendRow_seq (c : Core) (r : Nat) (m v : Row) : (c.blendRow r m v).seq = c.seq := rfl
@[simp] theorem Core.blendRow_ops (c : Core) (r : Nat) (m v : Row) : (c.blendRow r m v).ops = c.ops := rfl
@[simp] theorem Core.blendRow_utlb (c : Core) (r : Nat) (m v : Row) : (c.blendRow r m v).utlb = c.utlb := rfl
@[simp] theorem Core.blendRow_rbloss (c : Core) (r : Nat) (m v : Row) : (c.blendRow r m v).rbloss = c.rbloss := rfl
@[simp] theorem Core.blendRow_first (c : Core) (r : Nat) (m v : Row) : (c.blendRow r m v).first = c.first := rfl
@[simp] theorem Core.blendRow_table (c : Core) (r : Nat) (m v : Row) : (c.blendRow r m v).table = c.table := rfl
@[simp] theorem Core.blendRow_v8 (c : Core) (r : Nat) (m v : Row) : (c.blendRow r m v).v8 = c.v8 := rfl
@[simp] theorem Core.blendRow_v4 (c : Core) (r : Nat) (m v : Row) : (c.blendRow r m v).v4 = c.v4 := rfl
@[simp] theorem Core.blendRow_loading (c : Core) (r : Nat) (m v : Row) : (c.blendRow r m v).loading = c.loading := rfl
@[simp] theorem Core.blendRow_srseed (c : Core) (r : Nat) (m v : Row) : (c.blendRow r m v).srseed = c.srseed := rfl
@[simp] theorem Core.blendRow_uf0 (c : Core) (r : Nat) (m v : Row) : (c.blendRow r m v).uf0 = c.uf0 := rfl
@[simp] theorem Core.blendRow_uf1 (c : Core) (r : Nat) (m v : Row) : (c.blendRow r m v).uf1 = c.uf1 := rfl
@[simp] theorem Core.blendRow_uf2 (c : Core) (r : Nat) (m v : Row) : (c.blendRow r m v).uf2 = c.uf2 := rfl
@[simp] theorem Core.blendRow_uf3 (c : Core) (r : Nat) (m v : Row) : (c.blendRow r m v).uf3 = c.uf3 := rfl
@[simp] theorem Core.blendRow_narrowing (c : Core) (r : Nat) (m v : Row) : (c.blendRow r m v).narrowing = c.narrowing := rfl
@[simp] theorem Core.blendRow_escTraps (c : Core) (r : Nat) (m v : Row) : (c.blendRow r m v).escTraps = c.escTraps := rfl
@[simp] theorem Core.blendRow_escThresh (c : Core) (r : Nat) (m v : Row) : (c.blendRow r m v).escThresh = c.escThresh := rfl
@[simp] theorem Core.blendRow_sup (c : Core) (r : Nat) (m v : Row) : (c.blendRow r m v).sup = c.sup := rfl
@[simp] theorem Core.blendRow_power (c : Core) (r : Nat) (m v : Row) : (c.blendRow r m v).power = c.power := rfl
@[simp] theorem Core.blendRow_fb (c : Core) (r : Nat) (m v : Row) : (c.blendRow r m v).fb = c.fb := rfl
@[simp] theorem Core.blendRow_health (c : Core) (r : Nat) (m v : Row) : (c.blendRow r m v).health = c.health := rfl
@[simp] theorem Core.blendRow_exch (c : Core) (r : Nat) (m v : Row) : (c.blendRow r m v).exch = c.exch := rfl
@[simp] theorem Core.blendRow_eqMin (c : Core) (r : Nat) (m v : Row) : (c.blendRow r m v).eqMin = c.eqMin := rfl
@[simp] theorem Core.blendRow_eqCap (c : Core) (r : Nat) (m v : Row) : (c.blendRow r m v).eqCap = c.eqCap := rfl
@[simp] theorem Core.blendRow_chains (c : Core) (r : Nat) (m v : Row) : (c.blendRow r m v).chains = c.chains := rfl
@[simp] theorem Core.blendRow_queue (c : Core) (r : Nat) (m v : Row) : (c.blendRow r m v).queue = c.queue := rfl
@[simp] theorem Core.blendRow_undel (c : Core) (r : Nat) (m v : Row) : (c.blendRow r m v).undel = c.undel := rfl
@[simp] theorem Core.blendRow_gang (c : Core) (r : Nat) (m v : Row) : (c.blendRow r m v).gang = c.gang := rfl
@[simp] theorem Core.blendRow_migrate (c : Core) (r : Nat) (m v : Row) : (c.blendRow r m v).migrate = c.migrate := rfl
@[simp] theorem Core.blendRow_stop (c : Core) (r : Nat) (m v : Row) : (c.blendRow r m v).stop = c.stop := rfl
@[simp] theorem Core.blendRow_halt (c : Core) (r : Nat) (m v : Row) : (c.blendRow r m v).halt = c.halt := rfl
@[simp] theorem Core.blendRow_resumeAt (c : Core) (r : Nat) (m v : Row) : (c.blendRow r m v).resumeAt = c.resumeAt := rfl
@[simp] theorem Core.blendRow_stopTotal (c : Core) (r : Nat) (m v : Row) : (c.blendRow r m v).stopTotal = c.stopTotal := rfl
@[simp] theorem Core.blendRow_stopSince (c : Core) (r : Nat) (m v : Row) : (c.blendRow r m v).stopSince = c.stopSince := rfl
@[simp] theorem Core.blendRow_pairStops (c : Core) (r : Nat) (m v : Row) : (c.blendRow r m v).pairStops = c.pairStops := rfl
@[simp] theorem Core.blendRow_place (c : Core) (r : Nat) (m v : Row) : (c.blendRow r m v).place = c.place := rfl
@[simp] theorem Core.blendRow_twinVals (c : Core) (r : Nat) (m v : Row) : (c.blendRow r m v).twinVals = c.twinVals := rfl
@[simp] theorem Core.blendRow_istore (c : Core) (r : Nat) (m v : Row) : (c.blendRow r m v).istore = c.istore := rfl
@[simp] theorem Core.blendRow_ended (c : Core) (r : Nat) (m v : Row) : (c.blendRow r m v).ended = c.ended := rfl
@[simp] theorem Core.blendRow_helpersKilled (c : Core) (r : Nat) (m v : Row) : (c.blendRow r m v).helpersKilled = c.helpersKilled := rfl
@[simp] theorem Core.blendRow_cut (c : Core) (r : Nat) (m v : Row) : (c.blendRow r m v).cut = c.cut := rfl

end Sys2Proof.Machine
end

