-- ==== Sys2Proof/Laws/Maps.lean ====
section
/-! SUPPORT. Read after write for sparse maps, cores, strands and register rows. -/

namespace Sys2Proof.Machine

/-! ## Sparse maps -/

@[simp] theorem look_nil {α : Type} (d : α) (k : Nat) : look d k ([] : AMap α) = d := rfl

@[simp] theorem look_put_same {α : Type} (d v : α) (k : Nat) (m : AMap α) : look d k (put k v m) = v := by
  induction m with
  | nil => simp [put, look]
  | cons e r ih =>
    obtain ⟨j, w⟩ := e
    by_cases h1 : k < j
    · simp [put, look, h1]
    · by_cases h2 : k = j
      · simp [put, look, h2]
      · simp [put, look, h1, h2, Ne.symm h2, ih]

theorem look_put_other {α : Type} {d v : α} {j k : Nat} (h : j ≠ k) (m : AMap α) : look d j (put k v m) = look d j m := by
  induction m with
  | nil => simp [put, look, Ne.symm h]
  | cons e r ih =>
    obtain ⟨i, w⟩ := e
    by_cases h1 : k < i
    · simp [put, look, h1, Ne.symm h]
    · by_cases h2 : k = i
      · subst h2; simp [put, look, Ne.symm h]
      · by_cases h3 : i = j
        · subst h3; simp [put, look, h1, h2]
        · simp [put, look, h1, h2, h3, ih]

@[simp] theorem look_del_same {α : Type} (d : α) (k : Nat) (m : AMap α) : look d k (del k m) = d := by
  induction m with
  | nil => rfl
  | cons e r ih =>
    obtain ⟨i, w⟩ := e
    by_cases h : i = k
    · simpa [del, h] using ih
    · simpa [del, h, look] using ih

theorem look_del_other {α : Type} {d : α} {j k : Nat} (h : j ≠ k) (m : AMap α) : look d j (del k m) = look d j m := by
  induction m with
  | nil => rfl
  | cons e r ih =>
    obtain ⟨i, w⟩ := e
    by_cases h1 : i = k
    · subst h1; simpa [del, look, Ne.symm h] using ih
    · by_cases h2 : i = j
      · subst h2; simp [del, h1, look]
      · simpa [del, h1, look, h2] using ih

@[simp] theorem find_put_same {α : Type} (v : α) (k : Nat) (m : AMap α) : find k (put k v m) = some v := by
  induction m with
  | nil => simp [put, find]
  | cons e r ih =>
    obtain ⟨j, w⟩ := e
    by_cases h1 : k < j
    · simp [put, find, h1]
    · by_cases h2 : k = j
      · simp [put, find, h2]
      · simp [put, find, h1, h2, Ne.symm h2, ih]

theorem find_put_other {α : Type} {v : α} {j k : Nat} (h : j ≠ k) (m : AMap α) : find j (put k v m) = find j m := by
  induction m with
  | nil => simp [put, find, Ne.symm h]
  | cons e r ih =>
    obtain ⟨i, w⟩ := e
    by_cases h1 : k < i
    · simp [put, find, h1, Ne.symm h]
    · by_cases h2 : k = i
      · subst h2; simp [put, find, Ne.symm h]
      · by_cases h3 : i = j
        · subst h3; simp [put, find, h1, h2]
        · simp [put, find, h1, h2, h3, ih]

/-! ## Cores, clusters, dies, queues -/

@[simp] theorem core_setCore_same (s : State) (p : Nat) (c : Core) : (s.setCore p c).core p = c := look_put_same ..

theorem core_setCore_other {s : State} {p q : Nat} {c : Core} (h : q ≠ p) : (s.setCore p c).core q = s.core q := look_put_other h _

@[simp] theorem core_modCore_same (s : State) (p : Nat) (f : Core → Core) : (s.modCore p f).core p = f (s.core p) := look_put_same ..

theorem core_modCore_other {s : State} {p q : Nat} {f : Core → Core} (h : q ≠ p) : (s.modCore p f).core q = s.core q := look_put_other h _

@[simp] theorem cluster_modCluster_same (s : State) (n : Nat) (f : Cluster → Cluster) :
    (s.modCluster n f).cluster n = f (s.cluster n) := look_put_same ..

theorem cluster_modCluster_other {s : State} {n m : Nat} {f : Cluster → Cluster} (h : m ≠ n) :
    (s.modCluster n f).cluster m = s.cluster m := look_put_other h _

@[simp] theorem die_modDie_same (s : State) (n : Nat) (f : Die → Die) : (s.modDie n f).die n = f (s.die n) := look_put_same ..

theorem die_modDie_other {s : State} {n m : Nat} {f : Die → Die} (h : m ≠ n) : (s.modDie n f).die m = s.die m := look_put_other h _

@[simp] theorem queue_modQueue_same (s : State) (n : Nat) (f : PQueue → PQueue) : (s.modQueue n f).queue n = f (s.queue n) :=
  look_put_same ..

theorem queue_modQueue_other {s : State} {n m : Nat} {f : PQueue → PQueue} (h : m ≠ n) : (s.modQueue n f).queue m = s.queue m :=
  look_put_other h _

/-! ## Strands -/

@[simp] theorem strand_setStrand_same (c : Core) (k : Nat) (t : Strand) : (c.setStrand k t).strand k = t := look_put_same ..

theorem strand_setStrand_other {c : Core} {j k : Nat} {t : Strand} (h : j ≠ k) : (c.setStrand k t).strand j = c.strand j :=
  look_put_other h _

@[simp] theorem strand_modStrand_same (s : State) (p k : Nat) (f : Strand → Strand) :
    (s.modStrand p k f).strand p k = f (s.strand p k) := by
  simp [State.modStrand, State.strand]

theorem strand_modStrand_other {s : State} {p q j k : Nat} {f : Strand → Strand} (h : q ≠ p ∨ j ≠ k) :
    (s.modStrand p k f).strand q j = s.strand q j := by
  by_cases hq : q = p
  · subst hq
    simp [State.modStrand, State.strand, strand_setStrand_other (h.resolve_left (· rfl))]
  · simp [State.modStrand, State.strand, core_modCore_other hq]

/-- A register write moves no strand. -/
@[simp] theorem strand_blendRow (s : State) (p r q k : Nat) (m v : Row) : (s.blendRow p r m v).strand q k = s.strand q k := by
  by_cases h : q = p
  · subst h; simp [State.blendRow, State.strand, Core.strand]
  · simp [State.blendRow, State.strand, core_modCore_other h]

/-! ## Register rows -/

@[simp] theorem row_setRow_same (c : Core) (r : Nat) (v : Row) : (c.setRow r v).row r = v := look_put_same ..

theorem row_setRow_other {c : Core} {q r : Nat} {v : Row} (h : q ≠ r) : (c.setRow r v).row q = c.row q := look_put_other h _

/-- A row after a masked write of it. -/
@[simp] theorem row_blendRow_same (s : State) (p r : Nat) (m v : Row) : (s.blendRow p r m v).row p r = blend (s.row p r) m v := by
  simp only [State.blendRow, State.row, core_modCore_same]
  exact look_put_same ..

/-- A masked write leaves every other row of every core alone. -/
theorem row_blendRow_other {s : State} {p q r i : Nat} {m v : Row} (h : q ≠ p ∨ i ≠ r) : (s.blendRow p r m v).row q i = s.row q i := by
  by_cases hq : q = p
  · subst hq
    simp only [State.blendRow, State.row, core_modCore_same]
    exact look_put_other (h.resolve_left (· rfl)) _
  · simp [State.blendRow, State.row, core_modCore_other hq]

/-- A change of a strand moves no register row. -/
@[simp] theorem row_modStrand (s : State) (p k q r : Nat) (f : Strand → Strand) : (s.modStrand p k f).row q r = s.row q r := by
  by_cases h : q = p
  · subst h; simp [State.modStrand, State.row, Core.row]
  · simp [State.modStrand, State.row, core_modCore_other h]

/-- A masked write keeps the bits outside its mask. -/
theorem blend_bit (old m v : Row) (i : Nat) : (blend old m v).getLsbD i = if m.getLsbD i then v.getLsbD i else old.getLsbD i := by
  by_cases hi : i < 512
  · simp only [blend, BitVec.getLsbD_or, BitVec.getLsbD_and, BitVec.getLsbD_not, hi, decide_true, Bool.true_and]
    cases m.getLsbD i <;> simp
  · simp [blend, BitVec.getLsbD_of_ge, Nat.le_of_not_lt hi]

end Sys2Proof.Machine
end

