-- ==== Sys2Proof/Laws/Memory.lean ====
section
/-! SUPPORT. Memory: read after write, and the canonical form that every memory operation keeps. -/

namespace Sys2Proof.Machine

/-! ## Read after write -/

theorem memGet_memPut (a b : Nat) (v : Byte) (m : List Host.Cell) : memGet b (memPut a v m) = if b = a then v else memGet b m := by
  induction m with
  | nil =>
    by_cases h : b = a
    · simp [memPut, memGet, h]
    · simp [memPut, memGet, h, Ne.symm h]
  | cons e r ih =>
    obtain ⟨j, w⟩ := e
    by_cases h1 : a < j
    · by_cases h : a = b
      · subst h; simp [memPut, memGet, h1]
      · simp [memPut, memGet, h1, h, Ne.symm h]
    · by_cases h2 : a = j
      · subst h2
        by_cases h : a = b
        · subst h; simp [memPut, memGet]
        · simp [memPut, memGet, h, Ne.symm h]
      · by_cases h3 : j = b
        · subst h3; simp [memPut, memGet, h1, h2, Ne.symm h2]
        · simp [memPut, memGet, h1, h2, h3, ih]

theorem memGet_filter (q : Nat → Bool) (b : Nat) (m : List Host.Cell) :
    memGet b (m.filter fun e => q e.1) = if q b then memGet b m else 0 := by
  induction m with
  | nil => simp [memGet]
  | cons e r ih =>
    obtain ⟨j, w⟩ := e
    by_cases hq : q j
    · by_cases hb : j = b
      · subst hb; simp [hq, memGet]
      · simp [hq, memGet, hb, ih]
    · by_cases hb : j = b
      · subst hb; simp [hq, ih]
      · simp [hq, memGet, hb, ih]

/-- A byte after one byte is written. -/
theorem memGet_memSet (a b : Nat) (v : Byte) (m : List Host.Cell) : memGet b (memSet a v m) = if b = a then v else memGet b m := by
  unfold memSet
  split
  · next h =>
    have := memGet_filter (fun k => decide (k ≠ a)) b m
    by_cases hb : b = a
    · simp_all
    · simp_all
  · exact memGet_memPut a b v m

/-- A byte after consecutive bytes are written. -/
theorem memGet_memStore (a b : Nat) (bs : List Byte) (m : List Host.Cell) :
    memGet b (memStore a bs m) = if a ≤ b ∧ b < a + bs.length then bs.getD (b - a) 0 else memGet b m := by
  induction bs generalizing a m with
  | nil => simp [memStore]
  | cons x r ih =>
    rw [memStore, ih, memGet_memSet]
    by_cases h0 : b = a
    · subst h0
      simp
    · by_cases h1 : a + 1 ≤ b ∧ b < a + 1 + r.length
      · have h2 : a ≤ b ∧ b < a + (x :: r).length := by simp; omega
        have h3 : b - a = (b - (a + 1)) + 1 := by omega
        rw [if_pos h1, if_pos h2, h3]; simp
      · have h2 : ¬ (a ≤ b ∧ b < a + (x :: r).length) := by simp; omega
        rw [if_neg h1, if_neg h2, if_neg h0]

/-! ### Lines and their keys (R385) -/

theorem length_natBytes (n x : Nat) : (natBytes n x).length = n := by
  induction n generalizing x with
  | zero => rfl
  | succ n ih => simp [natBytes, ih]

theorem length_lineAs (k line : Nat) (m : List Host.Cell) (kd : AMap Nat) : (lineAs k line m kd).length = 64 := by
  unfold lineAs
  dsimp only
  split
  · simp
  · exact length_natBytes ..

/-- A line as a key reads it depends on that line and its key alone. -/
theorem lineAs_congr {k line : Nat} {m n : List Host.Cell} {kd ke : AMap Nat} (hk : look 0 line kd = look 0 line ke)
    (hm : ∀ i, i < 64 → memGet (64 * line + i) m = memGet (64 * line + i) n) : lineAs k line m kd = lineAs k line n ke := by
  have h : ((List.range 64).map fun i => memGet (64 * line + i) m) = (List.range 64).map fun i => memGet (64 * line + i) n :=
    List.map_congr_left fun i hi => hm i (List.mem_range.1 hi)
  unfold lineAs
  rw [hk, h]

/-- A line that a key writes is in that key. -/
theorem look_turnLine_same (k line : Nat) (x : List Host.Cell × AMap Nat) : look 0 line (turnLine k x line).2 = k := by
  unfold turnLine
  split
  · assumption
  · dsimp only
    split
    · next h => rw [look_del_same, h]
    · exact look_put_same ..

theorem look_turnLine_other {k j line : Nat} (h : j ≠ line) (x : List Host.Cell × AMap Nat) :
    look 0 j (turnLine k x line).2 = look 0 j x.2 := by
  unfold turnLine
  split
  · rfl
  · dsimp only
    split
    · exact look_del_other h _
    · exact look_put_other h _

theorem memGet_turnLine_other {k l line : Nat} (h : l / 64 ≠ line) (x : List Host.Cell × AMap Nat) :
    memGet l (turnLine k x line).1 = memGet l x.1 := by
  unfold turnLine
  split
  · rfl
  · dsimp only
    rw [memGet_memStore, length_lineAs, if_neg]
    omega

/-- A byte of another line, through any key, does not change when a line takes a key. -/
theorem byteAs_turnLine_other {k q l line : Nat} (h : l / 64 ≠ line) (x : List Host.Cell × AMap Nat) :
    byteAs q l (turnLine k x line).1 (turnLine k x line).2 = byteAs q l x.1 x.2 := by
  have hk := look_turnLine_other (k := k) h x
  have hl : lineAs q (l / 64) (turnLine k x line).1 (turnLine k x line).2 = lineAs q (l / 64) x.1 x.2 :=
    lineAs_congr hk fun i hi => memGet_turnLine_other (by omega) x
  unfold byteAs
  rw [hk, hl, memGet_turnLine_other h]

/-- What a key reads does not change when a line takes that key. -/
theorem byteAs_turnLine (k l line : Nat) (x : List Host.Cell × AMap Nat) :
    byteAs k l (turnLine k x line).1 (turnLine k x line).2 = byteAs k l x.1 x.2 := by
  by_cases h : l / 64 = line
  · subst h
    by_cases ht : look 0 (l / 64) x.2 = k
    · unfold turnLine; rw [if_pos ht]
    · have h1 := look_turnLine_same k (l / 64) x
      have h2 : memGet l (turnLine k x (l / 64)).1 = (lineAs k (l / 64) x.1 x.2).getD (l % 64) 0 := by
        unfold turnLine
        rw [if_neg ht]
        show memGet l (memStore _ _ _) = _
        rw [memGet_memStore, length_lineAs, if_pos (by omega)]
        congr 1
        omega
      unfold byteAs
      rw [if_pos h1, if_neg ht, h2]
  · exact byteAs_turnLine_other h x

theorem byteAs_turnLines (k l : Nat) (ls : List Nat) (x : List Host.Cell × AMap Nat) :
    byteAs k l (ls.foldl (turnLine k) x).1 (ls.foldl (turnLine k) x).2 = byteAs k l x.1 x.2 := by
  induction ls generalizing x with
  | nil => rfl
  | cons a r ih => rw [List.foldl_cons, ih, byteAs_turnLine]

theorem byteAs_turnLines_other {k q l : Nat} {ls : List Nat} (h : l / 64 ∉ ls) (x : List Host.Cell × AMap Nat) :
    byteAs q l (ls.foldl (turnLine k) x).1 (ls.foldl (turnLine k) x).2 = byteAs q l x.1 x.2 := by
  induction ls generalizing x with
  | nil => rfl
  | cons a r ih =>
    rw [List.foldl_cons, ih (fun hm => h (List.mem_cons_of_mem _ hm)),
      byteAs_turnLine_other (fun he => h (he ▸ List.mem_cons_self ..))]

theorem look_turnLines {k j : Nat} {ls : List Nat} (h : j ∈ ls) (x : List Host.Cell × AMap Nat) :
    look 0 j (ls.foldl (turnLine k) x).2 = k := by
  induction ls generalizing x with
  | nil => exact absurd h List.not_mem_nil
  | cons a r ih =>
    rw [List.foldl_cons]
    by_cases hr : j ∈ r
    · exact ih hr _
    · have ha : j = a := by simpa [hr] using h
      have keep : ∀ (l : List Nat) (y : List Host.Cell × AMap Nat), j ∉ l → look 0 j (l.foldl (turnLine k) y).2 = look 0 j y.2 := by
        intro l
        induction l with
        | nil => exact fun _ _ => rfl
        | cons b t iht =>
          intro y hy
          rw [List.foldl_cons, iht _ (fun hm => hy (List.mem_cons_of_mem _ hm)),
            look_turnLine_other (fun he => hy (by simp [he]))]
      rw [keep r _ hr, ha]
      exact look_turnLine_same k a x

theorem mem_linesOf {l n j : Nat} : j ∈ linesOf l n ↔ 0 < n ∧ l / 64 ≤ j ∧ j ≤ (l + n - 1) / 64 := by
  unfold linesOf
  split
  · simp; omega
  · simp only [List.mem_map, List.mem_range]
    constructor
    · rintro ⟨i, hi, rfl⟩
      omega
    · intro h
      exact ⟨j - l / 64, by omega, by omega⟩

/-- A byte after a store, read with the key of the store: the stored bytes are there, and every other byte is what it was. -/
theorem byte_store (s : State) (a b : Nat) (bs : List Byte) (hk : viaKey b = viaKey a) :
    (s.store a bs).byte b = if a ≤ b ∧ b < a + bs.length then bs.getD (b - a) 0 else s.byte b := by
  unfold viaKey at hk
  unfold State.byte State.store storeCells
  dsimp only
  have hv : viaKey b = viaKey a := hk
  rw [hv]
  by_cases hin : a ≤ b ∧ b < a + bs.length
  · have hp : plain a ≤ plain b ∧ plain b < plain a + bs.length := by unfold plain; omega
    have hm : plain b / 64 ∈ linesOf (plain a) bs.length := mem_linesOf.2 (by omega)
    have hd : plain b - plain a = b - a := by unfold plain; omega
    unfold byteAs
    rw [if_pos (look_turnLines hm _), memGet_memStore, if_pos hp, if_pos hin, hd]
  · have hp : ¬(plain a ≤ plain b ∧ plain b < plain a + bs.length) := by unfold plain; omega
    rw [if_neg hin]
    rw [← byteAs_turnLines (viaKey a) (plain b) (linesOf (plain a) bs.length) (s.mem, s.keyed)]
    have hl : ∀ j, j ∈ linesOf (plain a) bs.length → look 0 j ((linesOf (plain a) bs.length).foldl (turnLine (viaKey a))
        (s.mem, s.keyed)).2 = viaKey a := fun j hj => look_turnLines hj _
    generalize (linesOf (plain a) bs.length).foldl (turnLine (viaKey a)) (s.mem, s.keyed) = y at hl ⊢
    unfold byteAs
    rw [memGet_memStore, if_neg hp]
    split
    · rfl
    · next ht =>
      have hn : plain b / 64 ∉ linesOf (plain a) bs.length := fun hm => ht (hl _ hm)
      rw [mem_linesOf] at hn
      have he : lineAs (viaKey a) (plain b / 64) (memStore (plain a) bs y.1) y.2 = lineAs (viaKey a) (plain b / 64) y.1 y.2 :=
        lineAs_congr rfl fun i hi => by rw [memGet_memStore, if_neg (by omega)]
      rw [he]

/-- A byte of a line that holds none of the stored bytes does not change, with whatever key it is read. -/
theorem byte_store_other (s : State) (a b : Nat) (bs : List Byte) (h : plain b / 64 ∉ linesOf (plain a) bs.length) :
    (s.store a bs).byte b = s.byte b := by
  unfold State.byte State.store storeCells
  dsimp only
  rw [← byteAs_turnLines_other h (s.mem, s.keyed) (k := viaKey a) (q := viaKey b)]
  generalize (linesOf (plain a) bs.length).foldl (turnLine (viaKey a)) (s.mem, s.keyed) = y
  rw [mem_linesOf] at h
  have hl : lineAs (viaKey b) (plain b / 64) (memStore (plain a) bs y.1) y.2 = lineAs (viaKey b) (plain b / 64) y.1 y.2 :=
    lineAs_congr rfl fun i hi => by rw [memGet_memStore, if_neg (by omega)]
  have hm : memGet (plain b) (memStore (plain a) bs y.1) = memGet (plain b) y.1 := by rw [memGet_memStore, if_neg (by omega)]
  unfold byteAs
  rw [hm, hl]


/-! ## The canonical form -/

theorem memPut_keys (a : Nat) (v : Byte) (m : List Host.Cell) : ∀ e ∈ memPut a v m, e = (a, v) ∨ e ∈ m := by
  induction m with
  | nil => simp [memPut]
  | cons x r ih =>
    obtain ⟨j, w⟩ := x
    intro e he
    unfold memPut at he
    split at he
    · simpa using he
    · split at he
      · simp at he ⊢; tauto
      · simp at he ⊢
        rcases he with h | h
        · tauto
        · have := ih e h; tauto

/-- Writing a nonzero byte keeps the form. -/
theorem wf_memPut {a : Nat} {v : Byte} {m : List Host.Cell} (hv : v ≠ 0) (h : Memory.wf m) : Memory.wf (memPut a v m) := by
  obtain ⟨hs, hz⟩ := h
  refine ⟨?_, fun e he => ?_⟩
  · induction m with
    | nil => simp [memPut]
    | cons x r ih =>
      obtain ⟨j, w⟩ := x
      rw [List.pairwise_cons] at hs
      have hr := ih hs.2 (fun e he => hz e (List.mem_cons_of_mem _ he))
      unfold memPut
      split
      · next h1 =>
        simp only [List.pairwise_cons, List.mem_cons]
        refine ⟨?_, hs⟩
        rintro e (rfl | he)
        · exact h1
        · exact Nat.lt_trans h1 (hs.1 e he)
      · split
        · next h1 h2 => subst h2; exact List.pairwise_cons.2 ⟨hs.1, hs.2⟩
        · next h1 h2 =>
          refine List.pairwise_cons.2 ⟨fun e he => ?_, hr⟩
          rcases memPut_keys a v r e he with rfl | h3
          · show j < a; omega
          · exact hs.1 e h3
  · rcases memPut_keys a v m e he with rfl | h
    · exact hv
    · exact hz e h

/-- Dropping entries keeps the form. -/
theorem wf_filter {q : Host.Cell → Bool} {m : List Host.Cell} (h : Memory.wf m) : Memory.wf (m.filter q) :=
  ⟨h.1.filter q, fun e he => h.2 e (List.mem_filter.1 he).1⟩

/-- Writing one byte keeps the form. -/
theorem wf_memSet (a : Nat) (v : Byte) {m : List Host.Cell} (h : Memory.wf m) : Memory.wf (memSet a v m) := by
  unfold memSet
  split
  · exact wf_filter h
  · exact wf_memPut ‹_› h

/-- Writing consecutive bytes keeps the form. -/
theorem wf_memStore (a : Nat) (bs : List Byte) {m : List Host.Cell} (h : Memory.wf m) : Memory.wf (memStore a bs m) := by
  induction bs generalizing a m with
  | nil => exact h
  | cons b r ih => exact ih (a + 1) (wf_memSet a b h)

/-- A fold of operations that keep the form keeps it. -/
theorem wf_foldl {α : Type} (f : List Host.Cell → α → List Host.Cell) (hf : ∀ m x, Memory.wf m → Memory.wf (f m x)) (l : List α)
    {m : List Host.Cell} (h : Memory.wf m) : Memory.wf (l.foldl f m) := by
  induction l generalizing m with
  | nil => exact h
  | cons x r ih => exact ih (hf m x h)

/-- A fold over states of operations that keep the form keeps it. -/
theorem wf_foldl_state {α : Type} (f : State → α → State) (hf : ∀ s x, Memory.wf s.mem → Memory.wf (f s x).mem) (l : List α)
    {s : State} (h : Memory.wf s.mem) : Memory.wf (l.foldl f s).mem := by
  induction l generalizing s with
  | nil => exact h
  | cons x r ih => exact ih (hf s x h)

/-- A line that takes a key keeps the form. -/
theorem wf_turnLine (k line : Nat) {x : List Host.Cell × AMap Nat} (h : Memory.wf x.1) : Memory.wf (turnLine k x line).1 := by
  unfold turnLine
  split
  · exact h
  · exact wf_memStore _ _ h

/-- Cells after a store keep the form. -/
theorem wf_storeCells (a : Nat) (bs : List Byte) {x : List Host.Cell × AMap Nat} (h : Memory.wf x.1) :
    Memory.wf (storeCells a bs x).1 := by
  have key : ∀ (ls : List Nat) (y : List Host.Cell × AMap Nat), Memory.wf y.1 →
      Memory.wf (ls.foldl (turnLine (viaKey a)) y).1 := by
    intro ls
    induction ls with
    | nil => exact fun _ hy => hy
    | cons j r ih => exact fun y hy => ih _ (wf_turnLine _ j hy)
  exact wf_memStore _ _ (key _ _ h)

/-- A store keeps the form. -/
theorem wf_store (s : State) (a : Nat) (bs : List Byte) (h : Memory.wf s.mem) : Memory.wf (s.store a bs).mem :=
  wf_storeCells a bs h

/-- The undo log takes no byte of memory and no key. -/
theorem cells_logUndo (s : State) (p a n : Nat) : ((s.logUndo p a n).mem, (s.logUndo p a n).keyed) = (s.mem, s.keyed) := by
  have key : ∀ (f : State → Nat → State), (∀ x w, ((f x w).mem, (f x w).keyed) = (x.mem, x.keyed)) → ∀ (l : List Nat) (x : State),
      ((l.foldl f x).mem, (l.foldl f x).keyed) = (x.mem, x.keyed) := by
    intro f hf l
    induction l with
    | nil => exact fun _ => rfl
    | cons w r ih => exact fun x => (ih _).trans (hf x w)
  unfold State.logUndo
  dsimp only
  split
  all_goals
    split
    · refine key _ (fun x w => ?_) _ _
      split <;> rfl
    · rfl

/-- The bytes after a store by an agent of a core are those of the plain store (R97, R416, R419). -/
theorem cells_writeMem (s : State) (p a : Nat) (bs : List Byte) (rs : Bool) (full : Option Bool) :
    ((s.writeMem p a bs rs full).mem, (s.writeMem p a bs rs full).keyed) = storeCells a bs (s.mem, s.keyed) := by
  have key : ∀ (b : Bool) (l : List Nat) (x : State),
      ((l.foldl (fun x i => x.setFull (a / 8 * 8 + 8 * i) b) x).mem, (l.foldl (fun x i => x.setFull (a / 8 * 8 + 8 * i) b) x).keyed) =
        (x.mem, x.keyed) := by
    intro b l
    induction l with
    | nil => exact fun _ => rfl
    | cons w r ih => exact fun x => ih _
  have h : (((s.logUndo p a bs.length).store a bs).mem, ((s.logUndo p a bs.length).store a bs).keyed) =
      storeCells a bs (s.mem, s.keyed) := by
    show storeCells a bs ((s.logUndo p a bs.length).mem, (s.logUndo p a bs.length).keyed) = _
    rw [cells_logUndo]
  cases full with
  | none => unfold State.writeMem; dsimp only; split <;> split <;> exact h
  | some b => unfold State.writeMem; dsimp only; rw [key]; split <;> split <;> exact h

/-- A store by an agent of a core keeps the form. -/
theorem wf_writeMem (s : State) (p a : Nat) (bs : List Byte) (rs : Bool) (full : Option Bool) (h : Memory.wf s.mem) :
    Memory.wf (s.writeMem p a bs rs full).mem := by
  have := congrArg Prod.fst (cells_writeMem s p a bs rs full)
  dsimp only at this
  rw [this]
  exact wf_storeCells a bs h

/-- What a unit remembers of a walk is no byte of memory. -/
theorem mem_walked (s : State) (p : Nat) (va : Word) : (s.walked p va).mem = s.mem ∧ (s.walked p va).keyed = s.keyed := by
  unfold State.walked
  repeat' split
  all_goals exact ⟨rfl, rfl⟩

/-- The bytes of a record keep the form. -/
theorem wf_fbStore (s : State) (p l : Nat) (rs : Bool) (bs : List Byte) (h : Memory.wf s.mem) : Memory.wf (s.fbStore p l rs bs).mem := by
  have e : ((s.walked p (s.core p).fb.slot).store l bs).mem = (storeCells l bs (s.mem, s.keyed)).1 := by
    simp only [State.store, mem_walked]
  unfold State.fbStore
  dsimp only
  split <;> exact e ▸ wf_storeCells l bs h

/-- A record of the field book keeps the form. -/
theorem wf_fbPut (s : State) (p : Nat) (bs : List Byte) (h : Memory.wf s.mem) : Memory.wf (s.fbPut p bs).mem := by
  unfold State.fbPut State.countDrop State.dropAt
  dsimp only
  repeat' split
  all_goals first | exact h | exact wf_fbStore _ _ _ _ _ h

/-- Records of the field book keep the form. -/
theorem wf_fbRecord (s : State) (p kind value : Nat) (w2 w3 : Word) (h : Memory.wf s.mem) :
    Memory.wf (s.fbRecord p kind value w2 w3).mem := by
  unfold State.fbRecord
  dsimp only
  repeat' split
  all_goals first | exact h | exact wf_fbPut _ _ _ h | exact wf_fbPut _ _ _ (wf_fbPut _ _ _ h)

/-- The memory right after reset has the form. -/
theorem wf_reset : Memory.wf State.reset.mem := ⟨.nil, fun _ h => absurd h List.not_mem_nil⟩

end Sys2Proof.Machine
end

