-- ==== Sys2Proof/Laws/Words.lean ====
section
/-! SUPPORT. What `runWord` can answer, said once: a next state for every word, and which one. -/

namespace Sys2Proof.Machine

/-- An instruction word always answers a next state: it acts, traps or is held. -/
theorem runWord_next (h : Hdr) (w : WordSpec) (body : Body) (s : State) : ∃ t, runWord h w body s = .next t := by
  unfold runWord
  dsimp only
  split
  · exact ⟨_, rfl⟩
  · exact ⟨_, rfl⟩
  · exact ⟨_, rfl⟩
  · exact ⟨_, rfl⟩
  · split <;> exact ⟨_, rfl⟩

/-- A trap that the checks find is taken, where its header lets it, and the word has no effect. -/
theorem runWord_trap {h : Hdr} {w : WordSpec} {body : Body} {s : State} {t : Trap}
    (c : s.checkAll s.focus.strand h w (s.members s.focus.pcid) = .trap t) :
    runWord h w body s = .next (s.trapWord s.focus.strand t (s.members s.focus.pcid)) := by
  simp only [runWord, c]

/-- A word that the checks hold changes nothing but the marks of what holds it. -/
theorem runWord_hold {h : Hdr} {w : WordSpec} {body : Body} {s : State}
    (c : s.checkAll s.focus.strand h w (s.members s.focus.pcid) = .hold) :
    runWord h w body s = .next (s.heldAt s.focus.strand h w none (s.members s.focus.pcid)) := by
  simp only [runWord, c]

/-- Members on each of which the effect's condition holds: the effects follow one another. -/
theorem runAll_done {h : Hdr} {w : WordSpec} {body : Body} {ok : Nat → Nat → State → Prop} {eff : Nat → Nat → State → State} {k : Nat}
    (hb : ∀ p x, ok p k x → body p k x = .done (eff p k x)) :
    ∀ (ms : List Nat) (s : State), Each (fun p x => w.off h p k x = false → ok p k x) (w.on h eff k) ms s →
      State.runAll k h w body ms s = .done (ms.foldl (fun x p => w.on h eff k p x) s)
  | [], _, _ => rfl
  | p :: r, s, ⟨h1, h2⟩ => by
    have e : s.runOne p k h w body = .done (w.on h eff k p s) := by
      unfold State.runOne WordSpec.on
      cases ho : w.off h p k s
      · unfold WordSpec.off at ho; rw [ho]; exact hb p s (h1 (by unfold WordSpec.off; exact ho))
      · unfold WordSpec.off at ho; rw [ho]; rfl
    unfold State.runAll
    rw [e]
    exact runAll_done hb r _ h2

/-- Members on each of which an ungated word says itself where the strand goes on. -/
theorem runAll_jump {h : Hdr} {w : WordSpec} {body : Body} {ok : Nat → Nat → State → Prop} {eff : Nat → Nat → State → State} {k : Nat}
    (hw : w.gated = false) (hb : ∀ p x, ok p k x → body p k x = .jump (eff p k x)) :
    ∀ (ms : List Nat) (s : State), ms ≠ [] → Each (fun p x => w.off h p k x = false → ok p k x) (w.on h eff k) ms s →
      State.runAll k h w body ms s = .jump (ms.foldl (fun x p => w.on h eff k p x) s)
  | [], _, n, _ => absurd rfl n
  | p :: r, s, _, ⟨h1, h2⟩ => by
    have off : ∀ q x, w.off h q k x = false := fun q x => by simp [WordSpec.off, hw]
    have on : ∀ q x, w.on h eff k q x = eff q k x := fun q x => by simp [WordSpec.on, off]
    have e : s.runOne p k h w body = .jump (eff p k s) := by simp [State.runOne, hw, hb p s (h1 (off p s))]
    unfold State.runAll
    rw [e]
    cases r with
    | nil => simp [State.runAll, on]
    | cons q r => simp only [runAll_jump hw hb (q :: r) _ (by simp) (on p s ▸ h2), List.foldl, on]

/-- A word whose effect is one function of the state. -/
theorem runWord_ran {h : Hdr} {w : WordSpec} {body : Body} {eff : Nat → Nat → State → State} {s : State}
    (hb : ∀ p k x, body p k x = .done (eff p k x)) (c : Clear h w s) : runWord h w body s = .next (s.ran h w eff) := by
  have e : ∀ (ms : List Nat) (x : State), Each (fun p x => w.off h p s.focus.strand x = false → True) (w.on h eff s.focus.strand) ms x := by
    intro ms
    induction ms with
    | nil => exact fun _ => trivial
    | cons p r ih => exact fun x => ⟨fun _ => trivial, ih _⟩
  simp only [runWord, c.2]
  have := runAll_done (h := h) (w := w) (body := body) (ok := fun _ _ _ => True) (eff := eff) (k := s.focus.strand)
    (fun p x _ => hb p _ x) (s.members s.focus.pcid) (s.begun w) (e _ _)
  unfold State.begun at this
  simp only [this]
  rfl

/-- A trap that its header lets it take is taken. -/
theorem State.trapWord_taken {s : State} {k : Nat} {t : Trap} {ms : List Nat} (h : s.trapHeld k t ms = false) :
    s.trapWord k t ms = s.trapAll k t ms := by
  simp only [State.trapWord, h, Bool.false_eq_true, if_false]

/-- A cause that no header delegates waits for none. -/
theorem State.trapHeld_of_none {s : State} {k : Nat} {t : Trap} {ms : List Nat} (h : delegBit t.cause = none) : s.trapHeld k t ms = false := by
  simp [State.trapHeld, h]

/-- A word whose effect has a condition, where it holds on every member. -/
theorem runWord_able {h : Hdr} {w : WordSpec} {body : Body} {ok : Nat → Nat → State → Prop} {eff : Nat → Nat → State → State} {s : State}
    (hb : ∀ p k x, ok p k x → body p k x = .done (eff p k x)) (a : Able h w ok eff s) :
    runWord h w body s = .next (s.ran h w eff) := by
  simp only [runWord, a.1.2]
  have := runAll_done (h := h) (w := w) (body := body) (eff := eff) (k := s.focus.strand)
    (fun p x => hb p _ x) (s.members s.focus.pcid) (s.begun w) a.2
  unfold State.begun at this
  simp only [this]
  rfl

/-- A word that says itself where its strand goes on, where its condition holds on every member. -/
theorem runWord_went {h : Hdr} {w : WordSpec} {body : Body} {ok : Nat → Nat → State → Prop} {eff : Nat → Nat → State → State} {s : State}
    (hw : w.gated = false) (hb : ∀ p k x, ok p k x → body p k x = .jump (eff p k x)) (a : Able h w ok eff s) :
    runWord h w body s = .next (s.went h w eff) := by
  simp only [runWord, a.1.2]
  have := runAll_jump (h := h) (w := w) (body := body) (eff := eff) (k := s.focus.strand) hw
    (fun p x => hb p _ x) (s.members s.focus.pcid) (s.begun w) a.1.1 a.2
  unfold State.begun at this
  simp only [this]
  rfl

/-- A word whose effect traps, on a core that is in no gang. -/
theorem runWord_body_trap {h : Hdr} {w : WordSpec} {body : Body} {s : State} {t : Trap} (c : Clear h w s)
    (m : s.members s.focus.pcid = [s.focus.pcid]) (h1 : w.off h s.focus.pcid s.focus.strand (s.begun w) = false)
    (h2 : body s.focus.pcid s.focus.strand (s.begun w) = .trap t) :
    runWord h w body s = .next (s.trapWord s.focus.strand t [s.focus.pcid]) := by
  have c2 := c.2
  unfold State.begun at h1 h2
  unfold WordSpec.off at h1
  rw [m] at c2 h1 h2
  simp only [runWord, c2, m]
  unfold State.runAll State.runOne
  simp only [h1, Bool.false_eq_true, if_false, h2, State.runAll]

/-- An instruction that is a word with an unconditional effect. -/
theorem runs_of {i : Instr} {h : Hdr} {w : WordSpec} {body : Body} {eff : Nat → Nat → State → State}
    (he : ∀ s, exec i s = runWord h w body s) (hb : ∀ p k x, body p k x = .done (eff p k x)) : Runs i h w eff :=
  fun s c => (he s).trans (runWord_ran hb c)

/-- An instruction that is a word whose effect has a condition. -/
theorem runsIf_of {i : Instr} {h : Hdr} {w : WordSpec} {body : Body} {ok : Nat → Nat → State → Prop} {eff : Nat → Nat → State → State}
    (he : ∀ s, exec i s = runWord h w body s) (hb : ∀ p k x, ok p k x → body p k x = .done (eff p k x)) : RunsIf i h w ok eff :=
  fun s a => (he s).trans (runWord_able hb a)

/-- An instruction that is a word which says itself where its strand goes on. -/
theorem goesIf_of {i : Instr} {h : Hdr} {w : WordSpec} {body : Body} {ok : Nat → Nat → State → Prop} {eff : Nat → Nat → State → State}
    (he : ∀ s, exec i s = runWord h w body s) (hw : w.gated = false) (hb : ∀ p k x, ok p k x → body p k x = .jump (eff p k x)) :
    GoesIf i h w ok eff :=
  fun s a => (he s).trans (runWord_went hw hb a)

/-- An instruction whose effect raises a trap of its own. -/
theorem trapsIf_of {i : Instr} {h : Hdr} {w : WordSpec} {body : Body} {ok : Nat → Nat → State → Prop} {t : Nat → Nat → State → Trap}
    (he : ∀ s, exec i s = runWord h w body s) (hb : ∀ p k x, ok p k x → body p k x = .trap (t p k x)) : TrapsIf i h w ok t := by
  intro s a o th
  have m : s.members s.focus.pcid = [s.focus.pcid] := by simp [State.members, a.1]
  rw [he s, runWord_body_trap a.2.1 m a.2.2 (hb _ _ _ o)]
  simp only [State.trapWord, th, Bool.false_eq_true, if_false]

/-- A scalar word of one operand. -/
theorem runs_scalar1 {i : Instr} {h : Hdr} {lat : Nat} {d a : BitVec 8} {f g : Word → Word}
    (he : ∀ s, exec i s = scalar1 h lat d a f s) (hf : ∀ x, f x = g x) : Runs i h (specS [dS d, aS a] lat) (ofA lat d a g) :=
  runs_of he fun p k x => by simp only [ofA, intoS, hf]

/-- A scalar word of two operands. -/
theorem runs_scalar2 {i : Instr} {h : Hdr} {lat : Nat} {d a b : BitVec 8} {f g : Word → Word → Word}
    (he : ∀ s, exec i s = scalar2 h lat d a b f s) (hf : ∀ x y, f x y = g x y) :
    Runs i h (specS [dS d, aS a, bS b] lat) (ofAB lat d a b g) :=
  runs_of he fun p k x => by simp only [ofAB, intoS, hf]

/-- A scalar floating-point word of two operands. -/
theorem runs_fscalar2 {i : Instr} {h : Hdr} {lat : Nat} {d a b : BitVec 8} {ty rm : BitVec 3} {op : FVal → FVal → FVal} {g : Word → Word → Word}
    (he : ∀ s, exec i s = fscalar2 h lat d a b ty rm op s)
    (hf : ∀ x y, BitVec.ofNat 64 (roundTo (fmtOf ty.toNat) rm.toNat (op (fpOf (fmtOf ty.toNat) x) (fpOf (fmtOf ty.toNat) y))) = g x y) :
    Runs i h (specS [dS d, aS a, bS b] lat) (ofAB lat d a b g) := by
  unfold fscalar2 at he
  exact runs_scalar2 he hf

end Sys2Proof.Machine
end

