-- ==== Sys2Proof/Laws/Issue.lean ====
section
/-! SUPPORT. What the issue of a word leaves of the state, and what a passed check says. -/

namespace Sys2Proof.Machine

/-- A charge touches the cores only in the hawk of the one that pays. -/
theorem cores_pay (s : State) (p k n : Nat) :
    (s.pay p k n).cores = s.cores ∨ ∃ w : Power, (s.pay p k n).cores = (s.setCore p { s.core p with power := w }).cores := by
  unfold State.pay
  by_cases hn : n = 0
  · left; rw [if_pos hn]
  · right
    rw [if_neg hn]
    generalize hw : ({ (s.core p).power with tokens := ((s.core p).power.tokens * 1024 + (s.core p).power.frac - n) / 1024, frac := ((s.core p).power.tokens * 1024 + (s.core p).power.frac - n) % 1024 } : Power) = w
    refine ⟨w, ?_⟩
    dsimp only
    rw [hw]
    generalize s.setCore p { s.core p with power := w } = y
    cases (s.core p).place
    · dsimp only
      by_cases h : s.isPlumb p = true
      · rw [if_pos h]
      · rw [if_neg h]
    · rfl

/-- A core after a charge, its own or another's. -/
theorem core_pay (s : State) (p k n q : Nat) : ∃ w : Power, (s.pay p k n).core q = { s.core q with power := w } := by
  rcases cores_pay s p k n with h | ⟨w, h⟩
  · exact ⟨(s.core q).power, by show look Core.init q _ = _; rw [h]; rfl⟩
  · by_cases e : q = p
    · subst e
      exact ⟨w, by show look Core.init q _ = _; rw [h]; exact core_setCore_same ..⟩
    · exact ⟨(s.core q).power, by show look Core.init q _ = _; rw [h]; exact core_setCore_other e⟩

/-- The issue of a word leaves the rows, the pending writes, the locks, the operations, and the supervisor's part of every core. -/
theorem issued_core (s : State) (p k q : Nat) (w : WordSpec) :
    let c := (s.issued p k w).core q
    c.rows = (s.core q).rows ∧ c.late = (s.core q).late ∧ c.locks = (s.core q).locks ∧ c.ops = (s.core q).ops ∧ c.sup = (s.core q).sup ∧
      c.bad = (s.core q).bad ∧ c.cycle = (s.core q).cycle ∧ c.gang = (s.core q).gang ∧ c.place = (s.core q).place ∧ c.reading = (s.core q).reading ∧ c.chains = (s.core q).chains := by
  obtain ⟨pw, e⟩ := core_pay s p 0 (s.wordCharge p w) q
  by_cases hq : q = p
  · subst hq
    unfold State.issued
    dsimp only
    rw [core_setCore_same]
    simp only [State.lose, Core.setStrand]
    rw [e]
    exact ⟨rfl, rfl, rfl, rfl, rfl, rfl, rfl, rfl, rfl, rfl, rfl⟩
  · unfold State.issued
    dsimp only
    rw [core_setCore_other hq, e]
    exact ⟨rfl, rfl, rfl, rfl, rfl, rfl, rfl, rfl, rfl, rfl, rfl⟩

/-- What the marks of issue leave of a strand. -/
def Strand.marked (t u : Strand) : Prop :=
  { t with age := 0, held := false, byRow := false, short := 0, bad := none } =
    { u with age := 0, held := false, byRow := false, short := 0, bad := none }

/-- The issue of a word leaves the strands but for those marks. -/
theorem issued_strand (s : State) (p k q j : Nat) (w : WordSpec) : ((s.issued p k w).strand q j).marked (s.strand q j) := by
  obtain ⟨pw, e⟩ := core_pay s p 0 (s.wordCharge p w) q
  have hs : ((s.pay p 0 (s.wordCharge p w)).core q).strands = (s.core q).strands := by rw [e]
  by_cases hq : q = p
  · subst hq
    unfold State.issued State.strand Strand.marked
    dsimp only
    rw [core_setCore_same]
    by_cases hj : j = k
    · subst hj
      have h1 : ((s.pay q 0 (s.wordCharge q w)).lose q j w).strand j = (s.core q).strand j := by
        show look Strand.idle j ((s.pay q 0 (s.wordCharge q w)).core q).strands = _
        rw [hs]; rfl
      have : ∀ (c : Core) (t : Strand), ({ c.setStrand j t with seq := c.seq + 1, fb := { c.fb.work c.cycle w with ran := true, recent := j } } : Core).strand j = t := fun c t => look_put_same ..
      rw [this, h1]
    · have : ∀ (c : Core) (t : Strand), ({ c.setStrand k t with seq := c.seq + 1, fb := { c.fb.work c.cycle w with ran := true, recent := k } } : Core).strand j = c.strand j := fun c t => look_put_other hj _
      rw [this]
      have h1 : ((s.pay q 0 (s.wordCharge q w)).lose q k w).strand j = (s.core q).strand j := by
        show look Strand.idle j ((s.pay q 0 (s.wordCharge q w)).core q).strands = _
        rw [hs]; rfl
      rw [h1]
  · unfold State.issued State.strand Strand.marked
    dsimp only
    rw [core_setCore_other hq, e]
    rfl

/-- `pc` of a strand after an issue. -/
theorem issued_pc (s : State) (p k q j : Nat) (w : WordSpec) : ((s.issued p k w).strand q j).pc = (s.strand q j).pc := by
  have h := issued_strand s p k q j w
  unfold Strand.marked at h
  have e := congrArg Strand.pc h
  exact e

/-- `wb` of a strand after an issue. -/
theorem issued_wb (s : State) (p k q j : Nat) (w : WordSpec) : ((s.issued p k w).strand q j).wb = (s.strand q j).wb := by
  have h := issued_strand s p k q j w
  unfold Strand.marked at h
  have e := congrArg Strand.wb h
  exact e

/-- `wl` of a strand after an issue. -/
theorem issued_wl (s : State) (p k q j : Nat) (w : WordSpec) : ((s.issued p k w).strand q j).wl = (s.strand q j).wl := by
  have h := issued_strand s p k q j w
  unfold Strand.marked at h
  have e := congrArg Strand.wl h
  exact e

/-- `eb` of a strand after an issue. -/
theorem issued_eb (s : State) (p k q j : Nat) (w : WordSpec) : ((s.issued p k w).strand q j).eb = (s.strand q j).eb := by
  have h := issued_strand s p k q j w
  unfold Strand.marked at h
  have e := congrArg Strand.eb h
  exact e

/-- `el` of a strand after an issue. -/
theorem issued_el (s : State) (p k q j : Nat) (w : WordSpec) : ((s.issued p k w).strand q j).el = (s.strand q j).el := by
  have h := issued_strand s p k q j w
  unfold Strand.marked at h
  have e := congrArg Strand.el h
  exact e

/-- `aside` of a strand after an issue. -/
theorem issued_aside (s : State) (p k q j : Nat) (w : WordSpec) : ((s.issued p k w).strand q j).aside = (s.strand q j).aside := by
  have h := issued_strand s p k q j w
  unfold Strand.marked at h
  have e := congrArg Strand.aside h
  exact e

/-- `past` of a strand after an issue. -/
theorem issued_past (s : State) (p k q j : Nat) (w : WordSpec) : ((s.issued p k w).strand q j).past = (s.strand q j).past := by
  have h := issued_strand s p k q j w
  unfold Strand.marked at h
  have e := congrArg Strand.past h
  exact e

/-- `frame` of a strand after an issue. -/
theorem issued_frame (s : State) (p k q j : Nat) (w : WordSpec) : ((s.issued p k w).strand q j).frame = (s.strand q j).frame := by
  have h := issued_strand s p k q j w
  unfold Strand.marked at h
  have e := congrArg Strand.frame h
  exact e

/-- `live` of a strand after an issue. -/
theorem issued_live (s : State) (p k q j : Nat) (w : WordSpec) : ((s.issued p k w).strand q j).live = (s.strand q j).live := by
  have h := issued_strand s p k q j w
  unfold Strand.marked at h
  have e := congrArg Strand.live h
  exact e

/-- A row after an issue. -/
theorem issued_row (s : State) (p k q r : Nat) (w : WordSpec) : (s.issued p k w).row q r = s.row q r := by
  show look 0 r _ = look 0 r _
  rw [(issued_core s p k q w).1]

/-- A header word after an issue. -/
theorem issued_hword (s : State) (p k q j i : Nat) (w : WordSpec) : (s.issued p k w).hword q j i = s.hword q j i := by
  unfold State.hword State.header
  rw [issued_row, issued_wb]

/-- A named scalar after an issue. -/
theorem issued_rS (s : State) (p k q j f : Nat) (n : BitVec 8) (w : WordSpec) : (s.issued p k w).rS q j f n = s.rS q j f n := by
  unfold State.rS State.sName State.stagger State.inBody State.ract
  simp only [issued_row, issued_hword, issued_wb, issued_aside]
/-- A check of a word that passes passes with another check of its own in place of the first, where that finds nothing. -/
theorem check_pre {s : State} {p k : Nat} {h : Hdr} {w : WordSpec} {f : Nat → Nat → State → Verdict} (c : s.check p k h w = .go)
    (g : f p k s = .go) : s.check p k h { w with pre := f } = .go := by
  unfold State.check at c ⊢
  have e1 : s.headerHeld p k h { w with pre := f } = s.headerHeld p k h w := rfl
  have e2 : s.readsHeader p k h { w with pre := f } = s.readsHeader p k h w := rfl
  have e3 : s.wordCharge p { w with pre := f } = s.wordCharge p w := rfl
  dsimp only at c ⊢
  rw [e1, e2, e3]
  split at c
  · cases c
  · split at c
    · cases c
    · rename_i h1 h2
      rw [if_neg h1, if_neg h2, g]
      split at c
      next hp => exact c
      next v => exact absurd c (by intro hc; exact v hc)

/-- Where it finds a trap, that is what the word raises. -/
theorem check_pre_trap {s : State} {p k : Nat} {h : Hdr} {w : WordSpec} {f : Nat → Nat → State → Verdict} {t : Trap} (c : s.check p k h w = .go)
    (g : f p k s = .trap t) : s.check p k h { w with pre := f } = .trap t := by
  unfold State.check at c ⊢
  have e1 : s.headerHeld p k h { w with pre := f } = s.headerHeld p k h w := rfl
  have e2 : s.readsHeader p k h { w with pre := f } = s.readsHeader p k h w := rfl
  have e3 : s.wordCharge p { w with pre := f } = s.wordCharge p w := rfl
  dsimp only at c ⊢
  rw [e1, e2, e3]
  split at c
  · cases c
  · split at c
    · cases c
    · rename_i h1 h2; rw [if_neg h1, if_neg h2, g]

/-- All members pass where each does. -/
theorem checkAll_go {s : State} {k : Nat} {h : Hdr} {w : WordSpec} : ∀ {ms : List Nat}, s.checkAll k h w ms = .go ↔ ∀ p ∈ ms, s.check p k h w = .go
  | [] => by simp [State.checkAll]
  | p :: r => by
    have ih := checkAll_go (s := s) (k := k) (h := h) (w := w) (ms := r)
    unfold State.checkAll
    simp only [List.mem_cons, forall_eq_or_imp]
    rw [← ih]
    cases hc : s.check p k h w <;> cases hr : s.checkAll k h w r <;> simp

/-- A word passes with another check of its own in place of the first, where that finds nothing on any member. -/
theorem clear_pre {s : State} {h : Hdr} {w : WordSpec} {f : Nat → Nat → State → Verdict} (c : Clear h w s)
    (g : ∀ p ∈ s.members s.focus.pcid, f p s.focus.strand s = .go) : Clear h { w with pre := f } s :=
  ⟨c.1, checkAll_go.mpr fun p hp => check_pre (checkAll_go.mp c.2 p hp) (g p hp)⟩

/-- A check that passes has found nothing of the word's own. -/
theorem pre_of_check {s : State} {p k : Nat} {h : Hdr} {w : WordSpec} (c : s.check p k h w = .go) : w.pre p k s = .go := by
  unfold State.check at c
  dsimp only at c
  split at c
  · cases c
  · split at c
    · cases c
    · split at c
      · assumption
      · rename_i v; exact absurd c (by intro hc; exact v hc)

/-- What a passed check says of an operand. -/
theorem check_op {s : State} {p k : Nat} {h : Hdr} {w : WordSpec} (c : s.check p k h w = .go) {o : Opnd} (ho : o ∈ w.ops) :
    s.opInWindow p k o = true ∧ s.opHeld p k w.atOnce o = false ∧ (o.src = true → (s.core p).rowBad (s.opRow p k o) = false) := by
  unfold State.check at c
  dsimp only at c
  split at c
  · cases c
  · split at c
    · cases c
    · split at c
      · split at c
        · cases c
        · split at c
          · cases c
          · split at c
            · cases c
            · rename_i hl hh
              have hw : ∀ l : List Opnd, s.limitTrap p k l = none → o ∈ l → s.opInWindow p k o = true := by
                intro l
                induction l with
                | nil => simp
                | cons x r ih =>
                  intro a b
                  simp only [State.limitTrap] at a
                  split at a
                  · rename_i hx
                    rcases List.mem_cons.mp b with e | e
                    · rw [e]; exact hx
                    · exact ih a e
                  · cases a
              split at c
              · cases c
              · rename_i hb
                refine ⟨hw _ hl ho, ?_, fun hs => ?_⟩
                · have := hh
                  simp only [List.any_eq_true, not_exists, not_and] at this
                  simpa using this o ho
                · have := List.find?_eq_none.mp hb o (List.mem_filter.mpr ⟨ho, hs⟩)
                  simpa using this
      · rename_i v; exact absurd c (by intro hc; exact v hc)

/-- The one member of a core that is not fused. -/
theorem members_alone {s : State} {p : Nat} (g : (s.core p).gang = none) : s.members p = [p] := by simp [State.members, g]

/-- A word begins on a core that is not fused by its issue there. -/
theorem begun_alone {s : State} {w : WordSpec} (g : (s.core s.focus.pcid).gang = none) :
    s.begun w = s.issued s.focus.pcid s.focus.strand w := by
  simp [State.begun, members_alone g]

end Sys2Proof.Machine
end

