-- ==== Sys2Proof/Laws/Lanes.lean ====
section
/-! SUPPORT. Rows as lists of lanes, and the words that act lane by lane. -/

namespace Sys2Proof.Machine

/-- Lanes that agree modulo 2^w make the same row. -/
theorem packLanes_congr (w : Nat) : ∀ (l m : List Nat), l.map (· % 2 ^ w) = m.map (· % 2 ^ w) → packLanes w l = packLanes w m
  | [], [], _ => rfl
  | x :: l, y :: m, h => by
    simp only [List.map_cons, List.cons.injEq] at h
    simp only [packLanes, h.1, packLanes_congr w l m h.2]
  | [], _ :: _, h => by simp at h
  | _ :: _, [], h => by simp at h

/-- Every lane of a row fits its width. -/
theorem lanesOf_lt {w : Nat} {r : Row} {x : Nat} (h : x ∈ lanesOf w r) : x < 2 ^ w := by
  simp only [lanesOf, lanes, List.mem_map] at h
  obtain ⟨i, -, rfl⟩ := h
  exact BitVec.isLt _

/-- A lane by its index. -/
theorem lanesOf_getD {w : Nat} {r : Row} {i : Nat} (h : i < 512 / w) : (lanesOf w r).getD i 0 = fieldNat r (w * i) w := by
  simp [lanesOf, lanes, List.getD, h]

/-- As many lanes as fit. -/
theorem lanesOf_length (w : Nat) (r : Row) : (lanesOf w r).length = 512 / w := by simp [lanesOf, lanes]

/-- A lane result matters modulo 2^w only. -/
theorem putLanes_map {s : State} {p k lat w : Nat} {h : Hdr} {d : BitVec 8} {α : Type} {l : List α} {f g : α → Nat}
    (hf : ∀ x ∈ l, f x % 2 ^ w = g x % 2 ^ w) : s.putLanes p k lat w h d (l.map f) = s.putLanes p k lat w h d (l.map g) := by
  unfold State.putLanes rowOfLanes
  rw [packLanes_congr w (l.map f) (l.map g) (by simpa using hf)]

/-- A one-operand vector word. -/
theorem runs_vec1 {i : Instr} {h : Hdr} {lat occ w : Nat} {d a : BitVec 8} {m : BitVec 12} {f g : Nat → Nat}
    (he : ∀ s, exec i s = vec1 h lat occ w d a m f s) (hf : ∀ x < 2 ^ w, f x % 2 ^ w = g x % 2 ^ w) :
    Runs i h { specV [dV d, aV a] lat with occ := occ } (lanesA h lat w d a m g) :=
  runs_of he fun p k x => by
    simp only [lanesA, intoV]
    rw [putLanes_map fun y hy => hf y (lanesOf_lt hy)]

/-- A two-operand vector word. -/
theorem runs_vec2 {i : Instr} {h : Hdr} {lat occ w : Nat} {d a b : BitVec 8} {m : BitVec 12} {f g : Nat → Nat → Nat}
    (he : ∀ s, exec i s = vec2 h lat occ w d a b m f s) (hf : ∀ x < 2 ^ w, ∀ y < 2 ^ w, f x y % 2 ^ w = g x y % 2 ^ w) :
    Runs i h { specV [dV d, aV a, bV b] lat with occ := occ } (lanesAB h lat w d a b m g) :=
  runs_of he fun p k x => by
    simp only [lanesAB, intoV, lanes2]
    rw [← List.map_uncurry_zip_eq_zipWith, putLanes_map (g := Function.uncurry g)]
    intro y hy
    exact hf _ (lanesOf_lt (List.of_mem_zip hy).1) _ (lanesOf_lt (List.of_mem_zip hy).2)

/-- A three-operand vector word. -/
theorem runs_vec3 {i : Instr} {h : Hdr} {lat occ w : Nat} {d a b c : BitVec 8} {f g : Nat → Nat → Nat → Nat}
    (he : ∀ s, exec i s = vec3 h lat occ w d a b c f s)
    (hf : ∀ x < 2 ^ w, ∀ y < 2 ^ w, ∀ z < 2 ^ w, f x y z % 2 ^ w = g x y z % 2 ^ w) :
    Runs i h { specV [dV d, aV a, bV b, cV c] lat with occ := occ } (lanesABC h lat w d a b c g) :=
  runs_of he fun p k x => by
    simp only [lanesABC, intoV]
    have e : ∀ (r t u : Row), (lanesOf w r).zip ((lanesOf w t).zip (lanesOf w u)) =
        (List.range (512 / w)).map fun j => (fieldNat r (w * j) w, fieldNat t (w * j) w, fieldNat u (w * j) w) := by
      intro r t u
      simp only [lanesOf, lanes, List.zip_map']
    rw [e, List.map_map, putLanes_map]
    intro j hj
    have hj := List.mem_range.mp hj
    simp only [lanesOf_getD hj, Function.comp_apply]
    exact hf _ (BitVec.isLt _) _ (BitVec.isLt _) _ (BitVec.isLt _)

/-- A vector comparison. -/
theorem runs_vecCmp {i : Instr} {h : Hdr} {w : Nat} {q : BitVec 3} {a b : BitVec 8} {m : BitVec 12} {f : Nat → Nat → Bool}
    (he : ∀ s, exec i s = vecCmp h w q a b m f s) :
    Runs i h { specV [aV a, bV b] 1 with hw := qWords q } (fun p k x =>
      x.wQmask p k 1 q (cmpMask w (x.pred p k h.eq.toNat)) (cmpBits w (List.zipWith f
        (lanesOf w (modified m 0 (x.rV p k 1 a))) (lanesOf w (modified m 1 (x.rV p k 2 b)))))) :=
  runs_of he fun p k x => by simp only [lanes2, ← List.map_uncurry_zip_eq_zipWith]; rfl

end Sys2Proof.Machine
end

