-- ==== Sys2Proof/Laws/PerInstr.lean ====
section
/-! SUPPORT. For each instruction: where it has an encoding, decoding the encoding gives it back. -/

namespace Sys2Proof

/-- What shows it for an instruction word. -/
theorem decodes_word {i : Instr} {f : Fields} {g : Fields → Instr} (hf : toFields i = some f)
    (hg : findOp f.op.toNat opTable = some g) (hi : g f = i) (w : i.wf = true) (_ : encode i ≠ []) : decodeWords (encode i) = .ok i := by
  simp [encode, hf, decodeWords, decodeWord, decodeFields, hg, hi, w]

/-- What shows it for an engine command. -/
theorem decodes_engine {i : Instr} {n : Nat} {e : Ecw} {g : Ecw → Instr} (h0 : toFields i = none) (hn : toEngine i = some (n, e))
    (h8 : (BitVec.ofNat 8 n).toNat = n) (hg : findEngine n engineTable = some g) (hi : g e = i) (_ : i.wf = true) (_ : encode i ≠ []) :
    decodeWords (encode i) = .ok i := by
  have join : ∀ x : BitVec 256, x.extractLsb' 192 64 ++ x.extractLsb' 128 64 ++ x.extractLsb' 64 64 ++ x.extractLsb' 0 64 = x := by
    intro x
    rw [slice_join (t := 192) (s := 128) (l := 64) (k := 64) rfl, slice_join (t := 128) (s := 64) (l := 64) (k := 128) rfl,
      slice_join (t := 64) (s := 0) (l := 64) (k := 192) rfl]
    exact BitVec.extractLsb'_eq_self
  have hb : (e.bits (BitVec.ofNat 8 n)).extractLsb' 56 8 = BitVec.ofNat 8 n := by simp [Ecw.bits]
  simp only [encode, h0, hn, decodeWords, join, decodeEcw, hb, h8, hg, Ecw.ofBits_bits, hi]

set_option maxRecDepth 10000

namespace Laws.Encoding

/-- An instruction that has an encoding is read back from it (R171 to R187). -/
def Statement (i : Instr) : Prop := i.wf = true → encode i ≠ [] → decodeWords (encode i) = .ok i

theorem nop (h : Hdr) : Statement (.nop h) :=
  decodes_word rfl rfl (by simp)

theorem tgt (h : Hdr) (t : BitVec 2) (imm : BitVec 28) : Statement (.tgt h t imm) :=
  decodes_word rfl rfl (by simp)

theorem tgts (h : Hdr) (t : BitVec 2) (a : BitVec 8) : Statement (.tgts h t a) :=
  decodes_word rfl rfl (by simp)

theorem lnk (h : Hdr) : Statement (.lnk h) :=
  decodes_word rfl rfl (by simp)

theorem loop (h : Hdr) (q : BitVec 3) : Statement (.loop h q) :=
  decodes_word rfl rfl (by simp)

theorem loopSet (h : Hdr) (a : BitVec 8) : Statement (.loopSet h a) :=
  decodes_word rfl rfl (by simp)

theorem repb (h : Hdr) (a : BitVec 8) (stride mask : BitVec 4) : Statement (.repb h a stride mask) :=
  decodes_word rfl rfl (by simp)

theorem start (h : Hdr) (a : BitVec 8) (hn : BitVec 4) : Statement (.start h a hn) :=
  decodes_word rfl rfl (by simp)

theorem join (h : Hdr) (d b : BitVec 8) (wall : BitVec 1) : Statement (.join h d b wall) :=
  decodes_word rfl rfl (by simp)

theorem hkill (h : Hdr) (a : BitVec 8) : Statement (.hkill h a) :=
  decodes_word rfl rfl (by simp)

theorem ids (h : Hdr) (d : BitVec 8) (k : BitVec 2) : Statement (.ids h d k) :=
  decodes_word rfl rfl (by simp)

theorem clk (h : Hdr) (d : BitVec 8) : Statement (.clk h d) :=
  decodes_word rfl rfl (by simp)

theorem sleep (h : Hdr) (d a b : BitVec 8) (wall : BitVec 1) : Statement (.sleep h d a b wall) :=
  decodes_word rfl rfl (by simp)

theorem mark (h : Hdr) (value : BitVec 20) : Statement (.mark h value) :=
  decodes_word rfl rfl (by simp)

theorem win (h : Hdr) (a : BitVec 8) : Statement (.win h a) :=
  decodes_word rfl rfl (by simp)

theorem wins (h : Hdr) (delta : BitVec 11) (limit : BitVec 9) : Statement (.wins h delta limit) :=
  decodes_word rfl rfl (by simp)

theorem wswap (h : Hdr) (a : BitVec 8) : Statement (.wswap h a) :=
  decodes_word rfl rfl (by simp)

theorem wrd (h : Hdr) (d : BitVec 8) : Statement (.wrd h d) :=
  decodes_word rfl rfl (by simp)

theorem wdrain (h : Hdr) (d b : BitVec 8) (wall : BitVec 1) : Statement (.wdrain h d b wall) :=
  decodes_word rfl rfl (by simp)

theorem tdel (h : Hdr) (d a : BitVec 8) : Statement (.tdel h d a) :=
  decodes_word rfl rfl (by simp)

theorem tret (h : Hdr) (a : BitVec 8) : Statement (.tret h a) :=
  decodes_word rfl rfl (by simp)

theorem env (h : Hdr) (a : BitVec 8) : Statement (.env h a) :=
  decodes_word rfl rfl (by simp)

theorem snagw (h : Hdr) (a b : BitVec 8) : Statement (.snagw h a b) :=
  decodes_word rfl rfl (by simp)

theorem snagx (h : Hdr) (a b : BitVec 8) : Statement (.snagx h a b) :=
  decodes_word rfl rfl (by simp)

theorem add (h : Hdr) (d a b : BitVec 8) : Statement (.add h d a b) :=
  decodes_word rfl rfl (by simp)

theorem sub (h : Hdr) (d a b : BitVec 8) : Statement (.sub h d a b) :=
  decodes_word rfl rfl (by simp)

theorem addi (h : Hdr) (d a : BitVec 8) (imm : BitVec 28) : Statement (.addi h d a imm) :=
  decodes_word rfl rfl (by simp)

theorem mul (h : Hdr) (d a b : BitVec 8) : Statement (.mul h d a b) :=
  decodes_word rfl rfl (by simp)

theorem mulh (h : Hdr) (d a b : BitVec 8) : Statement (.mulh h d a b) :=
  decodes_word rfl rfl (by simp)

theorem mulhu (h : Hdr) (d a b : BitVec 8) : Statement (.mulhu h d a b) :=
  decodes_word rfl rfl (by simp)

theorem div (h : Hdr) (d a b : BitVec 8) : Statement (.div h d a b) :=
  decodes_word rfl rfl (by simp)

theorem divu (h : Hdr) (d a b : BitVec 8) : Statement (.divu h d a b) :=
  decodes_word rfl rfl (by simp)

theorem rem (h : Hdr) (d a b : BitVec 8) : Statement (.rem h d a b) :=
  decodes_word rfl rfl (by simp)

theorem remu (h : Hdr) (d a b : BitVec 8) : Statement (.remu h d a b) :=
  decodes_word rfl rfl (by simp)

theorem and (h : Hdr) (d a b : BitVec 8) : Statement (.and h d a b) :=
  decodes_word rfl rfl (by simp)

theorem or (h : Hdr) (d a b : BitVec 8) : Statement (.or h d a b) :=
  decodes_word rfl rfl (by simp)

theorem xor (h : Hdr) (d a b : BitVec 8) : Statement (.xor h d a b) :=
  decodes_word rfl rfl (by simp)

theorem andn (h : Hdr) (d a b : BitVec 8) : Statement (.andn h d a b) :=
  decodes_word rfl rfl (by simp)

theorem shl (h : Hdr) (d a b : BitVec 8) : Statement (.shl h d a b) :=
  decodes_word rfl rfl (by simp)

theorem shr (h : Hdr) (d a b : BitVec 8) : Statement (.shr h d a b) :=
  decodes_word rfl rfl (by simp)

theorem sra (h : Hdr) (d a b : BitVec 8) : Statement (.sra h d a b) :=
  decodes_word rfl rfl (by simp)

theorem rot (h : Hdr) (d a b : BitVec 8) : Statement (.rot h d a b) :=
  decodes_word rfl rfl (by simp)

theorem clz (h : Hdr) (d a : BitVec 8) : Statement (.clz h d a) :=
  decodes_word rfl rfl (by simp)

theorem ctz (h : Hdr) (d a : BitVec 8) : Statement (.ctz h d a) :=
  decodes_word rfl rfl (by simp)

theorem popc (h : Hdr) (d a : BitVec 8) : Statement (.popc h d a) :=
  decodes_word rfl rfl (by simp)

theorem min (h : Hdr) (d a b : BitVec 8) : Statement (.min h d a b) :=
  decodes_word rfl rfl (by simp)

theorem max (h : Hdr) (d a b : BitVec 8) : Statement (.max h d a b) :=
  decodes_word rfl rfl (by simp)

theorem minu (h : Hdr) (d a b : BitVec 8) : Statement (.minu h d a b) :=
  decodes_word rfl rfl (by simp)

theorem maxu (h : Hdr) (d a b : BitVec 8) : Statement (.maxu h d a b) :=
  decodes_word rfl rfl (by simp)

theorem sel (h : Hdr) (d a b : BitVec 8) (qc : BitVec 3) : Statement (.sel h d a b qc) :=
  decodes_word rfl rfl (by simp)

theorem scmp (h : Hdr) (q : BitVec 3) (a b : BitVec 8) (cc : BitVec 4) (u : BitVec 1) : Statement (.scmp h q a b cc u) :=
  decodes_word rfl rfl (by simp)

theorem scmps (h : Hdr) (d a b : BitVec 8) (cc : BitVec 4) (u : BitVec 1) : Statement (.scmps h d a b cc u) :=
  decodes_word rfl rfl (by simp)

theorem li (h : Hdr) (d : BitVec 8) (imm : BitVec 28) : Statement (.li h d imm) :=
  decodes_word rfl rfl (by simp)

theorem lih (h : Hdr) (d : BitVec 8) (imm36 : BitVec 36) : Statement (.lih h d imm36) :=
  decodes_word rfl rfl (by simp)

theorem agen (h : Hdr) (d a b : BitVec 8) (sh : BitVec 3) (disp : BitVec 17) : Statement (.agen h d a b sh disp) :=
  decodes_word rfl rfl (by simp)

theorem bfx (h : Hdr) (d a : BitVec 8) (pos : BitVec 6) (len : BitVec 7) : Statement (.bfx h d a pos len) :=
  decodes_word rfl rfl (by simp)

theorem bfi (h : Hdr) (d a : BitVec 8) (pos : BitVec 6) (len : BitVec 7) : Statement (.bfi h d a pos len) :=
  decodes_word rfl rfl (by simp)

theorem sext (h : Hdr) (d a : BitVec 8) (n : BitVec 7) : Statement (.sext h d a n) :=
  decodes_word rfl rfl (by simp)

theorem zext (h : Hdr) (d a : BitVec 8) (n : BitVec 7) : Statement (.zext h d a n) :=
  decodes_word rfl rfl (by simp)

theorem mov (h : Hdr) (d a : BitVec 8) : Statement (.mov h d a) :=
  decodes_word rfl rfl (by simp)

theorem fadd (h : Hdr) (d a b : BitVec 8) (ty rm : BitVec 3) : Statement (.fadd h d a b ty rm) :=
  decodes_word rfl rfl (by simp)

theorem fsub (h : Hdr) (d a b : BitVec 8) (ty rm : BitVec 3) : Statement (.fsub h d a b ty rm) :=
  decodes_word rfl rfl (by simp)

theorem fmul (h : Hdr) (d a b : BitVec 8) (ty rm : BitVec 3) : Statement (.fmul h d a b ty rm) :=
  decodes_word rfl rfl (by simp)

theorem ffma (h : Hdr) (d a b c : BitVec 8) (ty rm : BitVec 3) : Statement (.ffma h d a b c ty rm) :=
  decodes_word rfl rfl (by simp)

theorem fdiv (h : Hdr) (d a b : BitVec 8) (ty rm : BitVec 3) : Statement (.fdiv h d a b ty rm) :=
  decodes_word rfl rfl (by simp)

theorem fsqrt (h : Hdr) (d a : BitVec 8) (ty rm : BitVec 3) : Statement (.fsqrt h d a ty rm) :=
  decodes_word rfl rfl (by simp)

theorem fmin (h : Hdr) (d a b : BitVec 8) (ty : BitVec 3) : Statement (.fmin h d a b ty) :=
  decodes_word rfl rfl (by simp)

theorem fmax (h : Hdr) (d a b : BitVec 8) (ty : BitVec 3) : Statement (.fmax h d a b ty) :=
  decodes_word rfl rfl (by simp)

theorem fcmp (h : Hdr) (q : BitVec 3) (a b : BitVec 8) (ty : BitVec 3) (cc : BitVec 4) : Statement (.fcmp h q a b ty cc) :=
  decodes_word rfl rfl (by simp)

theorem fclass (h : Hdr) (d a : BitVec 8) (ty : BitVec 3) : Statement (.fclass h d a ty) :=
  decodes_word rfl rfl (by simp)

theorem fcvt (h : Hdr) (d a : BitVec 8) (ty rm : BitVec 3) (fl : BitVec 2) : Statement (.fcvt h d a ty rm fl) :=
  decodes_word rfl rfl (by simp)

theorem fcvti (h : Hdr) (d a : BitVec 8) (ty rm : BitVec 3) (fl : BitVec 2) : Statement (.fcvti h d a ty rm fl) :=
  decodes_word rfl rfl (by simp)

theorem vadd (h : Hdr) (d a b : BitVec 8) (ty : BitVec 3) (m : BitVec 12) : Statement (.vadd h d a b ty m) :=
  decodes_word rfl rfl (by simp)

theorem vsub (h : Hdr) (d a b : BitVec 8) (ty : BitVec 3) (m : BitVec 12) : Statement (.vsub h d a b ty m) :=
  decodes_word rfl rfl (by simp)

theorem vmul (h : Hdr) (d a b : BitVec 8) (ty : BitVec 3) (m : BitVec 12) : Statement (.vmul h d a b ty m) :=
  decodes_word rfl rfl (by simp)

theorem vmulh (h : Hdr) (d a b : BitVec 8) (ty : BitVec 3) (u : BitVec 1) (m : BitVec 12) : Statement (.vmulh h d a b ty u m) :=
  decodes_word rfl rfl (by simp)

theorem vmad (h : Hdr) (d a b c : BitVec 8) (ty : BitVec 3) : Statement (.vmad h d a b c ty) :=
  decodes_word rfl rfl (by simp)

theorem vand (h : Hdr) (d a b : BitVec 8) (ty : BitVec 3) (m : BitVec 12) : Statement (.vand h d a b ty m) :=
  decodes_word rfl rfl (by simp)

theorem vor (h : Hdr) (d a b : BitVec 8) (ty : BitVec 3) (m : BitVec 12) : Statement (.vor h d a b ty m) :=
  decodes_word rfl rfl (by simp)

theorem vxor (h : Hdr) (d a b : BitVec 8) (ty : BitVec 3) (m : BitVec 12) : Statement (.vxor h d a b ty m) :=
  decodes_word rfl rfl (by simp)

theorem vshl (h : Hdr) (d a b : BitVec 8) (ty : BitVec 3) (m : BitVec 12) : Statement (.vshl h d a b ty m) :=
  decodes_word rfl rfl (by simp)

theorem vshr (h : Hdr) (d a b : BitVec 8) (ty : BitVec 3) (m : BitVec 12) : Statement (.vshr h d a b ty m) :=
  decodes_word rfl rfl (by simp)

theorem vsra (h : Hdr) (d a b : BitVec 8) (ty : BitVec 3) (m : BitVec 12) : Statement (.vsra h d a b ty m) :=
  decodes_word rfl rfl (by simp)

theorem vmin (h : Hdr) (d a b : BitVec 8) (ty : BitVec 3) (u : BitVec 1) (m : BitVec 12) : Statement (.vmin h d a b ty u m) :=
  decodes_word rfl rfl (by simp)

theorem vmax (h : Hdr) (d a b : BitVec 8) (ty : BitVec 3) (u : BitVec 1) (m : BitVec 12) : Statement (.vmax h d a b ty u m) :=
  decodes_word rfl rfl (by simp)

theorem vabs (h : Hdr) (d a : BitVec 8) (ty : BitVec 3) (m : BitVec 12) : Statement (.vabs h d a ty m) :=
  decodes_word rfl rfl (by simp)

theorem vcmp (h : Hdr) (q : BitVec 3) (a b : BitVec 8) (ty : BitVec 3) (cc : BitVec 4) (u : BitVec 1) (m : BitVec 12) : Statement (.vcmp h q a b ty cc u m) :=
  decodes_word rfl rfl (by simp)

theorem vsel (h : Hdr) (d a b : BitVec 8) (qc ty : BitVec 3) : Statement (.vsel h d a b qc ty) :=
  decodes_word rfl rfl (by simp)

theorem vadds (h : Hdr) (d a b : BitVec 8) (ty : BitVec 3) (u : BitVec 1) (m : BitVec 12) : Statement (.vadds h d a b ty u m) :=
  decodes_word rfl rfl (by simp)

theorem vsubs (h : Hdr) (d a b : BitVec 8) (ty : BitVec 3) (u : BitVec 1) (m : BitVec 12) : Statement (.vsubs h d a b ty u m) :=
  decodes_word rfl rfl (by simp)

theorem vdot4 (h : Hdr) (d a b c : BitVec 8) (fl : BitVec 2) : Statement (.vdot4 h d a b c fl) :=
  decodes_word rfl rfl (by simp)

theorem vpopc (h : Hdr) (d a : BitVec 8) (ty : BitVec 3) (m : BitVec 12) : Statement (.vpopc h d a ty m) :=
  decodes_word rfl rfl (by simp)

theorem vclz (h : Hdr) (d a : BitVec 8) (ty : BitVec 3) (m : BitVec 12) : Statement (.vclz h d a ty m) :=
  decodes_word rfl rfl (by simp)

theorem vmov (h : Hdr) (d a : BitVec 8) (ty : BitVec 3) (m : BitVec 12) : Statement (.vmov h d a ty m) :=
  decodes_word rfl rfl (by simp)

theorem vfadd (h : Hdr) (d a b : BitVec 8) (ty rm : BitVec 3) (m : BitVec 12) : Statement (.vfadd h d a b ty rm m) :=
  decodes_word rfl rfl (by simp)

theorem vfsub (h : Hdr) (d a b : BitVec 8) (ty rm : BitVec 3) (m : BitVec 12) : Statement (.vfsub h d a b ty rm m) :=
  decodes_word rfl rfl (by simp)

theorem vfmul (h : Hdr) (d a b : BitVec 8) (ty rm : BitVec 3) (m : BitVec 12) : Statement (.vfmul h d a b ty rm m) :=
  decodes_word rfl rfl (by simp)

theorem vfma (h : Hdr) (d a b c : BitVec 8) (ty rm : BitVec 3) : Statement (.vfma h d a b c ty rm) :=
  decodes_word rfl rfl (by simp)

theorem vfms (h : Hdr) (d a b c : BitVec 8) (ty rm : BitVec 3) : Statement (.vfms h d a b c ty rm) :=
  decodes_word rfl rfl (by simp)

theorem vfnma (h : Hdr) (d a b c : BitVec 8) (ty rm : BitVec 3) : Statement (.vfnma h d a b c ty rm) :=
  decodes_word rfl rfl (by simp)

theorem vfdiv (h : Hdr) (d a b : BitVec 8) (ty rm : BitVec 3) (m : BitVec 12) : Statement (.vfdiv h d a b ty rm m) :=
  decodes_word rfl rfl (by simp)

theorem vfsqrt (h : Hdr) (d a : BitVec 8) (ty rm : BitVec 3) (m : BitVec 12) : Statement (.vfsqrt h d a ty rm m) :=
  decodes_word rfl rfl (by simp)

theorem vfrec (h : Hdr) (d a : BitVec 8) (rm : BitVec 3) (m : BitVec 12) : Statement (.vfrec h d a rm m) :=
  decodes_word rfl rfl (by simp)

theorem vfrsq (h : Hdr) (d a : BitVec 8) (rm : BitVec 3) (m : BitVec 12) : Statement (.vfrsq h d a rm m) :=
  decodes_word rfl rfl (by simp)

theorem vfexp2 (h : Hdr) (d a : BitVec 8) (rm : BitVec 3) (m : BitVec 12) : Statement (.vfexp2 h d a rm m) :=
  decodes_word rfl rfl (by simp)

theorem vflog2 (h : Hdr) (d a : BitVec 8) (rm : BitVec 3) (m : BitVec 12) : Statement (.vflog2 h d a rm m) :=
  decodes_word rfl rfl (by simp)

theorem vfmin (h : Hdr) (d a b : BitVec 8) (ty : BitVec 3) (m : BitVec 12) : Statement (.vfmin h d a b ty m) :=
  decodes_word rfl rfl (by simp)

theorem vfmax (h : Hdr) (d a b : BitVec 8) (ty : BitVec 3) (m : BitVec 12) : Statement (.vfmax h d a b ty m) :=
  decodes_word rfl rfl (by simp)

theorem vfcmp (h : Hdr) (q : BitVec 3) (a b : BitVec 8) (ty : BitVec 3) (cc : BitVec 4) (m : BitVec 12) : Statement (.vfcmp h q a b ty cc m) :=
  decodes_word rfl rfl (by simp)

theorem vfclass (h : Hdr) (d a : BitVec 8) (ty : BitVec 3) (m : BitVec 12) : Statement (.vfclass h d a ty m) :=
  decodes_word rfl rfl (by simp)

theorem vfcvt (h : Hdr) (d a : BitVec 8) (ty rm : BitVec 3) (fl : BitVec 2) (m : BitVec 12) : Statement (.vfcvt h d a ty rm fl m) :=
  decodes_word rfl rfl (by simp)

theorem vfnarrow (h : Hdr) (d a b c : BitVec 8) (ty rm : BitVec 3) (u : BitVec 1) : Statement (.vfnarrow h d a b c ty rm u) :=
  decodes_word rfl rfl (by simp)

theorem vfwiden (h : Hdr) (d a b : BitVec 8) (ty : BitVec 3) (fl : BitVec 2) (m : BitVec 12) : Statement (.vfwiden h d a b ty fl m) :=
  decodes_word rfl rfl (by simp)

theorem vfred (h : Hdr) (d a : BitVec 8) (ty rm : BitVec 3) (fl : BitVec 2) (m : BitVec 12) : Statement (.vfred h d a ty rm fl m) :=
  decodes_word rfl rfl (by simp)

theorem vfamax (h : Hdr) (d a : BitVec 8) (ty : BitVec 3) (m : BitVec 12) : Statement (.vfamax h d a ty m) :=
  decodes_word rfl rfl (by simp)

theorem vperm (h : Hdr) (d a b : BitVec 8) (ty : BitVec 3) (m : BitVec 12) : Statement (.vperm h d a b ty m) :=
  decodes_word rfl rfl (by simp)

theorem vrot (h : Hdr) (d a b : BitVec 8) (ty : BitVec 3) (m : BitVec 12) : Statement (.vrot h d a b ty m) :=
  decodes_word rfl rfl (by simp)

theorem vbfly (h : Hdr) (d a b : BitVec 8) (ty : BitVec 3) (m : BitVec 12) : Statement (.vbfly h d a b ty m) :=
  decodes_word rfl rfl (by simp)

theorem vbcst (h : Hdr) (d a b : BitVec 8) (ty : BitVec 3) (m : BitVec 12) : Statement (.vbcst h d a b ty m) :=
  decodes_word rfl rfl (by simp)

theorem vcomp (h : Hdr) (d a : BitVec 8) (qb ty : BitVec 3) (m : BitVec 12) : Statement (.vcomp h d a qb ty m) :=
  decodes_word rfl rfl (by simp)

theorem vxpnd (h : Hdr) (d a : BitVec 8) (qb ty : BitVec 3) (m : BitVec 12) : Statement (.vxpnd h d a qb ty m) :=
  decodes_word rfl rfl (by simp)

theorem vsplat (h : Hdr) (d a : BitVec 8) (ty : BitVec 3) : Statement (.vsplat h d a ty) :=
  decodes_word rfl rfl (by simp)

theorem vext (h : Hdr) (d a b : BitVec 8) (ty : BitVec 3) (u : BitVec 1) (m : BitVec 12) : Statement (.vext h d a b ty u m) :=
  decodes_word rfl rfl (by simp)

theorem vins (h : Hdr) (d a b : BitVec 8) (ty : BitVec 3) : Statement (.vins h d a b ty) :=
  decodes_word rfl rfl (by simp)

theorem qand (h : Hdr) (q qa qb : BitVec 3) : Statement (.qand h q qa qb) :=
  decodes_word rfl rfl (by simp)

theorem qor (h : Hdr) (q qa qb : BitVec 3) : Statement (.qor h q qa qb) :=
  decodes_word rfl rfl (by simp)

theorem qxor (h : Hdr) (q qa qb : BitVec 3) : Statement (.qxor h q qa qb) :=
  decodes_word rfl rfl (by simp)

theorem qnot (h : Hdr) (q qa : BitVec 3) : Statement (.qnot h q qa) :=
  decodes_word rfl rfl (by simp)

theorem qpop (h : Hdr) (d : BitVec 8) (qa : BitVec 3) : Statement (.qpop h d qa) :=
  decodes_word rfl rfl (by simp)

theorem qfirst (h : Hdr) (d : BitVec 8) (qa : BitVec 3) : Statement (.qfirst h d qa) :=
  decodes_word rfl rfl (by simp)

theorem qmov (h : Hdr) (q : BitVec 3) (a : BitVec 8) : Statement (.qmov h q a) :=
  decodes_word rfl rfl (by simp)

theorem qmovX (h : Hdr) (d : BitVec 8) (qa : BitVec 3) : Statement (.qmovX h d qa) :=
  decodes_word rfl rfl (by simp)

theorem gany (h : Hdr) (q qa : BitVec 3) (u : BitVec 1) : Statement (.gany h q qa u) :=
  decodes_word rfl rfl (by simp)

theorem gall (h : Hdr) (q qa : BitVec 3) (u : BitVec 1) : Statement (.gall h q qa u) :=
  decodes_word rfl rfl (by simp)

theorem gbcast (h : Hdr) (d a : BitVec 8) : Statement (.gbcast h d a) :=
  decodes_word rfl rfl (by simp)

theorem glane (h : Hdr) (d : BitVec 8) : Statement (.glane h d) :=
  decodes_word rfl rfl (by simp)

theorem dtld (h : Hdr) (a : BitVec 8) : Statement (.dtld h a) :=
  decodes_word rfl rfl (by simp)

theorem dtrd (h : Hdr) (d a : BitVec 8) : Statement (.dtrd h d a) :=
  decodes_word rfl rfl (by simp)

theorem dtdec (h : Hdr) (d a b : BitVec 8) (ty rm : BitVec 3) (u : BitVec 1) (m : BitVec 12) : Statement (.dtdec h d a b ty rm u m) :=
  decodes_word rfl rfl (by simp)

theorem dtenc (h : Hdr) (d a b c : BitVec 8) (ty rm : BitVec 3) (fl : BitVec 2) : Statement (.dtenc h d a b c ty rm fl) :=
  decodes_word rfl rfl (by simp)

theorem mxq (h : Hdr) (d a b c : BitVec 8) (ty rm : BitVec 3) : Statement (.mxq h d a b c ty rm) :=
  decodes_word rfl rfl (by simp)

theorem mxqMem (h : Hdr) (d a b c : BitVec 8) (ty rm : BitVec 3) : Statement (.mxqMem h d a b c ty rm) :=
  decodes_word rfl rfl (by simp)

theorem mxdq (h : Hdr) (d a b : BitVec 8) (ty rm : BitVec 3) (u : BitVec 1) (m : BitVec 12) : Statement (.mxdq h d a b ty rm u m) :=
  decodes_word rfl rfl (by simp)

theorem ufcnt (h : Hdr) (d : BitVec 8) : Statement (.ufcnt h d) :=
  decodes_word rfl rfl (by simp)

theorem scsel (h : Hdr) (d a b c : BitVec 8) (ty : BitVec 3) : Statement (.scsel h d a b c ty) :=
  decodes_word rfl rfl (by simp)

theorem ld (h : Hdr) (d a : BitVec 8) (disp : BitVec 20) (scope : BitVec 3) (ord : BitVec 2) (sz : BitVec 3) : Statement (.ld h d a disp scope ord sz) :=
  decodes_word rfl rfl (by simp)

theorem st (h : Hdr) (d a : BitVec 8) (disp : BitVec 20) (scope : BitVec 3) (ord : BitVec 2) (sz : BitVec 3) : Statement (.st h d a disp scope ord sz) :=
  decodes_word rfl rfl (by simp)

theorem ldv (h : Hdr) (d a : BitVec 8) (disp : BitVec 20) (scope : BitVec 3) (ord : BitVec 2) : Statement (.ldv h d a disp scope ord) :=
  decodes_word rfl rfl (by simp)

theorem stv (h : Hdr) (d a : BitVec 8) (disp : BitVec 20) (scope : BitVec 3) (ord : BitVec 2) : Statement (.stv h d a disp scope ord) :=
  decodes_word rfl rfl (by simp)

theorem ldvx (h : Hdr) (d a b : BitVec 8) (scope : BitVec 3) (ord : BitVec 2) (sz : BitVec 3) (m : BitVec 12) : Statement (.ldvx h d a b scope ord sz m) :=
  decodes_word rfl rfl (by simp)

theorem stvx (h : Hdr) (d a b : BitVec 8) (scope : BitVec 3) (ord : BitVec 2) (sz : BitVec 3) (m : BitVec 12) : Statement (.stvx h d a b scope ord sz m) :=
  decodes_word rfl rfl (by simp)

theorem lds (h : Hdr) (d a b : BitVec 8) (scope sz : BitVec 3) (wall : BitVec 1) : Statement (.lds h d a b scope sz wall) :=
  decodes_word rfl rfl (by simp)

theorem stf (h : Hdr) (d a : BitVec 8) (disp : BitVec 20) (scope sz : BitVec 3) : Statement (.stf h d a disp scope sz) :=
  decodes_word rfl rfl (by simp)

theorem feclr (h : Hdr) (a : BitVec 8) (disp : BitVec 20) (scope : BitVec 3) (ord : BitVec 2) : Statement (.feclr h a disp scope ord) :=
  decodes_word rfl rfl (by simp)

theorem ferd (h : Hdr) (d a : BitVec 8) (disp : BitVec 20) (scope : BitVec 3) (ord : BitVec 2) : Statement (.ferd h d a disp scope ord) :=
  decodes_word rfl rfl (by simp)

theorem aadd (h : Hdr) (d a b : BitVec 8) (scope : BitVec 3) (ord : BitVec 2) (sz : BitVec 3) : Statement (.aadd h d a b scope ord sz) :=
  decodes_word rfl rfl (by simp)

theorem aand (h : Hdr) (d a b : BitVec 8) (scope : BitVec 3) (ord : BitVec 2) (sz : BitVec 3) : Statement (.aand h d a b scope ord sz) :=
  decodes_word rfl rfl (by simp)

theorem aor (h : Hdr) (d a b : BitVec 8) (scope : BitVec 3) (ord : BitVec 2) (sz : BitVec 3) : Statement (.aor h d a b scope ord sz) :=
  decodes_word rfl rfl (by simp)

theorem axor (h : Hdr) (d a b : BitVec 8) (scope : BitVec 3) (ord : BitVec 2) (sz : BitVec 3) : Statement (.axor h d a b scope ord sz) :=
  decodes_word rfl rfl (by simp)

theorem amin (h : Hdr) (d a b : BitVec 8) (scope : BitVec 3) (ord : BitVec 2) (sz : BitVec 3) : Statement (.amin h d a b scope ord sz) :=
  decodes_word rfl rfl (by simp)

theorem amax (h : Hdr) (d a b : BitVec 8) (scope : BitVec 3) (ord : BitVec 2) (sz : BitVec 3) : Statement (.amax h d a b scope ord sz) :=
  decodes_word rfl rfl (by simp)

theorem aminu (h : Hdr) (d a b : BitVec 8) (scope : BitVec 3) (ord : BitVec 2) (sz : BitVec 3) : Statement (.aminu h d a b scope ord sz) :=
  decodes_word rfl rfl (by simp)

theorem amaxu (h : Hdr) (d a b : BitVec 8) (scope : BitVec 3) (ord : BitVec 2) (sz : BitVec 3) : Statement (.amaxu h d a b scope ord sz) :=
  decodes_word rfl rfl (by simp)

theorem axchg (h : Hdr) (d a b : BitVec 8) (scope : BitVec 3) (ord : BitVec 2) (sz : BitVec 3) : Statement (.axchg h d a b scope ord sz) :=
  decodes_word rfl rfl (by simp)

theorem acas (h : Hdr) (d a b c : BitVec 8) (scope : BitVec 3) (ord : BitVec 2) (sz : BitVec 3) : Statement (.acas h d a b c scope ord sz) :=
  decodes_word rfl rfl (by simp)

theorem afadd (h : Hdr) (d a b : BitVec 8) (scope : BitVec 3) (ord : BitVec 2) (sz : BitVec 3) : Statement (.afadd h d a b scope ord sz) :=
  decodes_word rfl rfl (by simp)

theorem radd (h : Hdr) (d a : BitVec 8) (disp : BitVec 20) (scope : BitVec 3) (ord : BitVec 2) (sz : BitVec 3) : Statement (.radd h d a disp scope ord sz) :=
  decodes_word rfl rfl (by simp)

theorem rand (h : Hdr) (d a : BitVec 8) (disp : BitVec 20) (scope : BitVec 3) (ord : BitVec 2) (sz : BitVec 3) : Statement (.rand h d a disp scope ord sz) :=
  decodes_word rfl rfl (by simp)

theorem rior (h : Hdr) (d a : BitVec 8) (disp : BitVec 20) (scope : BitVec 3) (ord : BitVec 2) (sz : BitVec 3) : Statement (.rior h d a disp scope ord sz) :=
  decodes_word rfl rfl (by simp)

theorem rxor (h : Hdr) (d a : BitVec 8) (disp : BitVec 20) (scope : BitVec 3) (ord : BitVec 2) (sz : BitVec 3) : Statement (.rxor h d a disp scope ord sz) :=
  decodes_word rfl rfl (by simp)

theorem rmin (h : Hdr) (d a : BitVec 8) (disp : BitVec 20) (scope : BitVec 3) (ord : BitVec 2) (sz : BitVec 3) : Statement (.rmin h d a disp scope ord sz) :=
  decodes_word rfl rfl (by simp)

theorem rmax (h : Hdr) (d a : BitVec 8) (disp : BitVec 20) (scope : BitVec 3) (ord : BitVec 2) (sz : BitVec 3) : Statement (.rmax h d a disp scope ord sz) :=
  decodes_word rfl rfl (by simp)

theorem rfadd (h : Hdr) (d a : BitVec 8) (disp : BitVec 20) (scope : BitVec 3) (ord : BitVec 2) (sz : BitVec 3) : Statement (.rfadd h d a disp scope ord sz) :=
  decodes_word rfl rfl (by simp)

theorem fence (h : Hdr) (d b classes : BitVec 8) (scope : BitVec 3) (wall : BitVec 1) : Statement (.fence h d b classes scope wall) :=
  decodes_word rfl rfl (by simp)

theorem barr (h : Hdr) (d : BitVec 8) (g : BitVec 2) : Statement (.barr h d g) :=
  decodes_word rfl rfl (by simp)

theorem bwait (h : Hdr) (d : BitVec 8) (g : BitVec 2) (b : BitVec 8) (wall : BitVec 1) : Statement (.bwait h d g b wall) :=
  decodes_word rfl rfl (by simp)

theorem bwd (h : Hdr) (d : BitVec 8) (g : BitVec 2) : Statement (.bwd h d g) :=
  decodes_word rfl rfl (by simp)

theorem bstat (h : Hdr) (d : BitVec 8) (g : BitVec 2) : Statement (.bstat h d g) :=
  decodes_word rfl rfl (by simp)

theorem send (h : Hdr) (a b : BitVec 8) (scope : BitVec 3) (m : BitVec 12) : Statement (.send h a b scope m) :=
  decodes_word rfl rfl (by simp)

theorem recv (h : Hdr) (d a b : BitVec 8) (wall : BitVec 1) : Statement (.recv h d a b wall) :=
  decodes_word rfl rfl (by simp)

theorem qstat (h : Hdr) (d : BitVec 8) : Statement (.qstat h d) :=
  decodes_word rfl rfl (by simp)

theorem waitseq (h : Hdr) (d a b : BitVec 8) (wall : BitVec 1) : Statement (.waitseq h d a b wall) :=
  decodes_word rfl rfl (by simp)

theorem xplan (h : Hdr) (a : BitVec 8) : Statement (.xplan h a) :=
  decodes_word rfl rfl (by simp)

theorem sstep (h : Hdr) (a b : BitVec 8) (u wall : BitVec 1) : Statement (.sstep h a b u wall) :=
  decodes_word rfl rfl (by simp)

theorem bcfg (h : Hdr) (d : BitVec 8) (g : BitVec 2) (b : BitVec 8) (u : BitVec 1) : Statement (.bcfg h d g b u) :=
  decodes_word rfl rfl (by simp)

theorem append (h : Hdr) (d a b : BitVec 8) (u : BitVec 1) : Statement (.append h d a b u) :=
  decodes_word rfl rfl (by simp)

theorem chain (h : Hdr) (d a : BitVec 8) : Statement (.chain h d a) :=
  decodes_word rfl rfl (by simp)

theorem chainUnbind (h : Hdr) (d a : BitVec 8) : Statement (.chainUnbind h d a) :=
  decodes_word rfl rfl (by simp)

theorem seqrd (h : Hdr) (d a : BitVec 8) (k : BitVec 2) : Statement (.seqrd h d a k) :=
  decodes_word rfl rfl (by simp)

theorem claim (h : Hdr) (d : BitVec 8) (n : BitVec 7) : Statement (.claim h d n) :=
  decodes_word rfl rfl (by simp)

theorem rels (h : Hdr) (a : BitVec 8) : Statement (.rels h a) :=
  decodes_word rfl rfl (by simp)

theorem tshape (h : Hdr) (a b : BitVec 8) : Statement (.tshape h a b) :=
  decodes_word rfl rfl (by simp)

theorem trow (h : Hdr) (d a b : BitVec 8) : Statement (.trow h d a b) :=
  decodes_word rfl rfl (by simp)

theorem tcol (h : Hdr) (d a b : BitVec 8) : Statement (.tcol h d a b) :=
  decodes_word rfl rfl (by simp)

theorem twrow (h : Hdr) (a b c : BitVec 8) : Statement (.twrow h a b c) :=
  decodes_word rfl rfl (by simp)

theorem twcol (h : Hdr) (a b c : BitVec 8) : Statement (.twcol h a b c) :=
  decodes_word rfl rfl (by simp)

theorem wralloc (h : Hdr) (d a : BitVec 8) : Statement (.wralloc h d a) :=
  decodes_word rfl rfl (by simp)

theorem wrpin (h : Hdr) (a : BitVec 8) : Statement (.wrpin h a) :=
  decodes_word rfl rfl (by simp)

theorem wrunpin (h : Hdr) (a : BitVec 8) : Statement (.wrunpin h a) :=
  decodes_word rfl rfl (by simp)

theorem wrrevoke (h : Hdr) (a : BitVec 8) : Statement (.wrrevoke h a) :=
  decodes_word rfl rfl (by simp)

theorem wrquery (h : Hdr) (d a : BitVec 8) : Statement (.wrquery h d a) :=
  decodes_word rfl rfl (by simp)

theorem laclr (h : Hdr) (a : BitVec 8) : Statement (.laclr h a) :=
  decodes_word rfl rfl (by simp)

theorem laadd (h : Hdr) (a b : BitVec 8) (u : BitVec 1) : Statement (.laadd h a b u) :=
  decodes_word rfl rfl (by simp)

theorem ladot (h : Hdr) (a b c : BitVec 8) : Statement (.ladot h a b c) :=
  decodes_word rfl rfl (by simp)

theorem larnd (h : Hdr) (d a : BitVec 8) (ty rm : BitVec 3) : Statement (.larnd h d a ty rm) :=
  decodes_word rfl rfl (by simp)

theorem lamrg (h : Hdr) (a b : BitVec 8) : Statement (.lamrg h a b) :=
  decodes_word rfl rfl (by simp)

theorem laflg (h : Hdr) (d a : BitVec 8) : Statement (.laflg h d a) :=
  decodes_word rfl rfl (by simp)

theorem laflgClr (h : Hdr) (d a : BitVec 8) : Statement (.laflgClr h d a) :=
  decodes_word rfl rfl (by simp)

theorem fuse (h : Hdr) (d : BitVec 8) (gs : BitVec 4) : Statement (.fuse h d gs) :=
  decodes_word rfl rfl (by simp)

theorem split (h : Hdr) (t : BitVec 2) : Statement (.split h t) :=
  decodes_word rfl rfl (by simp)

theorem migpt (h : Hdr) (d : BitVec 8) : Statement (.migpt h d) :=
  decodes_word rfl rfl (by simp)

theorem lcid (h : Hdr) (d : BitVec 8) (k : BitVec 2) : Statement (.lcid h d k) :=
  decodes_word rfl rfl (by simp)

theorem csrr (h : Hdr) (d : BitVec 8) (csr : BitVec 16) : Statement (.csrr h d csr) :=
  decodes_word rfl rfl (by simp)

theorem csrw (h : Hdr) (a : BitVec 8) (csr : BitVec 16) : Statement (.csrw h a csr) :=
  decodes_word rfl rfl (by simp)

theorem csrx (h : Hdr) (d a : BitVec 8) (csr : BitVec 16) : Statement (.csrx h d a csr) :=
  decodes_word rfl rfl (by simp)

theorem tlbinv (h : Hdr) (a b : BitVec 8) : Statement (.tlbinv h a b) :=
  decodes_word rfl rfl (by simp)

theorem tlbinvAll (h : Hdr) (a b : BitVec 8) : Statement (.tlbinvAll h a b) :=
  decodes_word rfl rfl (by simp)

theorem tlbinvAllP (h : Hdr) (a b : BitVec 8) : Statement (.tlbinvAllP h a b) :=
  decodes_word rfl rfl (by simp)

theorem halt (h : Hdr) : Statement (.halt h) :=
  decodes_word rfl rfl (by simp)

theorem keyz (h : Hdr) (d a : BitVec 8) : Statement (.keyz h d a) :=
  decodes_word rfl rfl (by simp)

theorem skim (h : Hdr) (d a : BitVec 8) : Statement (.skim h d a) :=
  decodes_word rfl rfl (by simp)

theorem attest (h : Hdr) (d a b : BitVec 8) : Statement (.attest h d a b) :=
  decodes_word rfl rfl (by simp)

theorem tkrd (h : Hdr) (d : BitVec 8) : Statement (.tkrd h d) :=
  decodes_word rfl rfl (by simp)

theorem tkgive (h : Hdr) (d a b : BitVec 8) : Statement (.tkgive h d a b) :=
  decodes_word rfl rfl (by simp)

theorem quar (h : Hdr) (d a : BitVec 8) : Statement (.quar h d a) :=
  decodes_word rfl rfl (by simp)

theorem mcread (h : Hdr) (d a : BitVec 8) : Statement (.mcread h d a) :=
  decodes_word rfl rfl (by simp)

theorem pswitch (h : Hdr) (d a b : BitVec 8) : Statement (.pswitch h d a b) :=
  decodes_word rfl rfl (by simp)

theorem fbctl (h : Hdr) (d a : BitVec 8) : Statement (.fbctl h d a) :=
  decodes_word rfl rfl (by simp)

theorem ctxld (h : Hdr) (d a : BitVec 8) : Statement (.ctxld h d a) :=
  decodes_word rfl rfl (by simp)

theorem mmt8t8 (e : Ecw) : Statement (.mmt8t8 e) := decodes_engine rfl rfl rfl rfl rfl

theorem mmst8t8 (e : Ecw) : Statement (.mmst8t8 e) := decodes_engine rfl rfl rfl rfl rfl

theorem mmt8bf (e : Ecw) : Statement (.mmt8bf e) := decodes_engine rfl rfl rfl rfl rfl

theorem mmst8bf (e : Ecw) : Statement (.mmst8bf e) := decodes_engine rfl rfl rfl rfl rfl

theorem mmbfbf (e : Ecw) : Statement (.mmbfbf e) := decodes_engine rfl rfl rfl rfl rfl

theorem mmsbfbf (e : Ecw) : Statement (.mmsbfbf e) := decodes_engine rfl rfl rfl rfl rfl

theorem mmf16f16 (e : Ecw) : Statement (.mmf16f16 e) := decodes_engine rfl rfl rfl rfl rfl

theorem mmsf16f16 (e : Ecw) : Statement (.mmsf16f16 e) := decodes_engine rfl rfl rfl rfl rfl

theorem mmi8i8 (e : Ecw) : Statement (.mmi8i8 e) := decodes_engine rfl rfl rfl rfl rfl

theorem mmsi8i8 (e : Ecw) : Statement (.mmsi8i8 e) := decodes_engine rfl rfl rfl rfl rfl

theorem mmt4t8 (e : Ecw) : Statement (.mmt4t8 e) := decodes_engine rfl rfl rfl rfl rfl

theorem mmst4t8 (e : Ecw) : Statement (.mmst4t8 e) := decodes_engine rfl rfl rfl rfl rfl

theorem mmt4t4 (e : Ecw) : Statement (.mmt4t4 e) := decodes_engine rfl rfl rfl rfl rfl

theorem mmst4t4 (e : Ecw) : Statement (.mmst4t4 e) := decodes_engine rfl rfl rfl rfl rfl

theorem mmx8x8 (e : Ecw) : Statement (.mmx8x8 e) := decodes_engine rfl rfl rfl rfl rfl

theorem mmsx8x8 (e : Ecw) : Statement (.mmsx8x8 e) := decodes_engine rfl rfl rfl rfl rfl

theorem mmx4x8 (e : Ecw) : Statement (.mmx4x8 e) := decodes_engine rfl rfl rfl rfl rfl

theorem mmsx4x8 (e : Ecw) : Statement (.mmsx4x8 e) := decodes_engine rfl rfl rfl rfl rfl

theorem mmx4x4 (e : Ecw) : Statement (.mmx4x4 e) := decodes_engine rfl rfl rfl rfl rfl

theorem mmsx4x4 (e : Ecw) : Statement (.mmsx4x4 e) := decodes_engine rfl rfl rfl rfl rfl

theorem wload (e : Ecw) : Statement (.wload e) := decodes_engine rfl rfl rfl rfl rfl

theorem mxsig (e : Ecw) : Statement (.mxsig e) := decodes_engine rfl rfl rfl rfl rfl

theorem cpy (e : Ecw) : Statement (.cpy e) := decodes_engine rfl rfl rfl rfl rfl

theorem cpys (e : Ecw) : Statement (.cpys e) := decodes_engine rfl rfl rfl rfl rfl

theorem cpyg (e : Ecw) : Statement (.cpyg e) := decodes_engine rfl rfl rfl rfl rfl

theorem cpyf (e : Ecw) : Statement (.cpyf e) := decodes_engine rfl rfl rfl rfl rfl

theorem cpymx (e : Ecw) : Statement (.cpymx e) := decodes_engine rfl rfl rfl rfl rfl

theorem sig (e : Ecw) : Statement (.sig e) := decodes_engine rfl rfl rfl rfl rfl

theorem cred (e : Ecw) : Statement (.cred e) := decodes_engine rfl rfl rfl rfl rfl

theorem credx (e : Ecw) : Statement (.credx e) := decodes_engine rfl rfl rfl rfl rfl

theorem cgath (e : Ecw) : Statement (.cgath e) := decodes_engine rfl rfl rfl rfl rfl

theorem cbcast (e : Ecw) : Statement (.cbcast e) := decodes_engine rfl rfl rfl rfl rfl

theorem engineCommandComplete (core : Nat) (slot : Nat) : Statement (.engineCommandComplete core slot) := fun _ h => absurd rfl h

theorem registerWrite (master : Nat) (blk : Nat) (off : Nat) (val : Word) : Statement (.registerWrite master blk off val) := fun _ h => absurd rfl h

theorem devQcfgWrite (master : Nat) (n : Nat) (val : Word) : Statement (.devQcfgWrite master n val) := fun _ h => absurd rfl h

theorem devQheadWrite (master : Nat) (n : Nat) (val : Word) : Statement (.devQheadWrite master n val) := fun _ h => absurd rfl h

theorem devQtailWrite (master : Nat) (n : Nat) (val : Word) : Statement (.devQtailWrite master n val) := fun _ h => absurd rfl h

theorem wakeComplete (die : Nat) : Statement (.wakeComplete die) := fun _ h => absurd rfl h

theorem wakeFailure (die : Nat) : Statement (.wakeFailure die) := fun _ h => absurd rfl h

theorem packetFetch (n : Nat) : Statement (.packetFetch n) := fun _ h => absurd rfl h

theorem queueFetchTimeout (n : Nat) : Statement (.queueFetchTimeout n) := fun _ h => absurd rfl h

theorem launch (n : Nat) : Statement (.launch n) := fun _ h => absurd rfl h

theorem copy (n : Nat) : Statement (.copy n) := fun _ h => absurd rfl h

theorem signal (n : Nat) : Statement (.signal n) := fun _ h => absurd rfl h

theorem wait (n : Nat) : Statement (.wait n) := fun _ h => absurd rfl h

theorem waitPacketExpiry (n : Nat) : Statement (.waitPacketExpiry n) := fun _ h => absurd rfl h

theorem contextCreate (n : Nat) (part : Nat) (pcids : List Nat) : Statement (.contextCreate n part pcids) := fun _ h => absurd rfl h

theorem contextDestroy (n : Nat) : Statement (.contextDestroy n) := fun _ h => absurd rfl h

theorem migrate (n : Nat) (target : Nat) : Statement (.migrate n target) := fun _ h => absurd rfl h

theorem teardown (n : Nat) : Statement (.teardown n) := fun _ h => absurd rfl h

theorem instancePlacement (tract : Nat) (base : Nat) : Statement (.instancePlacement tract base) := fun _ h => absurd rfl h

theorem instanceCompletion (iid : Nat) : Statement (.instanceCompletion iid) := fun _ h => absurd rfl h

theorem completionRecord (k : Nat) : Statement (.completionRecord k) := fun _ h => absurd rfl h

theorem instructionRefill (core : Nat) (strand : Nat) : Statement (.instructionRefill core strand) := fun _ h => absurd rfl h

theorem ownerClaim (master : Nat) : Statement (.ownerClaim master) := fun _ h => absurd rfl h

theorem ownerHandover (master : Nat) (succ : Nat) : Statement (.ownerHandover master succ) := fun _ h => absurd rfl h

theorem ownerRelease (master : Nat) : Statement (.ownerRelease master) := fun _ h => absurd rfl h

theorem ownerLinkLoss : Statement (.ownerLinkLoss) := fun _ h => absurd rfl h

theorem debugCancel (master : Nat) : Statement (.debugCancel master) := fun _ h => absurd rfl h

theorem debugStopRequest (master : Nat) (ctx : Nat) (lbase : Nat) : Statement (.debugStopRequest master ctx lbase) := fun _ h => absurd rfl h

theorem debugResume (master : Nat) : Statement (.debugResume master) := fun _ h => absurd rfl h

theorem debugStep (master : Nat) : Statement (.debugStep master) := fun _ h => absurd rfl h

theorem debugStop : Statement (.debugStop) := fun _ h => absurd rfl h

theorem devDbgwinWrite (master : Nat) (val : Word) : Statement (.devDbgwinWrite master val) := fun _ h => absurd rfl h

theorem dieBmaskWrite (part : Nat) (die : Nat) (k : Nat) (w : Nat) (fw : Bool) (val : Word) : Statement (.dieBmaskWrite part die k w fw val) := fun _ h => absurd rfl h

theorem helperResume (core : Nat) (val : Word) : Statement (.helperResume core val) := fun _ h => absurd rfl h

theorem inFieldTest (core : Nat) : Statement (.inFieldTest core) := fun _ h => absurd rfl h

theorem inFieldTestDone (core : Nat) (passed : Bool) : Statement (.inFieldTestDone core passed) := fun _ h => absurd rfl h

theorem quarantineClear (core : Nat) (bits : BitVec 3) : Statement (.quarantineClear core bits) := fun _ h => absurd rfl h

theorem bankRebuild (core : Nat) (csp : Bool) (bank : Nat) : Statement (.bankRebuild core csp bank) := fun _ h => absurd rfl h

theorem rebuildStripe (core : Nat) (csp : Bool) : Statement (.rebuildStripe core csp) := fun _ h => absurd rfl h

theorem exchangeStart (core : Nat) : Statement (.exchangeStart core) := fun _ h => absurd rfl h

theorem exchangeRecordIssue (core : Nat) : Statement (.exchangeRecordIssue core) := fun _ h => absurd rfl h

theorem exchangeReceive (k : Nat) : Statement (.exchangeReceive k) := fun _ h => absurd rfl h

theorem computeEntry (iid : Nat) : Statement (.computeEntry iid) := fun _ h => absurd rfl h

theorem barrierRelease (iid : Nat) (g : Nat) : Statement (.barrierRelease iid g) := fun _ h => absurd rfl h

theorem waitCompletion (core : Nat) (strand : Nat) : Statement (.waitCompletion core strand) := fun _ h => absurd rfl h

theorem waitExpiry (core : Nat) (strand : Nat) : Statement (.waitExpiry core strand) := fun _ h => absurd rfl h

theorem fuseWindowTimeout (clu : Nat) (pos : Nat) : Statement (.fuseWindowTimeout clu pos) := fun _ h => absurd rfl h

theorem messageDelivery (k : Nat) : Statement (.messageDelivery k) := fun _ h => absurd rfl h

theorem pageWalk (core : Nat) (id : Nat) (elem : Nat) : Statement (.pageWalk core id elem) := fun _ h => absurd rfl h

theorem snagTimeout (core : Nat) (idx : Nat) : Statement (.snagTimeout core idx) := fun _ h => absurd rfl h

theorem asyncTrapEntry (core : Nat) : Statement (.asyncTrapEntry core) := fun _ h => absurd rfl h

theorem migrationCommit (core : Nat) : Statement (.migrationCommit core) := fun _ h => absurd rfl h

theorem gangSwitch (part : Nat) : Statement (.gangSwitch part) := fun _ h => absurd rfl h

theorem partitionResume (part : Nat) : Statement (.partitionResume part) := fun _ h => absurd rfl h

theorem machineCheck (core : Nat) (strand : Nat) (unit : Nat) (lane : Nat) (obs : Nat) (expected : Nat) : Statement (.machineCheck core strand unit lane obs expected) := fun _ h => absurd rfl h

theorem poisonConsumption (core : Nat) (strand : Nat) (cause : Nat) (addr : Nat) : Statement (.poisonConsumption core strand cause addr) := fun _ h => absurd rfl h

theorem closureCheck (k : Nat) : Statement (.closureCheck k) := fun _ h => absurd rfl h

theorem closureTimeout (k : Nat) : Statement (.closureTimeout k) := fun _ h => absurd rfl h

theorem thermalSample (core : Nat) (temp : BitVec 16) : Statement (.thermalSample core temp) := fun _ h => absurd rfl h

theorem t4Trip (die : Nat) : Statement (.t4Trip die) := fun _ h => absurd rfl h

theorem tokenPassing : Statement (.tokenPassing) := fun _ h => absurd rfl h

theorem tokenAdd : Statement (.tokenAdd) := fun _ h => absurd rfl h

theorem ballastPass (clu : Nat) (part : Nat) : Statement (.ballastPass clu part) := fun _ h => absurd rfl h

theorem fieldBookStateChange (core : Nat) : Statement (.fieldBookStateChange core) := fun _ h => absurd rfl h

theorem pcSample (core : Nat) : Statement (.pcSample core) := fun _ h => absurd rfl h

theorem skimUnit (die : Nat) : Statement (.skimUnit die) := fun _ h => absurd rfl h

theorem powerOnReset (tbl : BootTable) : Statement (.powerOnReset tbl) := fun _ h => absurd rfl h

theorem deviceReset (tbl : BootTable) : Statement (.deviceReset tbl) := fun _ h => absurd rfl h

theorem functionLevelReset (tbl : BootTable) : Statement (.functionLevelReset tbl) := fun _ h => absurd rfl h

theorem brirusTraining (port : Nat) (ok : Bool) (rate : Nat) (peer : Nat) : Statement (.brirusTraining port ok rate peer) := fun _ h => absurd rfl h

theorem trainingTimeout (port : Nat) : Statement (.trainingTimeout port) := fun _ h => absurd rfl h

theorem brirusFlit (port : Nat) (flit : Flit) : Statement (.brirusFlit port flit) := fun _ h => absurd rfl h

theorem brirusNak (port : Nat) (seq : Nat) : Statement (.brirusNak port seq) := fun _ h => absurd rfl h

theorem cxlMemRequest (off : Nat) (write : Bool) (data : Word) (bytes : BitVec 8) : Statement (.cxlMemRequest off write data bytes) := fun _ h => absurd rfl h

theorem hostLinkDown : Statement (.hostLinkDown) := fun _ h => absurd rfl h

theorem hostLinkUp : Statement (.hostLinkUp) := fun _ h => absurd rfl h

theorem hostAccessTimeout (core : Nat) (id : Nat) (elem : Nat) : Statement (.hostAccessTimeout core id elem) := fun _ h => absurd rfl h

theorem memoryAccessPerformed (core : Nat) (id : Nat) (elem : Nat) : Statement (.memoryAccessPerformed core id elem) := fun _ h => absurd rfl h

theorem waitPacketSatisfied (n : Nat) : Statement (.waitPacketSatisfied n) := fun _ h => absurd rfl h

end Laws.Encoding

end Sys2Proof
end

