-- ==== Sys2Proof/Tests/Slice0.lean ====
section
/-! SUPPORT. Tests of the model and witnesses of the statements. Words and results come from the text's own examples and tables, or from a
calculation by hand after its rules. -/

namespace Sys2Proof.Tests

open Sys2Proof Sys2Proof.Machine

/-! ## Encodings that the text writes out -/

/-- No selector, no execution predicate. -/
def h0 : Hdr := { na := 0, nq := 0, nn := 0, eq := 0 }

/-- R182, "A word, bit by bit". -/
theorem test_decode_vfadd :
    decodeWord 0x5A8020304050860D = .ok (.vfadd { na := 2, nq := 6, nn := 1, eq := 2 } 3 4 5 0 2 0x60D) := by rfl

/-- R231: the two words of the status test. -/
theorem test_decode_bfx : decodeWord 0x002F8150500000B0 = .ok (.bfx h0 21 5 48 2) := by rfl
theorem test_decode_scmp : decodeWord 0x682D002151602000 = .ok (.scmp { na := 3, nq := 2, nn := 0, eq := 0 } 2 21 22 1 0) := by rfl

/-- The words of the worked programs (chapters 10 to 12, 16, 17, 20, 22 to 24). -/
theorem test_decode_sequencing :
    decodeWord 0xE000000000000000 = .ok (.nop { h0 with na := 7 }) ∧ decodeWord 0x4001800000000000 = .ok (.lnk { h0 with na := 2 }) ∧
    decodeWord 0x0005818161900000 = .ok (.sleep h0 24 22 25 0) ∧ decodeWord 0x0010800000000005 = .ok (.wins h0 0 5) ∧
    decodeWord 0x0011000080000000 = .ok (.wswap h0 8) ∧ decodeWord 0x00130000E0000000 = .ok (.tret h0 14) ∧
    decodeWord 0x0013000280000000 = .ok (.tret h0 40) ∧ decodeWord 0x0014000090C00000 = .ok (.snagw h0 9 12) :=
  ⟨by rfl, by rfl, by rfl, by rfl, by rfl, by rfl, by rfl, by rfl⟩
theorem test_decode_scalar :
    decodeWord 0x2021009090000004 = .ok (.addi { h0 with na := 1 } 9 9 4) ∧
    decodeWord 0x442D0010A0D00000 = .ok (.scmp { h0 with na := 2, nq := 1 } 1 10 13 0 0) ∧
    decodeWord 0x4A2D002110B04000 = .ok (.scmp { h0 with na := 2, nq := 2, nn := 1 } 2 17 11 2 0) ∧
    decodeWord 0x642E128000000000 = .ok (.li { na := 3, nq := 1, nn := 0, eq := 1 } 40 0) ∧
    decodeWord 0x0044001191A06000 = .ok (.fcmp h0 1 25 26 0 3) := ⟨by rfl, by rfl, by rfl, by rfl, by rfl⟩
theorem test_decode_vector :
    decodeWord 0x0060016151500621 = .ok (.vadd h0 22 21 21 0 0x621) ∧ decodeWord 0x0067809060705000 = .ok (.vsel h0 9 6 7 5 0) ∧
    decodeWord 0x00B1027268800000 = .ok (.dtdec h0 39 38 136 0 0 0 0) ∧
    decodeWord 0x00B202A0A2916610 = .ok (.mxqMem h0 42 10 41 22 3 0) := ⟨by rfl, by rfl, by rfl, by rfl⟩
theorem test_decode_memory :
    decodeWord 0x00C0020090085000 = .ok (.ld h0 32 9 0 4 0 5) ∧ decodeWord 0x00C1C26860080000 = .ok (.stv { h0 with eq := 4 } 38 134 0 4 0) ∧
    decodeWord 0x00C30020B1E80000 = .ok (.lds h0 2 11 30 4 0 0) ∧ decodeWord 0x00C30141C1F80000 = .ok (.lds h0 20 28 31 4 0 0) ∧
    decodeWord 0x00C08160E00B0018 = .ok (.st h0 22 14 24 5 2 0) := ⟨by rfl, by rfl, by rfl, by rfl, by rfl⟩
theorem test_decode_sync :
    decodeWord 0x00F0014001E01800 = .ok (.fence h0 20 30 1 4 0) ∧ decodeWord 0x00F5000001E00000 = .ok (.sstep h0 0 30 0 0) ∧
    decodeWord 0x00F400E0F1E00000 = .ok (.waitseq h0 14 15 30 0) := ⟨by rfl, by rfl, by rfl⟩
theorem test_decode_engines :
    decodeWord 0x010000E061000000 = .ok (.append h0 14 6 16 0) ∧ decodeWord 0x010000E061001000 = .ok (.append h0 14 6 16 1) ∧
    decodeWord 0x010080E0E0000000 = .ok (.chain h0 14 14) ∧ decodeWord 0x0105018140000000 = .ok (.wralloc h0 24 20) ∧
    decodeWord 0x0104000210D23000 = .ok (.twrow h0 33 13 35) ∧ decodeWord 0x0108800100C0C000 = .ok (.ladot h0 16 12 12) ∧
    decodeWord 0x0108800252021000 = .ok (.ladot h0 37 32 33) := ⟨by rfl, by rfl, by rfl, by rfl, by rfl, by rfl, by rfl⟩
theorem test_decode_system :
    decodeWord 0x0121029000000000 = .ok (.migpt h0 41) ∧ decodeWord 0x018000E000000075 = .ok (.csrr h0 14 0x75) ∧
    decodeWord 0x0180014000004002 = .ok (.csrr h0 20 0x4002) ∧ decodeWord 0x01828140A0000000 = .ok (.keyz h0 20 10) ∧
    decodeWord 0x01830140B0000000 = .ok (.skim h0 20 11) := ⟨by rfl, by rfl, by rfl, by rfl, by rfl⟩

/-- R305: the command word of the copy example, as APPEND completes it with a link of zero. -/
theorem test_decode_cpy :
    decodeWords [0x4001000000001000, 0, 0x0020000000000000, 0x0060010000001000] = .ok (.cpy {
      ofl := 0, irq := 0, sf := 1, sca := 0, p0 := 0, hc := 4096, link := 0, scb := 0, opd := 0x20000000000000, p1 := 0,
      dst := 0x60010000001000 }) := by rfl

/-- R182, R187: reserved opcodes. -/
theorem test_decode_reserved :
    decodeWord 0x0006800000000000 = .error .reservedOpcode ∧ decodeWord 0x01FF800000000000 = .error .reservedOpcode ∧
    decodeWords [0x0B00000000000000, 0, 0, 0] = .error .reservedEngineOpcode := ⟨by rfl, by rfl, by rfl⟩

/-- R172, R183: a field that the form does not use is not zero: C of ADD, B of MOV, D[7:3] of QAND. -/
theorem test_decode_unused :
    decodeWord 0x0020009080A01000 = .error .mustBeZero ∧ decodeWord 0x0031809080100000 = .error .mustBeZero ∧
    decodeWord 0x00A4808010200000 = .error .mustBeZero := ⟨by rfl, by rfl, by rfl⟩

/-- R229: BFX fields past the word, and at its edge. -/
theorem test_decode_bfx_edge :
    decodeWord 0x002F815050000431 = .error .reservedValue ∧ decodeWord 0x002F8150500003F1 = .ok (.bfx h0 21 5 49 15) ∧
    decodeWord 0x002F815050000030 = .error .reservedValue := ⟨by rfl, by rfl, by rfl⟩

/-! ## Well-formed terms: an ill-formed one for each check -/

theorem test_wf_selector : (Instr.nop { h0 with nq := 1 }).wf = false ∧ (Instr.nop { h0 with na := 6, nn := 1 }).wf = false ∧
    (Instr.nop { h0 with na := 1, nq := 1 }).wf = true := by decide +kernel
theorem test_wf_noPred : (Instr.wrd { h0 with eq := 1 } 9).wf = false ∧ (Instr.wrd h0 9).wf = true := by decide +kernel
theorem test_wf_isSeq : (Instr.wswap { h0 with na := 1 } 9).wf = false ∧ (Instr.wswap h0 9).wf = true := by decide +kernel
theorem test_wf_helper : (Instr.start h0 9 0).wf = false ∧ (Instr.start h0 9 11).wf = false ∧ (Instr.start h0 9 10).wf = true := by decide +kernel
theorem test_wf_limit : (Instr.wins h0 0 257).wf = false ∧ (Instr.wins h0 0 256).wf = true := by decide +kernel
theorem test_wf_cc : (Instr.scmp h0 1 9 10 6 0).wf = false ∧ (Instr.fcmp h0 1 9 10 0 8).wf = false ∧ (Instr.fcmp h0 1 9 10 0 7).wf = true := by
  decide +kernel
theorem test_wf_bitField : (Instr.bfi h0 9 10 60 5).wf = false ∧ (Instr.bfi h0 9 10 60 0).wf = false ∧ (Instr.bfi h0 9 10 60 4).wf = true := by
  decide +kernel
theorem test_wf_extWidth : (Instr.sext h0 9 10 0).wf = false ∧ (Instr.sext h0 9 10 65).wf = false ∧ (Instr.sext h0 9 10 64).wf = true := by
  decide +kernel
theorem test_wf_types : (Instr.fadd h0 9 10 11 1 0).wf = false ∧ (Instr.fcvt h0 9 10 3 0 0).wf = false ∧ (Instr.vadd h0 9 10 11 5 0).wf = false ∧
    (Instr.vperm h0 9 10 11 3 0).wf = false ∧ (Instr.scsel h0 9 10 11 12 0).wf = false ∧ (Instr.vcmp h0 1 10 11 1 0 0 0).wf = false ∧
    (Instr.vfamax h0 9 10 4 0).wf = false := by decide +kernel
theorem test_wf_rounding : (Instr.fadd h0 9 10 11 0 5).wf = false ∧ (Instr.mxq h0 9 10 11 12 3 6).wf = false ∧
    (Instr.mxq h0 9 10 11 12 3 5).wf = true := by decide +kernel
theorem test_wf_modifier : (Instr.vmov h0 9 10 0 1).wf = false ∧ (Instr.vmov h0 9 10 0 0x680).wf = false ∧ (Instr.vmov h0 9 10 0 0x601).wf = false ∧
    (Instr.vmov h0 9 10 0 0x604).wf = true ∧ (Instr.vmov h0 9 10 0 0x504).wf = true ∧ (Instr.vmov h0 9 10 0 0x488).wf = false := by
  decide +kernel
theorem test_wf_narrow : (Instr.vfnarrow h0 9 10 11 12 3 0 1).wf = false ∧ (Instr.vfnarrow h0 9 10 11 12 0 0 0).wf = false ∧
    (Instr.vfnarrow h0 9 10 11 12 0 0 1).wf = true := by decide +kernel
theorem test_wf_widen : (Instr.vfwiden h0 9 10 11 0 0 0).wf = false ∧ (Instr.vfwiden h0 9 10 11 4 1 0).wf = false ∧
    (Instr.vfwiden h0 9 10 11 4 0 0).wf = true := by decide +kernel
theorem test_wf_reduction : (Instr.vfred h0 9 10 0 1 1 0).wf = false ∧ (Instr.vfred h0 9 10 0 0 3 0).wf = false ∧
    (Instr.vfred h0 9 10 0 1 0 0).wf = true := by decide +kernel
theorem test_wf_scope : (Instr.ld h0 9 10 0 6 0 0).wf = false ∧ (Instr.ld h0 9 10 0 5 0 0).wf = true := by decide +kernel
theorem test_wf_order : (Instr.ld h0 9 10 0 4 2 0).wf = false ∧ (Instr.st h0 9 10 0 4 1 0).wf = false ∧ (Instr.st h0 9 10 0 4 2 0).wf = true := by
  decide +kernel
theorem test_wf_size : (Instr.ld h0 9 10 0 4 0 4).wf = false ∧ (Instr.aadd h0 9 10 11 4 0 2).wf = false ∧ (Instr.afadd h0 9 10 11 4 0 5).wf = false ∧
    (Instr.ldvx h0 9 10 11 4 0 2 0).wf = false := by decide +kernel
theorem test_wf_fence : (Instr.fence h0 9 10 0x20 4 0).wf = false ∧ (Instr.fence h0 9 10 0x1F 4 0).wf = true := by decide +kernel
theorem test_wf_sstep : (Instr.sstep h0 9 10 0 0).wf = false ∧ (Instr.sstep h0 9 10 1 0).wf = true := by decide +kernel
theorem test_wf_seqrd : (Instr.seqrd h0 9 10 3).wf = false ∧ (Instr.seqrd h0 9 10 2).wf = true := by decide +kernel
theorem test_wf_claim : (Instr.claim h0 9 0).wf = false ∧ (Instr.claim h0 9 65).wf = false ∧ (Instr.claim h0 9 64).wf = true := by decide +kernel
theorem test_wf_wralloc : (Instr.wralloc h0 255 9).wf = false ∧ (Instr.wralloc h0 254 9).wf = true := by decide +kernel
theorem test_wf_fuse : (Instr.fuse h0 9 3).wf = false ∧ (Instr.fuse h0 9 8).wf = true := by decide +kernel
theorem test_wf_encode : (Instr.dtenc h0 9 10 11 12 3 0 1).wf = false ∧ (Instr.dtenc h0 9 10 11 12 3 0 2).wf = true := by decide +kernel

set_option Elab.async false
/-! ## A small device -/

/-- A parcel of one core. -/
def tract0 : Tract :=
  { ctx := 1, queue := 0, prio := 0, paired := false, rollback := false, dstop := false, n := 3, p := 1, gang := 0, code := 0x1000,
    image := [], entry := 0, plantab := 0, cring := 0, clog := 4, irq := false, vec := 0, cons := 0, masks := [[0], [], []], data := [],
    tag := 7, arg := 9, ranges := [], lowest := 0, window := [], nfail := 0, failStatus := 0, killed := none, killer := none, lostWords := [],
    placedTop := 0 }

/-- A device context whose root table is the first frame of the channel of core 9. -/
def ctx0 : DevCtx :=
  { part := 0, root := 0x24000000, save := 0, prot := false, dbg := true, tvec := 0, twin := 0, fbword := 0, slot := none, measure := 0,
    paired := false, rollback := false }

/-- A partition of eight logical cores, of which number 0 is core 0. -/
def part0 : Partition :=
  { ctx := 1, size := 8, remap := [(0, { valid := true, state := 0, pcid := 0 })], lent := [], armed := none, stopped := false, saved := [],
    savedRes := [], slots := [], held := [], stopTick := 0 }

/-- A core that runs instance 1, its control strand at 0x1000 with a window of 32 rows. -/
def core0 : Core :=
  { Core.init with
    strands := [(0, { Strand.idle with live := true, pc := 0x1000, wl := 32, el := 1024 })]
    place := some { part := 0, ctx := 1, log := 0, inst := 1, rel := 0, twin := 0, mate := 0 } }

/-- Core 0 runs the one instance of the parcel. -/
def base : State :=
  { State.reset with
    now := 500, ready := true, hostUp := true, cores := [(0, core0)], ctxs := [(1, ctx0)], parts := [(0, part0)], tracts := [(1, tract0)],
    insts := [(1, newInst 1 tract0 0 0 0 0)], nextId := 2 }

/-- Scalars of core 0. -/
def withS (l : List (Nat × Word)) (s : State := base) : State := l.foldl (fun s x => s.putWord 0 (x.1 / 8) (x.1 % 8) x.2) s

/-- Rows of core 0, by lanes of a width. -/
def withV (w : Nat) (l : List (Nat × List Nat)) (s : State := base) : State := l.foldl (fun s x => s.blendRow 0 x.1 (~~~0) (rowOfLanes w x.2)) s

/-- What a state holds after a step, once results in flight have landed. -/
def after {α : Type} (o : Host.Outcome State Fault Refusal) (f : State → α) : Option α :=
  match o with
  | .next s => some (f (s.modCore 0 fun c => { c with cycle := c.cycle + 100 }.land))
  | _ => none

/-- A scalar of core 0 after an instruction. -/
def sOf (i : Instr) (s : State) (n : Nat) : Option Word := after (exec i s) fun t => rowWord (t.row 0 (n / 8)) (n % 8)

/-- Some lanes of a row of core 0 after an instruction. -/
def vOf (i : Instr) (s : State) (r w count : Nat) : Option (List Nat) := after (exec i s) fun t => lanes (t.row 0 r) w count

/-! ## One step: expected results by hand from the tables of the text -/

theorem test_add_wraps : sOf (.add h0 9 10 11) (withS [(10, 0xFFFFFFFFFFFFFFFF), (11, 2)]) 9 = some 1 := by decide +kernel
theorem test_addi_negative : sOf (.addi h0 9 10 0xFFFFFFA) (withS [(10, 5)]) 9 = some 0xFFFFFFFFFFFFFFFF := by decide +kernel
theorem test_sub_same : sOf (.sub h0 9 9 10) (withS [(9, 3), (10, 5)]) 9 = some 0xFFFFFFFFFFFFFFFE := by decide +kernel
theorem test_mulh : sOf (.mulh h0 9 10 11) (withS [(10, 0xFFFFFFFFFFFFFFFF), (11, 1)]) 9 = some 0xFFFFFFFFFFFFFFFF := by decide +kernel
theorem test_mulhu : sOf (.mulhu h0 9 10 11) (withS [(10, 0xFFFFFFFFFFFFFFFF), (11, 0xFFFFFFFFFFFFFFFF)]) 9 = some 0xFFFFFFFFFFFFFFFE := by
  decide +kernel
/-- R227. -/
theorem test_div_zero : sOf (.div h0 9 10 11) (withS [(10, 7), (11, 0)]) 9 = some 0xFFFFFFFFFFFFFFFF ∧
    sOf (.div h0 9 10 11) (withS [(10, 0x8000000000000000), (11, 0xFFFFFFFFFFFFFFFF)]) 9 = some 0x8000000000000000 := by decide +kernel
theorem test_div_truncates : sOf (.div h0 9 10 11) (withS [(10, 0xFFFFFFFFFFFFFFF9), (11, 2)]) 9 = some 0xFFFFFFFFFFFFFFFD := by decide +kernel
theorem test_rem : sOf (.rem h0 9 10 11) (withS [(10, 0xFFFFFFFFFFFFFFF9), (11, 2)]) 9 = some 0xFFFFFFFFFFFFFFFF ∧
    sOf (.rem h0 9 10 11) (withS [(10, 7), (11, 0)]) 9 = some 7 ∧
    sOf (.rem h0 9 10 11) (withS [(10, 0x8000000000000000), (11, 0xFFFFFFFFFFFFFFFF)]) 9 = some 0 := by decide +kernel
theorem test_divu_remu : sOf (.divu h0 9 10 11) (withS [(10, 0xFFFFFFFFFFFFFFFF), (11, 2)]) 9 = some 0x7FFFFFFFFFFFFFFF ∧
    sOf (.remu h0 9 10 11) (withS [(10, 0xFFFFFFFFFFFFFFFF), (11, 2)]) 9 = some 1 ∧ sOf (.remu h0 9 10 11) (withS [(10, 5)]) 9 = some 5 := by
  decide +kernel
theorem test_bitwise : sOf (.andn h0 9 10 11) (withS [(10, 0xFF), (11, 0x0F)]) 9 = some 0xF0 ∧
    sOf (.xor h0 9 10 11) (withS [(10, 0xFF), (11, 0x0F)]) 9 = some 0xF0 := by decide +kernel
theorem test_shifts : sOf (.shl h0 9 10 11) (withS [(10, 3), (11, 65)]) 9 = some 6 ∧
    sOf (.shr h0 9 10 11) (withS [(10, 0x8000000000000000), (11, 127)]) 9 = some 1 ∧
    sOf (.sra h0 9 10 11) (withS [(10, 0x8000000000000000), (11, 63)]) 9 = some 0xFFFFFFFFFFFFFFFF ∧
    sOf (.rot h0 9 10 11) (withS [(10, 0x8000000000000001), (11, 1)]) 9 = some 3 := by decide +kernel
theorem test_counts : sOf (.clz h0 9 10) base 9 = some 64 ∧ sOf (.ctz h0 9 10) base 9 = some 64 ∧
    sOf (.clz h0 9 10) (withS [(10, 1)]) 9 = some 63 ∧ sOf (.popc h0 9 10) (withS [(10, 0xF0F)]) 9 = some 8 := by decide +kernel
theorem test_min_signed : sOf (.min h0 9 10 11) (withS [(10, 0xFFFFFFFFFFFFFFFF), (11, 1)]) 9 = some 0xFFFFFFFFFFFFFFFF ∧
    sOf (.minu h0 9 10 11) (withS [(10, 0xFFFFFFFFFFFFFFFF), (11, 1)]) 9 = some 1 := by decide +kernel
/-- R231: the status in bits [49:48] is 2. -/
theorem test_bfx : sOf (.bfx h0 21 10 48 2) (withS [(10, 0x2000000000000)]) 21 = some 2 := by decide +kernel
theorem test_bfi : sOf (.bfi h0 9 10 4 8) (withS [(9, 0xFFFFFFFFFFFFFFFF), (10, 0x12)]) 9 = some 0xFFFFFFFFFFFFF12F := by decide +kernel
theorem test_sext : sOf (.sext h0 9 10 8) (withS [(10, 0x180)]) 9 = some 0xFFFFFFFFFFFFFF80 ∧
    sOf (.zext h0 9 10 8) (withS [(10, 0x180)]) 9 = some 0x80 := by decide +kernel
/-- R230: hi36 of the own-TCM aperture base is 0x01FFFF000, lo28 is 0. -/
theorem test_lih : sOf (.lih h0 10 0x01FFFF000) (withS [(10, 0xFFFFFFFFF0000000)]) 10 = some 0x01FFFF0000000000 ∧
    sOf (.li h0 10 0x8000000) base 10 = some 0xFFFFFFFFF8000000 := by decide +kernel
theorem test_agen : sOf (.agen h0 9 10 11 3 0x1FFFF) (withS [(10, 0x100), (11, 2)]) 9 = some 0x10F := by decide +kernel
theorem test_scmps : sOf (.scmps h0 9 10 11 2 0) (withS [(10, 0xFFFFFFFFFFFFFFFF), (11, 0)]) 9 = some 1 ∧
    sOf (.scmps h0 9 10 11 2 1) (withS [(10, 0xFFFFFFFFFFFFFFFF), (11, 0)]) 9 = some 0 := by decide +kernel
/-- R63, R174: SCMP writes a whole predicate; a word whose predicate bit 0 is 0 does not execute, and its selector acts. -/
theorem test_scmp_select : after (exec (.scmp { h0 with na := 1, nq := 1 } 1 10 11 0 0) (withS [(2, 0x2000), (4, 0)]))
    (fun t => ((t.pred 0 0 1).toNat, (t.strand 0 0).pc.toNat)) = some (0xFFFF, 0x2000) := by decide +kernel
theorem test_predicate_off : after (exec (.add { h0 with eq := 2 } 9 10 11) (withS [(9, 5), (10, 1)]))
    (fun t => (rowWord (t.row 0 1) 1, (t.strand 0 0).pc.toNat)) = some (5, 0x1008) := by decide +kernel
theorem test_sel : sOf (.sel h0 9 10 11 1) (withS [(4, 1), (10, 7), (11, 8)]) 9 = some 7 ∧
    sOf (.sel h0 9 10 11 1) (withS [(4, 2), (10, 7), (11, 8)]) 9 = some 8 := by decide +kernel

/-! Floating point: 1 + 2 = 3; 1 / 3 to nearest; a minimum with a NaN; −1 to an unsigned integer saturates. -/

theorem test_fadd : sOf (.fadd h0 9 10 11 0 0) (withS [(10, 0x3F800000), (11, 0x40000000)]) 9 = some 0x40400000 := by decide +kernel
theorem test_fdiv : sOf (.fdiv h0 9 10 11 0 0) (withS [(10, 0x3F800000), (11, 0x40400000)]) 9 = some 0x3EAAAAAB := by decide +kernel
theorem test_fsqrt64 : sOf (.fsqrt h0 9 10 4 0) (withS [(10, 0x4010000000000000)]) 9 = some 0x4000000000000000 := by decide +kernel
theorem test_fmin_nan : sOf (.fmin h0 9 10 11 0) (withS [(10, 0x7FC00000), (11, 0x3F800000)]) 9 = some 0x3F800000 ∧
    sOf (.fmin h0 9 10 11 0) (withS [(10, 0), (11, 0x80000000)]) 9 = some 0x80000000 := by decide +kernel
theorem test_ffma : sOf (.ffma h0 9 10 11 12 0 0) (withS [(10, 0x40000000), (11, 0x40400000), (12, 0xC0A00000)]) 9 = some 0x3F800000 := by
  decide +kernel
theorem test_fcvti : sOf (.fcvti h0 9 10 0 0 1) (withS [(10, 0xBF800000)]) 9 = some 0 ∧
    sOf (.fcvti h0 9 10 0 0 0) (withS [(10, 0xBF800000)]) 9 = some 0xFFFFFFFFFFFFFFFF ∧
    sOf (.fcvti h0 9 10 0 1 2) (withS [(10, 0x1000001)]) 9 = some 0x4B800000 := by decide +kernel
theorem test_fcvt : sOf (.fcvt h0 9 10 2 0 0) (withS [(10, 0x3F808000)]) 9 = some 0x3F80 ∧
    sOf (.fcvt h0 9 10 4 0 0) (withS [(10, 0x3F800000)]) 9 = some 0x3FF0000000000000 := by decide +kernel

/-! Vectors. -/

/-- R180: lane i + 3 of B. -/
theorem test_vfadd_rot : vOf (.vfadd h0 3 4 5 0 2 0x60D) (withV 32 [(4, [0x3F800000]), (5, [0, 0, 0, 0x40000000])]) 3 32 2 =
    some [0x40400000, 0] := by decide +kernel
theorem test_vadd_wraps : vOf (.vadd h0 3 4 5 2 0) (withV 8 [(4, [0xFF, 1]), (5, [2, 3])]) 3 8 3 = some [1, 4, 0] := by decide +kernel
theorem test_vadd_lanes : vOf (.vadd { h0 with eq := 1 } 3 4 5 0 0) (withS [(4, 2)] (withV 32 [(3, [9, 9, 9]), (4, [1, 1, 1]), (5, [1, 1, 1])])) 3 32 3 =
    some [9, 2, 9] := by decide +kernel
theorem test_vadds : vOf (.vadds h0 3 4 5 2 0 0) (withV 8 [(4, [0x7F, 0x80]), (5, [1, 0xFF])]) 3 8 2 = some [0x7F, 0x80] ∧
    vOf (.vsubs h0 3 4 5 2 1 0) (withV 8 [(4, [3, 9]), (5, [5, 2])]) 3 8 2 = some [0, 7] := by decide +kernel
theorem test_vmul64 : vOf (.vmul h0 3 4 5 4 0) (withV 64 [(4, [2 ^ 63 + 1]), (5, [3])]) 3 64 1 = some [2 ^ 63 + 3] := by decide +kernel
theorem test_vsra : vOf (.vsra h0 3 4 5 1 0) (withV 16 [(4, [0x8000]), (5, [17])]) 3 16 1 = some [0xC000] := by decide +kernel
theorem test_vabs : vOf (.vabs h0 3 4 2 0) (withV 8 [(4, [0xFF, 0x80])]) 3 8 2 = some [1, 0x80] := by decide +kernel
theorem test_vdot4 : vOf (.vdot4 h0 3 4 5 6 0) (withV 32 [(4, [0x010203FF]), (5, [0x01010102]), (6, [10])]) 3 32 1 = some [10 + 6 - 2] ∧
    vOf (.vdot4 h0 3 4 5 6 1) (withV 32 [(4, [0x010203FF]), (5, [0x01010102]), (6, [10])]) 3 32 1 = some [10 + 6 + 510] := by decide +kernel
theorem test_vcmp64 : after (exec (.vcmp h0 1 4 5 4 2 0 0) (withV 64 [(4, [0xFFFFFFFFFFFFFFFF, 5]), (5, [0, 4])])) (fun t => (t.pred 0 0 1).toNat) =
    some 3 := by decide +kernel
theorem test_vperm : vOf (.vperm h0 3 4 5 0 0) (withV 32 [(4, [10, 11, 12]), (5, [2, 18, 0])]) 3 32 3 = some [12, 12, 10] := by decide +kernel
theorem test_vcomp : vOf (.vcomp h0 3 4 1 0 0) (withS [(4, 0b101)] (withV 32 [(3, [7, 7, 7]), (4, [10, 11, 12])])) 3 32 3 = some [10, 12, 0] := by
  decide +kernel
theorem test_qand_q0 : after (exec (.qand h0 1 0 2) (withS [(4, 0xABCD0000)])) (fun t => (t.pred 0 0 1).toNat) = some 0xABCD ∧
    after (exec (.qnot h0 0 1) base) (fun t => ((t.pred 0 0 0).toNat, (t.strand 0 0).pc.toNat)) = some (0xFFFF, 0x1008) := by decide +kernel
theorem test_qfirst : sOf (.qfirst h0 9 1) base 9 = some 16 ∧ sOf (.qfirst h0 9 1) (withS [(4, 0x40)]) 9 = some 6 := by decide +kernel

/-- The worked example of quantising one block (after R263). -/
def block : State := withV 32 [(8, [0x447A0000, 0x40400000, 0xBB449BA6, 0x3F000000])] { base with cores := [(0, { core0 with table := e4m3Table })] }

theorem test_vfamax : sOf (.vfamax h0 40 8 0 0) block 40 = some 0x447A0000 := by decide +kernel
theorem test_scsel : sOf (.scsel h0 41 40 42 43 3) (withS [(40, 0x447A0000)] block) 41 = some 0x81 ∧
    sOf (.scsel h0 41 40 42 43 3) (withS [(40, 0x447A0000), (42, 1), (43, 1)] block) 41 = some 0x80 := by decide +kernel
theorem test_mxq : after (exec (.mxq h0 20 8 41 44 3 0) (withS [(41, 0x81)] block))
    (fun t => (rowWord (t.row 0 20) 0, rowWord (t.row 0 20) 3, (t.core 0).uf0)) = some (0x20803478, 0, 1) := by decide +kernel

/-! ## Witnesses: states and operands that meet the hypotheses of the statements -/

/-- Core 0 is not fused, its header row has no pending write and is not locked, the word passes its checks on the strand in focus, its predicate
lets it act, and a condition holds where its effect begins: the hypotheses of `Runs`, `RunsIf`, `GoesIf` and `TrapsIf`. -/
def met (s : State) (h : Hdr) (w : WordSpec) (ok : Nat → Nat → State → Bool) : Bool :=
  (s.core s.focus.pcid).gang.isNone && !(s.core s.focus.pcid).busy (s.strand s.focus.pcid s.focus.strand).wb &&
    !(s.core s.focus.pcid).locked (s.strand s.focus.pcid s.focus.strand).wb && s.check s.focus.pcid s.focus.strand h w == .go &&
    !w.off h s.focus.pcid s.focus.strand (s.begun w) && ok s.focus.pcid s.focus.strand (s.begun w)

theorem met_able {s : State} {h : Hdr} {w : WordSpec} {ok : Nat → Nat → State → Bool} (eff : Nat → Nat → State → State)
    (m : met s h w ok = true) :
    Clear h w s ∧ Alone h w s ∧ ok s.focus.pcid s.focus.strand (s.begun w) = true ∧ Able h w (fun p k x => ok p k x = true) eff s ∧
      ∀ t, s.trapHeld s.focus.strand t [s.focus.pcid] = false := by
  simp only [met, Bool.and_eq_true, Option.isNone_iff_eq_none, beq_iff_eq, Bool.not_eq_true'] at m
  obtain ⟨⟨⟨⟨⟨hg, hb⟩, hl⟩, hc⟩, ho⟩, hk⟩ := m
  have hm : s.members s.focus.pcid = [s.focus.pcid] := by simp only [State.members, hg]
  have hcl : Clear h w s := ⟨by simp [hm], by simp only [hm, State.checkAll, hc]⟩
  exact ⟨hcl, ⟨hg, hcl, ho⟩, hk, ⟨hcl, by rw [hm]; exact ⟨fun _ => hk, trivial⟩⟩, fun t => by simp [State.trapHeld, hb, hl]⟩

/-- No condition of the effect. -/
def clear (s : State) (h : Hdr) (w : WordSpec) : Bool := met s h w fun _ _ _ => true

theorem wit_scalarWords : ∀ w ∈ [specS [dS 9, aS 10, bS 11] 1, specS [dS 9, aS 10, bS 11] 3, specS [dS 9, aS 10] 1, specS [dS 9] 1,
    specS [dBoth 9] 1, specS [dBoth 9, aS 10] 1, { specS [dS 9, aS 10, bS 11] 1 with usesHeader := true }, specS [dS 9, aS 10, bS 11] 36,
    specHeader [aS 9, bS 10] (qWords 1), specS [dS 9, aS 10, bS 11, cS 12] 4, specS [dS 9, aS 10, bS 11] 28, specS [dS 255, aS 255, bS 8] 1],
    clear base h0 w = true := by decide +kernel
theorem wit_vectorWords : ∀ w ∈ [{ specV [dV 3, aV 4, bV 5] 2 with occ := 1 }, { specV [dV 3, aV 4] 2 with occ := 1 },
    { specV [dV 3, aV 4, bV 5, cV 6] 6 with occ := 2 }, { specV [dV 3, aV 4, bV 5] 2 with usesHeader := true },
    { specV [aV 4, bV 5] 1 with hw := qWords 1 }, specV [dV 3, aV 4, bS 9] 4, { specV [dS 9, aV 4] 12 with occ := 2 },
    { specV ([dS 9, aV 4] ++ [aVnext 4]) 4 with occ := 2 }, specV [dV 31, aV 31, bV 0] 3, specV [dV 3, aS 10] 2, specV [dS 9, aV 4, bS 10] 2,
    specV [dVboth 3, aS 9, bS 10] 2, { specV [] 1 with usesHeader := true }, { specV [dS 9] 1 with usesHeader := true },
    { specV [aS 9] 1 with hw := qWords 7 }, { specV [] 1 with usesHeader := true, hw := qWords 1 }, { specV [dV 3, aV 4] 3 with usesHeader := true },
    { specV [dV 3, aV 4, bV 5, cV 6] 4 with occ := 1 }, specV [dS 9, aS 10] 2, specV [dS 9] 1],
    clear base h0 w = true := by decide +kernel

/-- The NaN clauses: a NaN and a number of FP32, and zeros of both signs. -/
theorem wit_floatNaNRules : (fpVal fp32 0x7FC00000).isNan ∧ ¬(fpVal fp32 0x3F800000).isNan ∧ fpVal fp32 0 = .fin false 0 (-149) ∧
    fpMinMax fp32 true 0x80000000 0 = 0 ∧ fpMinMax fp32 false 0 0x80000000 = 0x80000000 := by decide +kernel
theorem wit_bitFields : ∃ f : Fields, f.op = 0x05F ∧ 64 < (f.imm28.extractLsb' 0 6).toNat + (f.imm28.extractLsb' 6 7).toNat :=
  ⟨Fields.ofWord 0x002F815050000431, by decide +kernel⟩
theorem wit_extWidth : ∃ f : Fields, f.op = 0x061 ∧ 64 < (f.imm28.extractLsb' 0 7).toNat := ⟨Fields.ofWord 0x0030800000000041, by decide +kernel⟩

/-- Encoding to the standard table is valid for T8 and not for T4 (R152); amax for a scale selection is 1,000; the largest entry of an
all-zero table is zero. -/
def blank : State := { base with cores := [(0, { core0 with table := List.replicate 256 0, v8 := true })] }

/-- A word that waits for a DTLD. -/
def tabled (w : WordSpec) : WordSpec := { w with pre := tableWait }

theorem wit_formats :
    (∀ w ∈ [specV [dV 3, aS 9] 2, specV [dV 3, aV 4, bS 9] 4], clear base h0 (tabled w)) ∧
    clear base h0 { specV [dS 9] 1 with pre := holdIf (fun p x => (x.core p).narrowing.any ((x.core p).cycle < ·)) noTrap } ∧
    (∀ w ∈ [tabled (narrowSpec 3 4 9 10 0), { narrowSpec 3 4 9 10 0 with pre := noTrap },
        tabled (specV [dV 3, aV 4, aVnext 4, bS 9, { cS 10 with src := decide ((0 : BitVec 3) = 5) }] 6)],
      met base h0 w (fun p _ x => (x.core p).tableFault 3 = none)) ∧
    met (withS [(10, 0x447A0000)]) h0 (tabled (specV [dS 9, aS 10, bS 11, cS 12] 2)) (fun p _ x => decide ((x.core p).tableFault 3 = none) &&
      !(largestEntry (x.core p).table false).isZero) ∧
    met (withS [(10, 0x447A0000)] blank) h0 (tabled (specV [dS 9, aS 10, bS 11, cS 12] 2)) (fun p k x => decide ((x.core p).tableFault 3 = none) &&
      (let amax := (fpVal fp32 (fieldNat (x.rS p k 1 10) 0 32)).abs
       (largestEntry (x.core p).table false).isZero && !amax.isZero && !amax.isNan && !amax.isInf)) ∧
    ∀ w ∈ [tabled (narrowSpec 3 4 9 10 0), tabled (specV [dS 9, aS 10, bS 11, cS 12] 2),
        tabled (specV [dV 3, aV 4, aVnext 4, bS 9, { cS 10 with src := decide ((0 : BitVec 3) = 5) }] 6)],
      met base h0 w (fun p _ x => ((x.core p).tableFault 5).isSome) := by decide +kernel

theorem wit_sequencing : ∀ w ∈ [specS [] 1, specHeader [] [2], specHeader [aS 9] [3], specHeader [] [1], specS [dS 9] 1,
    { specX [] 1 with usesHeader := true, hw := 6 :: qWords 1, pre := trapIfOpen }, { specX [aS 9] 1 with usesHeader := true, hw := [6], pre := trapIfOpen }],
    clear base h0 w = true := by decide +kernel
theorem wit_clk : met base h0 (specS [dS 9] 1) fun p _ x => x.paired p = false := by decide +kernel

/-- Core 0 with helper 1 live in rows 512 to 543. -/
def helped : State := base.modStrand 0 1 fun t => { t with live := true, pc := 0x2000, wb := 512, wl := 32, eb := 512, el := 32 }

/-- A word of fields: the fields and the bits where they begin. -/
def fields (l : List (Nat × Nat)) : Word := BitVec.ofNat 64 (l.foldl (fun a x => a + x.1 * 2 ^ x.2) 0)

/-- The descriptor of START (R208): window, envelope, offset 4. -/
def startDesc (wb wl eb el : Nat) : Word := fields [(wl, 0), (wb, 9), (el, 19), (eb, 30), (4, 40)]

/-- Core 0 with an envelope of 512 rows. -/
def half : State := base.modStrand 0 0 fun t => { t with el := 512 }

theorem wit_start :
    met (withS [(9, startDesc 512 256 512 512)] half) h0 { specX [aS 9] 1 with pre := controlOnly }
      (fun p k x => decide ((x.core p).startRefusal 2 (x.rS p k 1 9) = 0) && x.allDone p 2) ∧
    ∀ x ∈ [(1, startDesc 480 256 512 512), (2, startDesc 512 257 512 512), (2, startDesc 512 0 512 512), (3, startDesc 512 256 511 513),
        (6, startDesc 512 256 512 513), (6, startDesc 512 256 512 0)],
      met (withS [(9, x.2)] half) h0 { specX [aS 9] 1 with pre := controlOnly } fun p k y => decide ((y.core p).startRefusal 2 (y.rS p k 1 9) = x.1) := by
  decide +kernel
theorem wit_start_live : met (withS [(9, startDesc 512 256 512 512)] helped) h0 { specX [aS 9] 1 with pre := controlOnly }
    (fun p k x => decide ((x.core p).startRefusal 1 (x.rS p k 1 9) = 7)) := by decide +kernel

/-- The descriptor of WIN: base and limit. -/
theorem wit_win :
    let w : WordSpec := { specX [aS 9] 1 with pre := trapIfOpen }
    (∀ l ∈ [0, 256], met (withS [(9, fields [(512, 0), (l, 16)])]) h0 w (fun p k x =>
      decide (fieldNat (x.rS p k 1 9) 16 9 = l) && !(x.strand p k).outside (fieldNat (x.rS p k 1 9) 0 10) (if l = 0 then (x.strand p k).wl else l))) ∧
    met (withS [(9, fields [(0, 0), (257, 16)])]) h0 w (fun p k x => decide (256 < fieldNat (x.rS p k 1 9) 16 9)) ∧
    met (withS [(9, fields [(768, 0), (256, 16)])] half) h0 w (fun p k x =>
      decide (fieldNat (x.rS p k 1 9) 16 9 = 256) && (x.strand p k).outside (fieldNat (x.rS p k 1 9) 0 10) 256) := by decide +kernel

/-- The moves of WINS: by 16 rows; by −1 row from the first one; past the envelope; with a limit of 257. -/
theorem wit_wins :
    let w : WordSpec := { specX [] 1 with pre := trapIfOpen }
    met base h0 w (fun p k x => decide ((0 : Int) ≤ (x.strand p k).wb + (16 : BitVec 11).toInt) && !(x.strand p k).outside 16 256) ∧
    met base h0 w (fun p k x => decide ((x.strand p k).wb + (0x7FF : BitVec 11).toInt < (0 : Int))) ∧
    met half h0 w (fun p k x => decide ((0 : Int) ≤ (x.strand p k).wb + (0x1F0 : BitVec 11).toInt) && (x.strand p k).outside 0x1F0 32) ∧
    256 < (257 : BitVec 9).toNat ∧ (257 : BitVec 9) ≠ 0 := by decide +kernel
theorem wit_wswap :
    let w : WordSpec := { specX [aS 9] 2 with noHeader := true, pre := trapAtEnd }
    met (withS [(9, fields [(32, 0), (256, 16)])]) h0 w (fun p k x =>
      !(x.strand p k).outside 32 256 && !(x.core p).locked (x.strand p k).wb && !(x.core p).saturated (x.strand p k).wb && !(x.core p).busy 32) ∧
    (∀ l ∈ [0, 257], met (withS [(9, fields [(32, 0), (l, 16)])]) h0 w (fun p k x => decide (fieldNat (x.rS p k 1 9) 16 9 = l))) ∧
    met (withS [(9, fields [(500, 0), (32, 16)])] half) h0 w (fun p k x =>
      (x.strand p k).outside (fieldNat (x.rS p k 1 9) 0 10) (fieldNat (x.rS p k 1 9) 16 9)) := by decide +kernel
theorem wit_tdel :
    met (withS [(9, 0x0200000100000110)]) h0 { specX [dS 10, aS 9] 1 with usesHeader := true, hw := [7] } (fun p k x => decide (fieldNat (x.rS p k 1 9) 61 3 = 0)) ∧
    met (withS [(9, 0x2000000000000000)]) h0 { specX [dS 10, aS 9] 1 with usesHeader := true, hw := [7] } (fun p k x => decide (fieldNat (x.rS p k 1 9) 61 3 ≠ 0)) := by
  decide +kernel

/-- The descriptor of ENV: strand, envelope. -/
def envDesc (n eb el : Nat) : Word := fields [(eb, 32), (el, 48), (n, 60)]

theorem wit_env :
    met (withS [(9, envDesc 0 0 32)]) h0 { specX [aS 9] 1 with pre := controlOnly } (fun p k x =>
      let v := x.rS p k 1 9
      decide ((x.core p).envRefusal (fieldNat v 60 4) (fieldNat v 32 10) (fieldNat v 48 11) = 0)) ∧
    (∀ y ∈ [(6, envDesc 11 0 32), (6, envDesc 0 1023 2), (6, envDesc 0 0 0), (7, envDesc 1 512 32), (5, envDesc 0 1 1023)],
      met (withS [(9, y.2)]) h0 { specX [aS 9] 1 with pre := controlOnly } fun p k x =>
        let v := x.rS p k 1 9
        decide ((x.core p).envRefusal (fieldNat v 60 4) (fieldNat v 32 10) (fieldNat v 48 11) = y.1)) ∧
    met (withS [(9, envDesc 1 511 33)] (helped.modStrand 0 0 fun t => { t with el := 512 })) h0 { specX [aS 9] 1 with pre := controlOnly } (fun p k x =>
      let v := x.rS p k 1 9
      decide ((x.core p).envRefusal (fieldNat v 60 4) (fieldNat v 32 10) (fieldNat v 48 11) = 3)) ∧
    met (withS [(9, envDesc 0 0 32)] (base.modCore 0 fun c => { c with locks := [40] })) h0 { specX [aS 9] 1 with pre := controlOnly } (fun p k x =>
      let v := x.rS p k 1 9
      decide ((x.core p).envRefusal (fieldNat v 60 4) (fieldNat v 32 10) (fieldNat v 48 11) = 4)) := by decide +kernel

/-- In a handler (INH is bit 60 of header word 7), and in supervisor code. -/
theorem wit_tret :
    met (withS [(7, 2 ^ 60), (9, 0x1008)]) h0 { specX [aS 9] 2 with usesHeader := true, hw := [7], pre := trapIfNone } (fun p _ x => !(x.core p).sup.sv) ∧
    met (withS [(7, 2 ^ 60), (9, 0x1008)] (base.modCore 0 fun c => { c with sup := { c.sup with sv := true } })) h0
      { specX [aS 9] 2 with usesHeader := true, hw := [7], pre := trapIfNone } (fun p k x => decide (k = 0) && (x.core p).sup.sv) ∧
    (base.core base.focus.pcid).gang = none ∧ fieldNat (base.hword base.focus.pcid base.focus.strand 7) 60 1 = 0 := by decide +kernel

/-- The words whose first causes are decided before anything else: their header lets it. -/
theorem wit_headerClear : ∀ w ∈ [{ specX [aS 9] 2 with usesHeader := true, hw := [7], pre := trapIfNone },
    { specX [dS 9] 2 with pre := csrTrap 0x00B true false }, { specX [aS 9] 2 with pre := csrTrap 0x060 false true },
    { specX [dS 9, aS 10] 2 with pre := csrTrap 0x06A true true }, { specX [aS 9, bS 10] 2 with pre := levelTrap 1 },
    { specX [dV 5, aS 9] 4 with pre := levelTrap 2 }, specS [dS 255, aS 31, bS 31] 1], base.HeaderClear 0 0 h0 w := by decide +kernel

/-! Memory. -/

/-- Own TCM at an offset (R86). -/
def tcm (off : Nat) : Word := BitVec.ofNat 64 (0x1FFFF0000000000 + off)

/-- A load in flight, to row 3 where it has one. -/
def loadOp (id : Nat) (row : Option Nat) : MemOp :=
  { id := id, elem := 0, strand := 0, pc := 0x1000, kind := .load, ferd := false, va := tcm 0x1000, bytes := 8, sz := 0, ord := 0, scope := 4,
    aop := 0, data := 0, cmp := 0, row := row, bit := 0, width := 64, codes := [], sva := 0, scale := 0, whole := false, parked := false, fence := 0,
    joins := [], since := 0, sup := false, began := 0, straddle := false }

/-- Core 0 with a pending ring entry of a load. -/
def snagged (row : Option Nat) : State := base.modCore 0 fun c => { c with
  seq := 9, sup := { c.sup with snags := [{ idx := 2, len := 1, owner := .op (loadOp 4 row), cause := 9, addr := 0x4000, made := 100, stops := 0 }] } }

theorem wit_snags :
    met (withS [(9, 2)] (snagged none)) h0 { specX [aS 9, { bV 5 with src := false }] 1 with pre := controlOnly }
      (fun p k x => ((x.core p).snagAt (fieldNat (x.rS p k 1 9) 0 8)).isSome) ∧
    met (withS [(9, 2)] (snagged (some 3))) h0 { specX [aS 9, { bV 5 with src := false }] 1 with pre := controlOnly }
      (fun p k x => ((x.core p).snagAt (fieldNat (x.rS p k 1 9) 0 8)).isSome && !(x.core p).busy (x.opRow p k (bV 5)) && !(x.core p).locked 3) ∧
    met (withS [(9, 2)] (snagged (some 3))) h0 { specX [aS 9, bS 10] 1 with pre := controlOnly }
      (fun p k x => ((x.core p).snagAt (fieldNat (x.rS p k 1 9) 0 8)).isSome) ∧
    met base h0 { specX [aS 9, { bV 5 with src := false }] 1 with pre := controlOnly }
      (fun p k x => ((x.core p).snagAt (fieldNat (x.rS p k 1 9) 0 8)).isNone) ∧
    met base h0 { specX [aS 9, bS 10] 1 with pre := controlOnly } (fun p k x => ((x.core p).snagAt (fieldNat (x.rS p k 1 9) 0 8)).isNone) := by
  decide +kernel

/-! Waits: one that ends at once, one that is a poll, one that waits. -/

/-- The hypotheses of a part of `WaitsFor`: 0 ends at once, 1 a poll, 2 waits. -/
def waits (part : Nat) (s : State) (w : WordSpec) (f : WaitForm) : Bool :=
  met s h0 w fun p k x =>
    let st := (f.first p k x).waitStatus p k (f.wait h0 p k x)
    !(f.first p k x).paired p && (if part = 0 then st.isSome else st.isNone && (decide (part = 1) == decide ((f.wait h0 p k x).deadline = 0)))

/-- Nothing comes first; the deadline is S[10]; the status goes to S[9] where `st` is set. -/
def form (st : Bool) (kind : Nat → Nat → State → WaitKind) : WaitForm :=
  ⟨fun _ _ x => x, kind, fun p k x => x.rS p k 2 10, 0, fun p k x => if st then some (x.destOf p k 0 9) else none⟩

theorem wit_join :
    let f := form false fun p k x => .join (fieldNat (x.rS p k 0 9) 0 11)
    let w := specWait [dSrc 9, bS 10]
    waits 0 (withS [(9, 2)]) w f ∧ waits 1 (withS [(9, 2)] helped) w f ∧ waits 2 (withS [(9, 2), (10, 1000)] helped) w f := by decide +kernel
theorem wit_sleep :
    let f := form true fun p k x => .sleep (fieldNat (x.rS p k 1 11) 0 (if k = 0 then 4 else 2)) 0
    let w := specWait [dS 9, aS 11, bS 10]
    waits 1 base w f ∧ waits 2 (withS [(10, 1000), (11, 3)]) w f := by decide +kernel

/-- Core 0 with a result in flight to row 20. -/
def busy20 : State := base.modCore 0 fun c => { c with seq := 4, late := [{ id := 3, due := 9, row := 20, mask := ~~~0, value := 0 }] }

theorem wit_wdrain :
    let f := form false fun p k x => .wdrain (fieldNat (x.rS p k 0 9) 0 10) (fieldNat (x.rS p k 0 9) 16 11)
    let w := specWait [dSrc 9, bS 10]
    waits 0 (withS [(9, 0)] busy20) w f ∧ waits 1 (withS [(9, fields [(20, 0), (1, 16)])] busy20) w f ∧
      waits 2 (withS [(9, fields [(20, 0), (1004, 16)]), (10, 1000)] busy20) w f := by decide +kernel

/-- Core 0 with a store in flight. -/
def storing : State := base.modCore 0 fun c => { c with seq := 4, ops := [{ loadOp 3 none with kind := .store }] }

theorem wit_fence :
    let f : WaitForm := { form true (fun p _ x => .fence 1 4 (x.curId p) none) with first := fun p k x => x.modCore p fun c => c.markFence k (x.curId p) }
    let w := specWait [dS 9, bS 10]
    waits 0 base w f ∧ waits 1 storing w f ∧ waits 2 (withS [(10, 1000)] storing) w f := by decide +kernel

/-- The instance with a group 1 of cores 0 and 1 of a parcel of two, of which core 0 has arrived. -/
def arrived : State :=
  { base with insts := [(1, { newInst 1 { tract0 with p := 2, masks := [[0, 1], [], []] } 0 0 0 0 with
      g1 := { members := [0, 1], arr := [0], arrBy := [(0, 0)], done := [], phase := 0, bound := true, release := [], gone := none, config := none } })] }

theorem wit_bwait :
    let f : WaitForm := { form true (fun p _ x => if x.bwaitCase p 1 = 2 then .bwait 1 none none else .bwait 1 none (some 0)) with
      first := fun p _ x => if x.bwaitCase p 1 = 1 then x.consumeDone p 1 else x }
    let w : WordSpec := { specWait [dS 9, bS 10] with pre := groupZero 1 }
    waits 0 base w f ∧ waits 1 arrived w f ∧ waits 2 (withS [(10, 1000)] arrived) w f := by decide +kernel

/-- A message. -/
def message (src dst : Nat) : Message :=
  { id := 1, src := src, strand := 0, srcLog := 0, part := 0, dst := dst, tag := 5, payload := 7, ord := 1, inst := none }

theorem wit_recv :
    let f := form false fun p k x => .recv ((x.strand p k).wb + x.vName p k 0 5) (x.destOf p k 1 9)
    let w := specWait [dV 5, { aS 9 with src := false, dst := true }, bS 10]
    waits 0 (base.modCore 0 fun c => { c with queue := [message 0 0] }) w f ∧ waits 1 base w f ∧ waits 2 (withS [(10, 1000)]) w f := by
  decide +kernel

/-- Core 0 with a chain of the copy engine in slot 0, generation 1: handle 0x100 (R394); two commands appended, one completed. -/
def chain0 : Chain := { Chain.free with bound := true, gen := 1, eng := 0, logn := 2, ring := tcm 0x1080, cword := tcm 0x1100, appended := 2,
                                        completed := 1, cmds := [] }

/-- Core 0 with a chain. -/
def chained : State := base.modCore 0 fun c => { c with chains := [(0, chain0)] }

theorem wit_waitseq :
    let f := form false fun p k x => match (x.core p).chainOf (x.rS p k 0 9) with
      | some (slot, c) => .waitseq slot c.gen c.eng (x.rS p k 1 11).toNat
      | none => .waitseq 0 (2 ^ 24) 0 (x.rS p k 1 11).toNat
    let w := specWait [dSrc 9, aS 11, bS 10]
    waits 0 (withS [(9, 0x100), (11, 1)] chained) w f ∧ waits 0 base w f ∧ waits 1 (withS [(9, 0x100), (11, 2)] chained) w f ∧
      waits 2 (withS [(9, 0x100), (10, 1000), (11, 2)] chained) w f := by decide +kernel
theorem wit_sstep :
    let arrive (p k : Nat) (x : State) : State :=
      if (x.core p).exch.state = .compute then
        (x.modCore p fun c => { c with exch := { c.exch with
          plan := c.exch.sel, carried := none, pc := (c.strand k).pc, state := .arrived, mark := c.seq, sup := (x.who p k).sup } }).arriveEntry p
      else x
    let f : WaitForm := ⟨arrive, fun p k x => .sstep ((arrive p k x).sstepCount p), fun p k x => (arrive p k x).rS p k 2 10, 0, fun _ _ _ => none⟩
    let w : WordSpec := { specWait [bS 10] with pre := sstepTrap }
    waits 1 base w f ∧ waits 2 (withS [(10, 1000)]) w f ∧ (base.core 0).exch.planTrap = none ∧ base.sstepHeld 0 = false ∧ (base.carryTrap 0 0 0) = none := by
  decide +kernel

/-! Memory words. -/

/-- The hypotheses of the two parts of `Issues`. -/
def issues (s : State) (w : WordSpec) (n : Nat) (l : Nat → Nat → State → List MemOp) : Bool :=
  met s h0 w fun p k x => decide ((∀ o ∈ l p k x, o.va.toNat % n = 0) ∧ x.MayIssue p k (l p k x))

/-- The first operation that is not aligned traps. -/
def misaligned (s : State) (w : WordSpec) (n : Nat) (l : Nat → Nat → State → List MemOp) : Bool :=
  met s h0 w fun p k x => ((l p k x).find? fun o => o.va.toNat % n ≠ 0).isSome

/-- One operation of a kind at S[10] plus 8. -/
def one (kind : AccKind) (sz : Nat) (p k : Nat) (x : State) : List MemOp :=
  [{ x.newOp p k kind (x.rS p k 1 10 + 8) sz with scope := 4, data := x.rS p k 0 9 }]

theorem wit_loads_and_stores :
    (∀ kd ∈ [AccKind.load, .store, .stf, .feclr, .atomic, .reduction], issues (withS [(10, tcm 0x1000)]) (specM [dSrc 9, aS 10] true) 8 (one kd 0) ∧
      issues (withS [(10, tcm 0x1001)]) (specM [dSrc 9, aS 10] true) 1 (one kd 3) ∧
      misaligned (withS [(10, tcm 0x1001)]) (specM [dSrc 9, aS 10] true) 8 (one kd 0)) ∧
    issues (withS [(10, tcm 0x1000)]) (specM [dS 9, aS 10] true) 8 (one .load 0) ∧
    issues (withS [(10, tcm 0x1000)]) (specM [dS 9, aS 10, bS 11] true) 8 (one .atomic 0) ∧
    issues (withS [(10, tcm 0x1000)]) (specM [dS 9, aS 10, bS 11, cS 12] true) 8 (one .atomic 0) ∧
    issues (withS [(10, tcm 0x1000)]) (specM [aS 10] true) 8 (one .feclr 0) := by decide +kernel

/-- The eight words of a row at S[10]. -/
def words8 (kind : AccKind) (p k : Nat) (x : State) : List MemOp :=
  (List.range 8).map fun j => { x.newOp p k kind (x.rS p k 1 10 + BitVec.ofNat 64 (8 * j)) 0 with elem := j }

theorem wit_rows :
    issues (withS [(10, tcm 0x1000)]) (specM [dV 3, aS 10] false) 8 (words8 .load) ∧
    issues (withS [(10, tcm 0x1000)]) (specM [dVsrc 3, aS 10] false) 8 (words8 .store) ∧
    (∀ w ∈ [specM [dV 3, aS 10] false, specM [dVsrc 3, aS 10] false], met (withS [(10, tcm 0x1004)]) h0 w (fun p k x =>
      decide (0 < (words8 .load p k x).length ∧ (x.rS p k 1 10).toNat % 8 ≠ 0))) ∧
    misaligned (withS [(10, tcm 0x1004)] (withV 64 [(4, [0, 8, 16])])) (specM [dVsrc 3, aS 10, bV 4] false) 8 (words8 .store) ∧
    met (withS [(10, tcm 0x1004)]) h0 (specM [dS 9, aS 10] true) (fun p k x => decide ((x.rS p k 1 10).toNat % 512 ≠ 0)) ∧
    issues (withS [(10, tcm 0x1000)] (withV 64 [(4, [0, 8, 16])])) (specM [dV 3, aS 10, bV 4] false) 8 (words8 .load) ∧
    met (withS [(10, tcm 0x1000)] (withV 64 [(4, [0, 8, 0])])) h0 (specM [dVsrc 3, aS 10, bV 4] false) (fun p k x =>
      decide ((∀ o ∈ words8 .store p k x, o.va.toNat % 8 = 0) ∧ x.MayIssue p k (x.unshadowed p (words8 .store p k x)))) ∧
    met (withS [(10, tcm 0x1000)]) h0 (specM [dS 9, aS 10] true) (fun p k x => decide ((x.rS p k 1 10).toNat % 512 = 0 ∧
      x.MayIssue p k ((List.range 64).map fun j => { x.newOp p k .load (x.rS p k 1 10 + BitVec.ofNat 64 (8 * j)) 0 with elem := j, ferd := true }))) ∧
    met (withS [(10, tcm 0x1000), (11, 1000)]) h0 (specM [dS 9, aS 10, bS 11] true) (fun p k x =>
      let o := { x.newOp p k .lds (x.rS p k 1 10) 0 with ord := 1 }
      decide (o.va.toNat % 8 = 0 ∧ x.MayIssue p k [o])) := by decide +kernel
theorem wit_mxqMem :
    let w : WordSpec := { specV [dSrc 9, dSnext 9, aV 4, aVnext 4, bS 11, { cS 12 with src := false }] 6 with pre := tableWait }
    met (withS [(9, tcm 0x1000), (10, tcm 0x1040)]) h0 w (fun p k x => decide ((x.rS p k 0 9).toNat % 32 = 0 ∧ (x.core p).tableFault 3 = none ∧
      x.MayIssue p k [{ x.newOp p k .mxq (x.rS p k 0 9) 0 with bytes := 32, sva := x.rSnext p k 9 }])) ∧
    met (withS [(9, tcm 0x1010)]) h0 w (fun p k x => decide ((x.rS p k 0 9).toNat % 32 ≠ 0)) ∧
    met (withS [(9, tcm 0x1010)]) h0 w (fun p k x => decide ((x.rS p k 0 9).toNat % 16 = 0) && ((x.core p).tableFault 5).isSome) := by decide +kernel

/-- An address leads to a location of which a condition holds. -/
def leads (r : Reach) (f : Nat → Bool → Bool → Bool) : Bool := match r with
  | .loc l rs host => f l rs host
  | _ => false

/-- An access of an engine is made, and a condition holds of what it gives. -/
def gets {α : Type} (r : Eng α) (f : α → Bool) : Bool := match r with
  | .ok x => f x
  | _ => false

/-- DTLD's source lies in own TCM outside the supervisor area, and outside own TCM. -/
theorem wit_dtld :
    (∀ off ∈ [0, 0x1DC00], met (withS [(9, tcm off)]) h0 { specV [aS 9] 1 with pre := tableWait } (fun p k x =>
      let o := (x.rS p k 1 9).toNat - aperture
      decide (aperture ≤ (x.rS p k 1 9).toNat) && decide (o + 1024 ≤ 2 ^ 17) && decide (o % 4 = 0) && !(x.core p).inSupArea o 1024 &&
        decide (x.MayIssue p k ((List.range 128).map fun j =>
          { x.newOp p k .table (x.rS p k 1 9 + BitVec.ofNat 64 (8 * j)) 0 with elem := j })))) ∧
    (∀ off ∈ [2, 0x1DC04, 0x1FC04], met (withS [(9, tcm off)]) h0 { specV [aS 9] 1 with pre := tableWait } (fun p k x =>
      let o := (x.rS p k 1 9).toNat - aperture
      decide (2 ^ 17 < o + 1024) || decide (o % 4 ≠ 0) || ((x.core p).inSupArea o 1024 && !(x.who p k).sup && !(x.who p k).firmware))) ∧
    met (withS [(9, 0x1000)]) h0 { specV [aS 9] 1 with pre := tableWait } (fun p k x => decide ((x.rS p k 1 9).toNat < aperture)) := by decide +kernel

/-- A load of DTLD in flight, with `n` words of the image there. -/
def tableOp : MemOp := { loadOp 3 none with kind := .table, elem := 127 }

/-- Core 0 with it. -/
def tabling (n : Nat) : State := base.modCore 0 fun c => { c with
  seq := 4, cycle := 20, ops := [tableOp], loading := some { due := 16, words := (List.range n).map fun i => (i, 0) } }

theorem wit_tableLoad : ∀ n ∈ [5, 127],
    let s := tabling n
    tableOp.kind = .table ∧ tableOp.row = none ∧ (s.core 0).opAt 3 127 = some tableOp ∧ s.opReady 0 tableOp ∧ !s.paired 0 ∧
      (leads (s.access 0 tableOp) fun l _ host => s.mayPerform 0 tableOp l host && !host) ∧ tableOp.whole = false ∧
      (s.core 0).loading.any fun t => decide ((put 127 (BitVec.ofNat 64 (s.seen 0 tableOp (tcmBase 0 + 0x1000))) t.words).length < 128) == decide (n = 5) := by
  decide +kernel

/-! Barriers, messages, chains. -/

theorem wit_barriers :
    met base h0 { specX [dS 9] 1 with pre := holdIf (fun p x => x.groupTurned p 1 true) (groupZero 1) } (fun p _ x => !x.paired p) ∧
    met base h0 { specX [dS 9] 1 with pre := holdIf (fun p x => x.groupTurned p 1 false) noTrap } (fun p _ x => !x.paired p) ∧
    met base h0 (specX [dS 9] 2) (fun p _ x => !x.paired p) ∧
    met base h0 (specX [aV 4, bS 9] 1) (fun p k x => !x.paired p && (x.core p).snagOps.isEmpty && decide ((x.ostcnt p k).1 < 65535)) ∧
    clear base h0 { specX [aS 9] 1 with pre := helperTrap } := by decide +kernel
theorem wit_bcfg :
    let w : WordSpec := { specX [dS 10, bS 9] 1 with pre := holdIf (fun p x => x.configTurned p 1) (groupZero 1) }
    met (withS [(9, tcm 0x1000)]) h0 w (fun p k x =>
      let o := (x.rS p k 2 9).toNat - aperture
      !x.paired p && decide (aperture ≤ (x.rS p k 2 9).toNat) && decide (o % 8 = 0) && decide (o + 8 ≤ 2 ^ 17) && !(x.core p).inSupArea o 8 &&
        !x.poisoned (tcmBase p + o) 8 && !x.readHeld p k (x.rS p k 2 9) 8) ∧
    met (withS [(9, tcm 0x1004)]) h0 w (fun p k x => decide (((x.rS p k 2 9).toNat - aperture) % 8 ≠ 0)) ∧
    met (withS [(9, 0x1000)]) h0 w (fun p k x => decide ((x.rS p k 2 9).toNat < aperture)) := by decide +kernel

/-- Core 0 with a chain descriptor at TCM 0x1040 (R303): copy engine, 2^2 entries, ring at 0x1080, completion word at 0x1100. -/
def described : State := base.store (tcmBase 0 + 0x1040) (natBytes 8 0x20 ++ natBytes 8 (tcm 0x1080).toNat ++ natBytes 8 (tcm 0x1100).toNat)

/-- All binding slots are taken. -/
def fullChains : State := described.modCore 0 fun c => { c with chains := (List.range 16).map fun i => (i, chain0) }

/-- A descriptor whose LOGN is 0, and one whose completion word is in the plumb column. -/
def described2 (w0 cword : Nat) : State :=
  base.store (tcmBase 0 + 0x1040) (natBytes 8 w0 ++ natBytes 8 (tcm 0x1080).toNat ++ natBytes 8 cword)

/-- CHAIN's descriptor can be read now. -/
def calmAt (x : State) (p k : Nat) (v : Word) : Bool :=
  !(x.core p).unsettled k && !x.descriptorHeld p k v (tcmBase 0 + 0x1040) && decide (x.ownDescriptor p (x.who p k).sup v = some (tcmBase 0 + 0x1040))

theorem wit_chain :
    let w : WordSpec := { specX [dS 10, aS 9] 2 with pre := chainTrap 9 }
    let l := tcmBase 0 + 0x1040
    let form (x : State) : Bool := descriptorOk (x.loadWord l) (x.loadWord (l + 8)) (x.loadWord (l + 16)) (x.loadWord (l + 24))
    let ring (x : State) : Bool := decide (x.bindableAll 0 false 32 (ringEntries (x.loadWord (l + 8)) 2) = some true)
    met (withS [(9, tcm 0x1048)] described) h0 w (fun p k x => (x.ownDescriptor p (x.who p k).sup (x.rS p k 1 9)).isNone) ∧
    met (withS [(9, tcm 0x1040)] (described2 0 (tcm 0x1100).toNat)) h0 w (fun p k x => calmAt x p k (x.rS p k 1 9) && !form x &&
      x.canPay p (x.charge p 4)) ∧
    met (withS [(9, tcm 0x1040)] (described2 0x20 0x4000)) h0 w (fun p k x => calmAt x p k (x.rS p k 1 9) && form x && ring x &&
      decide (x.bindable p false (x.loadWord (l + 16)) 8 = some false) && x.canPay p (x.charge p 4)) ∧
    (∀ s ∈ [described, fullChains], met (withS [(9, tcm 0x1040)] s) h0 w (fun p k x => calmAt x p k (x.rS p k 1 9) && form x && ring x &&
      decide (x.bindable p false (x.loadWord (l + 16)) 8 = some true) && x.canPay p (x.chainCharge p false (x.loadWord (l + 16))))) ∧
    (described.core 0).freeSlot = some 0 ∧ (fullChains.core 0).freeSlot = none := by decide +kernel
theorem wit_unbind :
    met (withS [(9, 0x200)] chained) h0 (specX [dS 10, aS 9] 2) (fun p k x => ((x.core p).chainOf (x.rS p k 1 9)).isNone) ∧
    met (withS [(9, 0x100)] chained) h0 (specX [dS 10, aS 9] 2) (fun p k x =>
      ((x.core p).chainOf (x.rS p k 1 9)).any fun y => y.2.cmds.isEmpty) ∧
    met base h0 (specX [dS 10, aS 9] 2) (fun p _ x => !x.paired p) := by decide +kernel

/-- Row 6 with the command words of the copy example (R305). -/
def commanded : State := withS [(9, 0x100)] (withV 64 [(6, [0x4001000000001000, 0, 0x20000000000000, 0x60010000001000])] chained)

/-- Row 6 with a matrix command that takes its weights from a row that the window does not have. -/
def commandedRows (op : Nat) : State := withS [(9, 0x110)] (withV 64 [(6, [op, 0, 6 * 2 ^ 53 + 40, 0])]
  (base.modCore 0 fun c => { c with chains := [(0, { chain0 with eng := 1 })] }))

/-- The opcode and the fields of the command in row 6. -/
def inRow6 (p k : Nat) (x : State) : Nat × Ecw := ecwOfRow (x.rV p k 1 6) 0

theorem wit_append :
    let w : WordSpec := { specX [dSrc 9, aV 6, bS 16] 2 with pre := appendTrap 9 6 0 }
    met commanded h0 w (fun p k x =>
      let eop := (inRow6 p k x).1
      let e := (inRow6 p k x).2
      (match (x.core p).chainOf (x.rS p k 0 9) with
        | some (_, c) => decide (eopEngine eop = some c.eng) && decide (c.appended - c.completed < 2 ^ c.logn) &&
            decide (x.MayIssue p k (x.appendOps p k (c.ring + BitVec.ofNat 64 (32 * (c.appended % 2 ^ c.logn))) e eop))
        | none => false) && (x.rowsTrap p k eop e.opd).isNone && !namesRows eop e.opd && !x.appendHeld p k eop && (x.staleTrap p eop e.hc).isNone &&
        !usesTable eop && (x.core p).snagOps.isEmpty && decide (((x.core p).openCmds k).length < 65535)) ∧
    met (commandedRows 0x0100000000000000) h0 w (fun p k x =>
      ((x.core p).chainOf (x.rS p k 0 9)).any (fun y => decide (eopEngine (inRow6 p k x).1 = some y.2.eng)) &&
        (x.rowsTrap p k (inRow6 p k x).1 (inRow6 p k x).2.opd).isSome) ∧
    (∀ s ∈ [withV 64 [(6, [0x4001000000001000, 0, 0, 0])] base, commandedRows 0x4001000000001000],
      (s.core 0).gang = none ∧ s.HeaderClear 0 0 h0 w ∧ s.opInWindow 0 0 (dSrc 9) ∧ s.opHeld 0 0 false (dSrc 9) = false ∧
        (((s.core 0).chainOf (s.rS 0 0 0 9)).isNone ∨ ((s.core 0).chainOf (s.rS 0 0 0 9)).any (fun y => decide (eopEngine (inRow6 0 0 s).1 ≠ some y.2.eng)) ∧
          s.opInWindow 0 0 (aV 6) ∧ s.opHeld 0 0 false (aV 6) = false)) := by decide +kernel

/-- The fields of a command: byte count, source and destination. -/
def ecw (hc opd dst : Nat) : Ecw :=
  { ofl := 0, irq := 0, sf := 0, sca := 0, p0 := 0, hc := BitVec.ofNat 32 hc, link := 0, scb := 0, opd := BitVec.ofNat 56 opd, p1 := 0,
    dst := BitVec.ofNat 56 dst }

/-- A residency of plane unit 0 that core 0's context allocated. -/
def res0 : Residency :=
  { gen := 2, mask := 1, part := 0, ctx := 1, inst := 1, fmtc := 0, planes := 1, sparse := false, pinned := false, state := .valid,
    wfmt := some 1, src := 0, scl := 0, ranges := [], table := [], data := [], scales := [], bad := [], fills := [] }

/-- The handle of that residency (R319). -/
def resHandle : Word := 2 * 2 ^ 28 + 1

/-- APPEND of a matrix command for a residency that is empty; APPEND whose handle lies past the window, of a reserved opcode and of a collective command. -/
theorem wit_append_traps :
    let w (d : BitVec 8) : WordSpec := { specX [dSrc d, aV 6, bS 16] 2 with pre := appendTrap d 6 0 }
    let s0 := { commandedRows 0x0100000000000000 with clusters := [(0, { Cluster.init with residencies := [{ res0 with state := .empty }], unitGen := [(0, 2)] })] }
    let s1 := withV 256 [(6, [((ecw resHandle.toNat 0 0).bits 1).toNat])] s0
    met s1 h0 (w 9) (fun p k x => ((x.core p).chainOf (x.rS p k 0 9)).any (fun y => decide (eopEngine (inRow6 p k x).1 = some y.2.eng)) &&
      (x.rowsTrap p k (inRow6 p k x).1 (inRow6 p k x).2.opd).isNone && !namesRows (inRow6 p k x).1 (inRow6 p k x).2.opd &&
        !x.appendHeld p k (inRow6 p k x).1 && (x.staleTrap p (inRow6 p k x).1 (inRow6 p k x).2.hc).isSome) ∧
    ∀ op ∈ [0x0100000000000000 * 0x7F, 0x0100000000000000 * 0x60],
      let s : State := { commandedRows op with part := 4860 }
      s.HeaderClear 0 0 h0 { w 255 with ops := [dSrc 255, aV 6, bS 16] } ∧ (base.strand 0 0).wl = 32 ∧
        (s.modStrand 0 0 fun t => { t with wl := 8 }).opInWindow 0 0 (dSrc 255) = false ∧
        (s.modStrand 0 0 fun t => { t with wl := 8 }).opInWindow 0 0 (aV 6) ∧ s.opHeld 0 0 false (aV 6) = false ∧
        (eopEngine (inRow6 0 0 s).1 = none ∨ (eopEngine (inRow6 0 0 s).1 = some 2 ∧ !s.coll)) := by decide +kernel

/-! Palette, residencies, long accumulators. -/

/-- A tile of two slots that core 0 claimed: 8 rows of 4-byte elements, 16 columns. -/
def tile0 : Tile := { first := 3, count := 2, owner := 0, ctx := 1, log := 0, shaped := true, fmt := 0, tileRows := 8, cols := 16, saved := none }

/-- Cluster 0 with it. -/
def tiled : State := base.modCluster 0 fun c => { c with tiles := [tile0] }

/-- Its handle (R314). -/
def tileHandle : Word := 2 * 64 + 3

theorem wit_tile : tiled.tileOf 0 tileHandle = some tile0 ∧ tiled.tileOf 0 0 = none ∧ clear base h0 (specX [dS 9] 2) := by decide +kernel
theorem wit_rels : met (withS [(9, tileHandle)] tiled) h0 (specX [aS 9] 1) (fun p k x => (x.tileOf p (x.rS p k 1 9)).any fun t =>
    !(x.core p).tileBusy t) ∧ met base h0 (specX [aS 9] 1) (fun p k x => (x.tileOf p (x.rS p k 1 9)).isNone) := by decide +kernel

/-- A condition of an opened tile. -/
def opened (x : State) (p : Nat) (v : Word) (ok : State → Tile → Bool) : Bool := (x.openTile p v).any fun y => ok y.1 y.2

theorem wit_tshape : met (withS [(9, tileHandle), (10, fields [(8, 0), (16, 16)])] tiled) h0 (specX [aS 9, bS 10] 1) (fun p k x =>
    opened x p (x.rS p k 1 9) fun _ t => decide (fieldNat (x.rS p k 2 10) 36 28 = 0) && decide (fieldNat (x.rS p k 2 10) 32 4 ≤ 6) &&
      decide (fieldNat (x.rS p k 2 10) 16 16 ≠ 0) && decide (fieldNat (x.rS p k 2 10) 0 16 ≠ 0) &&
      decide (fieldNat (x.rS p k 2 10) 0 16 * pitchOf (fieldNat (x.rS p k 2 10) 32 4) (fieldNat (x.rS p k 2 10) 16 16) ≤ 4096 * t.count)) := by
  decide +kernel
theorem wit_slices :
    met (withS [(9, tileHandle), (10, 7)] tiled) h0 (specX [dV 5, aS 9, bS 10] 3) (fun p k x => opened x p (x.rS p k 1 9) fun y t =>
      t.shaped && decide (fieldNat (y.rS p k 2 10) 0 16 < t.tileRows) && decide (64 * fieldNat (y.rS p k 2 10) 16 16 < t.pitch) && y.poison.isEmpty &&
        y.canPay p (y.charge p 14)) ∧
    met (withS [(9, tileHandle), (10, 7)] tiled) h0 (specX [aS 9, bV 5, cS 10] 1) (fun p k x => opened x p (x.rS p k 1 9) fun y t =>
      t.shaped && decide (fieldNat (y.rS p k 3 10) 0 16 < t.tileRows) && decide (64 * fieldNat (y.rS p k 3 10) 16 16 < t.pitch)) ∧
    met (withS [(9, tileHandle), (10, fields [(4, 0), (15, 16)])] tiled) h0 (specX [dV 5, aS 9, bS 10] 4) (fun p k x =>
      opened x p (x.rS p k 1 9) fun y t => t.shaped && decide (fieldNat (y.rS p k 2 10) 16 16 < t.cols) && y.poison.isEmpty) ∧
    met (withS [(9, tileHandle), (10, fields [(4, 0), (15, 16)])] tiled) h0 (specX [aS 9, bV 5, cS 10] 1) (fun p k x =>
      opened x p (x.rS p k 1 9) fun y t => t.shaped && decide (fieldNat (y.rS p k 3 10) 16 16 < t.cols)) := by decide +kernel
theorem wit_tile_traps : ∀ w ∈ [specX [aS 9] 1, specX [aS 9, bS 10] 1, specX [dV 5, aS 9, bS 10] 3, specX [aS 9, bV 5, cS 10] 1,
    specX [dV 5, aS 9, bS 10] 4], met base h0 w (fun p k x => (x.tileOf p (x.rS p k 1 9)).isNone) := by decide +kernel

/-- Cluster 0 with it. -/
def resident : State := base.modCluster 0 fun c => { c with residencies := [res0], unitGen := [(0, 2)] }

theorem wit_residencies :
    clear base h0 (specX [dS 9, ⟨0, false, (9 : BitVec 8).toNat + 1, false, true⟩, aS 11] 4) ∧
    met (withS [(9, resHandle)] resident) h0 (specX [aS 9] 2) (fun p k x => (x.liveRes p (x.rS p k 1 9).toNat).any fun r =>
      !x.resBusy (r.handle (cluOf p))) ∧
    met base h0 (specX [dS 10, aS 9] 2) (fun p _ x => !x.paired p) ∧
    met base h0 (specX [aS 9] 2) (fun p k x => (x.liveRes p (x.rS p k 1 9).toNat).isNone) := by decide +kernel

/-- An accumulator that an address names: in own TCM, in 128 bytes, with nothing pending, and its stores may issue. -/
def accOk (x : State) (p k : Nat) (v : Word) : Bool :=
  match x.objectAt p k v with
  | .ok l => !x.objectHeld p k v && !x.poisoned l 88 && !badWord0 (x.loadWord l) && x.canPay p (22 * x.charge p 4) &&
      decide ((x.accPaid p 22).MayIssue p k (x.accOps p k l v (x.readAcc l).count)) && decide (x.MayIssue p k (x.accOps p k l v Acc.zero)) &&
      decide ((x.accPaid p 1).MayIssue p k [{ x.newOp p k .acc v 0 with data := 0 }])
  | .error _ => false

/-- An address that names no accumulator for a strand. -/
def accFar (x : State) (p k : Nat) (v : Word) : Bool :=
  let off := v.toNat - aperture
  decide (v.toNat < aperture) || decide (2 ^ 17 ≤ off) || decide (off % 128 ≠ 0) || ((x.core p).inSupArea off 88 && !(x.who p k).sup && !(x.who p k).firmware)

/-- An accumulator whose word 0 breaks its format. -/
def accBroken (x : State) (p k : Nat) (v : Word) : Bool :=
  let w := x.loadWord (tcmBase p + (v.toNat - aperture))
  !accFar x p k v && !x.objectHeld p k v && x.poison.isEmpty && (decide (fieldNat w 4 12 ≠ 0) || decide (fieldNat w 48 16 ≠ 0))

/-- Core 0 whose accumulator at TCM 0x3000 breaks its format. -/
def broken : State := base.store (tcmBase 0 + 0x3000) (natBytes 8 0x10)

/-- The specification of an accumulator word that writes the header. -/
def accSpec (l : List Opnd) (lat : Nat) : WordSpec := { specX l lat with usesHeader := true, hw := [5] }

/-- The specifications of the words on one object. -/
def accWords : List WordSpec :=
  [specX [aS 9] 2, accSpec [aS 9, bV 5] 4, accSpec [aS 9, bS 10] 4, accSpec [aS 9, bV 5, cV 6] 4, specX [dS 11, aS 9] 6, specX [dS 11, aS 9] 2]

/-- Each word on a right object completes. -/
theorem wit_accumulators : ∀ w ∈ accWords, met (withS [(9, tcm 0x2000)]) h0 w (fun p k x => accOk x p k (x.rS p k 1 9)) := by decide +kernel

/-- An address that is not aligned, one outside own TCM and one in the supervisor area name no object. -/
theorem wit_accumulators_far : ∀ n ∈ [aperture + 0x2004, 0x2000, aperture + 0x1E000], ∀ w ∈ accWords,
    met (withS [(9, BitVec.ofNat 64 n)]) h0 w (fun p k x => accFar x p k (x.rS p k 1 9)) := by decide +kernel

/-- Word 0 with a field that must be zero. -/
theorem wit_accumulators_broken : ∀ w ∈ accWords,
    met (withS [(9, tcm 0x3000)] broken) h0 w (fun p k x => accBroken x p k (x.rS p k 1 9)) := by decide +kernel

/-- LAMRG of two right objects; A or B names none; A or B breaks its format. -/
theorem wit_lamrg :
    let w := accSpec [aS 9, bS 10] 3
    met (withS [(9, tcm 0x2000), (10, tcm 0x2080)]) h0 w (fun p k x => accOk x p k (x.rS p k 1 9) && accOk x p k (x.rS p k 2 10)) ∧
    met (withS [(9, 0x2000), (10, 0x2000)]) h0 w (fun p k x => accFar x p k (x.rS p k 1 9)) ∧
    met (withS [(9, tcm 0x3000), (10, 0x2000)] broken) h0 w (fun p k x => !accFar x p k (x.rS p k 1 9) && accFar x p k (x.rS p k 2 10)) ∧
    met (withS [(9, tcm 0x3000), (10, tcm 0x2000)] broken) h0 w (fun p k x => accBroken x p k (x.rS p k 1 9) && !accFar x p k (x.rS p k 2 10)) ∧
    met (withS [(9, tcm 0x2000), (10, tcm 0x3000)] broken) h0 w (fun p k x => accOk x p k (x.rS p k 1 9) && accBroken x p k (x.rS p k 2 10)) := by decide +kernel

/-- An accumulator word's store in flight. -/
def accOp : MemOp := { loadOp 3 none with kind := .acc, data := 7 }

theorem wit_accStore :
    let s := base.modCore 0 fun c => { c with seq := 4, ops := [accOp] }
    (s.core 0).opAt 3 0 = some accOp ∧ s.opReady 0 accOp ∧ !s.paired 0 ∧
      leads (s.access 0 accOp) fun l _ host => s.mayPerform 0 accOp l host := by decide +kernel

/-! Gangs, identity, system words. -/

/-- The request of core 1, in the window that it opened. -/
def fuse1 : FuseReq := { opener := 1, group := 2, opened := 0, dest := { row := 1, word := 1 }, g := 2, id := 0 }

/-- A FUSE of two cores waits in the window that core 1 opened at its cycle 0; core 1 is at cycle `n`. -/
def fusing (n : Nat) : State := { base with
  cores := [(0, core0), (1, { core0 with
    cycle := n, strands := [(0, { core0.strand 0 with fuse := some fuse1 })],
    place := some { part := 0, ctx := 1, log := 1, inst := 1, rel := 1, twin := 0, mate := 0 } })] }

theorem wit_fuse :
    let w : WordSpec := { specX [dS 9] 1 with usesHeader := true, pre := fuseTrap }
    met base h0 w (fun p _ x => (x.fuses (cluOf p)).isEmpty && decide (x.fuseWin p 2 = (0, 2, 0) ∨ x.fuseWin p 2 = (0, 2, 1))) ∧
    met (fusing 255) h0 w (fun p _ x => (x.core 1).cycle == 255 && decide (x.fuseWin p 2 = (1, 2, 0)) &&
      (x.fuses (cluOf p)).any fun r => (fuseGroup r.2.opener r.2.group).contains p) ∧
    fuseGroup 1 2 = [0, 1] ∧ clear base h0 { specX [] 2 with pre := fuseTrap, usesHeader := true } ∧
    (∀ w ∈ [specX [dS 9] 1, { specX [dS 9] 2 with pre := controlOnly }], clear base h0 w = true) := by decide +kernel

/-- Core 0 in supervisor code; a core of the plumb column, which runs firmware. -/
def superv : State := base.modCore 0 fun c => { c with sup := { c.sup with sv := true } }

/-- PCID of the first core of die 0's plumb column. -/
def fw : Nat := 39 * 32

/-- Firmware in focus. -/
def firm : State := { base with cores := [(fw, { Core.init with strands := [(0, { Strand.idle with live := true, pc := 0x1000, wl := 32, el := 1024 })] })],
                                focus := { pcid := fw, strand := 0, slot := 0, word := 0 } }

theorem wit_csr :
    met base h0 { specX [dS 9] 2 with pre := csrRead1 0x054 false } (fun p k x => !(x.csrRead p k 0x054).2.paired p) ∧
    met superv h0 { specX [aS 9] 2 with pre := csrTrap 0x053 false true } (fun p k x => (x.csrWrite p 0x053 (x.rS p k 1 9)).isSome) ∧
    met superv h0 { specX [dS 10, aS 9] 2 with pre := csrRead1 0x053 true } (fun p k x => !(x.csrRead p k 0x053).2.paired p &&
      ((x.csrRead p k 0x053).2.csrWrite p 0x053 (x.rS p k 1 9)).isSome) ∧
    csrRule 0x00B = none ∧ (csrRule 0x060).any (fun r => decide (base.level 0 0 < r.write.getD r.read) && !base.ownsGroup 0 0x060) ∧
    (csrRule 0x06A).any (fun r => decide (base.level 0 0 < r.read)) := by decide +kernel
theorem wit_system :
    (∀ w ∈ [{ specX [aS 9, bS 10] 2 with pre := levelTrap 1 }, { specX [aS 9, bS 10] 2 with pre := levelTrap 2 }],
      met firm h0 w (fun p k x => !x.storesPending p k)) ∧ met superv h0 { specX [aS 9, bS 10] 2 with pre := levelTrap 1 } (fun p k x => !x.storesPending p k) ∧
    clear superv h0 { specX [] 1 with pre := levelTrap 1 } ∧
    met firm h0 { specX [dS 9, aS 10] 1 with pre := levelTrap 2 } (fun _ _ x => (x.cores.all fun c => c.2.ops.isEmpty) && x.closures.isEmpty && x.parts.all (·.2.held.isEmpty)) ∧
    met firm h0 { specX [dS 9, aS 10] 2 with pre := levelTrap 2 } (fun p k x => !x.storesPending p k) ∧
    met firm h0 { specX [dS 9, aS 10, bS 11] 1 with pre := levelTrap 2 } (fun p k x => (x.core p).ops.isEmpty && (find (x.rS p k 1 10).toNat x.ctxs).isNone) ∧
    met { firm with ctxs := [(0, ctx0)] } h0 { specX [dS 9, aS 10, bS 11] 1 with pre := levelTrap 2 } (fun p k x => (x.core p).ops.isEmpty &&
      (find (x.rS p k 1 10).toNat x.ctxs).isSome && decide (x.phys 0 = some (.dram, 0)) && decide (x.phys 8111 = some (.dram, 8111)) &&
      decide ((x.rS p k 2 11).toNat = 0)) ∧
    met base h0 { specX [dS 9] 1 with pre := levelTrap 0 } (fun p _ x => !x.paired p) ∧
    ∀ w ∈ [{ specX [dS 9, aS 10, bS 11] 2 with pre := levelTrap 2 }, { specX [dV 5, aS 10] 4 with pre := levelTrap 2 },
      { specX [dS 9, aS 10] 2 with pre := levelTrap 1 }], clear firm h0 w = true := by decide +kernel
theorem wit_privilege : base.level 0 0 < 1 ∧ superv.level 0 0 < 2 ∧ ¬superv.level 0 0 < 1 ∧ ¬firm.level fw 0 < 2 := by decide +kernel

/-! Engine commands. -/

/-- Command 1 of a chain, in a phase. -/
def cmdOf (eop : Nat) (e : Ecw) (ph : Phase) : Cmd :=
  { seq := 1, eop := eop, ecw := e, strand := 0, pc := 0x1000, id := 0, sup := false, table := [], phase := ph, started := false, progress := 0,
    stage := 0, args := [], work := [], wrote := [], plane := 0, began := 0, status := 0, events := 0, reload := 0, loading := false, locked := [],
    asked := none, passed := false, aElems := [], aScales := [], wBytes := [], wScales := [], wTables := [], parked := false, engine := none }

/-- Core 0 with a command in its chain. -/
def working (m : Cmd) (s : State := base) : State :=
  s.modCore 0 fun c => { c with chains := [(0, { chain0 with appended := 1, completed := 0, cmds := [m] })] }

/-- The own TCM as space 1 of a descriptor (R309). -/
def space1 (off : Nat) : Nat := 2 ^ 53 + off

/-- The oldest command of the slot in focus is queued and may run. -/
def ready (m : Cmd) (s : State) : Bool := decide (s.runnable 0 0 = some m) && m.engine.isNone

/-- CPY of 8 bytes, and CPY from a program address without a translation. -/
def cpyGood : Cmd := cmdOf 0x40 (ecw 8 (space1 0x2000) (space1 0x1040)) .queued

/-- The copy at its stage with a piece of work: it reads, or has read and writes. -/
def cpyAt (c : Piece) : Cmd := { cpyGood with stage := 2, work := [c], started := true }

/-- The one word of it, to be read; from a program address without a translation; read and to be written. -/
def toRead : Piece := moveWord 0 (tcm 0x2000) (tcm 0x1040)
def toFault : Piece := moveWord 0 0x4000 (tcm 0x1040)
def toWrite : Piece := { toRead with reads := [], got := [(0, natBytes 8 7)] }

/-- A command with one piece of one free part picks that, whatever the free value is. -/
theorem pick_one {m : Cmd} {c : Piece} {x : Part} (hw : m.work = [c]) (hf : c.free = [x]) (hb : c.block = false) (r : Nat) :
    m.pick r = some (c, [x]) := by
  simp [Cmd.pick, Piece.next, hw, hf, hb, Nat.mod_one]

/-- What a step of a command's rule ends with: 0 it goes on, 1 it is done, 2 a ring entry, 3 else. -/
def runKind (r : Run) : Nat := match r with
  | .go _ _ => 0
  | .done _ _ _ _ => 1
  | .snag _ _ _ _ => 2
  | _ => 3

/-- A faulting access of a command can become a ring entry. -/
def canSnag (m : Cmd) (s : State) (kind cause : Nat) (va : Word) : Bool :=
  (s.engFault 0 0 m kind cause va (fun j x => { x with phase := .snagged j, started := true })
    (fun x => { x with phase := .finished, started := true, status := 2 })).isSome

/-- Steps of its work: the word read, the word written, a fault. -/
theorem wit_engineSteps :
    (∀ c ∈ [toRead, toWrite], let m := cpyAt c
      let l := if c.reading then c.reads else c.writes
      m.work = [c] ∧ c.free = l ∧ l.length = 1 ∧ c.block = false ∧ ready m (working m) ∧ !(working m).paired 0 ∧
        gets ((working m).partsAt 0 m.sup (!c.reading) l) fun xs => (working m).canPay 0 (xs.map fun x => (working m).toll 0 x.1 x.2.1).sum) ∧
    (let m := cpyAt toFault
     m.work = [toFault] ∧ toFault.free = toFault.reads ∧ toFault.reads.length = 1 ∧ toFault.block = false ∧ ready m (working m) ∧
      (match (working m).partsAt 0 m.sup false toFault.reads with
        | .fault kind cause va => (kind, cause, va) == (8, 9, 0x4000) && canSnag m (working m).drawn kind cause va
        | _ => false) = true) := by decide +kernel

/-- WLOAD to the residency of plane unit 0, in a stage. -/
def wloadAt (stage : Nat) : Cmd :=
  { cmdOf 0x20 { ecw 0 0x4000 0 with hc := resHandle.setWidth 32, p0 := 1 } .queued with stage := stage }

/-- Steps of its rule: the end, a tile that takes the results, the end of a load, the next stage, a refusal, a source without a translation. -/
theorem wit_engineCommands :
    (let m := { cpyGood with stage := 2 }
     ready m (working m) ∧ m.work = [] ∧ m.stage = lastStage 0x40) ∧
    (let m : Cmd := { cmdOf 0x05 (ecw 0 (5 * 2 ^ 53 + 3) (5 * 2 ^ 53 + 3)) .queued with stage := 5 }
     let s := working m tiled
     ready m s ∧ m.work = [] ∧ fieldNat m.ecw.dst 53 3 = 5 ∧ (s.tileDesc 0 m.ecw.dst).any (fun t => (s.tilePoison 0 t 1).isNone) ∧
      s.canPay 0 (rowsOf m.ecw * 8 * s.charge 0 14)) ∧
    (let m := wloadAt 2
     let s := working m resident
     ready m s ∧ m.work = [] ∧ (s.liveRes 0 m.ecw.hc.toNat).isSome) ∧
    (ready cpyGood (working cpyGood) ∧ runKind ((cpyRun false).go 0 0 cpyGood (working cpyGood)) = 0) ∧
    (let m := cmdOf 0x40 (ecw 7 0 0) .queued
     ready m (working m) ∧ runKind ((cpyRun false).go 0 0 m (working m)) = 1) ∧
    (let m := wloadAt 1
     let s := working m resident
     ready m s ∧ (match wloadRun.go 0 0 m s with
      | .snag s1 kind cause va => (kind, cause, va) == (8, 9, 0x4000) && canSnag m s1 kind cause va
      | _ => false) = true) := by decide +kernel

/-- Page tables (R93, R94): root, level 3 and level 2, whose entry 0 is a leaf of frame 0 that may be written. -/
def paged (s : State := base) : State :=
  ((s.store 0x24000000 (natBytes 8 0x24001001)).store 0x24001000 (natBytes 8 0x24002001)).store 0x24002000 (natBytes 8 7)

/-- SIG of a value at an address, in a stage. -/
def sigOf (eop ofl dst stage : Nat) : Cmd := { cmdOf eop { ecw 0 77 dst with ofl := BitVec.ofNat 6 ofl } .queued with stage := stage }

/-- The store of the signal at an address. -/
def sigStore (a : Word) : Piece :=
  { num := 0, reads := [], got := [], writes := [{ num := 0, va := a, loc := none, n := 8, toll := 2 }], block := false, sent := [] }

theorem wit_signalCommands : ∀ eop ∈ [0x45, 0x21],
    (let m := sigOf eop 0 0x4000 0
     ready m (working m) ∧ m.work = [] ∧ m.ecw.ofl = 0 ∧ m.ecw.p0 = 0 ∧ m.ecw.p1 = 0 ∧ m.ecw.hc = 0 ∧ descOf m.ecw.dst = .addr 0x4000) ∧
    (let m := sigOf eop 1 0x4000 0
     ready m (working m) ∧ m.work = [] ∧ m.ecw.ofl ≠ 0) ∧
    (∀ a ∈ [0x4000, 0x4004], let m := sigOf eop 0 a 1
     ready m (working m) ∧ m.work = [] ∧ descOf m.ecw.dst = .addr (BitVec.ofNat 64 a)) ∧
    (let m := { sigOf eop 0 0x4000 2 with work := [sigStore 0x4000] }
     let s := working m paged
     ready m s ∧ !s.paired 0 ∧ gets (s.partAt 0 m.sup true { num := 0, va := 0x4000, loc := none, n := 8, toll := 2 }) fun x =>
      s.canPay 0 (s.accessCharge 0 x.1 64 + s.charge 0 12)) ∧
    (let m := sigOf eop 0 0x4000 2
     ready m (working m) ∧ m.work = []) := by decide +kernel

theorem wit_commandCompletion : ∀ ph ∈ [Phase.finished, .completing 0 256, .completing 1 256, .completing 2 256, .completing 3 256],
    let m := cmdOf 0x40 (ecw 64 (space1 0x2000) (space1 0x1040)) ph
    let s := working m
    let part (va : Word) : Part := { num := 0, va := va, loc := none, n := 8, toll := 1 }
    (s.core 0).headCmd 0 = some m ∧ (s.core 0).stop ≠ some .gang ∧ (s.core 0).resumeAt ≤ s.now ∧ !s.paired 0 ∧
      (gets (s.partAt 0 m.sup true (part (chain0.ring + 8))) fun x => s.canPay 0 (s.accessCharge 0 x.1 64)) ∧
      gets (s.partAt 0 m.sup true (part chain0.cword)) fun x => s.canPay 0 (s.accessCharge 0 x.1 64) := by
  decide +kernel

/-! Events of memory and of waiting. -/

/-- Core 0 with an operation in flight. -/
def flying (o : MemOp) (s : State := base) : State := s.modCore 0 fun c => { c with seq := 4, ops := [o] }

/-- Firmware loads from host memory. -/
def hostLoad : State := firm.modCore fw fun c => { c with seq := 4, ops := [{ loadOp 3 none with va := 0x100000000000 }] }

/-- A load of core 0 at a program address. -/
def loadAt (va : Word) : MemOp := { loadOp 3 (some 3) with va := va }

/-- A deferred store of core 0 to host memory, whose superstep ends at tick 400 while the link is down. -/
def deferring : State :=
  let o := { loadOp 3 none with kind := .store, va := 0x100000000000 }
  { base with hostUp := false, now := 50000, insts := [(1, { newInst 1 tract0 0 0 0 0 with enter := some 400 })] }.modCore 0 fun c =>
    { c with exch := { c.exch with deferred := [.store (some o) 0 (natBytes 8 5)] } }

theorem wit_memoryEvents :
    ((deferring.core 0).opAt 3 0 = none ∧ ((deferring.core 0).deferredOp 3 0).any (fun o => decide (o.since + 50000 ≤ deferring.now)) ∧
      deferring.hostUp = false ∧ deferring.releaseDue 0) ∧
    (let o := loadAt (tcm 0x1000)
     ((flying o).core 0).opAt 3 0 = some o ∧ (flying o).opReady 0 o ∧ !(flying o).paired 0 ∧
      leads ((flying o).access 0 o) fun l _ host => (flying o).mayPerform 0 o l host) ∧
    (let o := loadAt 0x200000000000000
     (flying o).opReady 0 o ∧ (flying o).access 0 o = .fault 7) ∧
    (let o := { loadOp 3 none with va := 0x100000000000 }
     let s := { hostLoad with hostUp := false, now := 50000 }
     (s.core fw).opAt 3 0 = some o ∧ o.since + 50000 ≤ s.now ∧ o.parked = false ∧ leads (s.access fw o) fun _ _ host => host) ∧
    (let o := loadAt 0x4000
     (flying o).missAddr 0 o = some 0x4000 ∧ ((flying o).core 0).place.isSome ∧ (flying o).walk ((flying o).rootOf 1) 0x4000 = .fault ∧
      (flying o paged).missAddr 0 o = some 0x4000 ∧ (flying o paged).walk ((flying o paged).rootOf 1) 0x4000 ≠ .fault) ∧
    (let s := { snagged none with now := 2000000 }
     ((s.core 0).snagAt 2).any fun g => decide (max (s.core 0).sup.snagto 1000 ≤ s.snagAge 0 g) && (s.core 0).stop.isNone) := by decide +kernel

/-- Core 0 whose control strand waits for helpers, until a tick. -/
def waiting (deadline : Word) (s : State := base) : State :=
  s.modStrand 0 0 fun t => { t with wait := some (s.newWait 0 (.join 2) deadline 0 none h0) }

/-- The wait in it. -/
def joinWait (deadline : Word) (s : State := base) : Wait := s.newWait 0 (.join 2) deadline 0 none h0

/-- The instance of core 0 with a change. -/
def changed (f : Instance → Instance) (s : State := base) : State := { s with insts := [(1, f (newInst 1 tract0 0 0 0 0))] }

/-- A completed phase of group 1 that is to be released. -/
def releasing (i : Instance) : Instance :=
  { i with g1 := { members := [0], arr := [], arrBy := [], done := [0], phase := 1, bound := true, release := [408, 400], gone := none, config := none } }

/-- A message on its way to logical core 0, and one to a core that the partition does not have. -/
def sending (m : Message) : State := { base with messages := [m] }

theorem wit_waitingEvents :
    (let s := waiting 1000
     (s.strand 0 0).wait = some (joinWait 1000) ∧ (s.core 0).stop = none ∧ !s.paired 0 ∧ (s.waitStatus 0 0 (joinWait 1000)).isSome) ∧
    (let s := { waiting 300 helped with now := 100000 }
     (s.strand 0 0).wait = some (joinWait 300 helped) ∧ s.waitStatus 0 0 (joinWait 300 helped) = none ∧ s.expired 0 (joinWait 300 helped) ∧
      !s.ldsFirst 0 (joinWait 300 helped) ∧ !s.endsNow 0 (joinWait 300 helped) ∧ (s.core 0).stop = none ∧ !s.paired 0) ∧
    (let s := changed releasing
     ((find 1 s.insts).map fun i => (i.group 1).release) = some [408, 400] ∧ (∀ u ∈ [408, 400], 400 ≤ u) ∧ 400 ≤ s.now ∧ !s.partStopped 0) ∧
    (((fusing 255).strand (8 * 0 + 1) 0).fuse = some fuse1 ∧ fuse1.opened + 255 ≤ ((fusing 255).core fuse1.opener).cycle) ∧
    (∀ m ∈ [message 0 0, message 0 5], let s := sending m
      s.messages[0]? = some m ∧ s.messages.take 0 = [] ∧ !s.partStopped m.part ∧ s.sendReady m ∧ (s.core 0).stop ≠ some .gang ∧ s.msgRoom 0 ∧ !s.paired 0) ∧
    (base.remapAt 0 0).valid ∧ (base.remapAt 0 0).state = 0 ∧ !(base.remapAt 0 5).valid := by decide +kernel

/-- Core 0 that has arrived at its exchange, which begins at tick 400. -/
def atExchange (plantab : Word) : State :=
  { changed (fun i => { i with x := some 400 }) with tracts := [(1, { tract0 with plantab := plantab })] }.modCore 0 fun c =>
    { c with exch := { c.exch with state := .arrived } }

/-- A record of 8 bytes from TCM 0x100 to TCM 0x200 of core 0 itself. -/
def record0 : PlanRecord := { num := 0, offset := 0, dlc := 0, dspace := 0, sspace := 0, len := 8, srcoff := 0x100, dstoff := 0x200, setfull := false }

/-- Core 0 with a record to issue. -/
def issuing : State := (atExchange 0).modCore 0 fun c => { c with exch := { c.exch with state := .exchanging, todo := [record0], rxtotal := 8 } }

/-- Bytes on their way to core 0. -/
def transfer0 : Transfer :=
  { src := 0, part := 0, dst := 0, dspace := 0, off := 0x200, bytes := natBytes 8 5, setfull := false, inst := 1, hash := 0, sup := false,
    counted := true, num := 0, step := 0, left := [0] }

/-- A message at a closure router, with the hashes of its twins. -/
def closure0 (x y : Option Word) : Closure :=
  { primary := 0, kind := .send, strand := 0, pc := 0x1000, elem := 0, msg := some (message 0 0), xfer := none, eng := none, hashP := x, hashS := y, idP := 1,
    idS := 1, since := 0, stops := 0 }

/-- All cores of the instance have passed the exchange barrier, which the model releases at tick 400. -/
def released : State := (changed fun i => { i with enter := some 400 }).modCore 0 fun c => { c with exch := { c.exch with state := .exchanged } }

theorem wit_superstepEvents :
    (∀ s ∈ [atExchange 0, atExchange 0x200000000000000], (s.instOf 0).any (fun y => decide (y.2.x = some 400) && y.2.status.isNone) ∧ (s.tractOf 0).isSome ∧
      400 ≤ s.now ∧ (s.core 0).exch.state = .arrived ∧ (s.core 0).stop = none) ∧
    ((atExchange 0).instOf 0).any (fun y => match (atExchange 0).startPlan 0 y.2 tract0 with | (.got _, _) => true | _ => false) ∧
    ((atExchange 0x200000000000000).instOf 0).any (fun y =>
      match (atExchange 0x200000000000000).startPlan 0 y.2 { tract0 with plantab := 0x200000000000000 } with | (.bad _, _) => true | _ => false) ∧
    (issuing.instOf 0).any (fun y => decide (2 * y.2.x.getD 0 + record0.offset ≤ 2 * issuing.now)) ∧
    earliest (issuing.core 0).exch.todo = some record0 ∧ (issuing.core 0).exch.state = .exchanging ∧
    !issuing.poisoned (issuing.spaceLoc 0 0 0x100) 8 ∧ issuing.canPay 0 ((8 + 63) / 64 * issuing.charge 0 13) ∧ !issuing.paired 0 ∧
    !(issuing.core 0).inSupArea 0x100 8 ∧
    (let s := issuing.modCore 0 fun c => { c with exch := { c.exch with todo := [{ record0 with len := 16 }] } }
     earliest (s.core 0).exch.todo = some { record0 with len := 16 } ∧ (s.core 0).exch.read = [] ∧ !s.poisoned (s.spaceLoc 0 0 0x100) 8 ∧
      !s.poisoned (s.spaceLoc 0 0 0x108) 8 ∧ s.canPay 0 ((16 + 63) / 64 * s.charge 0 13)) ∧
    (∀ t ∈ [transfer0, { transfer0 with bytes := natBytes 16 5, left := [0, 1] }],
     let s := { issuing with transfers := [t] }
     s.transfers[0]? = some t ∧ (find 1 s.insts).any (·.status.isNone) ∧ (s.remapAt 0 0).valid ∧ (s.remapAt 0 0).state = 0 ∧
      !(s.core (s.remapAt 0 0).pcid).inSupArea 0x200 16) ∧
    (find 1 released.insts).any (fun i => released.entryReady 1 i && decide (i.dbg = .running)) ∧
    (let c := closure0 (some 3) (some 3)
     let s := { base with closures := [c] }
     s.closures[0]? = some c ∧ (State.forward { s with closures := [] } c).isSome) ∧
    (let c := closure0 (some 3) (some 4)
     let s := { base with closures := [c] }
     s.closures[0]? = some c ∧ !s.localLds c) ∧
    (let c := closure0 (some 3) none
     let s := { base with closures := [c], now := 100000 }
     s.closures[0]? = some c ∧ 65536 < s.now - c.since - (s.stopTicks c.primary - c.stops) ∧ !s.localLds c) := by decide +kernel

/-- A record that names the supervisor area of its core. -/
def record1 : PlanRecord := { record0 with srcoff := 0x1E000 }

/-- Core 0's number after an entry of the remap table has changed its state; with bytes on their way to an offset. -/
def arriving (state off : Nat) : State := { issuing with
  transfers := [{ transfer0 with off := off }], parts := [(0, { part0 with remap := [(0, { valid := true, state := state, pcid := 0 })] })] }

theorem wit_exchangeFaults :
    (let s := issuing.modCore 0 fun c => { c with exch := { c.exch with todo := [record1] } }
     earliest (s.core 0).exch.todo = some record1 ∧ (s.core 0).exch.state = .exchanging ∧ (s.core 0).stop = none ∧ (s.core 0).exch.sup = false ∧
      (s.core 0).inSupArea 0x1E000 8 ∧ !s.poisoned (s.spaceLoc 0 0 0x1E000) 8 ∧ !s.paired 0) ∧
    (∀ x ∈ [(2, 0x200), (0, 0x1E000)], let s := arriving x.1 x.2
      (s.transfers[0]?).isSome ∧ (find 1 s.insts).any (·.status.isNone) ∧ (s.remapAt 0 0).valid ∧ (s.remapAt 0 0).state = x.1 ∧
        (s.core (s.remapAt 0 0).pcid).inSupArea x.2 8 = decide (x.1 = 0)) := by decide +kernel

/-! Events of the host, the front end and the placement. -/

/-- The device answers, owned by a master. -/
def owned (m : Nat) : State := { base with owner := m }

theorem wit_ownerEvents : (owned 0).heard 0x1001 ∧ (owned 0x1001).heard 0x2000 ∧ (owned 0x1001).heard 0x1001 ∧ validMaster (0x2001 % 2 ^ 16) ∧
    (let s := { owned 0x1001 with hostUp := false, linkLost := some 0, now := 10 ^ 9 }
     s.heard 0x2000 ∧ s.linkLost = some 0 ∧ s.linkDown s.owner ∧ 0 + 10 ^ 9 ≤ s.now) := by decide +kernel
theorem wit_ownerLost :
    let s := { owned 0x1001 with hostUp := false, linkLost := some 0, now := 10 ^ 9 }
    s.owner ≠ 0 ∧ s.linkLost = some 0 ∧ 0 + 10 ^ 9 ≤ s.now ∧ s.heard 0x2000 ∧ (owned 0x1001).linkLost = none ∧ (owned 0).linkLost = none := by
  decide +kernel
theorem wit_masterWrites : (owned 0x1001).heard 0x1001 ∧ (owned 0x1001).heard 0x2000 ∧ ((owned 0x1001).writeQtail 3 5).isSome ∧
    ((owned 0x1001).blockWrite 0 0x18 5 false).isSome := by decide +kernel

theorem wit_deviceEvents :
    (let s := base.modDie 0 fun x => { x with gated := true, waking := true, captured := [(0, 3)] }
     (s.die 0).gated ∧ (s.die 0).waking ∧ (s.die 0).wakeTries < 2) ∧
    (let s := base.modDie 0 fun x => { x with gated := true, waking := true, wakeTries := 2 }
     (s.die 0).gated ∧ (s.die 0).waking ∧ 2 ≤ (s.die 0).wakeTries) ∧
    (0 < base.dieCount ∧ base.answers) ∧
    (let s := base.modDie 0 fun x => { x with hw := [{ num := 3, part := 0, inst := 1, group := 0, refused := false }] }
     s.hwPart 0 3 = some 0 ∧ s.answers) ∧
    (∀ d ∈ [DbgState.pending, .stepping],
      let s := { released with insts := [(1, { newInst 1 tract0 0 0 0 0 with enter := some 400, dbg := d })] }
      (s.insts.find? fun x => s.dbgReady x.1 x.2).isSome) ∧
    ((helped.modStrand 0 1 fun t => { t with stopped := true }).core 0).stoppedMask &&& (2 : Word).toNat ≠ 0 := by decide +kernel

/-- Queue 0, a running one, with a packet in hand; what it addresses, device context 1 translates. -/
def queued (kind : Nat) (w : Option (List Word)) (s : State := paged) : State :=
  { s with queues := [(0, { PQueue.init with kind := kind, ctx := 1, base := 8, state := 2, tail := 1, packet := w, owed := 1 })] }

/-- A packet: word 0 by its type, flags and context, and the words after it. -/
def packet (type flags ctx : Nat) (l : List Nat) : List Word := fields [(type, 0), (flags, 8), (ctx, 32)] :: l.map (BitVec.ofNat 64)

/-- A packet of a type is in hand at queue 0. -/
def handed (type flags ctx : Nat) (l : List Nat) (s : State := paged) : State := queued 1 (some (packet type flags ctx l)) s

/-- Core 0 and its parcel are gone. -/
def vacant : State := { paged with cores := [], insts := [], tracts := [] }

theorem wit_fetches :
    ((queued 1 none).served 0 ∧ (queued 1 none).answers ∧ ((queued 1 none).queueLoc ((queued 1 none).queue 0) ((queued 1 none).queue 0).slot false).any
      fun x => !x.host) ∧
    ((queued 1 none base).served 0 ∧ (queued 1 none base).answers ∧
      (queued 1 none base).queueLoc ((queued 1 none base).queue 0) ((queued 1 none base).queue 0).slot false = none) ∧
    (let s := queued 0 none { base with hostUp := false }
     s.served 0 ∧ s.answers ∧ (s.queue 0).fetchAt = none ∧ (s.queueLoc (s.queue 0) (s.queue 0).slot false).any fun x => x.host && !s.hostUp) ∧
    (let s := (queued 0 none { base with hostUp := false, now := 60000 }).modQueue 0 fun q => { q with fetchAt := some 10000 }
     s.served 0 ∧ s.answers ∧ (s.queue 0).fetchAt = some 10000 ∧ 10000 + 50000 ≤ s.now ∧
      (s.queueLoc (s.queue 0) (s.queue 0).slot false).any fun x => x.host && !s.hostUp) ∧
    (let s := queued 0 none base
     s.served 0 ∧ s.answers ∧ (s.queueLoc (s.queue 0) (s.queue 0).slot false).any fun x => x.host && s.hostUp) := by decide +kernel

/-- A command without work has no next operation. -/
theorem pick_none {m : Cmd} (hw : m.work = []) (r : Nat) : m.pick r = none := by simp [Cmd.pick, hw]

/-- COPY of 8 bytes in hand, with what is left of its work. -/
def copying (l : List Piece) : State := (handed 2 0 1 [8, 0x9000, 0xA000]).modQueue 0 fun q => { q with copy := some { cpyGood with work := l } }

/-- Its word to be read, and to be written. -/
def copyPieces : List Piece := [moveWord 0 0x9000 0xA000, { moveWord 0 0x9000 0xA000 with reads := [], got := [(0, natBytes 8 7)] }]

/-- Steps of a COPY: a word read, a word written, a word with an error, the end. -/
theorem wit_copySteps :
    (∀ c ∈ copyPieces, let s := copying [c]
      let l := if c.reading then c.reads else c.writes
      (s.inHand 0 2).isSome ∧ (s.queue 0).copy = some { cpyGood with work := [c] } ∧ c.free = l ∧ l.length = 1 ∧ c.block = false ∧
        l.all fun x => (s.ctxLoc 1 x.va (!c.reading)).any fun f => !f.host && !s.poisoned f.loc 8 &&
          ({ s with poison := [(codeword f.loc).1] } : State).poisoned f.loc 8) ∧
    ((copying []).inHand 0 2).isSome ∧ ((copying []).queue 0).copy = some { cpyGood with work := [] } := by decide +kernel

/-- COPY, SIGNAL and WAIT of mapped words. -/
theorem wit_dataPackets :
    (let s := handed 2 0 1 [64, 0x9000, 0xA000]
     (s.inHand 0 2).isSome ∧ (s.queue 0).copy = none ∧ inAperture 0x9000 = false ∧ inAperture 0xA000 = false ∧
      (s.feWords 1 0x9000 8 false).isSome ∧ (s.feWords 1 0xA000 8 true).isSome) ∧
    (∀ l ∈ [[63, 0x9000, 0xA000], [64, 0x9004, 0xA000], [64, 0x9000, 0x1FFFF0000000000]], let s := handed 2 0 1 l
     (s.inHand 0 2).isSome ∧ (s.queue 0).copy = none) ∧
    (let s := handed 2 0 1 [64, 0x9000, 0x800000000]
     (s.inHand 0 2).isSome ∧ (s.queue 0).copy = none ∧ s.feWords 1 0x800000000 8 true = none) ∧
    (∀ a ∈ [0x9004, 0x1FFFF0000000000, 0x800000000], let s := handed 3 0 1 [a, 77]
     (s.inHand 0 3).isSome ∧ (s.queue 0).owed = 1 ∧
      (a % 8 ≠ 0 ∨ inAperture (BitVec.ofNat 64 a) ∨ s.ctxLoc 1 (BitVec.ofNat 64 a) true = none)) ∧
    (let s := handed 4 0 1 [0x9001, 0, 100]
     (s.inHand 0 4).isSome ∧ (s.queue 0).waitAt = none) ∧
    (let s := handed 3 0 1 [0x9000, 77]
     (s.inHand 0 3).isSome ∧ (s.queue 0).owed = 1 ∧ (s.ctxLoc 1 0x9000 true).any fun x => !x.host) ∧
    (let s := handed 4 0 1 [0x9000, 0, 100]
     (s.inHand 0 4).isSome ∧ (s.queue 0).waitAt = none) ∧
    (∀ v ∈ [0, 5], let w := packet 4 0 1 [0x9000, v, 100]
      let s := (handed 4 0 1 [0x9000, v, 100]).modQueue 0 fun q => { q with waitAt := some 300 }
      s.inHand 0 4 = some w ∧ (s.queue 0).waitAt = some 300 ∧ 300 + 100 ≤ s.now ∧
        (s.waitWord w).any fun x => x.2 == decide (v = 0) && !x.1.host && !s.poisoned x.1.loc 8) := by decide +kernel

/-- CONTEXT, MIGRATE and TEARDOWN. -/
theorem wit_contextPackets :
    (let w := packet 5 1 2 [0x24000000, 0, 1, 0, 0, 0, 0, 0, 0, 0]
     let s := handed 5 1 2 [0x24000000, 0, 1, 0, 0, 0, 0, 0, 0, 0] vacant
     s.inHand 0 5 = some w ∧ (w.getD 0 0).getLsbD 8 ∧ s.creates w ∧ find 1 s.parts = none ∧ (w.getD 3 0).toNat = 1 ∧
      s.userCore 8 ∧ !s.skimNames 8 ∧ (s.core 8).place = none) ∧
    (let w := packet 5 1 2 [0x24000000, 0, 0, 0, 0, 0, 0, 0, 0, 0]
     let s := handed 5 1 2 [0x24000000, 0, 0, 0, 0, 0, 0, 0, 0, 0] vacant
     s.inHand 0 5 = some w ∧ (w.getD 0 0).getLsbD 8 ∧ !s.creates w) ∧
    (∀ type ∈ [5, 6], (handed type 0 7 []).inHand 0 type = some (packet type 0 7 []) ∧ find 7 (handed type 0 7 []).ctxs = none) ∧
    ((queued 0 (some (packet 5 0 1 [])) vacant).inHand 0 5).isSome ∧ (queued 0 (some (packet 5 0 1 [])) vacant).ctxIdle 1 0 ∧
    ((queued 0 (some (packet 5 0 1 []))).inHand 0 5).isSome ∧ !(queued 0 (some (packet 5 0 1 []))).ctxIdle 1 0 ∧
    (let s := handed 6 0 1 [0, 8]
     let e := s.remapAt 0 0
     (s.inHand 0 6).isSome ∧ (find 1 s.ctxs).any (fun c => (find c.part s.parts).any fun pt => decide (0 < pt.size)) ∧ e.valid ∧ e.state = 0 ∧ ((s.core e.pcid).place.map (·.part)) = some 0 ∧ !(s.core e.pcid).ended ∧
      (s.core e.pcid).migrate = none ∧ s.okTarget e.pcid 8 ∧ !s.okTarget e.pcid fw) ∧
    (let s := handed 6 0 1 [5, 8]
     (s.inHand 0 6).isSome ∧ !(s.remapAt 0 5).valid) ∧
    ((handed 7 0 1 []).inHand 0 7).isSome := by decide +kernel

/-- Every die is gated. -/
def gatedAll (s : State) : State := (List.range 4).foldl (fun x d => x.modDie d fun y => { y with gated := true }) s

theorem cooler_isSome (s : State) : ∀ (l : List Nat) (a : Option Nat), a.isSome = true ∨ l ≠ [] → (l.foldl s.cooler a).isSome = true
  | [], _, h => by simpa using h
  | q :: l, a, _ => cooler_isSome s l _ (.inl (by cases a <;> simp only [State.cooler] <;> (try split) <;> rfl))

/-- Firmware finds a target where one is usable, and none where every die is gated. -/
theorem pickTarget_some {s : State} {p q : Nat} (hq : q < 8192) (h : s.okTarget p q = true) : s.pickTarget p ≠ none := by
  have hm : q ∈ (List.range 8192).filter (s.okTarget p) := List.mem_filter.2 ⟨List.mem_range.2 hq, h⟩
  exact Option.isSome_iff_ne_none.1 (cooler_isSome s _ none (.inr (List.ne_nil_of_mem hm)))

theorem pickTarget_none {s : State} {p : Nat} (h : ∀ d < 4, (s.die d).gated = true) : s.pickTarget p = none := by
  have hf : (List.range 8192).filter (s.okTarget p) = [] := List.filter_eq_nil_iff.2 fun q hq => by
    have hd : dieOf q < 4 := by have := List.mem_range.1 hq; unfold dieOf; omega
    simp [State.okTarget, State.usableTarget, State.barred, h _ hd]
  simp only [State.pickTarget, hf, List.foldl_nil]

/-- MIGRATE to a core of firmware's choice, with one that is usable and with none. -/
theorem wit_migrateAny :
    (let s := handed 6 0 1 [0, 0xFFFF]
     (s.inHand 0 6).isSome ∧ s.okTarget 0 8) ∧
    (let s := gatedAll (handed 6 0 1 [0, 0xFFFF])
     (s.inHand 0 6).isSome ∧ (s.remapAt 0 0).valid ∧ ∀ d < 4, (s.die d).gated = true) := by decide +kernel
theorem wit_pickTarget : (handed 6 0 1 [0, 0xFFFF]).pickTarget 0 ≠ none ∧ (gatedAll (handed 6 0 1 [0, 0xFFFF])).pickTarget 0 = none :=
  ⟨pickTarget_some (by decide) wit_migrateAny.1.2, pickTarget_none wit_migrateAny.2.2.2⟩

/-- LAUNCH of one instance of one core: code of 8 bytes at 0x9000. -/
def launchWords (p : Nat) : List Nat := [p * 2 ^ 32 + 1, 0x9000, 8, 0, 0, 4, 0, 0, 0, 0, 0, 0, 0, 0, 0]

/-- The parcel waits to be placed. -/
def pending : State := { vacant with tracts := [(1, { tract0 with ranges := [(0, 0, 3)] })] }

/-- Core 0's part is over. -/
def ended : State := base.modCore 0 fun c => { c with ended := true }

/-- A record of a parcel's end. -/
def rec0 : Record :=
  { queue := 0, ctx := 1, tract := some 1, teardown := false, retry := false, cring := 0x9000, clog := 4, cons := 0xA000, tag := 7, index := 0,
    status := 0, kind := 1, tick := 500, unit := 0, nfail := 0, irq := none }

theorem wit_placementEvents :
    (let s := handed 1 0 1 (launchWords 1)
     let w := packet 1 0 1 (launchWords 1)
     s.inHand 0 1 = some w ∧ (find 1 s.ctxs).any (fun c => (find c.part s.parts).any fun pt => !launchBad w c pt) ∧
      (s.launchReads w).any fun x => !x.2.2.2) ∧
    (let s := handed 1 0 1 (launchWords 0)
     let w := packet 1 0 1 (launchWords 0)
     s.inHand 0 1 = some w ∧ (find 1 s.ctxs).any (fun c => (find c.part s.parts).any fun pt => launchBad w c pt)) ∧
    ((find 1 pending.tracts).any fun t => (pending.partOf t).any (fun y => decide (y.1 = 0) && (find t.ctx pending.ctxs).isSome && t.waits &&
      pending.turn 1 t && pending.answers && pending.fits t y.2 (newInst 1 t 0 0 0 pending.now) &&
      (t.pick (dieOf (pending.relCore (newInst 1 t 0 0 0 pending.now) 0))).any (fun z => decide (z.1 < t.lowest + 256)) && !t.paired)) ∧
    ((find 1 ended.insts).any (fun i => ended.instOver 1 i) ∧ !(ended.instCores 1).any ended.fbDue) ∧
    (let s := { queued 1 none with records := [rec0] }
     s.records[0]? = some rec0 ∧ rec0.teardown = false ∧ (s.queue 0).state ≠ 3 ∧ !s.retries 0 ∧ (s.queueLoc (s.queue 0) 0xA000 false).any (fun c =>
      !c.host && decide (look 0 (s.ringKey rec0) s.ringCount - s.loadNat c.loc 8 < 2 ^ 4)) ∧
      (s.queueLoc (s.queue 0) (0x9000 + word64 (32 * (look 0 (s.ringKey rec0) s.ringCount % 2 ^ 4))) true).any fun x => !x.host) ∧
    (let s := { base with tracts := [(1, { tract0 with image := [5] })] }
     (s.strand 0 0).live ∧ find (s.strand 0 0).pc.toNat (s.core 0).istore = none ∧ s.lostWord 0 (s.strand 0 0).pc = none ∧
      s.imageWord 0 (s.strand 0 0).pc = some 5) := by decide +kernel

/-! Events of health, scheduling, power and the links. -/

/-- The health of core 0, changed. -/
def healthy (f : Health → Health) (s : State := base) : State := s.modCore 0 fun c => { c with health := f c.health }

/-- ADD at the program counter of core 0. -/
def adding : State := base.modCore 0 fun c => { c with istore := [(0x1000, (encode (.add h0 9 10 11)).getD 0 0)] }

/-- A load of poisoned words of TCM. -/
def poisoned : State := { flying (loadAt (tcm 0x1000)) with poison := [tcmBase 0 + 0x1000] }

theorem wit_healthEvents :
    (let s := healthy fun x => { x with qc := true }
     s.quarBits 0 ≠ 0 ∧ (s.core 0).health.test = false) ∧
    ((healthy fun x => { x with test := true }).core 0).health.test = true ∧ ((healthy fun x => { x with result := 2 }).core 0).health.result = 2 ∧
    ((healthy fun x => { x with eccState := 1 }).core 0).health.eccState = 1 ∧
    (((base.modCluster 0 fun c => { c with cspState := 1 }).cluster (cluOf 0)).cspState = 1) ∧
    (residueRange 0 0 3 4 ∧ adding.strandRuns 0 0 ∧ residueUnit ((adding.core 0).opcodeAt (adding.strand 0 0).pc) 0) ∧
    (let m := { cmdOf 0x05 (ecw 0 0 0) .queued with stage := 4 }
     let s := (working m).modCore 0 fun c => { c with chains := [(0, { chain0 with eng := 1, cmds := [m] })] }
     residueRange 4 0 3 4 ∧ (look Chain.free 0 (s.core 0).chains).eng = 1 ∧ (look Chain.free 0 (s.core 0).chains).cmds = [m] ∧ s.passFails 0 m) ∧
    (poisoned.poisonOp 0 0 (tcmBase 0 + 0x1000)).isSome ∧ poisonCause (tcmBase 0 + 0x1000) = 6 := by decide +kernel

/-- A stopped helper's report is pending. -/
def stopping : State := helped.modCore 0 fun c => { c with sup := { c.sup with stopPend := [1] } }

/-- Core 0 has stopped for its move to core 8. -/
def moving : State := base.modCore 0 fun c => { c with migrate := some { target := 8, named := true, record := none }, stop := some .migrate }

/-- A switch of partition 0 is armed. -/
def armed (f : Partition → Partition) (s : State := base) : State := s.modPart 0 fun x => f { x with armed := some 400 }

/-- Its cores have stopped. -/
def halted : State := base.modCore 0 fun c => { c with stop := some .gang }

theorem wit_schedulingEvents :
    ((stopping.strand 0 0).live ∧ stopping.atWord 0 ∧ !(stopping.core 0).sup.sv ∧ (stopping.core 0).stop = none ∧
      !(stopping.core 0).halt ∧ (stopping.core 0).sup.nextAsync.isSome) ∧
    ((moving.core 0).migrate.isSome ∧ (moving.core 0).stop = some .migrate ∧ !moving.unsettled 0 ∧ (moving.core 0).stopSince ≠ moving.now ∧
      moving.okTarget 0 8 ∧ moving.hwTakes 0 8) ∧
    (∀ s ∈ [armed id, armed id halted], (find 0 s.parts).any fun pt => pt.armed == some 400 && decide (400 ≤ s.now) && !pt.stopped) ∧
    ((armed id).partCores 0).filter (fun p => ((armed id).core p).stop ≠ some .gang && ((armed id).core p).stop ≠ some .migrate) = [0] ∧
    ((armed id halted).partCores 0).filter (fun p => ((armed id halted).core p).stop ≠ some .gang && ((armed id halted).core p).stop ≠ some .migrate) = [] ∧
    (armed id halted).partQuiet 0 ∧
    (let s := armed (fun x => { x with stopped := true }) vacant
     (find 0 s.parts).any fun pt => pt.stopped && decide (pt.armed = some 400) && pt.savedRes.all s.unitsFree && s.tilesBack pt.ctx &&
       s.slotsGood pt && (s.drawn.restoreAll 0 pt.saved).any (·.hwEnough 0)) := by decide +kernel

/-- Core 0 with a change of its hawk. -/
def hawk (f : Power → Power) : State := base.modCore 0 fun c => { c with power := f c.power }

/-- Core 0 with a control word of its field book. -/
def booked (ctl : Word) : State := base.modCore 0 fun c => { c with fb := { c.fb with ctl := ctl, state := 0 } }

/-- The array of cluster 0 drew energy in the 100 ns that ended at tick 500, and draws none now; a ballast began at a tick. -/
def fallen (since : Option Nat) : State :=
  (base.modDie 0 fun d => { d with energy := List.replicate 18 3 }).modCluster 0 fun c => { c with
    draws := [{ part := 0, window := 4, cur := 1000, last := 0, ran := since.isSome, since := since }] }

theorem wit_powerEvents :
    (let s := { base with now := 2000, cores := [] }
     s.now % 1000 = 0 ∧ s.passed ≠ some s.now ∧ s.answers ∧ s.cores.any (fun c => s.fbDue c.1) = false) ∧
    (let s := { hawk (fun w => { w with transit := 7 }) with passed := some 0 }
     0 < s.now ∧ s.answers ∧ (s.allCores.filter fun p => decide (0 < (s.core p).power.transit) || !(s.core p).power.offers.isEmpty) ≠ []) ∧
    (∀ s ∈ [fallen none, fallen (some 400)],
     s.isCore (8 * 0) ∧ (find 0 s.parts).isSome ∧ s.charge (8 * 0) 16 ≠ 0 ∧ !(s.cluster 0).qa ∧ s.answers ∧ s.ballastDue 0 0) ∧
    (let s := { base with now := 2000 }
     s.isCore 0 ∧ s.answers ∧ s.now % 1000 = 0 ∧ (s.core 0).power.sampled ≠ some s.now) ∧
    (let s := hawk fun w => { w with temp := 480 }
     0 < s.dieCount ∧ (s.die 0).powered ∧ s.cores.any fun x => dieOf x.1 = 0 && decide (480 ≤ x.2.power.temp.toInt)) ∧
    ((booked 0).isCore 0 ∧ (booked 0).fbDue 0 ∧ (coreOwes 0 ((booked 0).core 0)).all fun f => !isNext (f (booked 0))) ∧
    (let s := { booked 0x24 with now := 1024 }
     fieldNat (s.core 0).fb.ctl 5 3 ≠ 0 ∧ (s.core 0).fb.ctl.getLsbD 2 ∧ s.now % 2 ^ (fieldNat (s.core 0).fb.ctl 5 3 + 9) = 0 ∧
      (s.core 0).fb.sampled ≠ some s.now) := by decide +kernel

/-- Port 0 in a state. -/
def ported (f : Port → Port) : State := { base with ports := [(0, f Port.init)] }

/-- A flit of class 0 in sequence that reads. -/
def flit0 : Flit := { cls := 0, seq := 0, ack := 0, fctx := 1, good := true, addr := 0x4000, write := false, data := 0, bytes := 0xFF, poison := false, unsup := false }

theorem wit_resetAndLinkEvents :
    (let s := base.modDie 0 fun d => { d with skimState := 1, skimTotal := 1, skimJob := [{ kind := 0, unit := 0, off := 0, len := 4096 }] }
     (s.die 0).skimState = 1 ∧ (s.die 0).skimDone < (s.die 0).skimTotal ∧ (skimUnitAt (s.die 0).skimJob (s.die 0).skimDone).isSome) ∧
    base.hostUp ∧ (∀ d ∈ base.dies, d.2.t4 = false) ∧
    base.owner / 4096 ≠ 1 ∧ (owned 0x1001).owner / 4096 = 1 ∧ (owned 0x1001).hostUp ∧ (∀ d ∈ (owned 0x1001).dies, d.2.t4 = false) ∧
    (∀ skim ∈ [0, 1], let s := { base with hdmsz := 2 ^ 30 }
     let s := s.modDie 0 fun d => { d with skimState := skim, skimTotal := 1, skimJob := [{ kind := 3, unit := 0, off := s.unstripe none 8, len := 64 }] }
     8 % 8 = 0 ∧ 8 < s.hdmsz ∧ s.hostUp ∧ s.answers ∧ (s.skimmed (s.unstripe none 8) = decide (skim = 1))) ∧
    (ported id).isPort 0 ∧ (ported id).ready ∧ ((ported id).port 0).state = 0 ∧ ((ported fun x => { x with state := 1 }).port 0).state = 1 ∧
    (let s := { ported (fun x => { x with state := 1 }) with now := 50000000 }
     (s.port 0).state = 1 ∧ (s.port 0).trainAt + 50000000 ≤ s.now) ∧
    (let s := ported fun x => { x with state := 2 }
     s.answers ∧ (s.port 0).state = 2 ∧ flit0.good ∧ flit0.seq % 1024 = (s.port 0).expect ∧ flit0.cls = 0 ∧ flit0.addr.toNat % 8 = 0 ∧
      ((s.port 0).acked (flit0.ack % 1024)).replay.length < 512) ∧
    (let s := ported fun x => { x with state := 1 }
     s.now < (s.port 0).trainAt + 50000000) ∧
    (∀ flit ∈ [{ flit0 with good := false }, { flit0 with seq := 5 }], flit.good = false ∨ flit.seq % 1024 ≠ (ported id |>.port 0).expect) ∧
    (let s := ported fun x => { x with state := 2, sendSeq := 1, replay := [flit0] }
     s.answers ∧ ((s.port 0).acked 0).replay ≠ [] ∧ (s.port 0).fails < 8) := by decide +kernel

/-! Encodings, steps, memory, registers, traps. -/

theorem wit_decodeOfEncode : (Instr.add h0 9 10 11).wf = true ∧ encode (.add h0 9 10 11) ≠ [] ∧ (Instr.sig (ecw 0 77 8)).wf = true := by decide +kernel
theorem wit_encodeOfDecode : decodeWord 0x002F8150500000B0 = .ok (.bfx h0 21 5 48 2) := rfl

/-- The next choice is the turn of core 0's control strand, whose instruction store holds a word at its program counter. -/
def next (w : Word) : State := { base.modCore 0 (fun c => { c with istore := [(0x1000, w)] }) with agenda := [.issue 0 0] }

theorem wit_stepRunsDecoded :
    (let w := (encode (.add h0 9 10 11)).getD 0 0
     let s := next w
     s.rest.canIssue 0 0 ∧ s.rest.failedSnag 0 0 = none ∧ s.rest.asyncDue 0 0 = none ∧ s.rest.ahead 0 0 = false ∧
      find (s.rest.strand 0 0).pc.toNat (s.rest.core 0).istore = some w ∧ decodeWord w = .ok (.add h0 9 10 11)) ∧
    (let s := { working cpyGood with agenda := [.engine 0 0] }
     (s.rest.core 0).headCmd 0 = some cpyGood ∧ cpyGood.eop = 0x40) := by decide +kernel
theorem wit_stepRunsCommand : (Instr.cpy cpyGood.ecw, cpyGood.eop, cpyRun false) ∈ commandsOf cpyGood.ecw := by
  simp [commandsOf, cpyGood, cmdOf]
theorem wit_undecodable :
    (let s := next 0xFFFFFFFFFFFFFFFF
     s.rest.canIssue 0 0 ∧ s.rest.failedSnag 0 0 = none ∧ s.rest.asyncDue 0 0 = none ∧ s.rest.ahead 0 0 = false ∧
      find (s.rest.strand 0 0).pc.toNat (s.rest.core 0).istore = some 0xFFFFFFFFFFFFFFFF ∧ decodeWord 0xFFFFFFFFFFFFFFFF matches .error _) ∧
    (let s := { base with agenda := [.issue 0 0] }
     s.rest.canIssue 0 0 ∧ s.rest.failedSnag 0 0 = none ∧ s.rest.asyncDue 0 0 = none ∧ s.rest.ahead 0 0 = false ∧
      find (s.rest.strand 0 0).pc.toNat (s.rest.core 0).istore = none ∧ s.rest.imageWord 0 (s.rest.strand 0 0).pc = none) := by decide +kernel

/-- What an outcome's next state satisfies. -/
def nextIs (o : Host.Outcome State Fault Refusal) (f : State → Bool) : Bool := match o with
  | .next s => f s
  | _ => false

/-- Stepping a word that stores: the memory before it is in canonical form, and there is a next state. -/
theorem wit_stepKeepsMemory : Memory.wf (next ((encode (.add h0 9 10 11)).getD 0 0)).mem ∧
    nextIs (step (next ((encode (.add h0 9 10 11)).getD 0 0))) fun _ => true := by decide +kernel
theorem wit_storesLand : ∀ kd ∈ [AccKind.load, .lds, .store, .stf, .feclr, .atomic, .reduction, .mxq, .table, .acc],
    let o := { loadAt (tcm 0x1000) with kind := kd, row := none, data := 0x0102030405060708, sva := tcm 0x1100, codes := natBytes 8 5 }
    let s := (flying o).setFull (tcmBase 0 + 0x1000) true
    (s.core 0).opAt 3 0 = some o ∧ (leads (s.access 0 o) fun l _ host => decide (l = tcmBase 0 + 0x1000) && !host) ∧ !s.paired 0 ∧
      nextIs (exec (.memoryAccessPerformed 0 3 0) s) fun _ => true := by decide +kernel

/-- Operations that words have issued can be performed next. -/
theorem wit_lands : ∀ i ∈ [Instr.ld h0 9 10 0 4 0 0, .st h0 9 10 0 4 0 0, .stf h0 9 10 0 4 0, .feclr h0 10 0 4 0, .aadd h0 9 10 11 4 0 0,
    .radd h0 9 10 0 4 0 0, .ldv h0 3 10 0 4 0, .lds h0 9 10 11 4 0 0],
    nextIs (exec i ((withS [(10, tcm 0x1000), (11, 1000)]).setFull (tcmBase 0 + 0x1000) true)) fun t => (t.core 0).ops.head?.any fun o =>
      t.opReady 0 o && !t.paired 0 && leads (t.access 0 o) fun l _ host => t.mayPerform 0 o l host := by decide +kernel

/-- Little-endian: the least significant byte at the lowest address. -/
theorem test_store_bytes :
    let o := { loadAt (tcm 0x1000) with kind := .store, row := none, data := 0x0102030405060708 }
    nextIs (exec (.memoryAccessPerformed 0 3 0) (flying o)) (fun t => t.byte (tcmBase 0 + 0x1000) == 8 && t.byte (tcmBase 0 + 0x1007) == 1) := by decide +kernel

/-- A line that key 2 wrote: with key 2 a store of one byte leaves the others as they were, and a store without a key takes the line out of the list
(R385). -/
theorem test_store_keyed :
    let s := base.store (0x10000 + 2 * 2 ^ 64) [1, 2]
    let t := s.store (0x10001 + 2 * 2 ^ 64) [7]
    t.byte (0x10000 + 2 * 2 ^ 64) = 1 ∧ t.byte (0x10001 + 2 * 2 ^ 64) = 7 ∧ look 0 0x400 t.keyed = 2 ∧
      look 0 0x400 (t.store 0x10000 [3]).keyed = 0 ∧ (t.store 0x10000 [3]).byte 0x10000 = 3 := by
  have h := byte_store base (0x10000 + 2 * 2 ^ 64) (0x10000 + 2 * 2 ^ 64) [1, 2] rfl
  have h1 := byte_store (base.store (0x10000 + 2 * 2 ^ 64) [1, 2]) (0x10001 + 2 * 2 ^ 64) (0x10000 + 2 * 2 ^ 64) [7] rfl
  have h2 := byte_store (base.store (0x10000 + 2 * 2 ^ 64) [1, 2]) (0x10001 + 2 * 2 ^ 64) (0x10001 + 2 * 2 ^ 64) [7] rfl
  have h3 := byte_store ((base.store (0x10000 + 2 * 2 ^ 64) [1, 2]).store (0x10001 + 2 * 2 ^ 64) [7]) 0x10000 0x10000 [3] rfl
  refine ⟨h1.trans h, h2, by decide +kernel, by decide +kernel, h3⟩

theorem wit_registerNames : (base.destOf 0 0 0 9).row ≠ (base.strand 0 0).wb ∧ (base.core 0).busy (base.destOf 0 0 0 9).row = false ∧
    (base.core 0).busy (base.opRow 0 0 (dV 9)) = false ∧ (base.core 0).busy (base.strand 0 0).wb = false ∧ (base.core 0).locks = [] := by
  decide +kernel

/-- A late result whose cycle has come, to a free row; one that is not due; one to a locked row. -/
theorem wit_lateResults :
    let l : Late := { id := 0, due := 5, row := 3, mask := ~~~0, value := 1 }
    let c : Core := { Core.init with late := [l] }
    (c.cycle < l.due) ∧ ({ c with locks := [3] }.locked 3 = true) ∧ (l.due ≤ { c with cycle := 9 }.cycle) ∧
      { c with cycle := 9 }.locked 3 = false ∧ { c with cycle := 9 }.blocked 0 3 (~~~0) = false := by decide +kernel
theorem wit_wordChecks : (base.core base.focus.pcid).gang = none := by decide +kernel

/-- S[0xFF] is in row 31 of the window of 32; row 32 is the first outside. -/
theorem wit_limitTraps :
    (base.core 0).gang = none ∧ (base.strand 0 0).past = false ∧ h0.na ≠ 6 ∧ base.trapHeld 0 { cause := 4, code := 2, info := 32 } [0] = false ∧
    ([dV 31, aV 32, bV 33].find? fun o => !base.opInWindow 0 0 o) = some (aV 32) ∧ ([dV 255, aV 31, bV 31].find? fun o => !base.opInWindow 0 0 o) = some (dV 255) ∧
    ([dS 9, aS 10, bS 11, cS 255].find? fun o => !(base.modStrand 0 0 fun t => { t with wl := 8 }).opInWindow 0 0 o) = some (cS 255) ∧
    ([dS 255, aS 255, bS 8].find? fun o => !base.opInWindow 0 0 o) = none ∧ ([dV 3, aS 255].find? fun o => !base.opInWindow 0 0 o) = none := by decide +kernel

/-- A word with an operand C goes by the checks of its operands. -/
theorem wit_limitWords : ∀ s, ∃ body : Body, exec (.ffma h0 9 10 11 12 0 0) s = runWord h0 (specS [dS 9, aS 10, bS 11, cS 12] 4) body s := fun _ => ⟨_, rfl⟩

/-- A limit trap. -/
def limitTrap : Trap := { cause := 4, code := 0, info := 255 }

/-- Core 0 with a handler for limit traps at 0x3000 (bit 57 of header word 7). -/
def handler : State := withS [(7, fields [(0x3000 / 8, 3), (1, 57)])]

/-- Core 0 with a supervisor at 0x4000, in rows 256 to 287. -/
def supervised : State := base.modCore 0 fun c => { c with sup := { c.sup with tvec := 0x4000, twb := 256, twl := 32 } }

theorem wit_trapDelivery :
    (base.strand 0 0).wb < 1024 ∧ (base.strand 0 0).wl < 512 ∧ (helped.strand 0 1).wb < 1024 ∧ (helped.strand 0 1).wl < 512 ∧
    ((handler.hword 0 0 7).getLsbD 57 = true ∧ (handler.hword 0 0 7).getLsbD 60 = false) ∧
    ((supervised.hword 0 0 7).getLsbD 57 = false ∧ (supervised.core 0).sup.sv = false ∧ (supervised.core 0).sup.tvec ≠ 0 ∧
      (supervised.core 0).sup.twl ≠ 0 ∧ (supervised.strand 0 0).eb ≤ 256 ∧ 256 + 32 ≤ (supervised.strand 0 0).eb + (supervised.strand 0 0).el) ∧
    ((superv.core 0).sup.sv = true ∧ (superv.core 0).place.isSome ∧ (find 1 superv.insts).any (·.status.isNone)) ∧
    (base.core 0).sup.tvec = 0 ∧ (handler.core 0).late = [] ∧ (handler.core 0).locks = [] ∧ (supervised.core 0).late = [] ∧
    (supervised.core 0).locks = [] := by decide +kernel
theorem wit_waitEnd : (∀ m, (base.core 0).blocked 0 0 m = false) ∧ (base.core 0).locked 0 = false ∧
    (base.newWait 0 (.waitseq 0 1 0 2) 5 0 none h0).dest = none ∧ (base.newWait 0 (.waitseq 0 1 0 2) 5 0 none h0).kind matches .waitseq _ _ _ _ :=
  ⟨fun _ => rfl, by decide +kernel⟩

/-- Group 1 without members; with core 0 alone; with cores 0 and 1. -/
theorem wit_barrierPhase :
    base.instOf 0 = some (1, newInst 1 tract0 0 0 0 0) ∧ (find 1 base.insts).isSome ∧ ((newInst 1 tract0 0 0 0 0).group 2).bound = false ∧
    ((newInst 1 tract0 0 0 0 0).group 1).bound = true ∧ base.relOf 0 ∈ ((newInst 1 tract0 0 0 0 0).group 1).members ∧
    base.relOf 0 ∉ ((newInst 1 tract0 0 0 0 0).group 1).arr ∧
    ((arrived.instOf 0).any fun y => (y.2.group 1).bound && (y.2.group 1).arr.contains (arrived.relOf 0)) ∧
    (let i := newInst 1 { tract0 with p := 2, masks := [[0, 1], [], []] } 0 0 0 0
     (i.group 1).bound ∧ base.relOf 0 ∈ (i.group 1).members ∧ ∃ m ∈ (i.group 1).members, m ≠ base.relOf 0 ∧ m ∉ (i.group 1).arr) := by decide +kernel

/-- Values that a register takes and values that it ignores: quotas inside and outside their pool, the fields of CORE_TCMSUP, a partition that keeps
the stripe where it is. -/
theorem wit_specialRegisters :
    (let total (m : Nat) := ((List.range 16).map fun i => if i = 0 then m else look 4 i (base.core 0).eqMin).foldl (· + ·) 0
     total 4 ≤ 64 ∧ 64 < total 65) ∧ 5 ≤ look 64 0 (base.core 0).eqCap ∧ ¬70 ≤ look 64 0 (base.core 0).eqCap ∧
    look 4 0 (base.core 0).eqMin ≤ 9 ∧ 3 < look 4 0 (base.core 0).eqMin ∧
    fieldNat (0x21E : Word) 0 5 + fieldNat (0x21E : Word) 8 6 ≤ 32 ∧ 32 < fieldNat (0x3F1F : Word) 0 5 + fieldNat (0x3F1F : Word) 8 6 ∧
    State.reset.parts = [] ∧ base.parts ≠ [] := by decide +kernel

/-- The frames' hypotheses: a word that runs, writes one register, and completes. -/
theorem wit_registerFrame : WritesReg h0 false 9 (ofAB 1 9 10 11 (· + ·)) ∧ (base.core base.focus.pcid).gang = none ∧
    clear base h0 (specS [dS 9, aS 10, bS 11] 1) ∧ (nextIs (exec (.add h0 9 10 11) base) fun _ => true) ∧
    (specS [dS 9, aS 10, bS 11] 1).noHeader = false ∧ base.untraced 0 h0 ∧ ¬(booked 0x14).untraced 0 { h0 with na := 1 } ∧
    nextIs (exec (.add { h0 with na := 1 } 9 10 11) (booked 0x14)) fun _ => true :=
  ⟨.inl ⟨rfl, 1, _, .inl rfl⟩, by decide +kernel⟩
theorem wit_memoryFrame : issues (withS [(10, tcm 0x1000)]) (specM [dSrc 9, aS 10] true) 8 (one .store 0) ∧
    nextIs (exec (.st h0 9 10 0 4 0 0) (withS [(10, tcm 0x1000)])) fun _ => true := by decide +kernel

/-- A stopped partition whose switch is armed, with an image slot at 0x10000 whose first word is as given. -/
def slotted (w : Nat) : State :=
  armed (fun x => { x with stopped := true, slots := [(0, 0)] })
    { vacant.store 0x10000 (natBytes 8 w) with ctxs := [(1, { ctx0 with save := 0x10000 })] }

theorem slotGood_false {s : State} {ctx log b l : Nat} {save : Word} {rs host : Bool}
    (hr : s.reachCtx ctx (save + word64 (2 ^ 20 * log + 8 * 0)) false = .loc l rs host) (hl : s.loadWord l ≠ Config.freeWord (b + 0)) :
    s.slotGood ctx save log b = false := by
  unfold State.slotGood
  simp only [hr, decide_eq_false hl, Bool.false_and]

theorem slotted_reach : ∀ w ∈ [0, 1], (leads ((slotted w).reachCtx 1 (0x10000 + word64 (2 ^ 20 * 0 + 8 * 0)) false) fun l rs host => l == 0x10000 && !rs && !host) ∧
    (slotted w).loadWord 0x10000 = BitVec.ofNat 64 w := by decide +kernel

theorem slotted_good (w : Nat) (hw : w ∈ [0, 1]) (hf : BitVec.ofNat 64 w ≠ Config.freeWord 0) : (slotted w).slotGood 1 0x10000 0 0 = false := by
  obtain ⟨hr, hl⟩ := slotted_reach w hw
  unfold leads at hr
  split at hr
  · rename_i l rs host e
    simp only [Bool.and_eq_true, beq_iff_eq] at hr
    exact slotGood_false (l := l) e (by rw [hr.1.1, hl]; simpa using hf)
  · cases hr

/-- The image of a stopped partition does not match: the word in the slot is not the free value that was written there. -/
theorem wit_badSlot : ∃ w ∈ [0, 1], (find 0 (slotted w).parts).any (fun pt => pt.stopped && decide (pt.armed = some 400) && (slotted w).hwEnough 0 &&
    pt.savedRes.all (slotted w).unitsFree && (slotted w).tilesBack pt.ctx) ∧ ∀ pt, find 0 (slotted w).parts = some pt → (slotted w).slotsGood pt = false := by
  have h : ∀ w ∈ [0, 1], (find 0 (slotted w).parts).any (fun pt => pt.stopped && decide (pt.armed = some 400) && (slotted w).hwEnough 0 &&
      pt.savedRes.all (slotted w).unitsFree && (slotted w).tilesBack pt.ctx) := by decide +kernel
  have g (w : Nat) (hw : w ∈ [0, 1]) (hf : BitVec.ofNat 64 w ≠ Config.freeWord 0) (pt : Partition) (e : find 0 (slotted w).parts = some pt) :
      (slotted w).slotsGood pt = false := by
    have e2 : find 0 (slotted w).parts = some { part0 with armed := some 400, stopped := true, slots := [(0, 0)] } := rfl
    rw [e2] at e
    cases e
    exact (Bool.and_true _).trans (slotted_good w hw hf)
  by_cases hf : BitVec.ofNat 64 0 = Config.freeWord 0
  · exact ⟨1, by simp, h 1 (by simp), g 1 (by simp) (by rw [← hf]; decide)⟩
  · exact ⟨0, by simp, h 0 (by simp), g 0 (by simp) hf⟩

/-! ## Worked examples of the text -/

/-- The machine-check record after R404: core 2,441, instance 5, superstep 17. -/
theorem test_machineCheckRecord :
    let c : Core := { Core.init with exch := { Core.init.exch with count := 17 }, place := some { part := 0, ctx := 1, log := 0, inst := 1, rel := 0, twin := 0, mate := 0 } }
    { base with now := 5000000000, cores := [(2441, c)], insts := [(1, newInst 1 tract0 0 0 5 0)] }.mcWords 2441
      { cause := 2, unit := 3, lane := 6, op := 0x103, eop := 0, pc := 0x100000238, obs := 6, expected := 4 } =
    (0x230640C000000989, 0x100000238, 0x1100000005, 0x00012A05F2000604) := by decide +kernel

/-- After R347: the shares of 1,000 instances, and what die 3 takes from die 1. -/
theorem test_shares : shares 1000 [100, 200, 100, 100] 0 = [(0, 0, 200), (1, 200, 600), (2, 600, 800), (3, 800, 1000)] ∧
    steal 3 [(0, 200, 200), (1, 450, 600), (2, 700, 800), (3, 1000, 1000)] = [(0, 200, 200), (1, 450, 525), (2, 700, 800), (3, 525, 600)] := by decide +kernel

/-- After R245: FP32 1.0, 1.0625 + 2^−20 and −0.0 to E4M3 in bytes 32 to 34. -/
theorem test_vfnarrow : vOf (.vfnarrow h0 20 8 4 22 3 0 0)
      (withS [(4, 2)] (withV 32 [(8, [0x3F800000, 0x3F880008, 0x80000000])] (withV 8 [(20, List.replicate 64 0x11)]))) 20 8 64 =
    some (List.replicate 32 0x11 ++ [0x38, 0x39, 0x80] ++ List.replicate 13 0 ++ List.replicate 16 0x11) := by decide +kernel
/-- After R248. -/
theorem test_vcompExample : vOf (.vcomp h0 5 4 2 0 0) (withS [(4, 0xA50000)] (withV 32 [(4, (List.range 16).map (· + 10))])) 5 32 6 = some [10, 12, 15, 17, 0, 0] := by
  decide +kernel
theorem test_qpop : sOf (.qpop h0 6 2) (withS [(4, 0xA50000)]) 6 = some 4 := by decide +kernel

/-- After R170: MAG of 2 · 2^298 gives exactly 2.0; 1.0 is added as bit 298. -/
theorem test_larnd : sOf (.larnd h0 12 9 0 0) ((withS [(9, tcm 0x2000)]).store (tcmBase 0 + 0x2028) (natBytes 8 (2 ^ 43))) 12 = some 0x40000000 := by
  decide +kernel
theorem test_laadd : after (exec (.laadd h0 9 10 1) (withS [(9, tcm 0x2000), (10, 0x3F800000)]))
    (fun t => ((t.core 0).ops.find? fun o => o.va = tcm 0x2028).map fun o => o.data.toNat) = some (some (2 ^ 42)) := by decide +kernel

/-- After R217: X at window base 10 swaps to Y's window at base 14, limit 7. -/
theorem test_wswap :
    let s := withV 64 [(11, [0, 0x0007000E]), (14, [0x2000])] (base.modStrand 0 0 fun t => { t with wb := 10, wl := 4, el := 64 })
    after (exec (.wswap h0 9) s) (fun t => ((t.strand 0 0).wb, (t.strand 0 0).wl, (t.strand 0 0).pc.toNat, (rowWord (t.row 0 10) 0).toNat)) =
      some (14, 7, 0x2000, 0x1008) := by decide +kernel

/-- A delegated limit trap in a window at base 27, limit 4: the frame that the text gives. -/
theorem test_ownFrame :
    let s := (base.modStrand 0 0 fun t => { t with pc := 0x1000000C8, wb := 27, wl := 4 }).blendRow 0 27 (~~~0)
      (rowOfLanes 64 [0, 0, 0, 0, 0, 0, 0, (fields [(0x3000 / 8, 3), (1, 57)]).toNat])
    let f := ((s.trapAll 0 { cause := 4, code := 0, info := 32 } [0]).strand 0 0).frame
    (f.w0, f.w1, f.w2, f.w3) = (0x0004001B00100004, 0x1000000C8, 0x1000000D0, 32) := by decide +kernel

/-- R86: byte 0x8040 of the scratchpad that holds logical core 37. -/
theorem test_aperture : apertureAt 3 37 0x8040 = 0x01FFFF6025008040 := by decide +kernel
/-- After R457. -/
theorem test_rstcause : { base with rstKind := 1, rstT4 := true, rstT4die := 2, rstTick := 8200000000 }.rstcause = 0x70000001E8C21200 := by decide +kernel

/-- R334: HALT stops the core until CTXLD; R26, R174: END of the control strand ends the core's part. -/
theorem test_halt : after (exec (.halt h0) superv) (fun t => (t.core 0).halt) = some true := by decide +kernel
theorem test_end : after (exec (.add { h0 with na := 7 } 9 10 11) base) (fun t => ((t.core 0).ended, (t.strand 0 0).live)) = some (true, false) := by
  decide +kernel

end Sys2Proof.Tests
end

/-! PROOFS. The registers by number: what each read returns, what each write stores, and what comes back (R6, R331, R377). -/

namespace Sys2Proof.Machine

/-! ## Fields and flags of a word -/

theorem fieldNat_eq {w : Nat} (x : BitVec w) (lo n : Nat) : fieldNat x lo n = x.toNat / 2 ^ lo % 2 ^ n := by
  simp [fieldNat, BitVec.extractLsb'_toNat, Nat.shiftRight_eq_div_pow]

theorem fieldNat_lt {w : Nat} (x : BitVec w) (lo n : Nat) : fieldNat x lo n < 2 ^ n := BitVec.isLt _

/-- A bit of a field that stands in its place. -/
theorem getLsbD_fieldAt (a lo n i : Nat) :
    (word64 (fieldAt a lo n)).getLsbD i = (decide (i < 64) && decide (lo ≤ i) && decide (i < lo + n) && a.testBit (i - lo)) := by
  simp only [word64, fieldAt, BitVec.getLsbD_ofNat, Nat.testBit_mul_two_pow, Nat.testBit_mod_two_pow]
  by_cases h : lo ≤ i
  · by_cases h2 : i < lo + n
    · simp [h, h2, show i - lo < n by omega]
    · simp [h, h2, show ¬i - lo < n by omega]
  · simp [h]

/-- Of a word the bits of one field. -/
theorem and_bitMask (v : Word) (lo n : Nat) : v &&& bitMask lo n = word64 (fieldAt (fieldNat v lo n) lo n) := by
  ext i hi
  have hm : (bitMask lo n)[i] = (decide (lo ≤ i) && decide (i - lo < n)) := by
    rw [← BitVec.getLsbD_eq_getElem, bitMask, BitVec.getLsbD_ofNat, Nat.testBit_mul_two_pow, Nat.testBit_two_pow_sub_one]
    simp [hi]
  rw [← BitVec.getLsbD_eq_getElem (x := word64 _), getLsbD_fieldAt, BitVec.getElem_and, hm, fieldNat, BitVec.testBit_toNat,
    BitVec.getLsbD_extractLsb', ← BitVec.getLsbD_eq_getElem]
  by_cases h : lo ≤ i
  · by_cases h2 : i - lo < n
    · simp [h, h2, hi, show i < lo + n by omega]
    · simp [h2]
  · simp [h]

/-- A field above a number is beside its bits. -/
theorem word64_add_fieldAt {x lo : Nat} (h : x < 2 ^ lo) (a n : Nat) : word64 (x + fieldAt a lo n) = word64 x ||| word64 (fieldAt a lo n) := by
  have e : x + fieldAt a lo n = x ||| fieldAt a lo n := by
    rw [fieldAt, Nat.mul_comm, Nat.add_comm, Nat.two_pow_add_eq_or_of_lt h, Nat.or_comm]
  rw [e, word64, BitVec.ofNat_or]
  rfl

/-- Two fields of a word, in place. -/
theorem word64_two_fields (v : Word) {lo n hi : Nat} (m : Nat) (h : lo + n ≤ hi) :
    word64 (fieldAt (fieldNat v lo n) lo n + fieldAt (fieldNat v hi m) hi m) = v &&& (bitMask lo n ||| bitMask hi m) := by
  have hx : fieldAt (fieldNat v lo n) lo n < 2 ^ hi := by
    refine Nat.lt_of_lt_of_le ?_ (Nat.pow_le_pow_right (by decide) h)
    rw [fieldAt, Nat.pow_add, Nat.mul_comm]
    exact Nat.mul_lt_mul_of_pos_left (Nat.mod_lt _ (Nat.two_pow_pos n)) (Nat.two_pow_pos lo)
  rw [word64_add_fieldAt hx, BitVec.and_or_distrib_left, and_bitMask, and_bitMask]

/-- The lowest field of a word is what the word's mask leaves. -/
theorem word64_fieldNat (v : Word) (n : Nat) : word64 (fieldNat v 0 n) = v &&& bitMask 0 n := by
  rw [and_bitMask, fieldAt, Nat.mod_eq_of_lt (fieldNat_lt v 0 n), Nat.pow_zero, Nat.mul_one]

/-- An aligned field of a word as a value. -/
theorem word64_fieldNat_mul (v : Word) (lo n : Nat) : word64 (fieldNat v lo n * 2 ^ lo) = v &&& bitMask lo n := by
  rw [and_bitMask, fieldAt, Nat.mod_eq_of_lt (fieldNat_lt v lo n)]

/-! ## The registers of a core and of its cluster -/

/-! ### Reads by number -/

section
variable (s : State) (p k : Nat)

theorem coreRead_rbloss {j : Nat} (hj : j < 8) : (s.coreRead p k (0x040 + j)).1 = look 0 j (s.core p).rbloss := by
  interval_cases j <;> rfl
theorem coreRead_tcmsup : (s.coreRead p k 0x050).1 = (s.core p).sup.tcmsup := rfl
theorem coreRead_ptbr : (s.coreRead p k 0x051).1 = (s.core p).sup.ptbr := rfl
theorem coreRead_dtstat : (s.coreRead p k 0x052).1 = word64 (flagAt (s.core p).v4 0 + flagAt (s.core p).v8 1) := rfl
theorem coreRead_srseed : (s.coreRead p k 0x053).1 = (s.core p).srseed := rfl
theorem coreRead_ufcnt : (s.coreRead p k 0x054).1 = (s.core p).ufcnt := rfl
theorem coreRead_esc : (s.coreRead p k 0x055).1 = word64 (fieldAt (s.core p).escThresh 0 10 + fieldAt (s.core p).escTraps 32 32) := rfl
theorem coreRead_sscnt : (s.coreRead p k 0x056).1 = word64 (s.core p).exch.count := rfl
theorem coreRead_snagto : (s.coreRead p k 0x057).1 = word64 (s.core p).sup.snagto := rfl
theorem coreRead_tvec : (s.coreRead p k 0x058).1 = (s.core p).sup.tvec ||| word64 (flagAt (s.core p).sup.snage 63) := rfl
theorem coreRead_hawk : (s.coreRead p k 0x060).1 = (s.core p).power.hawk := rfl
theorem coreRead_therm : (s.coreRead p k 0x061).1 = (s.core p).power.therm := rfl
theorem coreRead_fbtail : (s.coreRead p k 0x064).1 = (s.core p).fb.tail := rfl
theorem coreRead_tcmecc : (s.coreRead p k 0x06B).1 =
    eccWord (s.core p).health.corr (s.core p).health.eccState (s.core p).health.bank (s.core p).health.prog := rfl
theorem coreRead_cspecc : (s.coreRead p k 0x06E).1 = eccWord (s.cluster (cluOf p)).cspCorr (s.cluster (cluOf p)).cspState
    (s.cluster (cluOf p)).cspBank (s.cluster (cluOf p)).cspProg := rfl
theorem coreRead_twin : (s.coreRead p k 0x06F).1 =
    word64 (fieldAt (s.core p).sup.twb 0 10 + fieldAt (s.core p).sup.twl 16 9 + flagAt (s.core p).sup.sv 63) := rfl
theorem coreRead_snagstat : (s.coreRead p k 0x070).1 = (s.core p).sup.snagstat := rfl
theorem coreRead_wp0 : (s.coreRead p k 0x071).1 = (s.core p).sup.wp0 := rfl
theorem coreRead_wp1 : (s.coreRead p k 0x072).1 = (s.core p).sup.wp1 := rfl
theorem coreRead_tresume : (s.coreRead p k 0x073).1 = word64 (s.core p).stoppedMask := rfl
theorem coreRead_thtrip : (s.coreRead p k 0x078).1 = (s.core p).power.thtrip := rfl
theorem coreRead_rstcause : (s.coreRead p k 0x079).1 = s.rstcause := rfl
theorem coreRead_frame2 {j : Nat} (hj : j ≤ 10) : (s.coreRead p k (0x082 + 4 * j)).1 = ((s.core p).strand j).frame.w2 := by
  interval_cases j <;> rfl
theorem coreRead_eqMin {j : Nat} (hj : j < 16) : (s.coreRead p k (0x0C0 + j)).1 = word64 (look 4 j (s.core p).eqMin) := by
  interval_cases j <;> rfl
theorem coreRead_eqCap {j : Nat} (hj : j < 16) : (s.coreRead p k (0x0D0 + j)).1 = word64 (look 64 j (s.core p).eqCap) := by
  interval_cases j <;> rfl
theorem coreRead_cspslip : (s.coreRead p k 0x100).1 = (s.cluster (cluOf p)).cspslip := rfl
theorem coreRead_mxw : (s.coreRead p k 0x101).1 = (s.cluster (cluOf p)).mxwWord := rfl
theorem coreRead_freq : (s.coreRead p k 0x102).1 = word64 (s.cluster (cluOf p)).freq := rfl
theorem coreRead_pqMin {j : Nat} (hj : j < 8) : (s.coreRead p k (0x108 + j)).1 = word64 (look 64 j (s.cluster (cluOf p)).pqMin) := by
  interval_cases j <;> rfl
theorem coreRead_pqCap {j : Nat} (hj : j < 8) : (s.coreRead p k (0x110 + j)).1 = word64 (look 512 j (s.cluster (cluOf p)).pqCap) := by
  interval_cases j <;> rfl

end

/-! ### Writes by number -/

section
variable (s : State) (p : Nat) (v : Word)

theorem coreWrite_rbloss {j : Nat} (hj : j < 8) :
    s.coreWrite p (0x040 + j) v = s.modCore p fun c => { c with rbloss := put j v c.rbloss } := by
  interval_cases j <;> rfl
theorem coreWrite_tcmsup : s.coreWrite p 0x050 v = if 32 < fieldNat v 0 5 + fieldNat v 8 6 then s
    else s.modCore p fun c => { c with sup := { c.sup with tcmBase := fieldNat v 0 5, tcmLen := fieldNat v 8 6 } } := rfl
theorem coreWrite_srseed : s.coreWrite p 0x053 v = s.modCore p fun c => { c with srseed := v } := rfl
theorem coreWrite_ufcnt : s.coreWrite p 0x054 v = s.modCore p fun c =>
    { c with uf0 := fieldNat v 0 16, uf1 := fieldNat v 16 16, uf2 := fieldNat v 32 16, uf3 := fieldNat v 48 16 } := rfl
theorem coreWrite_esc : s.coreWrite p 0x055 v =
    s.modCore p fun c => { c with escThresh := fieldNat v 0 10, escTraps := fieldNat v 32 32 } := rfl
theorem coreWrite_snagto : s.coreWrite p 0x057 v = s.modCore p fun c => { c with sup := { c.sup with snagto := fieldNat v 0 32 } } := rfl
theorem coreWrite_tvec : s.coreWrite p 0x058 v =
    s.modCore p fun c => { c with sup := { c.sup with snage := v.getLsbD 63, tvec := word64 (fieldNat v 3 54 * 8) } } := rfl
theorem coreWrite_hawk : s.coreWrite p 0x060 v = s.modCore p fun c => { c with power := { c.power with reserve := fieldNat v 48 15 } } := rfl
theorem coreWrite_therm : s.coreWrite p 0x061 v =
    s.modCore p fun c => { c with power := { c.power with t1 := c.power.t1 && !v.getLsbD 16 } } := rfl
theorem coreWrite_fbtail : s.coreWrite p 0x064 v = s.modCore p fun c => { c with fb := { c.fb with tail := v } } := rfl
theorem coreWrite_tcmecc : s.coreWrite p 0x06B v = s.writeTcmecc p v := rfl
theorem coreWrite_cspecc : s.coreWrite p 0x06E v = s.writeCspecc (cluOf p) v := rfl
theorem coreWrite_twin : s.coreWrite p 0x06F v =
    s.modCore p fun c => { c with sup := { c.sup with twb := fieldNat v 0 10, twl := fieldNat v 16 9 } } := rfl
theorem coreWrite_snagstat : s.coreWrite p 0x070 v = s.modCore p fun c =>
    { c with sup := { c.sup with drop := fieldNat v 48 16, tout := fieldNat v 32 16, wplost := fieldNat v 9 7 } } := rfl
theorem coreWrite_wp0 : s.coreWrite p 0x071 v = s.modCore p fun c => { c with sup := { c.sup with wp0 := v &&& ~~~7 } } := rfl
theorem coreWrite_wp1 : s.coreWrite p 0x072 v = s.modCore p fun c => { c with sup := { c.sup with wp1 := v &&& ~~~7 } } := rfl
theorem coreWrite_thtrip : s.coreWrite p 0x078 v = s.modCore p fun c =>
    { c with power := { c.power with t2 := c.power.t2 && !v.getLsbD 4, t3 := c.power.t3 && !v.getLsbD 5 } } := rfl
theorem coreWrite_frame2 {j : Nat} (hj : j ≤ 10) : s.coreWrite p (0x082 + 4 * j) v =
    s.modStrand p j fun t => { t with frame := { t.frame with w2 := v } } := by
  interval_cases j <;> rfl
theorem coreWrite_eqMin {j : Nat} (hj : j < 16) : s.coreWrite p (0x0C0 + j) v =
    s.modCore p fun c => { c with eqMin := writeMin 64 16 4 j (fieldNat v 0 16) c.eqMin c.eqCap } := by
  interval_cases j <;> rfl
theorem coreWrite_eqCap {j : Nat} (hj : j < 16) : s.coreWrite p (0x0D0 + j) v =
    s.modCore p fun c => { c with eqCap := writeCap 4 j (fieldNat v 0 16) c.eqMin c.eqCap } := by
  interval_cases j <;> rfl
theorem coreWrite_cspslip : s.coreWrite p 0x100 v = s.modCluster (cluOf p) fun c => { c with cspslip := v } := rfl
theorem coreWrite_mxw : s.coreWrite p 0x101 v = s.modCluster (cluOf p) fun c =>
    { c with mxw := (List.range 8).foldl (fun m j => put j (fieldNat v (4 * j) 4) m) c.mxw } := rfl
theorem coreWrite_pqMin {j : Nat} (hj : j < 8) : s.coreWrite p (0x108 + j) v =
    s.modCluster (cluOf p) fun c => { c with pqMin := writeMin 512 8 64 j (fieldNat v 0 16) c.pqMin c.pqCap } := by
  interval_cases j <;> rfl
theorem coreWrite_pqCap {j : Nat} (hj : j < 8) : s.coreWrite p (0x110 + j) v =
    s.modCluster (cluOf p) fun c => { c with pqCap := writeCap 64 j (fieldNat v 0 16) c.pqMin c.pqCap } := by
  interval_cases j <;> rfl

/-- A register that its table marks read only keeps its value (R6). -/
theorem coreWrite_read_only {n : Nat} (h : n ≤ 0x03F ∨ n ∈ [0x051, 0x052, 0x056, 0x062, 0x063, 0x065, 0x066, 0x067, 0x068, 0x069, 0x06C,
    0x06D, 0x074, 0x075, 0x076, 0x077, 0x079, 0x102]) : s.coreWrite p n v = s := by
  rcases h with h | h
  · interval_cases n <;> rfl
  · simp only [List.mem_cons, List.not_mem_nil, or_false] at h
    obtain rfl | rfl | rfl | rfl | rfl | rfl | rfl | rfl | rfl | rfl | rfl | rfl | rfl | rfl | rfl | rfl | rfl | rfl := h <;> rfl

end

/-! ### After reset -/

/-- Right after reset no core, cluster or die is listed. -/
theorem core_reset (p : Nat) : State.reset.core p = Core.init := rfl
theorem cluster_reset (n : Nat) : State.reset.cluster n = Cluster.init := rfl

/-- Settles O58: each register is read by its equation, from a core and a cluster that hold what the unlisted hold. -/
theorem resetRegisters : Obligations.ResetRegisters := by
  unfold Obligations.ResetRegisters
  refine ⟨fun p k => ?_, by decide +kernel, by decide +kernel, rfl, rfl, fun _ => rfl, fun _ => ⟨rfl, rfl, rfl, rfl⟩⟩
  simp only [coreRead_tcmsup, coreRead_ptbr, coreRead_dtstat, coreRead_srseed, coreRead_ufcnt, coreRead_esc, coreRead_sscnt, coreRead_snagto,
    coreRead_tvec, coreRead_hawk, coreRead_twin, coreRead_snagstat, coreRead_wp0, coreRead_wp1, coreRead_tresume, coreRead_rstcause,
    coreRead_mxw, coreRead_freq, core_reset, cluster_reset]
  iterate 18 refine ⟨by decide +kernel, ?_⟩
  refine ⟨fun j hj => ⟨?_, ?_⟩, fun j hj => ⟨?_, ?_⟩⟩
  · rw [coreRead_eqMin _ p k hj]; rfl
  · rw [coreRead_eqCap _ p k hj]; rfl
  · rw [coreRead_pqMin _ p k hj]; rfl
  · rw [coreRead_pqCap _ p k hj]; rfl

/-! ### What comes back -/

theorem flagAt_eq (b : Bool) (n : Nat) : flagAt b n = fieldAt b.toNat n 1 := by cases b <;> simp [flagAt, fieldAt]

theorem getLsbD_flagAt (b : Bool) (n i : Nat) : (word64 (flagAt b n)).getLsbD i = (decide (i < 64) && b && decide (i = n)) := by
  rw [flagAt_eq, getLsbD_fieldAt]
  by_cases h : i = n
  · subst h; cases b <;> simp
  · have : ¬(n ≤ i ∧ i < n + 1) := by omega
    cases b
    · simp
    · simp [h]; omega

section
variable (s : State) (p k : Nat) (v : Word)

theorem readBack_srseed : ((s.coreWrite p 0x053 v).coreRead p k 0x053).1 = v := by
  rw [coreWrite_srseed, coreRead_srseed, core_modCore_same]

theorem readBack_ufcnt : ((s.coreWrite p 0x054 v).coreRead p k 0x054).1 = v := by
  rw [coreWrite_ufcnt, coreRead_ufcnt, core_modCore_same]
  simp only [Core.ufcnt, fieldNat_eq]
  apply BitVec.eq_of_toNat_eq
  rw [BitVec.toNat_ofNat]
  omega

theorem readBack_fbtail : ((s.coreWrite p 0x064 v).coreRead p k 0x064).1 = v := by
  rw [coreWrite_fbtail, coreRead_fbtail, core_modCore_same]

theorem readBack_wp0 : ((s.coreWrite p 0x071 v).coreRead p k 0x071).1 = v &&& ~~~7 := by
  rw [coreWrite_wp0, coreRead_wp0, core_modCore_same]

theorem readBack_wp1 : ((s.coreWrite p 0x072 v).coreRead p k 0x072).1 = v &&& ~~~7 := by
  rw [coreWrite_wp1, coreRead_wp1, core_modCore_same]

theorem readBack_snagto : ((s.coreWrite p 0x057 v).coreRead p k 0x057).1 = v &&& 0xFFFFFFFF := by
  rw [coreWrite_snagto, coreRead_snagto, core_modCore_same]
  exact word64_fieldNat v 32

theorem readBack_esc : ((s.coreWrite p 0x055 v).coreRead p k 0x055).1 = v &&& 0xFFFFFFFF000003FF := by
  rw [coreWrite_esc, coreRead_esc, core_modCore_same]
  exact word64_two_fields v 32 (by decide)

theorem word64_flag (n : Nat) : word64 (flagAt (v.getLsbD n) n) = v &&& bitMask n 1 := by
  have e : flagAt (v.getLsbD n) n = fieldAt (fieldNat v n 1) n 1 := by
    have : fieldNat v n 1 = (v.getLsbD n).toNat := by
      rw [fieldNat_eq, ← BitVec.testBit_toNat, Nat.testBit_eq_decide_div_mod_eq]
      have := Nat.mod_two_eq_zero_or_one (v.toNat / 2 ^ n)
      rcases this with h | h <;> simp [h]
    rw [this]
    cases v.getLsbD n <;> simp [flagAt, fieldAt]
  rw [e, and_bitMask]

theorem readBack_tvec : ((s.coreWrite p 0x058 v).coreRead p k 0x058).1 = v &&& 0x81FFFFFFFFFFFFF8 := by
  rw [coreWrite_tvec, coreRead_tvec, core_modCore_same]
  exact (congrArg₂ _ (word64_fieldNat_mul v 3 54) (word64_flag v 63)).trans BitVec.and_or_distrib_left.symm

theorem readBack_tcmsup (h : fieldNat v 0 5 + fieldNat v 8 6 ≤ 32) : ((s.coreWrite p 0x050 v).coreRead p k 0x050).1 = v &&& 0x3F1F := by
  rw [coreWrite_tcmsup, if_neg (Nat.not_lt.mpr h), coreRead_tcmsup, core_modCore_same]
  exact word64_two_fields v 6 (by decide)

theorem coreWrite_tcmsup_ignored (h : 32 < fieldNat v 0 5 + fieldNat v 8 6) : s.coreWrite p 0x050 v = s := by
  rw [coreWrite_tcmsup, if_pos h]

theorem fieldNat_word64 (x lo n : Nat) (hx : x < 2 ^ 64) : fieldNat (word64 x) lo n = x / 2 ^ lo % 2 ^ n := by
  rw [fieldNat_eq, word64, BitVec.toNat_ofNat, Nat.mod_eq_of_lt hx]

theorem flagAt_le (b : Bool) (n : Nat) : flagAt b n ≤ 2 ^ n := by cases b <;> simp [flagAt]

theorem readBack_twin : fieldNat ((s.coreWrite p 0x06F v).coreRead p k 0x06F).1 0 10 = fieldNat v 0 10 ∧
    fieldNat ((s.coreWrite p 0x06F v).coreRead p k 0x06F).1 16 9 = fieldNat v 16 9 := by
  rw [coreWrite_twin, coreRead_twin, core_modCore_same]
  dsimp only
  have h0 := fieldNat_lt v 0 10
  have h1 := fieldNat_lt v 16 9
  have hf : flagAt (s.core p).sup.sv 63 = 0 ∨ flagAt (s.core p).sup.sv 63 = 2 ^ 63 := by cases (s.core p).sup.sv <;> simp [flagAt]
  constructor <;> rw [fieldNat_word64 _ _ _ (by simp only [fieldAt]; omega)] <;> simp only [fieldAt] <;> omega

theorem coreWrite_twin_sv : ((s.coreWrite p 0x06F v).core p).sup.sv = (s.core p).sup.sv := by
  rw [coreWrite_twin, core_modCore_same]

theorem readBack_frame2 {j : Nat} (hj : j ≤ 10) : ((s.coreWrite p (0x082 + 4 * j) v).coreRead p k (0x082 + 4 * j)).1 = v := by
  rw [coreWrite_frame2 s p v hj, coreRead_frame2 _ p k hj]
  exact congrArg (fun t : Strand => t.frame.w2) (strand_modStrand_same ..)

theorem readBack_rbloss {j : Nat} (hj : j < 8) : ((s.coreWrite p (0x040 + j) v).coreRead p k (0x040 + j)).1 = v := by
  rw [coreWrite_rbloss s p v hj, coreRead_rbloss _ p k hj, core_modCore_same]
  exact look_put_same ..

theorem readBack_hawk : fieldNat ((s.coreWrite p 0x060 v).coreRead p k 0x060).1 48 15 = fieldNat v 48 15 := by
  rw [coreWrite_hawk, coreRead_hawk, core_modCore_same]
  have h := fieldNat_lt v 48 15
  dsimp only [Power.hawk]
  rw [fieldNat_word64 _ _ _ (by simp only [fieldAt]; omega)]
  simp only [fieldAt]
  omega

theorem coreWrite_hawk_tokens : ((s.coreWrite p 0x060 v).coreRead p k 0x060).1 &&& 0xFFFFFFFFFFFF = (s.coreRead p k 0x060).1 &&& 0xFFFFFFFFFFFF := by
  have e : (0xFFFFFFFFFFFF : Word) = bitMask 0 48 := by decide
  rw [e, and_bitMask, and_bitMask]
  refine congrArg (fun x => word64 (fieldAt x 0 48)) ?_
  rw [coreWrite_hawk, coreRead_hawk, coreRead_hawk, core_modCore_same]
  have h := fieldNat_lt v 48 15
  simp only [Power.hawk]
  rw [fieldNat_word64 _ _ _ (by simp only [fieldAt]; omega), fieldNat_word64 _ _ _ (by simp only [fieldAt]; omega)]
  simp only [fieldAt]
  omega
end

theorem word64_add_flagAt {x n : Nat} (h : x < 2 ^ n) (b : Bool) : word64 (x + flagAt b n) = word64 x ||| word64 (flagAt b n) := by
  rw [flagAt_eq, word64_add_fieldAt h]

/-- A flag that is cleared by writing 1 to its bit. -/
theorem word64_flagAt_cleared (b : Bool) (v : Word) (n : Nat) :
    word64 (flagAt (b && !v.getLsbD n) n) = word64 (flagAt b n) &&& ~~~(v &&& bitMask n 1) := by
  rw [← word64_flag]
  ext i hi
  rw [← BitVec.getLsbD_eq_getElem, ← BitVec.getLsbD_eq_getElem]
  simp only [BitVec.getLsbD_and, BitVec.getLsbD_not, getLsbD_flagAt]
  by_cases h : i = n
  · subst h; cases b <;> simp [hi]
  · simp [h, hi]

/-- Clearing bit `n` leaves a word whose bit `n` is zero. -/
theorem and_not_bit {x v : Word} {n : Nat} (h : x.getLsbD n = false) : x &&& ~~~(v &&& bitMask n 1) = x := by
  rw [← word64_flag]
  ext i hi
  rw [← BitVec.getLsbD_eq_getElem, ← BitVec.getLsbD_eq_getElem]
  simp only [BitVec.getLsbD_and, BitVec.getLsbD_not, getLsbD_flagAt]
  by_cases e : i = n
  · subst e; simp [h]
  · simp [e, hi]

section
variable (s : State) (p k : Nat) (v : Word)

theorem Power.therm_bits (w : Power) : w.therm = word64 w.temp.toNat ||| word64 (flagAt w.t1 16) ||| word64 (flagAt w.t1act 17) := by
  have h1 := w.temp.isLt
  have h2 := flagAt_le w.t1 16
  rw [Power.therm, word64_add_flagAt (by omega), word64_add_flagAt h1]

theorem Power.therm_cleared (w : Power) : ({ w with t1 := w.t1 && !v.getLsbD 16 } : Power).therm = w.therm &&& ~~~(v &&& bitMask 16 1) := by
  have ht : (word64 w.temp.toNat).getLsbD 16 = false := by simp [word64]
  have ha : (word64 (flagAt w.t1act 17)).getLsbD 16 = false := by rw [getLsbD_flagAt]; simp
  rw [Power.therm_bits, Power.therm_bits, BitVec.and_or_distrib_right, BitVec.and_or_distrib_right, and_not_bit ht, and_not_bit ha,
    ← word64_flagAt_cleared]

theorem coreWrite_clears_therm :
    ((s.coreWrite p 0x061 v).coreRead p k 0x061).1 = (s.coreRead p k 0x061).1 &&& ~~~(v &&& 0x10000) := by
  rw [coreWrite_therm, coreRead_therm, coreRead_therm, core_modCore_same]
  exact Power.therm_cleared v _

theorem Power.thtrip_bits (w : Power) : w.thtrip =
    word64 (flagAt w.t2act 0) ||| word64 (flagAt w.t3act 1) ||| word64 (flagAt w.t2 4) ||| word64 (flagAt w.t3 5) := by
  have h0 := flagAt_le w.t2act 0
  have h1 := flagAt_le w.t3act 1
  have h2 := flagAt_le w.t2 4
  rw [Power.thtrip, word64_add_flagAt (by omega), word64_add_flagAt (by omega), word64_add_flagAt (by omega)]

theorem Power.thtrip_cleared (w : Power) : ({ w with t2 := w.t2 && !v.getLsbD 4, t3 := w.t3 && !v.getLsbD 5 } : Power).thtrip =
    w.thtrip &&& ~~~(v &&& (bitMask 4 1 ||| bitMask 5 1)) := by
  have flag : ∀ (b : Bool) {i n : Nat}, n ≠ i → (word64 (flagAt b i)).getLsbD n = false := fun b i n h => by simp [getLsbD_flagAt, h]
  have flag4 : (word64 (flagAt w.t2 4) &&& ~~~(v &&& bitMask 4 1)).getLsbD 5 = false := by
    rw [BitVec.getLsbD_and, flag _ (by decide), Bool.false_and]
  rw [Power.thtrip_bits, Power.thtrip_bits, BitVec.and_or_distrib_left, BitVec.not_or, ← BitVec.and_assoc]
  simp only [BitVec.and_or_distrib_right]
  rw [and_not_bit (flag w.t2act (by decide : 4 ≠ 0)), and_not_bit (flag w.t3act (by decide : 4 ≠ 1)), and_not_bit (flag w.t3 (by decide : 4 ≠ 5)),
    and_not_bit (flag w.t2act (by decide : 5 ≠ 0)), and_not_bit (flag w.t3act (by decide : 5 ≠ 1)), and_not_bit flag4,
    ← word64_flagAt_cleared, ← word64_flagAt_cleared]

theorem coreWrite_clears_thtrip :
    ((s.coreWrite p 0x078 v).coreRead p k 0x078).1 = (s.coreRead p k 0x078).1 &&& ~~~(v &&& 0x30) := by
  rw [coreWrite_thtrip, coreRead_thtrip, coreRead_thtrip, core_modCore_same]
  exact Power.thtrip_cleared v _

/-- CORE_SNAGSTAT field by field. -/
theorem Sup.snagstat_bits (u : Sup) : u.snagstat = word64 (fieldAt ((u.snags.map (·.len)).foldl (· + ·) 0) 0 9) |||
    word64 (fieldAt u.wplost 9 7) ||| word64 (fieldAt u.made 16 16) ||| word64 (fieldAt u.tout 32 16) ||| word64 (fieldAt u.drop 48 16) := by
  rw [Sup.snagstat]
  generalize (u.snags.map (·.len)).foldl (· + ·) 0 = n
  rw [word64_add_fieldAt (by simp only [fieldAt]; omega), word64_add_fieldAt (by simp only [fieldAt]; omega),
    word64_add_fieldAt (by simp only [fieldAt]; omega), word64_add_fieldAt (by simp only [fieldAt]; omega)]

/-- The fields of CORE_SNAGSTAT that a write leaves: the entries in use and the entries made. -/
theorem Sup.snagstat_kept (u : Sup) : u.snagstat &&& 0xFFFF01FF =
    word64 (fieldAt ((u.snags.map (·.len)).foldl (· + ·) 0) 0 9) ||| word64 (fieldAt u.made 16 16) := by
  have e : (0xFFFF01FF : Word) = bitMask 0 9 ||| bitMask 16 16 := by decide
  rw [e, BitVec.and_or_distrib_left, and_bitMask, and_bitMask, Sup.snagstat]
  generalize (u.snags.map (·.len)).foldl (· + ·) 0 = n
  rw [fieldNat_word64 _ _ _ (by simp only [fieldAt]; omega), fieldNat_word64 _ _ _ (by simp only [fieldAt]; omega)]
  refine congrArg₂ _ (congrArg word64 ?_) (congrArg word64 ?_) <;> (simp only [fieldAt]; omega)

theorem or_moved (a b c d e : Word) : a ||| b ||| c ||| d ||| e = (b ||| d ||| e) ||| (a ||| c) := by ac_rfl

theorem readBack_snagstat : ((s.coreWrite p 0x070 v).coreRead p k 0x070).1 =
    (v &&& 0xFFFFFFFF0000FE00) ||| ((s.coreRead p k 0x070).1 &&& 0xFFFF01FF) := by
  have e : (0xFFFFFFFF0000FE00 : Word) = bitMask 9 7 ||| bitMask 32 16 ||| bitMask 48 16 := by decide
  rw [coreWrite_snagstat, coreRead_snagstat, coreRead_snagstat, core_modCore_same, Sup.snagstat_kept, Sup.snagstat_bits, e,
    BitVec.and_or_distrib_left, BitVec.and_or_distrib_left, and_bitMask, and_bitMask, and_bitMask]
  exact or_moved ..

theorem fieldNat_eccWord (corr state bank prog : Nat) : fieldNat (eccWord corr state bank prog) 32 32 = corr % 2 ^ 32 := by
  have h := flagAt_le (decide (state = 1)) 23
  rw [eccWord, fieldNat_word64 _ _ _ (by simp only [fieldAt]; omega)]
  simp only [fieldAt]
  omega

theorem corr_rebuildTcm (bank : Nat) : ((s.rebuildTcm p bank).core p).health.corr = (s.core p).health.corr := by
  unfold State.rebuildTcm
  split
  · rfl
  · rw [core_modCore_same]

theorem corr_writeTcmecc : ((s.writeTcmecc p v).core p).health.corr = fieldNat v 32 32 := by
  unfold State.writeTcmecc
  dsimp only
  split
  · rw [corr_rebuildTcm, core_modCore_same]
  · rw [core_modCore_same, core_modCore_same]

theorem readBack_tcmecc : fieldNat ((s.coreWrite p 0x06B v).coreRead p k 0x06B).1 32 32 = fieldNat v 32 32 := by
  rw [coreWrite_tcmecc, coreRead_tcmecc, fieldNat_eccWord, corr_writeTcmecc, Nat.mod_eq_of_lt (fieldNat_lt ..)]

theorem cspCorr_rebuildCsp (n bank : Nat) : ((s.rebuildCsp n bank).cluster n).cspCorr = (s.cluster n).cspCorr := by
  unfold State.rebuildCsp
  split
  · rfl
  · rw [cluster_modCluster_same]

theorem cspCorr_writeCspecc (n : Nat) : ((s.writeCspecc n v).cluster n).cspCorr = fieldNat v 32 32 := by
  unfold State.writeCspecc
  dsimp only
  split
  · rw [cspCorr_rebuildCsp, cluster_modCluster_same]
  · rw [cluster_modCluster_same, cluster_modCluster_same]

theorem readBack_cspecc : fieldNat ((s.coreWrite p 0x06E v).coreRead p k 0x06E).1 32 32 = fieldNat v 32 32 := by
  rw [coreWrite_cspecc, coreRead_cspecc, fieldNat_eccWord, cspCorr_writeCspecc, Nat.mod_eq_of_lt (fieldNat_lt ..)]

theorem readBack_cspslip : ((s.coreWrite p 0x100 v).coreRead p k 0x100).1 = v := by
  rw [coreWrite_cspslip, coreRead_cspslip, cluster_modCluster_same]

theorem look_put {α : Type} (d v : α) (i k : Nat) (m : AMap α) : look d i (put k v m) = if i = k then v else look d i m := by
  split
  · next h => rw [h, look_put_same]
  · next h => exact look_put_other h m

/-- What a list of writes, one for each of the first numbers, leaves under a number. -/
theorem look_foldl_put {α : Type} (d : α) (f : Nat → α) (m : AMap α) {i n : Nat} (h : i < n) :
    look d i ((List.range n).foldl (fun m j => put j (f j) m) m) = f i := by
  induction n with
  | zero => exact absurd h (Nat.not_lt_zero i)
  | succ n ih =>
    rw [List.range_succ, List.foldl_append, List.foldl_cons, List.foldl_nil, look_put]
    split
    · next e => rw [e]
    · next e => exact ih (by omega)

/-- A number is put together from its groups of four bits. -/
theorem sum_nibbles (x n : Nat) : ((List.range n).map fun j => x / 2 ^ (4 * j) % 2 ^ 4 * 2 ^ (4 * j)).foldl (· + ·) 0 = x % 2 ^ (4 * n) := by
  induction n with
  | zero => simp [Nat.mod_one]
  | succ n ih =>
    rw [List.range_succ, List.map_append, List.foldl_append, ih, Nat.mul_succ, Nat.pow_add, Nat.mod_mul]
    simp [Nat.mul_comm]

theorem readBack_mxw : ((s.coreWrite p 0x101 v).coreRead p k 0x101).1 = v &&& 0xFFFFFFFF := by
  rw [coreWrite_mxw, coreRead_mxw, cluster_modCluster_same]
  refine Eq.trans (congrArg word64 ?_) (word64_fieldNat v 32)
  rw [fieldNat_eq, Nat.pow_zero, Nat.div_one, ← sum_nibbles v.toNat 8]
  refine congrArg (List.foldl (· + ·) 0) (List.map_congr_left fun j hj => ?_)
  dsimp only
  rw [look_foldl_put 0 (fun j => fieldNat v (4 * j) 4) _ (List.mem_range.mp hj), fieldAt, Nat.mod_eq_of_lt (fieldNat_lt ..), fieldNat_eq]

end

/-! ### Queue pools (R348) -/

/-- A minimum `m` of queue `j` fits its pool: the minimums then pass neither the pool nor the queue's cap (R348). -/
abbrev MinFits (pool queues dmin j m : Nat) (mins caps : AMap Nat) : Prop :=
  ((List.range queues).map fun i => if i = j then m else look dmin i mins).foldl (· + ·) 0 ≤ pool ∧ m ≤ look pool j caps

theorem writeMin_of_fits {pool queues dmin j m : Nat} {mins caps : AMap Nat} (h : MinFits pool queues dmin j m mins caps) :
    writeMin pool queues dmin j m mins caps = put j m mins := by
  simp only [writeMin, look_put]
  exact if_neg (by omega)

theorem writeMin_of_not_fits {pool queues dmin j m : Nat} {mins caps : AMap Nat} (h : ¬MinFits pool queues dmin j m mins caps) :
    writeMin pool queues dmin j m mins caps = mins := by
  simp only [writeMin, look_put]
  exact if_pos (by omega)

theorem look_writeMin_other {pool queues dmin i j m : Nat} {mins caps : AMap Nat} (h : i ≠ j) :
    look dmin i (writeMin pool queues dmin j m mins caps) = look dmin i mins := by
  unfold writeMin
  dsimp only
  split
  · rfl
  · exact look_put_other h mins

theorem writeCap_of_le {dmin j m : Nat} {mins caps : AMap Nat} (h : look dmin j mins ≤ m) : writeCap dmin j m mins caps = put j m caps :=
  if_neg (Nat.not_lt.mpr h)

theorem writeCap_of_lt {dmin j m : Nat} {mins caps : AMap Nat} (h : m < look dmin j mins) : writeCap dmin j m mins caps = caps := if_pos h

theorem look_writeCap_other {dmin d i j m : Nat} {mins caps : AMap Nat} (h : i ≠ j) :
    look d i (writeCap dmin j m mins caps) = look d i caps := by
  unfold writeCap
  split
  · rfl
  · exact look_put_other h caps

section
variable (s : State) (p k : Nat) (v : Word)

/-- The minimums and caps of the core's engine queues (R348). -/
theorem engineQuota {j : Nat} (hj : j < 16) :
    let m := fieldNat v 0 16
    let c := s.core p
    (MinFits 64 16 4 j m c.eqMin c.eqCap → ((s.coreWrite p (0x0C0 + j) v).coreRead p k (0x0C0 + j)).1 = word64 m) ∧
    (¬MinFits 64 16 4 j m c.eqMin c.eqCap →
      ((s.coreWrite p (0x0C0 + j) v).coreRead p k (0x0C0 + j)).1 = (s.coreRead p k (0x0C0 + j)).1) ∧
    (look 4 j c.eqMin ≤ m → ((s.coreWrite p (0x0D0 + j) v).coreRead p k (0x0D0 + j)).1 = word64 m) ∧
    (m < look 4 j c.eqMin → ((s.coreWrite p (0x0D0 + j) v).coreRead p k (0x0D0 + j)).1 = (s.coreRead p k (0x0D0 + j)).1) ∧
    ∀ i, i ≠ j → look 4 i ((s.coreWrite p (0x0C0 + j) v).core p).eqMin = look 4 i c.eqMin ∧
      look 64 i ((s.coreWrite p (0x0D0 + j) v).core p).eqCap = look 64 i c.eqCap := by
  simp only [coreWrite_eqMin s p v hj, coreWrite_eqCap s p v hj, coreRead_eqMin _ p k hj, coreRead_eqCap _ p k hj, core_modCore_same]
  refine ⟨fun h => ?_, fun h => ?_, fun h => ?_, fun h => ?_, fun i hi => ⟨look_writeMin_other hi, look_writeCap_other hi⟩⟩
  · rw [writeMin_of_fits h, look_put_same]
  · rw [writeMin_of_not_fits h]
  · rw [writeCap_of_le h, look_put_same]
  · rw [writeCap_of_lt h]

/-- The minimums and caps of the plane queues of the core's cluster (R348). -/
theorem planeQuota {j : Nat} (hj : j < 8) :
    let m := fieldNat v 0 16
    let c := s.cluster (cluOf p)
    (MinFits 512 8 64 j m c.pqMin c.pqCap → ((s.coreWrite p (0x108 + j) v).coreRead p k (0x108 + j)).1 = word64 m) ∧
    (¬MinFits 512 8 64 j m c.pqMin c.pqCap →
      ((s.coreWrite p (0x108 + j) v).coreRead p k (0x108 + j)).1 = (s.coreRead p k (0x108 + j)).1) ∧
    (look 64 j c.pqMin ≤ m → ((s.coreWrite p (0x110 + j) v).coreRead p k (0x110 + j)).1 = word64 m) ∧
    (m < look 64 j c.pqMin → ((s.coreWrite p (0x110 + j) v).coreRead p k (0x110 + j)).1 = (s.coreRead p k (0x110 + j)).1) ∧
    ∀ i, i ≠ j → look 64 i ((s.coreWrite p (0x108 + j) v).cluster (cluOf p)).pqMin = look 64 i c.pqMin ∧
      look 512 i ((s.coreWrite p (0x110 + j) v).cluster (cluOf p)).pqCap = look 512 i c.pqCap := by
  simp only [coreWrite_pqMin s p v hj, coreWrite_pqCap s p v hj, coreRead_pqMin _ p k hj, coreRead_pqCap _ p k hj, cluster_modCluster_same]
  refine ⟨fun h => ?_, fun h => ?_, fun h => ?_, fun h => ?_, fun i hi => ⟨look_writeMin_other hi, look_writeCap_other hi⟩⟩
  · rw [writeMin_of_fits h, look_put_same]
  · rw [writeMin_of_not_fits h]
  · rw [writeCap_of_le h, look_put_same]
  · rw [writeCap_of_lt h]
end

/-! ### The blocks of the die and of the device -/

section
variable (s : State) (d : Nat) (v : Word)

theorem dieRead_plumb : (s.dieRead d 0x08).1 = word64 ((s.die d).plumb.toNat + flagAt (s.die d).fwLock 47 + fieldAt (s.die d).drops 48 16) := rfl
theorem dieRead_tkbudget : (s.dieRead d 0x18).1 = word64 (s.die d).tkbudget := rfl
theorem dieRead_migdrop : (s.dieRead d 0x20).1 = word64 (s.die d).migdrop := rfl
theorem dieRead_slip : (s.dieRead d 0x28).1 = word64 (fieldAt (s.die d).slipCycles 0 32 + fieldAt (s.die d).slipPcid 32 13) := rfl
theorem dieRead_tlbsel : (s.dieRead d 0x30).1 = (s.die d).tlbsel := rfl
theorem dieRead_coresel : (s.dieRead d 0x48).1 = (s.die d).coresel := rfl
theorem dieRead_rtsel : (s.dieRead d 0x58).1 = word64 (s.die d).rtsel := rfl
theorem dieRead_resq {j : Nat} (hj : j < 64) : (s.dieRead d (0x100 + 8 * j)).1 = word64 (look 16 j (s.die d).resq) := by
  interval_cases j <;> rfl

theorem dieWrite_plumb : s.dieWrite d 0x08 v = s.modDie d fun x => { x with drops := fieldNat v 48 16 } := rfl
theorem dieWrite_tkbudget : s.dieWrite d 0x18 v = s.modDie d fun x => { x with tkbudget := fieldNat v 0 32 } := rfl
theorem dieWrite_migdrop : s.dieWrite d 0x20 v = s.modDie d fun x => { x with migdrop := fieldNat v 0 32 } := rfl
theorem dieWrite_slip : s.dieWrite d 0x28 v = s.modDie d fun x => { x with slipCycles := fieldNat v 0 32 } := rfl
theorem dieWrite_tlbsel : s.dieWrite d 0x30 v =
    s.modDie d fun x => { x with tlbsel := word64 (fieldAt (fieldNat v 0 10) 0 10 + fieldAt (fieldNat v 16 13) 16 13) } := rfl
theorem dieWrite_coresel : s.dieWrite d 0x48 v =
    s.modDie d fun x => { x with coresel := word64 (fieldAt (fieldNat v 0 16) 0 16 + fieldAt (fieldNat v 32 13) 32 13) } := rfl
theorem dieWrite_rtsel : s.dieWrite d 0x58 v = s.modDie d fun x => { x with rtsel := fieldNat v 0 13 } := rfl
theorem dieWrite_resq {j : Nat} (hj : j < 64) : s.dieWrite d (0x100 + 8 * j) v =
    s.modDie d fun x => { x with resq := put j (min (fieldNat v 0 5) 16) x.resq } := by
  interval_cases j <;> rfl

/-- A register of the die's block that its table marks read only keeps its value (R6, R377). -/
theorem dieWrite_read_only {off : Nat} (h : off ∈ [0x00, 0x10, 0x38, 0x40]) : s.dieWrite d off v = s := by
  simp only [List.mem_cons, List.not_mem_nil, or_false] at h
  obtain rfl | rfl | rfl | rfl := h <;> rfl

theorem readBack_tkbudget : ((s.dieWrite d 0x18 v).dieRead d 0x18).1 = v &&& 0xFFFFFFFF := by
  rw [dieWrite_tkbudget, dieRead_tkbudget, die_modDie_same]
  exact word64_fieldNat v 32

theorem readBack_migdrop : ((s.dieWrite d 0x20 v).dieRead d 0x20).1 = v &&& 0xFFFFFFFF := by
  rw [dieWrite_migdrop, dieRead_migdrop, die_modDie_same]
  exact word64_fieldNat v 32

theorem readBack_tlbsel : ((s.dieWrite d 0x30 v).dieRead d 0x30).1 = v &&& 0x1FFF03FF := by
  rw [dieWrite_tlbsel, dieRead_tlbsel, die_modDie_same]
  exact word64_two_fields v 13 (by decide)

theorem readBack_coresel : ((s.dieWrite d 0x48 v).dieRead d 0x48).1 = v &&& 0x1FFF0000FFFF := by
  rw [dieWrite_coresel, dieRead_coresel, die_modDie_same]
  exact word64_two_fields v 13 (by decide)

theorem readBack_rtsel : ((s.dieWrite d 0x58 v).dieRead d 0x58).1 = v &&& 0x1FFF := by
  rw [dieWrite_rtsel, dieRead_rtsel, die_modDie_same]
  exact word64_fieldNat v 13

theorem readBack_drops : fieldNat ((s.dieWrite d 0x08 v).dieRead d 0x08).1 48 16 = fieldNat v 48 16 := by
  rw [dieWrite_plumb, dieRead_plumb, die_modDie_same]
  have h0 := (s.die d).plumb.isLt
  have h1 := fieldNat_lt v 48 16
  have h2 : flagAt (s.die d).fwLock 47 = 0 ∨ flagAt (s.die d).fwLock 47 = 2 ^ 47 := by cases (s.die d).fwLock <;> simp [flagAt]
  dsimp only
  rw [fieldNat_word64 _ _ _ (by simp only [fieldAt]; omega)]
  simp only [fieldAt]
  omega

theorem readBack_slip : fieldNat ((s.dieWrite d 0x28 v).dieRead d 0x28).1 0 32 = fieldNat v 0 32 := by
  rw [dieWrite_slip, dieRead_slip, die_modDie_same]
  have h := fieldNat_lt v 0 32
  dsimp only
  rw [fieldNat_word64 _ _ _ (by simp only [fieldAt]; omega)]
  simp only [fieldAt]
  omega

theorem readBack_resq {j : Nat} (hj : j < 64) :
    ((s.dieWrite d (0x100 + 8 * j) v).dieRead d (0x100 + 8 * j)).1 = word64 (min (fieldNat v 0 5) 16) := by
  rw [dieWrite_resq s d v hj, dieRead_resq _ d hj, die_modDie_same, look_put_same]

theorem devRead_strbase : (s.devRead 0x18).1 = word64 (fieldAt s.strbase 12 14) := rfl
theorem devRead_rmapsel : (s.devRead 0x20).1 = word64 s.rmapsel := rfl
theorem devRead_dbgsel : (s.devRead 0x30).1 = s.dbgsel := rfl
theorem devRead_brport {j : Nat} (hj : j < 36) : (s.devRead (0x200 + 8 * j)).1 = (look Port.init j s.ports).word := by
  interval_cases j <;> rfl

theorem devWrite_strbase (fw : Bool) : s.devWrite fw 0x18 v = some (s.writeStrbase fw v) := rfl
theorem devWrite_rmapsel : s.devWrite true 0x20 v = some { s with rmapsel := fieldNat v 0 6 } := rfl
theorem devWrite_dbgsel : s.devWrite true 0x30 v = some { s with
    dbgsel := word64 (fieldAt (fieldNat v 0 32) 0 32 + fieldAt (fieldNat v 32 13) 32 13 + fieldAt (fieldNat v 62 2) 62 2) } := rfl
theorem devWrite_brport {j : Nat} (hj : j < 36) : s.devWrite true (0x200 + 8 * j) v =
    some { s with ports := put j { look Port.init j s.ports with retry := fieldNat v 0 32 } s.ports } := by
  interval_cases j <;> rfl

/-- A register of the device's block that its table marks read only keeps its value (R6, R377). -/
theorem devWrite_read_only {off : Nat} (h : off ∈ [0x00, 0x08, 0x40, 0x80, 0x88, 0x90]) : s.devWrite true off v = some s := by
  simp only [List.mem_cons, List.not_mem_nil, or_false] at h
  obtain rfl | rfl | rfl | rfl | rfl | rfl := h <;> rfl

theorem readBack_rmapsel : (s.devWrite true 0x20 v).map (fun t => (t.devRead 0x20).1) = some (v &&& 0x3F) := by
  rw [devWrite_rmapsel, Option.map_some, devRead_rmapsel]
  exact congrArg some (word64_fieldNat v 6)

theorem readBack_dbgsel : (s.devWrite true 0x30 v).map (fun t => (t.devRead 0x30).1) = some (v &&& 0xC0001FFFFFFFFFFF) := by
  have e : (0xC0001FFFFFFFFFFF : Word) = bitMask 0 32 ||| bitMask 32 13 ||| bitMask 62 2 := by decide
  rw [devWrite_dbgsel, Option.map_some, devRead_dbgsel]
  dsimp only
  rw [word64_add_fieldAt (by simp only [fieldAt]; omega), word64_two_fields v 13 (by decide), e,
    BitVec.and_or_distrib_left (y := _ ||| _), ← and_bitMask]

theorem readBack_strbase (h : s.parts = []) : (s.devWrite true 0x18 v).map (fun t => (t.devRead 0x18).1) = some (v &&& 0x3FFF000) := by
  rw [devWrite_strbase, State.writeStrbase, h, Option.map_some, devRead_strbase]
  exact congrArg some (and_bitMask v 12 14).symm

theorem devWrite_strbase_partitioned (h : s.parts ≠ []) : s.devWrite true 0x18 v = some s := by
  rw [devWrite_strbase, State.writeStrbase, List.isEmpty_eq_false_iff.mpr h]
  rfl

theorem readBack_brport {j : Nat} (hj : j < 36) :
    ((s.devWrite true (0x200 + 8 * j) v).map (fun t => (t.devRead (0x200 + 8 * j)).1)).map (fieldNat · 0 32) = some (fieldNat v 0 32) := by
  rw [devWrite_brport s v hj, Option.map_some, Option.map_some, devRead_brport _ hj, look_put_same]
  have h := fieldNat_lt v 0 32
  dsimp only [Port.word]
  rw [fieldNat_word64 _ _ _ (by simp only [fieldAt]; omega)]
  refine congrArg some ?_
  simp only [fieldAt]
  omega
end

/-! ## Registers by CSR number -/

section
variable (s : State) (p k : Nat) {n : Nat} (v : Word)

theorem csr_of_core (h : n < 0x4000) : s.csrWrite p n v = some (s.coreWrite p n v) ∧ s.csrRead p k n = s.coreRead p k n := by
  simp only [State.csrWrite, State.csrRead, if_pos h, and_self]

theorem csr_of_die (h : 0x4000 ≤ n) (h2 : n < 0x8000) : s.csrWrite p n v = some (s.dieWrite (dieOf p) (8 * (n - 0x4000)) v) ∧
    s.csrRead p k n = s.dieRead (dieOf p) (8 * (n - 0x4000)) := by
  simp only [State.csrWrite, State.csrRead, if_neg (Nat.not_lt.mpr h), if_pos h2, and_self]

theorem csr_of_dev (h : 0x8000 ≤ n) : s.csrWrite p n v = s.devWrite true (8 * (n - 0x8000)) v ∧
    s.csrRead p k n = s.devRead (8 * (n - 0x8000)) := by
  simp only [State.csrWrite, State.csrRead, if_neg (Nat.not_lt.mpr h), if_neg (show ¬n < 0x4000 by omega), and_self]
end

/-- Settles O57: register by register, what a write stores and what the next read makes of it. -/
theorem specialRegisters : Obligations.SpecialRegisters := by
  unfold Obligations.SpecialRegisters
  intro s p k n d v
  exact ⟨csr_of_core s p k v, csr_of_die s p k v, csr_of_dev s p k v,
    readBack_srseed s p k v, readBack_ufcnt s p k v, readBack_fbtail s p k v, readBack_wp0 s p k v, readBack_wp1 s p k v,
    readBack_snagto s p k v, readBack_esc s p k v, readBack_tvec s p k v, readBack_tcmsup s p k v, coreWrite_tcmsup_ignored s p v,
    (readBack_twin s p k v).1, (readBack_twin s p k v).2, coreWrite_twin_sv s p v,
    fun _ hj => readBack_frame2 s p k v hj, fun _ hj => readBack_rbloss s p k v hj,
    readBack_hawk s p k v, coreWrite_hawk_tokens s p k v, coreWrite_clears_therm s p k v, coreWrite_clears_thtrip s p k v,
    readBack_snagstat s p k v, readBack_tcmecc s p k v, readBack_cspecc s p k v, readBack_cspslip s p k v, readBack_mxw s p k v,
    fun _ hj => engineQuota s p k v hj, fun _ hj => planeQuota s p k v hj, coreWrite_read_only s p v,
    ⟨readBack_tkbudget s d v, readBack_migdrop s d v, readBack_tlbsel s d v, readBack_coresel s d v, readBack_rtsel s d v,
      readBack_drops s d v, readBack_slip s d v, fun _ hj => readBack_resq s d v hj, fun _ h => dieWrite_read_only s d v h⟩,
    readBack_rmapsel s v, readBack_dbgsel s v, readBack_strbase s v, devWrite_strbase_partitioned s v, rfl,
    fun _ hj => readBack_brport s v hj, fun _ h => devWrite_read_only s v h⟩

end Sys2Proof.Machine

/-! PROOFS. The chain words CHAIN, CHAIN.UNBIND, SEQRD and APPEND (R303 to R308). -/

namespace Sys2Proof.Machine

/-! ## Pairs, issue of operations, and first causes -/

/-- A core of no pair has no twin's value to take. -/
theorem twinValue_alone {s : State} {p : Nat} (h : s.paired p = false) (k : Nat) (v : Word) : s.twinValue p k v = some (v, s) := by
  unfold State.paired at h
  unfold State.twinValue
  cases hp : (s.core p).place with
  | none => rfl
  | some pl =>
    rw [hp] at h
    exact if_pos (by simpa using h)

theorem pairOf_alone {s : State} {p : Nat} (h : s.paired p = false) : s.pairOf p = none := by
  unfold State.paired at h
  unfold State.pairOf
  cases hp : (s.core p).place with
  | none => rfl
  | some pl =>
    rw [hp] at h
    have : pl.twin = 0 := by simpa using h
    simp [this]

/-- Operations that may issue do: they follow the core's older ones. -/
theorem issueOps_done {s : State} {p k : Nat} {l : List MemOp} (h : s.MayIssue p k l) : s.issueOps p k l = .done (s.withOps p l) := by
  obtain ⟨hpath, hsnag, hroom, hring⟩ := h
  have hheld : (l.any fun o => (s.core p).snagOps.any (·.snagHolds o)) = false := by
    simp only [List.any_eq_false, Bool.not_eq_true]
    exact fun o ho => by simpa using hsnag o ho
  have hfault : (if (s.core p).sup.tcmLen < 2 then l.findSome? fun o => (s.faultNow p o).map fun x => (o, x) else none) = none := by
    split
    · next hlen =>
      rw [List.findSome?_eq_none_iff]
      exact fun o ho => by rw [(hring.resolve_left (by omega)) o ho]; rfl
    · rfl
  unfold State.issueOps
  simp only [hpath, hheld, hroom, hfault]
  rfl

/-- An operation in flight of a core of no pair is performed where it leads. -/
theorem exec_performed {s : State} {p l : Nat} {o : MemOp} {rs host : Bool} (hat : (s.core p).opAt o.id o.elem = some o)
    (hready : s.opReady p o = true) (hpair : s.paired p = false) (hacc : s.access p o = .loc l rs host)
    (hmay : s.mayPerform p o l host = true) :
    exec (.memoryAccessPerformed p o.id o.elem) s = .next ((s.pay p 0 (s.accessCharge p l o.bytes)).perform p o l rs host) := by
  rw [exec_memoryAccessPerformed]
  unfold execMemoryAccessPerformed
  simp only [hat, hready, hacc, hmay, pairOf_alone hpair, ite_self, Bool.not_true, Bool.false_eq_true, if_false]

/-- A store lands: it returns no value. -/
theorem lands_store {s : State} {p : Nat} {o : MemOp} (h : o.kind = .store) : s.Lands p o := by
  intro hat hready hpair l rs host hacc hmay
  refine ⟨exec_performed hat hready hpair hacc hmay, fun hk => ?_, fun hk => ?_⟩
  · rw [h] at hk
    simp at hk
  · rw [h] at hk
    cases hk

/-- A cause that the word's own first check finds comes before any other, where the header lets it be decided; one that no header delegates is taken at
once. -/
theorem runWord_pre_trap {h : Hdr} {w : WordSpec} {body : Body} {s : State} {t : Trap} (hgang : (s.core s.focus.pcid).gang = none)
    (hhdr : s.HeaderClear s.focus.pcid s.focus.strand h w) (hpre : w.pre s.focus.pcid s.focus.strand s = .trap t)
    (hdeleg : delegBit t.cause = none) : runWord h w body s = .next (s.trapAll s.focus.strand t [s.focus.pcid]) := by
  have hms := members_alone hgang
  have hcheck : s.checkAll s.focus.strand h w (s.members s.focus.pcid) = .trap t := by
    simp only [hms, State.checkAll, State.check, hhdr.1, hhdr.2, hpre, Bool.false_eq_true, if_false]
  rw [runWord_trap hcheck, hms, State.trapWord_taken (State.trapHeld_of_none hdeleg)]

/-! ## What decides an APPEND -/

/-- Nothing more holds an APPEND: its chain has room, a table image is free, and its strand has no access on the snag ring and a count with room. -/
theorem append_room {c : Chain} {x : Core} {k eop : Nat} (hring : c.appended - c.completed < 2 ^ c.logn)
    (htab : usesTable eop = false ∨ x.thirdTable = false) (hsnag : ∀ o ∈ x.snagOps, o.strand ≠ k) (hopen : (x.openCmds k).length < 65535) :
    (2 ^ c.logn ≤ c.appended - c.completed ∨ usesTable eop = true ∧ x.thirdTable = true ∨
      (!(x.snagOps.filter fun o => o.strand = k).isEmpty) = true ∨ 65535 < (x.openCmds k).length + 1) = False := by
  have hnone : (x.snagOps.filter fun o => o.strand = k) = [] := List.filter_eq_nil_iff.mpr fun o ho => by simpa using hsnag o ho
  rw [eq_iff_iff, iff_false, hnone]
  rintro (h | ⟨h1, h2⟩ | h | h)
  · omega
  · rw [h1, h2] at htab
    simp at htab
  · simp at h
  · omega

/-- The handle in S[D] names no chain of the core (R306). -/
theorem appendTrap_no_chain {s : State} {p k hi : Nat} {d a : BitVec 8} (hin : s.opInWindow p k (dSrc d) = true)
    (hrd : s.opHeld p k false (dSrc d) = false) (hch : (s.core p).chainOf (s.rS p k 0 d) = none) :
    appendTrap d a hi p k s = .trap (s.wordTrap 1) := by
  simp [appendTrap, trapWhen, hin, hrd, hch]

/-- The opcode in row A belongs to another engine than the chain that S[D] names (R187, R306). -/
theorem appendTrap_other_engine {s : State} {p k hi i : Nat} {d a : BitVec 8} {c : Chain} (hin : s.opInWindow p k (dSrc d) = true)
    (hrd : s.opHeld p k false (dSrc d) = false) (hin' : s.opInWindow p k (aV a) = true) (hrd' : s.opHeld p k false (aV a) = false)
    (hch : (s.core p).chainOf (s.rS p k 0 d) = some (i, c)) (heng : eopEngine (ecwOfRow (s.rV p k 1 a) hi).1 ≠ some c.eng) :
    appendTrap d a hi p k s = .trap (s.wordTrap 1) := by
  simp [appendTrap, trapWhen, hin, hrd, hch, hin', hrd', heng.symm]

/-- The opcode in row A is reserved, or is one of an engine that the part does not have; the handle cannot be read (R3, R187). -/
theorem appendTrap_no_engine {s : State} {p k hi : Nat} {d a : BitVec 8} (hout : s.opInWindow p k (dSrc d) = false)
    (hin : s.opInWindow p k (aV a) = true) (hrd : s.opHeld p k false (aV a) = false)
    (heng : eopEngine (ecwOfRow (s.rV p k 1 a) hi).1 = none ∨ eopEngine (ecwOfRow (s.rV p k 1 a) hi).1 = some 2 ∧ s.coll = false) :
    appendTrap d a hi p k s = .trap (s.wordTrap 1) := by
  rcases heng with heng | ⟨heng, hcoll⟩
  · simp [appendTrap, trapWhen, hout, hin, hrd, heng]
  · simp [appendTrap, trapWhen, hout, hin, hrd, heng, hcoll]

/-! ## The chain words -/

/-- Settles O19: each clause names the branch of the word's meaning that its condition picks. -/
theorem chainWords : Obligations.ChainWords := by
  unfold Obligations.ChainWords
  intro h d a b two
  refine ⟨⟨?noDescriptor, ?badForm, ?badRange, ?noSlot, ?bound⟩, ⟨?noChain, ?unbound, fun sel => ?seqrd⟩,
    fun u => ⟨⟨?appended, ?stored⟩, fun t => ?rowsTrap, fun t => ?staleTrap, fun s => ?firstTrap⟩⟩
  case noDescriptor =>
    exact runsIf_of (exec_chain h d a) fun p k x ok => by
      simp only [ok]
      rfl
  case badForm =>
    refine runsIf_of (exec_chain h d a) fun p k x ok => ?_
    obtain ⟨hpay, l, ⟨hat, hun, hheld⟩, hform⟩ := ok
    simp only [hat, hun, hheld, hform, hpay, State.payOr]
    rfl
  case badRange =>
    refine runsIf_of (exec_chain h d a) fun p k x ok => ?_
    obtain ⟨hpay, l, r, w, ⟨hat, hun, hheld⟩, hform, hring, hword, hrw⟩ := ok
    simp only [hat, hun, hheld, hform, hring, hword, hrw, hpay, State.payOr]
    rfl
  case noSlot =>
    refine runsIf_of (exec_chain h d a) fun p k x ok => ?_
    obtain ⟨hpay, l, ⟨⟨hat, hun, hheld⟩, hform, hring, hword⟩, hslot⟩ := ok
    simp only [hat, hun, hheld, hform, hring, hword, hslot, hpay, State.payOr]
    rfl
  case bound =>
    refine runsIf_of (exec_chain h d a) fun p k x ok => ?_
    obtain ⟨l, ⟨⟨hat, hun, hheld⟩, hform, hring, hword⟩, hslot, hpay⟩ := ok
    obtain ⟨i, hi⟩ := Option.isSome_iff_exists.mp hslot
    simp only [hat, hun, hheld, hform, hring, hword, hi, hpay, State.payOr]
    rfl
  case noChain =>
    exact runsIf_of (exec_chainUnbind h d a) fun p k x ok => by
      simp only [ok]
      rfl
  case unbound =>
    refine runsIf_of (exec_chainUnbind h d a) fun p k x ok => ?_
    obtain ⟨i, c, hch, hcmds⟩ := ok
    simp only [hch, hcmds]
    rfl
  case seqrd =>
    refine runsIf_of (exec_seqrd h d a sel) fun p k x ok => ?_
    simp only [twinValue_alone ok, State.seqrd, State.clearErr]
    cases hch : (x.core p).chainOf (x.rS p k 1 a) with
    | none => rfl
    | some y =>
      obtain ⟨i, c⟩ := y
      by_cases hsel : sel.toNat = 2
      · simp only [hsel, if_true]
      · -- The statement's match and the model's are two matchers where the two stand in two modules.
        simp only [hsel, if_false] <;> rfl
  case appended =>
    refine runsIf_of (exec_append h d a b u) fun p k x ok => ?_
    obtain ⟨⟨i, c, hch, ⟨heng, hrows, hbusy, hheld⟩, hstale, hring, htab, hsnag, hopen⟩, hmay⟩ := ok
    have hany := List.any_eq_false.mpr fun r hr => Bool.not_eq_true _ ▸ hbusy r hr
    simp only [hch] at hmay
    dsimp only at hch heng hrows hheld hstale htab hany
    simp only [hch, heng, hrows, hheld, hstale, hany, append_room hring htab hsnag hopen, Nat.add_sub_cancel, Bool.false_eq_true, or_self,
      ne_eq, not_true_eq_false, if_false]
    have hdone := issueOps_done hmay
    dsimp only [Option.getD_some] at hdone ⊢
    rw [hdone]
  case stored =>
    intro s t hable ht p hp o ho
    refine lands_store ?_
    simp only [State.appendOps, List.mem_map] at ho
    obtain ⟨j, -, rfl⟩ := ho
    rfl
  case rowsTrap =>
    refine trapsIf_of (exec_append h d a b u) fun p k x ok => ?_
    obtain ⟨i, c, hch, heng, hrows⟩ := ok
    simp only [hch, heng, hrows, ne_eq, not_true_eq_false, if_false]
  case staleTrap =>
    refine trapsIf_of (exec_append h d a b u) fun p k x ok => ?_
    obtain ⟨i, c, hch, ⟨heng, hrows, hbusy, hheld⟩, hstale⟩ := ok
    have hany := List.any_eq_false.mpr fun r hr => Bool.not_eq_true _ ▸ hbusy r hr
    dsimp only at hch heng hrows hheld hstale hany
    simp only [hch, heng, hrows, hheld, hstale, hany, Bool.false_eq_true, or_self, ne_eq, not_true_eq_false, if_false]
  case firstTrap =>
    intro p k names hgang hhdr hcase
    rw [exec_append]
    refine runWord_pre_trap hgang hhdr ?_ rfl
    rcases hcase with ⟨⟨hin, hrd⟩, hch | ⟨i, c, hch, ⟨hin', hrd'⟩, heng⟩⟩ | ⟨hout, ⟨hin', hrd'⟩, heng⟩
    · exact appendTrap_no_chain hin hrd hch
    · exact appendTrap_other_engine hin hrd hin' hrd' hch heng
    · exact appendTrap_no_engine hout hin' hrd' heng

end Sys2Proof.Machine

/-! PROOFS. What a word that writes one register leaves unchanged (R7, R61, R174, R367). -/

namespace Sys2Proof.Machine

/-! ## Relations between a state and a later one -/

/-- What lies outside the cores, the instances and the energy accounts. -/
def State.outside (s : State) : State := { s with cores := [], insts := [], enctx := [], enovh := [] }

/-- A header row may be written at once: no write of it is pending and it is not locked (R68, R73). -/
def State.HeaderFree (s : State) (p wb : Nat) : Prop := (s.core p).busy wb = false ∧ (s.core p).locked wb = false

/-- What a write of row `r` of core `p` leaves. -/
structure State.Wrote (p r : Nat) (s t : State) : Prop where
  outside : t.outside = s.outside
  insts : t.insts = s.insts
  others : ∀ q, q ≠ p → t.core q = s.core q
  kept : (t.core p).kept = (s.core p).kept
  fb : (t.core p).fb = (s.core p).fb
  utlb : (t.core p).utlb = (s.core p).utlb
  strands : (t.core p).strands = (s.core p).strands
  rows : ∀ i, i ≠ r → t.row p i = s.row p i
  late : (t.core p).late = (s.core p).late ∨ ∃ l : Late, l.row = r ∧ (t.core p).late = (s.core p).late ++ [l]

/-- What the steps of a selector leave that write the loop word of the header row `wb`, where `w` says that they do, and the strand `k` itself. -/
structure State.Settled (w : Prop) (p k wb : Nat) (s t : State) : Prop where
  outside : t.outside = s.outside
  insts : t.insts = s.insts
  others : ∀ q, q ≠ p → t.core q = s.core q
  kept : (t.core p).kept = (s.core p).kept
  fb : (t.core p).fb = (s.core p).fb
  utlb : (t.core p).utlb = (s.core p).utlb
  strands : ∀ j, j ≠ k → t.strand p j = s.strand p j
  rows : ∀ i, i ≠ wb → t.row p i = s.row p i
  words : ∀ j < 8, j ≠ 6 → rowWord (t.row p wb) j = rowWord (s.row p wb) j
  late : ∀ l ∈ (t.core p).late, l ∈ (s.core p).late ∨ l.row = wb
  atOnce : (w → s.HeaderFree p wb) → (t.core p).late = (s.core p).late ∧ (w → t.HeaderFree p wb)

/-- What the end of the control strand leaves. -/
structure State.EndedPart (p : Nat) (s t : State) : Prop where
  outside : t.outside = s.outside
  others : ∀ q, q ≠ p → t.core q = s.core q
  rows : (t.core p).rows = (s.core p).rows
  late : (t.core p).late = (s.core p).late
  fb : (t.core p).fb = (s.core p).fb
  utlb : (t.core p).utlb = (s.core p).utlb

/-- What a record for the field book leaves. -/
structure State.Recorded (p : Nat) (s t : State) : Prop where
  outside : t.keptTraced = s.keptTraced
  insts : t.insts = s.insts
  others : ∀ q, q ≠ p → t.core q = s.core q
  rows : (t.core p).rows = (s.core p).rows
  late : (t.core p).late = (s.core p).late
  strands : (t.core p).strands = (s.core p).strands
  kept : (t.core p).keptTraced = (s.core p).keptTraced

theorem State.Settled.refl (w : Prop) (p k wb : Nat) (s : State) : s.Settled w p k wb s :=
  ⟨rfl, rfl, fun _ _ => rfl, rfl, rfl, rfl, fun _ _ => rfl, fun _ _ => rfl, fun _ _ _ => rfl, fun _ h => .inl h, fun h => ⟨rfl, h⟩⟩

theorem State.Settled.trans {w : Prop} {p k wb : Nat} {s t u : State} (a : s.Settled w p k wb t) (b : t.Settled w p k wb u) :
    s.Settled w p k wb u where
  outside := b.outside.trans a.outside
  insts := b.insts.trans a.insts
  others q h := (b.others q h).trans (a.others q h)
  kept := b.kept.trans a.kept
  fb := b.fb.trans a.fb
  utlb := b.utlb.trans a.utlb
  strands j h := (b.strands j h).trans (a.strands j h)
  rows i h := (b.rows i h).trans (a.rows i h)
  words j h h6 := (b.words j h h6).trans (a.words j h h6)
  late l h := (b.late l h).elim (a.late l) .inr
  atOnce h :=
    have ⟨hlate, hfree⟩ := a.atOnce h
    have ⟨hlate', hfree'⟩ := b.atOnce hfree
    ⟨hlate'.trans hlate, hfree'⟩

theorem State.EndedPart.trans {p : Nat} {s t u : State} (a : s.EndedPart p t) (b : t.EndedPart p u) : s.EndedPart p u where
  outside := b.outside.trans a.outside
  others q h := (b.others q h).trans (a.others q h)
  rows := b.rows.trans a.rows
  late := b.late.trans a.late
  fb := b.fb.trans a.fb
  utlb := b.utlb.trans a.utlb

theorem State.EndedPart.refl (p : Nat) (s : State) : s.EndedPart p s := ⟨rfl, fun _ _ => rfl, rfl, rfl, rfl, rfl⟩

theorem State.EndedPart.foldl {α : Type} {p : Nat} {f : State → α → State} (hf : ∀ (s : State) (x : α), s.EndedPart p (f s x)) (l : List α) (s : State) :
    s.EndedPart p (l.foldl f s) := by
  induction l generalizing s with
  | nil => exact .refl p s
  | cons x l ih => exact (hf s x).trans (ih (f s x))

theorem State.Recorded.refl (p : Nat) (s : State) : s.Recorded p s := ⟨rfl, rfl, fun _ _ => rfl, rfl, rfl, rfl, rfl⟩

theorem State.Recorded.trans {p : Nat} {s t u : State} (a : s.Recorded p t) (b : t.Recorded p u) : s.Recorded p u where
  outside := b.outside.trans a.outside
  insts := b.insts.trans a.insts
  others q h := (b.others q h).trans (a.others q h)
  rows := b.rows.trans a.rows
  late := b.late.trans a.late
  strands := b.strands.trans a.strands
  kept := b.kept.trans a.kept

/-! ## Register writes -/

/-- A register write takes place at once or is bound for later (R67, R68). -/
theorem writeRow_cases (s : State) (p r lat : Nat) (m v : Row) : s.writeRow p r lat m v = s.blendRow p r m v ∨
    ∃ l : Late, l.row = r ∧ s.writeRow p r lat m v = s.modCore p fun c => { c with late := c.late ++ [l] } := by
  unfold State.writeRow State.writeRowAs
  split
  · exact .inl rfl
  · exact .inr ⟨{ id := (s.core p).seq, due := (s.core p).cycle + lat, row := r, mask := m, value := v }, rfl, rfl⟩

theorem wrote_writeRow (s : State) (p r lat : Nat) (m v : Row) : s.Wrote p r (s.writeRow p r lat m v) := by
  rcases writeRow_cases s p r lat m v with e | ⟨l, hl, e⟩ <;> rw [e]
  · exact ⟨rfl, rfl, fun q h => core_modCore_other h, by rw [State.blendRow, core_modCore_same]; rfl, by rw [State.blendRow, core_modCore_same]; rfl,
      by rw [State.blendRow, core_modCore_same]; rfl, by rw [State.blendRow, core_modCore_same]; rfl, fun i h => row_blendRow_other (.inr h),
      .inl (by rw [State.blendRow, core_modCore_same]; rfl)⟩
  · exact ⟨rfl, rfl, fun q h => core_modCore_other h, by rw [core_modCore_same]; rfl, by rw [core_modCore_same], by rw [core_modCore_same],
      by rw [core_modCore_same], fun i h => by simp [State.row, Core.row], .inr ⟨l, hl, by rw [core_modCore_same]⟩⟩

/-! ### Pending writes of a row -/

/-- A change of one entry of a map that a test does not tell from the entry before leaves the test of all entries. -/
theorem any_put {α : Type} {f : α → Bool} {d v : α} {k : Nat} (hd : f d = false) {m : AMap α} (hv : f v = f (look d k m)) :
    (put k v m).any (fun e => f e.2) = m.any fun e => f e.2 := by
  induction m with
  | nil => simp [put, hv, look, hd]
  | cons e r ih =>
    obtain ⟨j, w⟩ := e
    by_cases h1 : k < j
    · have hlook : look d k ((j, w) :: r) = look d k r := if_neg (by omega)
      have hin : f (look d k r) = true → (r.any fun e => f e.2) = true := by
        clear ih hv hlook
        induction r with
        | nil => simp [look, hd]
        | cons e r ih =>
          simp only [look, List.any_cons, Bool.or_eq_true]
          split
          · exact .inl
          · exact fun h => .inr (ih h)
      rw [hlook] at hv
      simp only [put, h1, if_true, List.any_cons, hv]
      cases hf : f (look d k r)
      · rw [Bool.false_or]
      · simp [hin hf]
    · by_cases h2 : k = j
      · subst h2
        simp only [look, if_true] at hv
        simp [put, hv]
      · have hlook : look d k ((j, w) :: r) = look d k r := if_neg (Ne.symm h2)
        simp only [put, h1, h2, if_false, List.any_cons, ih (hlook ▸ hv)]

/-- A strand has bound a write to a row. -/
def Strand.binds (r : Nat) (t : Strand) : Bool := t.boundWrites.any fun e => e.2.1 = r

/-- The pending writes of a row, by where they wait. -/
theorem busy_congr {c d : Core} {r : Nat} (hk : d.kept = c.kept) (hl : (d.late.any fun l => l.row = r) = c.late.any fun l => l.row = r)
    (hs : (d.strands.any fun t => t.2.binds r) = c.strands.any fun t => t.2.binds r) : d.busy r = c.busy r := by
  have hops : d.ops = c.ops := (congrArg Core.ops hk :)
  have hsup : d.sup = c.sup := (congrArg Core.sup hk :)
  have hexch : d.exch = c.exch := (congrArg Core.exch hk :)
  unfold Strand.binds at hs
  simp only [Core.busy, Core.pendings, List.any_append, List.any_map, List.any_flatMap, Function.comp_def, hops, hsup, hexch, hl, hs]

theorem locked_congr {c d : Core} {r : Nat} (hk : d.kept = c.kept) : d.locked r = c.locked r := by
  have hlocks : d.locks = c.locks := (congrArg Core.locks hk :)
  have hreading : d.reading = c.reading := (congrArg Core.reading hk :)
  have hcycle : d.cycle = c.cycle := (congrArg Core.cycle hk :)
  simp only [Core.locked, hlocks, hreading, hcycle]

theorem idle_binds (r : Nat) : Strand.idle.binds r = false := rfl

/-- A change of a strand that leaves its wait and its FUSE leaves the pending writes. -/
theorem busy_setStrand {c : Core} {k r : Nat} {t : Strand} (ht : t.binds r = (c.strand k).binds r) : (c.setStrand k t).busy r = c.busy r :=
  busy_congr rfl rfl (any_put (f := Strand.binds r) (idle_binds r) ht)

/-- A row without a pending write blocks no write of it. -/
theorem blocked_of_not_busy {c : Core} {r : Nat} (h : c.busy r = false) (id : Nat) (m : Row) : c.blocked id r m = false := by
  simp only [Core.busy, List.any_eq_false, decide_eq_true_eq] at h
  simp only [Core.blocked, List.any_eq_false]
  intro e he
  simp [h e he]

theorem headerFree_wrote {s t : State} {p r wb : Nat} (a : s.Wrote p r t) (hr : r ≠ wb) (h : s.HeaderFree p wb) : t.HeaderFree p wb := by
  refine ⟨(busy_congr a.kept ?_ (by rw [a.strands])).trans h.1, (locked_congr a.kept).trans h.2⟩
  rcases a.late with e | ⟨l, hl, e⟩ <;> rw [e]
  simp [hl, hr]

/-! ## The steps of a selector -/

theorem settled_modStrand {s : State} {p k wb : Nat} {f : Strand → Strand} {w : Prop}
    (hf : w → ∀ r, (f (s.strand p k)).binds r = (s.strand p k).binds r) : s.Settled w p k wb (s.modStrand p k f) where
  outside := rfl
  insts := rfl
  others q h := core_modCore_other h
  kept := by rw [State.modStrand, core_modCore_same]; rfl
  fb := by rw [State.modStrand, core_modCore_same]; rfl
  utlb := by rw [State.modStrand, core_modCore_same]; rfl
  strands j h := strand_modStrand_other (.inr h)
  rows i _ := row_modStrand ..
  words j _ _ := by rw [row_modStrand]
  late l h := by
    rw [State.modStrand, core_modCore_same] at h
    exact .inl h
  atOnce h := by
    rw [State.HeaderFree, State.modStrand, core_modCore_same]
    exact ⟨rfl, fun hw => ⟨(busy_setStrand (hf hw wb)).trans (h hw).1, (h hw).2⟩⟩

/-- Going on at an address leaves what a strand has bound. -/
theorem settled_goto (s : State) (p k wb : Nat) (a : Word) (w : Prop) : s.Settled w p k wb (s.goto p k a) :=
  settled_modStrand fun _ _ => rfl

/-- A strand that stops for good drops what it has bound; it writes no header. -/
theorem settled_retire (s : State) (p k wb : Nat) : s.Settled False p k wb (s.modStrand p k Strand.retire) := settled_modStrand False.elim

/-- A word of a row outside the one word that a mask touches. -/
theorem rowWord_blend_other {old v : Row} {m : Word} {i j : Nat} (h : j ≠ i) :
    rowWord (blend old (m.zeroExtend 512 <<< (64 * i)) v) j = rowWord old j := by
  apply BitVec.eq_of_getLsbD_eq
  intro b hb
  have hmask : (m.zeroExtend 512 <<< (64 * i) : Row).getLsbD (64 * j + b) = false := by
    rw [BitVec.getLsbD_shiftLeft]
    by_cases hlt : 64 * j + b < 64 * i
    · simp [hlt]
    · have hge : 64 ≤ 64 * j + b - 64 * i := by omega
      simp [BitVec.getLsbD_of_ge m _ hge]
  simp only [rowWord, BitVec.getLsbD_extractLsb', hb, blend_bit, hmask, Bool.false_eq_true, if_false]

theorem settled_putHmask {s : State} {p k wb : Nat} {w : Prop} (m v : Word) (hwb : (s.strand p k).wb = wb) (hw : w) :
    s.Settled w p k wb (s.putHmask p k 6 m v) := by
  have a := wrote_writeRow s p wb 1 (m.zeroExtend 512 <<< (64 * 6)) (v.zeroExtend 512 <<< (64 * 6))
  rw [State.putHmask, hwb]
  refine ⟨a.outside, a.insts, a.others, a.kept, a.fb, a.utlb, fun j _ => ?_, a.rows, fun j _ h6 => ?_, fun l hl => ?_, fun hfree => ?_⟩
  · rw [State.strand, State.strand, Core.strand, Core.strand, a.strands]
  · rcases writeRow_cases s p wb 1 (m.zeroExtend 512 <<< (64 * 6)) (v.zeroExtend 512 <<< (64 * 6)) with e | ⟨l, -, e⟩ <;> rw [e]
    · rw [row_blendRow_same, rowWord_blend_other h6]
    · simp [State.row, Core.row]
  · rcases a.late with e | ⟨l', hl', e⟩ <;> rw [e] at hl
    · exact .inl hl
    · rcases List.mem_append.mp hl with h | h
      · exact .inl h
      · exact .inr (List.mem_singleton.mp h ▸ hl')
  · have hf := hfree hw
    have e : s.writeRow p wb 1 (m.zeroExtend 512 <<< (64 * 6)) (v.zeroExtend 512 <<< (64 * 6)) =
        s.blendRow p wb (m.zeroExtend 512 <<< (64 * 6)) (v.zeroExtend 512 <<< (64 * 6)) :=
      if_pos ⟨Nat.le_refl 1, blocked_of_not_busy hf.1 .., hf.2⟩
    rw [e, State.HeaderFree, State.blendRow, core_modCore_same]
    exact ⟨rfl, fun _ => hf⟩

/-! ### The end of the control strand -/

theorem endedPart_modCore {s : State} {p : Nat} {f : Core → Core} (hr : (f (s.core p)).rows = (s.core p).rows)
    (hl : (f (s.core p)).late = (s.core p).late) (hf : (f (s.core p)).fb = (s.core p).fb) (hu : (f (s.core p)).utlb = (s.core p).utlb) :
    s.EndedPart p (s.modCore p f) :=
  ⟨rfl, fun _ h => core_modCore_other h, by rw [core_modCore_same, hr], by rw [core_modCore_same, hl], by rw [core_modCore_same, hf],
    by rw [core_modCore_same, hu]⟩

theorem endedPart_modStrand (s : State) (p k : Nat) (f : Strand → Strand) : s.EndedPart p (s.modStrand p k f) := endedPart_modCore rfl rfl rfl rfl

theorem endedPart_modInst (s : State) (p n : Nat) (f : Instance → Instance) : s.EndedPart p (s.modInst n f) := by
  unfold State.modInst
  split
  · exact ⟨rfl, fun _ _ => rfl, rfl, rfl, rfl, rfl⟩
  · exact .refl p s

theorem endedPart_withdraw (s : State) (p g : Nat) : s.EndedPart p (s.withdraw p g) := by
  unfold State.withdraw
  split
  · exact .refl p s
  · exact (endedPart_modInst ..).trans (endedPart_modCore rfl rfl rfl rfl)

theorem endedPart_leaveLds (s : State) (p k : Nat) : s.EndedPart p (s.leaveLds p k) := by
  unfold State.leaveLds State.dropLoad
  split
  · split
    · exact endedPart_modCore rfl rfl rfl rfl
    · exact .refl p s
  · exact .refl p s

theorem endedPart_killHelper (s : State) (p k : Nat) : s.EndedPart p (s.killHelper p k) := by
  unfold State.killHelper
  split
  · refine .trans (.trans (.trans (endedPart_leaveLds s p k) (.foldl (fun x g => ?_) _ _)) (endedPart_modStrand ..)) (endedPart_modCore rfl rfl rfl rfl)
    split
    · split
      · exact endedPart_withdraw ..
      · exact .refl p x
    · exact .refl p x
  · exact .refl p s

theorem endedPart_endControl (s : State) (p : Nat) : s.EndedPart p (s.endControl p) := by
  unfold State.endControl
  dsimp only
  have a := (State.EndedPart.foldl (fun x k => endedPart_killHelper x p k) (s.core p).helpers s).trans (endedPart_modStrand _ p 0 (Strand.finish 0))
  split
  · exact (a.trans (endedPart_modCore rfl rfl rfl rfl)).trans (endedPart_modInst ..)
  · exact a.trans (endedPart_modCore rfl rfl rfl rfl)

/-! ### A record for the field book (R367, R370) -/

theorem recorded_modCore {s : State} {p : Nat} {f : Core → Core} (hr : (f (s.core p)).rows = (s.core p).rows)
    (hl : (f (s.core p)).late = (s.core p).late) (hs : (f (s.core p)).strands = (s.core p).strands)
    (hk : (f (s.core p)).keptTraced = (s.core p).keptTraced) : s.Recorded p (s.modCore p f) :=
  ⟨rfl, rfl, fun _ h => core_modCore_other h, by rw [core_modCore_same, hr], by rw [core_modCore_same, hl], by rw [core_modCore_same, hs],
    by rw [core_modCore_same, hk]⟩

/-- A change outside the cores and the instances of what a record may touch. -/
theorem recorded_outside {s t : State} {p : Nat} (hc : t.cores = s.cores) (hi : t.insts = s.insts) (ho : t.keptTraced = s.keptTraced) :
    s.Recorded p t := by
  have h : ∀ q, t.core q = s.core q := fun q => by rw [State.core, hc]; rfl
  exact ⟨ho, hi, fun q _ => h q, by rw [h], by rw [h], by rw [h], by rw [h]⟩

theorem recorded_drawn (s : State) (p : Nat) : s.Recorded p s.drawn := recorded_outside rfl rfl rfl
theorem recorded_modCluster (s : State) (p n : Nat) (f : Cluster → Cluster) : s.Recorded p (s.modCluster n f) := recorded_outside rfl rfl rfl
theorem recorded_modDie (s : State) (p n : Nat) (f : Die → Die) : s.Recorded p (s.modDie n f) := recorded_outside rfl rfl rfl
theorem recorded_store (s : State) (p l : Nat) (bs : List Byte) : s.Recorded p (s.store l bs) := recorded_outside rfl rfl rfl
theorem recorded_markStale (s : State) (p l n : Nat) : s.Recorded p (s.markStale l n) := recorded_outside rfl rfl rfl
theorem recorded_cleanse (s : State) (p l n : Nat) : s.Recorded p (s.cleanse l n) := recorded_outside rfl rfl rfl

theorem recorded_install (s : State) (p : Nat) (e : TlbEntry) : s.Recorded p (s.install p e) := by
  unfold State.install
  exact (((recorded_drawn s p).trans (recorded_modCore rfl rfl rfl rfl)).trans (recorded_modCluster ..)).trans (recorded_modDie ..)

theorem recorded_walked (s : State) (p : Nat) (va : Word) : s.Recorded p (s.walked p va) := by
  unfold State.walked
  split
  · exact .refl p s
  · split
    · exact .refl p s
    · split
      · exact .refl p s
      · exact recorded_install ..

theorem recorded_dropAt (s : State) (p : Nat) (d : Option Nat) : s.Recorded p (s.dropAt d) := by
  unfold State.dropAt
  split
  · exact recorded_modDie ..
  · exact .refl p s

theorem recorded_fbStore (s : State) (p l : Nat) (rs : Bool) (bs : List Byte) : s.Recorded p (s.fbStore p l rs bs) := by
  have stored := (recorded_walked s p (s.core p).fb.slot).trans (recorded_store _ p l bs)
  unfold State.fbStore
  dsimp only
  split
  · exact ((stored.trans (recorded_markStale ..)).trans (recorded_cleanse ..)).trans (recorded_modCore rfl rfl rfl rfl)
  · exact (stored.trans (recorded_cleanse ..)).trans (recorded_modCore rfl rfl rfl rfl)

theorem recorded_fbPut (s : State) (p : Nat) (bs : List Byte) : s.Recorded p (s.fbPut p bs) := by
  have made : ∀ x : State, x.Recorded p (x.modCore p fun c => { c with fb := { c.fb with last := s.now } }) :=
    fun x => recorded_modCore rfl rfl rfl rfl
  have wait : s.Recorded p (s.fbWait p bs) := recorded_modCore rfl rfl rfl rfl
  unfold State.fbPut
  dsimp only
  split
  · exact wait.trans (made _)
  · split
    · split
      · exact wait.trans (made _)
      · exact (recorded_fbStore ..).trans (made _)
    · exact (recorded_dropAt ..).trans (recorded_modCore rfl rfl rfl rfl)
    · exact recorded_modCore rfl rfl rfl rfl

theorem recorded_fbRecord (s : State) (p kind value : Nat) (w2 w3 : Word) : s.Recorded p (s.fbRecord p kind value w2 w3) := by
  unfold State.fbRecord
  extract_lets c shadow room s1 s2
  have marker : s.Recorded p s2 := (recorded_fbPut ..).trans (recorded_modCore rfl rfl rfl rfl)
  split
  · exact .refl p s
  · split
    · exact recorded_modCore rfl rfl rfl rfl
    · split
      · split
        · exact marker.trans (recorded_fbPut ..)
        · exact marker
      · exact recorded_fbPut ..

theorem recorded_traceSel (s : State) (p : Nat) (a b : Word) : s.Recorded p (s.traceSel p a b) := by
  unfold State.traceSel
  split
  · exact recorded_fbRecord ..
  · exact .refl p s

/-! ## The selector (R174 to R176) -/

/-- A selector is taken: it does not go on at the next word, and is no REP. -/
def SelectorTaken (h : Hdr) (cond : Bool) : Prop := h.na ≠ 0 ∧ h.na ≠ 6 ∧ cond = true

/-- A selector writes the loop word: it is a REP, or acts in an open body (R75, R76). -/
def State.writesLoop (src : State) (p k : Nat) (h : Hdr) : Prop := h.na = 6 ∨ src.inBody p k = true

/-- The body of a taken selector is left: its buffer closes (R76). -/
def State.leftBody (s src : State) (p k : Nat) : State := if src.inBody p k then s.putHbits p k 6 52 1 0 else s

theorem settled_rep (s src : State) {p k : Nat} {h : Hdr} (hna : h.na = 6) :
    s.Settled (src.writesLoop p k h) p k (s.strand p k).wb (s.rep src p k) := by
  have put : ∀ m v, s.Settled (src.writesLoop p k h) p k (s.strand p k).wb (s.putHmask p k 6 m v) := fun m v =>
    settled_putHmask m v rfl (.inl hna)
  unfold State.rep
  dsimp only
  split
  · exact (put ..).trans (settled_goto ..)
  · exact (put ..).trans (settled_goto ..)

theorem settled_nextWord (s src : State) (p k : Nat) (h : Hdr) :
    s.Settled (src.writesLoop p k h) p k (s.strand p k).wb (s.nextWord p k (src.inBody p k)) := by
  have go := settled_goto s p k (s.strand p k).wb ((s.strand p k).pc + 8) (src.writesLoop p k h)
  unfold State.nextWord
  dsimp only
  split
  · next hin =>
    split
    · exact go.trans (settled_modStrand fun _ _ => rfl)
    · exact go.trans (settled_putHmask _ _ (by rw [State.goto, strand_modStrand_same]) (.inr hin))
  · exact go

theorem settled_leftBody (s src : State) (p k : Nat) (h : Hdr) :
    s.Settled (src.writesLoop p k h) p k (s.strand p k).wb (s.leftBody src p k) := by
  unfold State.leftBody
  split
  · next hin => exact settled_putHmask _ _ rfl (.inr hin)
  · exact .refl ..

theorem select_not_taken {s src : State} {p k : Nat} {h : Hdr} {cond : Bool} (ht : ¬SelectorTaken h cond) :
    s.Settled (src.writesLoop p k h) p k (s.strand p k).wb (s.select src p k h cond) := by
  unfold State.select
  dsimp only
  split
  · next h6 => exact settled_rep s src (BitVec.eq_of_toNat_eq h6)
  · next h6 =>
    have hno : h.na.toNat = 0 ∨ cond = false := by
      by_contra hc
      rw [not_or] at hc
      exact ht ⟨fun e => hc.1 (by rw [e]; rfl), fun e => h6 (by rw [e]; rfl), by simpa using hc.2⟩
    rw [if_pos hno]
    exact settled_nextWord ..

/-- A taken selector leaves its body, makes its record, and then ends the strand or goes on where it aims. -/
theorem select_taken {s src : State} {p k : Nat} {h : Hdr} {cond : Bool} (ht : SelectorTaken h cond) :
    let y := (s.leftBody src p k).traceSel p (s.strand p k).pc (src.aim p k h (s.strand p k).pc)
    s.select src p k h cond =
      if h.na = 7 then (if k = 0 then y.endControl p else y.modStrand p k Strand.retire)
      else y.goto p k (src.aim p k h (s.strand p k).pc) := by
  obtain ⟨h0, h6, rfl⟩ := ht
  have n0 : h.na.toNat ≠ 0 := fun e => h0 (BitVec.eq_of_toNat_eq e)
  have n6 : h.na.toNat ≠ 6 := fun e => h6 (BitVec.eq_of_toNat_eq e)
  have n7 : h.na.toNat = 7 ↔ h.na = 7 := ⟨fun e => BitVec.eq_of_toNat_eq e, fun e => by rw [e]; rfl⟩
  have n5 : h.na.toNat = 5 ↔ h.na = 5 := ⟨fun e => BitVec.eq_of_toNat_eq e, fun e => by rw [e]; rfl⟩
  simp only [State.select, State.aim, State.leftBody, n0, n6, n7, n5, Bool.true_eq_false, or_self, if_false]
  split
  · rfl
  · rfl

theorem kept_of_outside {s t : State} (h : t.outside = s.outside) : t.kept = s.kept := (congrArg State.kept h :)

theorem keptTraced_of_outside {s t : State} (h : t.outside = s.outside) : t.keptTraced = s.keptTraced := (congrArg State.keptTraced h :)

theorem keptTraced_of_kept {c d : Core} (h : d.kept = c.kept) : d.keptTraced = c.keptTraced := (congrArg Core.keptTraced h :)

/-- How a taken selector ends: the strand stops for good, with its core where it is the control strand, or goes on. -/
def State.finish (y : State) (p k : Nat) (h : Hdr) (a : Word) : State :=
  if h.na = 7 then (if k = 0 then y.endControl p else y.modStrand p k Strand.retire) else y.goto p k a

theorem endedPart_finish (y : State) (p k : Nat) (h : Hdr) (a : Word) : y.EndedPart p (y.finish p k h a) := by
  unfold State.finish
  split
  · split
    · exact endedPart_endControl ..
    · exact endedPart_modStrand ..
  · exact endedPart_modStrand ..

theorem settled_finish (y : State) {p k : Nat} (wb : Nat) {h : Hdr} (a : Word) (hs : h.na ≠ 7 ∨ k ≠ 0) :
    y.Settled False p k wb (y.finish p k h a) := by
  unfold State.finish
  split
  · next h7 =>
    rw [if_neg (hs.resolve_left (· h7))]
    exact settled_retire ..
  · exact settled_goto ..

/-- What a selector leaves: `stays` says that it does not end the control strand. -/
structure State.Selected (w stays : Prop) (p k wb : Nat) (s t : State) : Prop where
  outside : t.keptTraced = s.keptTraced
  others : ∀ q, q ≠ p → t.core q = s.core q
  rows : ∀ i, i ≠ wb → t.row p i = s.row p i
  words : ∀ j < 8, j ≠ 6 → rowWord (t.row p wb) j = rowWord (s.row p wb) j
  late : ∀ l ∈ (t.core p).late, l ∈ (s.core p).late ∨ l.row = wb
  atOnce : (w → s.HeaderFree p wb) → (t.core p).late = (s.core p).late
  stays : stays → (t.core p).keptTraced = (s.core p).keptTraced ∧ t.insts = s.insts ∧ ∀ j, j ≠ k → t.strand p j = s.strand p j

theorem State.Settled.selected {w stays : Prop} {p k wb : Nat} {s t : State} (a : s.Settled w p k wb t) : s.Selected w stays p k wb t where
  outside := keptTraced_of_outside a.outside
  others := a.others
  rows := a.rows
  words := a.words
  late := a.late
  atOnce h := (a.atOnce h).1
  stays _ := ⟨keptTraced_of_kept a.kept, a.insts, a.strands⟩

theorem State.Recorded.row {p : Nat} {s t : State} (a : s.Recorded p t) (i : Nat) : t.row p i = s.row p i := by
  rw [State.row, State.row, Core.row, Core.row, a.rows]

theorem State.EndedPart.row {p : Nat} {s t : State} (a : s.EndedPart p t) (i : Nat) : t.row p i = s.row p i := by
  rw [State.row, State.row, Core.row, Core.row, a.rows]

theorem State.Recorded.strand {p : Nat} {s t : State} (a : s.Recorded p t) (j : Nat) : t.strand p j = s.strand p j := by
  rw [State.strand, State.strand, Core.strand, Core.strand, a.strands]

theorem selected_select (s src : State) (p k : Nat) (h : Hdr) (cond : Bool) :
    s.Selected (src.writesLoop p k h) (h.na ≠ 7 ∨ k ≠ 0) p k (s.strand p k).wb (s.select src p k h cond) := by
  by_cases ht : SelectorTaken h cond
  · have left := settled_leftBody s src p k h
    have trace := recorded_traceSel (s.leftBody src p k) p (s.strand p k).pc (src.aim p k h (s.strand p k).pc)
    have ended := endedPart_finish ((s.leftBody src p k).traceSel p (s.strand p k).pc (src.aim p k h (s.strand p k).pc)) p k h
      (src.aim p k h (s.strand p k).pc)
    rw [select_taken ht]
    change State.Selected _ _ _ _ _ _ (State.finish _ p k h _)
    refine ⟨?_, fun q hq => ?_, fun i hi => ?_, fun j hj h6 => ?_, fun l hl => ?_, fun hfree => ?_, fun hs => ?_⟩
    · exact (keptTraced_of_outside ended.outside).trans (trace.outside.trans (keptTraced_of_outside left.outside))
    · exact (ended.others q hq).trans ((trace.others q hq).trans (left.others q hq))
    · exact (ended.row i).trans ((trace.row i).trans (left.rows i hi))
    · rw [ended.row, trace.row, left.words j hj h6]
    · rw [ended.late, trace.late] at hl
      exact left.late l hl
    · exact ended.late.trans (trace.late.trans (left.atOnce hfree).1)
    · have go := settled_finish (p := p) ((s.leftBody src p k).traceSel p (s.strand p k).pc (src.aim p k h (s.strand p k).pc)) 0
        (src.aim p k h (s.strand p k).pc) hs
      exact ⟨(keptTraced_of_kept go.kept).trans (trace.kept.trans (keptTraced_of_kept left.kept)),
        go.insts.trans (trace.insts.trans left.insts),
        fun j hj => (go.strands j hj).trans ((trace.strand j).trans (left.strands j hj))⟩
  · exact (select_not_taken ht).selected

/-- A selector that makes no record touches nothing outside its core but the instances that an END reaches. -/
theorem select_untraced {s : State} (src : State) {p : Nat} (k : Nat) {h : Hdr} (cond : Bool) (hu : s.untraced p h) :
    (s.select src p k h cond).outside = s.outside ∧
      (h.na ≠ 7 ∨ k ≠ 0 → ((s.select src p k h cond).core p).kept = (s.core p).kept) := by
  by_cases ht : SelectorTaken h cond
  · have left := settled_leftBody s src p k h
    have silent : ∀ a b, (s.leftBody src p k).traceSel p a b = s.leftBody src p k := by
      intro a b
      rw [State.traceSel, left.fb]
      rcases hu with h4 | h2 | h0 | h6
      · exact if_neg (by rw [h4]; decide)
      · split
        · rw [State.fbRecord, left.fb]
          exact if_pos (.inl h2)
        · rfl
      · exact absurd h0 ht.1
      · exact absurd h6 ht.2.1
    rw [select_taken ht, silent]
    exact ⟨(endedPart_finish _ p k h _).outside.trans left.outside, fun hs => (settled_finish _ 0 _ hs).kept.trans left.kept⟩
  · have a := select_not_taken (s := s) (src := src) (p := p) (k := k) ht
    exact ⟨a.outside, fun _ => a.kept⟩

/-- A selector that may be traced leaves memory and translations as the record of a taken one makes them. -/
theorem select_traced {s : State} (src : State) {p : Nat} (k : Nat) {h : Hdr} (cond : Bool) (hu : ¬s.untraced p h) :
    let y := if cond then (s.leftBody src p k).fbRecord p 3 0 (s.strand p k).pc (src.aim p k h (s.strand p k).pc) else s
    let t := s.select src p k h cond
    t.outside = y.outside ∧ (t.core p).utlb = (y.core p).utlb ∧ (t.core p).fb = (y.core p).fb := by
  simp only [State.untraced, not_or] at hu
  obtain ⟨h4, -, h0, h6⟩ := hu
  cases cond with
  | false =>
    have a := select_not_taken (s := s) (src := src) (p := p) (k := k) (h := h) (cond := false) fun ht => Bool.false_ne_true ht.2.2
    exact ⟨a.outside, a.utlb, a.fb⟩
  | true =>
    have left := settled_leftBody s src p k h
    have made : ∀ a b, (s.leftBody src p k).traceSel p a b = (s.leftBody src p k).fbRecord p 3 0 a b := fun a b => by
      rw [State.traceSel, left.fb, if_pos (by simpa using h4)]
    have ended := fun y => endedPart_finish y p k h (src.aim p k h (s.strand p k).pc)
    rw [select_taken ⟨h0, h6, rfl⟩, made, if_pos rfl]
    exact ⟨(ended _).outside, (ended _).utlb, (ended _).fb⟩

/-! ## The issue of a word (R53) -/

/-- What a charge leaves, but for what the hawk of the core that pays holds and for the energy accounts (R358). -/
theorem pay_leaves (s : State) (p k n : Nat) : (s.pay p k n).outside = s.outside ∧ (s.pay p k n).insts = s.insts ∧
    ∃ a b : Nat, (s.pay p k n).cores = (s.setCore p { s.core p with power := { (s.core p).power with tokens := a, frac := b } }).cores ∨
      (s.pay p k n).cores = s.cores := by
  unfold State.pay
  split
  · exact ⟨rfl, rfl, 0, 0, .inr rfl⟩
  · dsimp only
    split
    · exact ⟨rfl, rfl, _, _, .inl rfl⟩
    · split
      · exact ⟨rfl, rfl, _, _, .inl rfl⟩
      · exact ⟨rfl, rfl, _, _, .inl rfl⟩

theorem core_congr {s t : State} (h : t.cores = s.cores) (q : Nat) : t.core q = s.core q := by rw [State.core, h]; rfl

theorem core_pay_other {s : State} {p k n q : Nat} (hq : q ≠ p) : (s.pay p k n).core q = s.core q := by
  obtain ⟨-, -, a, b, h | h⟩ := pay_leaves s p k n
  · exact (core_congr h q).trans (core_setCore_other hq)
  · exact core_congr h q

theorem kept_pay (s : State) (p k n : Nat) : ((s.pay p k n).core p).kept = (s.core p).kept ∧ ((s.pay p k n).core p).fb = (s.core p).fb ∧
    ((s.pay p k n).core p).strands = (s.core p).strands := by
  obtain ⟨-, -, a, b, h | h⟩ := pay_leaves s p k n
  · rw [core_congr h, core_setCore_same]
    exact ⟨rfl, rfl, rfl⟩
  · rw [core_congr h]
    exact ⟨rfl, rfl, rfl⟩

/-- What the issue of a word of strand `k` of core `p` leaves, and what its effect on one register row then leaves as well. -/
structure State.Begun (p k : Nat) (s t : State) : Prop where
  outside : t.outside = s.outside
  insts : t.insts = s.insts
  others : ∀ q, q ≠ p → t.core q = s.core q
  kept : (t.core p).kept = (s.core p).kept
  ctl : (t.core p).fb.ctl = (s.core p).fb.ctl
  strands : ∀ j, j ≠ k → t.strand p j = s.strand p j

theorem kept_lose (s : State) (p k : Nat) (w : WordSpec) : (s.lose p k w).kept = (s.core p).kept := rfl

theorem kept_book (c : Core) (n k : Nat) (w : WordSpec) (t : Strand) :
    ({ c.setStrand k t with seq := n, fb := { c.fb.work c.cycle w with ran := true, recent := k } } : Core).kept = c.kept := by
  unfold FBook.work
  cases w.cls <;> rfl

theorem ctl_work (f : FBook) (n : Nat) (w : WordSpec) : (f.work n w).ctl = f.ctl := by
  unfold FBook.work
  split <;> rfl

theorem begun_issued (s : State) (p k : Nat) (w : WordSpec) : s.Begun p k (s.issued p k w) := by
  obtain ⟨hout, hinsts, -⟩ := pay_leaves s p 0 (s.wordCharge p w)
  obtain ⟨hkept, hfb, hstrands⟩ := kept_pay s p 0 (s.wordCharge p w)
  unfold State.issued
  refine ⟨hout, hinsts, fun q h => (core_setCore_other h).trans (core_pay_other h), ?_, ?_, fun j h => ?_⟩
  · rw [core_setCore_same, kept_book, kept_lose, hkept]
  · rw [core_setCore_same]
    exact (ctl_work ..).trans (congrArg FBook.ctl hfb :)
  · rw [State.strand, core_setCore_same]
    refine (look_put_other h _).trans ?_
    rw [State.lose, hstrands]
    rfl

theorem headerFree_issued {s : State} {p wb : Nat} (k : Nat) (w : WordSpec) (hf : s.HeaderFree p wb) : (s.issued p k w).HeaderFree p wb := by
  have hkept := (begun_issued s p k w).kept
  have hlate : ((s.issued p k w).core p).late = (s.core p).late := (issued_core s p k p w).2.1
  have hstrands : (((s.issued p k w).core p).strands.any fun t => t.2.binds wb) = (s.core p).strands.any fun t => t.2.binds wb := by
    obtain ⟨t, hput, ht⟩ : ∃ t : Strand, ((s.issued p k w).core p).strands = put k t (s.core p).strands ∧
        t.binds wb = (s.strand p k).binds wb := by
      unfold State.issued
      rw [core_setCore_same]
      refine ⟨_, (congrArg (put k _ ·) (kept_pay s p 0 (s.wordCharge p w)).2.2 :), ?_⟩
      exact (congrArg (Strand.binds wb <| look Strand.idle k ·) (kept_pay s p 0 (s.wordCharge p w)).2.2 :)
    rw [hput]
    exact any_put (f := Strand.binds wb) (idle_binds wb) ht
  exact ⟨(busy_congr hkept (by rw [hlate]) hstrands).trans hf.1, (locked_congr hkept).trans hf.2⟩

/-! ## The effect of a word that writes one register -/

theorem inBody_issued (s : State) (p k : Nat) (w : WordSpec) : (s.issued p k w).inBody p k = s.inBody p k := by
  simp only [State.inBody, State.ract, issued_hword, issued_wb, issued_aside]

theorem stagger_issued (s : State) (p k field : Nat) (w : WordSpec) : (s.issued p k w).stagger p k field = s.stagger p k field := by
  unfold State.stagger
  rw [inBody_issued, issued_hword]

theorem rowOfD_issued (s : State) (p k : Nat) (w : WordSpec) (vec : Bool) (d : BitVec 8) :
    (s.issued p k w).rowOfD p k vec d = s.rowOfD p k vec d := by
  simp only [State.rowOfD, State.vName, State.sName, stagger_issued, issued_wb]

/-- Such an effect is none, or a write of the row that field D names. -/
theorem effect_writes {h : Hdr} {vec : Bool} {d : BitVec 8} {eff : Nat → Nat → State → State} (hw : WritesReg h vec d eff) (p k : Nat) (x : State) :
    eff p k x = x ∨ ∃ lat m v, eff p k x = x.writeRow p (x.rowOfD p k vec d) lat m v := by
  obtain ⟨rfl, lat, f, rfl | rfl⟩ | ⟨rfl, lat, n, f, rfl⟩ := hw
  · exact .inr ⟨_, _, _, rfl⟩
  · unfold intoSq
    split
    · exact .inr ⟨_, _, _, rfl⟩
    · exact .inl rfl
  · exact .inr ⟨_, _, _, rfl⟩

theorem State.Wrote.begun {p r : Nat} {s x t : State} (k : Nat) (a : s.Begun p k x) (b : x.Wrote p r t) : s.Begun p k t where
  outside := b.outside.trans a.outside
  insts := b.insts.trans a.insts
  others q h := (b.others q h).trans (a.others q h)
  kept := b.kept.trans a.kept
  ctl := (congrArg FBook.ctl b.fb).trans a.ctl
  strands j h := by rw [← a.strands j h, State.strand, State.strand, Core.strand, Core.strand, b.strands]

/-- What the effect of a word that writes one register leaves, before its selector. -/
theorem went_leaves {h : Hdr} {w : WordSpec} {eff : Nat → Nat → State → State} {vec : Bool} {d : BitVec 8} {s : State}
    (hw : WritesReg h vec d eff) (hg : (s.core s.focus.pcid).gang = none) :
    (s.issued s.focus.pcid s.focus.strand w).Wrote s.focus.pcid (s.rowOfD s.focus.pcid s.focus.strand vec d) (s.went h w eff) := by
  have e : s.went h w eff = w.on h eff s.focus.strand s.focus.pcid (s.issued s.focus.pcid s.focus.strand w) := by
    simp [State.went, members_alone hg, begun_alone hg]
  have none : ∀ (x : State) (p r : Nat), x.Wrote p r x := fun x p r =>
    ⟨rfl, rfl, fun _ _ => rfl, rfl, rfl, rfl, rfl, fun _ _ => rfl, .inl rfl⟩
  rw [e, WordSpec.on]
  split
  · exact none ..
  · rcases effect_writes hw s.focus.pcid s.focus.strand (s.issued s.focus.pcid s.focus.strand w) with e | ⟨lat, m, v, e⟩
    · rw [e]
      exact none ..
    · rw [e, rowOfD_issued]
      exact wrote_writeRow ..

/-! ## What a passed check says of the header -/

/-- A word that passes its checks is no REP outside an open body, and finds the header row of an open body ready to be written. -/
theorem check_header {s : State} {p k : Nat} {h : Hdr} {w : WordSpec} (c : s.check p k h w = .go) (hn : w.noHeader = false) :
    (h.na = 6 → s.inBody p k = true) ∧ (s.inBody p k = true → s.HeaderFree p (s.strand p k).wb) := by
  unfold State.check at c
  dsimp only at c
  split at c
  · cases c
  next hheld =>
    rw [pre_of_check (w := w) (by unfold State.check; dsimp only; rw [if_neg hheld]; exact c)] at c
    dsimp only at c
    split at c
    · cases c
    · split at c
      · cases c
      next hrep =>
        refine ⟨fun h6 => by simpa [h6] using (not_or.mp hrep).2, fun hin => ?_⟩
        obtain ⟨hbusy, hlocked, -⟩ := by simpa [State.headerHeld, State.readsHeader, hin, hn] using hheld
        exact ⟨hbusy, hlocked⟩

/-! ## A word that writes one register -/

/-- The state by which the selector of a word goes (R175). -/
def State.selectsBy (s : State) (h : Hdr) (w : WordSpec) (eff : Nat → Nat → State → State) : State :=
  if w.cls.seesOwn then s.went h w eff else s

/-- A word of a core that is not fused has its effect there, and then its selector. -/
theorem ran_alone {s : State} (h : Hdr) (w : WordSpec) (eff : Nat → Nat → State → State) (hg : (s.core s.focus.pcid).gang = none) :
    s.ran h w eff = (s.went h w eff).select (s.selectsBy h w eff) s.focus.pcid s.focus.strand h
      ((s.selectsBy h w eff).condition s.focus.pcid s.focus.strand h) := by
  simp [State.ran, State.selectAll, State.selectsBy, members_alone hg]

section
variable {h : Hdr} {w : WordSpec} {eff : Nat → Nat → State → State} {vec : Bool} {d : BitVec 8} {s : State}

theorem begun_went (hw : WritesReg h vec d eff) (hg : (s.core s.focus.pcid).gang = none) :
    s.Begun s.focus.pcid s.focus.strand (s.went h w eff) :=
  (went_leaves hw hg).begun _ (begun_issued ..)

theorem row_went (hw : WritesReg h vec d eff) (hg : (s.core s.focus.pcid).gang = none) {r : Nat}
    (hr : r ≠ s.rowOfD s.focus.pcid s.focus.strand vec d) : (s.went h w eff).row s.focus.pcid r = s.row s.focus.pcid r := by
  rw [(went_leaves hw hg).rows r hr, issued_row]

theorem strand_went (hw : WritesReg h vec d eff) (hg : (s.core s.focus.pcid).gang = none) :
    (s.went h w eff).strand s.focus.pcid s.focus.strand =
      (s.issued s.focus.pcid s.focus.strand w).strand s.focus.pcid s.focus.strand := by
  rw [State.strand, State.strand, Core.strand, Core.strand, (went_leaves hw hg).strands]

theorem wb_went (hw : WritesReg h vec d eff) (hg : (s.core s.focus.pcid).gang = none) :
    ((s.went h w eff).strand s.focus.pcid s.focus.strand).wb = (s.strand s.focus.pcid s.focus.strand).wb := by
  rw [strand_went hw hg, issued_wb]

theorem pc_went (hw : WritesReg h vec d eff) (hg : (s.core s.focus.pcid).gang = none) :
    ((s.went h w eff).strand s.focus.pcid s.focus.strand).pc = (s.strand s.focus.pcid s.focus.strand).pc := by
  rw [strand_went hw hg, issued_pc]

theorem late_went (hw : WritesReg h vec d eff) (hg : (s.core s.focus.pcid).gang = none) :
    ∀ l ∈ ((s.went h w eff).core s.focus.pcid).late,
      l ∈ (s.core s.focus.pcid).late ∨ l.row = s.rowOfD s.focus.pcid s.focus.strand vec d := by
  have hissued : ((s.issued s.focus.pcid s.focus.strand w).core s.focus.pcid).late = (s.core s.focus.pcid).late :=
    (issued_core s s.focus.pcid s.focus.strand s.focus.pcid w).2.1
  intro l hl
  rcases (went_leaves hw hg).late with e | ⟨l', hl', e⟩ <;> rw [e, hissued] at hl
  · exact .inl hl
  · exact (List.mem_append.mp hl).imp_right fun hmem => (congrArg Late.row (List.mem_singleton.mp hmem)).trans hl'

/-- A body is open after the effect of a word where it was before, unless the effect writes the header row. -/
theorem inBody_went (hw : WritesReg h vec d eff) (hg : (s.core s.focus.pcid).gang = none)
    (hr : s.rowOfD s.focus.pcid s.focus.strand vec d ≠ (s.strand s.focus.pcid s.focus.strand).wb) :
    (s.went h w eff).inBody s.focus.pcid s.focus.strand = s.inBody s.focus.pcid s.focus.strand := by
  simp only [State.inBody, State.ract, State.hword, State.header, strand_went hw hg, issued_wb, row_went hw hg hr.symm, issued_aside]

theorem inBody_selectsBy (hw : WritesReg h vec d eff) (hg : (s.core s.focus.pcid).gang = none)
    (hr : s.rowOfD s.focus.pcid s.focus.strand vec d ≠ (s.strand s.focus.pcid s.focus.strand).wb) :
    (s.selectsBy h w eff).inBody s.focus.pcid s.focus.strand = s.inBody s.focus.pcid s.focus.strand := by
  unfold State.selectsBy
  split
  · exact inBody_went hw hg hr
  · rfl

/-- The selector of a word that does not write its header row finds that row ready where it writes the loop word. -/
theorem headerFree_went (hw : WritesReg h vec d eff) (hn : w.noHeader = false) (hg : (s.core s.focus.pcid).gang = none) (hc : Clear h w s)
    (hr : s.rowOfD s.focus.pcid s.focus.strand vec d ≠ (s.strand s.focus.pcid s.focus.strand).wb)
    (hloop : (s.selectsBy h w eff).writesLoop s.focus.pcid s.focus.strand h) :
    (s.went h w eff).HeaderFree s.focus.pcid (s.strand s.focus.pcid s.focus.strand).wb := by
  have hcheck : s.check s.focus.pcid s.focus.strand h w = .go := checkAll_go.mp hc.2 _ (by simp [members_alone hg])
  obtain ⟨hrep, hready⟩ := check_header hcheck hn
  have hin : s.inBody s.focus.pcid s.focus.strand = true := hloop.elim hrep fun hin => (inBody_selectsBy hw hg hr).symm.trans hin
  exact headerFree_wrote (went_leaves hw hg) hr (headerFree_issued _ w (hready hin))

/-- The pending writes that such a word adds are of the row that it names. -/
theorem late_ran (hw : WritesReg h vec d eff) (hn : w.noHeader = false) (hg : (s.core s.focus.pcid).gang = none) (hc : Clear h w s) :
    ∀ l ∈ ((s.ran h w eff).core s.focus.pcid).late,
      l ∈ (s.core s.focus.pcid).late ∨ l.row = s.rowOfD s.focus.pcid s.focus.strand vec d := by
  have sel := selected_select (s.went h w eff) (s.selectsBy h w eff) s.focus.pcid s.focus.strand h
    ((s.selectsBy h w eff).condition s.focus.pcid s.focus.strand h)
  rw [wb_went hw hg] at sel
  intro l hl
  rw [ran_alone h w eff hg] at hl
  by_cases hr : s.rowOfD s.focus.pcid s.focus.strand vec d = (s.strand s.focus.pcid s.focus.strand).wb
  · exact (sel.late l hl).elim (late_went hw hg l) fun e => .inr (e.trans hr.symm)
  · rw [sel.atOnce (headerFree_went hw hn hg hc hr)] at hl
    exact late_went hw hg l hl

/-- Such a word makes a record where the trace was on before it, as its effect leaves the field book's controls. -/
theorem untraced_went (hw : WritesReg h vec d eff) (hg : (s.core s.focus.pcid).gang = none) :
    (s.went h w eff).untraced s.focus.pcid h ↔ s.untraced s.focus.pcid h := by
  rw [State.untraced, (begun_went hw hg).ctl]

end

/-- Settles O59: the issue of a word, the write of its effect and the steps of its selector each leave all but what they name; that no write of
the loop word stays pending is what the checks of the word say of its header row. -/
theorem registerWordFrame : Obligations.RegisterWordFrame := by
  unfold Obligations.RegisterWordFrame
  intro i h w eff vec d s t p k wb row hruns hw hn hg hc hexec
  have ht : t = s.ran h w eff := by
    rw [hruns s hc] at hexec
    exact (Host.Outcome.next.inj hexec).symm
  have hran := ran_alone h w eff hg
  have went : s.Begun p k (s.went h w eff) := begun_went hw hg
  have sel := selected_select (s.went h w eff) (s.selectsBy h w eff) p k h ((s.selectsBy h w eff).condition p k h)
  rw [wb_went hw hg, ← hran, ← ht] at sel
  refine ⟨fun r hrow hwb => ?_, fun hrow j hj h6 => ?_, ht ▸ late_ran hw hn hg hc, fun q hq => ?_, ?_, fun hstays => ?_, fun hu => ?_, ?_⟩
  · rw [sel.rows r hwb, row_went hw hg hrow]
  · rw [sel.words j hj h6, row_went hw hg hrow.symm]
  · rw [sel.others q hq, went.others q hq]
  · rw [sel.outside, keptTraced_of_outside went.outside]
  · obtain ⟨hkept, hinsts, hstrands⟩ := sel.stays hstays
    exact ⟨hkept.trans (keptTraced_of_kept went.kept), hinsts.trans went.insts, fun j hj => (hstrands j hj).trans (went.strands j hj)⟩
  · obtain ⟨hout, hkept⟩ := select_untraced (s.selectsBy h w eff) k ((s.selectsBy h w eff).condition p k h) ((untraced_went hw hg).mpr hu)
    rw [← hran, ← ht] at hout hkept
    have hout' := hout.trans went.outside
    exact ⟨kept_of_outside hout', (congrArg State.mem hout' :), (congrArg State.keyed hout' :), (congrArg State.poison hout' :),
      (congrArg State.clusters hout' :), (congrArg State.parts hout' :), fun hstays => (hkept hstays).trans went.kept⟩
  · intro y hu
    obtain ⟨hout, hutlb, hfb⟩ := select_traced (s.selectsBy h w eff) k ((s.selectsBy h w eff).condition p k h)
      (mt (untraced_went hw hg).mp hu)
    rw [← hran, ← ht, pc_went hw hg] at hout hutlb hfb
    exact ⟨(congrArg State.mem hout :), (congrArg State.keyed hout :), (congrArg State.poison hout :),
      (congrArg State.clusters hout :), (congrArg State.dies hout :), hutlb, hfb⟩

end Sys2Proof.Machine

/-! PROOFS. When a word passes its checks, and what a step runs (R53, R183, R426; log entries 2 and 3). -/

namespace Sys2Proof.Machine

/-! ## The checks of a word -/

/-- No name of a word is past the window limit. -/
theorem limitTrap_eq_none {s : State} {p k : Nat} : ∀ {l : List Opnd}, s.limitTrap p k l = none ↔ ∀ o ∈ l, s.opInWindow p k o = true
  | [] => by simp [State.limitTrap]
  | o :: r => by
    have ih := limitTrap_eq_none (s := s) (p := p) (k := k) (l := r)
    by_cases ho : s.opInWindow p k o = true <;> simp [State.limitTrap, ho, ih]

/-- A word reads its header for EQ, its selector, a use of its own or an open body, unless it awaits nothing of its header. -/
theorem readsHeader_iff {s : State} {p k : Nat} {h : Hdr} {w : WordSpec} :
    s.readsHeader p k h w = true ↔ w.noHeader = false ∧ (h.eq ≠ 0 ∨ h.na ≠ 0 ∨ w.usesHeader = true ∨ s.inBody p k = true) := by
  simp [State.readsHeader, or_assoc]

/-- A header row that holds nothing can be read where the word reads it and written where the word moves in it. -/
theorem headerClear_iff {s : State} {p k : Nat} {h : Hdr} {w : WordSpec} : s.HeaderClear p k h w ↔
    (s.readsHeader p k h w = true → (s.core p).busy (s.strand p k).wb = false ∧ (s.core p).rowBad (s.strand p k).wb = false) ∧
    (w.hw ≠ [] ∨ (s.inBody p k = true ∧ w.noHeader = false) →
      (s.core p).locked (s.strand p k).wb = false ∧ (s.core p).saturated (s.strand p k).wb = false) := by
  have hmoves : (!w.hw.isEmpty || (s.inBody p k && !w.noHeader)) = true ↔ w.hw ≠ [] ∨ (s.inBody p k = true ∧ w.noHeader = false) := by simp
  simp only [State.HeaderClear, State.headerHeld, Bool.or_eq_false_iff, Bool.and_eq_false_imp, hmoves, imp_and]
  exact and_right_comm

/-- A word passes the checks of R426 on a strand where none of them, in their order, holds it or refuses it. -/
theorem check_go_iff {s : State} {p k : Nat} {h : Hdr} {w : WordSpec} : s.check p k h w = .go ↔
    s.HeaderClear p k h w ∧ w.pre p k s = .go ∧ ((s.strand p k).past = false ∧ (h.na = 6 → s.inBody p k = true)) ∧
      s.limitTrap p k w.ops = none ∧ w.ops.any (s.opHeld p k w.atOnce) = false ∧
      ((w.ops.filter (·.src)).find? fun o => (s.core p).rowBad (s.opRow p k o)) = none ∧ s.canPay p (s.wordCharge p w) = true := by
  unfold State.check
  by_cases hc : s.HeaderClear p k h w
  · obtain ⟨hheld, hbad⟩ := hc
    have hrep : ((s.strand p k).past = false ∧ (h.na = 6 → s.inBody p k = true)) ↔
        ¬((s.strand p k).past = true ∨ (h.na = 6 ∧ s.inBody p k = false)) := by
      rw [not_or, Bool.not_eq_true, not_and, Bool.not_eq_false]
    rw [if_neg (by simp [hheld]), if_neg (by simp [hbad]), hrep]
    simp only [State.HeaderClear, hheld, hbad, and_self, true_and]
    cases w.pre p k s with
    | go =>
      by_cases hr : (s.strand p k).past = true ∨ (h.na = 6 ∧ s.inBody p k = false)
      · simp only [hr, if_true, not_true_eq_false, false_and, and_false, reduceCtorEq]
      · simp only [hr, if_false, not_false_eq_true, true_and]
        cases s.limitTrap p k w.ops with
        | some t => simp
        | none =>
          cases w.ops.any (s.opHeld p k w.atOnce) with
          | true => simp
          | false => cases (w.ops.filter (·.src)).find? fun o => (s.core p).rowBad (s.opRow p k o) <;> simp
    | _ => simp
  · simp only [hc, false_and, iff_false]
    rw [State.HeaderClear, not_and_or, Bool.not_eq_false, Bool.not_eq_false] at hc
    split
    · exact Verdict.noConfusion
    next hheld =>
      rw [if_pos (hc.resolve_left hheld)]
      exact Verdict.noConfusion

/-- Settles O52: one member, and its checks one by one. -/
theorem wordChecks : Obligations.WordChecks := by
  unfold Obligations.WordChecks
  intro h w s hg
  have hclear : Clear h w s ↔ s.check s.focus.pcid s.focus.strand h w = .go := by
    simp [Clear, members_alone hg, checkAll_go]
  rw [hclear, check_go_iff, headerClear_iff, readsHeader_iff, limitTrap_eq_none]
  simp only [List.any_eq_false, List.find?_eq_none, List.mem_filter, Bool.not_eq_true, and_imp, and_assoc]

/-! ## What a step runs -/

/-- The meaning of a command's opcode is what the engine runs for it (R186, R310). -/
theorem exec_of_mem_commandsOf {e : Ecw} {i : Instr} {eop : Nat} {run : Runner} (hm : (i, eop, run) ∈ commandsOf e) (s : State) :
    exec i s = runCmd eop e (runnerOf eop) s := by
  have hall : ∀ c ∈ commandsOf e, exec c.1 s = runCmd c.2.1 e (runnerOf c.2.1) s := by
    simp only [commandsOf, List.forall_mem_cons, List.not_mem_nil, false_imp_iff, implies_true, and_true]
    and_intros <;> rfl
  exact hall _ hm

/-- A step makes the environment's next choice in the state that has it behind it (log entry 3). -/
theorem step_act {s : State} {a : Action} {r : List Action} (ha : s.agenda = a :: r) : step s = s.rest.act a := by
  simp only [step, State.rest, ha]
  rfl

/-- A strand whose turn it is fetches its next word where it takes no trap before it and the arbiter takes it (R53, R427, R436). -/
theorem issue_eq_fetch {s : State} {p k : Nat} (hcan : s.canIssue p k = true) (hsnag : s.failedSnag p k = none)
    (hasync : s.asyncDue p k = none) (hahead : s.ahead p k = false) : s.issue p k = s.fetch p k := by
  simp [State.issue, hcan, hsnag, hasync, hahead]

/-- A fetched word that decodes is executed with its strand in focus (R183). -/
theorem runFetched_of_decodeWord {s : State} {p k : Nat} {w : Word} {i : Instr} (hw : decodeWord w = .ok i) :
    s.runFetched p k w = exec i { s.buffered p k w with focus := { pcid := p, strand := k, slot := 0, word := w } } := by
  simp only [State.runFetched, hw]

/-- Settles O45: the action that the environment chose is the fetch of a word, the run of a command or an event. -/
theorem stepRunsDecoded : Obligations.StepRunsDecoded := by
  unfold Obligations.StepRunsDecoded
  intro s r
  refine ⟨fun p k w i ha hcan hsnag hasync hahead hword hdec => ?_, fun p slot m i run ha hhead hmem => ?_, fun i ha => step_act ha⟩
  · have hissue : step s = s.rest.fetch p k := (step_act ha).trans (issue_eq_fetch hcan hsnag hasync hahead)
    rw [hissue, State.fetch, hword]
    exact runFetched_of_decodeWord hdec
  · have hhead' : (s.rest.core p).headCmd slot = some m := hhead
    rw [step_act ha, State.act, State.runEngine, hhead']
    exact (exec_of_mem_commandsOf hmem _).symm

end Sys2Proof.Machine

/-! PROOFS. Supersteps: the exchange units, the exchange barrier and the closure routers (R34 to R45, R108, R384, R410). -/

namespace Sys2Proof.Machine

/-! ## The start of an exchange -/

section
variable {s : State} {p n x : Nat} {i : Instance} {t : Tract}
variable (hinst : s.instOf p = some (n, i)) (htract : s.tractOf p = some t) (hx : i.x = some x) (hdue : x ≤ s.now)
variable (harrived : (s.core p).exch.state = .arrived) (hrun : (s.core p).stop = none) (hstatus : i.status = none)
include hinst htract hx hdue harrived hrun hstatus

/-- A plan that is valid is latched at X (R35, R43). -/
theorem execExchangeStart_of_got {rx : Nat} {l : List PlanRecord} {info : Word} (hplan : s.startPlan p i t = (.got (rx, l), info)) :
    execExchangeStart p s = .next (((s.planWalked p i t).modCore p fun c =>
      { c with exch := { c.exch with state := .exchanging, todo := l, rxtotal := rx } }).addRx p 0 (s.core p).exch.count) := by
  simp [execExchangeStart, hinst, htract, hx, harrived, hrun, hstatus, hplan, Nat.not_lt.mpr hdue]

/-- A plan that is not valid takes the plan trap at X (R43). -/
theorem execExchangeStart_of_bad {d : Option Nat} {info : Word} (hplan : s.startPlan p i t = (.bad d, info)) :
    execExchangeStart p s = .next ((s.dropAt d).planTrap p info) := by
  simp [execExchangeStart, hinst, htract, hx, harrived, hrun, hstatus, hplan, Nat.not_lt.mpr hdue]

end

/-! ## The issue of a record -/

/-- The word of a record that is read next, which a free value picks of the unread ones (R108). -/
def State.pickWord (s : State) (p : Nat) (r : PlanRecord) : Nat :=
  ((s.core p).exch.unread r).getD (s.freeWord.toNat % ((s.core p).exch.unread r).length) 0

/-- Where that word stands. -/
def State.pickLoc (s : State) (p : Nat) (r : PlanRecord) : Nat := s.spaceLoc p r.sspace r.srcoff + 8 * s.pickWord p r

/-- The charge of that word: the record's with its first one (R358). -/
def State.pickCost (s : State) (p : Nat) (r : PlanRecord) : Nat :=
  if (s.core p).exch.read = [] then (r.len + 63) / 64 * s.charge p 13 else 0

/-- The words of a record that have been read once that one has. -/
def State.pickRead (s : State) (p : Nat) (r : PlanRecord) : AMap Word :=
  put (s.pickWord p r) (s.loadWord (s.pickLoc p r)) (s.core p).exch.read

/-- The state once that word is read and paid. -/
def State.picked (s : State) (p : Nat) (r : PlanRecord) : State :=
  (s.drawn.pay p 0 (s.pickCost p r)).modCore p fun c => { c with exch := { c.exch with read := s.pickRead p r } }

section
variable {s : State} {p n : Nat} {i : Instance} {r : PlanRecord}
variable (hinst : s.instOf p = some (n, i)) (hfirst : earliest (s.core p).exch.todo = some r)
variable (hstate : (s.core p).exch.state = .exchanging) (hdue : 2 * i.x.getD 0 + r.offset ≤ 2 * s.now) (hrun : (s.core p).stop = none)
variable (hgood : s.poisoned (s.pickLoc p r) 8 = false) (hpay : s.canPay p (s.pickCost p r) = true)

include hstate hdue hrun hgood hpay in
/-- Nothing keeps the next word of a due record from being read: the core exchanges and runs, the word can be read and paid (R42, R358). -/
theorem recordIssue_enabled : ¬((s.core p).exch.state ≠ .exchanging ∨ 2 * s.now < 2 * i.x.getD 0 + r.offset ∨ (s.core p).stop.isSome = true ∨
    s.poisoned (s.pickLoc p r) 8 = true ∨ (!s.canPay p (s.pickCost p r)) = true) := by
  simp [hstate, hrun, hgood, hpay, Nat.not_lt.mpr hdue]

include hinst hfirst hstate hdue hrun hgood hpay

/-- An enabled record issue reads a word that is not the record's last (R42, R108). -/
theorem execExchangeRecordIssue_of_more (hmore : 1 < ((s.core p).exch.unread r).length) :
    execExchangeRecordIssue p s = .next (s.picked p r) := by
  rw [execExchangeRecordIssue]
  simp only [hinst, hfirst, List.isEmpty_iff]
  exact (if_neg (recordIssue_enabled hstate hdue hrun hgood hpay)).trans (if_pos hmore)

/-- With the last of its words a record leaves (R42, R108). -/
theorem execExchangeRecordIssue_of_last (hlast : ((s.core p).exch.unread r).length ≤ 1) {s2 : State}
    (hsend : (s.picked p r).sendRecord p n i r ((List.range (r.len / 8)).map fun q => look 0 q (s.pickRead p r)) = some s2) :
    execExchangeRecordIssue p s = .next s2 := by
  rw [execExchangeRecordIssue]
  simp only [hinst, hfirst, List.isEmpty_iff]
  refine ((if_neg (recordIssue_enabled hstate hdue hrun hgood hpay)).trans (if_neg (Nat.not_lt.mpr hlast))).trans ?_
  split
  next s3 hsent => exact congrArg _ (Option.some.inj (hsent.symm.trans hsend))
  next hnone => cases hnone.symm.trans hsend

end

/-- An access outside own TCM, of supervisor origin or beside the supervisor area is not barred from that area (R89). -/
theorem not_barred {space : Nat} {sup area : Bool} (hopen : space ≠ 0 ∨ sup = true ∨ area = false) :
    ¬(space = 0 ∧ sup = false ∧ area = true) := by
  rintro ⟨rfl, rfl, rfl⟩
  simp at hopen

/-- A core that is not paired is no shadow. -/
theorem isShadow_alone {s : State} {p : Nat} (h : s.paired p = false) : s.isShadow p = false := by
  unfold State.paired at h
  unfold State.isShadow
  split
  next pl hpl =>
    have h0 : pl.twin = 0 := by simpa [hpl] using h
    simp [h0]
  next => rfl

/-- The record of a core that is not paired leaves as a transfer, or is lost where it names the supervisor area of another origin (R42, R89). -/
theorem sendRecord_alone {s : State} {p n : Nat} {i : Instance} {r : PlanRecord} {ws : List Word} (hpair : s.paired p = false) :
    let s1 := s.modCore p fun c => { c with exch := { c.exch with todo := c.exch.todo.filter (fun q => q.num ≠ r.num), read := [] } }
    let t : Transfer := { src := p, part := i.part, dst := i.base + r.dlc, dspace := r.dspace, off := r.dstoff,
                          bytes := ws.flatMap fun w => natBytes 8 w.toNat, setfull := r.setfull, inst := n,
                          hash := closureHash (r.word0 :: ws), sup := (s.core p).exch.sup, counted := true, num := r.num,
                          step := (s.core p).exch.count, left := List.range (r.len / 8) }
    s.sendRecord p n i r ws = some (State.finishExch (if r.sspace = 0 ∧ (s.core p).exch.sup = false ∧ (s.core p).inSupArea r.srcoff r.len = true then
      s1.exchFault p (aperture + r.srcoff) else { s1 with transfers := s1.transfers ++ [t] }) p) := by
  simp only [State.sendRecord, pairOf_alone hpair, isShadow_alone hpair, Option.isNone_none, Bool.not_eq_true', Bool.false_eq_true, if_false]

/-! ## The arrival of a word -/

section
variable {s : State} {k : Nat} {t : Transfer} {i : Instance}
variable (ht : s.transfers[k]? = some t) (hinst : find t.inst s.insts = some i) (hstatus : i.status = none)
variable (hvalid : (s.remapAt t.part t.dst).valid = true)
include ht hinst hstatus hvalid

/-- A transfer to a core that is gone is dropped (R447). -/
theorem execExchangeReceive_of_gone (hstate : (s.remapAt t.part t.dst).state = 2) :
    execExchangeReceive k s = .next { s.slip with transfers := s.transfers.eraseIdx k } := by
  simp [execExchangeReceive, ht, State.wanted, hinst, hstatus, hvalid, hstate]

/-- A transfer into the supervisor area of another origin is a fault of its sender (R89). -/
theorem execExchangeReceive_of_barred (hstate : (s.remapAt t.part t.dst).state = 0) (hspace : t.dspace = 0) (hsup : t.sup = false)
    (harea : (s.core (s.remapAt t.part t.dst).pcid).inSupArea t.off t.bytes.length = true) :
    execExchangeReceive k s = .next (State.exchFault { s.slip with transfers := s.transfers.eraseIdx k } t.src
      (aperture + 2 ^ 38 + t.dst * 2 ^ 24 + t.off)) := by
  simp [execExchangeReceive, ht, State.wanted, hinst, hstatus, hvalid, hstate, hspace, hsup, harea]

/-- Else a word of it lands. -/
theorem execExchangeReceive_of_lands (hstate : (s.remapAt t.part t.dst).state = 0)
    (hopen : t.dspace ≠ 0 ∨ t.sup = true ∨ (s.core (s.remapAt t.part t.dst).pcid).inSupArea t.off t.bytes.length = false) :
    execExchangeReceive k s = .next (s.receive k t (s.remapAt t.part t.dst).pcid) := by
  simp only [execExchangeReceive, ht, State.wanted, hinst, hstatus, hvalid, hstate, Bool.not_eq_true', not_barred hopen, Option.isNone_none,
    Bool.true_eq_false, OfNat.zero_ne_ofNat, zero_ne_one, false_and, or_self, if_false]

end

/-- A word that is not the last of its transfer lands, and the transfer goes on without it (R108). -/
theorem receive_of_more {s : State} {k q : Nat} {t : Transfer} (hmore : 1 < t.left.length) :
    let j := t.left.getD (s.freeWord.toNat % t.left.length) 0
    s.receive k t q = State.writeRouted { s.drawn with transfers := s.transfers.set k { t with left := t.left.erase j } } t.src
      (s.spaceLoc q t.dspace t.off + 8 * j) ((t.bytes.drop (8 * j)).take 8) false (if t.setfull then some true else none) := by
  simp only [State.receive, Nat.not_le.mpr hmore, decide_false, Bool.false_and, Bool.false_eq_true, if_false]

/-- With its last word a transfer is over, and its bytes count for the superstep that sent them (R44). -/
theorem receive_of_last {s : State} {k q : Nat} {t : Transfer} (hlast : t.left.length ≤ 1) :
    let j := t.left.getD (s.freeWord.toNat % t.left.length) 0
    let s2 := State.writeRouted { s.drawn.slip with transfers := s.transfers.eraseIdx k } t.src
      (s.spaceLoc q t.dspace t.off + 8 * j) ((t.bytes.drop (8 * j)).take 8) false (if t.setfull then some true else none)
    s.receive k t q = if t.counted then s2.addRxBoth q t.bytes.length t.step else s2 := by
  simp only [State.receive, hlast, decide_true, Bool.true_and, if_true]

/-! ## The closure routers -/

section
variable {s : State} {k : Nat} {c : Closure} (hc : s.closures[k]? = some c)
include hc

/-- What both twins agree on goes on (R410). -/
theorem execClosureCheck_of_agree {x : Word} {s2 : State} (hp : c.hashP = some x) (hs : c.hashS = some x)
    (hf : State.forward { s with closures := s.closures.eraseIdx k } c = some s2) : execClosureCheck k s = .next s2 := by
  simp only [execClosureCheck, hc, hp, hs, true_or, if_true, hf]

/-- Twins that differ end their tract (R410, R411). -/
theorem execClosureCheck_of_differ {x y : Word} (hp : c.hashP = some x) (hs : c.hashS = some y) (hne : x ≠ y)
    (hl : s.localLds c = false) : execClosureCheck k s = .next (State.mismatch { s with closures := s.closures.eraseIdx k } c) := by
  simp only [execClosureCheck, hc, hp, hs, hne, hl, Bool.false_eq_true, or_self, if_false]

/-- A hash that does not come in time is a mismatch (R410). -/
theorem execClosureTimeout_of_late (hmiss : c.hashP = none ∨ c.hashS = none)
    (hlate : 65536 < s.now - c.since - (s.stopTicks c.primary - c.stops)) (hl : s.localLds c = false) :
    execClosureTimeout k s = .next (State.mismatch { s with closures := s.closures.eraseIdx k } c) := by
  have hmiss' : ¬((c.hashP.isSome = true) ∧ c.hashS.isSome = true) := by
    rcases hmiss with h | h <;> simp [h]
  simp only [execClosureTimeout, hc, hmiss', Nat.not_le.mpr hlate, hl, Bool.false_eq_true, or_self, if_false]

end

/-- A parcel whose exchange barrier is complete enters Compute (R34, R35). -/
theorem execComputeEntry_of_ready {s : State} {n : Nat} {i : Instance} (hi : find n s.insts = some i) (hready : s.entryReady n i = true)
    (hdbg : i.dbg = .running) : execComputeEntry n s = .next (s.enterAll n) := by
  simp only [execComputeEntry, hi, hready, hdbg, decide_true, Bool.and_self, if_true]

/-- Settles O32: each event of a superstep, by the rule of its step. -/
theorem superstepEvents : Obligations.SuperstepEvents := by
  unfold Obligations.SuperstepEvents
  intro s
  refine ⟨fun p n i t x rx l info hinst htract hx hdue harrived hrun hstatus => ⟨?_, fun d => ?_⟩,
    fun p n i r hinst hfirst hstate hdue hrun hgood hpay => ?_, fun k t i ht hinst hstatus hvalid => ⟨fun hstate hopen => ⟨?_, ?_⟩, ?_, ?_⟩,
    fun n i hi hready hdbg => execComputeEntry_of_ready hi hready hdbg,
    fun k c hc => ⟨fun x s2 => execClosureCheck_of_agree hc, fun x y => execClosureCheck_of_differ hc, execClosureTimeout_of_late hc⟩⟩
  · exact execExchangeStart_of_got hinst htract hx hdue harrived hrun hstatus
  · exact execExchangeStart_of_bad hinst htract hx hdue harrived hrun hstatus
  · refine ⟨execExchangeRecordIssue_of_more hinst hfirst hstate hdue hrun hgood hpay, fun hlast hpair => ?_⟩
    have hsend := execExchangeRecordIssue_of_last hinst hfirst hstate hdue hrun hgood hpay hlast (sendRecord_alone (s := s.picked p r) hpair)
    exact ⟨fun hopen => hsend.trans (congrArg (fun x : State => Host.Outcome.next (x.finishExch p)) (if_neg (not_barred hopen))),
      fun hspace hsup harea => hsend.trans (congrArg (fun x : State => Host.Outcome.next (x.finishExch p)) (if_pos ⟨hspace, hsup, harea⟩))⟩
  · exact fun hmore => (execExchangeReceive_of_lands ht hinst hstatus hvalid hstate hopen).trans (congrArg _ (receive_of_more hmore))
  · exact fun hlast => (execExchangeReceive_of_lands ht hinst hstatus hvalid hstate hopen).trans (congrArg _ (receive_of_last hlast))
  · exact execExchangeReceive_of_gone ht hinst hstatus hvalid
  · exact execExchangeReceive_of_barred ht hinst hstatus hvalid

end Sys2Proof.Machine

/-! PROOFS. LAUNCH, placement, completion, records and refills (R30, R46, R47, R343 to R347). -/

namespace Sys2Proof.Machine

/-! ## LAUNCH -/

section
variable {s : State} {n : Nat} {w : List Word} {c : DevCtx} {pt : Partition}
variable (hw : s.inHand n 1 = some w) (hctx : find (pctx w) s.ctxs = some c) (hpart : find c.part s.parts = some pt)
include hw hctx hpart

/-- A LAUNCH packet that does not pass its checks ends with STATUS 5 (R343). -/
theorem execLaunch_of_bad (hbad : launchBad w c pt = true) : execLaunch n s = .next (s.endPacket n w 5) := by
  simp only [execLaunch, hw, hctx, hpart, hbad, if_true]

/-- One that passes them, and whose image, masks and data can be read, makes a tract shared out over the dies (R343, R347). -/
theorem execLaunch_of_good {image mws : List Word} {data : List (Nat × List Byte)} {host : Bool} (hgood : launchBad w c pt = false)
    (hreads : s.launchReads w = some (image, mws, data, host)) (hhost : host = false ∨ s.hostUp = true) :
    let home := dieOf (look Remap.none 0 pt.remap).pcid
    let t := launchTract n (s.queue n) w image mws data
      (shares (fieldNat (w.getD 1 0) 0 32) ((List.range s.dieCount).map fun d => s.freeClusters pt d) home)
    let s1 : State := { s with tracts := put s.nextId t s.tracts, nextId := s.nextId + 1 }
    execLaunch n s = .next ((s1.modCtx (pctx w) fun x => { x with
      measure := measured x.measure (bytesOf image), paired := x.paired || t.paired, rollback := x.rollback || t.rollback }).dropPacket n) := by
  have hup : ¬(host = true ∧ (!s.hostUp) = true) := by
    rcases hhost with h | h <;> simp [h]
  simp only [execLaunch, hw, hctx, hpart, hgood, hreads, hup, Bool.false_eq_true, if_false]

end

/-! ## Instances -/

/-- The next index of a tract that is not paired is placed where its cores fit, within the window of R47 (R346, R347). -/
theorem execInstancePlacement_of_fits {s : State} {tract part base index : Nat} {t : Tract} {pt : Partition} {x : DevCtx}
    {ranges : List (Nat × Nat × Nat)}
    (ht : find tract s.tracts = some t) (hpart : s.partOf t = some (part, pt)) (hctx : find t.ctx s.ctxs = some x) (hwaits : t.waits = true)
    (hturn : s.turn tract t = true) (hanswers : s.answers = true) (hfits : s.fits t pt (newInst tract t part base 0 s.now) = true)
    (hpick : t.pick (dieOf (s.relCore (newInst tract t part base 0 s.now) 0)) = some (index, ranges)) (hwindow : index < t.lowest + 256)
    (hpair : t.paired = false) : execInstancePlacement tract base s =
      .next (s.place tract t x { newInst tract t part base 0 s.now with index := index } ranges none) := by
  simp [execInstancePlacement, ht, hpart, hctx, hwaits, hturn, hanswers, hfits, hpick, hpair, Nat.not_le.mpr hwindow]

/-- What is over leaves its cores, and its result waits in its tract's window (R46, R47). -/
theorem execInstanceCompletion_of_over {s : State} {n : Nat} {i : Instance} (hi : find n s.insts = some i) (hover : s.instOver n i = true)
    (hbook : (s.instCores n).any s.fbDue = false) :
    let st := s.instStatus n i
    execInstanceCompletion n s = .next (((((s.instCores n).foldl (fun x p => x.releaseCore n p i.status.isNone) s).forget n i.part
      (s.instCores n)).modTract i.tract fun t => { t with window := t.window ++
        [{ index := i.index, status := st, unit := if st = 1 then i.unit else 0, tick := s.now }] }).pump i.tract) := by
  simp only [execInstanceCompletion, hi, hover, hbook, Bool.not_true, Bool.false_eq_true, or_self, if_false]

/-! ## Completion records -/

/-- The oldest record of a ring that has room is written at its place (R345, R446). -/
theorem execCompletionRecord_of_room {s : State} {k : Nat} {r : Record} {c x : FeLoc}
    (hr : s.records[k]? = some r) (hkind : r.teardown = false)
    (holdest : ∀ y ∈ s.records.take k, y.teardown = false → s.ringKey y ≠ s.ringKey r)
    (hqueue : ((s.queue r.queue).state ≠ 3 ∧ (s.queue r.queue).state ≠ 4) ∨ s.retries r.queue = false)
    (hcons : s.queueLoc (s.queue r.queue) r.cons false = some c)
    (hplace : s.queueLoc (s.queue r.queue) (r.cring + word64 (32 * (look 0 (s.ringKey r) s.ringCount % 2 ^ r.clog))) true = some x)
    (hhost : (c.host = false ∧ x.host = false) ∨ s.hostUp = true)
    (hroom : look 0 (s.ringKey r) s.ringCount - s.loadNat c.loc 8 < 2 ^ r.clog) :
    let j := look 0 (s.ringKey r) s.ringCount
    let s1 := s.feStore x (r.bytes j)
    execCompletionRecord k s = .next (({ s1 with ringCount := put (s.ringKey r) (j + 1) s1.ringCount } : State).recordDone r) := by
  have hfirst : ((s.records.take k).any fun y => !y.teardown && s.ringKey y = s.ringKey r) = false := by
    simpa [List.any_eq_false] using holdest
  have hserved : ¬(((s.queue r.queue).state = 3 ∨ (s.queue r.queue).state = 4) ∧ s.retries r.queue = true) := by
    rw [not_and_or, not_or, Bool.not_eq_true]
    exact hqueue
  have hup : ¬((c.host = true ∨ x.host = true) ∧ (!s.hostUp) = true) := by
    rcases hhost with ⟨hc, hx⟩ | h
    · simp [hc, hx]
    · simp [h]
  simp only [execCompletionRecord, hr, hkind, hfirst, hserved, hcons, hplace, hup, Nat.not_le.mpr hroom, Bool.false_eq_true, or_self, if_false]

/-! ## Refills -/

/-- A word that the core's instruction store lacks comes from the die's copy of the image (R344). -/
theorem execInstructionRefill_of_missing {s : State} {p k : Nat} {w : Word} (hlive : (s.strand p k).live = true)
    (hmiss : find (s.strand p k).pc.toNat (s.core p).istore = none) (hlost : s.lostWord p (s.strand p k).pc = none)
    (himage : s.imageWord p (s.strand p k).pc = some w) :
    execInstructionRefill p k s = .next (s.refill p (s.strand p k).pc w) := by
  simp only [execInstructionRefill, hlive, hmiss, hlost, himage, Bool.not_true, Option.isSome_none, Bool.false_eq_true, or_self, if_false]

/-- Settles O37: each event of the placement, by the rule of its step. -/
theorem placementEvents : Obligations.PlacementEvents := by
  unfold Obligations.PlacementEvents
  intro s
  refine ⟨fun n w c pt image mws data host hw hctx hpart => ⟨?_, ?_⟩, fun tract t part pt x base index ranges => ?_,
    fun n i => ?_, fun k r c x hr hkind => ?_, fun p k w => ?_⟩
  · exact execLaunch_of_bad hw hctx hpart
  · exact execLaunch_of_good hw hctx hpart
  · exact execInstancePlacement_of_fits
  · exact execInstanceCompletion_of_over
  · exact execCompletionRecord_of_room hr hkind
  · exact execInstructionRefill_of_missing

end Sys2Proof.Machine

/-! PROOFS. Asynchronous entries, migrations, gang switches and resumes (R29, R32, R350 to R353, R395, R429). -/

namespace Sys2Proof.Machine

/-- The control strand of a running core enters supervisor code for a pending cause, and a fused gang dissolves (R427, R429). -/
theorem execAsyncTrapEntry_of_pending {s : State} {p : Nat} {tr : Trap} {u : Sup} (hlive : (s.strand p 0).live = true)
    (hword : s.atWord p = true) (hsv : (s.core p).sup.sv = false) (hrun : (s.core p).stop = none) (hhalt : (s.core p).halt = false)
    (hnext : (s.core p).sup.nextAsync = some (tr, u)) : execAsyncTrapEntry p s = .next ((s.members p).foldl (fun x q =>
      (x.modCore q fun c => { c with gang := none }).enterSup q tr.raiser tr (x.strand q 0).pc (x.strand q 0).pc)
        (s.modCore p fun c => { c with sup := u })) := by
  have hlive' : ((s.core p).strand 0).live = true := hlive
  simp only [execAsyncTrapEntry, hlive', hword, hsv, hrun, hhalt, hnext, Bool.not_true, Option.isSome_none, Bool.false_eq_true, or_self, if_false]

/-- A settled migration is committed where its target can still be used (R353, R395). -/
theorem execMigrationCommit_of_settled {s : State} {p : Nat} {m : MigReq} (hmig : (s.core p).migrate = some m)
    (hstop : (s.core p).stop = some .migrate) (hsettled : s.unsettled p = false) (hsince : (s.core p).stopSince ≠ s.now)
    (htarget : s.okTarget p m.target = true) (hgroups : s.hwTakes p m.target = true) :
    execMigrationCommit p s = .next (((s.endMigrate p 0).setRemapPart p 0).moveCore p m.target) := by
  simp only [execMigrationCommit, hmig, hstop, hsettled, hsince, htarget, hgroups, Bool.not_true, Bool.false_eq_true, or_self, if_false]

section
variable {s : State} {part t : Nat} {pt : Partition}
variable (hpart : find part s.parts = some pt) (harmed : pt.armed = some t) (hdue : t ≤ s.now)
include hpart harmed hdue

/-! ## Gang switches -/

/-- The cores of a partition that a gang switch has still to stop. -/
def State.lateCores (s : State) (part : Nat) : List Nat :=
  (s.partCores part).filter fun p => (s.core p).stop ≠ some .gang && (s.core p).stop ≠ some .migrate

/-- A gang switch first stops the partition's cores (R350). -/
theorem execGangSwitch_of_late (hgoes : pt.stopped = false) (hlate : s.lateCores part ≠ []) :
    execGangSwitch part s = .next ((s.lateCores part).foldl (fun x p => x.stopCore p .gang) s) := by
  have hsome : (!(s.lateCores part).isEmpty) = true := by simpa using hlate
  simp only [execGangSwitch, hpart, harmed, hgoes, Nat.not_lt.mpr hdue, Bool.false_eq_true, or_self, if_false]
  exact if_pos hsome

/-- Once they have stopped and are quiet it saves them (R350, R351). -/
theorem execGangSwitch_of_quiet (hgoes : pt.stopped = false) (hnone : s.lateCores part = []) (hquiet : s.partQuiet part = true) :
    execGangSwitch part s = .next (s.savePart part t) := by
  have hempty : ¬(!(s.lateCores part).isEmpty) = true := by simp [hnone]
  simp only [execGangSwitch, hpart, harmed, hgoes, Nat.not_lt.mpr hdue, hquiet, Bool.false_eq_true, or_self, if_false, if_true]
  exact if_neg hempty

/-! ## Resumes -/

section
variable (hstopped : pt.stopped = true) (hunits : ∀ r ∈ pt.savedRes, s.unitsFree r = true) (htiles : s.tilesBack pt.ctx = true)
include hstopped hunits htiles

/-- A stopped partition resumes on cores whose dies have the hardware groups (R32, R351). -/
theorem execPartitionResume_of_good (hgood : s.slotsGood pt = true) {s1 : State} (hrest : s.drawn.restoreAll part pt.saved = some s1)
    (henough : s1.hwEnough part = true) : execPartitionResume part s = .next (s1.resumeAll part pt) := by
  have hall : pt.savedRes.all s.unitsFree = true := List.all_eq_true.mpr hunits
  simp only [execPartitionResume, hpart, harmed, hstopped, hall, htiles, Nat.not_lt.mpr hdue, hgood, hrest, henough, Bool.not_true,
    Bool.false_eq_true, or_self, if_false, if_true]

/-- An image that does not match tears the device context down (R351). -/
theorem execPartitionResume_of_bad (hbad : s.slotsGood pt = false) :
    execPartitionResume part s = .next ((s.drawn.tearDown pt.ctx).modPart part fun x => { x with armed := none }) := by
  have hall : pt.savedRes.all s.unitsFree = true := List.all_eq_true.mpr hunits
  simp only [execPartitionResume, hpart, harmed, hstopped, hall, htiles, Nat.not_lt.mpr hdue, hbad, Bool.not_true, Bool.not_false,
    Bool.false_eq_true, or_self, if_false, if_true]

end

end

/-- Settles O39: each event of the scheduling, by the rule of its step. -/
theorem schedulingEvents : Obligations.SchedulingEvents := by
  unfold Obligations.SchedulingEvents
  intro s
  refine ⟨fun p tr u => ?_, fun p m => ?_, fun part pt t hpart harmed hdue => ⟨fun hgoes => ⟨?_, ?_⟩,
    fun hstopped hunits htiles => ⟨fun s1 => ?_, ?_⟩⟩⟩
  · exact execAsyncTrapEntry_of_pending
  · exact execMigrationCommit_of_settled
  · exact execGangSwitch_of_late hpart harmed hdue hgoes
  · exact execGangSwitch_of_quiet hpart harmed hdue hgoes
  · exact fun hgood hrest => execPartitionResume_of_good hpart harmed hdue hstopped hunits htiles hgood hrest
  · exact execPartitionResume_of_bad hpart harmed hdue hstopped hunits htiles

end Sys2Proof.Machine

/-! PROOFS. Words that do not run: undefined encodings, fetches that lead to no word, and names outside the window (R62, R65, R183, R425). -/

namespace Sys2Proof.Machine

/-! ## Fetches that run no instruction -/

/-- A fetched word that is an undefined encoding raises cause 1 with the word (R183, R425). -/
theorem runFetched_of_undecodable {s : State} {p k : Nat} {w : Word} {e : DecodeError} (hw : decodeWord w = .error e) :
    s.runFetched p k w =
      let y : State := { s.buffered p k w with focus := { pcid := p, strand := k, slot := 0, word := w } }
      .next (y.trapAll k { cause := 1, code := 0, info := w } (y.members p)) := by
  simp only [State.runFetched, hw, State.wordTrap]

/-- A fetch that finds its word neither in the instruction store nor in the program's image raises cause 11 at the address (R65, R425). -/
theorem fetch_of_missing {s : State} {p k : Nat} :
    let x := (s.members p).foldl (fun y q => y.modCore q Core.land) s
    x.wordAt p k = none → x.imageWord p (x.strand p k).pc = none →
      s.fetch p k = .next (x.trapAll k { cause := 11, code := 0, info := (x.strand p k).pc } (x.members p)) := by
  intro x hword himage
  simp only [State.fetch, x, hword, himage, State.fetchFault]

/-- Settles O46: the step fetches for the strand, and the fetch meets a word without a meaning or no word. -/
theorem undecodableWordsTrap : Obligations.UndecodableWordsTrap := by
  unfold Obligations.UndecodableWordsTrap
  intro s r p k ha x hcan hsnag hasync hahead
  have hstep : step s = s.rest.fetch p k := (step_act ha).trans (issue_eq_fetch hcan hsnag hasync hahead)
  rw [hstep]
  refine ⟨fun w e hword hdec => ?_, fetch_of_missing⟩
  rw [State.fetch, hword]
  exact runFetched_of_undecodable hdec

/-! ## Names outside the window -/

/-- The limit trap names the first operand past the limit: its field, and its name after staggering (R62, R425; log entry 23). -/
theorem limitTrap_of_find {s : State} {p k : Nat} {o : Opnd} : ∀ {l : List Opnd}, (l.find? fun o => !s.opInWindow p k o) = some o →
    s.limitTrap p k l = some { cause := 4, code := o.field, info := BitVec.ofNat 64 (s.opName p k o) }
  | a :: l, hfind => by
    cases ha : s.opInWindow p k a
    · rw [List.find?_cons_of_pos (by simp [ha])] at hfind
      obtain rfl := Option.some.inj hfind
      simp [State.limitTrap, ha]
    · rw [List.find?_cons_of_neg (by simp [ha])] at hfind
      simpa [State.limitTrap, ha] using limitTrap_of_find hfind

/-- The limit trap comes after the word's own causes 1 to 3 and before anything that holds its operands (R426). -/
theorem check_of_limitTrap {s : State} {p k : Nat} {h : Hdr} {w : WordSpec} {t : Trap} (hhdr : s.HeaderClear p k h w)
    (hpre : w.pre p k s = .go) (hpast : (s.strand p k).past = false) (hrep : h.na = 6 → s.inBody p k = true)
    (hlimit : s.limitTrap p k w.ops = some t) : s.check p k h w = .trap t := by
  have hbody : ¬((s.strand p k).past = true ∨ (h.na = 6 ∧ s.inBody p k = false)) := by
    rintro (hp | ⟨h6, hb⟩)
    · simp [hpast] at hp
    · simp [hrep h6] at hb
  simp only [State.check, hhdr.1, hhdr.2, hpre, hlimit, Bool.false_eq_true, if_false, if_neg hbody]

/-- The checks of a core that is not fused are those of its own strand. -/
theorem checkAll_alone {s : State} {p k : Nat} {h : Hdr} {w : WordSpec} {t : Trap} (hgang : (s.core p).gang = none)
    (hcheck : s.check p k h w = .trap t) : s.checkAll k h w (s.members p) = .trap t := by
  simp only [members_alone hgang, State.checkAll, hcheck]

/-- Settles O53: the checks find the first name past the limit, and each listed word goes by its checks. -/
theorem limitTraps : Obligations.LimitTraps := by
  unfold Obligations.LimitTraps
  refine ⟨fun s i h w body hexec hgang hhdr hpre hpast hrep o hfind hheld => ?_, fun h d a b c ty rm q m n => ?_⟩
  · have hcheck := check_of_limitTrap hhdr hpre hpast hrep (limitTrap_of_find hfind)
    rw [hexec, runWord_trap (checkAll_alone hgang hcheck), members_alone hgang, State.trapWord_taken hheld]
  · intro after
    simp only [List.forall_mem_cons, List.not_mem_nil, false_imp_iff, implies_true, and_true]
    and_intros <;> exact fun s => ⟨_, rfl⟩

end Sys2Proof.Machine

/-! PROOFS. Register names: what a name reads after a write, and the lanes that a predicate enables (R61, R63, R237). -/

namespace Sys2Proof.Machine

/-! ## Bits of masks and rows -/

/-- A mask of a field is one on the field's bits. -/
theorem getLsbD_rowMask (lo n b : Nat) : (rowMask lo n).getLsbD b = decide (b < 512 ∧ lo ≤ b ∧ b < lo + n) := by
  rw [rowMask, BitVec.getLsbD_ofNat, Nat.testBit_mul_two_pow, Nat.testBit_two_pow_sub_one, Bool.eq_iff_iff]
  simp only [Bool.and_eq_true, decide_eq_true_eq]
  omega

/-- A field that was written whole reads back. -/
theorem extract_blend_same {lo n : Nat} (hfits : lo + n ≤ 512) (old : Row) (v : BitVec n) :
    (blend old (rowMask lo n) (v.zeroExtend 512 <<< lo)).extractLsb' lo n = v := by
  apply BitVec.eq_of_getLsbD_eq
  intro b hb
  have hmask : (rowMask lo n).getLsbD (lo + b) = true := by rw [getLsbD_rowMask]; simp; omega
  have hin : lo + b < 512 := by omega
  rw [BitVec.getLsbD_extractLsb', blend_bit, hmask]
  simp [hb, hin]

/-- A field keeps its value when another field is written. -/
theorem extract_blend_other {lo n a m : Nat} (hapart : a + m ≤ lo ∨ lo + n ≤ a) (old v : Row) :
    (blend old (rowMask lo n) v).extractLsb' a m = old.extractLsb' a m := by
  apply BitVec.eq_of_getLsbD_eq
  intro b hb
  have hmask : (rowMask lo n).getLsbD (a + b) = false := by rw [getLsbD_rowMask]; simp; omega
  simp only [BitVec.getLsbD_extractLsb', blend_bit, hmask, Bool.false_eq_true, if_false]

/-- A bit of lanes put together is a bit of one of them. -/
theorem testBit_packLanes {w : Nat} (hw : 0 < w) : ∀ (l : List Nat) (b : Nat), (packLanes w l).testBit b = (l.getD (b / w) 0).testBit (b % w)
  | [], b => by simp [packLanes]
  | x :: l, b => by
    have hlow : x % 2 ^ w < 2 ^ w := Nat.mod_lt _ (Nat.two_pow_pos w)
    rw [packLanes, Nat.add_comm, Nat.testBit_two_pow_mul_add _ hlow]
    by_cases hb : b < w
    · simp [hb, Nat.div_eq_of_lt hb, Nat.mod_eq_of_lt hb, Nat.testBit_mod_two_pow]
    · have hge : w ≤ b := Nat.le_of_not_lt hb
      have hdiv : b / w = (b - w) / w + 1 := by rw [Nat.div_eq_sub_div hw hge]
      rw [if_neg hb, testBit_packLanes hw l, hdiv, List.getD_cons_succ, Nat.mod_eq_sub_mod hge]

theorem getLsbD_rowOfLanes {w : Nat} (hw : 0 < w) (l : List Nat) {b : Nat} (hb : b < 512) :
    (rowOfLanes w l).getLsbD b = (l.getD (b / w) 0).testBit (b % w) := by
  rw [rowOfLanes, BitVec.getLsbD_ofNat, testBit_packLanes hw, decide_eq_true hb, Bool.true_and]

/-- A lane of a row made of lanes. -/
theorem fieldNat_rowOfLanes {w i : Nat} (hw : 0 < w) (hi : w * i + w ≤ 512) (l : List Nat) :
    fieldNat (rowOfLanes w l) (w * i) w = l.getD i 0 % 2 ^ w := by
  apply Nat.eq_of_testBit_eq
  intro j
  rw [fieldNat, BitVec.testBit_toNat, BitVec.getLsbD_extractLsb', Nat.testBit_mod_two_pow]
  by_cases hj : j < w
  · have hlane : (w * i + j) / w = i := by rw [Nat.mul_add_div hw, Nat.div_eq_of_lt hj, Nat.add_zero]
    have hbit : (w * i + j) % w = j := by rw [Nat.mul_add_mod, Nat.mod_eq_of_lt hj]
    rw [getLsbD_rowOfLanes hw l (by omega), hlane, hbit]
  · simp [hj]

/-- A masked write of a row writes a lane whole or leaves it where its mask is the same on all of the lane's bits. -/
theorem fieldNat_blend {w lo : Nat} {old m v : Row} {on : Bool} (hmask : ∀ j < w, m.getLsbD (lo + j) = on) :
    fieldNat (blend old m v) lo w = if on then fieldNat v lo w else fieldNat old lo w := by
  have hbits : (blend old m v).extractLsb' lo w = if on then v.extractLsb' lo w else old.extractLsb' lo w := by
    apply BitVec.eq_of_getLsbD_eq
    intro j hj
    simp only [BitVec.getLsbD_extractLsb', blend_bit, hmask j hj, hj]
    cases on <;> simp [hj]
  simp only [fieldNat, hbits]
  cases on <;> rfl

/-! ## The lanes that a predicate enables -/

/-- Lanes that are all ones where a test holds make the mask of the test. -/
theorem getLsbD_lanes_of_ones {n w : Nat} (hw : 0 < w) (f : Nat → Bool) {b : Nat} (hb : b < 512) (hn : b / w < n) :
    (rowOfLanes w ((List.range n).map fun i => if f i then 2 ^ w - 1 else 0)).getLsbD b = f (b / w) := by
  rw [getLsbD_rowOfLanes hw _ hb]
  have hlt : b % w < w := Nat.mod_lt _ hw
  simp only [List.getD_eq_getElem?_getD, List.getElem?_map, List.getElem?_range hn, Option.map_some, Option.getD_some]
  cases f (b / w) <;> simp [Nat.testBit_two_pow_sub_one, hlt]

/-- The mask of an execution predicate is the same on all bits of a lane: the bit of the predicate that governs the lane (R63). -/
theorem getLsbD_maskFor {w : Nat} (hw : w ∈ [4, 8, 16, 32, 64]) (q : BitVec 16) {i j : Nat} (hi : i < 512 / w) (hj : j < w) :
    (maskFor w q).getLsbD (w * i + j) = laneOn w q i := by
  unfold maskFor laneOn
  by_cases h64 : w = 64
  · subst h64
    have hlane : (64 * i + j) / 64 = i := by omega
    rw [if_pos rfl, if_pos rfl, laneMask64, getLsbD_lanes_of_ones (by decide) (fun j => q.getLsbD (2 * j)) (by omega) (by omega), hlane]
  · have hlane : (w * i + j) / 32 = i * w / 32 ∧ w * i + j < 512 := by
      simp only [List.mem_cons, List.not_mem_nil, or_false] at hw
      rcases hw with rfl | rfl | rfl | rfl | rfl <;> omega
    rw [if_neg h64, if_neg h64, laneMask, getLsbD_lanes_of_ones (by decide) _ hlane.2 (by omega), hlane.1]

/-! ## Reading after a write -/

section
variable {s : State} {p k r : Nat}

/-- A write takes place at once in a row that no write is pending on and that is not locked (R68, R73). -/
theorem writeRow_of_free (hfree : (s.core p).busy r = false ∧ (s.core p).locked r = false) (m v : Row) :
    s.writeRow p r 1 m v = s.blendRow p r m v :=
  if_pos ⟨Nat.le_refl 1, blocked_of_not_busy hfree.1 .., hfree.2⟩

/-- A write outside the header row leaves the header words. -/
theorem hword_blendRow (hr : r ≠ (s.strand p k).wb) (m v : Row) (j : Nat) : (s.blendRow p r m v).hword p k j = s.hword p k j := by
  rw [State.hword, State.hword, State.header, State.header, strand_blendRow, row_blendRow_other (.inr hr.symm)]

/-- Names after staggering go by the window and its header row alone. -/
theorem stagger_blendRow (hr : r ≠ (s.strand p k).wb) (m v : Row) (f : Nat) : (s.blendRow p r m v).stagger p k f = s.stagger p k f := by
  have hbody : (s.blendRow p r m v).inBody p k = s.inBody p k := by
    rw [State.inBody, State.inBody, State.ract, State.ract, hword_blendRow hr, strand_blendRow]
  simp only [State.stagger, hbody, hword_blendRow hr]

theorem destOf_blendRow (hr : r ≠ (s.strand p k).wb) (m v : Row) (f : Nat) (n : BitVec 8) :
    (s.blendRow p r m v).destOf p k f n = s.destOf p k f n := by
  simp only [State.destOf, State.sName, strand_blendRow, stagger_blendRow hr]

/-- Scalar `n` is a word of the row `n / 8`, with the same stagger (R61, R74). -/
theorem rS_eq_rowWord_rV (s : State) (p k f : Nat) (n : BitVec 8) :
    s.rS p k f n = rowWord (s.rV p k f (BitVec.ofNat 8 (n.toNat / 8))) (n.toNat % 8) := by
  have hrow : (BitVec.ofNat 8 (n.toNat / 8)).toNat = n.toNat / 8 := by
    rw [BitVec.toNat_ofNat]
    omega
  have hdiv : (n.toNat + 8 * s.stagger p k f) / 8 = n.toNat / 8 + s.stagger p k f := by omega
  have hmod : (n.toNat + 8 * s.stagger p k f) % 8 = n.toNat % 8 := by omega
  simp only [State.rS, State.rV, State.sName, State.vName, hrow, hdiv, hmod]

/-- A scalar is read at the word where a write of it goes. -/
theorem rS_eq_destOf (s : State) (p k f : Nat) (n : BitVec 8) :
    s.rS p k f n = rowWord (s.row p (s.destOf p k f n).row) (s.destOf p k f n).word := rfl

/-- A word of a row that was written at once reads back, and every other word is as before. -/
theorem rowWord_blendRow (d : Dest) {e : Dest} (he : e.word < 8) (v : Word) :
    rowWord ((s.blendRow p e.row (rowMask (64 * e.word) 64) (v.zeroExtend 512 <<< (64 * e.word))).row p d.row) d.word =
      if d = e then v else rowWord (s.row p d.row) d.word := by
  obtain ⟨r, w⟩ := d
  obtain ⟨r', w'⟩ := e
  by_cases hr : r = r'
  · subst hr
    rw [row_blendRow_same]
    by_cases hw : w = w'
    · subst hw
      rw [if_pos rfl]
      exact extract_blend_same (by omega) ..
    · rw [if_neg (by simpa using hw)]
      exact extract_blend_other (show 64 * w + 64 ≤ 64 * w' ∨ 64 * w' + 64 ≤ 64 * w by omega) ..
  · rw [row_blendRow_other (.inr hr), if_neg (by simp [hr])]

/-- A scalar outside the header row reads back, and every other name keeps its scalar. -/
theorem rS_wS {d : BitVec 8} (hhdr : (s.destOf p k 0 d).row ≠ (s.strand p k).wb)
    (hfree : (s.core p).busy (s.destOf p k 0 d).row = false ∧ (s.core p).locked (s.destOf p k 0 d).row = false)
    (v : Word) (f : Nat) (n : BitVec 8) :
    (s.wS p k 1 d v).rS p k f n = if s.destOf p k f n = s.destOf p k 0 d then v else s.rS p k f n := by
  have hwrite : s.wS p k 1 d v = s.blendRow p (s.destOf p k 0 d).row (rowMask (64 * (s.destOf p k 0 d).word) 64)
      (v.zeroExtend 512 <<< (64 * (s.destOf p k 0 d).word)) := writeRow_of_free hfree ..
  rw [rS_eq_destOf, hwrite, destOf_blendRow hhdr, rowWord_blendRow _ (Nat.mod_lt _ (by decide)), ← rS_eq_destOf]

/-- A predicate reads back, and the others keep theirs (R64). -/
theorem pred_wQ {q : BitVec 3} (hq : q ≠ 0)
    (hfree : (s.core p).busy (s.strand p k).wb = false ∧ (s.core p).locked (s.strand p k).wb = false) (r : BitVec 3) (v : BitVec 16) :
    (s.wQ p k 1 q v).pred p k r.toNat = if r = q then v else s.pred p k r.toNat := by
  have hq0 : q.toNat ≠ 0 := fun h => hq (BitVec.eq_of_toNat_eq h)
  rw [State.wQ, if_neg hq, writeRow_of_free hfree, predMask, if_neg hq0, predValue]
  simp only [State.pred, State.header, strand_blendRow, row_blendRow_same]
  by_cases hr : r = q
  · subst hr
    rw [if_neg hq0, if_pos rfl]
    exact extract_blend_same (by omega) ..
  · have hne : r.toNat ≠ q.toNat := fun h => hr (BitVec.eq_of_toNat_eq h)
    rw [if_neg hr]
    split
    · rfl
    · exact extract_blend_other (by omega) ..

/-- A row takes the masked bits, and the others keep theirs. -/
theorem row_wV {d : BitVec 8} (hfree : (s.core p).busy (s.opRow p k (dV d)) = false ∧ (s.core p).locked (s.opRow p k (dV d)) = false)
    (m v : Row) (i : Nat) : (s.wV p k 1 d m v).row p i =
      if i = (s.strand p k).wb + s.vName p k 0 d.toNat then blend (s.row p i) m v else s.row p i := by
  have hwrite : s.wV p k 1 d m v = s.blendRow p (s.opRow p k (dV d)) m v := writeRow_of_free hfree ..
  rw [hwrite]
  split
  next hi => rw [hi]; exact row_blendRow_same ..
  next hi => exact row_blendRow_other (.inr hi)

/-- A lane result changes the lanes that the predicate enables (R63, R237). -/
theorem fieldNat_putLanes {d : BitVec 8} {w i : Nat} (hw : w ∈ [4, 8, 16, 32, 64]) (hi : i < 512 / w)
    (hfree : (s.core p).busy (s.opRow p k (dV d)) = false ∧ (s.core p).locked (s.opRow p k (dV d)) = false) (h : Hdr) (l : List Nat) :
    fieldNat ((s.putLanes p k 1 w h d l).row p (s.opRow p k (dV d))) (w * i) w =
      if laneOn w (s.pred p k h.eq.toNat) i then l.getD i 0 % 2 ^ w else fieldNat (s.row p (s.opRow p k (dV d))) (w * i) w := by
  have hpos : 0 < w := by
    simp only [List.mem_cons, List.not_mem_nil, or_false] at hw
    omega
  have hin : w * i + w ≤ 512 := by
    calc w * i + w = w * (i + 1) := by ring
      _ ≤ w * (512 / w) := Nat.mul_le_mul_left w hi
      _ ≤ 512 := Nat.mul_div_le 512 w
  have hrow : s.opRow p k (dV d) = (s.strand p k).wb + s.vName p k 0 d.toNat := rfl
  rw [State.putLanes, row_wV hfree, if_pos hrow, fieldNat_blend fun j hj => getLsbD_maskFor hw _ hi hj, fieldNat_rowOfLanes hpos hin]
  rfl

end

/-- Settles O50: a free row takes a write at once, and a name reads its own bits of it. -/
theorem registerNames : Obligations.RegisterNames := by
  unfold Obligations.RegisterNames
  intro s p k f d n h free
  exact ⟨rS_eq_rowWord_rV s p k f n, fun v hhdr hfree => rS_wS hhdr hfree v f n, fun m v r hfree => row_wV hfree m v r, rfl, fun v => rfl,
    fun q r v hq hfree => pred_wQ hq hfree r v, fun w hw l i hi hfree => fieldNat_putLanes hw hi hfree h l⟩

end Sys2Proof.Machine

/-! PROOFS. Every step keeps the memory in canonical form (R80, R83): one lemma for each function of the model that answers a state, in the
order in which the model builds them. -/

namespace Sys2Proof.Machine

/-- The memory of a state is in canonical form (R80, R83). -/
def State.Canonical (s : State) : Prop := Memory.wf s.mem

/-- The next state of an outcome, where it is one, has a canonical memory. -/
inductive NextCanonical : Host.Outcome State Fault Refusal → Prop where
  | next {t : State} (h : t.Canonical) : NextCanonical (.next t)
  | fault {f : Fault} : NextCanonical (.fault f)
  | refused {r : Refusal} : NextCanonical (.refused r)

/-- The state that a word's effect ends in has a canonical memory. -/
def Res.Canonical : Res → Prop
  | .done t => t.Canonical
  | .jump t => t.Canonical
  | _ => True

/-- The state that a step of a command's rule ends with has a canonical memory. -/
def Run.Canonical : Run → Prop
  | .go t _ => t.Canonical
  | .done t _ _ _ => t.Canonical
  | .snag t _ _ _ => t.Canonical
  | .poison t _ _ => t.Canonical
  | .wait => True

/-- A command's rule keeps the memory canonical. -/
def Runner.Canonical (f : Runner) : Prop := ∀ p slot m s, s.Canonical → (f.go p slot m s).Canonical

/-- Every one of some steps keeps the memory canonical. -/
def StepsCanonical (l : List (State → Host.Outcome State Fault Refusal)) : Prop := ∀ f ∈ l, ∀ s, s.Canonical → NextCanonical (f s)

theorem Res.Canonical.done {t : State} (h : t.Canonical) : (Res.done t).Canonical := h
theorem Res.Canonical.jump {t : State} (h : t.Canonical) : (Res.jump t).Canonical := h

/-- What an option holds has a property. -/
inductive AllSome {α : Type} (P : α → Prop) : Option α → Prop where
  | intro {a : α} (h : P a) : AllSome P (some a)
  | none : AllSome P none

theorem AllSome.get {α : Type} {P : α → Prop} {o : Option α} {a : α} (h : AllSome P o) (e : o = some a) : P a := by
  subst e
  cases h with
  | intro h => exact h

theorem AllSome.map {α β : Type} {P : β → Prop} {f : α → β} {o : Option α} (h : ∀ a, P (f a)) : AllSome P (o.map f) := by
  cases o with
  | none => exact .none
  | some a => exact .intro (h a)

theorem AllSome.image {α β : Type} {P : α → Prop} {Q : β → Prop} {f : α → β} {o : Option α} (h : AllSome P o)
    (hf : ∀ a, P a → Q (f a)) :
    AllSome Q (o.map f) := by
  cases h with
  | intro h => exact .intro (hf _ h)
  | none => exact .none

theorem Run.Canonical.getGo {r : Run} {t : State} {m : Cmd} (h : r.Canonical) (e : r = .go t m) : t.Canonical := by
  rw [e] at h
  exact h

theorem Run.Canonical.getDone {r : Run} {t : State} {a b c : Nat} (h : r.Canonical) (e : r = .done t a b c) : t.Canonical := by
  rw [e] at h
  exact h

theorem Run.Canonical.getSnag {r : Run} {t : State} {a b : Nat} {c : Word} (h : r.Canonical) (e : r = .snag t a b c) : t.Canonical := by
  rw [e] at h
  exact h

theorem Run.Canonical.getPoison {r : Run} {t : State} {a b : Nat} (h : r.Canonical) (e : r = .poison t a b) : t.Canonical := by
  rw [e] at h
  exact h

theorem Run.Canonical.ite {c : Prop} [Decidable c] {a b : Run} (ha : a.Canonical) (hb : b.Canonical) : (if c then a else b).Canonical := by
  split
  · exact ha
  · exact hb

theorem Runner.Canonical.ite {c : Prop} [Decidable c] {a b : Runner} (ha : a.Canonical) (hb : b.Canonical) :
    (if c then a else b).Canonical := by
  split
  · exact ha
  · exact hb

theorem NextCanonical.get {o : Host.Outcome State Fault Refusal} {t : State} (h : NextCanonical o) (e : o = .next t) : t.Canonical := by
  subst e
  cases h with
  | next h => exact h

theorem Res.Canonical.get {r : Res} {t : State} (h : r.Canonical) (e : r = .done t) : t.Canonical := by
  rw [e] at h
  exact h

theorem Res.Canonical.getJump {r : Res} {t : State} (h : r.Canonical) (e : r = .jump t) : t.Canonical := by
  rw [e] at h
  exact h

theorem NextCanonical.ite {c : Prop} [Decidable c] {a b : Host.Outcome State Fault Refusal} (ha : NextCanonical a) (hb : NextCanonical b) :
    NextCanonical (if c then a else b) := by
  split
  · exact ha
  · exact hb

theorem Res.Canonical.ite {c : Prop} [Decidable c] {a b : Res} (ha : a.Canonical) (hb : b.Canonical) : (if c then a else b).Canonical := by
  split
  · exact ha
  · exact hb

theorem AllSome.ite {α : Type} {P : α → Prop} {c : Prop} [Decidable c] {a b : Option α} (ha : AllSome P a) (hb : AllSome P b) :
    AllSome P (if c then a else b) := by
  split
  · exact ha
  · exact hb

section
variable {s src : State} {p k n : Nat} {h : Hdr} {o : MemOp} {w : WordSpec}

theorem State.Canonical.ite {c : Prop} [Decidable c] {a b : State} (ha : a.Canonical) (hb : b.Canonical) : (if c then a else b).Canonical := by
  split
  · exact ha
  · exact hb

theorem State.Canonical.foldl {α : Type} {f : State → α → State} {l : List α} (hs : s.Canonical)
    (hf : ∀ x a, x.Canonical → (f x a).Canonical) : (l.foldl f s).Canonical := by
  induction l generalizing s with
  | nil => exact hs
  | cons a l ih => exact ih (hf s a hs)

theorem foldl_fst_canonical {α β : Type} {f : State × β → α → State × β} {l : List α} {b : β} (hs : s.Canonical)
    (hf : ∀ x a, x.1.Canonical → (f x a).1.Canonical) : (l.foldl f (s, b)).1.Canonical := by
  induction l generalizing s b with
  | nil => exact hs
  | cons a l ih => exact ih (hf (s, b) a hs)

theorem pair_ite_canonical {α : Type} {c : Prop} [Decidable c] {a b : α × State} (ha : a.2.Canonical) (hb : b.2.Canonical) :
    (if c then a else b).2.Canonical := by
  split
  · exact ha
  · exact hb

/-- A state with the same memory has a canonical one too. -/
theorem State.Canonical.of_mem {t : State} (hs : s.Canonical) (e : t.mem = s.mem) : t.Canonical := by
  unfold State.Canonical
  rw [e]
  exact hs

theorem State.Canonical.withFresh {m : Nat} (hs : s.Canonical) : State.Canonical { s with fresh := m } := hs

theorem State.Canonical.withPassed {t : Option Nat} (hs : s.Canonical) : State.Canonical { s with passed := t } := hs

/-! ### Rows, memory, accesses and the field book -/

theorem State.Canonical.setCore {c : Core} (hs : s.Canonical) : (s.setCore p c).Canonical :=
  hs

theorem State.Canonical.modCore {f : Core → Core} (hs : s.Canonical) : (s.modCore p f).Canonical :=
  hs.setCore

theorem State.Canonical.modCluster {f : Cluster → Cluster} (hs : s.Canonical) : (s.modCluster n f).Canonical :=
  hs

theorem State.Canonical.modDie {f : Die → Die} (hs : s.Canonical) : (s.modDie n f).Canonical :=
  hs

theorem State.Canonical.modQueue {f : PQueue → PQueue} (hs : s.Canonical) : (s.modQueue n f).Canonical :=
  hs

theorem State.Canonical.modPart {f : Partition → Partition} (hs : s.Canonical) : (s.modPart n f).Canonical := by
  unfold State.modPart
  split <;> exact hs

theorem State.Canonical.modTract {f : Tract → Tract} (hs : s.Canonical) : (s.modTract n f).Canonical := by
  unfold State.modTract
  split <;> exact hs

theorem State.Canonical.modInst {f : Instance → Instance} (hs : s.Canonical) : (s.modInst n f).Canonical := by
  unfold State.modInst
  split <;> exact hs

theorem State.Canonical.modCtx {f : DevCtx → DevCtx} (hs : s.Canonical) : (s.modCtx n f).Canonical := by
  unfold State.modCtx
  split <;> exact hs

theorem State.Canonical.drawn (hs : s.Canonical) : s.drawn.Canonical :=
  hs

theorem State.Canonical.modStrand {f : Strand → Strand} (hs : s.Canonical) : (s.modStrand p k f).Canonical :=
  hs.modCore

theorem State.Canonical.blendRow {r : Nat} {mask value : Row} (hs : s.Canonical) : (s.blendRow p r mask value).Canonical :=
  hs.modCore

theorem State.Canonical.putWord {r w : Nat} {v : Word} (hs : s.Canonical) : (s.putWord p r w v).Canonical :=
  hs.blendRow

theorem State.Canonical.setAside (hs : s.Canonical) : (s.setAside p k).Canonical :=
  .ite hs.modStrand hs

theorem State.Canonical.writeRowAs {id r lat : Nat} {mask value : Row}
    (hs : s.Canonical) : (s.writeRowAs id p r lat mask value).Canonical :=
  .ite hs.blendRow hs.modCore

theorem State.Canonical.writeRow {r lat : Nat} {mask value : Row} (hs : s.Canonical) : (s.writeRow p r lat mask value).Canonical :=
  hs.writeRowAs

theorem State.Canonical.putHmask {w : Nat} {mask v : Word} (hs : s.Canonical) : (s.putHmask p k w mask v).Canonical :=
  hs.writeRow

theorem State.Canonical.putHbits {w lo v : Nat} (hs : s.Canonical) : (s.putHbits p k w lo n v).Canonical :=
  hs.putHmask

theorem State.Canonical.putPred {q : Nat} {v : BitVec 16} (hs : s.Canonical) : (s.putPred p k q v).Canonical :=
  .ite hs hs.writeRow

theorem State.Canonical.setInh (hs : s.Canonical) : (s.setInh p k).Canonical :=
  hs.modCore.putHbits

theorem State.Canonical.store {a : Nat} {bs : List Byte} (hs : s.Canonical) : (s.store a bs).Canonical :=
  wf_store s a bs hs

theorem State.Canonical.setFull {a : Nat} {b : Bool} (hs : s.Canonical) : (s.setFull a b).Canonical :=
  hs

theorem State.Canonical.cleanse {a : Nat} (hs : s.Canonical) : (s.cleanse a n).Canonical :=
  hs

theorem State.Canonical.dropAt {d : Option Nat} (hs : s.Canonical) : (s.dropAt d).Canonical := by
  unfold State.dropAt
  split
  · exact hs.modDie
  · exact hs

theorem State.Canonical.countDrop {w : Who} {cause va : Nat} (hs : s.Canonical) : (s.countDrop w cause va).Canonical :=
  hs.dropAt

theorem State.Canonical.markStale {a : Nat} (hs : s.Canonical) : (s.markStale a n).Canonical :=
  hs

theorem State.Canonical.logUndo {agent a : Nat} (hs : s.Canonical) : (s.logUndo agent a n).Canonical :=
  .ite (.foldl hs (fun _ _ hx => .ite hx.setCore hx)) hs

theorem State.Canonical.writeMem {a : Nat} {bs : List Byte} {rs : Bool} {full : Option Bool}
    (hs : s.Canonical) : (s.writeMem p a bs rs full).Canonical := by
  unfold State.writeMem
  dsimp only
  split
  · exact .ite (.ite hs.logUndo.store.markStale hs.logUndo.store) (.cleanse (.ite hs.logUndo.store.markStale hs.logUndo.store))
  · exact .foldl (.ite (.ite hs.logUndo.store.markStale hs.logUndo.store) (.cleanse (.ite hs.logUndo.store.markStale hs.logUndo.store)))
      (fun _ _ hx => hx.setFull)

theorem State.Canonical.install {e : TlbEntry} (hs : s.Canonical) : (s.install p e).Canonical :=
  hs.drawn.modCore.modCluster.modDie

theorem State.Canonical.walked {va : Word} (hs : s.Canonical) : (s.walked p va).Canonical := by
  unfold State.walked
  split
  · exact hs
  refine .ite hs ?_
  split
  · exact hs
  · exact hs.install

theorem State.Canonical.fbFault (hs : s.Canonical) : (s.fbFault p).Canonical :=
  hs.modCore

theorem State.Canonical.fbLose (hs : s.Canonical) : (s.fbLose p).Canonical :=
  hs.modCore

theorem State.Canonical.fbStore {l : Nat} {rs : Bool} {bs : List Byte} (hs : s.Canonical) : (s.fbStore p l rs bs).Canonical :=
  .modCore (.cleanse (.ite hs.walked.store.markStale hs.walked.store))

theorem State.Canonical.fbWait {bs : List Byte} (hs : s.Canonical) : (s.fbWait p bs).Canonical :=
  hs.modCore

theorem State.Canonical.fbPut {bs : List Byte} (hs : s.Canonical) : (s.fbPut p bs).Canonical := by
  unfold State.fbPut
  dsimp only
  refine .ite hs.fbWait.modCore ?_
  split
  · exact .ite hs.fbWait.modCore hs.fbStore.modCore
  · exact hs.countDrop.fbFault
  · exact hs.fbLose

theorem State.Canonical.fbFlush (hs : s.Canonical) : NextCanonical (s.fbFlush p) := by
  unfold State.fbFlush
  dsimp only
  split
  · exact .fault
  split
  · exact .ite (.ite .fault (.next hs.fbFault.modCore)) (.next hs.fbStore.modCore)
  · exact .next hs.fbFault.modCore
  · exact .fault

theorem State.Canonical.fbRecord {kind value : Nat} {w2 w3 : Word} (hs : s.Canonical) : (s.fbRecord p kind value w2 w3).Canonical :=
  .ite hs (.ite hs.fbLose (.ite (.ite hs.fbPut.modCore.fbPut hs.fbPut.modCore) hs.fbPut))

theorem State.Canonical.endInstance {i status unit : Nat} (hs : s.Canonical) : (s.endInstance i status unit).Canonical :=
  .foldl hs.modInst (fun _ _ hx => hx.modCore)

theorem State.Canonical.doubleTrap (hs : s.Canonical) : (s.doubleTrap p).Canonical := by
  unfold State.doubleTrap
  split
  · exact hs.endInstance
  · exact hs.modCore

theorem State.Canonical.enterSup {raiser : Nat} {t : Trap} {tpc npc : Word}
    (hs : s.Canonical) : (s.enterSup p raiser t tpc npc).Canonical :=
  .ite hs.doubleTrap hs.modCore.setAside.setInh

theorem State.Canonical.takeTrap {t : Trap} {tpc npc : Word} (hs : s.Canonical) : (s.takeTrap p k t tpc npc).Canonical :=
  .ite hs.modStrand.setAside.setInh (.ite hs.enterSup hs.modStrand.modCore)

theorem State.Canonical.leaveSup {a : Word} (hs : s.Canonical) : (s.leaveSup p a).Canonical :=
  hs.putHbits.setCore

theorem State.Canonical.leaveHandler {a : Word} (hs : s.Canonical) : (s.leaveHandler p k a).Canonical :=
  hs.putHbits.modStrand

/-! ### Words: traps, checks and execution -/

theorem State.Canonical.writeDestAs {id lat : Nat} {d : Dest} {v : Word} (hs : s.Canonical) : (s.writeDestAs id p lat d v).Canonical :=
  hs.writeRowAs

theorem State.Canonical.writeDest {lat : Nat} {d : Dest} {v : Word} (hs : s.Canonical) : (s.writeDest p lat d v).Canonical :=
  hs.writeDestAs

theorem State.Canonical.wS {lat : Nat} {n : BitVec 8} {v : Word} (hs : s.Canonical) : (s.wS p k lat n v).Canonical :=
  hs.writeDest

theorem State.Canonical.wV {lat : Nat} {n : BitVec 8} {mask v : Row} (hs : s.Canonical) : (s.wV p k lat n mask v).Canonical :=
  hs.writeRow

theorem State.Canonical.wT {t : BitVec 2} {v : BitVec 32} (hs : s.Canonical) : (s.wT p k t v).Canonical :=
  hs.writeRow

theorem State.Canonical.wQ {lat : Nat} {q : BitVec 3} {v : BitVec 16} (hs : s.Canonical) : (s.wQ p k lat q v).Canonical :=
  .ite hs hs.writeRow

theorem State.Canonical.wQmask {lat : Nat} {q : BitVec 3} {mask v : BitVec 16} (hs : s.Canonical) : (s.wQmask p k lat q mask v).Canonical :=
  .ite hs hs.writeRow

theorem State.Canonical.pay (hs : s.Canonical) : (s.pay p k n).Canonical := by
  unfold State.pay
  dsimp only
  refine .ite hs ?_
  split
  · exact hs
  · exact .ite hs hs.setCore

theorem State.Canonical.payFor {h : Nat} (hs : s.Canonical) : (s.payFor p h n).Canonical := by
  unfold State.payFor
  dsimp only
  refine .ite hs.pay ?_
  split
  · exact hs
  · exact hs.modCore

theorem State.Canonical.withdraw {g : Nat} (hs : s.Canonical) : (s.withdraw p g).Canonical := by
  unfold State.withdraw
  dsimp only
  split
  · exact hs
  · exact hs.modInst.modCore

theorem State.Canonical.dropLoad {w : Wait} (hs : s.Canonical) : (s.dropLoad p w).Canonical := by
  unfold State.dropLoad
  split
  · exact hs.modCore
  · exact hs

theorem State.Canonical.leaveLds (hs : s.Canonical) : (s.leaveLds p k).Canonical := by
  unfold State.leaveLds
  split
  · exact hs.dropLoad
  · exact hs

theorem State.Canonical.killHelper (hs : s.Canonical) : (s.killHelper p k).Canonical :=
  .ite (.modCore (.modStrand (.foldl hs.leaveLds (fun _ _ hx => by
    split
    · exact .ite hx.withdraw hx
    · exact hx)))) hs

theorem State.Canonical.endControl (hs : s.Canonical) : (s.endControl p).Canonical := by
  unfold State.endControl
  dsimp only
  split
  · exact .modInst (.modCore (.modStrand (.foldl hs (fun _ _ hx => hx.killHelper))))
  · exact .modCore (.modStrand (.foldl hs (fun _ _ hx => hx.killHelper)))

theorem State.Canonical.goto {a : Word} (hs : s.Canonical) : (s.goto p k a).Canonical :=
  hs.modStrand

theorem State.Canonical.nextWord {inBody : Bool} (hs : s.Canonical) : (s.nextWord p k inBody).Canonical :=
  .ite (.ite hs.goto.modStrand hs.goto.putHbits) hs.goto

theorem State.Canonical.rep (hs : s.Canonical) : (s.rep src p k).Canonical :=
  .ite hs.putHmask.goto hs.putHmask.goto

theorem State.Canonical.traceSel {a target : Word} (hs : s.Canonical) : (s.traceSel p a target).Canonical :=
  .ite hs.fbRecord hs

theorem State.Canonical.select {cond : Bool} (hs : s.Canonical) : (s.select src p k h cond).Canonical :=
  .ite hs.rep (.ite hs.nextWord
      (.ite (.ite (.endControl (.traceSel (.ite hs.putHbits hs))) (.modStrand (.traceSel (.ite hs.putHbits hs))))
          (.goto (.traceSel (.ite hs.putHbits hs)))))

theorem State.Canonical.payOr {f : State → Res} (hs : s.Canonical) (hf : ∀ x, x.Canonical → (f x).Canonical) : (s.payOr p n f).Canonical :=
  .ite (hf _ hs.pay) trivial

theorem State.Canonical.issued (hs : s.Canonical) : (s.issued p k w).Canonical :=
  hs.pay.setCore

theorem State.Canonical.heldAt {lack : Option Nat} {ms : List Nat} (hs : s.Canonical) : (s.heldAt k h w lack ms).Canonical :=
  .foldl hs (fun _ _ hx => hx.modStrand)

theorem State.Canonical.badAt {ms : List Nat} (hs : s.Canonical) : (s.badAt k h w ms).Canonical :=
  .foldl hs (fun _ _ hx => by
    split
    · exact hx.modStrand
    · exact hx)

theorem State.Canonical.runOne {body : Body}
    (hs : s.Canonical) (hf : ∀ p k x, x.Canonical → (body p k x).Canonical) : (s.runOne p k h w body).Canonical :=
  .ite (.done hs) (hf _ _ _ hs)

theorem runAll_canonical {body : Body} {ps : List Nat} (hs : s.Canonical) (hf : ∀ p k x, x.Canonical → (body p k x).Canonical) :
    (State.runAll k h w body ps s).Canonical := by
  induction ps generalizing s with
  | nil => exact .done hs
  | cons p r ih =>
    unfold State.runAll
    have h1 : (s.runOne p k h w body).Canonical := hs.runOne hf
    split
    · exact ih (h1.get ‹_›)
    · have h2 := ih (h1.getJump ‹_›)
      split
      · exact .jump (h2.get ‹_›)
      · exact h2
    · split <;> trivial
    · trivial
    · trivial

theorem State.Canonical.selectAll {ms : List Nat} (hs : s.Canonical) : (s.selectAll src k h ms).Canonical := by
  unfold State.selectAll
  dsimp only
  split
  · exact .foldl (.foldl hs (fun _ _ hx => hx.select)) (fun _ _ hx => hx.modStrand)
  · exact .foldl hs (fun _ _ hx => hx.select)

theorem State.Canonical.trapAt {t : Trap} {tpc npc : Word} {ms : List Nat} (hs : s.Canonical) : (s.trapAt k t tpc npc ms).Canonical := by
  unfold State.trapAt
  dsimp only
  split
  · exact .dropAt (.ite (.foldl hs (fun _ _ hx => hx.modCore)) hs)
  · exact .takeTrap (.dropAt (.ite (.foldl hs (fun _ _ hx => hx.modCore)) hs))
  · exact .ite (.foldl (.dropAt (.ite (.foldl hs (fun _ _ hx => hx.modCore)) hs)) (fun _ _ hx => hx.modStrand.setAside.setInh))
      (.foldl (.dropAt (.ite (.foldl hs (fun _ _ hx => hx.modCore)) hs)) (fun _ _ hx => hx.modCore.enterSup))

theorem State.Canonical.trapAll {t : Trap} {ms : List Nat} (hs : s.Canonical) : (s.trapAll k t ms).Canonical :=
  hs.trapAt

theorem State.Canonical.trapWord {t : Trap} {ms : List Nat} (hs : s.Canonical) : (s.trapWord k t ms).Canonical :=
  .ite hs hs.trapAll

theorem runWord_canonical {body : Body} (hs : s.Canonical) (hf : ∀ p k x, x.Canonical → (body p k x).Canonical) :
    NextCanonical (runWord h w body s) := by
  unfold runWord
  dsimp only
  have hr := runAll_canonical (k := s.focus.strand) (h := h) (w := w) (ps := s.members s.focus.pcid)
    (State.Canonical.foldl (l := s.members s.focus.pcid) hs fun x q (hx : x.Canonical) => hx.issued (p := q) (k := s.focus.strand)
        (w := w)) hf
  split
  · exact .next hs.trapWord
  · exact .next hs.heldAt
  · exact .next hs.heldAt
  · exact .next hs.badAt
  split
  · exact .next (.selectAll (hr.get ‹_›))
  · exact .next (hr.getJump ‹_›)
  · exact .next hs.heldAt
  · exact .next hs.heldAt
  · exact .next hs.trapWord

/-! ### Waits -/

theorem State.Canonical.endHeader {id status d : Nat} (hs : s.Canonical) : (s.endHeader id p k status d).Canonical :=
  hs.writeRowAs

theorem State.Canonical.takeMessage {id row : Nat} {hd : Dest} (hs : s.Canonical) : (s.takeMessage id p row hd).Canonical := by
  unfold State.takeMessage
  dsimp only
  split
  · exact hs
  · exact .ite hs.setCore.writeRowAs hs.setCore.writeRowAs.writeRowAs

theorem State.Canonical.endEffects {w : Wait} {status : Nat} (hs : s.Canonical) : (s.endEffects p k w status).Canonical := by
  unfold State.endEffects
  dsimp only
  split
  · split
    · exact .endHeader (.ite hs.takeMessage hs)
    · exact .endHeader (.ite hs.modCore hs)
    · exact hs.endHeader
  split
  · split
    · exact .endHeader (.writeDestAs (.ite hs.takeMessage hs))
    · exact .endHeader (.writeDestAs (.ite hs.modCore hs))
    · exact hs.writeDestAs.endHeader
  · split
    · exact .endHeader (.writeDestAs (.ite hs.takeMessage hs))
    · exact .endHeader (.writeDestAs (.ite hs.modCore hs))
    · exact hs.writeDestAs.endHeader
  · split
    · split
      · exact hs.takeMessage.writeDestAs.endHeader
      · exact hs.modCore.writeDestAs.endHeader
      · exact hs.writeDestAs.endHeader
    · split <;> exact hs.endHeader
  split
  · exact .endHeader (.writeDestAs (.ite hs.takeMessage hs))
  · exact .endHeader (.writeDestAs (.ite hs.modCore hs))
  · exact hs.writeDestAs.endHeader

theorem State.Canonical.clearWait (hs : s.Canonical) : (s.clearWait p k).Canonical :=
  hs.modStrand

theorem State.Canonical.unwound {ms : List Nat} (hs : s.Canonical) : (s.unwound k ms).Canonical :=
  .foldl hs (fun _ _ hx => by
    split
    · exact hx.modCore
    · exact hx)

theorem State.Canonical.leaveWait {escal : Option (Nat × Word)} (hs : s.Canonical) : (s.leaveWait src p k h escal).Canonical := by
  unfold State.leaveWait
  dsimp only
  refine .ite hs.modStrand ?_
  split
  · exact .ite (.trapAt (.selectAll (.foldl hs.modStrand (fun _ _ hx => hx.modStrand))))
      (.trapAll (.foldl hs.modStrand (fun _ _ hx => hx.modStrand)))
  · exact .selectAll (.foldl hs.modStrand (fun _ _ hx => hx.modStrand))

theorem State.Canonical.endWait {w : Wait} {status : Nat} (hs : s.Canonical) : (s.endWait p k w status).Canonical :=
  hs.endEffects.leaveWait

theorem State.Canonical.expire {w : Wait} (hs : s.Canonical) : (s.expire p k w).Canonical :=
  .ite hs.dropLoad.endHeader.modCore.leaveWait hs.dropLoad.endWait

theorem State.Canonical.hold {w : Wait} (hs : s.Canonical) : (s.hold p k w).Canonical :=
  hs.modStrand

theorem State.Canonical.startWait {kind : WaitKind} {dl : Word} {wall : BitVec 1} {dest : Option Dest}
    (hs : s.Canonical) : (s.startWait p k kind dl wall dest h).Canonical := by
  unfold State.startWait
  dsimp only
  refine .ite (.jump hs.hold) ?_
  split
  · exact .done hs.endEffects
  · exact .ite (.done hs.endEffects) (.jump hs.hold)

theorem State.Canonical.twinValue {v : Word} (hs : s.Canonical) : AllSome (·.2.Canonical) (s.twinValue p k v) := by
  unfold State.twinValue
  split
  · exact .intro hs
  refine .ite (.intro hs) ?_
  refine .ite (.intro hs.modCore) ?_
  split
  · exact .none
  · exact .intro hs.modCore

/-! ### Sequencing -/

theorem execClk_canonical {d : BitVec 8} (hs : s.Canonical) : NextCanonical (execClk h d s) := by
  unfold execClk
  exact runWord_canonical hs (fun _ _ _ hx => by
    split
    · exact .done (.wS (hx.twinValue.get ‹_›))
    · trivial)

/-! ### Scalar integer words -/

theorem scalar2_canonical {lat : Nat} {d a b : BitVec 8} {f : Word → Word → Word}
    (hs : s.Canonical) : NextCanonical (scalar2 h lat d a b f s) := by
  unfold scalar2
  exact runWord_canonical hs (fun _ _ _ hx => .done hx.wS)

theorem scalar1_canonical {lat : Nat} {d a : BitVec 8} {f : Word → Word} (hs : s.Canonical) : NextCanonical (scalar1 h lat d a f s) := by
  unfold scalar1
  exact runWord_canonical hs (fun _ _ _ hx => .done hx.wS)

/-! ### Scalar floating-point words -/

theorem fscalar2_canonical {lat : Nat} {d a b : BitVec 8} {ty rm : BitVec 3} {op : FVal → FVal → FVal}
    (hs : s.Canonical) : NextCanonical (fscalar2 h lat d a b ty rm op s) := by
  unfold fscalar2
  exact scalar2_canonical hs

/-! ### Vector integer words -/

theorem State.Canonical.putLanes {lat w : Nat} {d : BitVec 8} {l : List Nat} (hs : s.Canonical) : (s.putLanes p k lat w h d l).Canonical :=
  hs.wV

theorem vec1_canonical {lat occ w : Nat} {d a : BitVec 8} {m : BitVec 12} {f : Nat → Nat}
    (hs : s.Canonical) : NextCanonical (vec1 h lat occ w d a m f s) := by
  unfold vec1
  exact runWord_canonical hs (fun _ _ _ hx => .done hx.putLanes)

theorem vec2_canonical {lat occ w : Nat} {d a b : BitVec 8} {m : BitVec 12} {f : Nat → Nat → Nat}
    (hs : s.Canonical) : NextCanonical (vec2 h lat occ w d a b m f s) := by
  unfold vec2
  exact runWord_canonical hs (fun _ _ _ hx => .done hx.putLanes)

theorem vec3_canonical {lat occ w : Nat} {d a b c : BitVec 8} {f : Nat → Nat → Nat → Nat}
    (hs : s.Canonical) : NextCanonical (vec3 h lat occ w d a b c f s) := by
  unfold vec3
  exact runWord_canonical hs (fun _ _ _ hx => .done hx.putLanes)

theorem vecCmp_canonical {w : Nat} {q : BitVec 3} {a b : BitVec 8} {m : BitVec 12} {f : Nat → Nat → Bool}
    (hs : s.Canonical) : NextCanonical (vecCmp h w q a b m f s) := by
  unfold vecCmp
  exact runWord_canonical hs (fun _ _ _ hx => .done hx.wQmask)

/-! ### Vector table words -/

theorem State.Canonical.countUf {lat first : Nat} {l : List Bool} (hs : s.Canonical) : (s.countUf p lat first l).Canonical :=
  hs.modCore

theorem State.Canonical.narrowInto {lat : Nat} {ty rm : BitVec 3} {d : BitVec 8} {xs : List FVal} {first : Nat} {base : Word}
    (hs : s.Canonical) : (s.narrowInto p k lat h ty rm d xs first base).Canonical :=
  hs.wV.countUf

theorem State.Canonical.narrow {src : Fmt} {ty rm : BitVec 3} {d : BitVec 8} {a : Row} {b c : Word}
    (hs : s.Canonical) : (s.narrow p k h src ty rm d a b c).Canonical := by
  unfold State.narrow
  dsimp only
  split
  · trivial
  · exact .done hs.narrowInto

/-! ### Vector floating-point words -/

theorem vfp2_canonical {lat occ : Nat} {d a b : BitVec 8} {ty rm : BitVec 3} {m : BitVec 12} {op : FVal → FVal → FVal}
    (hs : s.Canonical) : NextCanonical (vfp2 h lat occ d a b ty rm m op s) := by
  unfold vfp2
  exact vec2_canonical hs

theorem vfp1_canonical {lat occ : Nat} {d a : BitVec 8} {ty rm : BitVec 3} {m : BitVec 12} {op : FVal → FVal}
    (hs : s.Canonical) : NextCanonical (vfp1 h lat occ d a ty rm m op s) := by
  unfold vfp1
  exact vec1_canonical hs

theorem vfp3_canonical {d a b c : BitVec 8} {ty rm : BitVec 3} {op : FVal → FVal → FVal → FVal}
    (hs : s.Canonical) : NextCanonical (vfp3 h d a b c ty rm op s) := by
  unfold vfp3
  exact vec3_canonical hs

theorem State.Canonical.putScalar {lat : Nat} {d : BitVec 8} {v : Word} (hs : s.Canonical) : (s.putScalar p k lat h d v).Canonical :=
  .ite hs.wS hs

/-! ### Lane movements, predicates and FUSE -/

theorem laneMove_canonical {lat : Nat} {d a b : BitVec 8} {ty : BitVec 3} {m : BitVec 12} {pick : Nat → Nat → Nat → Nat}
    (hs : s.Canonical) : NextCanonical (laneMove h lat d a b ty m pick s) := by
  unfold laneMove
  exact runWord_canonical hs (fun _ _ _ hx => .done hx.putLanes)

theorem State.Canonical.putQ {q : BitVec 3} {v : BitVec 16} (hs : s.Canonical) : (s.putQ p k h q v).Canonical :=
  hs.wQmask

theorem predOp_canonical {q qa qb : BitVec 3} {f : BitVec 16 → BitVec 16 → BitVec 16}
    (hs : s.Canonical) : NextCanonical (predOp h q qa qb f s) := by
  unfold predOp
  exact runWord_canonical hs (fun _ _ _ hx => .done hx.putQ)

theorem predRead_canonical {d : BitVec 8} {qa : BitVec 3} {f : BitVec 16 → Nat}
    (hs : s.Canonical) : NextCanonical (predRead h d qa f s) := by
  unfold predRead
  exact runWord_canonical hs (fun _ _ _ hx => .done hx.putScalar)

theorem State.Canonical.endFuse {r : FuseReq} {v pc : Word} (hs : s.Canonical) : (s.endFuse p r v pc).Canonical :=
  hs.modStrand.writeDestAs.goto

theorem State.Canonical.closeFuse {opener group status : Nat} (hs : s.Canonical) : (s.closeFuse opener group status).Canonical :=
  .foldl hs (fun _ _ hx => .ite hx.endFuse.modCore hx.endFuse)

theorem execFuse_canonical {d : BitVec 8} {gs : BitVec 4} (hs : s.Canonical) : NextCanonical (execFuse h d gs s) := by
  unfold execFuse
  exact runWord_canonical hs fun _ _ _ hx => .ite trivial (.ite (.jump hx.modStrand.closeFuse) (.jump hx.modStrand))

theorem execFuseWindowTimeout_canonical {clu pos : Nat} (hs : s.Canonical) : NextCanonical (execFuseWindowTimeout clu pos s) := by
  unfold execFuseWindowTimeout
  split
  · exact .ite .fault (.next hs.closeFuse)
  · exact .fault

/-! ### Format words -/

theorem execMxq_canonical {d a b c : BitVec 8} {ty rm : BitVec 3} (hs : s.Canonical) : NextCanonical (execMxq h d a b c ty rm s) := by
  unfold execMxq
  exact runWord_canonical hs (fun _ _ _ hx => by
    dsimp only
    split
    · trivial
    · exact .done hx.narrowInto)

theorem execScsel_canonical {d a b c : BitVec 8} {ty : BitVec 3} (hs : s.Canonical) : NextCanonical (execScsel h d a b c ty s) := by
  unfold execScsel
  exact runWord_canonical hs (fun _ _ _ hx => by
    dsimp only
    split
    · trivial
    · exact .ite (.done hx.drawn.putScalar) (.done hx.putScalar))

/-! ### Windows, environments and traps -/

theorem State.Canonical.setWindow {nb nl : Nat} (hs : s.Canonical) : (s.setWindow p k nb nl).Canonical :=
  hs.modStrand

theorem State.Canonical.clearRun {i : Nat} (hs : s.Canonical) : (s.clearRun p i n).Canonical :=
  .foldl hs (fun _ _ hx => hx.logUndo.store)

theorem State.Canonical.dropSnag {i : Nat} (hs : s.Canonical) : (s.dropSnag p i).Canonical :=
  hs.modCore

theorem State.Canonical.endLds {status : Nat} {v : Word} (hs : s.Canonical) : (s.endLds p o status v).Canonical :=
  hs.modStrand

theorem State.Canonical.wakeCmd {slot seq : Nat} {ok : Bool} (hs : s.Canonical) : (s.wakeCmd p slot seq ok).Canonical :=
  hs.modCore

theorem State.Canonical.wpFlush {id : Nat} (hs : s.Canonical) : (s.wpFlush p id).Canonical :=
  hs.modCore

theorem State.Canonical.wpReport (hs : s.Canonical) : (s.wpReport p o).Canonical :=
  hs.modCore.wpFlush

theorem State.Canonical.failOp {cause : Nat} {addr : Word} (hs : s.Canonical) : (s.failOp p o cause addr).Canonical :=
  .wpFlush (.ite hs.endLds (.ite hs.modStrand hs.modCore))

theorem State.Canonical.failSnag {g : Snag} {cause : Nat} (hs : s.Canonical) : (s.failSnag p g cause).Canonical := by
  unfold State.failSnag
  dsimp only
  split
  · exact hs.clearRun.dropSnag.wakeCmd
  · exact hs.clearRun.dropSnag.failOp

theorem State.Canonical.completeSnag {g : Snag} {data : Row} (hs : s.Canonical) : (s.completeSnag p g data).Canonical := by
  unfold State.completeSnag
  dsimp only
  split
  · exact hs.clearRun.dropSnag.wakeCmd
  split
  · exact .endLds (.wpReport (.ite hs.clearRun.dropSnag hs.clearRun.dropSnag.writeRowAs))
  · exact hs.clearRun.dropSnag.wpReport.endLds

theorem execSnagw_canonical {a b : BitVec 8} (hs : s.Canonical) : NextCanonical (execSnagw h a b s) := by
  unfold execSnagw
  exact runWord_canonical hs (fun _ _ _ hx => by
    dsimp only
    split
    · trivial
    split
    · exact .done hx.completeSnag
    · exact .ite trivial (.done hx.completeSnag))

theorem execSnagx_canonical {a b : BitVec 8} (hs : s.Canonical) : NextCanonical (execSnagx h a b s) := by
  unfold execSnagx
  exact runWord_canonical hs (fun _ _ _ hx => by
    dsimp only
    split
    · trivial
    · exact .done hx.failSnag)

/-! ### Memory words -/

theorem State.Canonical.issueOps {l : List MemOp} (hs : s.Canonical) : (s.issueOps p k l).Canonical := by
  unfold State.issueOps
  dsimp only
  refine .ite trivial ?_
  split
  · trivial
  · exact .done hs.setCore

theorem State.Canonical.issueAligned {l : List MemOp} (hs : s.Canonical) : (s.issueAligned p k n l).Canonical := by
  unfold State.issueAligned
  split
  · trivial
  · exact hs.issueOps

theorem State.Canonical.issueRow {ea : Word} {l : List MemOp} (hs : s.Canonical) : (s.issueRow p k ea l).Canonical :=
  .ite trivial hs.issueOps

theorem execStvx_canonical {d a b : BitVec 8} {scope : BitVec 3} {ord : BitVec 2} {sz : BitVec 3} {m : BitVec 12}
    (hs : s.Canonical) : NextCanonical (execStvx h d a b scope ord sz m s) := by
  unfold execStvx
  exact runWord_canonical hs (fun _ _ _ hx => by
    dsimp only
    split
    · trivial
    · exact hx.issueOps)

theorem execLds_canonical {d a b : BitVec 8} {scope sz : BitVec 3} {wall : BitVec 1}
    (hs : s.Canonical) : NextCanonical (execLds h d a b scope sz wall s) := by
  unfold execLds
  exact runWord_canonical hs (fun _ _ _ hx => by
    dsimp only
    split
    · exact .jump (.hold (hx.issueAligned.get ‹_›))
    · exact hx.issueAligned)

theorem atomicWord_canonical {aop : Nat} {d a b : BitVec 8} {scope : BitVec 3} {ord : BitVec 2} {sz : BitVec 3}
    (hs : s.Canonical) : NextCanonical (atomicWord h aop d a b scope ord sz s) := by
  unfold atomicWord
  exact runWord_canonical hs (fun _ _ _ hx => hx.issueAligned)

theorem reductionWord_canonical {aop : Nat} {d a : BitVec 8} {disp : BitVec 20} {scope : BitVec 3} {ord : BitVec 2} {sz : BitVec 3}
    (hs : s.Canonical) : NextCanonical (reductionWord h aop d a disp scope ord sz s) := by
  unfold reductionWord
  exact runWord_canonical hs (fun _ _ _ hx => hx.issueAligned)

theorem execMxqMem_canonical {d a b c : BitVec 8} {ty rm : BitVec 3} (hs : s.Canonical) : NextCanonical (execMxqMem h d a b c ty rm s) := by
  unfold execMxqMem
  exact runWord_canonical hs (fun _ _ _ hx => by
    dsimp only
    refine .ite trivial ?_
    split
    · trivial
    split
    · exact .done (.countUf (hx.issueOps.get ‹_›))
    · exact hx.issueOps)

theorem execDtld_canonical {a : BitVec 8} (hs : s.Canonical) : NextCanonical (execDtld h a s) := by
  unfold execDtld
  exact runWord_canonical hs (fun _ _ _ hx => by
    dsimp only
    refine .ite trivial ?_
    split
    · exact .done (.modCore (hx.issueOps.get ‹_›))
    · exact hx.issueOps)

/-! ### The performance of accesses -/

theorem State.Canonical.pushSnag {owner : SnagOwner} {cause : Nat} {addr : Word} {entries : List (List Byte)}
    (hs : s.Canonical) : AllSome State.Canonical (s.pushSnag p owner cause addr entries) := by
  unfold State.pushSnag
  dsimp only
  split
  · exact .none
  · exact .intro hs.logUndo.store.modCore

theorem State.Canonical.dropOp (hs : s.Canonical) : (s.dropOp p o).Canonical :=
  hs.modCore

theorem State.Canonical.snagOp {cause : Nat} (hs : s.Canonical) : (s.snagOp p o cause).Canonical := by
  unfold State.snagOp
  dsimp only
  refine .ite (.failOp (.ite (.modCore (.ite hs hs.countDrop)) (.dropOp (.ite hs hs.countDrop)))) ?_
  split
  · exact ((State.Canonical.pushSnag (.ite (.modCore (.ite hs hs.countDrop)) (.dropOp (.ite hs hs.countDrop)))).get ‹_›)
  · exact .modCore (.ite hs hs.countDrop)

theorem State.Canonical.writeRouted {l : Nat} {bs : List Byte} {rs : Bool} {full : Option Bool}
    (hs : s.Canonical) : (s.writeRouted p l bs rs full).Canonical := by
  unfold State.writeRouted
  dsimp only
  split
  · exact hs.writeMem.writeMem
  · exact hs.writeMem

theorem State.Canonical.opWrite {l : Nat} {bs : List Byte} {rs : Bool} {full : Option Bool}
    (hs : s.Canonical) : (s.opWrite p o l bs rs full).Canonical :=
  .ite hs.writeRouted hs.writeMem

theorem State.Canonical.clearFull {l : Nat} {rs routed : Bool} (hs : s.Canonical) : (s.clearFull p l rs routed).Canonical := by
  unfold State.clearFull
  dsimp only
  split
  · exact .ite (.setFull (.ite hs.logUndo.setFull.markStale hs.logUndo.setFull)) (.ite hs.logUndo.setFull.markStale hs.logUndo.setFull)
  · exact .ite hs.logUndo.setFull.markStale hs.logUndo.setFull

theorem State.Canonical.effect {l : Nat} {rs : Bool} (hs : s.Canonical) : (s.effect p o l rs).1.Canonical := by
  unfold State.effect
  dsimp only
  split
  · exact hs
  · exact hs
  · exact hs
  · exact hs.writeMem
  · exact hs.opWrite
  · exact hs.opWrite
  · exact hs.clearFull
  · exact hs.opWrite.opWrite
  · exact hs.opWrite

theorem State.Canonical.finishOp {v : Nat} (hs : s.Canonical) : (s.finishOp p o v).Canonical := by
  unfold State.finishOp
  dsimp only
  split
  · split
    · exact .endLds (.wpReport (.modCore (.ite hs.dropOp hs.dropOp.writeRowAs)))
    · exact hs.dropOp.modCore.wpReport.endLds
  split
  · exact .endLds (.wpReport (.ite hs.dropOp hs.dropOp.writeRowAs))
  · exact hs.dropOp.wpReport.endLds

theorem State.Canonical.defer {d : Deferred} (hs : s.Canonical) : AllSome State.Canonical (s.defer p d) :=
  .ite (.intro hs.modCore) .none

theorem State.Canonical.overflowed (hs : s.Canonical) : (s.overflowed p).Canonical :=
  hs.modCore

theorem State.Canonical.deferOp {l : Nat} {rs : Bool} (hs : s.Canonical) : AllSome State.Canonical (s.deferOp p o l rs) := by
  unfold State.deferOp
  dsimp only
  refine .ite ?_ .none
  split
  · exact .intro (hs.dropOp.defer.get ‹_›)
  · exact .intro hs.effect.finishOp.overflowed

theorem State.Canonical.wholeRow {l : Nat} (hs : s.Canonical) : (s.wholeRow p o l).Canonical := by
  unfold State.wholeRow
  dsimp only
  refine .ite ?_ hs
  split
  · exact .ite hs.cleanse.cleanse hs.cleanse
  · exact hs.cleanse

theorem State.Canonical.cspLoss {l : Nat} (hs : s.Canonical) : (s.cspLoss p o l).Canonical :=
  .ite hs.drawn.modCluster hs

theorem State.Canonical.perform {l : Nat} {rs host : Bool} (hs : s.Canonical) : (s.perform p o l rs host).Canonical := by
  unfold State.perform
  dsimp only
  have hd : AllSome State.Canonical (if host then s.deferOp p o l rs else none) := .ite hs.deferOp .none
  split
  · exact hd.get ‹_›
  · exact hs.effect.finishOp.wholeRow.cspLoss

theorem State.Canonical.postOp {primary shadow : Nat} (hs : s.Canonical) : AllSome State.Canonical (s.postOp primary shadow p o) :=
  .map fun _ => hs

theorem execMemoryAccessPerformed_canonical {core id elem : Nat}
    (hs : s.Canonical) : NextCanonical (execMemoryAccessPerformed core id elem s) := by
  unfold execMemoryAccessPerformed
  split
  · exact .fault
  refine .ite .fault ?_
  split
  · exact .next hs.snagOp
  · refine .ite .fault ?_
    split
    · exact .next hs.pay.perform
    split
    · exact .next (hs.postOp.get ‹_›)
    · exact .fault
  · exact .fault

theorem State.Canonical.undefer (hs : s.Canonical) : (s.undefer p o).Canonical :=
  hs.modCore

theorem execHostAccessTimeout_canonical {core id elem : Nat} (hs : s.Canonical) : NextCanonical (execHostAccessTimeout core id elem s) := by
  unfold execHostAccessTimeout
  split
  · split
    · exact .fault
    · exact .ite .fault (.next hs.undefer.snagOp)
  split
  · exact .ite .fault (.next hs.snagOp)
  · exact .fault

theorem State.Canonical.walkFault {x : Nat × MemOp} (hs : s.Canonical) : (s.walkFault x).Canonical := by
  unfold State.walkFault
  split
  · exact hs.snagOp
  · exact hs

theorem execPageWalk_canonical {core id elem : Nat} (hs : s.Canonical) : NextCanonical (execPageWalk core id elem s) := by
  unfold execPageWalk
  split
  · split
    · exact .fault
    split
    · exact .next (.foldl hs (fun _ _ hx => hx.walkFault))
    · exact .next hs.install
  · exact .fault

theorem State.Canonical.evictTlb {lvl unit idx : Nat} (hs : s.Canonical) : (s.evictTlb lvl unit idx).Canonical := by
  unfold State.evictTlb
  split
  · exact hs.modCore
  · exact hs.modCluster
  · exact hs.modDie

theorem execSnagTimeout_canonical {core idx : Nat} (hs : s.Canonical) : NextCanonical (execSnagTimeout core idx s) := by
  unfold execSnagTimeout
  dsimp only
  split
  · exact .fault
  · exact .ite .fault (.next hs.failSnag.modCore)

theorem execWaitCompletion_canonical {core strand : Nat} (hs : s.Canonical) : NextCanonical (execWaitCompletion core strand s) := by
  unfold execWaitCompletion
  dsimp only
  split
  · exact .fault
  refine .ite .fault ?_
  split
  · exact .fault
  refine .ite ?_ (.next hs.endWait)
  split
  · exact .fault
  split
  · exact .next hs.endWait.endWait
  · exact .fault

theorem State.Canonical.dropClosures (hs : s.Canonical) : (s.dropClosures p k).Canonical := by
  unfold State.dropClosures
  split <;> exact hs

theorem execWaitExpiry_canonical {core strand : Nat} (hs : s.Canonical) : NextCanonical (execWaitExpiry core strand s) := by
  unfold execWaitExpiry
  dsimp only
  split
  · exact .fault
  refine .ite .fault ?_
  refine .ite ?_ (.ite .fault (.next hs.expire))
  split
  · exact .fault
  · exact .ite .fault (.next hs.dropClosures.expire.expire)

theorem execLdsInTime_canonical {core strand : Nat} (hs : s.Canonical) : NextCanonical (execLdsInTime core strand s) := by
  unfold execLdsInTime
  split
  · exact .fault
  refine .ite .fault ?_
  split
  · split
    · exact .fault
    split
    · exact .next ((execMemoryAccessPerformed_canonical hs).get ‹_›)
    · exact execPageWalk_canonical hs
  · exact .fault

/-! ### Checks -/

theorem State.Canonical.mcLog {m : McInfo} (hs : s.Canonical) : (s.mcLog p m).Canonical :=
  hs.modDie

theorem State.Canonical.killTract {t status unit det : Nat} (hs : s.Canonical) : (s.killTract t status unit det).Canonical := by
  unfold State.killTract
  split
  · exact hs
  · exact .ite hs (.foldl hs.modTract (fun _ _ hx => hx.endInstance))

theorem State.Canonical.noteKill {t status unit : Nat} {first : Bool}
    (hs : s.Canonical) : (s.noteKill t p status unit n first).Canonical := by
  unfold State.noteKill
  dsimp only
  split
  · exact hs
  refine .ite hs.modTract ?_
  split
  · exact .ite (.ite hs.modInst.modTract hs.modInst) hs
  · exact hs

theorem State.Canonical.killTractOf {status unit : Nat} (hs : s.Canonical) : (s.killTractOf p status unit).Canonical := by
  unfold State.killTractOf
  dsimp only
  split
  · exact hs.killTract.noteKill
  · exact hs.modCore

theorem State.Canonical.setRemapState {st : Nat} (hs : s.Canonical) : (s.setRemapState p st).Canonical :=
  hs

theorem State.Canonical.quarCore (hs : s.Canonical) : (s.quarCore p).Canonical :=
  hs.modCore.setRemapState

theorem State.Canonical.quarRouter (hs : s.Canonical) : (s.quarRouter p).Canonical :=
  hs.modCore

theorem State.Canonical.quarArray (hs : s.Canonical) : (s.quarArray n).Canonical :=
  .foldl hs.modCluster (fun _ _ hx => hx.modCore)

theorem State.Canonical.stopCheck {id : Nat} (hs : s.Canonical) : (s.stopCheck p id).Canonical :=
  hs.modCore

/-! ### Barriers and messages -/

theorem State.Canonical.modInstCores {f : Core → Core} (hs : s.Canonical) : (s.modInstCores n f).Canonical :=
  .foldl hs (fun _ _ hx => hx.modCore)

theorem State.Canonical.arriveGroup {i : Instance} {g r : Nat} (hs : s.Canonical) : (s.arriveGroup n i g r k).Canonical :=
  .ite hs.modInst.modInstCores hs.modInst

theorem State.Canonical.pairStatus {status : Nat} {after : State} (hs : s.Canonical) (ha : after.Canonical) :
    AllSome (·.2.Canonical) (s.pairStatus p k status after) :=
  .ite (hs.twinValue.image fun _ hx => hx) (ha.twinValue.image fun _ hx => hx)

theorem State.Canonical.barr {g : Nat} (hs : s.Canonical) : (s.barr p k g).2.Canonical := by
  unfold State.barr
  dsimp only
  split
  · exact hs
  split
  · exact hs
  split
  · exact hs
  · exact hs.arriveGroup

theorem statusWord_canonical {d : BitVec 8} {pre : Nat → Nat → State → Verdict} {f : Nat → Nat → State → Nat × State} (hs : s.Canonical)
    (hf : ∀ p k x, x.Canonical → (f p k x).2.Canonical) : NextCanonical (statusWord h d pre f s) := by
  unfold statusWord
  exact runWord_canonical hs (fun _ _ _ hx => by
    dsimp only
    split
    · exact .done (.wS ((hx.pairStatus (hf _ _ _ hx)).get ‹_›))
    · trivial)

theorem State.Canonical.consumeDone {g : Nat} (hs : s.Canonical) : (s.consumeDone p g).Canonical := by
  unfold State.consumeDone
  dsimp only
  split
  · exact hs
  · exact hs.modInst

theorem execBwait_canonical {d : BitVec 8} {g : BitVec 2} {b : BitVec 8} {wall : BitVec 1} (hs : s.Canonical) :
    NextCanonical (execBwait h d g b wall s) := by
  unfold execBwait
  exact runWord_canonical hs (fun _ _ _ hx => by
    dsimp only
    split
    · trivial
    · exact State.Canonical.startWait ((hx.pairStatus (.ite hx.consumeDone hx)).get ‹_›))

theorem State.Canonical.noteGone {g : Nat} (hs : s.Canonical) : (s.noteGone n g).Canonical :=
  hs.modInst

theorem State.Canonical.noteConfig {g rel : Nat} (hs : s.Canonical) : (s.noteConfig n g rel).Canonical :=
  hs.modInst

theorem State.Canonical.bwd {g : Nat} (hs : s.Canonical) : (s.bwd p g).2.Canonical := by
  unfold State.bwd
  dsimp only
  split
  · exact hs
  · exact .noteGone (.ite hs (.ite hs.modInst.modInstCores hs.withdraw))

theorem twinRead_canonical {lat : Nat} {d : BitVec 8} {f : Nat → Nat → State → Word}
    (hs : s.Canonical) : NextCanonical (twinRead h lat d f s) := by
  unfold twinRead
  exact runWord_canonical hs (fun _ _ _ hx => by
    split
    · exact .done (.wS (hx.twinValue.get ‹_›))
    · trivial)

theorem State.Canonical.takeHw {i : Instance} {g : Nat} {members : List Nat} (hs : s.Canonical) : (s.takeHw n i g members).Canonical :=
  .ite hs (.foldl hs (fun _ _ hx => .ite hx.modDie hx.modDie))

theorem State.Canonical.takeAllHw {i : Instance} (hs : s.Canonical) : (s.takeAllHw n i).Canonical :=
  .foldl hs (fun _ _ hx => .ite hx.takeHw hx)

theorem State.Canonical.installGroup {i : Instance} {g : Nat} {members : List Nat} {rel : Nat}
    (hs : s.Canonical) : (s.installGroup n i g members rel).Canonical :=
  hs.takeHw.modInst

theorem State.Canonical.bcfg {g : Nat} {members : List Nat} {force : Bool} (hs : s.Canonical) : (s.bcfg p g members force).2.Canonical := by
  unfold State.bcfg
  dsimp only
  split
  · exact hs
  split
  · exact hs.noteConfig
  split
  · exact hs.noteConfig
  · exact .installGroup (.ite hs.modInstCores hs)

theorem execBcfg_canonical {d : BitVec 8} {g : BitVec 2} {b : BitVec 8} {u : BitVec 1} (hs : s.Canonical) :
    NextCanonical (execBcfg h d g b u s) := by
  unfold execBcfg
  exact runWord_canonical hs (fun _ _ _ hx => by
    dsimp only
    refine .ite trivial (.ite trivial ?_)
    split
    · exact .done (.wS ((hx.pairStatus hx.bcfg).get ‹_›))
    · trivial)

theorem execBarrierRelease_canonical {iid g : Nat} (hs : s.Canonical) : NextCanonical (execBarrierRelease iid g s) := by
  unfold execBarrierRelease
  dsimp only
  split
  · exact .fault
  split
  · exact .fault
  · exact .ite .fault (.next hs.modInst.modInstCores)

theorem State.Canonical.sendMessage {m : Message} (hs : s.Canonical) : (s.sendMessage m).Canonical := by
  unfold State.sendMessage
  have h1 : State.Canonical { s with nextId := s.nextId + 1 } := hs
  refine .ite ?_ hs
  split
  · exact h1.defer.get ‹_›
  · exact .overflowed hs

theorem execSend_canonical {a b : BitVec 8} {_scope : BitVec 3} {m : BitVec 12}
    (hs : s.Canonical) : NextCanonical (execSend h a b _scope m s) := by
  unfold execSend
  exact runWord_canonical hs (fun _ _ _ hx => by
    dsimp only
    refine .ite trivial ?_
    split
    · exact .done hx.sendMessage
    split
    · exact .done hx
    · trivial)

theorem execMessageDelivery_canonical (hs : s.Canonical) : NextCanonical (execMessageDelivery k s) := by
  unfold execMessageDelivery
  dsimp only
  split
  · exact .fault
  refine .ite .fault ?_
  refine .ite (.next hs) ?_
  refine .ite .fault ?_
  refine .next ?_
  split <;> exact hs

theorem State.Canonical.arriveEntry (hs : s.Canonical) : (s.arriveEntry p).Canonical := by
  unfold State.arriveEntry
  dsimp only
  split
  · exact hs
  · exact .ite hs (.ite hs.modInst hs.modInst)

theorem execSstep_canonical {a b : BitVec 8} {u wall : BitVec 1} (hs : s.Canonical) : NextCanonical (execSstep h a b u wall s) := by
  unfold execSstep
  exact runWord_canonical hs (fun _ _ _ hx => by
    dsimp only
    split
    · trivial
    split
    · trivial
    · exact .ite trivial (State.Canonical.startWait (.ite hx.modCore.arriveEntry hx)))

/-! ### Migration -/

theorem State.Canonical.stopCore {k : StopKind} (hs : s.Canonical) : (s.stopCore p k).Canonical :=
  hs.modCore

theorem State.Canonical.startCore (hs : s.Canonical) : (s.startCore p).Canonical :=
  hs.modCore

theorem State.Canonical.migDrop (hs : s.Canonical) : (s.migDrop p).Canonical :=
  hs.modDie

theorem State.Canonical.request {m : MigReq} (hs : s.Canonical) : (s.request p m).Canonical :=
  hs.modCore

theorem State.Canonical.ownRequest {q : Nat} (hs : s.Canonical) : NextCanonical (s.ownRequest p q) := by
  unfold State.ownRequest
  exact .ite .fault (.next hs.request)

theorem State.Canonical.endMigrate {status : Nat} (hs : s.Canonical) : (s.endMigrate p status).Canonical := by
  unfold State.endMigrate
  dsimp only
  split
  · exact hs
  split
  · exact hs.modCore
  · exact hs

theorem State.Canonical.setRemapPart {st : Nat} (hs : s.Canonical) : (s.setRemapPart p st).Canonical := by
  unfold State.setRemapPart
  dsimp only
  split
  · exact hs
  · exact hs.modPart

theorem State.Canonical.markMigrating (hs : s.Canonical) : (s.markMigrating p).Canonical :=
  .ite hs.setRemapPart hs

theorem State.Canonical.atBoundary (hs : s.Canonical) : (s.atBoundary p).1.Canonical := by
  unfold State.atBoundary
  dsimp only
  split
  · exact hs
  split
  · exact .ite hs.endMigrate hs.endMigrate.migDrop
  · exact hs.modCore.stopCore.markMigrating

theorem State.Canonical.sstepBoundary (hs : s.Canonical) : (s.sstepBoundary p).Canonical :=
  .ite hs hs.atBoundary

theorem State.Canonical.moveTcm {q : Nat} (hs : s.Canonical) : (s.moveTcm p q).Canonical :=
  wf_foldl _ (fun _ _ hm => wf_memSet _ _ hm) _ (wf_filter hs)

theorem State.Canonical.renameTraffic {part q : Nat} (hs : s.Canonical) : (s.renameTraffic part p q).Canonical :=
  hs

theorem State.Canonical.renameCore {part q : Nat} (hs : s.Canonical) : (s.renameCore part p q).Canonical := hs

theorem State.Canonical.payMove {q part : Nat} (hs : s.Canonical) : (s.payMove p q part).Canonical :=
  hs

theorem State.Canonical.followHw {q : Nat} (hs : s.Canonical) : (s.followHw q).Canonical := by
  unfold State.followHw
  split
  · exact hs
  · exact hs.takeAllHw

theorem State.Canonical.moveCore {q : Nat} (hs : s.Canonical) : (s.moveCore p q).Canonical := by
  unfold State.moveCore
  dsimp only
  split
  · exact hs.moveTcm.renameCore.setCore.setCore.followHw
  · exact .ite hs.moveTcm.renameCore.setCore.setCore.followHw.payMove hs.moveTcm.renameCore.setCore.setCore.followHw.payMove.modCore

theorem execMigrationCommit_canonical {core : Nat} (hs : s.Canonical) : NextCanonical (execMigrationCommit core s) := by
  unfold execMigrationCommit
  dsimp only
  split
  · exact .ite .fault (.next hs.endMigrate.setRemapPart.moveCore)
  · exact .fault

theorem State.Canonical.arrive (hs : s.Canonical) : NextCanonical (s.arrive p) := by
  unfold State.arrive
  exact .ite (.next hs.startCore) .fault

/-! ### Rollback -/

theorem State.Canonical.raiseMsix {v : Nat} (hs : s.Canonical) : (s.raiseMsix v).Canonical :=
  .ite hs hs

theorem State.Canonical.chainMsix {v : Nat} (hs : s.Canonical) : (s.chainMsix p v).Canonical := by
  unfold State.chainMsix
  refine .ite ?_ hs.raiseMsix
  split
  · exact (hs.defer.get ‹_›)
  · exact hs.raiseMsix.overflowed

theorem State.Canonical.finishMate {v : Nat} (hs : s.Canonical) : (s.finishMate p o v).Canonical := by
  unfold State.finishMate
  split
  · exact hs
  split
  · exact hs.finishOp
  · exact hs

theorem State.Canonical.release {d : Deferred} (hs : s.Canonical) : (s.release p d).Canonical := by
  unfold State.release
  dsimp only
  split
  · split
    · exact hs.store.markStale.cleanse.wpReport
    · exact hs.store.markStale.cleanse
  · exact hs.store.markStale.cleanse.finishOp.finishMate
  · exact hs.raiseMsix
  · exact hs

theorem State.Canonical.releaseAll (hs : s.Canonical) : (s.releaseAll p).Canonical :=
  .foldl hs.modCore (fun _ _ hx => hx.release)

theorem State.Canonical.datumOf (hs : s.Canonical) : (s.datumOf p).Canonical :=
  hs.modCore

theorem State.Canonical.writeDatum (hs : s.Canonical) : (s.writeDatum p).Canonical :=
  .foldl hs (fun _ _ hx => hx.writeMem)

theorem State.Canonical.takeDatum (hs : s.Canonical) : (s.takeDatum n).Canonical :=
  .modInst (.foldl (.foldl hs (fun _ _ hx => hx.datumOf)) (fun _ _ hx => hx.writeDatum))

theorem State.Canonical.applyUndo {l : List Undo} (hs : s.Canonical) : (s.applyUndo l).Canonical :=
  .foldl hs (fun _ _ hx => hx.store.setFull)

theorem State.Canonical.dropFill {m : Cmd} (hs : s.Canonical) : (s.dropFill p m).Canonical :=
  .ite hs.modCluster hs

theorem State.Canonical.dropFills {i : Instance} (hs : s.Canonical) : (s.dropFills i p).Canonical :=
  .foldl hs (fun _ _ hx => .foldl hx (fun _ _ hy => hy.dropFill))

theorem State.Canonical.rollback {i : Instance} (hs : s.Canonical) : (s.rollback n i).Canonical :=
  .modInst (.foldl (.applyUndo (.foldl hs (fun _ _ hx => hx.dropFills))) (fun _ _ hx => by
    split
    · exact hx.modCore
    · exact hx))

theorem State.Canonical.endSstep (hs : s.Canonical) : (s.endSstep p).Canonical := by
  unfold State.endSstep
  split
  · exact hs
  split
  · exact .ite hs.endWait.sstepBoundary hs
  · exact hs

theorem State.Canonical.enterAll (hs : s.Canonical) : (s.enterAll n).Canonical := by
  unfold State.enterAll
  dsimp only
  split
  · exact .foldl hs.modInst.modInstCores (fun _ _ hx => hx.endSstep)
  · exact .ite (.takeDatum (.foldl (.foldl hs.modInst.modInstCores (fun _ _ hx => hx.endSstep)) (fun _ _ hx => hx.releaseAll)))
      (.foldl hs.modInst.modInstCores (fun _ _ hx => hx.endSstep))

theorem execComputeEntry_canonical {iid : Nat} (hs : s.Canonical) : NextCanonical (execComputeEntry iid s) := by
  unfold execComputeEntry
  split
  · exact .fault
  · exact .ite (.next hs.enterAll) .fault

/-! ### The pieces of a command -/

theorem State.Canonical.engStore {va : Word} {l : Nat} {bs : List Byte} {rs host full : Bool}
    (hs : s.Canonical) : (s.engStore p va l bs rs host full).Canonical := by
  unfold State.engStore
  refine .ite ?_ (.ite (.ite hs hs.writeRouted) hs.writeMem)
  refine .ite hs ?_
  refine .ite ?_ hs.writeMem
  split
  · exact (hs.defer.get ‹_›)
  · exact hs.writeMem.overflowed

theorem State.Canonical.modCmd {slot seq : Nat} {f : Cmd → Cmd} (hs : s.Canonical) : (s.modCmd p slot seq f).Canonical :=
  hs.modCore

theorem State.Canonical.engFault {slot : Nat} {m : Cmd} {kind cause : Nat} {va : Word} {waits : Nat → Cmd → Cmd} {failed : Cmd → Cmd}
    (hs : s.Canonical) : AllSome State.Canonical (s.engFault p slot m kind cause va waits failed) := by
  unfold State.engFault
  dsimp only
  refine .ite (.intro (.modCmd (.ite hs hs.countDrop))) ?_
  split
  · exact .intro (.modCmd ((State.Canonical.pushSnag (.ite hs hs.countDrop)).get ‹_›))
  · exact .ite .none (.intro (.modCmd (.ite hs hs.countDrop)))

theorem State.Canonical.cover {m : Cmd} {l : Nat} (hs : s.Canonical) : (s.cover m l).2.Canonical := by
  unfold State.cover
  dsimp only
  split
  · exact hs
  · split <;> exact hs

theorem State.Canonical.engStores {m : Cmd} {full : Bool} {xs : List ((Part × Nat × Bool × Bool) × List Byte)} (hs : s.Canonical) :
    (s.engStores p m full xs).2.Canonical := by
  induction xs generalizing s m with
  | nil => exact hs
  | cons x r ih =>
    unfold State.engStores
    dsimp only
    refine ih ?_
    split
    · exact hs.engStore.cover
    · exact hs.engStore

theorem State.Canonical.finishCmd {slot : Nat} {m : Cmd} {wrote : Bool} (hs : s.Canonical) : (s.finishCmd p slot m wrote).Canonical :=
  .markMigrating (.dropFill (.ite hs.modCore.chainMsix hs.modCore))

theorem State.Canonical.afterFinal {slot : Nat} {m : Cmd} {w : Nat} (hs : s.Canonical) : (s.afterFinal p slot m w).Canonical :=
  .ite hs.modCmd hs.finishCmd

theorem State.Canonical.postEng {elem : Nat} {hash : Word} {g : EngMsg}
    (hs : s.Canonical) : AllSome State.Canonical (s.postEng p elem hash g) := by
  unfold State.postEng
  dsimp only
  split
  · exact .none
  · exact .map fun _ => hs

theorem State.Canonical.finalFault {slot : Nat} {m : Cmd} {w kind cause : Nat} {va : Word}
    (hs : s.Canonical) : NextCanonical (s.finalFault p slot m w kind cause va) := by
  unfold State.finalFault
  split
  · exact .next (hs.engFault.get ‹_›)
  · exact .fault

theorem State.Canonical.writeFinal {slot : Nat} {m : Cmd} {w : Nat} (hs : s.Canonical) : NextCanonical (s.writeFinal p slot m w) := by
  unfold State.writeFinal
  dsimp only
  split
  · refine .ite .fault ?_
    refine .ite ?_ (.next hs.payFor.walked.engStore.afterFinal)
    split
    · exact .next (.modCmd (hs.payFor.walked.postEng.get ‹_›))
    · exact .fault
  · exact hs.finalFault
  · split
    · exact .next hs.modCmd
    · exact .ite .fault hs.finalFault
  · exact .fault

theorem execEngineCommandComplete_canonical {core slot : Nat}
    (hs : s.Canonical) : NextCanonical (execEngineCommandComplete core slot s) := by
  unfold execEngineCommandComplete
  split
  · exact .fault
  refine .ite .fault ?_
  split
  · exact hs.writeFinal
  · split
    · exact hs.writeFinal
    · exact hs.writeFinal
    · exact hs.writeFinal
    · exact .next hs.finishCmd
  · exact .fault

theorem State.Canonical.engForward {a b : Nat} {g : EngMsg} (hs : s.Canonical) : (s.engForward a b g).Canonical := by
  unfold State.engForward
  dsimp only
  split
  · split
    · exact .afterFinal (.afterFinal (.foldl hs (fun _ _ hx => hx.engStore)))
    split
    · exact .ite hs.modCmd.modCmd hs.engStores.modCmd.modCmd
    · exact hs
  · exact hs

/-! ### The exchange and closures -/

theorem State.Canonical.planWalked {i : Instance} {t : Tract} (hs : s.Canonical) : (s.planWalked p i t).Canonical := by
  unfold State.planWalked
  dsimp only
  refine .ite hs ?_
  split
  · exact hs.walked
  · exact .foldl hs.walked (fun _ _ hx => hx.walked)
  · exact hs

theorem State.Canonical.overrun (hs : s.Canonical) : (s.overrun p).Canonical :=
  hs.mcLog.killTractOf

theorem State.Canonical.finishExch (hs : s.Canonical) : (s.finishExch p).Canonical := by
  unfold State.finishExch
  dsimp only
  refine .ite ?_ hs
  split
  · exact hs.modCore
  · exact .ite hs.modCore.modInst.modInstCores hs.modCore.modInst

theorem State.Canonical.addRx {step : Nat} (hs : s.Canonical) : (s.addRx p n step).Canonical :=
  .ite hs.overrun (.ite hs.modCore.overrun hs.modCore.finishExch)

theorem State.Canonical.planTrap {info : Word} (hs : s.Canonical) : (s.planTrap p info).Canonical :=
  .ite (.trapAll (.foldl hs.modCore (fun _ _ hx => hx.clearWait))) hs.modCore.modCore

theorem execExchangeStart_canonical {core : Nat} (hs : s.Canonical) : NextCanonical (execExchangeStart core s) := by
  unfold execExchangeStart
  dsimp only
  split
  · split
    · exact .fault
    refine .ite .fault ?_
    split
    · exact .fault
    · exact .fault
    · exact .next hs.dropAt.planTrap
    · exact .next hs.planWalked.modCore.addRx
  · exact .fault

theorem State.Canonical.exchFault {va : Nat} (hs : s.Canonical) : (s.exchFault p va).Canonical :=
  hs.modStrand

theorem State.Canonical.sendRecord {core : Nat} {i : Instance} {r : PlanRecord} {ws : List Word}
    (hs : s.Canonical) : AllSome State.Canonical (s.sendRecord core n i r ws) := by
  unfold State.sendRecord
  dsimp only
  split
  · exact .intro (.finishExch (.ite hs.modCore.exchFault (.ite hs.modCore hs)))
  · exact .map fun _ => .finishExch (.ite hs.modCore.exchFault (.ite hs.modCore hs))

theorem execExchangeRecordIssue_canonical {core : Nat} (hs : s.Canonical) : NextCanonical (execExchangeRecordIssue core s) := by
  unfold execExchangeRecordIssue
  dsimp only
  split
  · refine .ite .fault ?_
    refine .ite (.next hs.drawn.pay.modCore) ?_
    split
    · exact .next (hs.drawn.pay.modCore.sendRecord.get ‹_›)
    · exact .fault
  · exact .fault

theorem State.Canonical.addRxBoth {step : Nat} (hs : s.Canonical) : (s.addRxBoth p n step).Canonical := by
  unfold State.addRxBoth
  split
  · exact hs.addRx
  · exact hs.addRx.addRx

theorem State.Canonical.slip (hs : s.Canonical) : s.slip.Canonical :=
  .ite hs.drawn hs.drawn.modDie

theorem State.Canonical.receive {t : Transfer} {q : Nat} (hs : s.Canonical) : (s.receive k t q).Canonical :=
  .ite (.addRxBoth (.writeRouted (.ite hs.drawn.slip hs.drawn))) (.writeRouted (.ite hs.drawn.slip hs.drawn))

theorem execExchangeReceive_canonical (hs : s.Canonical) : NextCanonical (execExchangeReceive k s) := by
  unfold execExchangeReceive
  dsimp only
  split
  · exact .fault
  · exact .ite (.next hs.slip) (.ite (.next (.exchFault hs.slip)) (.ite .fault (.next hs.receive)))

theorem State.Canonical.mismatch {c : Closure} (hs : s.Canonical) : (s.mismatch c).Canonical :=
  hs.mcLog.mcLog.killTractOf.quarCore.quarCore

theorem State.Canonical.performPair {a b : Nat} {x y : MemOp} (hs : s.Canonical) : AllSome State.Canonical (s.performPair a b x y) := by
  unfold State.performPair
  dsimp only
  split
  · exact .intro hs.snagOp.snagOp
  · refine .ite .none (.ite (.ite ?_ ?_) ?_)
    · exact hs.pay.deferOp.image fun _ hx => .ite hx hx.finishMate
    · exact .intro (.wholeRow (.finishOp (.finishOp (.ite hs.pay.effect.overflowed hs.pay.effect))))
    · split
      · exact .ite (.intro hs.pay.pay.perform.perform) .none
      · exact .none
  · exact .none

theorem State.Canonical.forward {c : Closure} (hs : s.Canonical) : AllSome State.Canonical (s.forward c) := by
  unfold State.forward
  dsimp only
  split
  · split
    · exact .intro hs.sendMessage
    · exact .intro hs
  · refine .ite .none ?_
    split
    · exact .intro hs
    · exact .ite (.intro hs) (.ite .none (.intro hs.addRxBoth))
  · split
    · exact .intro hs.engForward
    · exact .intro hs
  split
  · exact .intro hs
  split
  · exact hs.performPair
  · exact .intro hs

theorem execClosureCheck_canonical (hs : s.Canonical) : NextCanonical (execClosureCheck k s) := by
  unfold execClosureCheck
  have h1 : State.Canonical { s with closures := s.closures.eraseIdx k } := hs
  dsimp only
  split
  · exact .fault
  split
  · refine .ite ?_ (.next (.mismatch h1))
    split
    · exact .next (h1.forward.get ‹_›)
    · exact .fault
  · exact .fault

theorem execClosureTimeout_canonical (hs : s.Canonical) : NextCanonical (execClosureTimeout k s) := by
  unfold execClosureTimeout
  dsimp only
  split
  · exact .fault
  · exact .ite .fault (.next (.mismatch hs))

/-! ### Service -/

theorem State.Canonical.stopCmd {slot seq : Nat} (hs : s.Canonical) : (s.stopCmd p slot seq).Canonical :=
  hs.modCore

theorem execMachineCheck_canonical {core strand unit lane obs expected : Nat}
    (hs : s.Canonical) : NextCanonical (execMachineCheck core strand unit lane obs expected s) := by
  unfold execMachineCheck
  dsimp only
  refine .ite .fault ?_
  refine .ite ?_ (.ite .fault (.next hs.mcLog.killTractOf.quarCore))
  split
  · exact .ite .fault (.next hs.mcLog.stopCmd.killTractOf.quarArray)
  · exact .fault

theorem State.Canonical.startTest (hs : s.Canonical) : (s.startTest p).Canonical :=
  .ite hs.modCore hs.modCore

theorem State.Canonical.clearQuar {bits : BitVec 3} (hs : s.Canonical) : (s.clearQuar p bits).Canonical :=
  .ite (.modCore (.ite (.modCluster (.ite hs.modCore.setRemapState hs)) (.ite hs.modCore.setRemapState hs)))
      (.ite (.modCluster (.ite hs.modCore.setRemapState hs)) (.ite hs.modCore.setRemapState hs))

theorem State.Canonical.rebuildTcm {bank : Nat} (hs : s.Canonical) : (s.rebuildTcm p bank).Canonical :=
  .ite hs hs.modCore

theorem State.Canonical.rebuildCsp {bank : Nat} (hs : s.Canonical) : (s.rebuildCsp n bank).Canonical :=
  .ite hs hs.modCluster

/-! ### Tiles, residencies and register pages -/

theorem State.Canonical.wipe {a : Nat} (hs : s.Canonical) : (s.wipe a n).Canonical := wf_filter hs

theorem State.Canonical.setTile {clu : Nat} {old new : Tile} (hs : s.Canonical) : (s.setTile clu old new).Canonical :=
  hs.modCluster

theorem State.Canonical.writeSlot {ctx : Nat} {save : Word} {log : Nat} (hs : s.Canonical) : (s.writeSlot ctx save log).Canonical := by
  unfold State.writeSlot
  refine State.Canonical.withFresh (State.Canonical.foldl hs fun x i hx => ?_)
  split
  · exact hx.writeMem
  · exact hx

theorem State.Canonical.imageTile {t : Tile} (hs : s.Canonical) : (s.imageTile t).Canonical := by
  unfold State.imageTile
  dsimp only
  split
  · exact hs
  · exact hs.writeSlot.modPart

theorem State.Canonical.saveTiles {clu first : Nat} (hs : s.Canonical) : (s.saveTiles clu first n).Canonical :=
  .modCluster (.foldl hs (fun _ _ hx => hx.imageTile))

theorem State.Canonical.touch {clu : Nat} {t : Tile} (hs : s.Canonical) : AllSome (·.1.Canonical) (s.touch clu t) := by
  unfold State.touch
  dsimp only
  split
  · exact .intro hs
  · exact .ite (.intro hs.saveTiles.wipe.store.setTile) .none

theorem execClaim_canonical {d : BitVec 8} {n : BitVec 7} (hs : s.Canonical) : NextCanonical (execClaim h d n s) := by
  unfold execClaim
  exact runWord_canonical hs (fun _ _ _ hx => by
    dsimp only
    split
    · exact .done hx.wS
    · exact .done hx.saveTiles.wipe.modCluster.wS)

theorem onTile_canonical {w : Word} {shaped : Bool} {f : State → Tile → Res}
    (hs : s.Canonical) (hf : ∀ x y1, x.Canonical → (f x y1).Canonical) : (onTile w p shaped f s).Canonical := by
  unfold onTile
  split
  · trivial
  refine .ite trivial ?_
  refine .ite trivial ?_
  split
  · trivial
  · exact hf _ _ (hs.touch.get ‹_›)

theorem execRels_canonical {a : BitVec 8} (hs : s.Canonical) : NextCanonical (execRels h a s) := by
  unfold execRels
  exact runWord_canonical hs (fun _ _ _ hx => by
    split
    · trivial
    · exact .ite trivial (.done hx.modCluster))

theorem execTrow_canonical {d a b : BitVec 8} (hs : s.Canonical) : NextCanonical (execTrow h d a b s) := by
  unfold execTrow
  exact runWord_canonical hs (fun _ _ _ hx => onTile_canonical hx (fun _ _ hy => by
    split
    · trivial
    · exact .ite trivial (hy.payOr (fun _ hy => .done hy.wV))))

theorem State.Canonical.putTileLanes {l : Nat} {eq : BitVec 16} {r : Row} (hs : s.Canonical) : (s.putTileLanes l eq r).Canonical :=
  .foldl hs (fun _ _ hx => .ite (.ite hx.store.cleanse hx.store) hx)

theorem execTwrow_canonical {a b c : BitVec 8} (hs : s.Canonical) : NextCanonical (execTwrow h a b c s) := by
  unfold execTwrow
  exact runWord_canonical hs (fun _ _ _ hx => onTile_canonical hx (fun _ _ hy => by
    split
    · trivial
    · exact hy.payOr (fun _ hy => .done hy.putTileLanes)))

theorem State.Canonical.putElem {clu : Nat} {t : Tile} {r c v : Nat} (hs : s.Canonical) : (s.putElem clu t r c v).Canonical :=
  .ite hs.store hs.store

theorem State.Canonical.modRes {clu mask : Nat} {f : Residency → Residency} (hs : s.Canonical) : (s.modRes clu mask f).Canonical :=
  hs.modCluster

theorem onRes_canonical {a : BitVec 8} {f : Nat → Residency → State → Res}
    (hs : s.Canonical) (hf : ∀ p k x, x.Canonical → (f p k x).Canonical) : NextCanonical (onRes h a f s) := by
  unfold onRes
  exact runWord_canonical hs (fun _ _ _ hx => by
    dsimp only
    split
    · trivial
    · exact hf _ _ _ hx)

theorem State.Canonical.revoke {clu : Nat} {r : Residency} (hs : s.Canonical) : (s.revoke clu r).Canonical :=
  hs.modCluster

theorem execWrquery_canonical {d a : BitVec 8} (hs : s.Canonical) : NextCanonical (execWrquery h d a s) := by
  unfold execWrquery
  exact runWord_canonical hs (fun _ _ _ hx => by
    dsimp only
    split
    · exact .done (.wS (hx.twinValue.get ‹_›))
    · trivial)

/-! ### Chains -/

theorem State.Canonical.clearCword {sup : Bool} {va : Word} (hs : s.Canonical) : (s.clearCword p sup va).Canonical := by
  unfold State.clearCword
  split
  · exact .ite hs (.ite hs.writeRouted hs.writeMem)
  · exact hs

theorem State.Canonical.chainWalked {ring : List Word} {cword : Word} (hs : s.Canonical) : (s.chainWalked p ring cword).Canonical :=
  .foldl hs (fun _ _ hx => hx.walked)

theorem execChain_canonical {d a : BitVec 8} (hs : s.Canonical) : NextCanonical (execChain h d a s) := by
  unfold execChain
  exact runWord_canonical hs (fun _ _ _ hx => by
    dsimp only
    split
    · exact .done hx.wS
    refine .ite trivial ?_
    refine .ite (hx.payOr (fun _ hy => .done hy.wS)) ?_
    split
    · refine .ite (hx.payOr (fun _ hy => .done hy.wS)) ?_
      split
      · exact hx.payOr (fun _ hy => .done hy.wS)
      · exact hx.payOr (fun _ hy => .done hy.chainWalked.clearCword.modCore.wS)
    · trivial)

theorem execChainUnbind_canonical {d a : BitVec 8} (hs : s.Canonical) : NextCanonical (execChainUnbind h d a s) := by
  unfold execChainUnbind
  exact runWord_canonical hs (fun _ _ _ hx => by
    dsimp only
    split
    · exact .done hx.wS
    · exact .ite trivial (.done hx.modCore.wS))

theorem execAppend_canonical {d a b : BitVec 8} {u : BitVec 1} (hs : s.Canonical) : NextCanonical (execAppend h d a b u s) := by
  unfold execAppend
  exact runWord_canonical hs (fun _ _ _ hx => by
    dsimp only
    split
    · trivial
    refine .ite trivial ?_
    split
    · trivial
    refine .ite trivial ?_
    split
    · trivial
    refine .ite trivial ?_
    split
    · exact .done (.modCore (hx.issueOps.get ‹_›))
    · exact hx.issueOps)

theorem State.Canonical.clearErr {hd : Word} (hs : s.Canonical) : (s.clearErr p k hd).Canonical := by
  unfold State.clearErr
  split
  · exact hs
  · exact .ite hs.modCore hs

theorem execSeqrd_canonical {d a : BitVec 8} {k : BitVec 2} (hs : s.Canonical) : NextCanonical (execSeqrd h d a k s) := by
  unfold execSeqrd
  exact runWord_canonical hs (fun _ _ _ hx => by
    dsimp only
    split
    · exact .done (.wS (.clearErr (hx.twinValue.get ‹_›)))
    · trivial)

/-! ### Commands -/

theorem State.Canonical.endCmd {slot : Nat} {m : Cmd} {status events reload : Nat}
    (hs : s.Canonical) : (s.endCmd p slot m status events reload).Canonical :=
  hs.modCmd.modCore

theorem State.Canonical.engSnag {slot : Nat} {m : Cmd} {kind cause : Nat} {va : Word}
    (hs : s.Canonical) : NextCanonical (s.engSnag p slot m kind cause va) := by
  unfold State.engSnag
  split
  · exact .next (hs.engFault.get ‹_›)
  · exact .fault

theorem State.Canonical.workAt {slot : Nat} {m : Cmd} {f : Runner} {c : Piece} {xs : List (Part × Nat × Bool × Bool)}
    (hs : s.Canonical) : NextCanonical (s.workAt p slot m f c xs) := by
  unfold State.workAt
  dsimp only
  refine .ite ?_ (.ite (.next hs.modCmd) (.next hs.engStores.modCmd))
  split
  · exact .fault
  · exact .next (.modCmd (hs.postEng.get ‹_›))

theorem State.Canonical.workStep {slot : Nat} {m : Cmd} {f : Runner} (hs : s.Canonical) : NextCanonical (s.workStep p slot m f) := by
  unfold State.workStep
  dsimp only
  split
  · exact .fault
  split
  · exact hs.drawn.engSnag
  · split
    · exact .next hs.modCmd
    · exact .ite .fault hs.drawn.engSnag
  · exact .ite .fault (State.Canonical.workAt (.foldl hs.drawn.payFor (fun _ _ hx => .ite hx hx.walked)))
  · exact .fault

theorem refuseCmd_canonical {status : Nat} (hs : s.Canonical) : (refuseCmd s status).Canonical := hs

theorem next_canonical {m : Cmd} {stage : Nat} {work : List Piece} (hs : s.Canonical) : (m.next stage work s).Canonical := hs

theorem begin_canonical {m : Cmd} (hs : s.Canonical) : (m.begin s).Canonical := hs

theorem into_canonical {α : Type} {x : Eng α} {f : α → Run} (hs : s.Canonical) (hf : ∀ a, (f a).Canonical) : (x.into s f).Canonical := by
  cases x with
  | ok a => exact hf a
  | fault => exact hs
  | wait => trivial
  | slow => trivial
  | poison => exact hs

theorem runCmd_canonical {eop : Nat} {e : Ecw} {f : Runner} (hs : s.Canonical) (hf : f.Canonical) : NextCanonical (runCmd eop e f s) := by
  unfold runCmd
  dsimp only
  split
  · exact .fault
  · refine .ite .fault (.ite hs.workStep ?_)
    have hg := hf s.focus.pcid s.focus.slot ‹Cmd› s hs
    split
    · exact .next (hg.getGo ‹_›).modCmd
    · exact .next (hg.getDone ‹_›).endCmd
    · exact (hg.getSnag ‹_›).engSnag
    · exact .fault
    · exact .fault

/-! ### The matrix queue -/

theorem State.Canonical.endFill {m : Cmd} {r : Residency} (hs : s.Canonical) : AllSome State.Canonical (s.endFill p m r) :=
  .ite .none (.intro hs.modRes)

theorem State.Canonical.touchAll {clu : Nat} {ts : List Tile} (hs : s.Canonical) : AllSome State.Canonical (s.touchAll clu ts) := by
  induction ts generalizing s with
  | nil => exact .intro hs
  | cons t r ih =>
    unfold State.touchAll
    split
    · exact ih hs
    · split
      · exact ih (hs.touch.get ‹_›)
      · exact .none

theorem State.Canonical.storeTile {m : Cmd} {t : Tile} (hs : s.Canonical) : (s.storeTile p m t).1.Canonical :=
  foldl_fst_canonical hs fun _ _ hx => hx.putElem

theorem State.Canonical.cleanTile {clu : Nat} {t : Tile} {rows : Nat} (hs : s.Canonical) : (s.cleanTile clu t rows).Canonical :=
  .foldl hs (fun _ _ hx => hx.cleanse)

/-! ### Long accumulators and collective commands -/

theorem State.Canonical.writeAcc {l : Nat} {va : Word} {a : Acc} {f : State → State}
    (hs : s.Canonical) (hf : ∀ x, x.Canonical → (f x).Canonical) : (s.writeAcc p k l va n a f).Canonical := by
  unfold State.writeAcc
  dsimp only
  refine .ite trivial ?_
  split
  · exact .done (hf _ (hs.pay.issueOps.get ‹_›))
  · exact hs.pay.issueOps

theorem State.Canonical.readAccWords {f : State → State}
    (hs : s.Canonical) (hf : ∀ x, x.Canonical → (f x).Canonical) : (s.readAccWords p n f).Canonical :=
  .ite (.done (hf _ hs.pay)) trivial

theorem State.Canonical.orLaev {a : Acc} (hs : s.Canonical) : (s.orLaev p k a).Canonical :=
  hs.putHbits

theorem onObject_canonical {va : Word} {reads : Nat → List Nat} {f : Nat → Acc → Res} (hf : ∀ l a, (f l a).Canonical) :
    (onObject va p k reads f s).Canonical := by
  unfold onObject
  split
  · trivial
  · exact .ite trivial (.ite trivial (hf _ _))

theorem State.Canonical.addTo {va : Word} {xs : List FVal} (hs : s.Canonical) : (s.addTo p k va xs).Canonical :=
  onObject_canonical fun _ _ => hs.writeAcc fun _ hx => hx.orLaev

theorem execLaclr_canonical {a : BitVec 8} (hs : s.Canonical) : NextCanonical (execLaclr h a s) := by
  unfold execLaclr
  exact runWord_canonical hs (fun _ _ _ hx => by
    dsimp only
    split
    · trivial
    · exact .ite trivial (hx.writeAcc fun _ hy => hy))

theorem execLamrg_canonical {a b : BitVec 8} (hs : s.Canonical) : NextCanonical (execLamrg h a b s) := by
  unfold execLamrg
  exact runWord_canonical hs (fun _ _ _ hx => by
    dsimp only
    split
    · trivial
    · exact onObject_canonical fun _ _ => onObject_canonical fun _ _ => hx.writeAcc fun _ hy => hy.orLaev)

/-! ### Poison -/

theorem State.Canonical.ueAddr {cause addr : Nat} (hs : s.Canonical) : (s.ueAddr cause addr).2.Canonical := by
  unfold State.ueAddr
  split
  · exact hs.drawn
  · exact hs

theorem State.Canonical.consume {cause addr pc op eop : Nat} (hs : s.Canonical) : (s.consume p cause addr pc op eop).Canonical := by
  unfold State.consume
  dsimp only
  split
  · exact .ite (.ite hs.ueAddr.mcLog.modCore.mcLog.killTractOf
      (.ite hs.ueAddr.mcLog.modCore.killTractOf
          (.ite hs.ueAddr.mcLog.modCore.mcLog.killTractOf hs.ueAddr.mcLog.modCore.rollback))) hs.ueAddr.mcLog.modCore.killTractOf
  · exact hs.ueAddr.mcLog.modCore.killTractOf

theorem State.Canonical.consumeWord {cause addr : Nat} (hs : s.Canonical) : (s.consumeWord p o cause addr).Canonical :=
  hs.stopCheck.consume

/-! ### Commands, continued -/

theorem cpyRun_canonical {full : Bool} : (cpyRun full).Canonical := by
  intro p slot m x hx
  dsimp only [cpyRun]
  split
  · exact .ite hx hx
  · split
    · exact .ite hx hx
    · exact hx
  · exact hx

theorem sigRun_canonical : sigRun.Canonical := by
  intro p slot m x hx
  dsimp only [sigRun]
  split
  · exact .ite hx hx
  · split
    · exact .ite hx hx
    · exact hx
  · exact hx

theorem cpysRun_canonical : cpysRun.Canonical := by
  intro p slot m x hx
  dsimp only [cpysRun]
  split
  · exact .ite hx hx
  · split
    · exact .ite hx hx
    · exact hx
  · exact hx

theorem cpygRun_canonical : cpygRun.Canonical := by
  intro p slot m x hx
  dsimp only [cpygRun]
  split
  · exact .ite hx hx
  · exact .ite hx hx
  · exact .ite hx hx
  · exact hx
  · exact hx

theorem cpymxRun_canonical : cpymxRun.Canonical := by
  intro p slot m x hx
  dsimp only [cpymxRun]
  split
  · exact .ite hx hx
  · split
    · exact .ite hx hx
    · exact hx
  · exact hx

/-! ### The matrix queue, continued -/

theorem State.Canonical.beginFill {m : Cmd} {r : Residency} {wfmt stage : Nat} {a b : Word} {table : List (BitVec 19)}
    (hs : s.Canonical) : (s.beginFill p m r wfmt a b table stage).Canonical := by
  refine into_canonical hs fun x => ?_
  split
  · exact hs
  · exact State.Canonical.modRes (State.Canonical.foldl hs fun _ _ hx => hx.walked)

theorem State.Canonical.wloadGo {m : Cmd} (hs : s.Canonical) : (wloadGo p m s).Canonical := by
  unfold Machine.wloadGo
  dsimp only
  split
  · exact hs
  split
  · exact .ite hs (.ite hs hs)
  · split
    · exact .ite hs hs.beginFill
    · exact hs
  · split
    · exact hs.endFill.get ‹_›
    · exact hs

theorem State.Canonical.storeResults {m : Cmd} (hs : s.Canonical) : (s.storeResults p m).Canonical := by
  unfold State.storeResults
  dsimp only
  refine .ite ?_ ?_
  · split
    · exact hs
    split
    · exact hs
    · exact .ite trivial (State.Canonical.cleanTile (State.Canonical.storeTile hs.pay))
  · split
    · exact hs
    · exact hs

theorem State.Canonical.takeA {m : Cmd} {r : Residency} {kp : Nat} (hs : s.Canonical) : (s.takeA p m r kp).Canonical :=
  into_canonical hs fun _ => .ite trivial hs.pay.modCore

theorem State.Canonical.badPlanes {m : Cmd} {r : Residency} {i stage : Nat} (hs : s.Canonical) : (s.badPlanes p m r i stage).Canonical :=
  .ite hs hs.beginFill

theorem State.Canonical.makePass {slot : Nat} {m : Cmd} {r : Residency} (hs : s.Canonical) : (s.makePass p slot m r).Canonical :=
  .ite (.ite trivial hs.badPlanes) (.ite hs (.ite trivial hs.pay.modCluster))

theorem State.Canonical.useRes {m : Cmd} {r : Residency} {kp : Nat} (hs : s.Canonical) : (s.useRes p m r kp).Canonical := by
  unfold State.useRes
  refine .ite trivial ?_
  split
  · exact hs
  · exact hs.beginFill
  · split
    · exact hs.badPlanes
    · exact hs.takeA

theorem State.Canonical.reloaded {m : Cmd} {r : Residency} {stage : Nat} (hs : s.Canonical) : (s.reloaded p m r stage).Canonical := by
  unfold State.reloaded
  split
  · exact hs
  · exact hs.endFill.get ‹_›

theorem State.Canonical.matrixGo {slot : Nat} {m : Cmd} (hs : s.Canonical) : (matrixGo p slot m s).Canonical := by
  unfold Machine.matrixGo
  dsimp only
  refine .ite hs (.ite hs.storeResults ?_)
  split
  · exact hs
  split
  · exact .ite hs (.ite hs hs)
  · refine .ite hs (.ite hs ?_)
    split
    · trivial
    · exact (State.Canonical.touchAll hs).get ‹_› |>.useRes
  · exact hs.reloaded
  · exact hs.reloaded
  · exact hs.takeA
  · exact hs.makePass

/-! ### Long accumulators and collective commands, continued -/

theorem collGo_canonical {e : Ecw} {fields listDst : Bool} {align entry : Nat} {f : List Word → Word → List Piece} {m : Cmd}
    (hs : s.Canonical) : (collGo e fields listDst align entry f m s).Canonical := by
  unfold collGo
  dsimp only
  split
  · exact .ite hs hs
  · exact .ite hs (.ite hs hs)
  · exact .ite hs hs
  · exact hs
  · exact hs

/-! ### The matrix queue, continued -/

theorem wloadRun_canonical : wloadRun.Canonical := fun _ _ _ _ hx => hx.wloadGo

theorem matrixRun_canonical : matrixRun.Canonical := fun _ _ _ _ hx => hx.matrixGo

/-! ### Long accumulators and collective commands, continued -/

theorem credRun_canonical : credRun.Canonical := by
  intro p slot m x hx
  dsimp only [credRun]
  exact collGo_canonical hx

theorem credxRun_canonical : credxRun.Canonical := by
  intro p slot m x hx
  dsimp only [credxRun]
  exact collGo_canonical hx

theorem collCopyRun_canonical {gather : Bool} : (collCopyRun gather).Canonical := by
  intro p slot m x hx
  dsimp only [collCopyRun]
  exact collGo_canonical hx

/-! ### Poison, continued -/

theorem runnerOf_canonical {eop : Nat} : (runnerOf eop).Canonical :=
  .ite cpyRun_canonical <| .ite cpysRun_canonical <| .ite cpygRun_canonical <| .ite cpyRun_canonical <| .ite cpymxRun_canonical <|
    .ite sigRun_canonical <| .ite wloadRun_canonical <| .ite credRun_canonical <| .ite credxRun_canonical <|
    .ite collCopyRun_canonical <| .ite collCopyRun_canonical matrixRun_canonical

theorem State.Canonical.cmdReads {slot cause addr : Nat} (hs : s.Canonical) :
    AllSome (·.2.Canonical) (s.cmdReads p slot cause addr) := by
  unfold State.cmdReads
  dsimp only
  split
  · exact .none
  refine .ite ?_ (.ite (.intro hs) .none)
  split
  · exact .ite (.intro ((runnerOf_canonical _ _ _ _ hs).getPoison ‹_›)) .none
  · exact .none

theorem execPoisonConsumption_canonical {core strand cause addr : Nat} (hs : s.Canonical) :
    NextCanonical (execPoisonConsumption core strand cause addr s) := by
  unfold execPoisonConsumption
  dsimp only
  split
  · exact .ite (.next hs.consumeWord) .fault
  · split
    case h_1 hb =>
      refine .next (AllSome.get (P := State.Canonical) ?_ hb)
      split
      · exact .ite (.intro hs.consume) (.ite (.intro hs.consume) (.ite (.intro hs.consume) .none))
      · exact .ite (.intro hs.consume) .none
    · exact .next (.consume (.stopCmd (hs.cmdReads.get ‹_›)))
    · exact .ite (.next hs.consume) .fault

/-! ### Special registers -/

theorem State.Canonical.coreRead (hs : s.Canonical) : (s.coreRead p k n).2.Canonical := by
  unfold State.coreRead
  dsimp only
  iterate 13 refine pair_ite_canonical hs ?_
  exact hs

theorem State.Canonical.dieRead {d off : Nat} (hs : s.Canonical) : (s.dieRead d off).2.Canonical := by
  unfold State.dieRead
  dsimp only
  refine pair_ite_canonical hs (pair_ite_canonical hs (pair_ite_canonical (pair_ite_canonical hs.coreRead hs) ?_))
  iterate 10 refine pair_ite_canonical hs ?_
  exact hs

theorem State.Canonical.dbgRead (hs : s.Canonical) : s.dbgRead.2.Canonical := by
  unfold State.dbgRead
  dsimp only
  split
  · exact hs
  split
  · exact hs
  · exact hs
  · split
    · exact hs.coreRead
    · exact hs
  · exact hs

theorem State.Canonical.devRead {off : Nat} (hs : s.Canonical) : (s.devRead off).2.Canonical := by
  unfold State.devRead
  dsimp only
  split
  · exact hs
  split
  · exact hs.dbgRead
  split
  · exact hs
  split
  · exact hs
  split
  · exact hs
  split
  · exact hs
  split
  · exact hs
  · split <;> exact hs

theorem State.Canonical.csrRead (hs : s.Canonical) : (s.csrRead p k n).2.Canonical := by
  unfold State.csrRead
  split
  · exact hs.coreRead
  split
  · exact hs.dieRead
  · exact hs.devRead

theorem State.Canonical.writeQuar {v : Word} (hs : s.Canonical) : (s.writeQuar p v).Canonical :=
  .ite hs.clearQuar.startTest hs.clearQuar

theorem State.Canonical.writeTcmecc {v : Word} (hs : s.Canonical) : (s.writeTcmecc p v).Canonical :=
  .ite hs.modCore.rebuildTcm hs.modCore.modCore

theorem State.Canonical.writeCspecc {v : Word} (hs : s.Canonical) : (s.writeCspecc n v).Canonical :=
  .ite hs.modCluster.rebuildCsp hs.modCluster.modCluster

theorem State.Canonical.coreWrite {v : Word} (hs : s.Canonical) : (s.coreWrite p n v).Canonical := by
  unfold State.coreWrite
  dsimp only
  refine .ite hs.modCore ?_
  refine .ite (.ite hs.modStrand hs) ?_
  refine .ite hs.modCore ?_
  refine .ite hs.modCore ?_
  refine .ite hs.modCluster ?_
  refine .ite hs.modCluster ?_
  split
  · exact .ite hs hs.modCore
  · exact hs.modCore
  · exact hs.modCore
  · exact hs.modCore
  · exact hs.modCore
  · exact hs.modCore
  · exact hs.modCore
  · exact hs.modCore
  · exact hs.modCore
  · exact hs.writeQuar
  · exact hs.writeTcmecc
  · exact hs.writeCspecc
  · exact hs.modCore
  · exact hs.modCore
  · exact hs.modCore
  · exact hs.modCore
  · exact hs.modCore
  · exact hs.modCore
  · exact hs.modCluster
  · exact hs.modCluster
  · exact hs

theorem State.Canonical.writeBmask {d w : Nat} {v : Word} {rel : Nat} (hs : s.Canonical) : (s.writeBmask d k w v rel).Canonical := by
  unfold State.writeBmask
  dsimp only
  split
  · exact hs.modDie
  split
  · exact hs
  · exact .ite hs.modDie.noteConfig hs.modInst.noteConfig

theorem State.Canonical.dieWrite {d off : Nat} {v : Word} (hs : s.Canonical) : (s.dieWrite d off v).Canonical := by
  unfold State.dieWrite
  dsimp only
  refine .ite hs ?_
  refine .ite hs.modDie ?_
  refine .ite hs.modDie ?_
  refine .ite hs.modDie ?_
  refine .ite hs.modDie ?_
  refine .ite hs.writeBmask ?_
  refine .ite hs.modDie ?_
  refine .ite hs.modDie ?_
  refine .ite hs.modDie ?_
  refine .ite hs.modDie ?_
  split
  · exact hs.modDie
  · exact hs.modDie
  · exact hs.modDie
  · exact hs.modDie
  · exact hs.modDie
  · exact hs.modDie
  · exact hs.modDie
  · exact hs

theorem State.Canonical.writeQcfg {v : Word} (hs : s.Canonical) : (s.writeQcfg n v).Canonical :=
  .ite hs hs.modQueue

theorem State.Canonical.writeQhead {v : Word} (hs : s.Canonical) : (s.writeQhead n v).Canonical :=
  .ite hs hs.modQueue

theorem State.Canonical.writeQtail {v : Word} (hs : s.Canonical) : AllSome State.Canonical (s.writeQtail n v) :=
  .ite (.ite .none (.intro hs.modDie)) (.intro hs.modQueue)

theorem State.Canonical.writeStrbase {fw : Bool} {v : Word} (hs : s.Canonical) : (s.writeStrbase fw v).Canonical :=
  .ite hs hs

theorem State.Canonical.dbgStop {ctx base : Nat} (hs : s.Canonical) : (s.dbgStop ctx base).Canonical := by
  unfold State.dbgStop
  dsimp only
  split
  · exact hs
  refine .ite hs ?_
  split
  · exact hs
  split
  · exact hs
  · exact .modInst hs

theorem State.Canonical.dbgCancel (hs : s.Canonical) : s.dbgCancel.Canonical := by
  unfold State.dbgCancel
  dsimp only
  split
  · exact .ite (.modInst hs) hs
  · exact hs

theorem State.Canonical.dbgGo {step : Bool} (hs : s.Canonical) : (s.dbgGo step).Canonical := by
  unfold State.dbgGo
  dsimp only
  split
  · exact .ite (.foldl (.modInst hs) (fun _ _ hx => .ite hx.startCore hx)) hs
  · exact hs

theorem State.Canonical.writeDbgctl {v : Word} (hs : s.Canonical) : (s.writeDbgctl v).Canonical := by
  unfold State.writeDbgctl
  dsimp only
  split
  · exact .dbgCancel hs
  · exact .dbgStop hs
  · exact .dbgGo hs
  · exact .dbgGo hs

theorem State.Canonical.dbgWrite {v : Word} (hs : s.Canonical) : (s.dbgWrite v).Canonical := by
  unfold State.dbgWrite
  dsimp only
  split
  · exact hs
  split
  · exact .ite hs.putWord hs
  · exact .ite hs.writeMem hs
  · exact .ite hs.coreWrite hs
  · exact hs

theorem State.Canonical.devWrite {fw : Bool} {off : Nat} {v : Word} (hs : s.Canonical) :
    AllSome State.Canonical (s.devWrite fw off v) := by
  unfold State.devWrite
  refine .ite (.intro hs) (.ite (.intro hs) (.ite (.intro hs.writeQcfg) (.ite (.intro hs.writeQhead) (.ite hs.writeQtail ?_))))
  split
  · exact .intro hs.writeStrbase
  · exact .intro (.of_mem hs rfl)
  · exact .intro hs.writeDbgctl
  · exact .intro (.of_mem hs rfl)
  · exact .intro hs.dbgWrite
  · exact .intro hs

theorem State.Canonical.csrWrite {v : Word} (hs : s.Canonical) : AllSome State.Canonical (s.csrWrite p n v) := by
  unfold State.csrWrite
  exact AllSome.ite (.intro hs.coreWrite) (AllSome.ite (.intro hs.dieWrite) hs.devWrite)

theorem execCsrr_canonical {d : BitVec 8} {csr : BitVec 16} (hs : s.Canonical) : NextCanonical (execCsrr h d csr s) := by
  unfold execCsrr
  exact runWord_canonical hs (fun _ _ _ hx => by
    dsimp only
    split
    · exact .done (.wS (hx.csrRead.twinValue.get ‹_›))
    · trivial)

theorem execCsrw_canonical {a : BitVec 8} {csr : BitVec 16} (hs : s.Canonical) : NextCanonical (execCsrw h a csr s) := by
  unfold execCsrw
  exact runWord_canonical hs (fun _ _ _ hx => by
    split
    · exact .done (hx.csrWrite.get ‹_›)
    · trivial)

theorem execCsrx_canonical {d a : BitVec 8} {csr : BitVec 16} (hs : s.Canonical) : NextCanonical (execCsrx h d a csr s) := by
  unfold execCsrx
  exact runWord_canonical hs (fun _ _ _ hx => by
    dsimp only
    split
    · have h1 := hx.csrRead.twinValue.get ‹_›
      split
      · exact .done (.wS (h1.csrWrite.get ‹_›))
      · trivial
    · trivial)

/-! ### System words -/

theorem systemWord_canonical {lv lat : Nat} {d : BitVec 8} {ops : List Opnd} {body : Nat → Nat → State → Option (Word × State)}
    (hs : s.Canonical) (hf : ∀ p k x, x.Canonical → AllSome (·.2.Canonical) (body p k x)) :
    NextCanonical (systemWord h lv lat d ops body s) := by
  unfold systemWord
  exact runWord_canonical hs (fun _ _ _ hx => by
    split
    · exact .done (.wS ((hf _ _ _ hx).get ‹_›))
    · trivial)

theorem State.Canonical.dropTlb {f : TlbEntry → Bool} (hs : s.Canonical) : (s.dropTlb f).Canonical :=
  hs

theorem tlbinvWord_canonical {lv : Nat} {a b : BitVec 8} {f : Nat → Word → Word → TlbEntry → Bool}
    (hs : s.Canonical) : NextCanonical (tlbinvWord h lv a b f s) := by
  unfold tlbinvWord
  exact runWord_canonical hs (fun _ _ _ hx => .ite trivial (.done hx.dropTlb))

theorem State.Canonical.putTcm {q : Nat} {i : SavedCore} (hs : s.Canonical) : (s.putTcm q i).Canonical :=
  wf_foldl _ (fun _ _ hm => wf_memSet _ _ hm) _ (wf_filter hs)

theorem State.Canonical.loadImage {part q : Nat} {i : SavedCore} (hs : s.Canonical) : (s.loadImage part q i).Canonical :=
  hs.renameTraffic.putTcm.setCore

theorem State.Canonical.takeImage {part : Nat} {i : SavedCore} (hs : s.Canonical) : (s.takeImage part i).Canonical :=
  hs.modPart

theorem State.Canonical.ctxLoad {q : Nat} (hs : s.Canonical) : (s.ctxLoad q).2.Canonical := by
  unfold State.ctxLoad
  dsimp only
  split
  · exact hs.modCore
  split
  · exact hs
  split
  · exact hs
  split
  · exact hs
  · exact hs.loadImage.takeImage

theorem execSkim_canonical {d a : BitVec 8} (hs : s.Canonical) : NextCanonical (execSkim h d a s) := by
  unfold execSkim
  exact systemWord_canonical hs (fun _ _ _ hx => by
    dsimp only
    refine .ite .none ?_
    refine .ite (.intro hx) ?_
    split
    · exact .intro hx
    · exact .intro hx.modDie)

theorem execAttest_canonical {d a b : BitVec 8} (hs : s.Canonical) : NextCanonical (execAttest h d a b s) := by
  unfold execAttest
  exact systemWord_canonical hs (fun _ _ _ hx => by
    dsimp only
    refine .ite .none ?_
    split
    · exact .intro hx
    split
    · exact .ite (.intro hx.drawn) (.intro hx.writeMem)
    · exact .intro hx.drawn)

theorem State.Canonical.outOfService (hs : s.Canonical) : (s.outOfService p).Canonical :=
  .ite hs.modCore.modCluster hs.modCore

theorem State.Canonical.quar {kind unit : Nat} (hs : s.Canonical) : (s.quar kind unit).2.Canonical := by
  unfold State.quar
  split
  · split
    · exact hs
    split
    · exact hs
    split
    · exact hs.quarCore.outOfService
    · exact hs.quarArray
    · exact hs.quarRouter
  split
  · exact hs
  split
  · exact hs
  split
  · exact hs.quarCore.outOfService
  · exact hs.quarArray
  · exact hs.quarRouter

theorem execMcread_canonical {d a : BitVec 8} (hs : s.Canonical) : NextCanonical (execMcread h d a s) := by
  unfold execMcread
  exact runWord_canonical hs fun _ _ _ hx => .done hx.wV

theorem execPswitch_canonical {d a b : BitVec 8} (hs : s.Canonical) : NextCanonical (execPswitch h d a b s) := by
  unfold execPswitch
  exact systemWord_canonical hs (fun _ _ _ hx => by
    dsimp only
    split
    · exact .intro hx.drawn
    · exact .ite (.intro hx) (.ite (.intro hx) (.intro hx.modPart)))

theorem State.Canonical.installFb {v : Word} (hs : s.Canonical) : (s.installFb p v).Canonical :=
  hs.modCore

/-! ### The owner -/

theorem State.Canonical.lapse (hs : s.Canonical) : s.lapse.Canonical := by
  unfold State.lapse
  split
  · exact .ite hs hs
  · exact hs

theorem State.Canonical.fixLink (hs : s.Canonical) : s.fixLink.Canonical :=
  .ite (.ite hs.lapse hs.lapse) hs.lapse

theorem State.Canonical.refuse (hs : s.Canonical) : s.refuse.Canonical :=
  hs

theorem State.Canonical.ownerWrite {m op succ : Nat} (hs : s.Canonical) : (s.ownerWrite m op succ).Canonical :=
  .ite (.fixLink hs.lapse) (.ite (.fixLink hs.lapse) (.ite hs.lapse hs.lapse.refuse))

theorem State.Canonical.asMaster {m : Nat} {f : Bool → State → Option State} (hs : s.Canonical)
    (hf : ∀ b x, x.Canonical → AllSome State.Canonical (f b x)) : NextCanonical (s.asMaster m f) := by
  unfold State.asMaster
  refine .ite ?_ ?_
  · refine .ite ?_ .fault
    split
    · exact .next ((hf _ _ hs).get ‹_›)
    · exact .fault
  · refine .ite .fault (.ite (.next hs.refuse) ?_)
    split
    · exact .next ((hf _ _ hs).get ‹_›)
    · exact .fault

theorem execOwnerLinkLoss_canonical (hs : s.Canonical) : NextCanonical (execOwnerLinkLoss s) := by
  unfold execOwnerLinkLoss
  split
  · exact .ite (.next hs.lapse) .fault
  · exact .fault

theorem State.Canonical.blockWrite {blk off : Nat} {v : Word} {fw : Bool}
    (hs : s.Canonical) : AllSome State.Canonical (s.blockWrite blk off v fw) :=
  .ite hs.devWrite (.ite .none (.ite (.intro hs) (.intro hs.dieWrite)))

theorem State.Canonical.replay {l : List (Nat × Nat)} (hs : s.Canonical) : (s.replay l).Canonical :=
  .foldl hs (fun _ _ hx => hx.modQueue)

theorem execDebugStop_canonical (hs : s.Canonical) : NextCanonical (execDebugStop s) := by
  unfold execDebugStop
  dsimp only
  split
  · exact .fault
  · exact .next (.modInst (.foldl hs.enterAll (fun _ _ hx => hx.modCore.stopCore)))

/-! ### Packets -/

theorem State.Canonical.feStore {x : FeLoc} {bs : List Byte} (hs : s.Canonical) : (s.feStore x bs).Canonical :=
  hs.writeMem

theorem State.Canonical.dropPacket (hs : s.Canonical) : (s.dropPacket n).Canonical :=
  hs.modQueue

theorem State.Canonical.endPacket {w : List Word} {status : Nat} (hs : s.Canonical) : (s.endPacket n w status).Canonical :=
  .dropPacket hs

theorem State.Canonical.feCopyStep {w : List Word} {m : Cmd} (hs : s.Canonical) : NextCanonical (s.feCopyStep n w m) := by
  unfold State.feCopyStep
  dsimp only
  split
  · exact .next hs.endPacket
  split
  · exact .fault
  split
  · exact .next hs.drawn.endPacket
  · exact .ite .fault (.ite (.next hs.drawn.endPacket) (.ite (.next hs.drawn.modQueue) (.next hs.drawn.feStore.cover.modQueue)))

theorem execCopy_canonical (hs : s.Canonical) : NextCanonical (execCopy n s) := by
  unfold execCopy
  dsimp only
  split
  · exact .fault
  split
  · exact hs.feCopyStep
  · exact .ite (.next hs.endPacket) (.next hs.modQueue)

theorem execSignal_canonical (hs : s.Canonical) : NextCanonical (execSignal n s) := by
  unfold execSignal
  dsimp only
  split
  · exact .fault
  refine .ite .fault ?_
  refine .ite (.next hs.endPacket) ?_
  split
  · exact .next hs.endPacket
  · exact .ite .fault (.next hs.feStore.endPacket)

theorem execWait_canonical (hs : s.Canonical) : NextCanonical (execWait n s) := by
  unfold execWait
  dsimp only
  split
  · exact .fault
  · exact .ite .fault (.ite (.next hs.endPacket) (.next hs.modQueue))

theorem execWaitPacketSatisfied_canonical (hs : s.Canonical) : NextCanonical (execWaitPacketSatisfied n s) := by
  unfold execWaitPacketSatisfied
  split
  · split
    · exact .next hs.endPacket
    · exact .ite .fault (.ite (.next hs.endPacket) (.ite .fault (.next hs.endPacket)))
  · exact .fault

theorem execWaitPacketExpiry_canonical (hs : s.Canonical) : NextCanonical (execWaitPacketExpiry n s) := by
  unfold execWaitPacketExpiry
  split
  · refine .ite .fault ?_
    split
    · exact .next hs.endPacket
    · exact .ite .fault (.next hs.endPacket)
  · exact .fault

theorem State.Canonical.loadKeys {ctx : Nat} (hs : s.Canonical) : (s.loadKeys ctx k).Canonical :=
  .foldl hs (fun _ _ hx => hx.modDie)

theorem State.Canonical.create {w : List Word} {part : Nat} {pcids : List Nat} (hs : s.Canonical) : (s.create w part pcids).Canonical := by
  unfold State.create
  dsimp only
  split
  · split
    · exact .foldl hs.loadKeys (fun _ _ hx => hx.modCore)
    · exact .foldl hs (fun _ _ hx => hx.modCore)
  split
  · exact .foldl hs.loadKeys (fun _ _ hx => hx.modCore)
  · exact .foldl hs (fun _ _ hx => hx.modCore)

theorem execContextCreate_canonical {part : Nat} {pcids : List Nat}
    (hs : s.Canonical) : NextCanonical (execContextCreate n part pcids s) := by
  unfold execContextCreate
  split
  · exact .fault
  · exact .ite .fault (.ite (.next hs.endPacket) (.ite .fault (.next hs.create.endPacket)))

theorem State.Canonical.destroy {ctx part : Nat} (hs : s.Canonical) : (s.destroy ctx part).Canonical :=
  hs

theorem execContextDestroy_canonical (hs : s.Canonical) : NextCanonical (execContextDestroy n s) := by
  unfold execContextDestroy
  split
  · exact .fault
  refine .ite .fault ?_
  split
  · exact .next hs.endPacket
  · exact .ite (.next hs.destroy.endPacket) (.next hs.endPacket)

theorem execMigrate_canonical {target : Nat} (hs : s.Canonical) : NextCanonical (execMigrate n target s) := by
  unfold execMigrate
  dsimp only
  split
  · exact .fault
  split
  · exact .next hs.endPacket
  refine .ite (.next hs.endPacket) ?_
  refine .ite ?_ (.ite (.next hs.endPacket) (.next hs.request.dropPacket))
  split
  · exact .next hs.migDrop.endPacket
  · exact .ite (.next hs.request.dropPacket) .fault

theorem State.Canonical.pump {id : Nat} (hs : s.Canonical) : (s.pump id).Canonical := by
  unfold State.pump
  dsimp only
  split
  · exact hs
  refine .ite hs ?_
  split
  · exact hs.modTract
  split
  · exact .ite hs (.ite hs hs.modTract)
  · exact .ite hs hs

theorem State.Canonical.tearDown {ctx : Nat} (hs : s.Canonical) : (s.tearDown ctx).Canonical :=
  .foldl hs (fun _ _ hx => hx.killTract.pump)

theorem State.Canonical.jobWords {ctx d : Nat} (hs : s.Canonical) : (s.jobWords ctx d).2.Canonical :=
  hs

theorem State.Canonical.prepare {ctx : Nat} {ws : List Word} {x : State} {d : Nat} (hx : x.Canonical) :
    (s.prepare ctx ws x d).Canonical := by
  unfold State.prepare
  dsimp only
  exact .ite hx.jobWords.writeMem.writeMem.modDie hx.jobWords.writeMem.writeMem.modDie.writeMem

theorem execTeardown_canonical (hs : s.Canonical) : NextCanonical (execTeardown n s) := by
  unfold execTeardown
  dsimp only
  split
  · exact .fault
  · exact .next (.dropPacket (.foldl hs.tearDown (fun _ _ hx => hx.prepare)))

/-! ### The service of packets -/

theorem State.Canonical.serve {level : Nat} (hs : s.Canonical) : (s.serve n level).Canonical :=
  hs

theorem execPacketFetch_canonical (hs : s.Canonical) : NextCanonical (execPacketFetch n s) := by
  unfold execPacketFetch
  dsimp only
  refine .ite .fault ?_
  split
  · exact .next hs.modQueue
  · exact .ite (.ite .fault (.next hs.modQueue)) (.next (.ite hs.serve.modQueue hs.serve.modQueue.endPacket))

theorem execQueueFetchTimeout_canonical (hs : s.Canonical) : NextCanonical (execQueueFetchTimeout n s) := by
  unfold execQueueFetchTimeout
  dsimp only
  split
  · exact .ite (.next hs.modQueue) .fault
  · exact .fault

theorem queueFetchOwed_canonical (hs : s.Canonical) : NextCanonical (queueFetchOwed n s) := by
  unfold queueFetchOwed
  exact .ite (execQueueFetchTimeout_canonical hs) .fault

/-! ### Launches, placement and completion -/

theorem execLaunch_canonical (hs : s.Canonical) : NextCanonical (execLaunch n s) := by
  unfold execLaunch
  dsimp only
  split
  · exact .fault
  split
  · exact .next hs.endPacket
  split
  · exact .next hs.endPacket
  refine .ite (.next hs.endPacket) ?_
  split
  · exact .next hs.endPacket
  · exact .ite .fault (.next (.dropPacket (.modCtx hs)))

theorem State.Canonical.placeBytes {a : Nat} {bs : List Byte} (hs : s.Canonical) : (s.placeBytes a bs).Canonical :=
  .foldl hs.store.cleanse (fun _ _ hx => hx.setFull)

theorem State.Canonical.placeLists {data : List (Nat × List Byte)} (hs : s.Canonical) : (s.placeLists p data).Canonical :=
  .foldl hs (fun _ _ hx => hx.placeBytes)

theorem State.Canonical.startFreq {clu : Nat} (hs : s.Canonical) : (s.startFreq clu).Canonical :=
  hs.modCluster

theorem State.Canonical.placeCore {t : Tract} {x : DevCtx} {pl : Place} (hs : s.Canonical) : (s.placeCore t x p pl).Canonical :=
  .placeLists (.modCore (.ite hs hs.startFreq))

theorem State.Canonical.mapParts {f : Partition → Partition} (hs : s.Canonical) : (s.mapParts f).Canonical :=
  hs

theorem State.Canonical.placeAll {t : Tract} {x : DevCtx} {i : Instance} {m : Option (List (Nat × Nat))}
    (hs : s.Canonical) : (s.placeAll t x n i m).Canonical :=
  .foldl hs (fun _ _ hx => by
    dsimp only
    split
    · exact hx.placeCore
    · exact hx.placeCore.placeCore)

theorem State.Canonical.place {id : Nat} {t : Tract} {x : DevCtx} {i : Instance} {ranges : List (Nat × Nat × Nat)}
    {m : Option (List (Nat × Nat))} (hs : s.Canonical) : (s.place id t x i ranges m).Canonical := by
  unfold State.place
  dsimp only
  refine .ite (.takeDatum (.placeAll (.takeAllHw ?_))) (.placeAll (.takeAllHw ?_))
  all_goals
    split
    · exact .modTract hs
    · exact .mapParts (.modTract hs)

theorem State.Canonical.armVictim {v : Nat} (hs : s.Canonical) : (s.armVictim v).Canonical :=
  hs.modPart

theorem execInstancePlacement_canonical {tract base : Nat} (hs : s.Canonical) : NextCanonical (execInstancePlacement tract base s) := by
  unfold execInstancePlacement
  dsimp only
  split
  · exact .fault
  split
  · refine .ite .fault ?_
    refine .ite ?_ ?_
    · split
      · exact .fault
      refine .ite (.ite .fault (.next hs.modTract)) ?_
      refine .ite ?_ (.next hs.place)
      split
      · exact .fault
      · exact .next (.place hs)
    · refine .ite .fault ?_
      split
      · exact .ite .fault (.next (.foldl hs (fun _ _ hx => hx.armVictim)))
      · exact .fault
  · exact .fault

theorem State.Canonical.freeUnits (hs : s.Canonical) : (s.freeUnits n p).Canonical :=
  .foldl hs.modCluster (fun _ _ hx => hx.revoke)

theorem State.Canonical.releaseCore {normal : Bool} (hs : s.Canonical) : (s.releaseCore n p normal).Canonical :=
  .modCore (.modCore (.endMigrate (.freeUnits (.ite hs.releaseAll hs))))

theorem State.Canonical.revokeSaved {part : Nat} (hs : s.Canonical) : (s.revokeSaved n part).Canonical := by
  unfold State.revokeSaved
  split
  · exact hs
  · exact .foldl hs (fun _ _ hx => hx.modCluster)

theorem State.Canonical.forget {part : Nat} {ps : List Nat} (hs : s.Canonical) : (s.forget n part ps).Canonical :=
  hs.revokeSaved.mapParts.modPart

theorem execInstanceCompletion_canonical {iid : Nat} (hs : s.Canonical) : NextCanonical (execInstanceCompletion iid s) := by
  unfold execInstanceCompletion
  dsimp only
  split
  · exact .fault
  · exact .ite .fault (.next (.pump (.modTract (.forget (.foldl hs (fun _ _ hx => hx.releaseCore))))))

theorem State.Canonical.recordDone {r : Record} (hs : s.Canonical) : (s.recordDone r).Canonical := by
  unfold State.recordDone
  dsimp only
  refine .ite ?_ ?_
  · split
    · split
      · exact .raiseMsix hs
      · exact hs
    refine .ite ?_ ?_
    · split
      · exact .pump (.modTract (.raiseMsix hs))
      · exact .pump (.modTract hs)
    · split
      · exact .raiseMsix hs
      · exact hs
  · split
    · split
      · exact .modQueue (.raiseMsix hs)
      · exact hs
    split
    · split
      · exact .modQueue (.pump (.modTract (.raiseMsix hs)))
      · exact .modQueue (.pump (.modTract hs))
    split
    · exact .modQueue (.raiseMsix hs)
    · exact hs

theorem State.Canonical.recordFault {r : Record} (hs : s.Canonical) : (s.recordFault r).Canonical :=
  hs

theorem State.Canonical.finishTeardown (hs : s.Canonical) : s.finishTeardown.Canonical :=
  .foldl (.foldl hs (fun _ _ hx => by
    split
    · exact hx.setFull
    · exact hx)) (fun _ _ hx => hx.writeMem.writeMem.modDie)

theorem State.Canonical.teardownRecord {r : Record} (hs : s.Canonical) : NextCanonical (s.teardownRecord r) := by
  unfold State.teardownRecord
  have h1 : (s.writeMem 8192 r.cring.toNat ({ r with tick := s.now }.bytes 0) true none).Canonical := hs.writeMem
  exact NextCanonical.ite (.next hs.recordDone)
      (NextCanonical.ite .fault (NextCanonical.ite (.next hs.finishTeardown.recordDone) (.next h1)))

theorem execCompletionRecord_canonical (hs : s.Canonical) : NextCanonical (execCompletionRecord k s) := by
  unfold execCompletionRecord
  dsimp only
  split
  · exact .fault
  · refine NextCanonical.ite hs.teardownRecord (NextCanonical.ite .fault ?_)
    split
    · exact NextCanonical.ite .fault (NextCanonical.ite .fault (.next (.recordDone hs.feStore)))
    · exact .next hs.recordFault

theorem State.Canonical.refill {pc w : Word} (hs : s.Canonical) : (s.refill p pc w).Canonical :=
  .ite hs.modCore hs.drawn.modCore

theorem execInstructionRefill_canonical {core strand : Nat} (hs : s.Canonical) : NextCanonical (execInstructionRefill core strand s) := by
  unfold execInstructionRefill
  dsimp only
  refine .ite .fault ?_
  split
  · exact .next hs.refill
  · exact .fault

/-! ### Gang switches -/

theorem State.Canonical.saveCore {part : Nat} (hs : s.Canonical) : (s.saveCore part p).Canonical := by
  unfold State.saveCore
  dsimp only
  split
  · exact hs
  · exact .modCore (.modPart (.ite hs hs.writeSlot))

theorem State.Canonical.saveResidencies {part : Nat} (hs : s.Canonical) : (s.saveResidencies part).Canonical :=
  hs.modPart

theorem State.Canonical.looseTiles {part : Nat} {ps : List Nat} (hs : s.Canonical) : (s.looseTiles part ps).Canonical :=
  hs

theorem State.Canonical.holdClosures {part : Nat} {ps : List Nat} (hs : s.Canonical) : (s.holdClosures part ps).Canonical :=
  hs.modPart

theorem State.Canonical.payFree {part : Nat} (hs : s.Canonical) : (s.payFree part k).Canonical :=
  hs

theorem State.Canonical.savePart {part t : Nat} (hs : s.Canonical) : (s.savePart part t).Canonical :=
  .modPart (.payFree (.foldl hs.holdClosures.looseTiles.saveResidencies (fun _ _ hx => hx.saveCore)))

theorem execGangSwitch_canonical {part : Nat} (hs : s.Canonical) : NextCanonical (execGangSwitch part s) := by
  unfold execGangSwitch
  dsimp only
  split
  · exact .fault
  split
  · exact .fault
  · exact .ite .fault (.ite (.next (.foldl hs (fun _ _ hx => hx.stopCore))) (.ite (.next hs.savePart) .fault))

theorem State.Canonical.restoreAll {part : Nat} {l : List SavedCore} (hs : s.Canonical) :
    AllSome State.Canonical (s.restoreAll part l) := by
  induction l generalizing s with
  | nil => exact .intro hs
  | cons i r ih =>
    unfold State.restoreAll
    dsimp only
    split
    · exact .none
    split
    · exact .none
    · exact ih (State.Canonical.ite hs.drawn.loadImage.takeImage hs.drawn.loadImage.takeImage.modPart)

theorem State.Canonical.claimTiles {pt : Partition} (hs : s.Canonical) : (s.claimTiles pt).Canonical :=
  hs

theorem State.Canonical.putResidencies {l : List (Nat × Residency)} (hs : s.Canonical) : (s.putResidencies l).Canonical :=
  .foldl hs (fun _ _ hx => hx.modCluster)

theorem State.Canonical.goOn (hs : s.Canonical) : (s.goOn p).Canonical := by
  unfold State.goOn
  split
  · exact .ite hs.modCore hs.startCore
  · exact hs.startCore

theorem State.Canonical.resumeAll {part : Nat} {pt : Partition} (hs : s.Canonical) : (s.resumeAll part pt).Canonical := by
  unfold State.resumeAll
  dsimp only
  split
  · exact .foldl (.claimTiles
      (.payFree (.modPart (.putResidencies
          (.foldl (.foldl (.foldl hs (fun _ _ hx => hx.startFreq)) (fun _ _ hx => hx.modInst)) (fun _ _ hx => hx.takeAllHw))))))
              (fun _ _ hx => hx.goOn)
  · exact .foldl (.payFree
      (.modPart (.putResidencies
          (.foldl (.foldl (.foldl hs (fun _ _ hx => hx.startFreq)) (fun _ _ hx => hx.modInst)) (fun _ _ hx => hx.takeAllHw)))))
              (fun _ _ hx => hx.goOn)

theorem execPartitionResume_canonical {part : Nat} (hs : s.Canonical) : NextCanonical (execPartitionResume part s) := by
  unfold execPartitionResume
  split
  · exact .fault
  split
  · exact .fault
  refine .ite .fault ?_
  refine .ite (.next hs.drawn.tearDown.modPart) ?_
  split
  · exact .fault
  · exact .ite (.next (.resumeAll (hs.drawn.restoreAll.get ‹_›))) .fault

theorem execAsyncTrapEntry_canonical {core : Nat} (hs : s.Canonical) : NextCanonical (execAsyncTrapEntry core s) := by
  unfold execAsyncTrapEntry
  dsimp only
  refine .ite .fault ?_
  split
  · exact .fault
  · exact .next (.foldl hs.modCore (fun _ _ hx => hx.modCore.enterSup))

/-! ### Power and heat -/

theorem State.Canonical.offer {x : State} (hx : x.Canonical) : (s.offer x p).Canonical := by
  unfold State.offer
  dsimp only
  exact .ite hx (.foldl hx.modCore fun _ _ hy => hy.modCore)

theorem State.Canonical.grant (hs : s.Canonical) : (s.grant p).Canonical :=
  hs.modCore

theorem State.Canonical.setFreqs (hs : s.Canonical) : s.setFreqs.Canonical :=
  .foldl hs (fun _ _ hx => hx.modCluster)

theorem addTokens_canonical {x : State × List (Nat × Nat)} (hx : x.1.Canonical) : (State.addTokens x p).1.Canonical :=
  hx.modCore

theorem execTokenAdd_canonical (hs : s.Canonical) : NextCanonical (execTokenAdd s) := by
  unfold execTokenAdd
  dsimp only
  split
  · exact .fault
  · exact .ite .fault (.next (.foldl (foldl_fst_canonical hs fun _ _ hx => addTokens_canonical hx) fun _ _ hx => hx.modCore))

theorem State.Canonical.warn (hs : s.Canonical) : (s.warn p).Canonical := by
  unfold State.warn
  dsimp only
  refine .ite hs ?_
  split
  · exact hs.request
  · exact hs.migDrop

theorem State.Canonical.armCluster {clu : Nat} (hs : s.Canonical) : (s.armCluster clu).Canonical :=
  hs

theorem State.Canonical.cutTract {t : Nat} (hs : s.Canonical) : (s.cutTract t).Canonical :=
  hs.killTract.modTract.pump

theorem State.Canonical.blackout (hs : s.Canonical) : s.blackout.Canonical :=
  hs

/-! ### Boot, resets and ports -/

theorem execSkimUnit_canonical {die : Nat} (hs : s.Canonical) : NextCanonical (execSkimUnit die s) := by
  unfold execSkimUnit
  dsimp only
  refine .ite .fault ?_
  split
  · exact .fault
  · exact .next hs.wipe

theorem State.Canonical.applyBoot {t : BootTable} (hs : s.Canonical) : (s.applyBoot t).Canonical :=
  .foldl hs (fun _ _ hx => hx.modDie)

theorem State.Canonical.measureFirmware {t : BootTable} (hs : s.Canonical) : (s.measureFirmware t).Canonical :=
  hs

theorem State.Canonical.trainAll (hs : s.Canonical) : s.trainAll.Canonical :=
  hs

theorem State.Canonical.reenter (hs : s.Canonical) : s.reenter.Canonical :=
  .foldl hs (fun _ _ hx => .ite hx.modDie hx)

theorem State.Canonical.boot {t : BootTable} {train : Bool} (hs : s.Canonical) : (s.boot t train).Canonical :=
  .ite (.trainAll (.ite (.reenter (.measureFirmware (.ite hs (.applyBoot hs)))) (.ite hs (.applyBoot hs))))
      (.ite (.reenter (.measureFirmware (.ite hs (.applyBoot hs)))) (.ite hs (.applyBoot hs)))

theorem execPowerOnReset_canonical {tbl : BootTable} (hs : s.Canonical) : NextCanonical (execPowerOnReset tbl s) :=
  .next (.boot (wf_filter hs))

theorem State.Canonical.warm {kind owner : Nat} (hs : s.Canonical) : (s.warm kind owner).Canonical :=
  hs

theorem State.Canonical.burstWord {l : Nat} (hs : s.Canonical) : (s.burstWord l).Canonical :=
  .ite hs hs

theorem State.Canonical.outsideWrite {l : Nat} {data : Word} {bytes : BitVec 8}
    (hs : s.Canonical) : (s.outsideWrite l data bytes).Canonical :=
  .ite hs.writeMem.burstWord (.foldl hs (fun _ _ hx => hx.writeMem))

theorem State.Canonical.answerHost {l : Nat} (hs : s.Canonical) : (s.answerHost l).Canonical :=
  hs

theorem State.Canonical.setPort {j : Nat} {x : Port} (hs : s.Canonical) : (s.setPort j x).Canonical :=
  .fixLink hs

theorem execBrirusTraining_canonical {port : Nat} {ok : Bool} {rate peer : Nat}
    (hs : s.Canonical) : NextCanonical (execBrirusTraining port ok rate peer s) := by
  unfold execBrirusTraining
  dsimp only
  refine .ite .fault ?_
  split
  · exact .next hs.setPort
  · exact .ite .fault (.ite (.next hs) (.next hs.setPort))
  · exact .fault

theorem State.Canonical.peerAccess {f : Flit} (hs : s.Canonical) : (s.peerAccess f).1.Canonical := by
  unfold State.peerAccess
  split
  · split
    · exact hs.modDie
    split
    · exact hs
    split
    · exact hs.outsideWrite
    · exact hs
  · exact hs

theorem execBrirusFlit_canonical {port : Nat} {flit : Flit} (hs : s.Canonical) : NextCanonical (execBrirusFlit port flit s) := by
  unfold execBrirusFlit
  dsimp only
  refine .ite .fault ?_
  split
  · exact .next hs
  · exact .ite (.next hs.setPort) (.ite (.next hs.setPort) (.ite .fault (.next hs.peerAccess.setPort)))
  · exact .fault

/-! ### Power and heat, continued -/

theorem execBallastPass_canonical {clu part : Nat} (hs : s.Canonical) : NextCanonical (execBallastPass clu part s) := by
  unfold execBallastPass
  exact .ite .fault (.next hs)

theorem execFieldBookStateChange_canonical {core : Nat} (hs : s.Canonical) : NextCanonical (execFieldBookStateChange core s) := by
  unfold execFieldBookStateChange
  exact .ite .fault (.next hs.modCore.fbRecord)

theorem execPcSample_canonical {core : Nat} (hs : s.Canonical) : NextCanonical (execPcSample core s) := by
  unfold execPcSample
  exact .ite .fault (.next hs.modCore.fbRecord)

theorem execThermalSample_canonical {core : Nat} {temp : BitVec 16} (hs : s.Canonical) : NextCanonical (execThermalSample core temp s) := by
  unfold execThermalSample
  exact .ite .fault (.next
      (.ite (.armCluster (.ite (.modCluster (.ite hs.modCore.modCore.warn hs.modCore)) (.ite hs.modCore.modCore.warn hs.modCore)))
          (.ite (.modCluster (.ite hs.modCore.modCore.warn hs.modCore)) (.ite hs.modCore.modCore.warn hs.modCore))))

/-! ### Boot, resets and ports, continued -/

theorem execTrainingTimeout_canonical {port : Nat} (hs : s.Canonical) : NextCanonical (execTrainingTimeout port s) := by
  unfold execTrainingTimeout
  exact .ite .fault (.next hs.setPort)

/-! ### Long accumulators and collective commands, continued -/

theorem execLaflgClr_canonical {d a : BitVec 8} (hs : s.Canonical) : NextCanonical (execLaflgClr h d a s) := by
  unfold execLaflgClr
  refine runWord_canonical hs fun p k x hx => onObject_canonical fun l _ => ?_
  have h1 : (x.readAccWords p 1 id).Canonical := hx.readAccWords fun _ hy => hy
  dsimp only
  split
  · have h2 := (h1.get ‹_›).issueOps (p := p) (k := k) (l := [{ x.newOp p k .acc (x.rS p k 1 a) 0 with data := 0 }])
    split
    · exact .done (h2.get ‹_›).wS
    · exact h2
  · exact h1

/-! ### Power and heat, continued -/

theorem execTokenPassing_canonical (hs : s.Canonical) : NextCanonical (execTokenPassing s) := by
  unfold execTokenPassing
  exact .ite .fault (.next (.withPassed (.foldl (.foldl hs.setFreqs fun _ _ hx => hx.offer) fun _ _ hx => hx.grant)))

theorem execT4Trip_canonical {die : Nat} (hs : s.Canonical) : NextCanonical (execT4Trip die s) := by
  unfold execT4Trip
  dsimp only
  have h1 := State.Canonical.foldl (l := (s.tracts.map (·.1)).filter (s.usesDie die)) hs fun x t (hx : x.Canonical) => hx.cutTract (t := t)
  have h2 := (h1.modDie (n := die) (f := fun d => { d with powered := false, t4 := true })).blackout
  exact .ite .fault (.next (h2.of_mem rfl))

/-! ### Boot, resets and ports, continued -/

theorem execFunctionLevelReset_canonical {tbl : BootTable} (hs : s.Canonical) : NextCanonical (execFunctionLevelReset tbl s) := by
  unfold execFunctionLevelReset
  dsimp only
  refine .ite .fault (.next (.boot (.ite ?_ ?_)))
  · exact .of_mem (hs.warm (kind := 2) (owner := 0)) rfl
  · exact .of_mem (hs.warm (kind := 2) (owner := 0)) rfl

/-! ### Every instruction and event -/

theorem exec_canonical {i : Instr} (hs : s.Canonical) : NextCanonical (exec i s) := by
  cases i with dsimp only [exec, execFmin, execFmax, execFsqrt, execFclass, execFcvti, execVmulh, execVsra, execVmin, execVmax, execVadds,
    execVsubs, execVcmp, execVfcmp]
  | nop => exact runWord_canonical hs (fun _ _ _ hx => .done hx)
  | tgt | tgts => exact runWord_canonical hs (fun _ _ _ hx => .done hx.wT)
  | lnk => exact runWord_canonical hs (fun _ _ _ hx => .done hx.writeDest)
  | loop => exact runWord_canonical hs (fun _ _ _ hx => .done hx.putHbits.putPred)
  | loopSet => exact runWord_canonical hs (fun _ _ _ hx => .done hx.putHbits)
  | repb => exact runWord_canonical hs (fun _ _ _ hx => .jump hx.putHmask.modStrand.goto)
  | start => exact runWord_canonical hs (fun _ _ _ hx => .ite trivial (.ite trivial (.done hx.modStrand)))
  | join | sleep | recv | waitseq => exact runWord_canonical hs (fun _ _ _ hx => hx.startWait)
  | hkill => exact runWord_canonical hs (fun _ _ _ hx => .done (.foldl hx (fun _ _ hy => hy.killHelper)))
  | ids | wrd | sel | li | lih | bfi | ffma | lcid => exact runWord_canonical hs (fun _ _ _ hx => .done hx.wS)
  | clk => exact execClk_canonical hs
  | mark => exact runWord_canonical hs (fun _ _ _ hx => .done (.ite hx.fbRecord hx))
  | win | wins => exact runWord_canonical hs (fun _ _ _ hx => .ite trivial (.ite trivial (.done hx.setWindow)))
  | wswap =>
    exact runWord_canonical hs
        (fun _ _ _ hx => .ite trivial (.ite trivial (.ite trivial (.jump (.goto (.setWindow (.ite hx.writeDest.putHbits hx.writeDest)))))))
  | wdrain => exact runWord_canonical hs (fun _ _ _ hx => .ite trivial hx.startWait)
  | tdel => exact runWord_canonical hs (fun _ _ _ hx => .ite trivial (.done hx.putHmask.wS))
  | tret => exact runWord_canonical hs (fun _ _ _ hx => .ite (.jump hx.leaveSup) (.jump hx.leaveHandler))
  | env => exact runWord_canonical hs (fun _ _ _ hx => .ite trivial (.done hx.modStrand))
  | snagw => exact execSnagw_canonical hs
  | snagx => exact execSnagx_canonical hs
  | add | sub | mul | mulh | mulhu | div | divu | rem | remu | and | or | xor | andn | shl | shr | sra | rot | min | max | minu
  | maxu | scmps | agen | fmin | fmax => exact scalar2_canonical hs
  | addi | clz | ctz | popc | bfx | sext | zext | mov | fsqrt | fclass | fcvt | fcvti => exact scalar1_canonical hs
  | scmp | fcmp => exact runWord_canonical hs (fun _ _ _ hx => .done hx.wQ)
  | fadd | fsub | fmul | fdiv => exact fscalar2_canonical hs
  | vadd | vsub | vmul | vmulh | vand | vor | vxor | vshl | vshr | vsra | vmin | vmax | vadds | vsubs | vfmin | vfmax =>
      exact vec2_canonical hs
  | vmad | vdot4 => exact vec3_canonical hs
  | vabs | vpopc | vclz | vmov | vfclass | vfcvt => exact vec1_canonical hs
  | vcmp | vfcmp => exact vecCmp_canonical hs
  | vsel | vins => exact runWord_canonical hs (fun _ _ _ hx => .done hx.wV)
  | vfadd | vfsub | vfmul | vfdiv => exact vfp2_canonical hs
  | vfma | vfms | vfnma => exact vfp3_canonical hs
  | vfsqrt | vfrec | vfrsq | vfexp2 | vflog2 => exact vfp1_canonical hs
  | vfnarrow | dtenc => exact runWord_canonical hs (fun _ _ _ hx => hx.narrow)
  | vfwiden | vperm | vcomp | vxpnd | vsplat | dtrd | dtdec | mxdq => exact runWord_canonical hs (fun _ _ _ hx => .done hx.putLanes)
  | vfred | vfamax | vext | gbcast | glane => exact runWord_canonical hs (fun _ _ _ hx => .done hx.putScalar)
  | vrot | vbfly | vbcst => exact laneMove_canonical hs
  | qand | qor | qxor | qnot => exact predOp_canonical hs
  | qpop | qfirst | qmovX => exact predRead_canonical hs
  | qmov | gany | gall => exact runWord_canonical hs (fun _ _ _ hx => .done hx.putQ)
  | dtld => exact execDtld_canonical hs
  | mxq => exact execMxq_canonical hs
  | mxqMem => exact execMxqMem_canonical hs
  | ufcnt => exact runWord_canonical hs (fun _ _ _ hx => .ite (.done hx.wS.modCore) (.done hx))
  | scsel => exact execScsel_canonical hs
  | ld | st | ldvx | stf | feclr | acas => exact runWord_canonical hs (fun _ _ _ hx => hx.issueAligned)
  | ldv | stv => exact runWord_canonical hs (fun _ _ _ hx => hx.issueRow)
  | stvx => exact execStvx_canonical hs
  | lds => exact execLds_canonical hs
  | ferd => exact runWord_canonical hs (fun _ _ _ hx => .ite trivial hx.issueOps)
  | aadd | aand | aor | axor | amin | amax | aminu | amaxu | axchg | afadd => exact atomicWord_canonical hs
  | radd | rand | rior | rxor | rmin | rmax | rfadd => exact reductionWord_canonical hs
  | fence => exact runWord_canonical hs (fun _ _ _ hx => hx.modCore.startWait)
  | barr => exact statusWord_canonical hs (fun _ _ _ hx => hx.barr)
  | bwait => exact execBwait_canonical hs
  | bwd => exact statusWord_canonical hs (fun _ _ _ hx => hx.bwd)
  | bstat | qstat => exact twinRead_canonical hs
  | send => exact execSend_canonical hs
  | xplan | halt => exact runWord_canonical hs (fun _ _ _ hx => .done hx.modCore)
  | sstep => exact execSstep_canonical hs
  | bcfg => exact execBcfg_canonical hs
  | append => exact execAppend_canonical hs
  | chain => exact execChain_canonical hs
  | chainUnbind => exact execChainUnbind_canonical hs
  | seqrd => exact execSeqrd_canonical hs
  | claim => exact execClaim_canonical hs
  | rels => exact execRels_canonical hs
  | tshape => exact runWord_canonical hs (fun _ _ _ hx => onTile_canonical hx (fun _ _ hy => .ite trivial (.done hy.setTile)))
  | trow => exact execTrow_canonical hs
  | tcol =>
    exact runWord_canonical hs
        (fun _ _ _ hx => onTile_canonical hx (fun _ _ hy => .ite trivial (.ite trivial (hy.payOr (fun _ hy => .done hy.wV)))))
  | twrow => exact execTwrow_canonical hs
  | twcol =>
    exact runWord_canonical hs
        (fun _ _ _ hx => onTile_canonical hx
            (fun _ _ hy => .ite trivial (hy.payOr (fun _ hy => .done (.foldl hy (fun _ _ hy => .ite hy.putElem hy))))))
  | wralloc => exact runWord_canonical hs (fun _ _ _ hx => .ite (.done hx.writeDest.writeDest) (.done hx.modCluster.writeDest.writeDest))
  | wrpin | wrunpin => exact onRes_canonical hs (fun _ _ _ hx => .done hx.modRes)
  | wrrevoke => exact onRes_canonical hs (fun _ _ _ hx => .ite trivial (.done hx.revoke))
  | wrquery => exact execWrquery_canonical hs
  | laclr => exact execLaclr_canonical hs
  | laadd | ladot => exact runWord_canonical hs (fun _ _ _ hx => hx.addTo)
  | larnd | laflg => exact runWord_canonical hs fun _ _ _ hx => onObject_canonical fun _ _ => hx.readAccWords fun _ hy => hy.wS
  | lamrg => exact execLamrg_canonical hs
  | laflgClr => exact execLaflgClr_canonical hs
  | fuse => exact execFuse_canonical hs
  | split => exact runWord_canonical hs (fun _ _ _ hx => .jump hx.goto.modCore)
  | migpt =>
    exact runWord_canonical hs
        (fun _ _ _ hx => .ite (.done hx.wS) (.ite (.done hx.wS) (.ite (.done hx.atBoundary.wS) (.done hx.atBoundary.wS))))
  | csrr => exact execCsrr_canonical hs
  | csrw => exact execCsrw_canonical hs
  | csrx => exact execCsrx_canonical hs
  | tlbinv | tlbinvAll | tlbinvAllP => exact tlbinvWord_canonical hs
  | keyz => exact systemWord_canonical hs (fun _ _ _ hx => .ite .none (.intro hx.modDie))
  | skim => exact execSkim_canonical hs
  | attest => exact execAttest_canonical hs
  | tkrd => exact systemWord_canonical hs (fun _ _ _ hx => hx.twinValue)
  | tkgive => exact systemWord_canonical hs (fun _ _ _ hx => .ite (.intro hx) (.intro hx.modCore))
  | quar => exact systemWord_canonical hs (fun _ _ _ hx => .intro hx.quar)
  | mcread => exact execMcread_canonical hs
  | pswitch => exact execPswitch_canonical hs
  | fbctl => exact systemWord_canonical hs (fun _ _ _ hx => .intro hx.installFb)
  | ctxld => exact systemWord_canonical hs (fun _ _ _ hx => .ite (.intro hx.drawn) (.intro hx.drawn.ctxLoad))
  | mmt8t8 | mmst8t8 | mmt8bf | mmst8bf | mmbfbf | mmsbfbf | mmf16f16 | mmsf16f16 | mmi8i8 | mmsi8i8 | mmt4t8 | mmst4t8 | mmt4t4
  | mmst4t4 | mmx8x8 | mmsx8x8 | mmx4x8 | mmsx4x8 | mmx4x4 | mmsx4x4 => exact runCmd_canonical hs matrixRun_canonical
  | wload => exact runCmd_canonical hs wloadRun_canonical
  | mxsig | sig => exact runCmd_canonical hs sigRun_canonical
  | cpy | cpyf => exact runCmd_canonical hs cpyRun_canonical
  | cpys => exact runCmd_canonical hs cpysRun_canonical
  | cpyg => exact runCmd_canonical hs cpygRun_canonical
  | cpymx => exact runCmd_canonical hs cpymxRun_canonical
  | cred => exact runCmd_canonical hs credRun_canonical
  | credx => exact runCmd_canonical hs credxRun_canonical
  | cgath | cbcast => exact runCmd_canonical hs collCopyRun_canonical
  | engineCommandComplete => exact execEngineCommandComplete_canonical hs
  | registerWrite => exact .ite (.ite (.next hs.ownerWrite) .fault) (hs.asMaster (fun _ _ hx => hx.blockWrite))
  | devQcfgWrite => exact .ite (hs.asMaster (fun _ _ hx => .intro hx.writeQcfg)) .fault
  | devQheadWrite => exact .ite (hs.asMaster (fun _ _ hx => .intro hx.writeQhead)) .fault
  | devQtailWrite => exact .ite (hs.asMaster (fun _ _ hx => hx.writeQtail)) .fault
  | wakeComplete => exact .ite (.next hs.modDie.replay) .fault
  | wakeFailure => exact .ite .fault (.ite (.next hs.modDie) (.next hs.modDie.replay))
  | packetFetch => exact execPacketFetch_canonical hs
  | queueFetchTimeout => exact execQueueFetchTimeout_canonical hs
  | launch => exact execLaunch_canonical hs
  | copy => exact execCopy_canonical hs
  | signal => exact execSignal_canonical hs
  | wait => exact execWait_canonical hs
  | waitPacketExpiry => exact execWaitPacketExpiry_canonical hs
  | contextCreate => exact execContextCreate_canonical hs
  | contextDestroy => exact execContextDestroy_canonical hs
  | migrate => exact execMigrate_canonical hs
  | teardown => exact execTeardown_canonical hs
  | instancePlacement => exact execInstancePlacement_canonical hs
  | instanceCompletion => exact execInstanceCompletion_canonical hs
  | completionRecord => exact execCompletionRecord_canonical hs
  | instructionRefill => exact execInstructionRefill_canonical hs
  | ownerClaim | ownerHandover | ownerRelease => exact .ite (.next hs.ownerWrite) .fault
  | ownerLinkLoss => exact execOwnerLinkLoss_canonical hs
  | debugCancel => exact hs.asMaster (fun _ _ hx => .intro hx.dbgCancel)
  | debugStopRequest => exact hs.asMaster (fun _ _ hx => .intro hx.dbgStop)
  | debugResume | debugStep => exact hs.asMaster (fun _ _ hx => .intro hx.dbgGo)
  | debugStop => exact execDebugStop_canonical hs
  | devDbgwinWrite => exact hs.asMaster (fun _ _ hx => .intro hx.dbgWrite)
  | dieBmaskWrite => exact .ite .fault (.ite (.next hs.writeBmask) .fault)
  | helperResume => exact .ite .fault (.next hs.modCore)
  | inFieldTest => exact .ite .fault (.next hs.startTest)
  | inFieldTestDone => exact .ite (.next hs) .fault
  | quarantineClear => exact .ite (.next hs.clearQuar) .fault
  | bankRebuild => exact .next (.ite hs.rebuildCsp hs.rebuildTcm)
  | rebuildStripe => exact .ite (.ite (.next hs.modCluster) .fault) (.ite (.next hs.modCore) .fault)
  | exchangeStart => exact execExchangeStart_canonical hs
  | exchangeRecordIssue => exact execExchangeRecordIssue_canonical hs
  | exchangeReceive => exact execExchangeReceive_canonical hs
  | computeEntry => exact execComputeEntry_canonical hs
  | barrierRelease => exact execBarrierRelease_canonical hs
  | waitCompletion => exact execWaitCompletion_canonical hs
  | waitExpiry => exact execWaitExpiry_canonical hs
  | fuseWindowTimeout => exact execFuseWindowTimeout_canonical hs
  | messageDelivery => exact execMessageDelivery_canonical hs
  | pageWalk => exact execPageWalk_canonical hs
  | snagTimeout => exact execSnagTimeout_canonical hs
  | asyncTrapEntry => exact execAsyncTrapEntry_canonical hs
  | migrationCommit => exact execMigrationCommit_canonical hs
  | gangSwitch => exact execGangSwitch_canonical hs
  | partitionResume => exact execPartitionResume_canonical hs
  | machineCheck => exact execMachineCheck_canonical hs
  | poisonConsumption => exact execPoisonConsumption_canonical hs
  | closureCheck => exact execClosureCheck_canonical hs
  | closureTimeout => exact execClosureTimeout_canonical hs
  | thermalSample => exact execThermalSample_canonical hs
  | t4Trip => exact execT4Trip_canonical hs
  | tokenPassing => exact execTokenPassing_canonical hs
  | tokenAdd => exact execTokenAdd_canonical hs
  | ballastPass => exact execBallastPass_canonical hs
  | fieldBookStateChange => exact execFieldBookStateChange_canonical hs
  | pcSample => exact execPcSample_canonical hs
  | skimUnit => exact execSkimUnit_canonical hs
  | powerOnReset => exact execPowerOnReset_canonical hs
  | deviceReset => exact .next hs.warm.boot
  | functionLevelReset => exact execFunctionLevelReset_canonical hs
  | brirusTraining => exact execBrirusTraining_canonical hs
  | trainingTimeout => exact execTrainingTimeout_canonical hs
  | brirusFlit => exact execBrirusFlit_canonical hs
  | brirusNak => exact .ite .fault (.ite (.next hs.setPort) (.ite (.next hs.setPort) (.next hs.setPort)))
  | cxlMemRequest => exact .ite .fault (.ite (.next hs.answerHost) (.ite (.next hs) (.next hs.outsideWrite)))
  | hostLinkDown => exact .ite (.next (.fixLink hs)) .fault
  | hostLinkUp => exact .ite .fault (.next (.fixLink hs))
  | hostAccessTimeout => exact execHostAccessTimeout_canonical hs
  | memoryAccessPerformed => exact execMemoryAccessPerformed_canonical hs
  | waitPacketSatisfied => exact execWaitPacketSatisfied_canonical hs

/-! ### Issue, time and the environment -/

theorem State.Canonical.takeFailed {x : Nat × Nat × Word} (hs : s.Canonical) : (s.takeFailed p k x).Canonical :=
  .ite (.foldl hs.modStrand (fun _ _ hx => hx.modCore.enterSup)) hs.modStrand.takeTrap

theorem State.Canonical.buffered {w : Word} (hs : s.Canonical) : (s.buffered p k w).Canonical :=
  .ite hs.modStrand (.ite hs hs.modStrand)

theorem State.Canonical.runFetched {w : Word} (hs : s.Canonical) : NextCanonical (s.runFetched p k w) := by
  unfold State.runFetched
  dsimp only
  split
  · exact exec_canonical hs.buffered
  · exact .next (.trapAll hs.buffered)

theorem State.Canonical.fetchFault (hs : s.Canonical) : (s.fetchFault p k).Canonical :=
  hs.trapAll

theorem State.Canonical.fetch (hs : s.Canonical) : NextCanonical (s.fetch p k) := by
  unfold State.fetch
  dsimp only
  split
  · exact State.Canonical.runFetched (.foldl hs (fun _ _ hx => hx.modCore))
  split
  · exact execInstructionRefill_canonical (.foldl hs (fun _ _ hx => hx.modCore))
  · exact .next (.fetchFault (.foldl hs (fun _ _ hx => hx.modCore)))

theorem State.Canonical.issue (hs : s.Canonical) : NextCanonical (s.issue p k) := by
  unfold State.issue
  refine .ite .fault ?_
  split
  · exact .next hs.takeFailed
  split
  · exact execAsyncTrapEntry_canonical hs
  · exact .ite .fault hs.fetch

theorem State.Canonical.runEngine {slot : Nat} (hs : s.Canonical) : NextCanonical (s.runEngine p slot) := by
  unfold State.runEngine
  split
  · exact .fault
  · exact runCmd_canonical hs runnerOf_canonical

theorem State.Canonical.tick1 (hs : s.Canonical) : NextCanonical s.tick1 := by
  unfold State.tick1
  exact .ite .fault (.next hs)

theorem State.Canonical.tick (hs : s.Canonical) : NextCanonical (s.tick n) := by
  induction n generalizing s with
  | zero => exact .fault
  | succ n ih =>
    cases n with
    | zero => exact hs.tick1
    | succ n =>
      unfold State.tick
      split
      · exact ih (hs.tick1.get ‹_›)
      · exact hs.tick1

theorem State.Canonical.spoil {l : Nat} (hs : s.Canonical) : (s.spoil l).Canonical :=
  hs

theorem State.Canonical.spoilRow {w : Nat} (hs : s.Canonical) : (s.spoilRow p w).Canonical :=
  hs.modCore

theorem State.Canonical.spoilPlane {clu u w : Nat} (hs : s.Canonical) : (s.spoilPlane clu u w).Canonical :=
  hs.modCluster

theorem State.Canonical.spoilCode {t w : Nat} (hs : s.Canonical) : (s.spoilCode t w).Canonical :=
  hs.modTract

theorem State.Canonical.corrected {csp : Bool} (hs : s.Canonical) : NextCanonical (s.corrected p csp) := by
  unfold State.corrected
  exact .ite (.ite .fault (.next hs.modCluster)) (.ite .fault (.next hs.modCore))

theorem State.Canonical.startFirmware {pc : Word} {ws : List Word} {s8 s9 : Word}
    (hs : s.Canonical) : NextCanonical (s.startFirmware p pc ws s8 s9) := by
  unfold State.startFirmware
  exact .ite (.next hs.modCore.modDie) .fault

theorem State.Canonical.act {a : Action} (hs : s.Canonical) : NextCanonical (s.act a) := by
  unfold State.act
  split
  · exact hs.issue
  · exact hs.runEngine
  · exact exec_canonical hs
  · exact hs.tick
  · exact .next hs.evictTlb
  · exact .next hs.spoil
  · exact .next hs.spoilRow
  · exact .next hs.spoilPlane
  · exact .next hs.spoilCode
  · exact hs.corrected
  · exact .ite (.next hs.modDie) .fault
  · exact hs.ownRequest
  · exact hs.arrive
  · exact hs.fbFlush
  · exact hs.startFirmware

theorem firstStep_canonical {l : List (State → Host.Outcome State Fault Refusal)} (hs : s.Canonical) (hl : StepsCanonical l) :
    NextCanonical (firstStep s l) := by
  induction l with
  | nil => exact .fault
  | cons f r ih =>
    unfold firstStep
    split
    · exact .next ((hl f List.mem_cons_self s hs).get ‹_›)
    · exact ih fun g hg => hl g (List.mem_cons_of_mem f hg)

theorem turns_canonical {l : List (Nat × Nat)} (hs : s.Canonical) : AllSome State.Canonical (turns l s) := by
  induction l generalizing s with
  | nil => exact .none
  | cons x r ih =>
    unfold turns
    split
    · exact .ite (ih hs) (.intro (hs.issue.get ‹_›))
    · exact ih hs

theorem StepsCanonical.nil : StepsCanonical [] := fun _ h => absurd h List.not_mem_nil

theorem StepsCanonical.cons {f : State → Host.Outcome State Fault Refusal} {l : List (State → Host.Outcome State Fault Refusal)}
    (hf : ∀ x, x.Canonical → NextCanonical (f x)) (hl : StepsCanonical l) : StepsCanonical (f :: l) := fun g hg => by
  rcases List.mem_cons.1 hg with rfl | hg
  · exact hf
  · exact hl g hg

theorem StepsCanonical.append {l r : List (State → Host.Outcome State Fault Refusal)} (hl : StepsCanonical l) (hr : StepsCanonical r) :
    StepsCanonical (l ++ r) := fun g hg => (List.mem_append.1 hg).elim (hl g) (hr g)

theorem StepsCanonical.map {α : Type} {f : α → State → Host.Outcome State Fault Refusal} {l : List α}
    (hf : ∀ a x, x.Canonical → NextCanonical (f a x)) : StepsCanonical (l.map f) := fun g hg => by
  obtain ⟨a, -, rfl⟩ := List.mem_map.1 hg
  exact hf a

theorem StepsCanonical.flatMap {α : Type} {f : α → List (State → Host.Outcome State Fault Refusal)} {l : List α}
    (hf : ∀ a, StepsCanonical (f a)) : StepsCanonical (l.flatMap f) := fun g hg => by
  obtain ⟨a, -, ha⟩ := List.mem_flatMap.1 hg
  exact hf a g ha

theorem StepsCanonical.ite {c : Prop} [Decidable c] {l r : List (State → Host.Outcome State Fault Refusal)} (hl : StepsCanonical l)
    (hr : StepsCanonical r) : StepsCanonical (if c then l else r) := by
  split
  · exact hl
  · exact hr

/-! ### Power and heat, continued -/

theorem coreOwes_canonical {c : Core} : StepsCanonical (coreOwes p c) :=
  .append (.append (.append (.append (.append (.append
    (.cons (fun _ => execExchangeStart_canonical) <| .cons (fun _ => execExchangeRecordIssue_canonical) <|
      .cons (fun _ => execThermalSample_canonical) <| .cons (fun _ => execPcSample_canonical) <|
      .cons (fun _ => execFuseWindowTimeout_canonical) <| .cons (fun _ => State.Canonical.fbFlush) .nil)
    (.map fun _ _ => execWaitCompletion_canonical)) (.map fun _ _ => execLdsInTime_canonical))
    (.map fun _ _ => execWaitExpiry_canonical)) (.map fun _ _ => execSnagTimeout_canonical))
    (.map fun _ _ => execHostAccessTimeout_canonical)) (.map fun _ _ => execHostAccessTimeout_canonical)

/-! ### Issue, time and the environment, continued -/

theorem coreDue_canonical {c : Core} : StepsCanonical (coreDue p c) :=
  .append coreOwes_canonical (.cons (fun _ => execFieldBookStateChange_canonical) .nil)

theorem barrierSteps_canonical {l : List (State → Host.Outcome State Fault Refusal)} (hl : StepsCanonical l) :
    StepsCanonical (execBarrierRelease n 1 :: execBarrierRelease n 2 :: execBarrierRelease n 3 :: execComputeEntry n :: l) :=
  .cons (fun _ => execBarrierRelease_canonical) <| .cons (fun _ => execBarrierRelease_canonical) <|
    .cons (fun _ => execBarrierRelease_canonical) <| .cons (fun _ => execComputeEntry_canonical) hl

theorem ballastOwed_canonical {clu : Nat} {c : Cluster} : StepsCanonical (s.ballastOwed clu c) :=
  .ite (.map fun _ _ => execBallastPass_canonical) .nil

theorem State.due_canonical : StepsCanonical s.due := by
  unfold State.due
  refine .append (.append (.append (.append (.append (.append (.append ?_ ?_) ?_) ?_) ?_) ?_) ?_) ?_
  · exact .cons (fun _ => execOwnerLinkLoss_canonical) <| .cons (fun _ => execTokenAdd_canonical) <| .flatMap fun _ => coreDue_canonical
  · exact .flatMap fun _ => barrierSteps_canonical .nil
  · exact .flatMap fun _ => ballastOwed_canonical
  · exact .map fun _ _ => execClosureTimeout_canonical
  · exact .map fun _ _ => execTrainingTimeout_canonical
  · exact .cons (fun _ => execDebugStop_canonical) <| .flatMap fun _ => .cons (fun _ => execWaitPacketSatisfied_canonical) <|
      .cons (fun _ => execWaitPacketExpiry_canonical) <| .cons (fun _ => queueFetchOwed_canonical) .nil
  · exact .flatMap fun _ => .cons (fun _ => execGangSwitch_canonical) <| .cons (fun _ => execPartitionResume_canonical) .nil
  · exact .cons (fun _ => execTokenPassing_canonical) .nil

theorem coreSteps_canonical {c : Core} : StepsCanonical (coreSteps p c) :=
  .append (.append (.append
    (.flatMap fun _ => .cons (fun _ => execMemoryAccessPerformed_canonical) <| .cons (fun _ => execPageWalk_canonical) .nil)
    (.map fun _ _ => execWaitCompletion_canonical))
    (.flatMap fun _ => .cons (fun _ => execEngineCommandComplete_canonical) <| .cons (fun _ => State.Canonical.runEngine) .nil))
    (.cons (fun _ => execExchangeStart_canonical) <| .cons (fun _ => execExchangeRecordIssue_canonical) <|
      .cons (fun _ => State.Canonical.arrive) .nil)

theorem freeSteps_canonical : StepsCanonical (freeSteps s) :=
  .append (.append (.append (.append (.append (.flatMap fun _ => coreSteps_canonical)
    (.flatMap fun _ => barrierSteps_canonical (.cons (fun _ => execInstanceCompletion_canonical) .nil)))
    (.map fun _ _ => execExchangeReceive_canonical)) (.map fun _ _ => execMessageDelivery_canonical))
    (.map fun _ _ => execClosureCheck_canonical)) (.map fun _ _ => execCompletionRecord_canonical)

theorem State.Canonical.auto (hs : s.Canonical) : NextCanonical s.auto := by
  unfold State.auto
  split
  · exact .next ((firstStep_canonical hs freeSteps_canonical).get ‹_›)
  split
  · exact .next ((turns_canonical hs).get ‹_›)
  split
  · exact .next ((firstStep_canonical hs State.due_canonical).get ‹_›)
  · exact .ite hs.tick1 .fault

/-! ### The step -/

theorem step_canonical (hs : s.Canonical) : NextCanonical (step s) := by
  unfold step
  split
  · exact hs.auto
  · exact State.Canonical.act hs

end

/-- Settles O48: every way in which a step can end keeps the canonical form. -/
theorem stepKeepsMemoryCanonical : Obligations.StepKeepsMemoryCanonical := by
  unfold Obligations.StepKeepsMemoryCanonical
  intro s t hs hstep
  exact (step_canonical hs).get hstep

/-- Settles O47: the reset memory lists nothing. -/
theorem resetMemoryCanonical : Obligations.ResetMemoryCanonical := by
  unfold Obligations.ResetMemoryCanonical
  exact wf_reset

end Sys2Proof.Machine

/-! PROOFS. Accesses in flight are performed, walked, snagged or timed out (R100, R113, R129, R421, R436). -/

namespace Sys2Proof.Machine

section
variable {s : State} {p id elem : Nat} {o : MemOp}

/-- The operation that an access of a core names is the one of its number and element. -/
theorem opAt_eq_some {c : Core} (h : c.opAt id elem = some o) : o.id = id ∧ o.elem = elem := by
  have := List.find?_some h
  simpa using this

/-- The turn of an access whose address faults makes it an entry of the snag ring. -/
theorem exec_performed_fault {cause : Nat} (hat : (s.core p).opAt id elem = some o) (hready : s.opReady p o = true)
    (hacc : s.access p o = .fault cause) : exec (.memoryAccessPerformed p id elem) s = .next (s.snagOp p o cause) := by
  rw [exec_memoryAccessPerformed]
  unfold execMemoryAccessPerformed
  simp only [hat, hready, hacc, Bool.not_true, Bool.false_eq_true, if_false]

/-- A host access whose link has been down for 50 µs since its issue fails with cause 7. -/
theorem exec_hostAccessTimeout_op {l : Nat} {rs : Bool} (hat : (s.core p).opAt id elem = some o) (hacc : s.access p o = .loc l rs true)
    (hdown : s.hostUp = false) (hlate : o.since + 50000 ≤ s.now)
    (hroom : o.parked = false ∨ ((s.core p).freeRun (o.snagEntries 7 0).length).isSome = true) :
    exec (.hostAccessTimeout p id elem) s = .next (s.snagOp p o 7) := by
  have hlate' : ¬ s.now < o.since + hostLimit := Nat.not_lt.mpr hlate
  have hroom' : ¬ (o.parked = true ∧ ((s.core p).freeRun (o.snagEntries 7 0).length).isNone = true) := by
    rcases hroom with h | h
    · simp [h]
    · simp [Option.isSome_iff_ne_none.mp h]
  rw [exec_hostAccessTimeout]
  unfold execHostAccessTimeout
  simp only [hat, hacc, hdown, hlate', hroom', Bool.false_eq_true, or_self, if_false]

/-- So does a deferred effect, once the datum or the end of its core waits for it. -/
theorem exec_hostAccessTimeout_deferred (hat : (s.core p).opAt id elem = none) (hdef : (s.core p).deferredOp id elem = some o)
    (hdown : s.hostUp = false) (hlate : o.since + 50000 ≤ s.now) (hdue : s.releaseDue p = true) :
    exec (.hostAccessTimeout p id elem) s = .next ((s.undefer p o).snagOp p o 7) := by
  have hlate' : ¬ s.now < o.since + hostLimit := Nat.not_lt.mpr hlate
  rw [exec_hostAccessTimeout]
  unfold execHostAccessTimeout
  simp only [hat, hdef, hdown, hlate', hdue, Bool.not_true, Bool.false_eq_true, or_self, if_false]

section
variable {pl : Place} {va : Word} (hat : (s.core p).opAt id elem = some o) (hplace : (s.core p).place = some pl)
  (hmiss : s.missAddr p o = some va)
include hat hplace hmiss

/-- A page walk that finds no page turns every access that waits for it into one that faulted with cause 9. -/
theorem exec_pageWalk_fault (hwalk : s.walk (s.rootOf pl.ctx) va.toNat = .fault) :
    exec (.pageWalk p id elem) s = .next ((s.walkers (dieOf p) pl.part (va.toNat / 4096)).foldl State.walkFault s) := by
  rw [exec_pageWalk]
  unfold execPageWalk
  simp only [hat, hplace, hmiss, hwalk]

/-- One that finds a leaf fills the TLBs. -/
theorem exec_pageWalk_leaf {e : Word} {log : Nat} (hwalk : s.walk (s.rootOf pl.ctx) va.toNat = .leaf e log) :
    exec (.pageWalk p id elem) s =
      .next (s.install p { part := pl.part, va := va.toNat / 2 ^ log * 2 ^ log, log := log, leaf := e }) := by
  rw [exec_pageWalk]
  unfold execPageWalk
  simp only [hat, hplace, hmiss, hwalk]

end

/-- An entry of the snag ring that has reached its limit fails and is counted. -/
theorem exec_snagTimeout_late {idx : Nat} {g : Snag} (hat : (s.core p).snagAt idx = some g)
    (hlate : max (s.core p).sup.snagto 1000 ≤ s.snagAge p g) (hruns : (s.core p).stop = none) :
    exec (.snagTimeout p idx) s = .next ((s.failSnag p g g.cause).modCore p fun c =>
      { c with sup := { c.sup with tout := min (c.sup.tout + 1) 65535 } }) := by
  have hlate' : ¬ s.snagAge p g < max (s.core p).sup.snagto 1000 := Nat.not_lt.mpr hlate
  rw [exec_snagTimeout]
  unfold execSnagTimeout
  simp only [hat, hlate', hruns, Option.isSome_none, Bool.false_eq_true, or_self, if_false]

end

/-- Settles O30: one equation for each event and each of its outcomes. -/
theorem memoryEvents : Obligations.MemoryEvents := by
  unfold Obligations.MemoryEvents
  refine ⟨fun s p id elem o hat hdef hdown hlate hdue => exec_hostAccessTimeout_deferred hat hdef hdown hlate hdue,
    fun s p id elem o hat => ⟨fun l rs host hready hacc hmay hpair => ?_, fun c hready hacc => exec_performed_fault hat hready hacc,
      fun l rs hacc hdown hlate hroom => exec_hostAccessTimeout_op hat hacc hdown hlate hroom,
      fun pl va hplace hmiss => ⟨fun hwalk => exec_pageWalk_fault hat hplace hmiss hwalk,
        fun e log hwalk => exec_pageWalk_leaf hat hplace hmiss hwalk⟩,
      fun idx g hg hlate hruns => exec_snagTimeout_late hg hlate hruns⟩⟩
  obtain ⟨rfl, rfl⟩ := opAt_eq_some hat
  exact exec_performed hat hready hpair hacc hmay

end Sys2Proof.Machine

/-! PROOFS. What the performance of an access does to the memory and to the registers (R80, R111, R260, R266, R275, R358, R385, R410). -/

namespace Sys2Proof.Machine

/-! ## The bytes of a memory and its keys -/

/-- What a byte is read from: the memory, and the keys that its lines were written with (R385). -/
def State.cells (s : State) : List Host.Cell × AMap Nat := (s.mem, s.keyed)

/-- The byte at a location. -/
def byteOf (a : Nat) (c : List Host.Cell × AMap Nat) : Byte := byteAs (viaKey a) (plain a) c.1 c.2

theorem byte_eq (s : State) (a : Nat) : s.byte a = byteOf a s.cells := rfl

theorem loadNat_congr {s t : State} (h : t.cells = s.cells) (a n : Nat) : t.loadNat a n = s.loadNat a n := by
  simp only [State.loadNat, State.bytes, byte_eq, h]

/-- A byte after some bytes are stored at a location. -/
def landed (w : Nat × List Byte) (a : Nat) (v : Byte) : Byte :=
  if viaKey a = viaKey w.1 ∧ plain w.1 ≤ plain a ∧ plain a < plain w.1 + w.2.length then w.2.getD (plain a - plain w.1) 0 else v

/-- A byte that is read with the key of a store, or that lies outside its lines. -/
def Apart (a : Nat) (w : Nat × List Byte) : Prop := viaKey a = viaKey w.1 ∨ plain a / 64 ∉ linesOf (plain w.1) w.2.length

theorem byteOf_storeCells {a : Nat} {w : Nat × List Byte} (h : Apart a w) (c : List Host.Cell × AMap Nat) :
    byteOf a (storeCells w.1 w.2 c) = landed w a (byteOf a c) := by
  let s : State := { State.reset with mem := c.1, keyed := c.2 }
  change (s.store w.1 w.2).byte a = landed w a (s.byte a)
  by_cases hk : viaKey a = viaKey w.1
  · have hcond : (w.1 ≤ a ∧ a < w.1 + w.2.length) ↔ viaKey a = viaKey w.1 ∧ plain w.1 ≤ plain a ∧ plain a < plain w.1 + w.2.length := by
      unfold viaKey plain at *
      omega
    have hoff : a - w.1 = plain a - plain w.1 := by
      unfold viaKey plain at *
      omega
    rw [byte_store _ _ _ _ hk]
    unfold landed
    simp only [hcond, hoff]
  · rw [byte_store_other _ _ _ _ (h.resolve_left hk), landed, if_neg fun hc => hk hc.1]

/-- The same after several stores. -/
theorem byteOf_storeAll {a : Nat} {ws : List (Nat × List Byte)} (h : ∀ w ∈ ws, Apart a w) (c : List Host.Cell × AMap Nat) :
    byteOf a (ws.foldl (fun c w => storeCells w.1 w.2 c) c) = ws.foldl (fun v w => landed w a v) (byteOf a c) := by
  induction ws generalizing c with
  | nil => rfl
  | cons w r ih =>
    rw [List.foldl_cons, List.foldl_cons, ih fun x hx => h x (List.mem_cons_of_mem w hx), byteOf_storeCells (h w List.mem_cons_self)]

/-! ## What a store of an operation leaves of the cores -/

/-- A core but for its hawk, its undo log and the flag that a superstep is not protected. -/
def Core.still (c : Core) : Core := { c with power := Power.init, exch := { c.exch with undo := [], unprot := false } }

/-- Every core of a state is as in another, in that sense. -/
structure State.Still (s t : State) : Prop where
  core : ∀ q, (t.core q).still = (s.core q).still

theorem State.Still.refl (s : State) : s.Still s := ⟨fun _ => rfl⟩

theorem State.Still.trans {s t u : State} (h : s.Still t) (g : t.Still u) : s.Still u := ⟨fun q => (g.core q).trans (h.core q)⟩

theorem State.Still.of_cores {s t : State} (h : t.cores = s.cores) : s.Still t := ⟨fun q => congrArg Core.still (core_congr h q)⟩

theorem State.Still.setCore {s : State} {p : Nat} {c : Core} (h : c.still = (s.core p).still) : s.Still (s.setCore p c) where
  core q := by
    by_cases hq : q = p
    · rw [hq, core_setCore_same, h]
    · rw [core_setCore_other hq]

theorem State.Still.foldl {α : Type} {f : State → α → State} (hf : ∀ (x : State) a, x.Still (f x a)) (l : List α) (s : State) :
    s.Still (l.foldl f s) := by
  induction l generalizing s with
  | nil => exact .refl s
  | cons a r ih => exact (hf s a).trans (ih (f s a))

theorem still_pay (s : State) (p k n : Nat) : s.Still (s.pay p k n) where
  core q := by
    obtain ⟨w, hw⟩ := core_pay s p k n q
    rw [hw]
    rfl

theorem still_logUndo (s : State) (p a n : Nat) : s.Still (s.logUndo p a n) := by
  unfold State.logUndo
  dsimp only
  generalize (if 2 ^ 48 ≤ plain a ∧ plain a < 2 ^ 49 then (plain a - 2 ^ 48) / 2 ^ 17 else p) = q
  split
  · refine .foldl (fun x w => ?_) _ s
    split
    · exact .setCore rfl
    · exact (State.Still.of_cores (s := x) (t := { x with nextId := x.nextId + 1 }) rfl).trans (.setCore rfl)
  · exact .refl s

theorem still_setFull (s : State) (a : Nat) (b : Bool) : s.Still (s.setFull a b) := .of_cores rfl

theorem still_writeMem (s : State) (p a : Nat) (bs : List Byte) (rs : Bool) (full : Option Bool) : s.Still (s.writeMem p a bs rs full) := by
  have h : ∀ x : State, x.cores = (s.logUndo p a bs.length).cores → s.Still x := fun x hx => (still_logUndo s p a bs.length).trans (.of_cores hx)
  unfold State.writeMem
  dsimp only
  have h3 : s.Still (if 2 ^ 48 ≤ a ∧ a < 2 ^ 49 then if rs then ((s.logUndo p a bs.length).store a bs).markStale a bs.length
      else (s.logUndo p a bs.length).store a bs else (if rs then ((s.logUndo p a bs.length).store a bs).markStale a bs.length
      else (s.logUndo p a bs.length).store a bs).cleanse a bs.length) := by
    apply h
    split <;> split <;> rfl
  split
  · exact h3
  · exact h3.trans (.foldl (fun x i => still_setFull x _ _) _ _)

theorem still_opWrite (s : State) (p : Nat) (o : MemOp) (l : Nat) (bs : List Byte) (rs : Bool) (full : Option Bool) :
    s.Still (s.opWrite p o l bs rs full) := by
  unfold State.opWrite State.writeRouted
  dsimp only
  split
  · split
    · exact (still_writeMem ..).trans (still_writeMem ..)
    · exact still_writeMem ..
  · exact still_writeMem ..

theorem still_clearFull (s : State) (p l : Nat) (rs routed : Bool) : s.Still (s.clearFull p l rs routed) := by
  have h : ∀ x : State, x.cores = (s.logUndo p l 8).cores → s.Still x := fun x hx => (still_logUndo s p l 8).trans (.of_cores hx)
  unfold State.clearFull
  dsimp only
  apply h
  cases rs <;> cases s.mirrorLoc l <;> cases routed <;> rfl

theorem still_effect (s : State) (p : Nat) (o : MemOp) (l : Nat) (rs : Bool) : s.Still (s.effect p o l rs).1 := by
  unfold State.effect
  split
  case h_1 | h_2 | h_3 => exact .refl s
  case h_4 => exact still_writeMem s p l (natBytes 8 o.data.toNat) false none
  case h_5 | h_6 => exact still_opWrite ..
  case h_7 => exact still_clearFull ..
  case h_8 => exact (still_opWrite ..).trans (still_opWrite ..)
  case h_9 => exact still_opWrite ..

/-! ## The bytes that an operation stores -/

/-- A mirror goes by where the cores are placed. -/
theorem mirrorLoc_congr {s t : State} (h : ∀ q, (t.core q).place = (s.core q).place) (l : Nat) : t.mirrorLoc l = s.mirrorLoc l := by
  simp only [State.mirrorLoc, h]

theorem State.Still.place {s t : State} (h : s.Still t) (q : Nat) : (t.core q).place = (s.core q).place := (congrArg Core.place (h.core q) :)

/-- The bytes that a store of an address sends: to a location, and by way of the routers to its mirror. -/
def State.sent (s : State) (va : Word) (x : Nat) (bs : List Byte) : List (Nat × List Byte) :=
  (x, bs) :: if remoteVa va then ((s.mirrorLoc x).map fun m => (m, bs)).toList else []

theorem sent_congr {s t : State} (h : s.Still t) (va : Word) (x : Nat) (bs : List Byte) : t.sent va x bs = s.sent va x bs := by
  simp only [State.sent, mirrorLoc_congr h.place]

/-- What an operation stores at its location, in order. -/
def State.stores (s : State) (p : Nat) (o : MemOp) (l : Nat) : List (Nat × List Byte) :=
  match o.kind with
  | .store | .stf => s.sent o.va l (natBytes o.bytes o.data.toNat)
  | .atomic | .reduction => s.sent o.va l (natBytes o.bytes
      (rmw o.aop (8 * o.bytes) (s.loadNat l o.bytes) (o.data.toNat % 2 ^ (8 * o.bytes)) (o.cmp.toNat % 2 ^ (8 * o.bytes))))
  | .mxq => s.sent o.va l o.codes ++ s.sent o.sva (s.scaleLoc p o).1 [o.scale]
  | .acc => [(l, natBytes 8 o.data.toNat)]
  | .load | .lds | .table | .feclr => []

/-- The cells after some stores. -/
def storeAll (ws : List (Nat × List Byte)) (c : List Host.Cell × AMap Nat) : List Host.Cell × AMap Nat :=
  ws.foldl (fun c w => storeCells w.1 w.2 c) c

theorem cells_opWrite (s : State) (p : Nat) (o : MemOp) (l : Nat) (bs : List Byte) (rs : Bool) (full : Option Bool) :
    (s.opWrite p o l bs rs full).cells = storeAll (s.sent o.va l bs) s.cells := by
  unfold State.opWrite State.writeRouted State.sent
  cases remoteVa o.va with
  | false => exact cells_writeMem ..
  | true =>
    cases s.mirrorLoc l with
    | none => exact cells_writeMem ..
    | some m => exact (cells_writeMem ..).trans (congrArg (storeCells m bs) (cells_writeMem ..))

theorem cells_clearFull (s : State) (p l : Nat) (rs routed : Bool) : (s.clearFull p l rs routed).cells = s.cells := by
  have h : (s.logUndo p l 8).cells = s.cells := cells_logUndo s p l 8
  unfold State.clearFull
  cases rs <;> cases s.mirrorLoc l <;> cases routed <;> exact h

/-- An operation stores what it stores, and nothing else. -/
theorem cells_effect (s : State) (p : Nat) (o : MemOp) (l : Nat) (rs : Bool) :
    (s.effect p o l rs).1.cells = storeAll (s.stores p o l) s.cells := by
  unfold State.effect State.stores
  cases o.kind with
  | load | lds | table => rfl
  | acc => exact cells_writeMem ..
  | store | stf => exact cells_opWrite ..
  | feclr => exact cells_clearFull ..
  | atomic | reduction => exact cells_opWrite ..
  | mxq =>
    refine (cells_opWrite ..).trans ?_
    rw [cells_opWrite, sent_congr (still_opWrite ..)]
    exact (List.foldl_append ..).symm

/-! ## What follows the effect -/

theorem cells_finishOp (s : State) (p : Nat) (o : MemOp) (v : Nat) : (s.finishOp p o v).cells = s.cells := by
  unfold State.finishOp State.wpReport State.wpFlush State.endLds State.writeRowAs
  dsimp only
  repeat' split
  all_goals rfl

theorem cells_wholeRow (s : State) (p : Nat) (o : MemOp) (l : Nat) : (s.wholeRow p o l).cells = s.cells := by
  unfold State.wholeRow
  dsimp only
  repeat' split
  all_goals rfl

theorem cells_cspLoss (s : State) (p : Nat) (o : MemOp) (l : Nat) : (s.cspLoss p o l).cells = s.cells := by
  unfold State.cspLoss
  dsimp only
  generalize (if o.kind.reads && s.cspStale (cluOf p) l && !(s.core p).ops.any fun x => decide (x.id = o.id) && ownCsp x.va then 1 else 0) = n
  split <;> rfl

theorem deferOp_none {s : State} {p : Nat} {o : MemOp} {host : Bool} (h : host = false ∨ s.rollbackMode p = false ∨ o.kind.writes = false)
    (l : Nat) (rs : Bool) : (if host then s.deferOp p o l rs else none) = none := by
  rcases h with h | h | h
  · rw [h]
    rfl
  · rw [State.deferOp, h]
    exact ite_self _
  · rw [State.deferOp, h, Bool.and_false]
    exact ite_self _

/-- An operation whose effect is not deferred takes effect and is finished. -/
theorem perform_eq {s : State} {p : Nat} {o : MemOp} {host : Bool} (h : host = false ∨ s.rollbackMode p = false ∨ o.kind.writes = false)
    (l : Nat) (rs : Bool) : s.perform p o l rs host =
      (((s.effect p o l rs).1.finishOp p o (s.effect p o l rs).2).wholeRow p o l).cspLoss p o l := by
  unfold State.perform
  rw [deferOp_none h]

/-! ## A charge leaves what accesses go by (R358) -/

/-- A state that differs from another in the hawks and the energy accounts alone. -/
structure State.Paid (s t : State) : Prop where
  world : ∃ cs a b, t = { s with cores := cs, enctx := a, enovh := b }
  core : ∀ q, ∃ w, t.core q = { s.core q with power := w }

theorem paid_pay (s : State) (p k n : Nat) : s.Paid (s.pay p k n) := by
  obtain ⟨hout, hinsts, -⟩ := pay_leaves s p k n
  refine ⟨⟨(s.pay p k n).cores, (s.pay p k n).enctx, (s.pay p k n).enovh, ?_⟩, core_pay s p k n⟩
  calc s.pay p k n
      = { (s.pay p k n).outside with cores := (s.pay p k n).cores, insts := (s.pay p k n).insts, enctx := (s.pay p k n).enctx,
                                     enovh := (s.pay p k n).enovh } := rfl
    _ = { s with cores := (s.pay p k n).cores, enctx := (s.pay p k n).enctx, enovh := (s.pay p k n).enovh } := by
      rw [hout, hinsts]
      rfl

section
variable {s t : State} (h : s.Paid t)
include h

theorem State.Paid.cells : t.cells = s.cells := by
  obtain ⟨⟨cs, a, b, rfl⟩, -⟩ := h
  rfl

theorem State.Paid.place (q : Nat) : (t.core q).place = (s.core q).place := by
  obtain ⟨w, hw⟩ := h.core q
  rw [hw]

theorem State.Paid.inSupArea (q off n : Nat) : (t.core q).inSupArea off n = (s.core q).inSupArea off n := by
  obtain ⟨w, hw⟩ := h.core q
  rw [hw]
  rfl

theorem State.Paid.utlb (q : Nat) : (t.core q).utlb = (s.core q).utlb := by
  obtain ⟨w, hw⟩ := h.core q
  rw [hw]

theorem State.Paid.rollbackMode (p : Nat) : t.rollbackMode p = s.rollbackMode p := by
  have hplace := h.place p
  obtain ⟨⟨cs, a, b, rfl⟩, -⟩ := h
  unfold State.rollbackMode State.tractOf
  rw [hplace]

theorem State.Paid.remapOf (p l : Nat) : t.remapOf p l = s.remapOf p l := by
  have hplace := h.place p
  obtain ⟨⟨cs, a, b, rfl⟩, -⟩ := h
  unfold State.remapOf
  rw [hplace]

theorem State.Paid.tlbLook (p part va : Nat) : t.tlbLook p part va = s.tlbLook p part va := by
  have hutlb := h.utlb p
  obtain ⟨⟨cs, a, b, rfl⟩, -⟩ := h
  unfold State.tlbLook
  rw [hutlb]
  rfl

theorem State.Paid.reachAperture (w : Who) (va n : Nat) : t.reachAperture w va n = s.reachAperture w va n := by
  have hremap := h.remapOf
  have hsup := h.inSupArea
  obtain ⟨⟨cs, a, b, rfl⟩, -⟩ := h
  unfold State.reachAperture
  simp only [hremap, hsup]
  rfl

theorem State.Paid.reachAs (w : Who) (va : Word) (n : Nat) (wr : Bool) : t.reachAs w va n wr = s.reachAs w va n wr := by
  have hap := h.reachAperture
  have hplace := h.place
  have htlb := h.tlbLook
  obtain ⟨⟨cs, a, b, rfl⟩, -⟩ := h
  unfold State.reachAs
  simp only [hap, hplace, htlb]
  rfl

theorem State.Paid.access (p : Nat) (o : MemOp) : t.access p o = s.access p o := by
  have hreach := h.reachAs
  obtain ⟨⟨cs, a, b, rfl⟩, -⟩ := h
  unfold State.access
  simp only [hreach]
  rfl

theorem State.Paid.scaleLoc (p : Nat) (o : MemOp) : t.scaleLoc p o = s.scaleLoc p o := by
  have hreach := h.reachAs
  obtain ⟨⟨cs, a, b, rfl⟩, -⟩ := h
  unfold State.scaleLoc
  simp only [hreach]
  rfl

theorem State.Paid.sent (va : Word) (x : Nat) (bs : List Byte) : t.sent va x bs = s.sent va x bs := by
  simp only [State.sent, mirrorLoc_congr h.place]

theorem State.Paid.stores (p : Nat) (o : MemOp) (l : Nat) : t.stores p o l = s.stores p o l := by
  simp only [State.stores, h.sent, h.scaleLoc, loadNat_congr h.cells]

end

/-! ## The event -/

/-- An operation of a core of no pair that the event performs was ready, and nothing held it back. -/
theorem performed_of_next {s t : State} {p id elem l : Nat} {o : MemOp} {rs host : Bool} (hat : (s.core p).opAt id elem = some o)
    (hacc : s.access p o = .loc l rs host) (hpair : s.paired p = false) (hnext : exec (.memoryAccessPerformed p id elem) s = .next t) :
    s.opReady p o = true ∧ s.mayPerform p o l host = true ∧ t = (s.pay p 0 (s.accessCharge p l o.bytes)).perform p o l rs host := by
  rw [exec_memoryAccessPerformed] at hnext
  unfold execMemoryAccessPerformed at hnext
  simp only [hat, hacc, pairOf_alone hpair, ite_self] at hnext
  cases hready : s.opReady p o with
  | false => simp [hready] at hnext
  | true =>
    cases hmay : s.mayPerform p o l host with
    | false => simp [hready, hmay] at hnext
    | true =>
      simp only [hready, hmay, Bool.not_true, Bool.false_eq_true, if_false, Host.Outcome.next.injEq] at hnext
      exact ⟨rfl, rfl, hnext.symm⟩

/-- Settles O49: the effect of an operation stores its bytes, one store after the other, and what precedes and follows it stores none. -/
theorem storesLand : Obligations.StoresLand := by
  unfold Obligations.StoresLand
  intro s t p id elem l o rs host hat hacc hpair hnow hnext sent writes put a hapart
  obtain ⟨-, -, rfl⟩ := performed_of_next hat hacc hpair hnext
  have paid := paid_pay s p 0 (s.accessCharge p l o.bytes)
  have hcells : ((s.pay p 0 (s.accessCharge p l o.bytes)).perform p o l rs host).cells = storeAll (s.stores p o l) s.cells := by
    rw [perform_eq (by rw [paid.rollbackMode]; exact hnow.imp_right .inl), cells_cspLoss, cells_wholeRow, cells_finishOp, cells_effect,
      paid.stores, paid.cells]
  have hwrites : writes = s.stores p o l := rfl
  rw [byte_eq, hcells, byte_eq]
  rw [hwrites] at hapart ⊢
  exact byteOf_storeAll hapart s.cells

end Sys2Proof.Machine

/-! PROOFS. Where the value of a performed access goes (R68, R73, R111, R266, R272). -/

namespace Sys2Proof.Machine

/-! ## What a load sees after a charge -/

section
variable {s t : State} (h : s.Paid t)
include h

theorem State.Paid.reachFor (w : Who) (ctx : Nat) (va : Word) (n : Nat) (wr : Bool) : t.reachFor w ctx va n wr = s.reachFor w ctx va n wr := by
  have hap := h.reachAperture
  have hplace := h.place
  have htlb := h.tlbLook
  obtain ⟨⟨cs, a, b, rfl⟩, -⟩ := h
  unfold State.reachFor
  simp only [hap, hplace, htlb]
  rfl

theorem State.Paid.opLoc (p : Nat) (o : MemOp) : t.opLoc p o = s.opLoc p o := by
  have hfor := h.reachFor
  have hplace := h.place
  have hremap := h.remapOf
  have hreach := h.reachAs
  have haccess := h.access
  obtain ⟨⟨cs, a, b, rfl⟩, -⟩ := h
  unfold State.opLoc State.spot State.reachEngine
  simp only [haccess, hreach, hplace, hfor, hremap]
  rfl

theorem State.Paid.seen (p : Nat) (o : MemOp) (l : Nat) : t.seen p o l = s.seen p o l := by
  obtain ⟨w, hw⟩ := h.core p
  have hloc := h.opLoc
  have hbyte : ∀ a, t.byte a = s.byte a := fun a => by rw [byte_eq, h.cells, byte_eq]
  simp only [State.seen, State.seenByte, State.deferredByte, hw, hloc, hbyte]

theorem State.Paid.seenFull (p : Nat) (o : MemOp) (l : Nat) : t.seenFull p o l = s.seenFull p o l := by
  obtain ⟨w, hw⟩ := h.core p
  have hloc := h.opLoc
  have hfull : ∀ a, t.isFull a = s.isFull a := by
    obtain ⟨⟨cs, a, b, rfl⟩, -⟩ := h
    exact fun _ => rfl
  simp only [State.seenFull, hw, hloc, hfull]

/-- The number that the effect of an operation returns is the one that it is to return. -/
theorem State.Paid.effect_value {p : Nat} {o : MemOp} (hk : o.kind = .load ∨ o.kind = .atomic ∨ o.kind = .lds)
    (hf : o.ferd = true → o.kind = .load) (l : Nat) (rs : Bool) : (t.effect p o l rs).2 = s.returned p o l := by
  unfold State.effect State.returned
  rcases hk with hk | hk | hk <;> rw [hk] at hf ⊢
  · simp only [h.seen, h.seenFull]
    rfl
  · have hferd : o.ferd = false := Bool.eq_false_iff.mpr fun e => AccKind.noConfusion (hf e)
    simp only [hferd, State.rmwAt, loadNat_congr h.cells]
    rfl
  · have hferd : o.ferd = false := Bool.eq_false_iff.mpr fun e => AccKind.noConfusion (hf e)
    simp only [hferd, h.seen]
    rfl

end

/-! ## The register part of an operation -/

section
variable {c d : Core} (h : d.still = c.still)
include h

theorem rows_of_still : d.rows = c.rows := (congrArg Core.rows h :)

theorem late_of_still : d.late = c.late := (congrArg Core.late h :)

theorem cycle_of_still : d.cycle = c.cycle := (congrArg Core.cycle h :)

theorem strands_of_still : d.strands = c.strands := (congrArg Core.strands h :)

theorem locked_of_still (r : Nat) : d.locked r = c.locked r := by
  have hlocks : d.locks = c.locks := (congrArg Core.locks h :)
  have hreading : d.reading = c.reading := (congrArg Core.reading h :)
  simp only [Core.locked, hlocks, hreading, cycle_of_still h]

theorem pendings_of_still : d.pendings = c.pendings := by
  have hops : d.ops = c.ops := (congrArg Core.ops h :)
  have hsup : d.sup = c.sup := (congrArg Core.sup h :)
  have hdef : d.exch.deferred = c.exch.deferred := (congrArg (fun c : Core => c.exch.deferred) h :)
  simp only [Core.pendings, late_of_still h, hops, hsup, hdef, strands_of_still h]

end

end Sys2Proof.Machine

/-! PROOFS. Memory words and where the operations that they issue land (R68, R73, R111, R264 to R276, R425). -/

namespace Sys2Proof.Machine

/-! ## An operation leaves the list, and its value reaches its register -/

/-- A core without an operation, once that is performed. -/
def Core.dropped (c : Core) (o : MemOp) : Core :=
  { c with ops := c.ops.filter fun x => !(decide (x.id = o.id) && decide (x.elem = o.elem)) }

theorem core_dropOp (s : State) (p : Nat) (o : MemOp) : (s.dropOp p o).core p = (s.core p).dropped o := core_modCore_same ..

/-- An operation does not block a write of its own word. -/
theorem blocked_dropped (c : Core) (o : MemOp) (r : Nat) (m : Row) : (c.dropped o).blocked o.id r m = c.blocked o.id r m := by
  have h : ∀ (f : MemOp → List (Nat × Nat × Row)) (g : Nat × Nat × Row → Bool),
      (∀ x : MemOp, x.id = o.id → (f x).any g = false) → ((c.dropped o).ops.flatMap f).any g = (c.ops.flatMap f).any g := by
    intro f g hfg
    rw [List.any_flatMap, List.any_flatMap, Core.dropped, List.any_filter]
    congr 1
    funext x
    by_cases hx : x.id = o.id
    · rw [hfg x hx, Bool.and_false]
    · simp [hx]
  unfold Core.blocked Core.pendings
  simp only [List.any_append]
  rw [h]
  · rfl
  · intro x hx
    cases x.row <;> simp [hx]

theorem blocked_of_still {c d : Core} (h : d.still = c.still) (id r : Nat) (m : Row) : d.blocked id r m = c.blocked id r m := by
  unfold Core.blocked
  rw [pendings_of_still h]

/-- What follows the write of a register reports watchpoints and ends a wait: it writes no register and starts no write. -/
theorem regs_report (s : State) (p : Nat) (o : MemOp) (v : Word) :
    (((s.wpReport p o).endLds p o 0 v).core p).rows = (s.core p).rows ∧ (((s.wpReport p o).endLds p o 0 v).core p).late = (s.core p).late := by
  simp only [State.endLds, State.modStrand, State.wpReport, State.wpFlush, core_modCore_same, Core.setStrand_rows, Core.setStrand_late]
  repeat' split
  all_goals exact ⟨rfl, rfl⟩

theorem strands_wpReport (s : State) (p : Nat) (o : MemOp) : ((s.wpReport p o).core p).strands = (s.core p).strands := by
  simp only [State.wpReport, State.wpFlush, core_modCore_same]
  repeat' split
  all_goals rfl

theorem core_wholeRow (s : State) (p : Nat) (o : MemOp) (l q : Nat) : (s.wholeRow p o l).core q = s.core q := by
  unfold State.wholeRow
  dsimp only
  repeat' split
  all_goals rfl

theorem core_cspLoss (s : State) (p : Nat) (o : MemOp) (l q : Nat) : (s.cspLoss p o l).core q = s.core q := by
  unfold State.cspLoss
  dsimp only
  generalize (if o.kind.reads && s.cspStale (cluOf p) l && !(s.core p).ops.any fun x => decide (x.id = o.id) && ownCsp x.va then 1 else 0) = n
  split <;> rfl

/-- A write of a part of a row stands in the row, or, where an older write of its words is pending or the row is locked, among the pending writes. -/
theorem writeRowAs_lands (s : State) (p id r : Nat) (m v : Row) :
    if (s.core p).blocked id r m = false ∧ (s.core p).locked r = false then (s.writeRowAs id p r 1 m v).row p r = blend (s.row p r) m v
    else { id := id, due := (s.core p).cycle + 1, row := r, mask := m, value := v } ∈ ((s.writeRowAs id p r 1 m v).core p).late := by
  unfold State.writeRowAs
  by_cases h : (s.core p).blocked id r m = false ∧ (s.core p).locked r = false
  · rw [if_pos h, if_pos ⟨le_refl 1, h⟩]
    exact row_blendRow_same s p r m v
  · rw [if_neg h, if_neg fun hc => h hc.2, core_modCore_same]
    exact List.mem_append_right _ List.mem_cons_self

/-- The register that an operation binds receives its value. -/
theorem finishOp_lands {s x : State} {p r : Nat} {o : MemOp} (h : (x.core p).still = (s.core p).still) (hrow : o.row = some r)
    (hk : o.kind = .load ∨ o.kind = .atomic) (v : Nat) :
    let m := rowMask o.bit o.width
    let w : Row := BitVec.ofNat 512 (v % 2 ^ o.width * 2 ^ o.bit)
    if (s.core p).blocked o.id r m = false ∧ (s.core p).locked r = false then (x.finishOp p o v).row p r = blend (s.row p r) m w
    else { id := o.id, due := (s.core p).cycle + 1, row := r, mask := m, value := w } ∈ ((x.finishOp p o v).core p).late := by
  intro m w
  have hfin : x.finishOp p o v =
      (((x.dropOp p o).writeRowAs o.id p r 1 m w).wpReport p o).endLds p o 0 (BitVec.ofNat 64 v) := by
    unfold State.finishOp
    rcases hk with hk | hk <;> simp only [hrow, hk, reduceCtorEq, if_false] <;> rfl
  obtain ⟨hrows, hlate⟩ := regs_report ((x.dropOp p o).writeRowAs o.id p r 1 m w) p o (BitVec.ofNat 64 v)
  have hdrop := core_dropOp x p o
  have hblocked : ((x.dropOp p o).core p).blocked o.id r m = (s.core p).blocked o.id r m := by
    rw [hdrop, blocked_dropped, blocked_of_still h]
  have hlocked : ((x.dropOp p o).core p).locked r = (s.core p).locked r := by rw [hdrop, ← locked_of_still h]; rfl
  have hcycle : ((x.dropOp p o).core p).cycle = (s.core p).cycle := by rw [hdrop, ← cycle_of_still h]; rfl
  have hrow : (x.dropOp p o).row p r = s.row p r := by
    unfold State.row Core.row
    rw [hdrop, ← rows_of_still h]
    rfl
  have hland := writeRowAs_lands (x.dropOp p o) p o.id r m w
  rw [hblocked, hlocked, hcycle, hrow] at hland
  rw [hfin]
  simp only [State.row, Core.row, hrows, hlate]
  exact hland

/-- An LDS that is performed leaves its value with its strand's wait. -/
theorem finishOp_lds {s x : State} {p : Nat} {o : MemOp} {w : Wait} {u : Word} (h : (x.core p).still = (s.core p).still) (hk : o.kind = .lds)
    (hwait : (s.strand p o.strand).wait = some w) (hkind : w.kind = .lds o.id none u) (v : Nat) :
    ((x.finishOp p o v).strand p o.strand).wait = some { w with kind := .lds o.id (some 0) (BitVec.ofNat 64 v) } := by
  have hfin : x.finishOp p o v = ((x.dropOp p o).wpReport p o).endLds p o 0 (BitVec.ofNat 64 v) := by
    unfold State.finishOp
    cases o.row <;> simp only [hk, reduceCtorEq, if_false, if_true]
  have hstrand : ((x.dropOp p o).wpReport p o).strand p o.strand = s.strand p o.strand := by
    unfold State.strand Core.strand
    rw [strands_wpReport, core_dropOp, ← strands_of_still h]
    rfl
  rw [hfin, State.endLds, strand_modStrand_same, hstrand]
  simp only [hwait, hkind, if_true]

/-- Every operation lands: its effect and its value are those of the state in which its turn has come. -/
theorem lands_of {s : State} {p : Nat} {o : MemOp} (hf : o.ferd = true → o.kind = .load) : s.Lands p o := by
  intro hat hready hpair l rs host hacc hmay
  have paid := paid_pay s p 0 (s.accessCharge p l o.bytes)
  have still := (still_pay s p 0 (s.accessCharge p l o.bytes)).trans (still_effect (s.pay p 0 (s.accessCharge p l o.bytes)) p o l rs)
  refine ⟨exec_performed hat hready hpair hacc hmay, fun hk r hrow => ?_, fun hk w v hwait hkind => ?_⟩
  · have hnow : host = false ∨ (s.pay p 0 (s.accessCharge p l o.bytes)).rollbackMode p = false ∨ o.kind.writes = false := by
      rw [paid.rollbackMode]
      rcases hk with hk | ⟨-, hh | hr⟩
      · rw [hk]
        exact .inr (.inr rfl)
      · exact .inl hh
      · exact .inr (.inl hr)
    have hkind : o.kind = .load ∨ o.kind = .atomic := hk.imp_right And.left
    rw [perform_eq hnow, paid.effect_value (hkind.imp_right .inl) hf]
    simp only [State.row, core_cspLoss, core_wholeRow]
    exact finishOp_lands (still.core p) hrow hkind _
  · have hnow : host = false ∨ (s.pay p 0 (s.accessCharge p l o.bytes)).rollbackMode p = false ∨ o.kind.writes = false := by
      rw [hk]
      exact .inr (.inr rfl)
    rw [perform_eq hnow, paid.effect_value (.inr (.inr hk)) hf]
    simp only [State.strand, core_cspLoss, core_wholeRow]
    exact finishOp_lds (still.core p) hk hwait hkind _

/-! ## What issues operations -/

/-- A word that issues operations where a condition holds. -/
theorem issuesIf_of {i : Instr} {h : Hdr} {w : WordSpec} {body : Body} {ok : Nat → Nat → State → Prop} {l : Nat → Nat → State → List MemOp}
    (he : ∀ s, exec i s = runWord h w body s) (hb : ∀ p k x, ok p k x → body p k x = x.issueOps p k (l p k x))
    (hf : ∀ p k x, ∀ o ∈ l p k x, o.ferd = true → o.kind = .load) : IssuesIf i h w ok l :=
  ⟨runsIf_of he fun p k x hx => (hb p k x hx.1).trans (issueOps_done hx.2), fun s _ _ _ p _ o ho => lands_of (hf p s.focus.strand _ o ho)⟩

theorem misaligned_none {n : Nat} {l : List MemOp} (h : ∀ o ∈ l, o.va.toNat % n = 0) : (l.find? fun o => o.va.toNat % n ≠ 0) = none := by
  rw [List.find?_eq_none]
  exact fun o ho => by simp [h o ho]

theorem issueAligned_aligned {s : State} {p k n : Nat} {l : List MemOp} (h : ∀ o ∈ l, o.va.toNat % n = 0) :
    s.issueAligned p k n l = s.issueOps p k l := by
  rw [State.issueAligned, misaligned_none h]

theorem issueAligned_misaligned {s : State} {p k n : Nat} {l : List MemOp} {o : MemOp}
    (h : (l.find? fun o => o.va.toNat % n ≠ 0) = some o) : s.issueAligned p k n l = .trap (alignTrap o.va) := by
  rw [State.issueAligned, h]

/-- A word that issues operations of one alignment. -/
theorem issues_of {i : Instr} {h : Hdr} {w : WordSpec} {body : Body} {n : Nat} {l : Nat → Nat → State → List MemOp}
    (he : ∀ s, exec i s = runWord h w body s) (hb : ∀ p k x, body p k x = x.issueAligned p k n (l p k x))
    (hf : ∀ p k x, ∀ o ∈ l p k x, o.ferd = true → o.kind = .load) : Issues i h w n l :=
  ⟨issuesIf_of he (fun p k x hx => (hb p k x).trans (issueAligned_aligned hx)) hf,
    fun _ => trapsIf_of he fun p k x hx => (hb p k x).trans (issueAligned_misaligned hx)⟩

/-- A word that issues one operation. -/
theorem issues_one {i : Instr} {h : Hdr} {w : WordSpec} {body : Body} {n : Nat} {o : Nat → Nat → State → MemOp}
    (he : ∀ s, exec i s = runWord h w body s) (hb : ∀ p k x, body p k x = x.issueAligned p k n [o p k x])
    (hf : ∀ p k x, (o p k x).ferd = false) : Issues i h w n fun p k x => [o p k x] :=
  issues_of he hb fun p k x y hy hferd => by
    rw [List.mem_singleton.mp hy, hf] at hferd
    cases hferd

theorem issueRow_aligned {s : State} {p k : Nat} {ea : Word} {l : List MemOp} (h : l = [] ∨ ea.toNat % 8 = 0) :
    s.issueRow p k ea l = s.issueOps p k l := by
  refine if_neg fun hc => ?_
  rcases h with rfl | h
  · exact absurd hc.2 (by simp)
  · exact hc.1 h

theorem issueRow_misaligned {s : State} {p k : Nat} {ea : Word} {l : List MemOp} (h : l ≠ [] ∧ ea.toNat % 8 ≠ 0) :
    s.issueRow p k ea l = .trap (alignTrap ea) :=
  if_pos ⟨h.2, by simpa using h.1⟩

/-- A word that issues the operations of a row. -/
theorem issuesRow_of {i : Instr} {h : Hdr} {w : WordSpec} {body : Body} {ea : Nat → Nat → State → Word} {l : Nat → Nat → State → List MemOp}
    (he : ∀ s, exec i s = runWord h w body s) (hb : ∀ p k x, body p k x = x.issueRow p k (ea p k x) (l p k x))
    (hf : ∀ p k x, ∀ o ∈ l p k x, o.ferd = true → o.kind = .load) :
    IssuesIf i h w (fun p k x => l p k x = [] ∨ (ea p k x).toNat % 8 = 0) l ∧
      TrapsIf i h w (fun p k x => l p k x ≠ [] ∧ (ea p k x).toNat % 8 ≠ 0) (fun p k x => alignTrap (ea p k x)) :=
  ⟨issuesIf_of he (fun p k x hx => (hb p k x).trans (issueRow_aligned hx)) hf,
    trapsIf_of he fun p k x hx => (hb p k x).trans (issueRow_misaligned hx)⟩

theorem ferd_of_mem_map {α : Type} {l : List α} {f : α → MemOp} (hf : ∀ a ∈ l, (f a).ferd = false) {o : MemOp} (ho : o ∈ l.map f)
    (h : o.ferd = true) : o.kind = .load := by
  obtain ⟨a, ha, rfl⟩ := List.mem_map.mp ho
  rw [hf a ha] at h
  cases h

theorem mem_of_mem_unshadowed {s : State} {p : Nat} {l : List MemOp} {o : MemOp} (h : o ∈ s.unshadowed p l) : o ∈ l := by
  induction l with
  | nil => exact h
  | cons a r ih =>
    unfold State.unshadowed at h
    split at h
    · exact List.mem_cons_of_mem a (ih h)
    · rcases List.mem_cons.mp h with rfl | h
      · exact List.mem_cons_self
      · exact List.mem_cons_of_mem a (ih h)

/-- A scatter whose elements are aligned issues the stores that no later one takes the place of. -/
theorem scatter_aligned {s : State} {p k n : Nat} {l u : List MemOp} (h : ∀ o ∈ l, o.va.toNat % n = 0) :
    (match l.find? fun o => o.va.toNat % n ≠ 0 with
      | some o => Res.trap (alignTrap o.va)
      | none => s.issueOps p k u) = s.issueOps p k u := by
  rw [misaligned_none h]

theorem scatter_misaligned {s : State} {p k n : Nat} {l u : List MemOp} {o : MemOp}
    (h : (l.find? fun o => o.va.toNat % n ≠ 0) = some o) :
    (match l.find? fun o => o.va.toNat % n ≠ 0 with
      | some o => Res.trap (alignTrap o.va)
      | none => s.issueOps p k u) = .trap (alignTrap o.va) := by
  rw [h]

/-! ## A word that leaves its strand waiting -/

/-- A word that says itself where its strand goes on, on a core that is not fused and where its predicate lets it act. -/
theorem runWord_body_jump {h : Hdr} {w : WordSpec} {body : Body} {s t : State} (alone : Alone h w s)
    (hb : body s.focus.pcid s.focus.strand (s.begun w) = .jump t) : runWord h w body s = .next t := by
  obtain ⟨hgang, ⟨-, hgo⟩, hon⟩ := alone
  have hms := members_alone hgang
  have hrun : State.runAll s.focus.strand h w body [s.focus.pcid] (s.begun w) = .jump t := by
    unfold WordSpec.off at hon
    simp only [State.runAll, State.runOne, hon, Bool.false_eq_true, if_false, hb]
  unfold State.begun at hrun
  rw [hms] at hgo hrun
  simp only [runWord, hms, hgo, hrun]

/-! ## The memory words -/

/-- LDS issues its load and waits (R272). -/
theorem exec_lds_waits (h : Hdr) (d a b : BitVec 8) (scope sz : BitVec 3) (wall : BitVec 1) (s : State) :
    let p := s.focus.pcid
    let k := s.focus.strand
    let x := s.begun (specM [dS d, aS a, bS b] true)
    let o := { x.newOp p k .lds (x.rS p k 1 a) sz.toNat with ord := 1, scope := scope.toNat }.toScalar (x.destOf p k 0 d)
    Alone h (specM [dS d, aS a, bS b] true) s → o.va.toNat % szBytes sz.toNat = 0 → x.MayIssue p k [o] →
      exec (.lds h d a b scope sz wall) s =
        .next ((x.withOps p [o]).hold p k (x.newWait p (.lds (x.curId p) none 0) (x.rS p k 2 b) wall (some (x.destOf p k 0 d)) h)) := by
  intro p k x o alone hva hmay
  rw [exec_lds]
  refine runWord_body_jump alone ?_
  have hissue : x.issueAligned p k (szBytes sz.toNat) [o] = .done (x.withOps p [o]) := by
    rw [issueAligned_aligned fun y hy => by rw [List.mem_singleton.mp hy]; exact hva, issueOps_done hmay]
  change (match x.issueAligned p k (szBytes sz.toNat) [o] with
    | .done s1 => Res.jump (s1.hold p k (x.newWait p (.lds (x.curId p) none 0) (x.rS p k 2 b) wall (some (x.destOf p k 0 d)) h))
    | r => r) = _
  rw [hissue]

/-- Settles O16: each word issues what it is said to issue, and every operation lands. -/
theorem memoryWords : Obligations.MemoryWords := by
  unfold Obligations.MemoryWords
  intro h d a b c disp scope sz ord m wall at' row words w elems bound atomic reduction full ea misaligned n three two
  have hatomic : ∀ (i : Instr) (aop : Nat), (∀ s, exec i s = atomicWord h aop d a b scope ord sz s) →
      Issues i h three n (atomic aop) :=
    fun i aop he => issues_one he (fun _ _ _ => rfl) fun _ _ _ => rfl
  have hreduction : ∀ (i : Instr) (aop : Nat), (∀ s, exec i s = reductionWord h aop d a disp scope ord sz s) →
      Issues i h two n (reduction aop) :=
    fun i aop he => issues_one he (fun _ _ _ => rfl) fun _ _ _ => rfl
  refine ⟨?ld, ?st, ?ldv, ?stv, ?ldvx, ?stvx, ?stf, ?feclr, ?ferd, ?ferdTrap, ?_⟩
  case ld | st | stf | feclr => exact issues_one (fun _ => rfl) (fun _ _ _ => rfl) fun _ _ _ => rfl
  case ldv => exact issuesRow_of (fun _ => rfl) (fun _ _ _ => rfl) fun _ _ _ _ ho => ferd_of_mem_map (fun _ _ => rfl) ho
  case stv => exact issuesRow_of (fun _ => rfl) (fun _ _ _ => rfl) fun _ _ _ _ ho => ferd_of_mem_map (fun _ _ => rfl) ho
  case ldvx =>
    refine issues_of (fun _ => rfl) (fun _ _ _ => rfl) fun _ _ _ _ ho => ferd_of_mem_map (fun e he => ?_) ho
    obtain ⟨i, -, rfl⟩ := List.mem_map.mp he
    rfl
  case stvx =>
    refine ⟨issuesIf_of (fun _ => rfl) (fun p k x hx => ?_) fun _ _ _ _ ho => ferd_of_mem_map (fun e he => ?_) (mem_of_mem_unshadowed ho),
      fun o => trapsIf_of (fun _ => rfl) fun p k x hx => ?_⟩
    · exact scatter_aligned hx
    · obtain ⟨i, -, rfl⟩ := List.mem_map.mp he
      rfl
    · exact scatter_misaligned hx
  case ferd =>
    refine issuesIf_of (fun _ => rfl) (fun p k x hx => if_neg (not_not.mpr hx)) fun _ _ _ o ho _ => ?_
    obtain ⟨j, -, rfl⟩ := List.mem_map.mp ho
    rfl
  case ferdTrap => exact trapsIf_of (fun _ => rfl) fun p k x hx => if_pos hx
  refine ⟨hatomic _ _ fun _ => rfl, hatomic _ _ fun _ => rfl, hatomic _ _ fun _ => rfl, hatomic _ _ fun _ => rfl, hatomic _ _ fun _ => rfl,
    hatomic _ _ fun _ => rfl, hatomic _ _ fun _ => rfl, hatomic _ _ fun _ => rfl, hatomic _ _ fun _ => rfl, hatomic _ _ fun _ => rfl,
    issues_one (fun _ => rfl) (fun _ _ _ => rfl) fun _ _ _ => rfl,
    hreduction _ _ fun _ => rfl, hreduction _ _ fun _ => rfl, hreduction _ _ fun _ => rfl, hreduction _ _ fun _ => rfl,
    hreduction _ _ fun _ => rfl, hreduction _ _ fun _ => rfl, hreduction _ _ fun _ => rfl, ?_⟩
  exact fun s alone hva hmay => ⟨exec_lds_waits h d a b scope sz wall s alone hva hmay, lands_of fun hferd => Bool.noConfusion hferd⟩

end Sys2Proof.Machine

/-! PROOFS. Long-accumulator words (R103, R104, R167 to R169, R328, R443). -/

namespace Sys2Proof.Machine

/-! ## The object that an address names -/

/-- An address names no object that the strand may use: it lies outside the core's TCM, is not a multiple of 128, or names an object of the supervisor
area for a strand that may not reach it (R89, R103, R443). -/
def accFar (va : Nat → Nat → State → Word) (p k : Nat) (x : State) : Prop :=
  (va p k x).toNat < aperture ∨ 2 ^ 17 ≤ (va p k x).toNat - aperture ∨ ((va p k x).toNat - aperture) % 128 ≠ 0 ∨
    ((x.core p).inSupArea ((va p k x).toNat - aperture) 88 = true ∧ (x.who p k).sup = false ∧ (x.who p k).firmware = false)

/-- The object that an address names can be read, and a field of its word 0 that is to be zero is not. -/
def accBroken (va : Nat → Nat → State → Word) (reads : Nat → Nat → State → List Nat) (p k : Nat) (x : State) : Prop :=
  x.objectHeld p k (va p k x) = false ∧
    (∀ i ∈ reads p k x, x.poisoned (tcmBase p + ((va p k x).toNat - aperture) + 8 * i) 8 = false) ∧
    (fieldNat (x.loadWord (tcmBase p + ((va p k x).toNat - aperture))) 4 12 ≠ 0 ∨
      fieldNat (x.loadWord (tcmBase p + ((va p k x).toNat - aperture))) 48 16 ≠ 0)

section
variable {va : Nat → Nat → State → Word} {reads : Nat → Nat → State → List Nat} {p k : Nat} {x : State}

theorem objectAt_far (h : accFar va p k x) : x.objectAt p k (va p k x) = .error (accAddrTrap (va p k x)) := by
  unfold State.objectAt
  rw [if_pos]
  simpa [accFar] using h

theorem objectAt_near (h : ¬accFar va p k x) : x.objectAt p k (va p k x) = .ok (tcmBase p + ((va p k x).toNat - aperture)) := by
  unfold State.objectAt
  rw [if_neg]
  simpa [accFar] using h

theorem accLoc_of_objectAt {l : Nat} (h : x.objectAt p k (va p k x) = .ok l) : accLoc va p k x = l := by
  simp only [accLoc, h]

theorem accLoc_near (h : ¬accFar va p k x) : accLoc va p k x = tcmBase p + ((va p k x).toNat - aperture) := accLoc_of_objectAt (objectAt_near h)

theorem objectAt_of_accIs (h : accIs va reads p k x) : x.objectAt p k (va p k x) = .ok (accLoc va p k x) := by
  obtain ⟨l, hl, -⟩ := h
  rw [accLoc_of_objectAt hl, hl]

theorem any_poisoned {l : Nat} {rs : List Nat} (h : ∀ i ∈ rs, x.poisoned (l + 8 * i) 8 = false) :
    (rs.any fun i => x.poisoned (l + 8 * i) 8) = false := by
  simp only [List.any_eq_false, Bool.not_eq_true]
  exact h

variable {rd : Nat → List Nat} {f : Nat → Acc → Res}

theorem onObject_far (h : accFar va p k x) : onObject (va p k x) p k rd f x = .trap (accAddrTrap (va p k x)) := by
  simp only [onObject, objectAt_far h]

theorem onObject_broken (hrd : rd (accLoc va p k x) = reads p k x) (hnear : ¬accFar va p k x) (h : accBroken va reads p k x) :
    onObject (va p k x) p k rd f x = .trap (accFmtTrap (va p k x)) := by
  obtain ⟨hheld, hread, hbad⟩ := h
  rw [accLoc_near hnear] at hrd
  have hword : badWord0 (x.loadWord (tcmBase p + ((va p k x).toNat - aperture))) = true := by simpa [badWord0] using hbad
  simp only [onObject, objectAt_near hnear, hheld, hrd, any_poisoned hread, hword, Bool.or_self, Bool.false_eq_true, if_false, if_true]

theorem onObject_is (hrd : rd (accLoc va p k x) = reads p k x) (h : accIs va reads p k x) :
    onObject (va p k x) p k rd f x = f (accLoc va p k x) (x.readAcc (accLoc va p k x)) := by
  obtain ⟨l, hl, hheld, hread, hword⟩ := h
  rw [accLoc_of_objectAt hl] at hrd ⊢
  simp only [onObject, hl, hheld, hrd, any_poisoned hread, hword, Bool.or_self, Bool.false_eq_true, if_false]

/-- An object that may be written is. -/
theorem writeAcc_done {n : Nat → Nat → State → Nat} {z : Nat → Nat → State → Acc} (h : accMayWrite va n z p k x) (f : State → State) :
    x.writeAcc p k (accLoc va p k x) (va p k x) (n p k x) (z p k x) f = .done (f (accWritten va n z p k x)) := by
  obtain ⟨hpay, hmay⟩ := h
  have hissue := issueOps_done hmay
  unfold State.accPaid at hissue
  simp only [State.writeAcc, hpay, Bool.not_true, Bool.false_eq_true, if_false, hissue]
  rfl

theorem readAccWords_done {n : Nat} (h : x.canPay p (n * x.charge p 4) = true) (f : State → State) :
    x.readAccWords p n f = .done (f (x.accPaid p n)) := if_pos h

/-- A word that reads an object and then issues operations. -/
theorem readAccWords_issue {n : Nat} {l : List MemOp} (hpay : x.canPay p (n * x.charge p 4) = true) (hmay : (x.accPaid p n).MayIssue p k l)
    (f : State → State) :
    (match x.readAccWords p n id with
      | .done y => (match y.issueOps p k l with
        | .done z => Res.done (f z)
        | r => r)
      | r => r) = .done (f ((x.accPaid p n).withOps p l)) := by
  have hissue := issueOps_done hmay
  rw [readAccWords_done hpay]
  simp only [id, hissue]

end

/-! ## Words on one object -/

/-- A word on one object traps where its address names none, and where word 0 of the object has a field that is not zero (R328, R443). -/
theorem onObject_traps {i : Instr} {h : Hdr} {w : WordSpec} {body : Body} {va : Nat → Nat → State → Word} {reads : Nat → Nat → State → List Nat}
    {rd : Nat → Nat → State → Nat → List Nat} {f : Nat → Nat → State → Nat → Acc → Res} (he : ∀ s, exec i s = runWord h w body s)
    (hb : ∀ p k x, body p k x = onObject (va p k x) p k (rd p k x) (f p k x) x) (hrd : ∀ p k x, rd p k x (accLoc va p k x) = reads p k x) :
    TrapsIf i h w (accFar va) (fun p k x => accAddrTrap (va p k x)) ∧
      TrapsIf i h w (fun p k x => ¬accFar va p k x ∧ accBroken va reads p k x) (fun p k x => accFmtTrap (va p k x)) :=
  ⟨trapsIf_of he fun p k x hx => (hb p k x).trans (onObject_far hx),
    trapsIf_of he fun p k x hx => (hb p k x).trans (onObject_broken (hrd p k x) hx.1 hx.2)⟩

/-- The words of an object that a list of addends reads. -/
def addedReads (va : Nat → Nat → State → Word) (xs : Nat → Nat → State → List FVal) (p k : Nat) (x : State) : List Nat :=
  addReads (x.readAcc (accLoc va p k x)) (xs p k x)

/-- The object after a list of addends and the count of the word. -/
def addedSum (va : Nat → Nat → State → Word) (xs : Nat → Nat → State → List FVal) (p k : Nat) (x : State) : Acc :=
  ((xs p k x).foldl Acc.add (x.readAcc (accLoc va p k x))).settle.count

/-- A word that adds to an object adds exactly: the object's new words are stored and its flags gathered (R167, R328). -/
theorem addTo_runs {i : Instr} {h : Hdr} {w : WordSpec} {body : Body} {va : Nat → Nat → State → Word} {xs : Nat → Nat → State → List FVal}
    (he : ∀ s, exec i s = runWord h w body s) (hb : ∀ p k x, body p k x = x.addTo p k (va p k x) (xs p k x)) :
    RunsIf i h w
      (fun p k x => accIs va (addedReads va xs) p k x ∧
        accMayWrite va (fun p k x => (addedReads va xs p k x).eraseDups.length) (addedSum va xs) p k x)
      (fun p k x => (accWritten va (fun p k x => (addedReads va xs p k x).eraseDups.length) (addedSum va xs) p k x).orLaev p k
        (addedSum va xs p k x)) :=
  runsIf_of he fun p k x ⟨his, hmay⟩ =>
    (hb p k x).trans ((onObject_is (reads := addedReads va xs) rfl his).trans (writeAcc_done hmay fun y => y.orLaev p k (addedSum va xs p k x)))

theorem addTo_traps {i : Instr} {h : Hdr} {w : WordSpec} {body : Body} {va : Nat → Nat → State → Word} {xs : Nat → Nat → State → List FVal}
    (he : ∀ s, exec i s = runWord h w body s) (hb : ∀ p k x, body p k x = x.addTo p k (va p k x) (xs p k x)) :
    TrapsIf i h w (accFar va) (fun p k x => accAddrTrap (va p k x)) ∧
      TrapsIf i h w (fun p k x => ¬accFar va p k x ∧ accBroken va (addedReads va xs) p k x) (fun p k x => accFmtTrap (va p k x)) :=
  onObject_traps he hb fun _ _ _ => rfl

/-! ## The stores of an object -/

/-- A store of an accumulator word leads to the core's own TCM. -/
theorem access_acc {s : State} {p l : Nat} {o : MemOp} {rs host : Bool} (hk : o.kind = .acc) (h : s.access p o = .loc l rs host) :
    l = tcmBase p + (o.va.toNat - aperture) := by
  have hloc : s.access p o = .loc (tcmBase p + (o.va.toNat - aperture)) false false := if_pos (by rw [hk]; rfl)
  exact (Reach.loc.inj (h.symm.trans hloc)).1

/-! ## LACLR and LAMRG -/

theorem laclr_runs (h : Hdr) (a : BitVec 8) :
    let va : Nat → Nat → State → Word := fun p k x => x.rS p k 1 a
    RunsIf (.laclr h a) h (specX [aS a] 2) (fun p k x => (∃ l, x.objectAt p k (va p k x) = .ok l) ∧ x.objectHeld p k (va p k x) = false ∧
        accMayWrite va (fun _ _ _ => 0) (fun _ _ _ => Acc.zero) p k x)
      (accWritten va (fun _ _ _ => 0) fun _ _ _ => Acc.zero) := by
  intro va
  refine runsIf_of (fun s => exec_laclr h a s) fun p k x ⟨⟨l, hl⟩, hheld, hmay⟩ => ?_
  have hwrite := writeAcc_done hmay id
  rw [accLoc_of_objectAt hl] at hwrite
  simp only [va] at hl hheld hwrite
  simp only [hl, hheld, Bool.false_eq_true, if_false]
  exact hwrite

theorem laclr_traps (h : Hdr) (a : BitVec 8) :
    let va : Nat → Nat → State → Word := fun p k x => x.rS p k 1 a
    TrapsIf (.laclr h a) h (specX [aS a] 2) (accFar va) (fun p k x => accAddrTrap (va p k x)) := by
  intro va
  refine trapsIf_of (fun s => exec_laclr h a s) fun p k x hx => ?_
  have hfar := objectAt_far hx
  simp only [va] at hfar
  simp only [hfar, va]

/-- The effect of LAMRG on the objects that two addresses name. -/
def mergeBody (va vb : Nat → Nat → State → Word) : Body := fun p k x =>
  match x.objectAt p k (va p k x), x.objectAt p k (vb p k x) with
  | .ok _, .error t => .trap t
  | _, _ =>
    onObject (va p k x) p k (fun _ => List.range 11) (fun l y =>
      onObject (vb p k x) p k (fun _ => List.range 11) (fun _ z =>
        x.writeAcc p k l (va p k x) 22 (y.merge z).count fun u => u.orLaev p k (y.merge z).count) x) x

theorem exec_lamrg_body (h : Hdr) (a b : BitVec 8) (s : State) :
    exec (.lamrg h a b) s = runWord h { specX [aS a, bS b] 3 with usesHeader := true, hw := [5] }
      (mergeBody (fun p k x => x.rS p k 1 a) fun p k x => x.rS p k 2 b) s := rfl

section
variable {va vb : Nat → Nat → State → Word} {p k : Nat} {x : State}

/-- An address B that names no object comes behind an address A that does. -/
theorem mergeBody_farB (ha : ¬accFar va p k x) (hb : accFar vb p k x) : mergeBody va vb p k x = .trap (accAddrTrap (vb p k x)) := by
  simp only [mergeBody, objectAt_near ha, objectAt_far hb]

theorem mergeBody_farA (ha : accFar va p k x) : mergeBody va vb p k x = .trap (accAddrTrap (va p k x)) := by
  simp only [mergeBody, objectAt_far ha]
  exact onObject_far ha

/-- Where neither address is the fault, the word goes from object A to object B. -/
theorem mergeBody_nearB {l : Nat} (hb : x.objectAt p k (vb p k x) = .ok l) : mergeBody va vb p k x =
    onObject (va p k x) p k (fun _ => List.range 11) (fun l y =>
      onObject (vb p k x) p k (fun _ => List.range 11) (fun _ z =>
        x.writeAcc p k l (va p k x) 22 (y.merge z).count fun u => u.orLaev p k (y.merge z).count) x) x := by
  unfold mergeBody
  rw [hb]
  cases x.objectAt p k (va p k x) <;> rfl

end

/-- Settles O22: each word acts on the object that its address names as it is, and traps where there is none or where its word 0 is broken. -/
theorem longAccumulatorWords : Obligations.LongAccumulatorWords := by
  unfold Obligations.LongAccumulatorWords
  intro h d a b c va vb all zeroth spec words rich fp lanes adds count sum able added merged cleared rowTerms oneTerm products
  refine ⟨laclr_runs h a, addTo_runs (fun _ => rfl) fun _ _ _ => rfl, addTo_runs (fun _ => rfl) fun _ _ _ => rfl,
    addTo_runs (fun _ => rfl) fun _ _ _ => rfl, ?larnd, ?lamrg, ?laflg, ?laflgClr, ?stores, ?_⟩
  case larnd =>
    exact fun ty rm => runsIf_of (fun _ => rfl) fun p k x hx =>
      (onObject_is (reads := all) rfl hx.1).trans (readAccWords_done hx.2 _)
  case lamrg =>
    refine runsIf_of (exec_lamrg_body h a b) fun p k x ⟨ha, hb, hmay⟩ => ?_
    rw [mergeBody_nearB (objectAt_of_accIs hb)]
    exact (onObject_is (reads := all) rfl ha).trans ((onObject_is (reads := all) rfl hb).trans
      (writeAcc_done hmay fun u => u.orLaev p k (merged p k x)))
  case laflg =>
    exact runsIf_of (fun _ => rfl) fun p k x hx => (onObject_is (reads := zeroth) rfl hx.1).trans (readAccWords_done hx.2 _)
  case laflgClr =>
    refine runsIf_of (fun _ => rfl) fun p k x ⟨his, hrich, hmay⟩ => (onObject_is (reads := zeroth) rfl his).trans ?_
    exact readAccWords_issue hrich hmay fun y => y.wS p k 2 d (x.loadWord (accLoc va p k x))
  case stores =>
    exact fun s p o l rs host hk hat hready hpair hacc hmay => ⟨exec_performed hat hready hpair hacc hmay, access_acc hk hacc⟩
  intro off far broken fault oneObject
  refine ⟨laclr_traps h a, ?_, fun ty rm => onObject_traps (reads := all) (fun _ => rfl) (fun _ _ _ => rfl) fun _ _ _ => rfl, ?_, ?_, ?_, ?_⟩
  · refine List.forall_mem_cons.mpr ⟨addTo_traps (fun _ => rfl) fun _ _ _ => rfl, List.forall_mem_cons.mpr
      ⟨addTo_traps (fun _ => rfl) fun _ _ _ => rfl, List.forall_mem_cons.mpr ⟨addTo_traps (fun _ => rfl) fun _ _ _ => rfl,
        List.forall_mem_cons.mpr ⟨?_, List.forall_mem_singleton.mpr ?_⟩⟩⟩⟩
    · exact onObject_traps (reads := zeroth) (fun _ => rfl) (fun _ _ _ => rfl) fun _ _ _ => rfl
    · exact onObject_traps (reads := zeroth) (fun _ => rfl) (fun _ _ _ => rfl) fun _ _ _ => rfl
  · exact trapsIf_of (exec_lamrg_body h a b) fun p k x hx => mergeBody_farA hx
  · exact trapsIf_of (exec_lamrg_body h a b) fun p k x hx => mergeBody_farB hx.1 hx.2
  · exact trapsIf_of (exec_lamrg_body h a b) fun p k x ⟨hna, hnb, hbroken⟩ =>
      (mergeBody_nearB (objectAt_near hnb)).trans (onObject_broken (reads := all) rfl hna hbroken)
  · exact trapsIf_of (exec_lamrg_body h a b) fun p k x ⟨hnb, ha, hbroken⟩ =>
      (mergeBody_nearB (objectAt_near hnb)).trans ((onObject_is (reads := all) rfl ha).trans
        (onObject_broken (reads := all) rfl hnb hbroken))

end Sys2Proof.Machine

/-! PROOFS. The wait words (R210, R213, R219, R277, R279, R288, R295, R297, R299). -/

namespace Sys2Proof.Machine

/-! ## How a wait begins (R277, R279, R412) -/

section
variable {s : State} {p k : Nat} {kind : WaitKind} {dl : Word} {wall : BitVec 1} {dest : Option Dest} {h : Hdr}

theorem startWait_ends {st : Nat} (hp : s.paired p = false) (hs : s.waitStatus p k (s.newWait p kind dl wall dest h) = some st) :
    s.startWait p k kind dl wall dest h = .done (s.endEffects p k (s.newWait p kind dl wall dest h) st) := by
  simp [State.startWait, hp, hs]

theorem startWait_polls (hp : s.paired p = false) (hs : s.waitStatus p k (s.newWait p kind dl wall dest h) = none)
    (hd : (s.newWait p kind dl wall dest h).deadline = 0) (hn : s.endsNow p (s.newWait p kind dl wall dest h) = false) :
    s.startWait p k kind dl wall dest h = .done (s.endEffects p k (s.newWait p kind dl wall dest h)
      (s.expiryStatus p k (s.newWait p kind dl wall dest h))) := by
  simp [State.startWait, hp, hs, hd, hn]

theorem startWait_holds (hw : s.paired p = true ∨ (s.waitStatus p k (s.newWait p kind dl wall dest h) = none ∧
      ((s.newWait p kind dl wall dest h).deadline ≠ 0 ∨ s.endsNow p (s.newWait p kind dl wall dest h) = true))) :
    s.startWait p k kind dl wall dest h = .jump (s.hold p k (s.newWait p kind dl wall dest h)) := by
  cases hp : s.paired p with
  | true => simp [State.startWait, hp]
  | false =>
    obtain ⟨hs, hd⟩ := hw.resolve_left (by simp [hp])
    have hstays : ¬((s.newWait p kind dl wall dest h).deadline = 0 ∧ (!s.endsNow p (s.newWait p kind dl wall dest h)) = true) := fun ⟨h0, hn⟩ =>
      hd.elim (absurd h0) fun he => by simp [he] at hn
    simp only [State.startWait, hp, hs, Bool.false_eq_true, if_false, if_neg hstays]

end

/-- A word that begins a wait where a condition holds has the three endings of a wait word. -/
theorem waitsFor_of {i : Instr} {h : Hdr} {w : WordSpec} {body : Body} {ok : Nat → Nat → State → Prop} {f : WaitForm}
    (he : ∀ s, exec i s = runWord h w body s) (hw : w.gated = false)
    (hb : ∀ p k x, ok p k x → body p k x =
      (f.first p k x).startWait p k (f.kind p k x) (f.deadline p k x) f.wall (f.dest p k x) h) : WaitsFor i h w ok f :=
  ⟨fun _ => runsIf_of he fun p k x ⟨hok, hp, hs⟩ => (hb p k x hok).trans (startWait_ends hp hs),
    runsIf_of he fun p k x ⟨hok, hp, hs, hd, hn⟩ => (hb p k x hok).trans (startWait_polls hp hs hd hn),
    goesIf_of he hw fun p k x ⟨hok, hstays⟩ => (hb p k x hok).trans (startWait_holds hstays)⟩

/-! ## BWAIT on a core that is no twin (R288) -/

/-- What DONE of a group leaves when it is consumed is the same state with other instances. -/
theorem consumeDone_insts (s : State) (p g : Nat) : ∃ l, s.consumeDone p g = { s with insts := l } := by
  unfold State.consumeDone State.modInst
  split
  · exact ⟨s.insts, rfl⟩
  · dsimp only
    split
    · exact ⟨_, rfl⟩
    · exact ⟨s.insts, rfl⟩

theorem bwaitCase_lt (s : State) (p g : Nat) : s.bwaitCase p g < 2 ^ 64 := by
  unfold State.bwaitCase
  split
  · decide
  · dsimp only
    split
    · decide
    · split <;> decide

/-- A core that is no twin decides its own result of the barrier network. -/
theorem pairStatus_alone {s t : State} {p : Nat} (hs : s.paired p = false) (ht : t.paired p = false) (k : Nat) {st : Nat}
    (hst : st < 2 ^ 64) : s.pairStatus p k st t = some (st, t) := by
  unfold State.pairStatus
  rw [isShadow_alone hs, twinValue_alone ht]
  simpa using hst

theorem primaryKind_alone {s : State} {p : Nat} (hs : s.paired p = false) (k g : Nat) : s.primaryKind p k g = .bwait g none none := by
  rw [State.primaryKind, pairOf_alone hs]

/-- The state in which a BWAIT begins to wait: a phase that has completed is consumed. -/
def State.bwaitFirst (s : State) (p g : Nat) : State := if s.bwaitCase p g = 1 then s.consumeDone p g else s

theorem bwaitFirst_insts (s : State) (p g : Nat) : ∃ l, s.bwaitFirst p g = { s with insts := l } := by
  unfold State.bwaitFirst
  split
  · exact consumeDone_insts s p g
  · exact ⟨s.insts, rfl⟩

theorem bwaitFirst_rS (s : State) (p g k f : Nat) (n : BitVec 8) : (s.bwaitFirst p g).rS p k f n = s.rS p k f n := by
  obtain ⟨l, hl⟩ := bwaitFirst_insts s p g
  rw [hl]
  rfl

theorem bwaitFirst_destOf (s : State) (p g k f : Nat) (n : BitVec 8) : (s.bwaitFirst p g).destOf p k f n = s.destOf p k f n := by
  obtain ⟨l, hl⟩ := bwaitFirst_insts s p g
  rw [hl]
  rfl

theorem bwaitFirst_paired (s : State) (p g q : Nat) : (s.bwaitFirst p g).paired q = s.paired q := by
  obtain ⟨l, hl⟩ := bwaitFirst_insts s p g
  rw [hl]
  rfl

/-- A BWAIT of a core that is no twin waits by what it finds. -/
theorem bwait_body {s : State} {p : Nat} (hs : s.paired p = false) (k g : Nat) (d b : BitVec 8) (wall : BitVec 1) (h : Hdr) :
    (match s.pairStatus p k (s.bwaitCase p g) (s.bwaitFirst p g) with
      | none => Res.hold
      | some (c, s1) => s1.startWait p k (if c = 2 then s1.primaryKind p k g else .bwait g none (some 0)) (s1.rS p k 2 b) wall
          (some (s1.destOf p k 0 d)) h) =
      (s.bwaitFirst p g).startWait p k (if s.bwaitCase p g = 2 then .bwait g none none else .bwait g none (some 0)) (s.rS p k 2 b) wall
        (some (s.destOf p k 0 d)) h := by
  have hfirst : (s.bwaitFirst p g).paired p = false := (bwaitFirst_paired s p g p).trans hs
  rw [pairStatus_alone hs hfirst k (bwaitCase_lt s p g)]
  simp only [primaryKind_alone hfirst, bwaitFirst_rS, bwaitFirst_destOf]

/-! ## The wait words -/

/-- Settles O15: each word begins its wait where its own conditions hold, and every wait begins with one of the three endings. -/
theorem waitWords : Obligations.WaitWords := by
  unfold Obligations.WaitWords
  intro h d a b wall always start dl none' dest
  refine ⟨?join, ?sleep, ?wdrain, fun classes scope => ?fence, fun g => ?bwait, ?recv, ?waitseq, fun u => ?sstep⟩
  case join => exact waitsFor_of (exec_join h d b wall) rfl fun _ _ _ _ => rfl
  case sleep => exact waitsFor_of (exec_sleep h d a b wall) rfl fun _ _ _ _ => rfl
  case wdrain =>
    refine waitsFor_of (exec_wdrain h d b wall) rfl fun p k x hin => if_neg fun hout => ?_
    obtain ⟨hn, houtside⟩ := hout
    have hbounds := hin.resolve_left hn
    omega
  case fence => exact waitsFor_of (exec_fence h d b classes scope wall) rfl fun _ _ _ _ => rfl
  case bwait => exact waitsFor_of (exec_bwait h d g b wall) rfl fun p k x hpair => bwait_body hpair k g.toNat d b wall h
  case recv => exact waitsFor_of (exec_recv h d a b wall) rfl fun _ _ _ _ => rfl
  case waitseq => exact waitsFor_of (exec_waitseq h d a b wall) rfl fun _ _ _ _ => rfl
  case sstep =>
    intro carried arrive
    refine waitsFor_of (exec_sstep h a b u wall) rfl fun p k x ok => ?_
    obtain ⟨hcarry, hplan, hheld⟩ := ok
    dsimp only
    rw [hcarry]
    dsimp only
    rw [hplan]
    exact if_neg (by simp [hheld])

end Sys2Proof.Machine

/-! PROOFS. The run of an engine command (R108, R131, R309 to R312, R323 to R327, R353, R358). -/

namespace Sys2Proof.Machine

/-! ## The twin of a core after charges and walks -/

theorem paired_of_place {s t : State} {p : Nat} (h : (t.core p).place = (s.core p).place) : t.paired p = s.paired p := by
  simp only [State.paired, h]

theorem place_pay (s : State) (p k n : Nat) : ((s.pay p k n).core p).place = (s.core p).place :=
  (congrArg Core.place (kept_pay s p k n).1 :)

theorem place_payFor (s : State) (p h n : Nat) : ((s.payFor p h n).core p).place = (s.core p).place := by
  unfold State.payFor
  split
  · exact place_pay ..
  · next hne =>
    extract_lets left s1
    have hs1 : s1.core p = s.core p := core_modCore_other (Ne.symm hne)
    split <;> exact congrArg Core.place hs1

theorem place_walked (s : State) (p : Nat) (va : Word) : ((s.walked p va).core p).place = (s.core p).place :=
  (congrArg Core.place (recorded_walked s p va).kept :)

/-- The walks of the parts of an operation leave what the core is paired with. -/
theorem paired_walks (p : Nat) (l : List Part) (s : State) :
    (l.foldl (fun y x => if x.loc.isSome then y else y.walked p x.va) s).paired p = s.paired p := by
  induction l generalizing s with
  | nil => rfl
  | cons x l ih =>
    rw [List.foldl_cons, ih]
    split
    · rfl
    · exact paired_of_place (place_walked ..)

/-! ## One step of a command's work -/

section
variable {s : State} {p slot : Nat} {m : Cmd} {f : Runner} {c : Piece} {xs : List (Part × Nat × Bool × Bool)}

theorem workAt_read (hp : s.paired p = false) (hr : c.reading = true) :
    s.workAt p slot m f c xs = .next (s.modCmd p slot m.seq fun _ => m.hasRead c (xs.map fun x => (x.1, s.engBytes p x.2.1 x.1.n))) := by
  simp only [State.workAt, hp, hr, Bool.and_false, Bool.false_eq_true, if_false, if_true]

theorem workAt_write (hp : s.paired p = false) (hr : c.reading = false) :
    let w := s.engStores p m (f.full m) (xs.zip (xs.map fun x => (f.value m c x.1.num).1))
    s.workAt p slot m f c xs = .next (w.2.modCmd p slot m.seq fun _ =>
      w.1.hasWritten c (xs.map (·.1)) ((xs.map fun x => (f.value m c x.1.num).2).foldl (fun a v => a ||| v) 0)) := by
  simp only [State.workAt, hp, hr, Bool.and_false, Bool.false_eq_true, if_false, List.map_map, List.foldl_map, Function.comp_def]

variable {l : List Part}

/-- An operation whose parts lead somewhere takes place there, once its charge is paid and its walks are made. -/
theorem workStep_ok (hpick : m.pick s.freeWord.toNat = some (c, l)) (hat : s.partsAt p m.sup (!c.reading) l = .ok xs)
    (hpay : s.canPay (m.engineOf p) (xs.map fun x => s.toll (m.engineOf p) x.1 x.2.1).sum = true) :
    s.workStep p slot m f = (l.foldl (fun y x => if x.loc.isSome then y else y.walked p x.va)
      (s.drawn.payFor p (m.engineOf p) (xs.map fun x => s.toll (m.engineOf p) x.1 x.2.1).sum)).workAt p slot m f c xs := by
  simp only [State.workStep, hpick, hat, hpay, Bool.not_true, Bool.false_eq_true, if_false]

theorem workStep_fault {kind cause : Nat} {va : Word} (hpick : m.pick s.freeWord.toNat = some (c, l))
    (hat : s.partsAt p m.sup (!c.reading) l = .fault kind cause va) : s.workStep p slot m f = s.drawn.engSnag p slot m kind cause va := by
  simp only [State.workStep, hpick, hat]

theorem engSnag_next {t : State} {kind cause : Nat} {va : Word}
    (h : s.engFault p slot m kind cause va (fun j x => { x with phase := .snagged j, started := true })
      (fun x => { x with phase := .finished, started := true, status := 2 }) = some t) : s.engSnag p slot m kind cause va = .next t := by
  rw [State.engSnag, h]

end

/-! ## One step of a command -/

section
variable {e : Ecw} {eop : Nat} {f : Runner} {s : State} {m : Cmd}
variable (hrun : s.runnable s.focus.pcid s.focus.slot = some m) (hop : m.eop = eop) (hecw : m.ecw = e)
include hrun hop hecw

theorem runCmd_work (hwork : m.work ≠ []) : runCmd eop e f s = s.workStep s.focus.pcid s.focus.slot m f := by
  simp [runCmd, hrun, hop, hecw, hwork]

variable (hwork : m.work = [])
include hwork

theorem runCmd_go {s1 : State} {m1 : Cmd} (hgo : f.go s.focus.pcid s.focus.slot m s = .go s1 m1) :
    runCmd eop e f s = .next (s1.modCmd s.focus.pcid s.focus.slot m.seq fun _ => { m1 with started := true }) := by
  simp [runCmd, hrun, hop, hecw, hwork, hgo]

theorem runCmd_done {s1 : State} {st ev rl : Nat} (hgo : f.go s.focus.pcid s.focus.slot m s = .done s1 st ev rl) :
    runCmd eop e f s = .next (s1.endCmd s.focus.pcid s.focus.slot m st ev rl) := by
  simp [runCmd, hrun, hop, hecw, hwork, hgo]

theorem runCmd_snag {s1 : State} {kind cause : Nat} {va : Word} (hgo : f.go s.focus.pcid s.focus.slot m s = .snag s1 kind cause va) :
    runCmd eop e f s = s1.engSnag s.focus.pcid s.focus.slot m kind cause va := by
  simp [runCmd, hrun, hop, hecw, hwork, hgo]

end

/-! ## The last stage of each rule -/

section
variable {p slot : Nat} {m : Cmd} {s : State}

theorem cpyRun_last (full : Bool) (h : m.stage = 2) : (cpyRun full).go p slot m s = .done s 0 0 0 := by simp only [cpyRun, h]

theorem sigRun_last (h : m.stage = 2) : sigRun.go p slot m s = .done s 0 0 0 := by simp only [sigRun, h]

theorem cpysRun_last (h : m.stage = 2) : cpysRun.go p slot m s = .done s 0 0 0 := by simp only [cpysRun, h]

theorem cpygRun_last (h : m.stage = 3) : cpygRun.go p slot m s = .done s 0 0 0 := by simp only [cpygRun, h]

theorem cpymxRun_last (h : m.stage = 2) : cpymxRun.go p slot m s = .done s 0 0 0 := by simp only [cpymxRun, h]

theorem collGo_last {e : Ecw} {fields listDst : Bool} {align entry : Nat} {g : List Word → Word → List Piece} (h : m.stage = 3) :
    collGo e fields listDst align entry g m s = .done s 0 0 0 := by simp only [collGo, h]

theorem credRun_last (h : m.stage = 3) : credRun.go p slot m s = .done s 0 0 0 := by simp only [credRun, collGo_last h]

theorem credxRun_last (h : m.stage = 3) : credxRun.go p slot m s = .done s 0 0 0 := by simp only [credxRun, collGo_last h]

theorem collCopyRun_last (gather : Bool) (h : m.stage = 3) : (collCopyRun gather).go p slot m s = .done s 0 0 0 := by
  simp only [collCopyRun, collGo_last h]

theorem matrixRun_last (h : m.stage = 6) : matrixRun.go p slot m s = .done s 0 m.events m.reload := if_pos h

/-- The results of a matrix command go into the tile that it names (R325). -/
theorem matrixRun_stores {t : Tile} (hstage : m.stage = 5) (hspace : fieldNat m.ecw.dst 53 3 = 5) (htile : s.tileDesc p m.ecw.dst = some t)
    (hclean : m.ecw.ofl.getLsbD 0 = true ∨ s.tilePoison (cluOf p) t (rowsOf m.ecw) = none)
    (hpay : s.canPay p (rowsOf m.ecw * 8 * s.charge p 14) = true) :
    let w := (s.pay p 0 (rowsOf m.ecw * 8 * s.charge p 14)).storeTile p m t
    matrixRun.go p slot m s = .done (w.1.cleanTile (cluOf p) t (rowsOf m.ecw)) 0 (m.events ||| w.2) m.reload := by
  have hnone : (if m.ecw.ofl.getLsbD 0 then none else s.tilePoison (cluOf p) t (rowsOf m.ecw)) = none := by
    split
    · rfl
    · next h => exact hclean.resolve_left h
  have hgo : matrixRun.go p slot m s = s.storeResults p m := by
    change matrixGo p slot m s = _
    unfold matrixGo
    rw [if_neg (by omega), if_pos hstage]
  rw [hgo]
  simp only [State.storeResults, hspace, htile, hnone, hpay, if_true, Bool.not_true, Bool.false_eq_true, if_false]

/-- A load of a residency ends where its metadata keeps the rule (R323). -/
theorem wloadRun_last {r : Residency} (hstage : m.stage = 2) (hres : s.liveRes p m.ecw.hc.toNat = some r) :
    wloadRun.go p slot m s = match s.endFill p m r with
      | some s1 => .done s1 0 0 0
      | none => .done s 1 0 0 := by
  change wloadGo p m s = _
  simp only [wloadGo, hres, hstage]
  rfl

end

/-- What ends a command of an opcode in its last stage: the rule of the array, that of the loads of residencies, or one that ends with nothing to
report. -/
inductive EndsBy (eop : Nat) (f : Runner) : Prop where
  | matrix (hop : eop ≤ 0x1A) (hf : f = matrixRun)
  | wload (hop : eop = 0x20) (hf : f = wloadRun)
  | plain (hop : 0x1A < eop) (hw : eop ≠ 0x20) (hf : ∀ p slot m s, m.stage = lastStage eop → f.go p slot m s = .done s 0 0 0)

theorem exec_command {e : Ecw} {i : Instr} {eop : Nat} {f : Runner} (h : (i, eop, f) ∈ commandsOf e) (s : State) :
    exec i s = runCmd eop e f s := by
  have hall : ∀ x ∈ commandsOf e, exec x.1 s = runCmd x.2.1 e x.2.2 s := by
    rw [← List.forall_iff_forall_mem]
    simp only [commandsOf, List.Forall]
    iterate 31 refine ⟨rfl, ?_⟩
    rfl
  exact hall _ h

theorem endsBy_command {e : Ecw} {i : Instr} {eop : Nat} {f : Runner} (h : (i, eop, f) ∈ commandsOf e) : EndsBy eop f := by
  have hall : ∀ x ∈ commandsOf e, EndsBy x.2.1 x.2.2 := by
    rw [← List.forall_iff_forall_mem]
    simp only [commandsOf, List.Forall]
    iterate 20 refine ⟨.matrix (by decide) rfl, ?_⟩
    exact ⟨.wload rfl rfl, .plain (by decide) (by decide) fun _ _ _ _ => sigRun_last,
      .plain (by decide) (by decide) fun _ _ _ _ => cpyRun_last false, .plain (by decide) (by decide) fun _ _ _ _ => cpysRun_last,
      .plain (by decide) (by decide) fun _ _ _ _ => cpygRun_last, .plain (by decide) (by decide) fun _ _ _ _ => cpyRun_last true,
      .plain (by decide) (by decide) fun _ _ _ _ => cpymxRun_last, .plain (by decide) (by decide) fun _ _ _ _ => sigRun_last,
      .plain (by decide) (by decide) fun _ _ _ _ => credRun_last, .plain (by decide) (by decide) fun _ _ _ _ => credxRun_last,
      .plain (by decide) (by decide) fun _ _ _ _ => collCopyRun_last true,
      .plain (by decide) (by decide) fun _ _ _ _ => collCopyRun_last false⟩
  exact hall _ h

/-- In its last stage a command other than WLOAD ends, a matrix command with its events and its reload time. -/
theorem EndsBy.last {eop : Nat} {f : Runner} (h : EndsBy eop f) (hw : eop ≠ 0x20) {p slot : Nat} {m : Cmd} {s : State}
    (hstage : m.stage = lastStage eop) :
    f.go p slot m s = .done s 0 (if eop ≤ 0x1A then m.events else 0) (if eop ≤ 0x1A then m.reload else 0) := by
  cases h with
  | matrix hop hf => rw [hf, matrixRun_last (hstage.trans (if_pos hop)), if_pos hop, if_pos hop]
  | wload hop _ => exact absurd hop hw
  | plain hop _ hf => rw [hf p slot m s hstage, if_neg (Nat.not_le.mpr hop), if_neg (Nat.not_le.mpr hop)]

theorem EndsBy.matrixRun {eop : Nat} {f : Runner} (h : EndsBy eop f) (hop : eop ≤ 0x1A) : f = Machine.matrixRun := by
  cases h with
  | matrix _ hf => exact hf
  | wload hop' _ => omega
  | plain hop' _ _ => omega

theorem EndsBy.wloadRun {f : Runner} (h : EndsBy 0x20 f) : f = Machine.wloadRun := by
  cases h with
  | matrix hop _ => exact absurd hop (by decide)
  | wload _ hf => exact hf
  | plain _ hw _ => exact absurd rfl hw

/-- Settles O27: a command with work left takes the step of its work, and one without the step of its rule, by the stage that it is in. -/
theorem engineCommands : Obligations.EngineCommands := by
  unfold Obligations.EngineCommands
  intro e i eop run s m hmem p slot hrun hop hecw
  have hends := endsBy_command hmem
  rw [exec_command hmem]
  refine ⟨fun hwork c l hpick => ?_, fun hwork => ⟨fun hstage hw => ?_, fun hmat hstage hspace t htile hclean hpay => ?_,
    fun hload hstage r hres => ?_, fun s1 m1 hgo => runCmd_go hrun hop hecw hwork hgo,
    fun s1 st ev rl hgo => runCmd_done hrun hop hecw hwork hgo, fun s1 s2 kind cause va hgo hfault => ?_⟩⟩
  · rw [runCmd_work hrun hop hecw hwork]
    refine ⟨fun xs hat hpair hpay => ?_, fun kind cause va s2 hat hfault => ?_⟩
    · have hpaid : ∀ n, (s.drawn.payFor p (m.engineOf p) n).paired p = false := fun n =>
        (paired_of_place (place_payFor s.drawn p (m.engineOf p) n)).trans hpair
      have hwalked := (paired_walks p l _).trans (hpaid (xs.map fun x => s.toll (m.engineOf p) x.1 x.2.1).sum)
      rw [workStep_ok hpick hat hpay]
      exact ⟨workAt_read hwalked, workAt_write hwalked⟩
    · rw [workStep_fault hpick hat]
      exact engSnag_next hfault
  · exact runCmd_done hrun hop hecw hwork (hends.last hw hstage)
  · rw [hends.matrixRun hmat]
    subst hecw
    exact runCmd_done hrun hop rfl hwork (matrixRun_stores hstage hspace htile hclean hpay)
  · subst hload hecw
    rw [hends.wloadRun]
    have hgo := wloadRun_last (slot := slot) hstage hres
    cases hfill : s.endFill p m r with
    | some s1 =>
      rw [hfill] at hgo
      exact runCmd_done hrun hop rfl hwork hgo
    | none =>
      rw [hfill] at hgo
      exact runCmd_done hrun hop rfl hwork hgo
  · rw [runCmd_snag hrun hop hecw hwork hgo]
    exact engSnag_next hfault

end Sys2Proof.Machine

/-! PROOFS. When the writes of a word to its header row take place at once: what every instruction leaves of the writes that are pending on one row of
one core, of the row's locks and of the core's program-order numbers (R68, R73, R114). -/

namespace Sys2Proof.Machine

/-! ## A watched row -/

/-- What the watched core does while an instruction runs. -/
inductive Watch.Mode where
  /-- It issues no word and takes no trap, and only its program-order number is watched. -/
  | numbers
  /-- The word of the watched number has no effect yet. -/
  | rests
  /-- The word of the watched number takes effect, in the watched cycle of the core. -/
  | acts

/-- What is watched while an instruction runs: one row of a core, and the writes to it that a program-order number binds at latency 1 in a cycle of
the core; the rows that are being read, which APPEND adds to
(R306); and of a core without a place how many free values have been drawn, as an image that is loaded to it draws one (R336, R351). -/
structure Watch where
  core : Nat
  row : Nat
  id : Nat
  cycle : Nat
  reading : List (Nat × Nat)
  drawn : Option Nat
  mode : Watch.Mode

/-- A pending write of the watched number that was due a cycle later. -/
def Watch.counts (A : Watch) (l : Late) : Bool := decide (l.id = A.id) && decide (l.row = A.row) && decide (l.due = A.cycle + 1)

/-- An operation returns to the watched row for no word before the watched one. -/
def Watch.SparesOp (A : Watch) (o : MemOp) : Prop := o.row = some A.row → A.id ≤ o.id

/-- What a strand has bound spares the watched row. -/
def Watch.Spares (A : Watch) (t : Strand) : Prop := ∀ e ∈ t.boundWrites, e.2.1 = A.row → A.id ≤ e.1

/-- A row that takes writes at once: it is not locked, no write of it is pending from before the watched number, and no watched write has been put
off. -/
structure Core.Free (A : Watch) (c : Core) : Prop where
  late : ∀ l ∈ c.late, l.row = A.row → A.id ≤ l.id
  ops : ∀ o ∈ c.ops, A.SparesOp o
  snags : ∀ g ∈ c.sup.snags, ∀ o, g.owner = .op o → A.SparesOp o
  deferred : ∀ o l, Deferred.rmw o l ∈ c.exch.deferred → A.SparesOp o
  strands : ∀ t ∈ c.strands, A.Spares t.2
  unlocked : c.locked A.row = false
  prompt : ∀ l ∈ c.late, A.counts l = false

/-- What is kept of the watched core: where its word acts, until an APPEND reads a row. -/
def Core.Open (A : Watch) (c : Core) : Prop :=
  match A.mode with
  | .numbers => c.seq ≤ A.id
  | .rests => c.Free A
  | .acts => c.reading = A.reading → c.Free A ∧ c.seq = A.id ∧ c.cycle = A.cycle

/-- What of a core decides when its register writes take place. -/
structure Core.Face where
  late : List Late
  ops : List MemOp
  snags : List Snag
  deferred : List Deferred
  strands : AMap Strand
  locks : List Nat
  reading : List (Nat × Nat)
  cycle : Nat
  seq : Nat

abbrev Core.face (c : Core) : Core.Face :=
  ⟨c.late, c.ops, c.sup.snags, c.exch.deferred, c.strands, c.locks, c.reading, c.cycle, c.seq⟩

/-- The cycle of a core, its count of words and the rows that are being read. -/
abbrev Core.stamp (c : Core) : Nat × Nat × List (Nat × Nat) := (c.cycle, c.seq, c.reading)

/-- What of a strand decides which rows it has bound. -/
abbrev Strand.binding (t : Strand) : Option Wait × Option FuseReq := (t.wait, t.fuse)

theorem mem_put {α : Type} {k : Nat} {v : α} {m : AMap α} {e : Nat × α} (h : e ∈ put k v m) : e = (k, v) ∨ e ∈ m := by
  induction m with
  | nil => exact .inl (List.mem_singleton.mp h)
  | cons a m ih =>
    unfold put at h
    split at h
    · exact (List.mem_cons.mp h)
    · split at h
      · exact (List.mem_cons.mp h).imp_right (.tail _)
      · rcases List.mem_cons.mp h with rfl | h
        · exact .inr (.head _)
        · exact (ih h).imp_right (.tail _)

theorem look_of {α : Type} {P : α → Prop} {d : α} {k : Nat} {m : AMap α} (hd : P d) (hm : ∀ e ∈ m, P e.2) : P (look d k m) := by
  induction m with
  | nil => exact hd
  | cons a m ih =>
    unfold look
    split
    · exact hm a (.head _)
    · exact ih fun e he => hm e (.tail _ he)

section
variable {A : Watch} {c d : Core}

theorem Core.Free.free (h : c.Free A) : ∀ e ∈ c.pendings, e.2.1 = A.row → A.id ≤ e.1 := by
  intro e he hrow
  have ofOp : ∀ o : MemOp, A.SparesOp o → (e ∈ match o.row with
      | some r => [(o.id, r, rowMask o.bit o.width)]
      | none => []) → A.id ≤ e.1 := by
    intro o ho he
    split at he
    · next r hr =>
      rw [List.mem_singleton.mp he] at hrow ⊢
      exact ho (hr.trans (congrArg some hrow))
    · simp at he
  simp only [Core.pendings, List.mem_append, List.mem_map, List.mem_flatMap] at he
  rcases he with (((⟨l, hl, rfl⟩ | ⟨o, ho, he⟩) | ⟨g, hg, he⟩) | ⟨x, hx, he⟩) | ⟨t, ht, he⟩
  · exact h.late l hl hrow
  · exact ofOp o (h.ops o ho) he
  · split at he
    · next o ho => exact ofOp o (h.snags g hg o ho) he
    · simp at he
  · split at he
    · next o l => exact ofOp o (h.deferred o l hx) he
    · simp at he
  · exact h.strands t ht e he hrow

/-- A write of the watched number or of one before it is not blocked. -/
theorem Core.Free.not_blocked (h : c.Free A) {id : Nat} (hid : id ≤ A.id) (m : Row) : c.blocked id A.row m = false := by
  simp only [Core.blocked, List.any_eq_false, Bool.and_eq_true, decide_eq_true_eq, not_and, and_imp]
  intro e he hrow hlt
  have := h.free e he hrow
  omega

theorem Core.Free.of_face (h : c.Free A) (hf : d.face = c.face) : d.Free A := by
  have hlate : d.late = c.late := (congrArg Core.Face.late hf :)
  have hops : d.ops = c.ops := (congrArg Core.Face.ops hf :)
  have hsnags : d.sup.snags = c.sup.snags := (congrArg Core.Face.snags hf :)
  have hdeferred : d.exch.deferred = c.exch.deferred := (congrArg Core.Face.deferred hf :)
  have hstrands : d.strands = c.strands := (congrArg Core.Face.strands hf :)
  have hlocks : d.locks = c.locks := (congrArg Core.Face.locks hf :)
  have hreading : d.reading = c.reading := (congrArg Core.Face.reading hf :)
  have hcycle : d.cycle = c.cycle := (congrArg Core.Face.cycle hf :)
  refine ⟨hlate ▸ h.late, hops ▸ h.ops, hsnags ▸ h.snags, hdeferred ▸ h.deferred, hstrands ▸ h.strands, ?_, hlate ▸ h.prompt⟩
  rw [← h.unlocked, Core.locked, hlocks, hreading, hcycle]
  rfl

/-- A row of a core with no pending write of it and no lock is free. -/
theorem Core.Free.of_idle (hbusy : c.busy A.row = false) (hlocked : c.locked A.row = false) : c.Free A := by
  have idle : ∀ e ∈ c.pendings, e.2.1 ≠ A.row := by simpa [Core.busy] using hbusy
  simp only [Core.pendings, List.mem_append, List.mem_map, List.mem_flatMap] at idle
  refine ⟨fun l hl hrow => ?_, fun o ho hrow => ?_, fun g hg o hown hrow => ?_, fun o l hd hrow => ?_, fun t ht e he hrow => ?_, hlocked, fun l hl => ?_⟩
  · exact absurd hrow (idle _ (.inl (.inl (.inl (.inl ⟨l, hl, rfl⟩)))))
  · exact absurd rfl (idle (o.id, A.row, rowMask o.bit o.width) (.inl (.inl (.inl (.inr ⟨o, ho, by simp [hrow]⟩)))))
  · exact absurd rfl (idle (o.id, A.row, rowMask o.bit o.width) (.inl (.inl (.inr ⟨g, hg, by simp [hown, hrow]⟩))))
  · exact absurd rfl (idle (o.id, A.row, rowMask o.bit o.width) (.inl (.inr ⟨_, hd, by simp [hrow]⟩)))
  · exact absurd hrow (idle e (.inr ⟨t, ht, he⟩))
  · have hrow : l.row ≠ A.row := idle _ (.inl (.inl (.inl (.inl ⟨l, hl, rfl⟩))))
    simp [Watch.counts, hrow]

/-- A core whose number and cycle stay is open still where its row is still free. -/
theorem Core.Open.map (h : c.Open A) (hsame : d.stamp = c.stamp) (hf : c.Free A → d.Free A) : d.Open A := by
  obtain ⟨hcycle, hseq, hreading⟩ : d.cycle = c.cycle ∧ d.seq = c.seq ∧ d.reading = c.reading := by simpa using hsame
  unfold Core.Open at h ⊢
  split at h
  · exact hseq.trans_le h
  · exact hf h
  · intro hr
    obtain ⟨hfree, hs, hc⟩ := h (hreading.symm.trans hr)
    exact ⟨hf hfree, hseq.trans hs, hcycle.trans hc⟩

theorem Core.Open.of_face (h : c.Open A) (hf : d.face = c.face) : d.Open A :=
  h.map (congrArg (fun x : Core.Face => (x.cycle, x.seq, x.reading)) hf :) (·.of_face hf)

theorem Core.Open.of_seq [hn : Fact (A.mode = .numbers)] (h : c.Open A) (hseq : d.seq ≤ c.seq) : d.Open A := by
  unfold Core.Open at h ⊢
  simp only [hn.out] at h ⊢
  exact hseq.trans h

theorem Core.Open.of_free [hr : Fact (A.mode = .rests)] (h : c.Open A) (hf : c.Free A → d.Free A) : d.Open A := by
  unfold Core.Open at h ⊢
  simp only [hr.out] at h ⊢
  exact hf h

/-! ### The pieces of a core -/

theorem Core.Free.setStrand {k : Nat} {t : Strand} (h : c.Free A) (ht : A.Spares t) : (c.setStrand k t).Free A where
  late := h.late
  ops := h.ops
  snags := h.snags
  deferred := h.deferred
  strands x hx := by
    rcases mem_put hx with rfl | hx
    · exact ht
    · exact h.strands x hx
  unlocked := h.unlocked
  prompt := h.prompt

theorem Core.Free.mapStrands {f : Nat × Strand → Nat × Strand} (h : c.Free A) (hf : ∀ t, A.Spares t.2 → A.Spares (f t).2) :
    Core.Free A { c with strands := c.strands.map f } where
  late := h.late
  ops := h.ops
  snags := h.snags
  deferred := h.deferred
  strands := by
    intro t ht
    obtain ⟨u, hu, rfl⟩ := List.mem_map.mp ht
    exact hf u (h.strands u hu)
  unlocked := h.unlocked
  prompt := h.prompt

/-- A wait that changes its kind, but is no RECV before or after, binds what it bound. -/
theorem Watch.Spares.withKind {t : Strand} {w : Wait} {kind : WaitKind} (h : A.Spares t) (hw : t.wait = some w)
    (hold : ∀ row hd, w.kind ≠ .recv row hd) (hnew : ∀ row hd, kind ≠ .recv row hd) :
    A.Spares { t with wait := some { w with kind := kind } } := by
  have hsame : Strand.boundWrites { t with wait := some { w with kind := kind } } = t.boundWrites := by
    simp only [Strand.boundWrites, hw]
  rw [Watch.Spares, hsame]
  exact h

theorem Core.Free.strand (h : c.Free A) (k : Nat) : A.Spares (c.strand k) :=
  look_of (P := A.Spares) (fun e he => by simp [Strand.boundWrites, Strand.idle] at he) h.strands

end
section
variable {A : Watch} {c : Core}

/-- A write that the watched number does not bind a cycle later, and none from before it, may wait. -/
theorem Core.Free.putOff {l : Late} (h : c.Free A) (hid : l.row = A.row → A.id ≤ l.id) (hl : A.counts l = false) :
    Core.Free A { c with late := c.late ++ [l] } where
  late x hx := by
    rcases List.mem_append.mp hx with hx | hx
    · exact h.late x hx
    · exact List.mem_singleton.mp hx ▸ hid
  ops := h.ops
  snags := h.snags
  deferred := h.deferred
  strands := h.strands
  unlocked := h.unlocked
  prompt x hx := by
    rcases List.mem_append.mp hx with hx | hx
    · exact h.prompt x hx
    · exact List.mem_singleton.mp hx ▸ hl

theorem Core.Free.withSeq {n : Nat} (h : c.Free A) : Core.Free A { c with seq := n } where
  late := h.late
  ops := h.ops
  snags := h.snags
  deferred := h.deferred
  strands := h.strands
  unlocked := h.unlocked
  prompt := h.prompt

/-- A strand that has bound no more than before spares the row still. -/
theorem Watch.Spares.of_unbound {t u : Strand} (h : A.Spares t) (hw : u.wait = none) (hf : u.fuse = t.fuse ∨ u.fuse = none) : A.Spares u := by
  intro e he
  simp only [Strand.boundWrites, hw, List.nil_append] at he
  rcases hf with hf | hf <;> rw [hf] at he
  · exact h e (List.mem_append_right _ he)
  · simp at he

theorem Watch.Spares.of_same {t u : Strand} (h : A.Spares t) (hw : u.wait = t.wait) (hf : u.fuse = t.fuse) : A.Spares u := by
  rw [Watch.Spares, Strand.boundWrites, hw, hf]
  exact h

theorem Watch.Spares.of_unfused {t u : Strand} (h : A.Spares t) (hw : u.wait = t.wait) (hf : u.fuse = none) : A.Spares u := by
  intro e he
  simp only [Strand.boundWrites, hw, hf, Option.map_none, Option.toList_none, List.append_nil] at he
  exact h e (List.mem_append_left _ he)

theorem Watch.Spares.withWait {t : Strand} {w : Wait} (h : A.Spares t) (hid : A.id ≤ w.id) : A.Spares { t with wait := some w } := by
  intro e he hrow
  simp only [Strand.boundWrites, List.mem_append] at he
  rcases he with (he | he) | he
  · obtain ⟨d, _, rfl⟩ : ∃ d, w.dest = some d ∧ d.bound w.id = e := by simpa using he
    exact hid
  · split at he
    · rcases List.mem_cons.mp he with rfl | he
      · exact hid
      · rw [List.mem_singleton.mp he]
        exact hid
    · simp at he
  · exact h e (List.mem_append_right _ he) hrow

theorem Watch.Spares.withFuse {t : Strand} {f : FuseReq} (h : A.Spares t) (hid : A.id ≤ f.id) : A.Spares { t with fuse := some f } := by
  intro e he hrow
  simp only [Strand.boundWrites, List.mem_append] at he
  rcases he with he | he
  · refine h e ?_ hrow
    simp only [Strand.boundWrites, List.mem_append]
    exact .inl he
  · have : e = f.dest.bound f.id := by simpa using he
    rw [this]
    exact hid

theorem Watch.Spares.retire {t : Strand} : A.Spares t.retire := fun e he => by simp [Strand.boundWrites, Strand.retire] at he

theorem Watch.Spares.finish {t : Strand} {k : Nat} : A.Spares (t.finish k) := by
  unfold Strand.finish
  split
  · exact fun e he => by simp [Strand.boundWrites, Strand.retire] at he
  · exact .retire

end

/-! ## States in which the watched row is open -/

/-- The watched row of the watched core is open, as long as no more free values are drawn. -/
def State.Calm (A : Watch) (s : State) : Prop := (∀ n, A.drawn = some n → s.fresh ≤ n) → (s.core A.core).Open A

section
variable {A : Watch} {s : State} {p k : Nat}

theorem State.Calm.of_core {t : State} (hs : s.Calm A) (h : t.core A.core = s.core A.core) (hf : s.fresh ≤ t.fresh) :
    t.Calm A := fun hd => by
  rw [h]
  exact hs fun n hn => hf.trans (hd n hn)

theorem State.Calm.of_cores {t : State} (hs : s.Calm A) (h : t.cores = s.cores) (hf : s.fresh ≤ t.fresh) : t.Calm A :=
  hs.of_core (core_congr h _) hf

theorem State.Calm.setOpen {c : Core} (hs : s.Calm A) (h : (s.core p).Open A → c.Open A) : (s.setCore p c).Calm A := by
  by_cases hp : A.core = p
  · subst hp
    rw [State.Calm, core_setCore_same]
    exact fun hd => h (hs hd)
  · exact hs.of_core (core_setCore_other hp) (Nat.le_refl _)

/-- A core takes another one's place that decides its writes as that one did. -/
theorem State.Calm.setCore {c : Core} (hs : s.Calm A) (h : c.face = (s.core p).face) : (s.setCore p c).Calm A :=
  hs.setOpen (·.of_face h)

theorem State.Calm.setSeq [Fact (A.mode = .numbers)] {c : Core} (hs : s.Calm A) (h : c.seq ≤ (s.core p).seq) : (s.setCore p c).Calm A :=
  hs.setOpen (·.of_seq h)

/-- A change of a core that leaves what decides when its writes take place. -/
theorem State.Calm.modCore {f : Core → Core} (hs : s.Calm A) (h : ∀ c, (f c).face = c.face) : (s.modCore p f).Calm A :=
  hs.setCore (h _)

theorem State.Calm.modSeq [Fact (A.mode = .numbers)] {f : Core → Core} (hs : s.Calm A) (h : ∀ c, (f c).seq ≤ c.seq) :
    (s.modCore p f).Calm A :=
  hs.setSeq (h _)

/-- A change of a core that leaves the watched row free. -/
theorem State.Calm.modFree {f : Core → Core} (hs : s.Calm A) (hsame : ∀ c, (f c).stamp = c.stamp) (h : ∀ c, c.Free A → (f c).Free A) :
    (s.modCore p f).Calm A :=
  hs.setOpen (·.map (hsame _) (h _))

/-- A change of a strand that leaves its wait and its FUSE. -/
theorem State.Calm.modStrand {f : Strand → Strand} (hs : s.Calm A) (h : ∀ t, (f t).binding = t.binding) : (s.modStrand p k f).Calm A :=
  hs.modFree (fun _ => rfl) fun _ hc => hc.setStrand ((hc.strand k).of_same (congrArg Prod.fst (h _) :) (congrArg Prod.snd (h _) :))

/-- A strand leaves its wait, and its FUSE stays or ends. -/
theorem State.Calm.modUnbound {f : Strand → Strand} (hs : s.Calm A) (h : ∀ t, (f t).binding = (none, t.fuse) ∨ (f t).binding = (none, none)) :
    (s.modStrand p k f).Calm A :=
  hs.modFree (fun _ => rfl) fun _ hc => hc.setStrand <| (hc.strand k).of_unbound
    ((h _).elim (congrArg Prod.fst ·) (congrArg Prod.fst ·)) ((h _).imp (congrArg Prod.snd ·) (congrArg Prod.snd ·))

/-- A strand's FUSE ends. -/
theorem State.Calm.modUnfused {f : Strand → Strand} (hs : s.Calm A) (h : ∀ t, (f t).binding = (t.wait, none)) : (s.modStrand p k f).Calm A :=
  hs.modFree (fun _ => rfl) fun _ hc => hc.setStrand ((hc.strand k).of_unfused (congrArg Prod.fst (h _) :) (congrArg Prod.snd (h _) :))

/-- A change of the core in execution, whose program-order number what is added bears. -/
theorem State.Calm.growOpen [hm : Fact (A.mode ≠ .rests)] {c : Core} (hs : s.Calm A) (hsame : c.stamp = (s.core p).stamp)
    (h : A.id ≤ s.curId p → (s.core p).Free A → c.Free A) : (s.setCore p c).Calm A := by
  obtain ⟨hcycle, hseq, hreading⟩ : c.cycle = (s.core p).cycle ∧ c.seq = (s.core p).seq ∧ c.reading = (s.core p).reading := by simpa using hsame
  refine hs.setOpen fun ho => ?_
  unfold Core.Open at ho ⊢
  split at ho
  · exact hseq.trans_le ho
  · next hr => exact absurd hr hm.out
  · intro hr
    obtain ⟨hfree, hs, hc⟩ := ho (hreading.symm.trans hr)
    exact ⟨h hs.ge hfree, hseq.trans hs, hcycle.trans hc⟩

theorem State.Calm.blendRow {r : Nat} {mask value : Row} (hs : s.Calm A) : (s.blendRow p r mask value).Calm A :=
  hs.modCore fun _ => rfl

theorem State.Calm.putWord {r w : Nat} {v : Word} (hs : s.Calm A) : (s.putWord p r w v).Calm A :=
  hs.blendRow

/-- A write at latency at most 1 of the watched row takes place at once, or is from after the watched number. -/
theorem State.Calm.writeRowSoon {id r lat : Nat} {mask value : Row} (hs : s.Calm A) (hlat : lat ≤ 1) :
    (s.writeRowAs id p r lat mask value).Calm A := by
  unfold State.writeRowAs
  split
  · exact hs.blendRow
  · next hw =>
    refine hs.setOpen fun ho => ho.map rfl fun hc => ?_
    have hlater : r = A.row → A.id < id := fun hr => by
      subst hr
      by_contra hid
      exact hw ⟨hlat, hc.not_blocked (by omega) mask, hc.unlocked⟩
    refine hc.putOff (fun hr => (hlater hr).le) ?_
    simp only [Watch.counts, Bool.and_eq_false_iff, decide_eq_false_iff_not]
    by_cases hr : r = A.row
    · exact .inl (.inl (Nat.ne_of_gt (hlater hr)))
    · exact .inl (.inr hr)

theorem State.Calm.writeRowAs {id r : Nat} {mask value : Row} (hs : s.Calm A) : (s.writeRowAs id p r 1 mask value).Calm A :=
  hs.writeRowSoon (Nat.le_refl 1)

/-- The word in execution writes the watched row: at latency 1 at once, at a longer one not a cycle later. -/
theorem State.Calm.writeRow [hm : Fact (A.mode ≠ .rests)] {r lat : Nat} {mask value : Row} (hs : s.Calm A) :
    (s.writeRow p r lat mask value).Calm A := by
  by_cases hlat : lat ≤ 1
  · exact hs.writeRowSoon hlat
  unfold State.writeRow State.writeRowAs
  rw [if_neg (fun h => hlat h.1)]
  refine hs.setOpen fun ho => ?_
  unfold Core.Open at ho ⊢
  split at ho
  · exact ho
  · next h => exact absurd h hm.out
  · intro hreading
    obtain ⟨hc, hseq, hcycle⟩ := ho hreading
    refine ⟨hc.putOff (fun _ => hseq.ge) ?_, hseq, hcycle⟩
    simp only [Watch.counts, Bool.and_eq_false_iff, decide_eq_false_iff_not]
    exact .inr fun h => hlat (by omega)

theorem State.Calm.putHmask {w : Nat} {mask v : Word} (hs : s.Calm A) : (s.putHmask p k w mask v).Calm A :=
  hs.writeRowAs

theorem State.Calm.putHbits {w lo n v : Nat} (hs : s.Calm A) : (s.putHbits p k w lo n v).Calm A :=
  hs.putHmask

end

end Sys2Proof.Machine

/-! PROOFS. What leaves a watched row open: the outcomes, the operations of the state, traps and the words' issue (R53, R68, R174, R426). -/

namespace Sys2Proof.Machine

/-- The next state of an outcome, where it is one, is calm. -/
inductive NextCalm (A : Watch) : Host.Outcome State Fault Refusal → Prop where
  | next {t : State} (h : t.Calm A) : NextCalm A (.next t)
  | fault {f : Fault} : NextCalm A (.fault f)
  | refused {r : Refusal} : NextCalm A (.refused r)

/-- The state that a word's effect ends in is calm. -/
def Res.Calm (A : Watch) : Res → Prop
  | .done t => t.Calm A
  | .jump t => t.Calm A
  | _ => True

/-- The state that a step of a command's rule ends with is calm. -/
def Run.Calm (A : Watch) : Run → Prop
  | .go t _ => t.Calm A
  | .done t _ _ _ => t.Calm A
  | .snag t _ _ _ => t.Calm A
  | .poison t _ _ => t.Calm A
  | .wait => True

/-- A command's rule leaves the watched row open. -/
def Runner.Calm (A : Watch) (f : Runner) : Prop := ∀ p slot m s, s.Calm A → (f.go p slot m s).Calm A

section
variable {A : Watch}

theorem Res.Calm.done {t : State} (h : t.Calm A) : (Res.done t).Calm A := h
theorem Res.Calm.jump {t : State} (h : t.Calm A) : (Res.jump t).Calm A := h

theorem Run.Calm.getGo {r : Run} {t : State} {m : Cmd} (h : r.Calm A) (e : r = .go t m) : t.Calm A := by
  rw [e] at h
  exact h

theorem Run.Calm.getDone {r : Run} {t : State} {a b c : Nat} (h : r.Calm A) (e : r = .done t a b c) : t.Calm A := by
  rw [e] at h
  exact h

theorem Run.Calm.getSnag {r : Run} {t : State} {a b : Nat} {c : Word} (h : r.Calm A) (e : r = .snag t a b c) : t.Calm A := by
  rw [e] at h
  exact h

theorem Run.Calm.getPoison {r : Run} {t : State} {a b : Nat} (h : r.Calm A) (e : r = .poison t a b) : t.Calm A := by
  rw [e] at h
  exact h

theorem Run.Calm.ite {c : Prop} [Decidable c] {a b : Run} (ha : a.Calm A) (hb : b.Calm A) : (if c then a else b).Calm A := by
  split
  · exact ha
  · exact hb

theorem Runner.Calm.ite {c : Prop} [Decidable c] {a b : Runner} (ha : a.Calm A) (hb : b.Calm A) :
    (if c then a else b).Calm A := by
  split
  · exact ha
  · exact hb

theorem NextCalm.get {o : Host.Outcome State Fault Refusal} {t : State} (h : NextCalm A o) (e : o = .next t) : t.Calm A := by
  subst e
  cases h with
  | next h => exact h

theorem Res.Calm.get {r : Res} {t : State} (h : r.Calm A) (e : r = .done t) : t.Calm A := by
  rw [e] at h
  exact h

theorem Res.Calm.getJump {r : Res} {t : State} (h : r.Calm A) (e : r = .jump t) : t.Calm A := by
  rw [e] at h
  exact h

theorem NextCalm.ite {c : Prop} [Decidable c] {a b : Host.Outcome State Fault Refusal} (ha : NextCalm A a) (hb : NextCalm A b) :
    NextCalm A (if c then a else b) := by
  split
  · exact ha
  · exact hb

theorem Res.Calm.ite {c : Prop} [Decidable c] {a b : Res} (ha : a.Calm A) (hb : b.Calm A) : (if c then a else b).Calm A := by
  split
  · exact ha
  · exact hb

end

section
variable {A : Watch} {s src : State} {p k n : Nat} {h : Hdr} {o : MemOp} {w : WordSpec}

theorem State.Calm.ite {c : Prop} [Decidable c] {a b : State} (ha : a.Calm A) (hb : b.Calm A) : (if c then a else b).Calm A := by
  split
  · exact ha
  · exact hb

theorem State.Calm.foldl {α : Type} {f : State → α → State} {l : List α} (hs : s.Calm A)
    (hf : ∀ x a, x.Calm A → (f x a).Calm A) : (l.foldl f s).Calm A := by
  induction l generalizing s with
  | nil => exact hs
  | cons a l ih => exact ih (hf s a hs)

theorem foldl_fst_calm {α β : Type} {f : State × β → α → State × β} {l : List α} {b : β} (hs : s.Calm A)
    (hf : ∀ x a, x.1.Calm A → (f x a).1.Calm A) : (l.foldl f (s, b)).1.Calm A := by
  induction l generalizing s b with
  | nil => exact hs
  | cons a l ih => exact ih (hf (s, b) a hs)

theorem pair_ite_calm {α : Type} {c : Prop} [Decidable c] {a b : α × State} (ha : a.2.Calm A) (hb : b.2.Calm A) :
    (if c then a else b).2.Calm A := by
  split
  · exact ha
  · exact hb

theorem State.Calm.withFresh {m : Nat} (hs : s.Calm A) (hm : s.fresh ≤ m) : State.Calm A { s with fresh := m } :=
  hs.of_core rfl hm

theorem State.Calm.withPassed {t : Option Nat} (hs : s.Calm A) : State.Calm A { s with passed := t } := hs

/-! ### Rows, memory, accesses and the field book -/

theorem State.Calm.modCluster {f : Cluster → Cluster} (hs : s.Calm A) : (s.modCluster n f).Calm A :=
  hs

theorem State.Calm.modDie {f : Die → Die} (hs : s.Calm A) : (s.modDie n f).Calm A :=
  hs

theorem State.Calm.modQueue {f : PQueue → PQueue} (hs : s.Calm A) : (s.modQueue n f).Calm A :=
  hs

theorem State.Calm.modPart {f : Partition → Partition} (hs : s.Calm A) : (s.modPart n f).Calm A := by
  unfold State.modPart
  split <;> exact hs

theorem State.Calm.modTract {f : Tract → Tract} (hs : s.Calm A) : (s.modTract n f).Calm A := by
  unfold State.modTract
  split <;> exact hs

theorem State.Calm.modInst {f : Instance → Instance} (hs : s.Calm A) : (s.modInst n f).Calm A := by
  unfold State.modInst
  split <;> exact hs

theorem State.Calm.modCtx {f : DevCtx → DevCtx} (hs : s.Calm A) : (s.modCtx n f).Calm A := by
  unfold State.modCtx
  split <;> exact hs

theorem State.Calm.drawn (hs : s.Calm A) : s.drawn.Calm A :=
  hs.of_core rfl (Nat.le_succ _)

theorem State.Calm.setAside (hs : s.Calm A) : (s.setAside p k).Calm A :=
  .ite (hs.modStrand fun _ => rfl) hs

theorem State.Calm.putPred {q : Nat} {v : BitVec 16} (hs : s.Calm A) : (s.putPred p k q v).Calm A :=
  .ite hs hs.writeRowAs

theorem State.Calm.setInh [Fact (A.mode = .rests)] (hs : s.Calm A) : (s.setInh p k).Calm A :=
  State.Calm.putHbits (hs.setOpen (·.of_free (·.withSeq)))

theorem State.Calm.store {a : Nat} {bs : List Byte} (hs : s.Calm A) : (s.store a bs).Calm A :=
  hs

theorem State.Calm.setFull {a : Nat} {b : Bool} (hs : s.Calm A) : (s.setFull a b).Calm A :=
  hs

theorem State.Calm.cleanse {a : Nat} (hs : s.Calm A) : (s.cleanse a n).Calm A :=
  hs

theorem State.Calm.dropAt {d : Option Nat} (hs : s.Calm A) : (s.dropAt d).Calm A := by
  unfold State.dropAt
  split
  · exact hs.modDie
  · exact hs

theorem State.Calm.countDrop {w : Who} {cause va : Nat} (hs : s.Calm A) : (s.countDrop w cause va).Calm A :=
  hs.dropAt

theorem State.Calm.markStale {a : Nat} (hs : s.Calm A) : (s.markStale a n).Calm A :=
  hs

theorem State.Calm.logUndo {agent a : Nat} (hs : s.Calm A) : (s.logUndo agent a n).Calm A :=
  .ite (.foldl hs (fun _ _ hx => .ite (hx.setCore rfl) (.setCore (.of_core hx rfl (Nat.le_refl _)) rfl))) hs

theorem State.Calm.writeMem {a : Nat} {bs : List Byte} {rs : Bool} {full : Option Bool}
    (hs : s.Calm A) : (s.writeMem p a bs rs full).Calm A := by
  unfold State.writeMem
  dsimp only
  split
  · exact .ite (.ite hs.logUndo.store.markStale hs.logUndo.store) (.cleanse (.ite hs.logUndo.store.markStale hs.logUndo.store))
  · exact .foldl (.ite (.ite hs.logUndo.store.markStale hs.logUndo.store) (.cleanse (.ite hs.logUndo.store.markStale hs.logUndo.store)))
      (fun _ _ hx => hx.setFull)

theorem foldl_fresh {α : Type} {f : State → α → State} (hf : ∀ x a, (f x a).fresh = x.fresh) (l : List α) (x : State) :
    (l.foldl f x).fresh = x.fresh := by
  induction l generalizing x with
  | nil => rfl
  | cons a l ih => exact (ih _).trans (hf x a)

theorem logUndo_fresh (s : State) (agent a n : Nat) : (s.logUndo agent a n).fresh = s.fresh := by
  unfold State.logUndo
  dsimp only
  generalize (if 2 ^ 48 ≤ plain a ∧ plain a < 2 ^ 49 then (plain a - 2 ^ 48) / 2 ^ 17 else agent) = q
  split
  · refine foldl_fresh (fun x w => ?_) _ _
    split <;> rfl
  · rfl

theorem writeMem_fresh (s : State) (p a : Nat) (bs : List Byte) (rs : Bool) (full : Option Bool) : (s.writeMem p a bs rs full).fresh = s.fresh := by
  unfold State.writeMem
  extract_lets s1 s2 s3
  have h3 : s3.fresh = s.fresh := by
    refine Eq.trans ?_ (logUndo_fresh s p a bs.length)
    unfold s3 s2 s1
    split <;> split <;> rfl
  split
  · exact h3
  · exact (foldl_fresh (fun x i => State.setFull_fresh x _ _) _ _).trans h3

theorem State.Calm.install {e : TlbEntry} (hs : s.Calm A) : (s.install p e).Calm A :=
  (hs.drawn.modCore fun _ => by rfl).modCluster.modDie

theorem State.Calm.walked {va : Word} (hs : s.Calm A) : (s.walked p va).Calm A := by
  unfold State.walked
  split
  · exact hs
  refine .ite hs ?_
  split
  · exact hs
  · exact hs.install

theorem State.Calm.fbFault (hs : s.Calm A) : (s.fbFault p).Calm A :=
  hs.modCore fun _ => rfl

theorem State.Calm.fbLose (hs : s.Calm A) : (s.fbLose p).Calm A :=
  hs.modCore fun _ => rfl

theorem State.Calm.fbStore {l : Nat} {rs : Bool} {bs : List Byte} (hs : s.Calm A) : (s.fbStore p l rs bs).Calm A :=
  .modCore (.cleanse (.ite hs.walked.store.markStale hs.walked.store)) fun _ => rfl

theorem State.Calm.fbWait {bs : List Byte} (hs : s.Calm A) : (s.fbWait p bs).Calm A :=
  hs.modCore fun _ => rfl

theorem State.Calm.fbPut {bs : List Byte} (hs : s.Calm A) : (s.fbPut p bs).Calm A := by
  unfold State.fbPut
  dsimp only
  refine .ite (hs.fbWait.modCore fun _ => rfl) ?_
  split
  · exact .ite (hs.fbWait.modCore fun _ => rfl) (hs.fbStore.modCore fun _ => rfl)
  · exact hs.countDrop.fbFault
  · exact hs.fbLose

theorem State.Calm.fbRecord {kind value : Nat} {w2 w3 : Word} (hs : s.Calm A) : (s.fbRecord p kind value w2 w3).Calm A :=
  .ite hs (.ite hs.fbLose (.ite (.ite (hs.fbPut.modCore fun _ => by rfl).fbPut (hs.fbPut.modCore fun _ => rfl)) hs.fbPut))

theorem Core.Free.halted {c : Core} (h : c.Free A) : c.halted.Free A where
  late := h.late
  ops := h.ops
  snags := h.snags
  deferred := h.deferred
  strands := by
    intro t ht
    obtain ⟨u, _, rfl⟩ := List.mem_map.mp ht
    exact .finish
  unlocked := h.unlocked
  prompt := h.prompt

theorem Core.Free.unlockRows {c : Core} {l : List Nat} (h : c.Free A) : (c.unlockRows l).Free A where
  late := h.late
  ops := h.ops
  snags := h.snags
  deferred := h.deferred
  strands := h.strands
  unlocked := by
    have hsub : ∀ (m x : List Nat) (r : Nat), r ∈ m.foldl (fun x r => x.erase r) x → r ∈ x := by
      intro m
      induction m with
      | nil => exact fun _ _ h => h
      | cons a m ih => exact fun x r h => List.mem_of_mem_erase (ih _ r h)
    have hu := h.unlocked
    simp only [Core.locked, Core.unlockRows, Bool.or_eq_false_iff, List.contains_eq_mem, decide_eq_false_iff_not] at hu ⊢
    exact ⟨fun hr => hu.1 (hsub _ _ _ hr), hu.2⟩
  prompt := h.prompt

theorem Core.Free.mapCmds {c : Core} {on : Chain → Bool} {f : Cmd → Cmd} (h : c.Free A) : (c.mapCmds on f).Free A :=
  Core.Free.unlockRows (h.of_face rfl)

theorem cutAt_face (c : Core) (now : Nat) : (c.cutAt now).face = c.face := by
  unfold Core.cutAt
  split <;> rfl

theorem State.Calm.endInstance {i status unit : Nat} (hs : s.Calm A) : (s.endInstance i status unit).Calm A :=
  .foldl hs.modInst (fun _ _ hx =>
    State.Calm.modFree hx (fun c => congrArg (fun x : Core.Face => (x.cycle, x.seq, x.reading)) (cutAt_face c _))
      fun _ hc => (hc.of_face (cutAt_face _ _)).halted.mapCmds)

theorem State.Calm.doubleTrap (hs : s.Calm A) : (s.doubleTrap p).Calm A := by
  unfold State.doubleTrap
  split
  · exact hs.endInstance
  · exact hs.modFree (fun _ => rfl) fun _ hc => hc.halted

theorem State.Calm.enterSup [Fact (A.mode = .rests)] {raiser : Nat} {t : Trap} {tpc npc : Word}
    (hs : s.Calm A) : (s.enterSup p raiser t tpc npc).Calm A := by
  refine .ite hs.doubleTrap (.setInh (.setAside (hs.setOpen (p := p) fun ho => ho.map rfl fun hc => ?_)))
  refine Core.Free.of_face (c := (s.core p).setStrand 0 _) (hc.setStrand ?_) rfl
  exact .of_unbound (hc.strand 0) rfl (.inl rfl)

theorem State.Calm.takeTrap [Fact (A.mode = .rests)] {t : Trap} {tpc npc : Word} (hs : s.Calm A) : (s.takeTrap p k t tpc npc).Calm A := by
  unfold State.takeTrap
  exact .ite (hs.modStrand fun _ => by rfl).setAside.setInh (.ite hs.enterSup (.modCore (hs.modStrand fun _ => rfl) fun _ => rfl))

theorem State.Calm.leaveSup {a : Word} (hs : s.Calm A) : (s.leaveSup p a).Calm A := by
  have h0 : (s.putHbits p 0 7 60 1 0).Calm A := hs.putHbits
  unfold State.leaveSup
  generalize s.putHbits p 0 7 60 1 0 = x at h0 ⊢
  refine h0.setOpen fun ho => ho.map rfl fun hc => ?_
  refine Core.Free.of_face (c := (x.core p).setStrand 0 _) (hc.setStrand ?_) rfl
  exact (hc.strand 0).of_same rfl rfl

theorem State.Calm.leaveHandler {a : Word} (hs : s.Calm A) : (s.leaveHandler p k a).Calm A :=
  hs.putHbits.modStrand fun _ => rfl

/-! ### Words: traps, checks and execution -/

theorem State.Calm.writeDestAs {id : Nat} {d : Dest} {v : Word} (hs : s.Calm A) : (s.writeDestAs id p 1 d v).Calm A :=
  hs.writeRowAs

theorem State.Calm.writeDest [Fact (A.mode ≠ .rests)] {lat : Nat} {d : Dest} {v : Word} (hs : s.Calm A) : (s.writeDest p lat d v).Calm A :=
  hs.writeRow

theorem State.Calm.wS [Fact (A.mode ≠ .rests)] {lat : Nat} {n : BitVec 8} {v : Word} (hs : s.Calm A) : (s.wS p k lat n v).Calm A :=
  hs.writeDest

theorem State.Calm.wV [Fact (A.mode ≠ .rests)] {lat : Nat} {n : BitVec 8} {mask v : Row} (hs : s.Calm A) : (s.wV p k lat n mask v).Calm A :=
  hs.writeRow

theorem State.Calm.wT {t : BitVec 2} {v : BitVec 32} (hs : s.Calm A) : (s.wT p k t v).Calm A :=
  hs.writeRowAs

theorem State.Calm.wQ [Fact (A.mode ≠ .rests)] {lat : Nat} {q : BitVec 3} {v : BitVec 16} (hs : s.Calm A) : (s.wQ p k lat q v).Calm A :=
  .ite hs hs.writeRow

theorem State.Calm.wQmask [Fact (A.mode ≠ .rests)] {lat : Nat} {q : BitVec 3} {mask v : BitVec 16} (hs : s.Calm A) : (s.wQmask p k lat q mask v).Calm A :=
  .ite hs hs.writeRow

theorem State.Calm.pay (hs : s.Calm A) : (s.pay p k n).Calm A := by
  unfold State.pay
  refine .ite hs ?_
  extract_lets c left power s1
  have h1 : s1.Calm A := hs.setCore rfl
  split
  · exact h1
  · exact .ite h1 h1

theorem State.Calm.payFor {h : Nat} (hs : s.Calm A) : (s.payFor p h n).Calm A := by
  unfold State.payFor
  refine .ite hs.pay ?_
  extract_lets left s1
  have h1 : s1.Calm A := hs.modCore fun _ => rfl
  split
  · exact h1
  · exact h1

theorem Core.Free.endBwaits {c : Core} {g status : Nat} (h : c.Free A) : (c.endBwaits g status).Free A := by
  refine h.mapStrands fun t ht => ?_
  split
  · next w hw =>
    split
    · next hkind =>
      split
      · exact ht.withKind hw (fun _ _ e => nomatch hkind.symm.trans e) nofun
      · exact ht
    · exact ht
  · exact ht

theorem Core.Free.dropLds {c : Core} {id : Nat} (h : c.Free A) : (c.dropLds id).Free A where
  late := h.late
  ops o ho := h.ops o (List.mem_of_mem_filter ho)
  snags g hg o hown := by
    obtain ⟨x, hx, rfl⟩ := List.mem_map.mp hg
    split at hown
    · next y hy =>
      split at hown
      · intro hrow
        cases hown
        cases hrow
      · exact h.snags x hx o hown
    · exact h.snags x hx o hown
  deferred := h.deferred
  strands := h.strands
  unlocked := h.unlocked
  prompt := h.prompt

theorem State.Calm.withdraw {g : Nat} (hs : s.Calm A) : (s.withdraw p g).Calm A := by
  unfold State.withdraw
  dsimp only
  split
  · exact hs
  · exact hs.modInst.modFree (fun _ => rfl) fun _ hc => hc.endBwaits

theorem State.Calm.dropLoad {w : Wait} (hs : s.Calm A) : (s.dropLoad p w).Calm A := by
  unfold State.dropLoad
  split
  · exact hs.modFree (fun _ => rfl) fun _ hc => hc.dropLds
  · exact hs

theorem State.Calm.leaveLds (hs : s.Calm A) : (s.leaveLds p k).Calm A := by
  unfold State.leaveLds
  split
  · exact hs.dropLoad
  · exact hs

theorem State.Calm.killHelper (hs : s.Calm A) : (s.killHelper p k).Calm A :=
  .ite (.modCore (.modUnbound (.foldl hs.leaveLds (fun _ _ hx => by
    split
    · exact .ite hx.withdraw hx
    · exact hx)) fun _ => .inr rfl) fun _ => rfl) hs

theorem State.Calm.endControl (hs : s.Calm A) : (s.endControl p).Calm A := by
  unfold State.endControl
  dsimp only
  split
  · exact .modInst (.modCore (.modUnbound (.foldl hs (fun _ _ hx => hx.killHelper)) fun _ => .inr rfl) fun _ => rfl)
  · exact .modCore (.modUnbound (.foldl hs (fun _ _ hx => hx.killHelper)) fun _ => .inr rfl) fun _ => rfl

theorem State.Calm.goto {a : Word} (hs : s.Calm A) : (s.goto p k a).Calm A :=
  hs.modStrand fun _ => rfl

theorem State.Calm.nextWord {inBody : Bool} (hs : s.Calm A) : (s.nextWord p k inBody).Calm A :=
  .ite (.ite (hs.goto.modStrand fun _ => rfl) hs.goto.putHbits) hs.goto

theorem State.Calm.rep (hs : s.Calm A) : (s.rep src p k).Calm A :=
  .ite hs.putHmask.goto hs.putHmask.goto

theorem State.Calm.traceSel {a target : Word} (hs : s.Calm A) : (s.traceSel p a target).Calm A :=
  .ite hs.fbRecord hs

theorem State.Calm.select {cond : Bool} (hs : s.Calm A) : (s.select src p k h cond).Calm A :=
  .ite hs.rep (.ite hs.nextWord
      (.ite (.ite (.endControl (.traceSel (.ite hs.putHbits hs))) (.modUnbound (.traceSel (.ite hs.putHbits hs)) fun _ => .inr rfl))
          (.goto (.traceSel (.ite hs.putHbits hs)))))

theorem State.Calm.payOr {f : State → Res} (hs : s.Calm A) (hf : ∀ x, x.Calm A → (f x).Calm A) : (s.payOr p n f).Calm A :=
  .ite (hf _ hs.pay) trivial

theorem State.Calm.selectAll {ms : List Nat} (hs : s.Calm A) : (s.selectAll src k h ms).Calm A := by
  unfold State.selectAll
  dsimp only
  split
  · exact .foldl (.foldl hs (fun _ _ hx => hx.select)) (fun _ _ hx => hx.modStrand fun _ => rfl)
  · exact .foldl hs (fun _ _ hx => hx.select)

theorem State.Calm.trapAt [Fact (A.mode = .rests)] {t : Trap} {tpc npc : Word} {ms : List Nat} (hs : s.Calm A) : (s.trapAt k t tpc npc ms).Calm A := by
  unfold State.trapAt
  dsimp only
  split
  · exact .dropAt (.ite (.foldl hs (fun _ _ hx => hx.modCore fun _ => rfl)) hs)
  · exact .takeTrap (.dropAt (.ite (.foldl hs (fun _ _ hx => hx.modCore fun _ => rfl)) hs))
  · exact .ite (.foldl (.dropAt (.ite (.foldl hs (fun _ _ hx => hx.modCore fun _ => rfl)) hs)) (fun _ _ hx => (hx.modStrand fun _ => by rfl).setAside.setInh))
      (.foldl (.dropAt (.ite (.foldl hs (fun _ _ hx => hx.modCore fun _ => rfl)) hs)) (fun _ _ hx => (hx.modCore fun _ => by rfl).enterSup))

theorem State.Calm.trapAll [Fact (A.mode = .rests)] {t : Trap} {ms : List Nat} (hs : s.Calm A) : (s.trapAll k t ms).Calm A :=
  hs.trapAt

theorem State.Calm.trapWord [Fact (A.mode = .rests)] {t : Trap} {ms : List Nat} (hs : s.Calm A) : (s.trapWord k t ms).Calm A :=
  .ite hs hs.trapAll

theorem State.Calm.heldAt {lack : Option Nat} {ms : List Nat} (hs : s.Calm A) : (s.heldAt k h w lack ms).Calm A :=
  .foldl hs (fun _ _ hx => hx.modStrand fun _ => rfl)

theorem State.Calm.badAt {ms : List Nat} (hs : s.Calm A) : (s.badAt k h w ms).Calm A :=
  .foldl hs (fun _ _ hx => by
    split
    · exact hx.modStrand fun _ => rfl
    · exact hx)

end

/-! ## What no instruction does -/

/-- The watch on the header row of the strand in focus, from a state on. -/
def State.watch (s : State) (m : Watch.Mode) : Watch where
  core := s.focus.pcid
  row := (s.strand s.focus.pcid s.focus.strand).wb
  id := match m with
    | .numbers => (s.core s.focus.pcid).seq
    | _ => (s.core s.focus.pcid).seq + 1
  cycle := (s.core s.focus.pcid).cycle
  reading := (s.core s.focus.pcid).reading
  drawn := match m with
    | .numbers => none
    | _ => if (s.core s.focus.pcid).place = none then some s.fresh else none
  mode := m

/-- A step issues a word on the core in focus, which is not fused, and puts off a write of that word at latency 1 to a header row that was idle, while
no other row begins to be read and nothing moves. -/
structure State.PutsOff (s t : State) (l : Late) : Prop where
  gang : (s.core s.focus.pcid).gang = none
  idle : (s.core s.focus.pcid).busy (s.strand s.focus.pcid s.focus.strand).wb = false
  unlocked : (s.core s.focus.pcid).locked (s.strand s.focus.pcid s.focus.strand).wb = false
  seq : (t.core s.focus.pcid).seq = (s.core s.focus.pcid).seq + 1
  late : l ∈ (t.core s.focus.pcid).late
  counts : (s.watch .acts).counts l = true
  reading : (t.core s.focus.pcid).reading = (s.core s.focus.pcid).reading
  drawn : (s.core s.focus.pcid).place = none → t.fresh = s.fresh
  migrate : ∀ q, q ≠ s.focus.pcid → (t.core q).migrate = (s.core q).migrate

/-- No next state of an outcome puts off such a write. -/
def State.Prompt (s : State) (o : Host.Outcome State Fault Refusal) : Prop := ∀ t, o = .next t → ∀ l, ¬ s.PutsOff t l

section
variable {s t : State} {l : Late} {h : Hdr} {w : WordSpec}

theorem State.PutsOff.not_calm (a : s.PutsOff t l) (m : Watch.Mode) : ¬ t.Calm (s.watch m) := by
  intro ht
  have hc : (t.core s.focus.pcid).Open (s.watch m) := ht fun n hn => by
    unfold State.watch at hn
    dsimp only at hn
    split at hn
    · cases hn
    split at hn
    · cases hn
      exact (a.drawn ‹_›).le
    · cases hn
  have off : ¬ (t.core s.focus.pcid).Free (s.watch .acts) := fun hf => by
    have := hf.prompt l a.late
    simp [a.counts] at this
  cases m with
  | numbers => exact absurd (a.seq.symm.trans_le hc) (Nat.not_succ_le_self _)
  | rests => exact off ⟨hc.late, hc.ops, hc.snags, hc.deferred, hc.strands, hc.unlocked, hc.prompt⟩
  | acts => exact off (hc a.reading).1

theorem calm_numbers (s : State) : s.Calm (s.watch .numbers) := fun _ => Nat.le_refl _

theorem State.PutsOff.calm (a : s.PutsOff t l) : s.Calm (s.watch .rests) :=
  fun _ => Core.Free.of_idle a.idle a.unlocked

/-- Where a step only counts on, no write is put off. -/
theorem NextCalm.prompt {o : Host.Outcome State Fault Refusal} (h : NextCalm (s.watch .numbers) o) : s.Prompt o :=
  fun _ e _ a => a.not_calm _ (h.get e)

/-- Where a step lets the row be, no write is put off. -/
theorem prompt_of_rests {o : Host.Outcome State Fault Refusal}
    (h : ∀ [Fact ((s.watch .rests).mode = .rests)], s.Calm (s.watch .rests) → NextCalm (s.watch .rests) o) : s.Prompt o := by
  have hrests : Fact ((s.watch .rests).mode = .rests) := ⟨rfl⟩
  exact fun _ e _ a => a.not_calm _ ((h a.calm).get e)

theorem seq_issued (s : State) (p k : Nat) (w : WordSpec) : ((s.issued p k w).core p).seq = (s.core p).seq + 1 := by
  obtain ⟨pw, e⟩ := core_pay s p 0 (s.wordCharge p w) p
  unfold State.issued
  dsimp only
  rw [core_setCore_same]
  exact congrArg (· + 1) ((congrArg Core.seq e :) : _ = (s.core p).seq)

/-- The word's issue on a core that is not fused. -/
theorem State.PutsOff.issued (a : s.PutsOff t l) : (s.issued s.focus.pcid s.focus.strand w).Calm (s.watch .acts) := by
  obtain ⟨hbusy, hlocked⟩ := headerFree_issued s.focus.strand w ⟨a.idle, a.unlocked⟩
  obtain ⟨-, -, -, -, -, -, hcycle, -⟩ := issued_core s s.focus.pcid s.focus.strand s.focus.pcid w
  exact fun _ _ => ⟨Core.Free.of_idle hbusy hlocked, seq_issued s s.focus.pcid s.focus.strand w, hcycle⟩

/-- A state in which the watched word begins to take effect. -/
structure Watch.Starts (A : Watch) (x : State) : Prop where
  reading : (x.core A.core).reading = A.reading
  drawn : (x.core A.core).place = none → A.drawn = some x.fresh

theorem starts_issued (s : State) (w : WordSpec) : (s.watch .acts).Starts (s.issued s.focus.pcid s.focus.strand w) := by
  obtain ⟨-, -, -, -, -, -, -, -, hplace, hreading, -⟩ := issued_core s s.focus.pcid s.focus.strand s.focus.pcid w
  refine ⟨hreading, fun h => ?_⟩
  have hfresh : _ = s.fresh := (congrArg State.fresh (begun_issued s s.focus.pcid s.focus.strand w).outside :)
  exact (if_pos (hplace.symm.trans h)).trans (congrArg some hfresh.symm)

/-- A word whose effect leaves the row open. -/
theorem runWord_prompt_of {body : Body}
    (hf : ∀ {A : Watch} [Fact (A.mode ≠ .rests)] (p k : Nat) (x : State), x.Calm A →
      A.Starts x → (body p k x).Calm A) : s.Prompt (runWord h w body s) := by
  intro t e l a
  have hms : s.members s.focus.pcid = [s.focus.pcid] := by
    simp [State.members, a.gang]
  have hacts : Fact ((s.watch .acts).mode ≠ .rests) := ⟨nofun⟩
  have hrests : Fact ((s.watch .rests).mode = .rests) := ⟨rfl⟩
  unfold runWord at e
  simp only [hms, List.foldl] at e
  have hr : (State.runAll s.focus.strand h w body [s.focus.pcid] (s.issued s.focus.pcid s.focus.strand w)).Calm (s.watch .acts) := by
    have h1 : (State.runOne (s.issued s.focus.pcid s.focus.strand w) s.focus.pcid s.focus.strand h w body).Calm (s.watch .acts) :=
      Res.Calm.ite (.done a.issued) (hf _ _ _ a.issued (starts_issued s w))
    unfold State.runAll
    split
    · exact h1.get ‹_›
    · exact h1.getJump ‹_›
    · trivial
    · trivial
    · trivial
  split at e
  · exact a.not_calm .rests (Host.Outcome.next.inj e ▸ a.calm.trapWord)
  · exact a.not_calm .numbers (Host.Outcome.next.inj e ▸ (calm_numbers s).heldAt)
  · exact a.not_calm .numbers (Host.Outcome.next.inj e ▸ (calm_numbers s).heldAt)
  · exact a.not_calm .numbers (Host.Outcome.next.inj e ▸ (calm_numbers s).badAt)
  split at e
  · exact a.not_calm .acts (Host.Outcome.next.inj e ▸ .selectAll (hr.get ‹_›))
  · exact a.not_calm .acts (Host.Outcome.next.inj e ▸ hr.getJump ‹_›)
  · exact a.not_calm .numbers (Host.Outcome.next.inj e ▸ (calm_numbers s).heldAt)
  · exact a.not_calm .numbers (Host.Outcome.next.inj e ▸ (calm_numbers s).heldAt)
  · exact a.not_calm .rests (Host.Outcome.next.inj e ▸ a.calm.trapWord)

theorem runWord_prompt {body : Body}
    (hf : ∀ {A : Watch} [Fact (A.mode ≠ .rests)] (p k : Nat) (x : State), x.Calm A → (body p k x).Calm A) : s.Prompt (runWord h w body s) :=
  runWord_prompt_of fun p k x hx _ => hf p k x hx

end

end Sys2Proof.Machine

/-! PROOFS. The words that compute, wait or issue accesses leave the watched row open (R204 to R266). -/

namespace Sys2Proof.Machine

section
variable {A : Watch} {s src : State} {p k n : Nat} {h : Hdr} {o : MemOp} {w : WordSpec}

/-! ### Waits -/

theorem State.Calm.endHeader {id status d : Nat} (hs : s.Calm A) : (s.endHeader id p k status d).Calm A :=
  hs.writeRowAs

theorem State.Calm.takeMessage {id row : Nat} {hd : Dest} (hs : s.Calm A) : (s.takeMessage id p row hd).Calm A := by
  unfold State.takeMessage
  dsimp only
  split
  · exact hs
  · exact .ite (hs.setCore (by rfl)).writeRowAs (hs.setCore (by rfl)).writeRowAs.writeRowAs

/-- A change of every operation that leaves its number and its row. -/
theorem Core.Free.mapOps {c : Core} {f : MemOp → MemOp} (h : c.Free A) (hid : ∀ o, (f o).id = o.id) (hrow : ∀ o, (f o).row = o.row) :
    (c.mapOps f).Free A where
  late := h.late
  ops o ho := by
    obtain ⟨x, hx, rfl⟩ := List.mem_map.mp ho
    rw [Watch.SparesOp, hid, hrow]
    exact h.ops x hx
  snags g hg o hown := by
    obtain ⟨x, hx, rfl⟩ := List.mem_map.mp hg
    split at hown
    · next y hy =>
      cases hown
      rw [Watch.SparesOp, hid, hrow]
      exact h.snags x hx y hy
    · exact h.snags x hx o hown
  deferred o l hd := by
    obtain ⟨x, hx, he⟩ := List.mem_map.mp hd
    split at he
    · next y m =>
      cases he
      rw [Watch.SparesOp, hid, hrow]
      exact h.deferred y _ hx
    · subst he
      exact h.deferred _ _ hx
  strands := h.strands
  unlocked := h.unlocked
  prompt := h.prompt

theorem State.Calm.markJoin {mask id : Nat} (hs : s.Calm A) : (s.modCore p fun c => c.markJoin mask k id).Calm A :=
  hs.modFree (fun _ => rfl) fun _ hc => hc.mapOps (fun o => by split <;> rfl) fun o => by split <;> rfl

theorem State.Calm.endEffects {w : Wait} {status : Nat} (hs : s.Calm A) : (s.endEffects p k w status).Calm A := by
  unfold State.endEffects
  dsimp only
  split
  · split
    · exact .endHeader (.ite hs.takeMessage hs)
    · exact .endHeader (.ite hs.markJoin hs)
    · exact hs.endHeader
  split
  · split
    · exact .endHeader (.writeDestAs (.ite hs.takeMessage hs))
    · exact .endHeader (.writeDestAs (.ite hs.markJoin hs))
    · exact hs.writeDestAs.endHeader
  · split
    · exact .endHeader (.writeDestAs (.ite hs.takeMessage hs))
    · exact .endHeader (.writeDestAs (.ite hs.markJoin hs))
    · exact hs.writeDestAs.endHeader
  · split
    · split
      · exact hs.takeMessage.writeDestAs.endHeader
      · exact hs.markJoin.writeDestAs.endHeader
      · exact hs.writeDestAs.endHeader
    · split <;> exact hs.endHeader
  split
  · exact .endHeader (.writeDestAs (.ite hs.takeMessage hs))
  · exact .endHeader (.writeDestAs (.ite hs.markJoin hs))
  · exact hs.writeDestAs.endHeader

theorem State.Calm.clearWait (hs : s.Calm A) : (s.clearWait p k).Calm A :=
  hs.modUnbound fun _ => .inl rfl

theorem State.Calm.leaveWait [Fact (A.mode = .rests)] {escal : Option (Nat × Word)} (hs : s.Calm A) : (s.leaveWait src p k h escal).Calm A := by
  unfold State.leaveWait
  dsimp only
  refine .ite (hs.modUnbound fun _ => .inl rfl) ?_
  split
  · exact .ite (.trapAt (.selectAll (.foldl (hs.modUnbound fun _ => .inl rfl) (fun _ _ hx => hx.modStrand fun _ => rfl))))
      (.trapAll (.foldl (hs.modUnbound fun _ => .inl rfl) (fun _ _ hx => hx.modStrand fun _ => rfl)))
  · exact .selectAll (.foldl (hs.modUnbound fun _ => .inl rfl) (fun _ _ hx => hx.modStrand fun _ => rfl))

theorem State.Calm.endWait [Fact (A.mode = .rests)] {w : Wait} {status : Nat} (hs : s.Calm A) : (s.endWait p k w status).Calm A :=
  hs.endEffects.leaveWait

theorem State.Calm.expire [Fact (A.mode = .rests)] {w : Wait} (hs : s.Calm A) : (s.expire p k w).Calm A :=
  .ite (hs.dropLoad.endHeader.modCore fun _ => by rfl).leaveWait hs.dropLoad.endWait

theorem State.Calm.hold [Fact (A.mode ≠ .rests)] {w : Wait} (hs : s.Calm A) (hid : w.id = s.curId p) : (s.hold p k w).Calm A :=
  hs.growOpen rfl fun hnow hc => hc.setStrand ((hc.strand k).withWait (hid ▸ hnow))

theorem State.Calm.startWait [Fact (A.mode ≠ .rests)] {kind : WaitKind} {dl : Word} {wall : BitVec 1} {dest : Option Dest}
    (hs : s.Calm A) : (s.startWait p k kind dl wall dest h).Calm A := by
  unfold State.startWait
  dsimp only
  refine .ite (.jump (hs.hold rfl)) ?_
  split
  · exact .done hs.endEffects
  · exact .ite (.done hs.endEffects) (.jump (hs.hold rfl))

theorem State.Calm.twinValue {v : Word} (hs : s.Calm A) : AllSome (·.2.Calm A) (s.twinValue p k v) := by
  unfold State.twinValue
  split
  · exact .intro hs
  refine .ite (.intro hs) ?_
  refine .ite (.intro (hs.modCore fun _ => rfl)) ?_
  split
  · exact .none
  · exact .intro (hs.modCore fun _ => rfl)

/-! ### Sequencing -/

theorem execClk_prompt {d : BitVec 8} : s.Prompt (execClk h d s) := by
  unfold execClk
  exact runWord_prompt (fun _ _ _ hx => by
    split
    · exact .done (.wS (hx.twinValue.get ‹_›))
    · trivial)

/-! ### Scalar integer words -/

theorem scalar2_prompt {lat : Nat} {d a b : BitVec 8} {f : Word → Word → Word}
 : s.Prompt (scalar2 h lat d a b f s) := by
  unfold scalar2
  exact runWord_prompt (fun _ _ _ hx => .done hx.wS)

theorem scalar1_prompt {lat : Nat} {d a : BitVec 8} {f : Word → Word} : s.Prompt (scalar1 h lat d a f s) := by
  unfold scalar1
  exact runWord_prompt (fun _ _ _ hx => .done hx.wS)

/-! ### Scalar floating-point words -/

theorem fscalar2_prompt {lat : Nat} {d a b : BitVec 8} {ty rm : BitVec 3} {op : FVal → FVal → FVal}
    : s.Prompt (fscalar2 h lat d a b ty rm op s) := by
  unfold fscalar2
  exact scalar2_prompt

/-! ### Vector integer words -/

theorem State.Calm.putLanes [Fact (A.mode ≠ .rests)] {lat w : Nat} {d : BitVec 8} {l : List Nat} (hs : s.Calm A) : (s.putLanes p k lat w h d l).Calm A :=
  hs.wV

theorem vec1_prompt {lat occ w : Nat} {d a : BitVec 8} {m : BitVec 12} {f : Nat → Nat}
 : s.Prompt (vec1 h lat occ w d a m f s) := by
  unfold vec1
  exact runWord_prompt (fun _ _ _ hx => .done hx.putLanes)

theorem vec2_prompt {lat occ w : Nat} {d a b : BitVec 8} {m : BitVec 12} {f : Nat → Nat → Nat}
 : s.Prompt (vec2 h lat occ w d a b m f s) := by
  unfold vec2
  exact runWord_prompt (fun _ _ _ hx => .done hx.putLanes)

theorem vec3_prompt {lat occ w : Nat} {d a b c : BitVec 8} {f : Nat → Nat → Nat → Nat}
 : s.Prompt (vec3 h lat occ w d a b c f s) := by
  unfold vec3
  exact runWord_prompt (fun _ _ _ hx => .done hx.putLanes)

theorem vecCmp_prompt {w : Nat} {q : BitVec 3} {a b : BitVec 8} {m : BitVec 12} {f : Nat → Nat → Bool}
 : s.Prompt (vecCmp h w q a b m f s) := by
  unfold vecCmp
  exact runWord_prompt (fun _ _ _ hx => .done hx.wQmask)

/-! ### Vector table words -/

theorem countUf_face {α : Type} (l : List α) (g : α → Prop) [DecidablePred g] (b : α → Nat) (c : Core) :
    (l.foldl (fun c x => if g x then c.addUf (b x) 1 else c) c).face = c.face := by
  induction l generalizing c with
  | nil => rfl
  | cons a l ih =>
    refine (ih _).trans ?_
    dsimp only
    split
    · unfold Core.addUf
      split <;> rfl
    · rfl

theorem State.Calm.countUf {lat first : Nat} {l : List Bool} (hs : s.Calm A) : (s.countUf p lat first l).Calm A :=
  hs.modCore fun c => countUf_face _ (fun x : Bool × Nat => x.1 = true) _ c

theorem State.Calm.narrowInto [Fact (A.mode ≠ .rests)] {lat : Nat} {ty rm : BitVec 3} {d : BitVec 8} {xs : List FVal} {first : Nat} {base : Word}
    (hs : s.Calm A) : (s.narrowInto p k lat h ty rm d xs first base).Calm A :=
  hs.wV.countUf

theorem State.Calm.narrow [Fact (A.mode ≠ .rests)] {src : Fmt} {ty rm : BitVec 3} {d : BitVec 8} {a : Row} {b c : Word}
    (hs : s.Calm A) : (s.narrow p k h src ty rm d a b c).Calm A := by
  unfold State.narrow
  dsimp only
  split
  · trivial
  · exact .done hs.narrowInto

/-! ### Vector floating-point words -/

theorem vfp2_prompt {lat occ : Nat} {d a b : BitVec 8} {ty rm : BitVec 3} {m : BitVec 12} {op : FVal → FVal → FVal}
    : s.Prompt (vfp2 h lat occ d a b ty rm m op s) := by
  unfold vfp2
  exact vec2_prompt

theorem vfp1_prompt {lat occ : Nat} {d a : BitVec 8} {ty rm : BitVec 3} {m : BitVec 12} {op : FVal → FVal}
    : s.Prompt (vfp1 h lat occ d a ty rm m op s) := by
  unfold vfp1
  exact vec1_prompt

theorem vfp3_prompt {d a b c : BitVec 8} {ty rm : BitVec 3} {op : FVal → FVal → FVal → FVal}
    : s.Prompt (vfp3 h d a b c ty rm op s) := by
  unfold vfp3
  exact vec3_prompt

theorem State.Calm.putScalar [Fact (A.mode ≠ .rests)] {lat : Nat} {d : BitVec 8} {v : Word} (hs : s.Calm A) : (s.putScalar p k lat h d v).Calm A :=
  .ite hs.wS hs

/-! ### Lane movements, predicates and FUSE -/

theorem laneMove_prompt {lat : Nat} {d a b : BitVec 8} {ty : BitVec 3} {m : BitVec 12} {pick : Nat → Nat → Nat → Nat}
 : s.Prompt (laneMove h lat d a b ty m pick s) := by
  unfold laneMove
  exact runWord_prompt (fun _ _ _ hx => .done hx.putLanes)

theorem State.Calm.putQ [Fact (A.mode ≠ .rests)] {q : BitVec 3} {v : BitVec 16} (hs : s.Calm A) : (s.putQ p k h q v).Calm A :=
  hs.wQmask

theorem predOp_prompt {q qa qb : BitVec 3} {f : BitVec 16 → BitVec 16 → BitVec 16}
 : s.Prompt (predOp h q qa qb f s) := by
  unfold predOp
  exact runWord_prompt (fun _ _ _ hx => .done hx.putQ)

theorem predRead_prompt {d : BitVec 8} {qa : BitVec 3} {f : BitVec 16 → Nat}
 : s.Prompt (predRead h d qa f s) := by
  unfold predRead
  exact runWord_prompt (fun _ _ _ hx => .done hx.putScalar)

theorem State.Calm.endFuse {r : FuseReq} {v pc : Word} (hs : s.Calm A) : (s.endFuse p r v pc).Calm A :=
  (hs.modUnfused fun _ => by rfl).writeDestAs.goto

theorem State.Calm.closeFuse {opener group status : Nat} (hs : s.Calm A) : (s.closeFuse opener group status).Calm A :=
  .foldl hs (fun _ _ hx => .ite (hx.endFuse.modCore fun _ => rfl) hx.endFuse)

/-- A strand opens or joins a FUSE window. -/
theorem State.Calm.openFuse [Fact (A.mode ≠ .rests)] {r : FuseReq} (hs : s.Calm A) (hid : r.id = s.curId p) :
    (s.modStrand p k fun t => { t with fuse := some r }).Calm A :=
  hs.growOpen rfl fun hnow hc => hc.setStrand ((hc.strand k).withFuse (hid ▸ hnow))

theorem execFuse_prompt {d : BitVec 8} {gs : BitVec 4} : s.Prompt (execFuse h d gs s) := by
  unfold execFuse
  exact runWord_prompt fun _ _ _ hx =>
    .ite trivial (.ite (.jump (.closeFuse (hx.openFuse rfl))) (.jump (hx.openFuse rfl)))

theorem execFuseWindowTimeout_calm {clu pos : Nat} (hs : s.Calm A) : NextCalm A (execFuseWindowTimeout clu pos s) := by
  unfold execFuseWindowTimeout
  split
  · exact .ite .fault (.next hs.closeFuse)
  · exact .fault

/-! ### Format words -/

theorem execMxq_prompt {d a b c : BitVec 8} {ty rm : BitVec 3} : s.Prompt (execMxq h d a b c ty rm s) := by
  unfold execMxq
  exact runWord_prompt (fun _ _ _ hx => by
    dsimp only
    split
    · trivial
    · exact .done hx.narrowInto)

theorem execScsel_prompt {d a b c : BitVec 8} {ty : BitVec 3} : s.Prompt (execScsel h d a b c ty s) := by
  unfold execScsel
  exact runWord_prompt (fun _ _ _ hx => by
    dsimp only
    split
    · trivial
    · exact .ite (.done hx.drawn.putScalar) (.done hx.putScalar))

/-! ### Windows, environments and traps -/

theorem State.Calm.setWindow {nb nl : Nat} (hs : s.Calm A) : (s.setWindow p k nb nl).Calm A :=
  hs.modStrand fun _ => rfl

theorem State.Calm.clearRun {i : Nat} (hs : s.Calm A) : (s.clearRun p i n).Calm A :=
  .foldl hs (fun _ _ hx => hx.logUndo.store)

theorem State.Calm.dropSnag {i : Nat} (hs : s.Calm A) : (s.dropSnag p i).Calm A :=
  hs.modFree (fun _ => rfl) fun _ hc =>
    ⟨hc.late, hc.ops, fun g hg => hc.snags g (List.mem_of_mem_filter hg), hc.deferred, hc.strands, hc.unlocked, hc.prompt⟩

theorem State.Calm.endLds {status : Nat} {v : Word} (hs : s.Calm A) : (s.endLds p o status v).Calm A := by
  refine hs.modFree (fun _ => rfl) fun c hc => hc.setStrand ?_
  have ht := hc.strand o.strand
  dsimp only
  split
  · next w hw =>
    split
    · next hkind =>
      split
      · exact ht.withKind hw (fun _ _ e => nomatch hkind.symm.trans e) nofun
      · exact ht
    · exact ht
  · exact ht

theorem State.Calm.wakeCmd {slot seq : Nat} {ok : Bool} (hs : s.Calm A) : (s.wakeCmd p slot seq ok).Calm A :=
  hs.modCore fun _ => rfl

theorem State.Calm.wpFlush {id : Nat} (hs : s.Calm A) : (s.wpFlush p id).Calm A :=
  hs.modCore fun c => by
    split
    · rfl
    · split
      · rfl
      · dsimp only
        split <;> rfl

theorem State.Calm.wpReport (hs : s.Calm A) : (s.wpReport p o).Calm A :=
  State.Calm.wpFlush (hs.modCore fun c => by split <;> rfl)

theorem State.Calm.failOp {cause : Nat} {addr : Word} (hs : s.Calm A) : (s.failOp p o cause addr).Calm A :=
  .wpFlush (.ite hs.endLds (.ite (hs.modStrand fun _ => rfl) (hs.modCore fun _ => rfl)))

theorem State.Calm.failSnag {g : Snag} {cause : Nat} (hs : s.Calm A) : (s.failSnag p g cause).Calm A := by
  unfold State.failSnag
  dsimp only
  split
  · exact hs.clearRun.dropSnag.wakeCmd
  · exact hs.clearRun.dropSnag.failOp

theorem State.Calm.completeSnag {g : Snag} {data : Row} (hs : s.Calm A) : (s.completeSnag p g data).Calm A := by
  unfold State.completeSnag
  dsimp only
  split
  · exact hs.clearRun.dropSnag.wakeCmd
  split
  · exact .endLds (.wpReport (.ite hs.clearRun.dropSnag hs.clearRun.dropSnag.writeRowAs))
  · exact hs.clearRun.dropSnag.wpReport.endLds

theorem execSnagw_prompt {a b : BitVec 8} : s.Prompt (execSnagw h a b s) := by
  unfold execSnagw
  exact runWord_prompt (fun _ _ _ hx => by
    dsimp only
    split
    · trivial
    split
    · exact .done hx.completeSnag
    · exact .ite trivial (.done hx.completeSnag))

theorem execSnagx_prompt {a b : BitVec 8} : s.Prompt (execSnagx h a b s) := by
  unfold execSnagx
  exact runWord_prompt (fun _ _ _ hx => by
    dsimp only
    split
    · trivial
    · exact .done hx.failSnag)

/-! ### Memory words -/

theorem State.Calm.issueOps [Fact (A.mode ≠ .rests)] {l : List MemOp} (hs : s.Calm A) (hl : ∀ o ∈ l, o.id = s.curId p) :
    (s.issueOps p k l).Calm A := by
  unfold State.issueOps
  dsimp only
  refine .ite trivial ?_
  split
  · trivial
  · refine .done (hs.growOpen rfl fun hnow hc => ⟨hc.late, fun o ho hrow => ?_, hc.snags, hc.deferred, hc.strands, hc.unlocked, hc.prompt⟩)
    rcases List.mem_append.mp ho with ho | ho
    · exact hc.ops o ho hrow
    · exact hl o ho ▸ hnow

theorem State.Calm.issueAligned [Fact (A.mode ≠ .rests)] {l : List MemOp} (hs : s.Calm A) (hl : ∀ o ∈ l, o.id = s.curId p) :
    (s.issueAligned p k n l).Calm A := by
  unfold State.issueAligned
  split
  · trivial
  · exact hs.issueOps hl

theorem issueOps_curId {l : List MemOp} {x : State} (e : s.issueOps p k l = .done x) : x.curId p = s.curId p := by
  unfold State.issueOps at e
  dsimp only at e
  split at e
  · cases e
  split at e
  · cases e
  · cases e
    rw [State.curId, core_setCore_same]
    rfl

theorem issueOps_reading {l : List MemOp} {x : State} (e : s.issueOps p k l = .done x) : (x.core p).reading = (s.core p).reading := by
  unfold State.issueOps at e
  dsimp only at e
  split at e
  · cases e
  split at e
  · cases e
  · cases e
    rw [core_setCore_same]

theorem issueAligned_curId {l : List MemOp} {x : State} (e : s.issueAligned p k n l = .done x) : x.curId p = s.curId p := by
  unfold State.issueAligned at e
  split at e
  · cases e
  · exact issueOps_curId e

theorem State.Calm.issueOne [Fact (A.mode ≠ .rests)] (hs : s.Calm A) (ho : o.id = s.curId p) :
    (s.issueAligned p k n [o]).Calm A :=
  hs.issueAligned (List.forall_mem_singleton.mpr ho)

theorem State.Calm.issueRow [Fact (A.mode ≠ .rests)] {ea : Word} {f : Nat → MemOp → MemOp} (hs : s.Calm A) (ho : o.id = s.curId p)
    (hf : ∀ j x, (f j x).id = x.id) : (s.issueRow p k ea (s.rowOps p k h o f)).Calm A := by
  refine .ite trivial (hs.issueOps fun x hx => ?_)
  obtain ⟨j, _, rfl⟩ := List.mem_map.mp hx
  exact (hf j _).trans ho

theorem indexed_id {kind : AccKind} {base : Word} {idx : Row} {scope ord sz : Nat} :
    ∀ o ∈ s.indexed p k h kind base idx scope ord sz, o.id = s.curId p := by
  intro o ho
  obtain ⟨i, _, rfl⟩ := List.mem_map.mp ho
  rfl

theorem mem_unshadowed {l : List MemOp} (ho : o ∈ s.unshadowed p l) : o ∈ l := by
  induction l with
  | nil => exact ho
  | cons x l ih =>
    unfold State.unshadowed at ho
    split at ho
    · exact .tail _ (ih ho)
    · rcases List.mem_cons.mp ho with rfl | ho
      · exact .head _
      · exact .tail _ (ih ho)

theorem execStvx_prompt {d a b : BitVec 8} {scope : BitVec 3} {ord : BitVec 2} {sz : BitVec 3} {m : BitVec 12} :
    s.Prompt (execStvx h d a b scope ord sz m s) := by
  unfold execStvx
  exact runWord_prompt (fun _ _ _ hx => by
    dsimp only
    split
    · trivial
    · refine hx.issueOps fun o ho => ?_
      obtain ⟨y, hy, rfl⟩ := List.mem_map.mp (mem_unshadowed ho)
      exact indexed_id y hy)

theorem execLds_prompt {d a b : BitVec 8} {scope sz : BitVec 3} {wall : BitVec 1} : s.Prompt (execLds h d a b scope sz wall s) := by
  unfold execLds
  exact runWord_prompt (fun _ _ _ hx => by
    dsimp only
    split
    · next e =>
      refine .jump (State.Calm.hold (Res.Calm.get ?_ e) (issueAligned_curId e).symm)
      exact hx.issueOne rfl
    · exact hx.issueOne rfl)

theorem atomicWord_prompt {aop : Nat} {d a b : BitVec 8} {scope : BitVec 3} {ord : BitVec 2} {sz : BitVec 3} :
    s.Prompt (atomicWord h aop d a b scope ord sz s) := by
  unfold atomicWord
  exact runWord_prompt (fun _ _ _ hx => hx.issueOne rfl)

theorem reductionWord_prompt {aop : Nat} {d a : BitVec 8} {disp : BitVec 20} {scope : BitVec 3} {ord : BitVec 2} {sz : BitVec 3} :
    s.Prompt (reductionWord h aop d a disp scope ord sz s) := by
  unfold reductionWord
  exact runWord_prompt (fun _ _ _ hx => hx.issueOne rfl)

theorem execMxqMem_prompt {d a b c : BitVec 8} {ty rm : BitVec 3} : s.Prompt (execMxqMem h d a b c ty rm s) := by
  unfold execMxqMem
  exact runWord_prompt (fun _ _ _ hx => by
    dsimp only
    refine .ite trivial ?_
    split
    · trivial
    split
    · refine .done (.countUf (Res.Calm.get ?_ ‹_›))
      exact hx.issueOps (List.forall_mem_singleton.mpr rfl)
    · exact hx.issueOps (List.forall_mem_singleton.mpr rfl))

theorem execDtld_prompt {a : BitVec 8} : s.Prompt (execDtld h a s) := by
  unfold execDtld
  exact runWord_prompt (fun p k x hx => by
    dsimp only
    refine .ite trivial ?_
    have hl {v : Word} : ∀ o ∈ (List.range 128).map fun j => { x.newOp p k .table (v + BitVec.ofNat 64 (8 * j)) 0 with elem := j },
        o.id = x.curId p := by
      intro o ho
      obtain ⟨j, _, rfl⟩ := List.mem_map.mp ho
      rfl
    split
    · exact .done (.modCore ((hx.issueOps hl).get ‹_›) fun _ => rfl)
    · exact hx.issueOps hl)

end

end Sys2Proof.Machine

/-! PROOFS. The performance of accesses, the checks and the barriers leave the watched row open (R113, R281 to R295). -/

namespace Sys2Proof.Machine

section
variable {A : Watch} {s src : State} {p k n : Nat} {h : Hdr} {o : MemOp} {w : WordSpec}

/-! ### The performance of accesses -/

theorem wake_eq (c : Core) (k bit : Nat) : ∃ m, c.wake k bit = { c with strands := m } := by
  unfold Core.wake
  dsimp only
  split
  · split
    · exact ⟨_, rfl⟩
    · exact ⟨_, rfl⟩
  · exact ⟨_, rfl⟩

theorem wake_seq (c : Core) (k bit : Nat) : (c.wake k bit).seq = c.seq := by
  obtain ⟨m, h⟩ := wake_eq c k bit
  rw [h]

theorem Core.Free.wake {c : Core} {k bit : Nat} (h : c.Free A) : (c.wake k bit).Free A := by
  unfold Core.wake
  dsimp only
  split
  · next w hw =>
    split
    · next hkind => exact h.setStrand ((h.strand k).withKind hw (fun _ _ e => nomatch hkind.symm.trans e) nofun)
    · exact h
  · exact h

/-- An event that a strand may wait for. -/
theorem State.Calm.modWake {f : Core → Core} {bit : Nat} (hs : s.Calm A) (h : ∀ c, (f c).face = c.face) :
    (s.modCore p fun c => (f c).wake k bit).Calm A := by
  refine hs.modFree (fun c => ?_) fun c hc => (hc.of_face (h c)).wake
  obtain ⟨m, e⟩ := wake_eq (f c) k bit
  rw [e]
  exact (congrArg (fun x : Core.Face => (x.cycle, x.seq, x.reading)) (h c) :)

theorem State.Calm.pushSnag [Fact (A.mode = .numbers)] {owner : SnagOwner} {cause : Nat} {addr : Word} {entries : List (List Byte)}
    (hs : s.Calm A) : AllSome (State.Calm A) (s.pushSnag p owner cause addr entries) := by
  unfold State.pushSnag
  dsimp only
  split
  · exact .none
  · exact .intro (hs.logUndo.store.modSeq fun c => (wake_seq _ _ _).le)

theorem State.Calm.dropOp (hs : s.Calm A) : (s.dropOp p o).Calm A :=
  hs.modFree (fun _ => rfl) fun _ hc =>
    ⟨hc.late, fun x hx => hc.ops x (List.mem_of_mem_filter hx), hc.snags, hc.deferred, hc.strands, hc.unlocked, hc.prompt⟩

theorem State.Calm.snagOp [Fact (A.mode = .numbers)] {cause : Nat} (hs : s.Calm A) : (s.snagOp p o cause).Calm A := by
  unfold State.snagOp
  dsimp only
  refine .ite (.failOp (.ite (.modSeq (.ite hs hs.countDrop) fun _ => Nat.le_refl _) (.dropOp (.ite hs hs.countDrop)))) ?_
  split
  · refine State.Calm.pushSnag ?_ |>.get ‹_›
    exact .ite (.modSeq (.ite hs hs.countDrop) fun _ => Nat.le_refl _) (.dropOp (.ite hs hs.countDrop))
  · exact .modSeq (.ite hs hs.countDrop) fun _ => Nat.le_refl _

theorem State.Calm.writeRouted {l : Nat} {bs : List Byte} {rs : Bool} {full : Option Bool}
    (hs : s.Calm A) : (s.writeRouted p l bs rs full).Calm A := by
  unfold State.writeRouted
  dsimp only
  split
  · exact hs.writeMem.writeMem
  · exact hs.writeMem

theorem State.Calm.opWrite {l : Nat} {bs : List Byte} {rs : Bool} {full : Option Bool}
    (hs : s.Calm A) : (s.opWrite p o l bs rs full).Calm A :=
  .ite hs.writeRouted hs.writeMem

theorem State.Calm.clearFull {l : Nat} {rs routed : Bool} (hs : s.Calm A) : (s.clearFull p l rs routed).Calm A := by
  unfold State.clearFull
  dsimp only
  split
  · exact .ite (.setFull (.ite hs.logUndo.setFull.markStale hs.logUndo.setFull)) (.ite hs.logUndo.setFull.markStale hs.logUndo.setFull)
  · exact .ite hs.logUndo.setFull.markStale hs.logUndo.setFull

theorem State.Calm.effect {l : Nat} {rs : Bool} (hs : s.Calm A) : (s.effect p o l rs).1.Calm A := by
  unfold State.effect
  dsimp only
  split
  · exact hs
  · exact hs
  · exact hs
  · exact hs.writeMem
  · exact hs.opWrite
  · exact hs.opWrite
  · exact hs.clearFull
  · exact hs.opWrite.opWrite
  · exact hs.opWrite

theorem loadTable_face (c : Core) (o : MemOp) (v : Nat) : (c.loadTable o v).face = c.face := by
  unfold Core.loadTable
  split
  · rfl
  · dsimp only
    split <;> rfl

theorem State.Calm.finishOp {v : Nat} (hs : s.Calm A) : (s.finishOp p o v).Calm A := by
  unfold State.finishOp
  dsimp only
  split
  · split
    · exact .endLds (.wpReport (.modCore (.ite hs.dropOp hs.dropOp.writeRowAs) fun c => loadTable_face c _ _))
    · exact (hs.dropOp.modCore fun c => loadTable_face c _ _).wpReport.endLds
  split
  · exact .endLds (.wpReport (.ite hs.dropOp hs.dropOp.writeRowAs))
  · exact hs.dropOp.wpReport.endLds

theorem State.Calm.defer [Fact (A.mode = .numbers)] {d : Deferred} (hs : s.Calm A) : AllSome (State.Calm A) (s.defer p d) :=
  .ite (.intro (hs.modSeq fun _ => Nat.le_refl _)) .none

theorem State.Calm.overflowed (hs : s.Calm A) : (s.overflowed p).Calm A :=
  hs.modCore fun _ => rfl

theorem State.Calm.deferOp [Fact (A.mode = .numbers)] {l : Nat} {rs : Bool} (hs : s.Calm A) : AllSome (State.Calm A) (s.deferOp p o l rs) := by
  unfold State.deferOp
  dsimp only
  refine .ite ?_ .none
  split
  · exact .intro (hs.dropOp.defer.get ‹_›)
  · exact .intro hs.effect.finishOp.overflowed

theorem State.Calm.wholeRow {l : Nat} (hs : s.Calm A) : (s.wholeRow p o l).Calm A := by
  unfold State.wholeRow
  dsimp only
  refine .ite ?_ hs
  split
  · exact .ite hs.cleanse.cleanse hs.cleanse
  · exact hs.cleanse

theorem State.Calm.cspLoss {l : Nat} (hs : s.Calm A) : (s.cspLoss p o l).Calm A :=
  .ite hs.drawn.modCluster hs

theorem State.Calm.perform [Fact (A.mode = .numbers)] {l : Nat} {rs host : Bool} (hs : s.Calm A) : (s.perform p o l rs host).Calm A := by
  unfold State.perform
  dsimp only
  have hd : AllSome (State.Calm A) (if host then s.deferOp p o l rs else none) := .ite hs.deferOp .none
  split
  · exact hd.get ‹_›
  · exact hs.effect.finishOp.wholeRow.cspLoss

theorem State.Calm.postOp {primary shadow : Nat} (hs : s.Calm A) : AllSome (State.Calm A) (s.postOp primary shadow p o) :=
  .map fun _ => hs

theorem execMemoryAccessPerformed_calm [Fact (A.mode = .numbers)] {core id elem : Nat}
    (hs : s.Calm A) : NextCalm A (execMemoryAccessPerformed core id elem s) := by
  unfold execMemoryAccessPerformed
  split
  · exact .fault
  refine .ite .fault ?_
  split
  · exact .next hs.snagOp
  · refine .ite .fault ?_
    split
    · exact .next hs.pay.perform
    split
    · exact .next (hs.postOp.get ‹_›)
    · exact .fault
  · exact .fault

theorem State.Calm.undefer [Fact (A.mode = .numbers)] (hs : s.Calm A) : (s.undefer p o).Calm A :=
  hs.modSeq fun _ => Nat.le_refl _

theorem execHostAccessTimeout_calm [Fact (A.mode = .numbers)] {core id elem : Nat} (hs : s.Calm A) : NextCalm A (execHostAccessTimeout core id elem s) := by
  unfold execHostAccessTimeout
  split
  · split
    · exact .fault
    · exact .ite .fault (.next hs.undefer.snagOp)
  split
  · exact .ite .fault (.next hs.snagOp)
  · exact .fault

theorem State.Calm.walkFault [Fact (A.mode = .numbers)] {x : Nat × MemOp} (hs : s.Calm A) : (s.walkFault x).Calm A := by
  unfold State.walkFault
  split
  · exact hs.snagOp
  · exact hs

theorem execPageWalk_calm [Fact (A.mode = .numbers)] {core id elem : Nat} (hs : s.Calm A) : NextCalm A (execPageWalk core id elem s) := by
  unfold execPageWalk
  split
  · split
    · exact .fault
    split
    · exact .next (.foldl hs (fun _ _ hx => hx.walkFault))
    · exact .next hs.install
  · exact .fault

theorem execSnagTimeout_calm {core idx : Nat} (hs : s.Calm A) : NextCalm A (execSnagTimeout core idx s) := by
  unfold execSnagTimeout
  dsimp only
  split
  · exact .fault
  · exact .ite .fault (.next (hs.failSnag.modCore fun _ => rfl))

theorem execWaitCompletion_calm [Fact (A.mode = .rests)] {core strand : Nat} (hs : s.Calm A) : NextCalm A (execWaitCompletion core strand s) := by
  unfold execWaitCompletion
  dsimp only
  split
  · exact .fault
  refine .ite .fault ?_
  split
  · exact .fault
  refine .ite ?_ (.next hs.endWait)
  split
  · exact .fault
  split
  · exact .next hs.endWait.endWait
  · exact .fault

theorem State.Calm.dropClosures (hs : s.Calm A) : (s.dropClosures p k).Calm A := by
  unfold State.dropClosures
  split <;> exact hs

theorem execWaitExpiry_calm [Fact (A.mode = .rests)] {core strand : Nat} (hs : s.Calm A) : NextCalm A (execWaitExpiry core strand s) := by
  unfold execWaitExpiry
  dsimp only
  split
  · exact .fault
  refine .ite .fault ?_
  refine .ite ?_ (.ite .fault (.next hs.expire))
  split
  · exact .fault
  · exact .ite .fault (.next hs.dropClosures.expire.expire)

/-! ### Checks -/

theorem State.Calm.mcLog {m : McInfo} (hs : s.Calm A) : (s.mcLog p m).Calm A :=
  hs.modDie

theorem State.Calm.killTract {t status unit det : Nat} (hs : s.Calm A) : (s.killTract t status unit det).Calm A := by
  unfold State.killTract
  split
  · exact hs
  · exact .ite hs (.foldl hs.modTract (fun _ _ hx => hx.endInstance))

theorem State.Calm.noteKill {t status unit : Nat} {first : Bool}
    (hs : s.Calm A) : (s.noteKill t p status unit n first).Calm A := by
  unfold State.noteKill
  dsimp only
  split
  · exact hs
  refine .ite hs.modTract ?_
  split
  · exact .ite (.ite hs.modInst.modTract hs.modInst) hs
  · exact hs

theorem State.Calm.killTractOf {status unit : Nat} (hs : s.Calm A) : (s.killTractOf p status unit).Calm A := by
  unfold State.killTractOf
  dsimp only
  split
  · exact hs.killTract.noteKill
  · exact hs.modFree (fun _ => rfl) fun _ hc => hc.halted.mapCmds

theorem State.Calm.setRemapState {st : Nat} (hs : s.Calm A) : (s.setRemapState p st).Calm A :=
  hs

theorem State.Calm.quarCore (hs : s.Calm A) : (s.quarCore p).Calm A :=
  (hs.modCore fun _ => by rfl).setRemapState

theorem State.Calm.quarRouter (hs : s.Calm A) : (s.quarRouter p).Calm A :=
  hs.modCore fun _ => rfl

theorem State.Calm.quarArray (hs : s.Calm A) : (s.quarArray n).Calm A :=
  .foldl hs.modCluster (fun _ _ hx => hx.modFree (fun _ => rfl) fun c hc =>
    Core.Free.of_face (c := c.mapCmds (fun q => decide (q.eng = 1)) Cmd.quarantined) hc.mapCmds rfl)

theorem State.Calm.stopCheck [Fact (A.mode = .numbers)] {id : Nat} (hs : s.Calm A) : (s.stopCheck p id).Calm A :=
  hs.modSeq fun _ => Nat.le_refl _

/-! ### Barriers and messages -/

theorem State.Calm.modInstCores {f : Core → Core} (hs : s.Calm A) (h : ∀ c, (f c).face = c.face) :
    (s.modInstCores n f).Calm A :=
  .foldl hs (fun _ _ hx => hx.modCore h)

theorem Core.Free.mapBwaits {c : Core} {g : Nat} {f : Option Nat → Option Nat × Option Nat} (h : c.Free A) : (c.mapBwaits g f).Free A := by
  refine h.mapStrands fun t ht => ?_
  split
  · next w hw =>
    split
    · next hkind =>
      split
      · exact ht.withKind hw (fun _ _ e => nomatch hkind.symm.trans e) nofun
      · exact ht
    · exact ht
  · exact ht

theorem State.Calm.arriveGroup {i : Instance} {g r : Nat} (hs : s.Calm A) : (s.arriveGroup n i g r k).Calm A :=
  .ite (.foldl (State.Calm.modInst hs) fun _ _ hx => hx.modFree (fun _ => rfl) fun _ hc => hc.mapBwaits) hs.modInst

theorem State.Calm.pairStatus {status : Nat} {after : State} (hs : s.Calm A) (ha : after.Calm A) :
    AllSome (·.2.Calm A) (s.pairStatus p k status after) :=
  .ite (hs.twinValue.image fun _ hx => hx) (ha.twinValue.image fun _ hx => hx)

theorem State.Calm.barr {g : Nat} (hs : s.Calm A) : (s.barr p k g).2.Calm A := by
  unfold State.barr
  dsimp only
  split
  · exact hs
  split
  · exact hs
  split
  · exact hs
  · exact hs.arriveGroup

theorem statusWord_prompt {d : BitVec 8} {pre : Nat → Nat → State → Verdict} {f : Nat → Nat → State → Nat × State}
    (hf : ∀ {A : Watch} p k x, x.Calm A → (f p k x).2.Calm A) : s.Prompt (statusWord h d pre f s) := by
  unfold statusWord
  exact runWord_prompt (fun _ _ _ hx => by
    dsimp only
    split
    · exact .done (.wS ((hx.pairStatus (hf _ _ _ hx)).get ‹_›))
    · trivial)

theorem State.Calm.consumeDone {g : Nat} (hs : s.Calm A) : (s.consumeDone p g).Calm A := by
  unfold State.consumeDone
  dsimp only
  split
  · exact hs
  · exact hs.modInst

theorem execBwait_prompt {d : BitVec 8} {g : BitVec 2} {b : BitVec 8} {wall : BitVec 1} :
    s.Prompt (execBwait h d g b wall s) := by
  unfold execBwait
  exact runWord_prompt (fun _ _ _ hx => by
    dsimp only
    split
    · trivial
    · exact State.Calm.startWait ((hx.pairStatus (.ite hx.consumeDone hx)).get ‹_›))

theorem State.Calm.noteGone {g : Nat} (hs : s.Calm A) : (s.noteGone n g).Calm A :=
  hs.modInst

theorem State.Calm.noteConfig {g rel : Nat} (hs : s.Calm A) : (s.noteConfig n g rel).Calm A :=
  hs.modInst

theorem State.Calm.bwd {g : Nat} (hs : s.Calm A) : (s.bwd p g).2.Calm A := by
  unfold State.bwd
  dsimp only
  split
  · exact hs
  · exact .noteGone (.ite hs (.ite (hs.modInst.modInstCores fun c => by split <;> rfl) hs.withdraw))

theorem twinRead_prompt {lat : Nat} {d : BitVec 8} {f : Nat → Nat → State → Word}
 : s.Prompt (twinRead h lat d f s) := by
  unfold twinRead
  exact runWord_prompt (fun _ _ _ hx => by
    split
    · exact .done (.wS (hx.twinValue.get ‹_›))
    · trivial)

theorem State.Calm.takeHw {i : Instance} {g : Nat} {members : List Nat} (hs : s.Calm A) : (s.takeHw n i g members).Calm A :=
  .ite hs (.foldl hs (fun _ _ hx => .ite hx.modDie hx.modDie))

theorem State.Calm.takeAllHw {i : Instance} (hs : s.Calm A) : (s.takeAllHw n i).Calm A :=
  .foldl hs (fun _ _ hx => .ite hx.takeHw hx)

theorem State.Calm.installGroup {i : Instance} {g : Nat} {members : List Nat} {rel : Nat}
    (hs : s.Calm A) : (s.installGroup n i g members rel).Calm A :=
  hs.takeHw.modInst

theorem State.Calm.bcfg {g : Nat} {members : List Nat} {force : Bool} (hs : s.Calm A) : (s.bcfg p g members force).2.Calm A := by
  unfold State.bcfg
  dsimp only
  split
  · exact hs
  split
  · exact hs.noteConfig
  split
  · exact hs.noteConfig
  · exact .installGroup (.ite (.foldl hs fun _ _ hx => hx.modFree (fun _ => rfl) fun _ hc => hc.endBwaits) hs)

theorem execBcfg_prompt {d : BitVec 8} {g : BitVec 2} {b : BitVec 8} {u : BitVec 1} :
    s.Prompt (execBcfg h d g b u s) := by
  unfold execBcfg
  exact runWord_prompt (fun _ _ _ hx => by
    dsimp only
    refine .ite trivial (.ite trivial ?_)
    split
    · exact .done (.wS ((hx.pairStatus hx.bcfg).get ‹_›))
    · trivial)

theorem execBarrierRelease_calm {iid g : Nat} (hs : s.Calm A) : NextCalm A (execBarrierRelease iid g s) := by
  unfold execBarrierRelease
  dsimp only
  split
  · exact .fault
  split
  · exact .fault
  · exact .ite .fault (.next (.foldl (State.Calm.modInst hs) fun _ _ hx => hx.modFree (fun _ => rfl) fun _ hc => hc.mapBwaits))

theorem mem_insertDeferred {d e : Deferred} {l : List Deferred} (h : e ∈ d.insert l) : e = d ∨ e ∈ l := by
  induction l with
  | nil => exact .inl (List.mem_singleton.mp h)
  | cons a l ih =>
    have later (h : e ∈ a :: d.insert l) : e = d ∨ e ∈ a :: l := by
      rcases List.mem_cons.mp h with rfl | h
      · exact .inr (.head _)
      · exact (ih h).imp_right (.tail _)
    unfold Deferred.insert at h
    split at h
    · split at h
      · exact List.mem_cons.mp h
      · exact later h
    · exact later h

/-- A message that a rollback-mode superstep keeps back returns to no register. -/
theorem State.Calm.deferSend {m : Message} (hs : s.Calm A) : AllSome (State.Calm A) (s.defer p (.send m)) :=
  .ite (.intro (hs.modFree (fun _ => rfl) fun _ hc => ⟨hc.late, hc.ops, hc.snags, fun o l hd =>
    hc.deferred o l ((mem_insertDeferred hd).resolve_left nofun), hc.strands, hc.unlocked, hc.prompt⟩)) .none

theorem State.Calm.sendMessage {m : Message} (hs : s.Calm A) : (s.sendMessage m).Calm A := by
  unfold State.sendMessage
  have h1 : State.Calm A { s with nextId := s.nextId + 1 } := hs
  refine .ite ?_ hs
  split
  · exact h1.deferSend.get ‹_›
  · exact .overflowed hs

theorem execSend_prompt {a b : BitVec 8} {_scope : BitVec 3} {m : BitVec 12}
 : s.Prompt (execSend h a b _scope m s) := by
  unfold execSend
  exact runWord_prompt (fun _ _ _ hx => by
    dsimp only
    refine .ite trivial ?_
    split
    · exact .done hx.sendMessage
    split
    · exact .done hx
    · trivial)

theorem wakeAll_seq (c : Core) (bit : Nat) : (c.wakeAll bit).seq = c.seq := by
  unfold Core.wakeAll
  induction List.range 11 generalizing c with
  | nil => rfl
  | cons k l ih => exact (ih _).trans (wake_seq c k bit)

theorem execMessageDelivery_calm [Fact (A.mode = .numbers)] (hs : s.Calm A) : NextCalm A (execMessageDelivery k s) := by
  unfold execMessageDelivery
  split
  · exact .fault
  extract_lets older e s1 s2
  have h1 : s1.Calm A := hs
  refine .ite .fault (.ite (.next (h1.modCore fun _ => rfl)) (.ite .fault (.next ?_)))
  have h2 : s2.Calm A := h1.modSeq fun c => (wakeAll_seq _ _).le
  split
  · exact h2.modSeq fun c => (wakeAll_seq _ _).le
  · exact h2

theorem State.Calm.arriveEntry (hs : s.Calm A) : (s.arriveEntry p).Calm A := by
  unfold State.arriveEntry
  dsimp only
  split
  · exact hs
  · exact .ite hs (.ite hs.modInst hs.modInst)

theorem execSstep_prompt {a b : BitVec 8} {u wall : BitVec 1} : s.Prompt (execSstep h a b u wall s) := by
  unfold execSstep
  exact runWord_prompt (fun _ _ _ hx => by
    dsimp only
    split
    · trivial
    split
    · trivial
    · exact .ite trivial (State.Calm.startWait (.ite (hx.modCore fun _ => by rfl).arriveEntry hx)))

end

end Sys2Proof.Machine

/-! PROOFS. Migrations, rollbacks, the pieces of commands and the exchange leave the watched row open (R34, R131, R353, R384). -/

namespace Sys2Proof.Machine

section
variable {A : Watch} {s src : State} {p k n : Nat} {h : Hdr} {o : MemOp} {w : WordSpec}

/-! ### Migration -/

theorem State.Calm.stopCore {k : StopKind} (hs : s.Calm A) : (s.stopCore p k).Calm A :=
  hs.modCore fun c => by split <;> rfl

theorem State.Calm.startCore (hs : s.Calm A) : (s.startCore p).Calm A :=
  hs.modCore fun c => by split <;> rfl

theorem State.Calm.migDrop (hs : s.Calm A) : (s.migDrop p).Calm A :=
  hs.modDie

theorem State.Calm.request {m : MigReq} (hs : s.Calm A) : (s.request p m).Calm A :=
  State.Calm.modWake (f := fun c => { c with migrate := some m }) hs fun _ => rfl

theorem State.Calm.endMigrate {status : Nat} (hs : s.Calm A) : (s.endMigrate p status).Calm A := by
  unfold State.endMigrate
  extract_lets s1
  have h1 : s1.Calm A := hs.modCore fun _ => rfl
  split
  · exact hs
  split
  · exact h1
  · exact h1

theorem State.Calm.setRemapPart {st : Nat} (hs : s.Calm A) : (s.setRemapPart p st).Calm A := by
  unfold State.setRemapPart
  dsimp only
  split
  · exact hs
  · exact hs.modPart

theorem State.Calm.markMigrating (hs : s.Calm A) : (s.markMigrating p).Calm A :=
  .ite hs.setRemapPart hs

theorem State.Calm.atBoundary (hs : s.Calm A) : (s.atBoundary p).1.Calm A := by
  unfold State.atBoundary
  dsimp only
  split
  · exact hs
  split
  · exact .ite hs.endMigrate hs.endMigrate.migDrop
  · exact (hs.modCore fun _ => by rfl).stopCore.markMigrating

theorem State.Calm.sstepBoundary (hs : s.Calm A) : (s.sstepBoundary p).Calm A :=
  .ite hs hs.atBoundary

theorem State.Calm.renameTraffic {part q : Nat} (hs : s.Calm A) : (s.renameTraffic part p q).Calm A :=
  hs

/-! ### Rollback -/

theorem State.Calm.raiseMsix {v : Nat} (hs : s.Calm A) : (s.raiseMsix v).Calm A :=
  .ite hs hs

theorem State.Calm.chainMsix [Fact (A.mode = .numbers)] {v : Nat} (hs : s.Calm A) : (s.chainMsix p v).Calm A := by
  unfold State.chainMsix
  refine .ite ?_ hs.raiseMsix
  split
  · exact (hs.defer.get ‹_›)
  · exact hs.raiseMsix.overflowed

theorem State.Calm.finishMate {v : Nat} (hs : s.Calm A) : (s.finishMate p o v).Calm A := by
  unfold State.finishMate
  split
  · exact hs
  split
  · exact hs.finishOp
  · exact hs

theorem State.Calm.release {d : Deferred} (hs : s.Calm A) : (s.release p d).Calm A := by
  unfold State.release
  dsimp only
  split
  · split
    · exact hs.store.markStale.cleanse.wpReport
    · exact hs.store.markStale.cleanse
  · exact hs.store.markStale.cleanse.finishOp.finishMate
  · exact hs.raiseMsix
  · exact hs

theorem State.Calm.releaseAll (hs : s.Calm A) : (s.releaseAll p).Calm A :=
  .foldl (hs.modFree (fun _ => rfl) fun _ hc => ⟨hc.late, hc.ops, hc.snags, nofun, hc.strands, hc.unlocked, hc.prompt⟩) (fun _ _ hx => hx.release)

theorem State.Calm.datumOf (hs : s.Calm A) : (s.datumOf p).Calm A :=
  hs.modCore fun _ => rfl

theorem State.Calm.writeDatum (hs : s.Calm A) : (s.writeDatum p).Calm A :=
  .foldl hs (fun _ _ hx => hx.writeMem.withFresh ((writeMem_fresh ..).le.trans (Nat.le_add_right ..)))

theorem State.Calm.takeDatum (hs : s.Calm A) : (s.takeDatum n).Calm A :=
  .modInst (.foldl (.foldl hs (fun _ _ hx => hx.datumOf)) (fun _ _ hx => hx.writeDatum))

theorem State.Calm.applyUndo {l : List Undo} (hs : s.Calm A) : (s.applyUndo l).Calm A :=
  .foldl hs (fun _ _ hx => hx.store.setFull)

theorem State.Calm.dropFill {m : Cmd} (hs : s.Calm A) : (s.dropFill p m).Calm A :=
  .ite hs.modCluster hs

theorem State.Calm.dropFills {i : Instance} (hs : s.Calm A) : (s.dropFills i p).Calm A :=
  .foldl hs (fun _ _ hx => .foldl hx (fun _ _ hy => hy.dropFill))

theorem State.Calm.rollback [Fact (A.mode = .numbers)] {i : Instance} (hs : s.Calm A) : (s.rollback n i).Calm A :=
  .modInst (.foldl (.applyUndo (.foldl hs (fun _ _ hx => hx.dropFills))) (fun _ _ hx => by
    split
    · exact hx.modSeq fun _ => Nat.le_refl _
    · exact hx))

theorem State.Calm.endSstep [Fact (A.mode = .rests)] (hs : s.Calm A) : (s.endSstep p).Calm A := by
  unfold State.endSstep
  split
  · exact hs
  split
  · exact .ite hs.endWait.sstepBoundary hs
  · exact hs

theorem State.Calm.enterAll [Fact (A.mode = .rests)] (hs : s.Calm A) : (s.enterAll n).Calm A := by
  unfold State.enterAll
  dsimp only
  split
  · exact .foldl (hs.modInst.modInstCores fun _ => rfl) (fun _ _ hx => hx.endSstep)
  · exact .ite (.takeDatum (.foldl (.foldl (hs.modInst.modInstCores fun _ => rfl) (fun _ _ hx => hx.endSstep)) (fun _ _ hx => hx.releaseAll)))
      (.foldl (hs.modInst.modInstCores fun _ => rfl) (fun _ _ hx => hx.endSstep))

theorem execComputeEntry_calm [Fact (A.mode = .rests)] {iid : Nat} (hs : s.Calm A) : NextCalm A (execComputeEntry iid s) := by
  unfold execComputeEntry
  split
  · exact .fault
  · exact .ite (.next hs.enterAll) .fault

/-! ### The pieces of a command -/

theorem State.Calm.engStore [Fact (A.mode = .numbers)] {va : Word} {l : Nat} {bs : List Byte} {rs host full : Bool}
    (hs : s.Calm A) : (s.engStore p va l bs rs host full).Calm A := by
  unfold State.engStore
  refine .ite ?_ (.ite (.ite hs hs.writeRouted) hs.writeMem)
  refine .ite hs ?_
  refine .ite ?_ hs.writeMem
  split
  · exact (hs.defer.get ‹_›)
  · exact hs.writeMem.overflowed

theorem State.Calm.modCmd {slot seq : Nat} {f : Cmd → Cmd} (hs : s.Calm A) : (s.modCmd p slot seq f).Calm A :=
  hs.modCore fun _ => rfl

theorem State.Calm.engFault [Fact (A.mode = .numbers)] {slot : Nat} {m : Cmd} {kind cause : Nat} {va : Word}
    {waits : Nat → Cmd → Cmd} {failed : Cmd → Cmd}
    (hs : s.Calm A) : AllSome (State.Calm A) (s.engFault p slot m kind cause va waits failed) := by
  unfold State.engFault
  dsimp only
  refine .ite (.intro (.modCmd (.ite hs hs.countDrop))) ?_
  split
  · exact .intro (.modCmd ((State.Calm.pushSnag (.ite hs hs.countDrop)).get ‹_›))
  · exact .ite .none (.intro (.modCmd (.ite hs hs.countDrop)))

theorem State.Calm.cover {m : Cmd} {l : Nat} (hs : s.Calm A) : (s.cover m l).2.Calm A := by
  unfold State.cover
  dsimp only
  split
  · exact hs
  · split <;> exact hs

theorem State.Calm.engStores [Fact (A.mode = .numbers)] {m : Cmd} {full : Bool} {xs : List ((Part × Nat × Bool × Bool) × List Byte)} (hs : s.Calm A) :
    (s.engStores p m full xs).2.Calm A := by
  induction xs generalizing s m with
  | nil => exact hs
  | cons x r ih =>
    unfold State.engStores
    dsimp only
    refine ih ?_
    split
    · exact hs.engStore.cover
    · exact hs.engStore

theorem finishChain_seq (c : Core) (slot : Nat) (x : Chain) (l : List Nat) (b : Prop) [Decidable b] (k bit : Nat) :
    (if b then (Core.unlockRows { c with chains := put slot x c.chains } l).wake k bit
      else Core.unlockRows { c with chains := put slot x c.chains } l).seq = c.seq := by
  split
  · exact wake_seq _ _ _
  · rfl

theorem State.Calm.finishCmd [Fact (A.mode = .numbers)] {slot : Nat} {m : Cmd} {wrote : Bool} (hs : s.Calm A) : (s.finishCmd p slot m wrote).Calm A :=
  have h1 := hs.modSeq (p := p) fun c => (finishChain_seq c _ _ _ _ _ _).le
  .markMigrating (.dropFill (.ite h1.chainMsix h1))

theorem State.Calm.afterFinal [Fact (A.mode = .numbers)] {slot : Nat} {m : Cmd} {w : Nat} (hs : s.Calm A) : (s.afterFinal p slot m w).Calm A :=
  .ite hs.modCmd hs.finishCmd

theorem State.Calm.postEng {elem : Nat} {hash : Word} {g : EngMsg}
    (hs : s.Calm A) : AllSome (State.Calm A) (s.postEng p elem hash g) := by
  unfold State.postEng
  dsimp only
  split
  · exact .none
  · exact .map fun _ => hs

theorem State.Calm.finalFault [Fact (A.mode = .numbers)] {slot : Nat} {m : Cmd} {w kind cause : Nat} {va : Word}
    (hs : s.Calm A) : NextCalm A (s.finalFault p slot m w kind cause va) := by
  unfold State.finalFault
  split
  · exact .next (hs.engFault.get ‹_›)
  · exact .fault

theorem State.Calm.writeFinal [Fact (A.mode = .numbers)] {slot : Nat} {m : Cmd} {w : Nat} (hs : s.Calm A) : NextCalm A (s.writeFinal p slot m w) := by
  unfold State.writeFinal
  dsimp only
  split
  · refine .ite .fault ?_
    refine .ite ?_ (.next hs.payFor.walked.engStore.afterFinal)
    split
    · exact .next (.modCmd (hs.payFor.walked.postEng.get ‹_›))
    · exact .fault
  · exact hs.finalFault
  · split
    · exact .next hs.modCmd
    · exact .ite .fault hs.finalFault
  · exact .fault

theorem execEngineCommandComplete_calm [Fact (A.mode = .numbers)] {core slot : Nat}
    (hs : s.Calm A) : NextCalm A (execEngineCommandComplete core slot s) := by
  unfold execEngineCommandComplete
  split
  · exact .fault
  refine .ite .fault ?_
  split
  · exact hs.writeFinal
  · split
    · exact hs.writeFinal
    · exact hs.writeFinal
    · exact hs.writeFinal
    · exact .next hs.finishCmd
  · exact .fault

theorem State.Calm.engForward [Fact (A.mode = .numbers)] {a b : Nat} {g : EngMsg} (hs : s.Calm A) : (s.engForward a b g).Calm A := by
  unfold State.engForward
  dsimp only
  split
  · split
    · exact .afterFinal (.afterFinal (.foldl hs (fun _ _ hx => hx.engStore)))
    split
    · exact .ite hs.modCmd.modCmd hs.engStores.modCmd.modCmd
    · exact hs
  · exact hs

/-! ### The exchange and closures -/

theorem State.Calm.planWalked {i : Instance} {t : Tract} (hs : s.Calm A) : (s.planWalked p i t).Calm A := by
  unfold State.planWalked
  dsimp only
  refine .ite hs ?_
  split
  · exact hs.walked
  · exact .foldl hs.walked (fun _ _ hx => hx.walked)
  · exact hs

theorem State.Calm.overrun (hs : s.Calm A) : (s.overrun p).Calm A :=
  hs.mcLog.killTractOf

theorem State.Calm.finishExch (hs : s.Calm A) : (s.finishExch p).Calm A := by
  unfold State.finishExch
  dsimp only
  refine .ite ?_ hs
  split
  · exact hs.modCore fun _ => rfl
  · exact .ite ((hs.modCore fun _ => by rfl).modInst.modInstCores fun _ => rfl) (hs.modCore fun _ => by rfl).modInst

theorem State.Calm.addRx {step : Nat} (hs : s.Calm A) : (s.addRx p n step).Calm A :=
  .ite hs.overrun (.ite (hs.modCore fun _ => by rfl).overrun (hs.modCore fun _ => by rfl).finishExch)

theorem State.Calm.planTrap [Fact (A.mode = .rests)] {info : Word} (hs : s.Calm A) : (s.planTrap p info).Calm A :=
  .ite (.trapAll (.foldl (hs.modCore fun _ => rfl) (fun _ _ hx => hx.clearWait))) ((hs.modCore fun _ => by rfl).modCore fun _ => rfl)

theorem execExchangeStart_calm [Fact (A.mode = .rests)] {core : Nat} (hs : s.Calm A) : NextCalm A (execExchangeStart core s) := by
  unfold execExchangeStart
  dsimp only
  split
  · split
    · exact .fault
    refine .ite .fault ?_
    split
    · exact .fault
    · exact .fault
    · exact .next hs.dropAt.planTrap
    · exact .next (hs.planWalked.modCore fun _ => by rfl).addRx
  · exact .fault

theorem State.Calm.exchFault {va : Nat} (hs : s.Calm A) : (s.exchFault p va).Calm A :=
  hs.modStrand fun _ => rfl

theorem State.Calm.sendRecord {core : Nat} {i : Instance} {r : PlanRecord} {ws : List Word}
    (hs : s.Calm A) : AllSome (State.Calm A) (s.sendRecord core n i r ws) := by
  unfold State.sendRecord
  extract_lets e hash s1 t lost s2
  have h1 : s1.Calm A := hs.modCore fun _ => rfl
  have h2 : s2.Calm A := .ite h1.exchFault (.ite h1 h1)
  split
  · exact .intro h2.finishExch
  · refine .map fun _ => State.Calm.finishExch ?_
    exact h2

theorem execExchangeRecordIssue_calm {core : Nat} (hs : s.Calm A) : NextCalm A (execExchangeRecordIssue core s) := by
  unfold execExchangeRecordIssue
  dsimp only
  split
  · refine .ite .fault ?_
    refine .ite (.next (hs.drawn.pay.modCore fun _ => rfl)) ?_
    split
    · refine .next (State.Calm.sendRecord ?_ |>.get ‹_›)
      exact hs.drawn.pay.modCore fun _ => rfl
    · exact .fault
  · exact .fault

theorem State.Calm.addRxBoth {step : Nat} (hs : s.Calm A) : (s.addRxBoth p n step).Calm A := by
  unfold State.addRxBoth
  split
  · exact hs.addRx
  · exact hs.addRx.addRx

theorem State.Calm.slip (hs : s.Calm A) : s.slip.Calm A :=
  .ite hs.drawn hs.drawn.modDie

theorem State.Calm.receive {t : Transfer} {q : Nat} (hs : s.Calm A) : (s.receive k t q).Calm A :=
  .ite (.addRxBoth (.writeRouted (.ite hs.drawn.slip hs.drawn))) (.writeRouted (.ite hs.drawn.slip hs.drawn))

theorem execExchangeReceive_calm (hs : s.Calm A) : NextCalm A (execExchangeReceive k s) := by
  unfold execExchangeReceive
  dsimp only
  split
  · exact .fault
  · exact .ite (.next hs.slip) (.ite (.next (.exchFault hs.slip)) (.ite .fault (.next hs.receive)))

theorem State.Calm.mismatch {c : Closure} (hs : s.Calm A) : (s.mismatch c).Calm A :=
  hs.mcLog.mcLog.killTractOf.quarCore.quarCore

theorem State.Calm.performPair [Fact (A.mode = .numbers)] {a b : Nat} {x y : MemOp} (hs : s.Calm A) : AllSome (State.Calm A) (s.performPair a b x y) := by
  unfold State.performPair
  dsimp only
  split
  · exact .intro hs.snagOp.snagOp
  · refine .ite .none (.ite (.ite ?_ ?_) ?_)
    · exact hs.pay.deferOp.image fun _ hx => .ite hx hx.finishMate
    · exact .intro (.wholeRow (.finishOp (.finishOp (.ite hs.pay.effect.overflowed hs.pay.effect))))
    · split
      · exact .ite (.intro hs.pay.pay.perform.perform) .none
      · exact .none
  · exact .none

theorem State.Calm.forward [Fact (A.mode = .numbers)] {c : Closure} (hs : s.Calm A) : AllSome (State.Calm A) (s.forward c) := by
  unfold State.forward
  dsimp only
  split
  · split
    · exact .intro hs.sendMessage
    · exact .intro hs
  · refine .ite .none ?_
    split
    · exact .intro hs
    · exact .ite (.intro hs) (.ite .none (.intro hs.addRxBoth))
  · split
    · exact .intro hs.engForward
    · exact .intro hs
  split
  · exact .intro hs
  split
  · exact hs.performPair
  · exact .intro hs

theorem execClosureCheck_calm [Fact (A.mode = .numbers)] (hs : s.Calm A) : NextCalm A (execClosureCheck k s) := by
  unfold execClosureCheck
  have h1 : State.Calm A { s with closures := s.closures.eraseIdx k } := hs
  dsimp only
  split
  · exact .fault
  split
  · refine .ite ?_ (.next (.mismatch h1))
    split
    · exact .next (h1.forward.get ‹_›)
    · exact .fault
  · exact .fault

theorem execClosureTimeout_calm (hs : s.Calm A) : NextCalm A (execClosureTimeout k s) := by
  unfold execClosureTimeout
  dsimp only
  split
  · exact .fault
  · exact .ite .fault (.next (.mismatch hs))

end

end Sys2Proof.Machine

/-! PROOFS. Tiles, residencies, chains, commands and long accumulators leave the watched row open (R303 to R328). -/

namespace Sys2Proof.Machine

section
variable {A : Watch} {s src : State} {p k n : Nat} {h : Hdr} {o : MemOp} {w : WordSpec}

/-! ### Service -/

theorem State.Calm.stopCmd {slot seq : Nat} (hs : s.Calm A) : (s.stopCmd p slot seq).Calm A :=
  hs.modCore fun _ => rfl

theorem execMachineCheck_calm {core strand unit lane obs expected : Nat}
    (hs : s.Calm A) : NextCalm A (execMachineCheck core strand unit lane obs expected s) := by
  unfold execMachineCheck
  dsimp only
  refine .ite .fault ?_
  refine .ite ?_ (.ite .fault (.next hs.mcLog.killTractOf.quarCore))
  split
  · exact .ite .fault (.next hs.mcLog.stopCmd.killTractOf.quarArray)
  · exact .fault

theorem State.Calm.startTest (hs : s.Calm A) : (s.startTest p).Calm A :=
  .ite (hs.modCore fun _ => rfl) (hs.modCore fun _ => rfl)

theorem State.Calm.clearQuar {bits : BitVec 3} (hs : s.Calm A) : (s.clearQuar p bits).Calm A :=
  .ite (.modCore (.ite (.modCluster (.ite (hs.modCore fun _ => by rfl).setRemapState hs)) (.ite (hs.modCore fun _ => by rfl).setRemapState hs)) fun _ => rfl)
      (.ite (.modCluster (.ite (hs.modCore fun _ => by rfl).setRemapState hs)) (.ite (hs.modCore fun _ => by rfl).setRemapState hs))

theorem State.Calm.rebuildTcm {bank : Nat} (hs : s.Calm A) : (s.rebuildTcm p bank).Calm A :=
  .ite hs (hs.modCore fun _ => rfl)

theorem State.Calm.rebuildCsp {bank : Nat} (hs : s.Calm A) : (s.rebuildCsp n bank).Calm A :=
  .ite hs hs.modCluster

/-! ### Tiles, residencies and register pages -/

theorem State.Calm.wipe {a : Nat} (hs : s.Calm A) : (s.wipe a n).Calm A := hs

theorem State.Calm.setTile {clu : Nat} {old new : Tile} (hs : s.Calm A) : (s.setTile clu old new).Calm A :=
  hs.modCluster

theorem State.Calm.writeSlot {ctx : Nat} {save : Word} {log : Nat} (hs : s.Calm A) : (s.writeSlot ctx save log).Calm A := by
  unfold State.writeSlot
  refine State.Calm.withFresh (State.Calm.foldl hs fun x i hx => ?_) ((foldl_fresh (fun x i => ?_) _ _).le.trans (Nat.le_add_right ..))
  · split
    · exact hx.writeMem
    · exact hx
  · split
    · exact writeMem_fresh ..
    · rfl

theorem State.Calm.imageTile {t : Tile} (hs : s.Calm A) : (s.imageTile t).Calm A := by
  unfold State.imageTile
  dsimp only
  split
  · exact hs
  · exact hs.writeSlot.modPart

theorem State.Calm.saveTiles {clu first : Nat} (hs : s.Calm A) : (s.saveTiles clu first n).Calm A :=
  .modCluster (.foldl hs (fun _ _ hx => hx.imageTile))

theorem State.Calm.touch {clu : Nat} {t : Tile} (hs : s.Calm A) : AllSome (·.1.Calm A) (s.touch clu t) := by
  unfold State.touch
  dsimp only
  split
  · exact .intro hs
  · exact .ite (.intro hs.saveTiles.wipe.store.setTile) .none

theorem execClaim_prompt {d : BitVec 8} {n : BitVec 7} : s.Prompt (execClaim h d n s) := by
  unfold execClaim
  exact runWord_prompt (fun _ _ _ hx => by
    dsimp only
    split
    · exact .done hx.wS
    · exact .done hx.saveTiles.wipe.modCluster.wS)

theorem onTile_calm {w : Word} {shaped : Bool} {f : State → Tile → Res}
    (hs : s.Calm A) (hf : ∀ x y1, x.Calm A → (f x y1).Calm A) : (onTile w p shaped f s).Calm A := by
  unfold onTile
  split
  · trivial
  refine .ite trivial ?_
  refine .ite trivial ?_
  split
  · trivial
  · exact hf _ _ (hs.touch.get ‹_›)

theorem execRels_prompt {a : BitVec 8} : s.Prompt (execRels h a s) := by
  unfold execRels
  exact runWord_prompt (fun _ _ _ hx => by
    split
    · trivial
    · exact .ite trivial (.done hx.modCluster))

theorem execTrow_prompt {d a b : BitVec 8} : s.Prompt (execTrow h d a b s) := by
  unfold execTrow
  exact runWord_prompt (fun _ _ _ hx => onTile_calm hx (fun _ _ hy => by
    split
    · trivial
    · exact .ite trivial (hy.payOr (fun _ hy => .done hy.wV))))

theorem State.Calm.putTileLanes {l : Nat} {eq : BitVec 16} {r : Row} (hs : s.Calm A) : (s.putTileLanes l eq r).Calm A :=
  .foldl hs (fun _ _ hx => .ite (.ite hx.store.cleanse hx.store) hx)

theorem execTwrow_prompt {a b c : BitVec 8} : s.Prompt (execTwrow h a b c s) := by
  unfold execTwrow
  exact runWord_prompt (fun _ _ _ hx => onTile_calm hx (fun _ _ hy => by
    split
    · trivial
    · exact hy.payOr (fun _ hy => .done hy.putTileLanes)))

theorem State.Calm.putElem {clu : Nat} {t : Tile} {r c v : Nat} (hs : s.Calm A) : (s.putElem clu t r c v).Calm A :=
  .ite hs.store hs.store

theorem State.Calm.modRes {clu mask : Nat} {f : Residency → Residency} (hs : s.Calm A) : (s.modRes clu mask f).Calm A :=
  hs.modCluster

theorem onRes_prompt {a : BitVec 8} {f : Nat → Residency → State → Res}
    (hf : ∀ {A : Watch} [Fact (A.mode ≠ .rests)] p k x, x.Calm A → (f p k x).Calm A) : s.Prompt (onRes h a f s) := by
  unfold onRes
  exact runWord_prompt (fun _ _ _ hx => by
    dsimp only
    split
    · trivial
    · exact hf _ _ _ hx)

theorem State.Calm.revoke {clu : Nat} {r : Residency} (hs : s.Calm A) : (s.revoke clu r).Calm A :=
  hs.modCluster

theorem execWrquery_prompt {d a : BitVec 8} : s.Prompt (execWrquery h d a s) := by
  unfold execWrquery
  exact runWord_prompt (fun _ _ _ hx => by
    dsimp only
    split
    · exact .done (.wS (hx.twinValue.get ‹_›))
    · trivial)

/-! ### Chains -/

theorem State.Calm.clearCword {sup : Bool} {va : Word} (hs : s.Calm A) : (s.clearCword p sup va).Calm A := by
  unfold State.clearCword
  split
  · exact .ite hs (.ite hs.writeRouted hs.writeMem)
  · exact hs

theorem State.Calm.chainWalked {ring : List Word} {cword : Word} (hs : s.Calm A) : (s.chainWalked p ring cword).Calm A :=
  .foldl hs (fun _ _ hx => hx.walked)

theorem execChain_prompt {d a : BitVec 8} : s.Prompt (execChain h d a s) := by
  unfold execChain
  exact runWord_prompt (fun _ _ _ hx => by
    dsimp only
    split
    · exact .done hx.wS
    refine .ite trivial ?_
    refine .ite (hx.payOr (fun _ hy => .done hy.wS)) ?_
    split
    · refine .ite (hx.payOr (fun _ hy => .done hy.wS)) ?_
      split
      · exact hx.payOr (fun _ hy => .done hy.wS)
      · exact hx.payOr (fun _ hy => .done (hy.chainWalked.clearCword.modCore fun _ => by rfl).wS)
    · trivial)

theorem execChainUnbind_prompt {d a : BitVec 8} : s.Prompt (execChainUnbind h d a s) := by
  unfold execChainUnbind
  exact runWord_prompt (fun _ _ _ hx => by
    dsimp only
    split
    · exact .done hx.wS
    · exact .ite trivial (.done (hx.modCore fun _ => by rfl).wS))

theorem appendOps_id {a : Word} {e : Ecw} {eop : Nat} : ∀ o ∈ s.appendOps p k a e eop, o.id = s.curId p := by
  intro o ho
  obtain ⟨i, _, rfl⟩ := List.mem_map.mp ho
  rfl

theorem readRow_reading (c : Core) (r n : Nat) (hn : 0 < n) : (c.readRow r n).reading ≠ c.reading := by
  intro h
  have hall : ∀ x ∈ c.reading, c.cycle < x.2 := by
    rw [← h]
    intro x hx
    rcases List.mem_append.mp hx with hx | hx
    · simpa using (List.mem_filter.mp hx).2
    · rw [List.mem_singleton.mp hx]
      omega
  have hlen := congrArg List.length h
  rw [Core.readRow, List.filter_eq_self.mpr (by simpa using hall)] at hlen
  simp at hlen

/-- APPEND begins to read its row (R306). -/
theorem State.Calm.reads [hm : Fact (A.mode ≠ .rests)] {c : Core} (hs : s.Calm A)
    (hreading : p = A.core → A.mode = .acts → c.reading ≠ A.reading) (hseq : c.seq = (s.core p).seq) : (s.setCore p c).Calm A := by
  by_cases hp : A.core = p
  · refine hs.setOpen fun ho => ?_
    unfold Core.Open at ho ⊢
    split at ho
    · exact hseq.trans_le ho
    · next hr => exact absurd hr hm.out
    · next ha => exact fun hr => absurd hr (hreading hp.symm ha)
  · exact hs.of_core (core_setCore_other hp) (Nat.le_refl _)

theorem execAppend_prompt {d a b : BitVec 8} {u : BitVec 1} : s.Prompt (execAppend h d a b u s) := by
  unfold execAppend
  refine runWord_prompt_of fun p k x hx hstart => ?_
  dsimp only
  split
  · trivial
  refine .ite trivial ?_
  split
  · trivial
  refine .ite trivial ?_
  split
  · trivial
  refine .ite trivial ?_
  split
  · next s1 e =>
    refine .done (State.Calm.reads ((hx.issueOps appendOps_id).get e) (fun hp ha => ?_) rfl)
    subst hp
    rw [← hstart.reading, ← issueOps_reading e]
    exact readRow_reading _ _ 2 (by decide)
  · exact hx.issueOps appendOps_id

theorem State.Calm.clearErr {hd : Word} (hs : s.Calm A) : (s.clearErr p k hd).Calm A := by
  unfold State.clearErr
  split
  · exact hs
  · exact .ite (hs.modCore fun _ => rfl) hs

theorem execSeqrd_prompt {d a : BitVec 8} {k : BitVec 2} : s.Prompt (execSeqrd h d a k s) := by
  unfold execSeqrd
  exact runWord_prompt (fun _ _ _ hx => by
    dsimp only
    split
    · exact .done (.wS (.clearErr (hx.twinValue.get ‹_›)))
    · trivial)

/-! ### Commands -/

theorem State.Calm.endCmd {slot : Nat} {m : Cmd} {status events reload : Nat}
    (hs : s.Calm A) : (s.endCmd p slot m status events reload).Calm A :=
  hs.modCmd.modFree (fun _ => rfl) fun _ hc => hc.unlockRows

theorem State.Calm.engSnag [Fact (A.mode = .numbers)] {slot : Nat} {m : Cmd} {kind cause : Nat} {va : Word}
    (hs : s.Calm A) : NextCalm A (s.engSnag p slot m kind cause va) := by
  unfold State.engSnag
  split
  · exact .next (hs.engFault.get ‹_›)
  · exact .fault

theorem State.Calm.workAt [Fact (A.mode = .numbers)] {slot : Nat} {m : Cmd} {f : Runner} {c : Piece} {xs : List (Part × Nat × Bool × Bool)}
    (hs : s.Calm A) : NextCalm A (s.workAt p slot m f c xs) := by
  unfold State.workAt
  dsimp only
  refine .ite ?_ (.ite (.next hs.modCmd) (.next hs.engStores.modCmd))
  split
  · exact .fault
  · exact .next (.modCmd (hs.postEng.get ‹_›))

theorem State.Calm.workStep [Fact (A.mode = .numbers)] {slot : Nat} {m : Cmd} {f : Runner} (hs : s.Calm A) : NextCalm A (s.workStep p slot m f) := by
  unfold State.workStep
  dsimp only
  split
  · exact .fault
  split
  · exact hs.drawn.engSnag
  · split
    · exact .next hs.modCmd
    · exact .ite .fault hs.drawn.engSnag
  · exact .ite .fault (State.Calm.workAt (.foldl hs.drawn.payFor (fun _ _ hx => .ite hx hx.walked)))
  · exact .fault

theorem into_calm {α : Type} {x : Eng α} {f : α → Run} (hs : s.Calm A) (hf : ∀ a, (f a).Calm A) : (x.into s f).Calm A := by
  cases x with
  | ok a => exact hf a
  | fault => exact hs
  | wait => trivial
  | slow => trivial
  | poison => exact hs

theorem runCmd_calm [Fact (A.mode = .numbers)] {eop : Nat} {e : Ecw} {f : Runner} (hs : s.Calm A) (hf : f.Calm A) : NextCalm A (runCmd eop e f s) := by
  unfold runCmd
  dsimp only
  split
  · exact .fault
  · refine .ite .fault (.ite hs.workStep ?_)
    have hg := hf s.focus.pcid s.focus.slot ‹Cmd› s hs
    split
    · exact .next (hg.getGo ‹_›).modCmd
    · exact .next (hg.getDone ‹_›).endCmd
    · exact (hg.getSnag ‹_›).engSnag
    · exact .fault
    · exact .fault

/-! ### The matrix queue -/

theorem State.Calm.endFill {m : Cmd} {r : Residency} (hs : s.Calm A) : AllSome (State.Calm A) (s.endFill p m r) :=
  .ite .none (.intro hs.modRes)

theorem State.Calm.touchAll {clu : Nat} {ts : List Tile} (hs : s.Calm A) : AllSome (State.Calm A) (s.touchAll clu ts) := by
  induction ts generalizing s with
  | nil => exact .intro hs
  | cons t r ih =>
    unfold State.touchAll
    split
    · exact ih hs
    · split
      · exact ih (hs.touch.get ‹_›)
      · exact .none

theorem State.Calm.storeTile {m : Cmd} {t : Tile} (hs : s.Calm A) : (s.storeTile p m t).1.Calm A :=
  foldl_fst_calm hs fun _ _ hx => hx.putElem

theorem State.Calm.cleanTile {clu : Nat} {t : Tile} {rows : Nat} (hs : s.Calm A) : (s.cleanTile clu t rows).Calm A :=
  .foldl hs (fun _ _ hx => hx.cleanse)

/-! ### Long accumulators and collective commands -/

theorem accOps_id {l : Nat} {va : Word} {a : Acc} : ∀ o ∈ s.accOps p k l va a, o.id = s.curId p := by
  intro o ho
  obtain ⟨i, _, h⟩ := List.mem_filterMap.mp ho
  dsimp only at h
  split at h
  · cases h
  · cases h
    rfl

theorem pay_curId (s : State) (p k n : Nat) : (s.pay p k n).curId p = s.curId p := by
  obtain ⟨pw, e⟩ := core_pay s p k n p
  exact (congrArg Core.seq e :)

theorem State.Calm.writeAcc [Fact (A.mode ≠ .rests)] {l : Nat} {va : Word} {a : Acc} {f : State → State}
    (hs : s.Calm A) (hf : ∀ x, x.Calm A → (f x).Calm A) : (s.writeAcc p k l va n a f).Calm A := by
  unfold State.writeAcc
  dsimp only
  have hl : ∀ o ∈ s.accOps p k l va a, o.id = (s.pay p 0 (n * s.charge p 4)).curId p := fun o ho =>
    (accOps_id o ho).trans (pay_curId ..).symm
  refine .ite trivial ?_
  split
  · exact .done (hf _ ((hs.pay.issueOps hl).get ‹_›))
  · exact hs.pay.issueOps hl

theorem State.Calm.readAccWords {f : State → State}
    (hs : s.Calm A) (hf : ∀ x, x.Calm A → (f x).Calm A) : (s.readAccWords p n f).Calm A :=
  .ite (.done (hf _ hs.pay)) trivial

theorem State.Calm.orLaev {a : Acc} (hs : s.Calm A) : (s.orLaev p k a).Calm A :=
  hs.putHbits

theorem onObject_calm {va : Word} {reads : Nat → List Nat} {f : Nat → Acc → Res} (hf : ∀ l a, (f l a).Calm A) :
    (onObject va p k reads f s).Calm A := by
  unfold onObject
  split
  · trivial
  · exact .ite trivial (.ite trivial (hf _ _))

theorem State.Calm.addTo [Fact (A.mode ≠ .rests)] {va : Word} {xs : List FVal} (hs : s.Calm A) : (s.addTo p k va xs).Calm A :=
  onObject_calm fun _ _ => hs.writeAcc fun _ hx => hx.orLaev

theorem execLaclr_prompt {a : BitVec 8} : s.Prompt (execLaclr h a s) := by
  unfold execLaclr
  exact runWord_prompt (fun _ _ _ hx => by
    dsimp only
    split
    · trivial
    · exact .ite trivial (hx.writeAcc fun _ hy => hy))

theorem execLamrg_prompt {a b : BitVec 8} : s.Prompt (execLamrg h a b s) := by
  unfold execLamrg
  exact runWord_prompt (fun _ _ _ hx => by
    dsimp only
    split
    · trivial
    · exact onObject_calm fun _ _ => onObject_calm fun _ _ => hx.writeAcc fun _ hy => hy.orLaev)

/-! ### Poison -/

theorem State.Calm.ueAddr {cause addr : Nat} (hs : s.Calm A) : (s.ueAddr cause addr).2.Calm A := by
  unfold State.ueAddr
  split
  · exact hs.drawn
  · exact hs

theorem State.Calm.consume [Fact (A.mode = .numbers)] {cause addr pc op eop : Nat} (hs : s.Calm A) : (s.consume p cause addr pc op eop).Calm A := by
  unfold State.consume
  dsimp only
  split
  · refine .ite (.ite (State.Calm.mcLog ?_).killTractOf (.ite (State.Calm.killTractOf ?_)
      (.ite (State.Calm.mcLog ?_).killTractOf (State.Calm.rollback ?_)))) (State.Calm.killTractOf ?_)
    all_goals exact hs.ueAddr.mcLog.modCore fun _ => rfl
  · exact (hs.ueAddr.mcLog.modCore fun _ => by rfl).killTractOf

theorem State.Calm.consumeWord [Fact (A.mode = .numbers)] {cause addr : Nat} (hs : s.Calm A) : (s.consumeWord p o cause addr).Calm A :=
  hs.stopCheck.consume

/-! ### Commands, continued -/

theorem cpyRun_calm {full : Bool} : (cpyRun full).Calm A := by
  intro p slot m x hx
  dsimp only [cpyRun]
  split
  · exact .ite hx hx
  · split
    · exact .ite hx hx
    · exact hx
  · exact hx

theorem sigRun_calm : sigRun.Calm A := by
  intro p slot m x hx
  dsimp only [sigRun]
  split
  · exact .ite hx hx
  · split
    · exact .ite hx hx
    · exact hx
  · exact hx

theorem cpysRun_calm : cpysRun.Calm A := by
  intro p slot m x hx
  dsimp only [cpysRun]
  split
  · exact .ite hx hx
  · split
    · exact .ite hx hx
    · exact hx
  · exact hx

theorem cpygRun_calm : cpygRun.Calm A := by
  intro p slot m x hx
  dsimp only [cpygRun]
  split
  · exact .ite hx hx
  · exact .ite hx hx
  · exact .ite hx hx
  · exact hx
  · exact hx

theorem cpymxRun_calm : cpymxRun.Calm A := by
  intro p slot m x hx
  dsimp only [cpymxRun]
  split
  · exact .ite hx hx
  · split
    · exact .ite hx hx
    · exact hx
  · exact hx

/-! ### The matrix queue, continued -/

theorem State.Calm.beginFill {m : Cmd} {r : Residency} {wfmt stage : Nat} {a b : Word} {table : List (BitVec 19)}
    (hs : s.Calm A) : (s.beginFill p m r wfmt a b table stage).Calm A := by
  refine into_calm hs fun x => ?_
  split
  · exact hs
  · exact State.Calm.modRes (State.Calm.foldl hs fun _ _ hx => hx.walked)

theorem State.Calm.wloadGo {m : Cmd} (hs : s.Calm A) : (wloadGo p m s).Calm A := by
  unfold Machine.wloadGo
  dsimp only
  split
  · exact hs
  split
  · exact .ite hs (.ite hs hs)
  · split
    · exact .ite hs hs.beginFill
    · exact hs
  · split
    · exact hs.endFill.get ‹_›
    · exact hs

theorem State.Calm.storeResults {m : Cmd} (hs : s.Calm A) : (s.storeResults p m).Calm A := by
  unfold State.storeResults
  dsimp only
  refine .ite ?_ ?_
  · split
    · exact hs
    split
    · exact hs
    · exact .ite trivial (State.Calm.cleanTile (State.Calm.storeTile hs.pay))
  · split
    · exact hs
    · exact hs

theorem State.Calm.takeA {m : Cmd} {r : Residency} {kp : Nat} (hs : s.Calm A) : (s.takeA p m r kp).Calm A :=
  into_calm hs fun _ => .ite trivial (hs.pay.modFree (fun _ => rfl) fun _ hc => hc.unlockRows)

theorem State.Calm.badPlanes {m : Cmd} {r : Residency} {i stage : Nat} (hs : s.Calm A) : (s.badPlanes p m r i stage).Calm A :=
  .ite hs hs.beginFill

theorem State.Calm.makePass {slot : Nat} {m : Cmd} {r : Residency} (hs : s.Calm A) : (s.makePass p slot m r).Calm A :=
  .ite (.ite trivial hs.badPlanes) (.ite hs (.ite trivial hs.pay.modCluster))

theorem State.Calm.useRes {m : Cmd} {r : Residency} {kp : Nat} (hs : s.Calm A) : (s.useRes p m r kp).Calm A := by
  unfold State.useRes
  refine .ite trivial ?_
  split
  · exact hs
  · exact hs.beginFill
  · split
    · exact hs.badPlanes
    · exact hs.takeA

theorem State.Calm.reloaded {m : Cmd} {r : Residency} {stage : Nat} (hs : s.Calm A) : (s.reloaded p m r stage).Calm A := by
  unfold State.reloaded
  split
  · exact hs
  · exact hs.endFill.get ‹_›

theorem State.Calm.matrixGo {slot : Nat} {m : Cmd} (hs : s.Calm A) : (matrixGo p slot m s).Calm A := by
  unfold Machine.matrixGo
  dsimp only
  refine .ite hs (.ite hs.storeResults ?_)
  split
  · exact hs
  split
  · exact .ite hs (.ite hs hs)
  · refine .ite hs (.ite hs ?_)
    split
    · trivial
    · exact (State.Calm.touchAll hs).get ‹_› |>.useRes
  · exact hs.reloaded
  · exact hs.reloaded
  · exact hs.takeA
  · exact hs.makePass

/-! ### Long accumulators and collective commands, continued -/

theorem collGo_calm {e : Ecw} {fields listDst : Bool} {align entry : Nat} {f : List Word → Word → List Piece} {m : Cmd}
    (hs : s.Calm A) : (collGo e fields listDst align entry f m s).Calm A := by
  unfold collGo
  dsimp only
  split
  · exact .ite hs hs
  · exact .ite hs (.ite hs hs)
  · exact .ite hs hs
  · exact hs
  · exact hs

/-! ### The matrix queue, continued -/

theorem wloadRun_calm : wloadRun.Calm A := fun _ _ _ _ hx => hx.wloadGo

theorem matrixRun_calm : matrixRun.Calm A := fun _ _ _ _ hx => hx.matrixGo

/-! ### Long accumulators and collective commands, continued -/

theorem credRun_calm : credRun.Calm A := by
  intro p slot m x hx
  dsimp only [credRun]
  exact collGo_calm hx

theorem credxRun_calm : credxRun.Calm A := by
  intro p slot m x hx
  dsimp only [credxRun]
  exact collGo_calm hx

theorem collCopyRun_calm {gather : Bool} : (collCopyRun gather).Calm A := by
  intro p slot m x hx
  dsimp only [collCopyRun]
  exact collGo_calm hx

/-! ### Poison, continued -/

theorem runnerOf_calm {eop : Nat} : (runnerOf eop).Calm A :=
  .ite cpyRun_calm <| .ite cpysRun_calm <| .ite cpygRun_calm <| .ite cpyRun_calm <| .ite cpymxRun_calm <|
    .ite sigRun_calm <| .ite wloadRun_calm <| .ite credRun_calm <| .ite credxRun_calm <|
    .ite collCopyRun_calm <| .ite collCopyRun_calm matrixRun_calm

theorem State.Calm.cmdReads {slot cause addr : Nat} (hs : s.Calm A) :
    AllSome (·.2.Calm A) (s.cmdReads p slot cause addr) := by
  unfold State.cmdReads
  dsimp only
  split
  · exact .none
  refine .ite ?_ (.ite (.intro hs) .none)
  split
  · exact .ite (.intro ((runnerOf_calm _ _ _ _ hs).getPoison ‹_›)) .none
  · exact .none

theorem execPoisonConsumption_calm [Fact (A.mode = .numbers)] {core strand cause addr : Nat} (hs : s.Calm A) :
    NextCalm A (execPoisonConsumption core strand cause addr s) := by
  unfold execPoisonConsumption
  dsimp only
  split
  · exact .ite (.next hs.consumeWord) .fault
  · split
    case h_1 hb =>
      refine .next (AllSome.get (P := State.Calm A) ?_ hb)
      split
      · exact .ite (.intro hs.consume) (.ite (.intro hs.consume) (.ite (.intro hs.consume) .none))
      · exact .ite (.intro hs.consume) .none
    · exact .next (.consume (.stopCmd (hs.cmdReads.get ‹_›)))
    · exact .ite (.next hs.consume) .fault

end

end Sys2Proof.Machine

/-! PROOFS. Special registers, system words and the owner leave the watched row open (R331 to R336, R355). -/

namespace Sys2Proof.Machine

section
variable {A : Watch} {s src : State} {p k n : Nat} {h : Hdr} {o : MemOp} {w : WordSpec}

/-! ### Special registers -/

theorem State.Calm.coreRead (hs : s.Calm A) : (s.coreRead p k n).2.Calm A := by
  unfold State.coreRead
  dsimp only
  iterate 13 refine pair_ite_calm hs ?_
  exact hs

theorem State.Calm.dieRead {d off : Nat} (hs : s.Calm A) : (s.dieRead d off).2.Calm A := by
  unfold State.dieRead
  dsimp only
  refine pair_ite_calm hs (pair_ite_calm hs (pair_ite_calm (pair_ite_calm hs.coreRead hs) ?_))
  iterate 10 refine pair_ite_calm hs ?_
  exact hs

theorem State.Calm.dbgRead (hs : s.Calm A) : s.dbgRead.2.Calm A := by
  unfold State.dbgRead
  dsimp only
  split
  · exact hs
  split
  · exact hs
  · exact hs
  · split
    · exact hs.coreRead
    · exact hs
  · exact hs

theorem State.Calm.devRead {off : Nat} (hs : s.Calm A) : (s.devRead off).2.Calm A := by
  unfold State.devRead
  dsimp only
  split
  · exact hs
  split
  · exact hs.dbgRead
  split
  · exact hs
  split
  · exact hs
  split
  · exact hs
  split
  · exact hs
  split
  · exact hs
  · split <;> exact hs

theorem State.Calm.csrRead (hs : s.Calm A) : (s.csrRead p k n).2.Calm A := by
  unfold State.csrRead
  split
  · exact hs.coreRead
  split
  · exact hs.dieRead
  · exact hs.devRead

theorem State.Calm.writeQuar {v : Word} (hs : s.Calm A) : (s.writeQuar p v).Calm A :=
  .ite hs.clearQuar.startTest hs.clearQuar

theorem State.Calm.writeTcmecc {v : Word} (hs : s.Calm A) : (s.writeTcmecc p v).Calm A :=
  .ite (hs.modCore fun _ => by rfl).rebuildTcm ((hs.modCore fun _ => by rfl).modCore fun _ => rfl)

theorem State.Calm.writeCspecc {v : Word} (hs : s.Calm A) : (s.writeCspecc n v).Calm A :=
  .ite hs.modCluster.rebuildCsp hs.modCluster.modCluster

theorem Core.Open.resumeHelpers {c : Core} {v : Word} (h : c.Open A) : (c.resumeHelpers v).Open A := by
  unfold Core.resumeHelpers
  generalize List.range 11 = l
  induction l generalizing c with
  | nil => exact h
  | cons j l ih =>
    rw [List.foldl_cons]
    refine ih ?_
    dsimp only
    split
    · refine h.map rfl fun hc => Core.Free.of_face (c := c.setStrand j _) (hc.setStrand ?_) rfl
      exact (hc.strand j).of_same rfl rfl
    · exact h

theorem State.Calm.resumeHelpers {v : Word} (hs : s.Calm A) : (s.modCore p (·.resumeHelpers v)).Calm A :=
  hs.setOpen (·.resumeHelpers)

theorem State.Calm.coreWrite {v : Word} (hs : s.Calm A) : (s.coreWrite p n v).Calm A := by
  unfold State.coreWrite
  dsimp only
  refine .ite (hs.modCore fun _ => rfl) ?_
  refine .ite (.ite (hs.modStrand fun _ => rfl) hs) ?_
  refine .ite (hs.modCore fun _ => rfl) ?_
  refine .ite (hs.modCore fun _ => rfl) ?_
  refine .ite hs.modCluster ?_
  refine .ite hs.modCluster ?_
  split
  · exact .ite hs (hs.modCore fun _ => rfl)
  · exact hs.modCore fun _ => rfl
  · exact hs.modCore fun _ => rfl
  · exact hs.modCore fun _ => rfl
  · exact hs.modCore fun _ => rfl
  · exact hs.modCore fun _ => rfl
  · exact hs.modCore fun _ => rfl
  · exact hs.modCore fun _ => rfl
  · exact hs.modCore fun _ => rfl
  · exact hs.writeQuar
  · exact hs.writeTcmecc
  · exact hs.writeCspecc
  · exact hs.modCore fun _ => rfl
  · exact hs.modCore fun _ => rfl
  · exact hs.modCore fun _ => rfl
  · exact hs.modCore fun _ => rfl
  · exact hs.resumeHelpers
  · exact hs.modCore fun _ => rfl
  · exact hs.modCluster
  · exact hs.modCluster
  · exact hs

theorem State.Calm.writeBmask {d w : Nat} {v : Word} {rel : Nat} (hs : s.Calm A) : (s.writeBmask d k w v rel).Calm A := by
  unfold State.writeBmask
  dsimp only
  split
  · exact hs.modDie
  split
  · exact hs
  · exact .ite hs.modDie.noteConfig hs.modInst.noteConfig

theorem State.Calm.dieWrite {d off : Nat} {v : Word} (hs : s.Calm A) : (s.dieWrite d off v).Calm A := by
  unfold State.dieWrite
  dsimp only
  refine .ite hs ?_
  refine .ite hs.modDie ?_
  refine .ite hs.modDie ?_
  refine .ite hs.modDie ?_
  refine .ite hs.modDie ?_
  refine .ite hs.writeBmask ?_
  refine .ite hs.modDie ?_
  refine .ite hs.modDie ?_
  refine .ite hs.modDie ?_
  refine .ite hs.modDie ?_
  split
  · exact hs.modDie
  · exact hs.modDie
  · exact hs.modDie
  · exact hs.modDie
  · exact hs.modDie
  · exact hs.modDie
  · exact hs.modDie
  · exact hs

theorem State.Calm.writeQcfg {v : Word} (hs : s.Calm A) : (s.writeQcfg n v).Calm A :=
  .ite hs hs.modQueue

theorem State.Calm.writeQhead {v : Word} (hs : s.Calm A) : (s.writeQhead n v).Calm A :=
  .ite hs hs.modQueue

theorem State.Calm.writeQtail {v : Word} (hs : s.Calm A) : AllSome (State.Calm A) (s.writeQtail n v) :=
  .ite (.ite .none (.intro hs.modDie)) (.intro hs.modQueue)

theorem State.Calm.writeStrbase {fw : Bool} {v : Word} (hs : s.Calm A) : (s.writeStrbase fw v).Calm A :=
  .ite hs hs

theorem State.Calm.dbgStop {ctx base : Nat} (hs : s.Calm A) : (s.dbgStop ctx base).Calm A := by
  unfold State.dbgStop
  dsimp only
  split
  · exact hs
  refine .ite hs ?_
  split
  · exact hs
  split
  · exact hs
  · exact .modInst hs

theorem State.Calm.dbgCancel (hs : s.Calm A) : s.dbgCancel.Calm A := by
  unfold State.dbgCancel
  dsimp only
  split
  · exact .ite (.modInst hs) hs
  · exact hs

theorem State.Calm.dbgGo {step : Bool} (hs : s.Calm A) : (s.dbgGo step).Calm A := by
  unfold State.dbgGo
  dsimp only
  split
  · exact .ite (.foldl (.modInst hs) (fun _ _ hx => .ite hx.startCore hx)) hs
  · exact hs

theorem State.Calm.writeDbgctl {v : Word} (hs : s.Calm A) : (s.writeDbgctl v).Calm A := by
  unfold State.writeDbgctl
  dsimp only
  split
  · exact .dbgCancel hs
  · exact .dbgStop hs
  · exact .dbgGo hs
  · exact .dbgGo hs

theorem State.Calm.dbgWrite {v : Word} (hs : s.Calm A) : (s.dbgWrite v).Calm A := by
  unfold State.dbgWrite
  dsimp only
  split
  · exact hs
  split
  · exact .ite hs.putWord hs
  · exact .ite hs.writeMem hs
  · exact .ite hs.coreWrite hs
  · exact hs

theorem State.Calm.devWrite {fw : Bool} {off : Nat} {v : Word} (hs : s.Calm A) :
    AllSome (State.Calm A) (s.devWrite fw off v) := by
  unfold State.devWrite
  refine .ite (.intro hs) (.ite (.intro (hs.of_cores rfl (Nat.le_refl _))) (.ite (.intro hs.writeQcfg) (.ite (.intro hs.writeQhead) (.ite hs.writeQtail ?_))))
  split
  · exact .intro hs.writeStrbase
  · exact .intro (hs.of_cores rfl (Nat.le_refl _))
  · exact .intro hs.writeDbgctl
  · exact .intro (hs.of_cores rfl (Nat.le_refl _))
  · exact .intro hs.dbgWrite
  · exact .intro hs

theorem State.Calm.csrWrite {v : Word} (hs : s.Calm A) : AllSome (State.Calm A) (s.csrWrite p n v) := by
  unfold State.csrWrite
  exact AllSome.ite (.intro hs.coreWrite) (AllSome.ite (.intro hs.dieWrite) hs.devWrite)

theorem execCsrr_prompt {d : BitVec 8} {csr : BitVec 16} : s.Prompt (execCsrr h d csr s) := by
  unfold execCsrr
  exact runWord_prompt (fun _ _ _ hx => by
    dsimp only
    split
    · exact .done (.wS (hx.csrRead.twinValue.get ‹_›))
    · trivial)

theorem execCsrw_prompt {a : BitVec 8} {csr : BitVec 16} : s.Prompt (execCsrw h a csr s) := by
  unfold execCsrw
  exact runWord_prompt (fun _ _ _ hx => by
    split
    · exact .done (hx.csrWrite.get ‹_›)
    · trivial)

theorem execCsrx_prompt {d a : BitVec 8} {csr : BitVec 16} : s.Prompt (execCsrx h d a csr s) := by
  unfold execCsrx
  exact runWord_prompt (fun _ _ _ hx => by
    dsimp only
    split
    · have h1 := hx.csrRead.twinValue.get ‹_›
      split
      · exact .done (.wS (h1.csrWrite.get ‹_›))
      · trivial
    · trivial)

/-! ### System words -/

theorem systemWord_prompt {lv lat : Nat} {d : BitVec 8} {ops : List Opnd} {body : Nat → Nat → State → Option (Word × State)}
    (hf : ∀ {A : Watch} [Fact (A.mode ≠ .rests)] p k x, x.Calm A → AllSome (·.2.Calm A) (body p k x)) : s.Prompt (systemWord h lv lat d ops body s) := by
  unfold systemWord
  exact runWord_prompt (fun _ _ _ hx => by
    split
    · exact .done (.wS ((hf _ _ _ hx).get ‹_›))
    · trivial)

/-- One core of cores that all change alike. -/
theorem look_map_core {f : Core → Core} (hf : f Core.init = Core.init) (q : Nat) (m : AMap Core) :
    look Core.init q (m.map fun c => (c.1, f c.2)) = f (look Core.init q m) := by
  induction m with
  | nil => exact hf.symm
  | cons e m ih =>
    simp only [List.map_cons, look]
    split
    · rfl
    · exact ih

theorem State.Calm.dropTlb {f : TlbEntry → Bool} (hs : s.Calm A) : (s.dropTlb f).Calm A := fun hd => by
  have hcore : (s.dropTlb f).core A.core = { s.core A.core with utlb := (s.core A.core).utlb.filter fun e => !f e } :=
    look_map_core (f := fun c => { c with utlb := c.utlb.filter fun e => !f e }) rfl _ _
  rw [hcore]
  exact (hs hd).of_face rfl

theorem tlbinvWord_prompt {lv : Nat} {a b : BitVec 8} {f : Nat → Word → Word → TlbEntry → Bool}
 : s.Prompt (tlbinvWord h lv a b f s) := by
  unfold tlbinvWord
  exact runWord_prompt (fun _ _ _ hx => .ite trivial (.done hx.dropTlb))

theorem State.Calm.putTcm {q : Nat} {i : SavedCore} (hs : s.Calm A) : (s.putTcm q i).Calm A :=
  hs

/-- An image is loaded to another core than the watched one. -/
theorem State.Calm.loadImage {part q : Nat} {i : SavedCore} (hs : s.Calm A) (hq : A.core ≠ q) : (s.loadImage part q i).Calm A :=
  State.Calm.of_core hs.renameTraffic.putTcm (core_setCore_other hq) (Nat.le_refl _)

theorem State.Calm.takeImage {part : Nat} {i : SavedCore} (hs : s.Calm A) : (s.takeImage part i).Calm A :=
  hs.modPart

/-- An image is loaded to a core without a place; where that is the watched one, a free value has been drawn. -/
theorem State.Calm.ctxLoad {q : Nat} (hs : s.Calm A) (hd : (s.core A.core).place = none → ∃ n, A.drawn = some n ∧ n < s.fresh) :
    (s.ctxLoad q).2.Calm A := by
  unfold State.ctxLoad
  dsimp only
  split
  · exact hs.modCore fun _ => rfl
  split
  · exact hs
  split
  · exact hs
  next hplace =>
  split
  · exact hs
  · by_cases hq : A.core = q
    · subst hq
      obtain ⟨n, hn, hlt⟩ := hd (by simpa using fun h => hplace (.inl h))
      refine State.Calm.takeImage fun h => absurd (h n hn) (Nat.not_le.mpr hlt)
    · exact (hs.loadImage hq).takeImage

theorem execCtxld_prompt {d a : BitVec 8} : s.Prompt (execCtxld h d a s) := by
  unfold execCtxld systemWord
  refine runWord_prompt_of fun p k x hx hstart => ?_
  dsimp only
  split
  · next heq =>
    refine .done (.wS ?_)
    split at heq
    · cases heq
      exact hx.drawn
    · cases heq
      exact hx.drawn.ctxLoad fun hplace => ⟨x.fresh, hstart.drawn hplace, Nat.lt_succ_self _⟩
  · trivial

theorem execSkim_prompt {d a : BitVec 8} : s.Prompt (execSkim h d a s) := by
  unfold execSkim
  exact systemWord_prompt (fun _ _ _ hx => by
    dsimp only
    refine .ite .none ?_
    refine .ite (.intro hx) ?_
    split
    · exact .intro hx
    · exact .intro hx.modDie)

theorem execAttest_prompt {d a b : BitVec 8} : s.Prompt (execAttest h d a b s) := by
  unfold execAttest
  exact systemWord_prompt (fun _ _ _ hx => by
    dsimp only
    refine .ite .none ?_
    split
    · exact .intro hx
    split
    · exact .ite (.intro hx.drawn) (.intro (hx.writeMem.withFresh (Nat.le_add_right_of_le (writeMem_fresh ..).le)))
    · exact .intro hx.drawn)

theorem State.Calm.outOfService (hs : s.Calm A) : (s.outOfService p).Calm A :=
  .ite (State.Calm.modCluster (hs.modCore fun c => by split <;> rfl)) (hs.modCore fun c => by split <;> rfl)

theorem State.Calm.quar {kind unit : Nat} (hs : s.Calm A) : (s.quar kind unit).2.Calm A := by
  unfold State.quar
  split
  · split
    · exact hs
    split
    · exact hs
    split
    · exact hs.quarCore.outOfService
    · exact hs.quarArray
    · exact hs.quarRouter
  split
  · exact hs
  split
  · exact hs
  split
  · exact hs.quarCore.outOfService
  · exact hs.quarArray
  · exact hs.quarRouter

theorem execMcread_prompt {d a : BitVec 8} : s.Prompt (execMcread h d a s) := by
  unfold execMcread
  exact runWord_prompt fun _ _ _ hx => .done hx.wV

theorem execPswitch_prompt {d a b : BitVec 8} : s.Prompt (execPswitch h d a b s) := by
  unfold execPswitch
  exact systemWord_prompt (fun _ _ _ hx => by
    dsimp only
    split
    · exact .intro hx.drawn
    · exact .ite (.intro hx) (.ite (.intro hx) (.intro hx.modPart)))

theorem State.Calm.installFb {v : Word} (hs : s.Calm A) : (s.installFb p v).Calm A :=
  hs.modCore fun _ => rfl

/-! ### The owner -/

theorem State.Calm.lapse (hs : s.Calm A) : s.lapse.Calm A := by
  unfold State.lapse
  split
  · exact .ite hs hs
  · exact hs

theorem State.Calm.fixLink (hs : s.Calm A) : s.fixLink.Calm A :=
  .ite (.ite hs.lapse hs.lapse) hs.lapse

theorem State.Calm.refuse (hs : s.Calm A) : s.refuse.Calm A :=
  hs

theorem State.Calm.ownerWrite {m op succ : Nat} (hs : s.Calm A) : (s.ownerWrite m op succ).Calm A :=
  .ite (.fixLink hs.lapse) (.ite (.fixLink hs.lapse) (.ite hs.lapse hs.lapse.refuse))

theorem State.Calm.asMaster {m : Nat} {f : Bool → State → Option State} (hs : s.Calm A)
    (hf : ∀ b x, x.Calm A → AllSome (State.Calm A) (f b x)) : NextCalm A (s.asMaster m f) := by
  unfold State.asMaster
  refine .ite ?_ ?_
  · refine .ite ?_ .fault
    split
    · exact .next ((hf _ _ hs).get ‹_›)
    · exact .fault
  · refine .ite .fault (.ite (.next hs.refuse) ?_)
    split
    · exact .next ((hf _ _ hs).get ‹_›)
    · exact .fault

theorem execOwnerLinkLoss_calm (hs : s.Calm A) : NextCalm A (execOwnerLinkLoss s) := by
  unfold execOwnerLinkLoss
  split
  · exact .ite (.next hs.lapse) .fault
  · exact .fault

theorem State.Calm.blockWrite {blk off : Nat} {v : Word} {fw : Bool}
    (hs : s.Calm A) : AllSome (State.Calm A) (s.blockWrite blk off v fw) :=
  .ite hs.devWrite (.ite .none (.ite (.intro hs) (.intro hs.dieWrite)))

theorem State.Calm.replay {l : List (Nat × Nat)} (hs : s.Calm A) : (s.replay l).Calm A :=
  .foldl hs (fun _ _ hx => hx.modQueue)

theorem landList_face (l : List Late) (c : Core) :
    (Core.landList l c).face = { c.face with late := (Core.landList l c).late } ∧ ∀ x ∈ (Core.landList l c).late, x ∈ c.late := by
  induction l generalizing c with
  | nil => exact ⟨rfl, fun _ h => h⟩
  | cons a l ih =>
    unfold Core.landList
    split
    · obtain ⟨hface, hlate⟩ := ih ({ c with late := c.late.filter (· ≠ a) }.blendRow a.row a.mask a.value)
      exact ⟨hface, fun x hx => List.mem_of_mem_filter (hlate x hx)⟩
    · exact ih c

/-- What lands of the writes of a core leaves a row free. -/
theorem Core.Free.settle {c : Core} (h : c.Free A) : c.settle.Free A := by
  obtain ⟨hface, hlate⟩ := landList_face { c with cycle := c.cycle + 1024 }.late { c with cycle := c.cycle + 1024 }
  have hfewer : Core.Free A { c with late := c.settle.late } :=
    ⟨fun x hx => h.late x (hlate x hx), h.ops, h.snags, h.deferred, h.strands, h.unlocked, fun x hx => h.prompt x (hlate x hx)⟩
  exact hfewer.of_face (congrArg (fun x : Core.Face => { x with cycle := c.cycle }) hface :)

theorem execDebugStop_calm [Fact (A.mode = .rests)] (hs : s.Calm A) : NextCalm A (execDebugStop s) := by
  unfold execDebugStop
  dsimp only
  split
  · exact .fault
  · exact .next (.modInst (.foldl hs.enterAll (fun _ _ hx => (hx.setOpen (·.of_free (·.settle))).stopCore)))

end

end Sys2Proof.Machine

/-! PROOFS. Packets, launches and records leave the watched row open or start its core anew (R337 to R347). -/

namespace Sys2Proof.Machine

section
variable {A : Watch} {s src : State} {p k n : Nat} {h : Hdr} {o : MemOp} {w : WordSpec}

/-! ### Packets -/

theorem State.Calm.feStore {x : FeLoc} {bs : List Byte} (hs : s.Calm A) : (s.feStore x bs).Calm A :=
  hs.writeMem

theorem State.Calm.dropPacket (hs : s.Calm A) : (s.dropPacket n).Calm A :=
  hs.modQueue

theorem State.Calm.endPacket {w : List Word} {status : Nat} (hs : s.Calm A) : (s.endPacket n w status).Calm A :=
  .dropPacket hs

theorem State.Calm.feCopyStep {w : List Word} {m : Cmd} (hs : s.Calm A) : NextCalm A (s.feCopyStep n w m) := by
  unfold State.feCopyStep
  dsimp only
  split
  · exact .next hs.endPacket
  split
  · exact .fault
  split
  · exact .next hs.drawn.endPacket
  · exact .ite .fault (.ite (.next hs.drawn.endPacket) (.ite (.next hs.drawn.modQueue) (.next hs.drawn.feStore.cover.modQueue)))

theorem execCopy_calm (hs : s.Calm A) : NextCalm A (execCopy n s) := by
  unfold execCopy
  dsimp only
  split
  · exact .fault
  split
  · exact hs.feCopyStep
  · exact .ite (.next hs.endPacket) (.next hs.modQueue)

theorem execSignal_calm (hs : s.Calm A) : NextCalm A (execSignal n s) := by
  unfold execSignal
  dsimp only
  split
  · exact .fault
  refine .ite .fault ?_
  refine .ite (.next hs.endPacket) ?_
  split
  · exact .next hs.endPacket
  · exact .ite .fault (.next hs.feStore.endPacket)

theorem execWait_calm (hs : s.Calm A) : NextCalm A (execWait n s) := by
  unfold execWait
  dsimp only
  split
  · exact .fault
  · exact .ite .fault (.ite (.next hs.endPacket) (.next hs.modQueue))

theorem execWaitPacketSatisfied_calm (hs : s.Calm A) : NextCalm A (execWaitPacketSatisfied n s) := by
  unfold execWaitPacketSatisfied
  split
  · split
    · exact .next hs.endPacket
    · exact .ite .fault (.ite (.next hs.endPacket) (.ite .fault (.next hs.endPacket)))
  · exact .fault

theorem execWaitPacketExpiry_calm (hs : s.Calm A) : NextCalm A (execWaitPacketExpiry n s) := by
  unfold execWaitPacketExpiry
  split
  · refine .ite .fault ?_
    split
    · exact .next hs.endPacket
    · exact .ite .fault (.next hs.endPacket)
  · exact .fault

theorem State.Calm.loadKeys {ctx : Nat} (hs : s.Calm A) : (s.loadKeys ctx k).Calm A := by
  have hfresh := foldl_fresh (f := fun x d => x.modDie d fun y => { y with keys := y.keys ++ [{ slot := k, ctx := ctx, fp := s.freeHash, key := s.nextId }] })
    (fun _ _ => rfl) (List.range s.dieCount) s
  exact State.Calm.withFresh (.foldl hs fun _ _ hx => hx.modDie) (hfresh.le.trans (Nat.le_add_right _ _))

theorem State.Calm.create {w : List Word} {part : Nat} {pcids : List Nat} (hs : s.Calm A) : (s.create w part pcids).Calm A := by
  unfold State.create
  dsimp only
  split
  · split
    · exact .foldl hs.loadKeys (fun _ _ hx => hx.modCore fun _ => rfl)
    · exact .foldl hs (fun _ _ hx => hx.modCore fun _ => rfl)
  split
  · exact .foldl hs.loadKeys (fun _ _ hx => hx.modCore fun _ => rfl)
  · exact .foldl hs (fun _ _ hx => hx.modCore fun _ => rfl)

theorem execContextCreate_calm {part : Nat} {pcids : List Nat}
    (hs : s.Calm A) : NextCalm A (execContextCreate n part pcids s) := by
  unfold execContextCreate
  split
  · exact .fault
  · exact .ite .fault (.ite (.next hs.endPacket) (.ite .fault (.next hs.create.endPacket)))

theorem State.Calm.destroy {ctx part : Nat} (hs : s.Calm A) : (s.destroy ctx part).Calm A :=
  hs

theorem execContextDestroy_calm (hs : s.Calm A) : NextCalm A (execContextDestroy n s) := by
  unfold execContextDestroy
  split
  · exact .fault
  refine .ite .fault ?_
  split
  · exact .next hs.endPacket
  · exact .ite (.next hs.destroy.endPacket) (.next hs.endPacket)

theorem execMigrate_calm {target : Nat} (hs : s.Calm A) : NextCalm A (execMigrate n target s) := by
  unfold execMigrate
  dsimp only
  split
  · exact .fault
  split
  · exact .next hs.endPacket
  refine .ite (.next hs.endPacket) ?_
  refine .ite ?_ (.ite (.next hs.endPacket) (.next hs.request.dropPacket))
  split
  · exact .next hs.migDrop.endPacket
  · exact .ite (.next hs.request.dropPacket) .fault

theorem State.Calm.pump {id : Nat} (hs : s.Calm A) : (s.pump id).Calm A := by
  unfold State.pump
  dsimp only
  split
  · exact hs
  refine .ite hs ?_
  split
  · exact hs.modTract
  split
  · exact .ite hs (.ite hs hs.modTract)
  · exact .ite hs hs

theorem State.Calm.tearDown {ctx : Nat} (hs : s.Calm A) : (s.tearDown ctx).Calm A :=
  .foldl hs (fun _ _ hx => hx.killTract.pump)

theorem State.Calm.jobWords {ctx d : Nat} (hs : s.Calm A) : (s.jobWords ctx d).2.Calm A :=
  hs.withFresh (Nat.le_add_right_of_le (Nat.le_add_right _ _))

theorem State.Calm.prepare {ctx : Nat} {ws : List Word} {x : State} {d : Nat} (hx : x.Calm A) :
    (s.prepare ctx ws x d).Calm A := by
  unfold State.prepare
  dsimp only
  exact .ite hx.jobWords.writeMem.writeMem.modDie hx.jobWords.writeMem.writeMem.modDie.writeMem

theorem execTeardown_calm (hs : s.Calm A) : NextCalm A (execTeardown n s) := by
  unfold execTeardown
  dsimp only
  split
  · exact .fault
  · exact .next (.dropPacket (.foldl hs.tearDown (fun _ _ hx => hx.prepare)))

/-! ### The service of packets -/

theorem State.Calm.serve {level : Nat} (hs : s.Calm A) : (s.serve n level).Calm A :=
  hs

theorem execPacketFetch_calm (hs : s.Calm A) : NextCalm A (execPacketFetch n s) := by
  unfold execPacketFetch
  dsimp only
  refine .ite .fault ?_
  split
  · exact .next hs.modQueue
  · exact .ite (.ite .fault (.next hs.modQueue)) (.next (.ite hs.serve.modQueue hs.serve.modQueue.endPacket))

theorem execQueueFetchTimeout_calm (hs : s.Calm A) : NextCalm A (execQueueFetchTimeout n s) := by
  unfold execQueueFetchTimeout
  dsimp only
  split
  · exact .ite (.next hs.modQueue) .fault
  · exact .fault

/-! ### Launches, placement and completion -/

theorem execLaunch_calm (hs : s.Calm A) : NextCalm A (execLaunch n s) := by
  unfold execLaunch
  dsimp only
  split
  · exact .fault
  split
  · exact .next hs.endPacket
  split
  · exact .next hs.endPacket
  refine .ite (.next hs.endPacket) ?_
  split
  · exact .next hs.endPacket
  · exact .ite .fault (.next (.dropPacket (.modCtx hs)))

theorem State.Calm.placeBytes {a : Nat} {bs : List Byte} (hs : s.Calm A) : (s.placeBytes a bs).Calm A :=
  .foldl hs.store.cleanse (fun _ _ hx => hx.setFull)

theorem State.Calm.placeLists {data : List (Nat × List Byte)} (hs : s.Calm A) : (s.placeLists p data).Calm A :=
  .foldl hs (fun _ _ hx => hx.placeBytes)

theorem State.Calm.startFreq {clu : Nat} (hs : s.Calm A) : (s.startFreq clu).Calm A :=
  hs.modCluster

theorem State.Calm.placeCore [Fact (A.mode = .numbers)] {t : Tract} {x : DevCtx} {pl : Place} (hs : s.Calm A) : (s.placeCore t x p pl).Calm A :=
  .placeLists (.modSeq (.ite hs hs.startFreq) fun _ => Nat.zero_le _)

theorem State.Calm.mapParts {f : Partition → Partition} (hs : s.Calm A) : (s.mapParts f).Calm A :=
  hs

theorem State.Calm.placeAll [Fact (A.mode = .numbers)] {t : Tract} {x : DevCtx} {i : Instance} {m : Option (List (Nat × Nat))}
    (hs : s.Calm A) : (s.placeAll t x n i m).Calm A :=
  .foldl hs (fun _ _ hx => by
    dsimp only
    split
    · exact hx.placeCore
    · exact hx.placeCore.placeCore)

theorem State.Calm.place [Fact (A.mode = .numbers)] {id : Nat} {t : Tract} {x : DevCtx} {i : Instance} {ranges : List (Nat × Nat × Nat)}
    {m : Option (List (Nat × Nat))} (hs : s.Calm A) : (s.place id t x i ranges m).Calm A := by
  unfold State.place
  dsimp only
  refine .ite (.takeDatum (.placeAll (.takeAllHw ?_))) (.placeAll (.takeAllHw ?_))
  all_goals
    split
    · exact .modTract hs
    · exact .mapParts (.modTract hs)

theorem State.Calm.armVictim {v : Nat} (hs : s.Calm A) : (s.armVictim v).Calm A :=
  hs.modPart

theorem execInstancePlacement_calm [Fact (A.mode = .numbers)] {tract base : Nat} (hs : s.Calm A) : NextCalm A (execInstancePlacement tract base s) := by
  unfold execInstancePlacement
  dsimp only
  split
  · exact .fault
  split
  · refine .ite .fault ?_
    refine .ite ?_ ?_
    · split
      · exact .fault
      refine .ite (.ite .fault (.next hs.modTract)) ?_
      refine .ite ?_ (.next hs.place)
      split
      · exact .fault
      · exact .next (.place (hs.withFresh (Nat.le_add_right _ _)))
    · refine .ite .fault ?_
      split
      · exact .ite .fault (.next (.foldl hs (fun _ _ hx => hx.armVictim)))
      · exact .fault
  · exact .fault

theorem State.Calm.freeUnits (hs : s.Calm A) : (s.freeUnits n p).Calm A :=
  .foldl hs.modCluster (fun _ _ hx => hx.revoke)

theorem settle_seq (c : Core) : c.settle.seq = c.seq :=
  (congrArg Core.Face.seq (landList_face { c with cycle := c.cycle + 1024 }.late _).1 :)

theorem State.Calm.releaseCore [Fact (A.mode = .numbers)] {normal : Bool} (hs : s.Calm A) : (s.releaseCore n p normal).Calm A :=
  .modSeq (.modSeq (f := Core.settle) (.endMigrate (.freeUnits (.ite hs.releaseAll hs))) fun c => (settle_seq c).le) fun _ => Nat.le_refl _

theorem State.Calm.revokeSaved {part : Nat} (hs : s.Calm A) : (s.revokeSaved n part).Calm A := by
  unfold State.revokeSaved
  split
  · exact hs
  · exact .foldl hs (fun _ _ hx => hx.modCluster)

theorem State.Calm.forget {part : Nat} {ps : List Nat} (hs : s.Calm A) : (s.forget n part ps).Calm A :=
  hs.revokeSaved.mapParts.modPart

theorem execInstanceCompletion_calm [Fact (A.mode = .numbers)] {iid : Nat} (hs : s.Calm A) : NextCalm A (execInstanceCompletion iid s) := by
  unfold execInstanceCompletion
  dsimp only
  split
  · exact .fault
  · exact .ite .fault (.next (.pump (.modTract (.forget (.foldl hs (fun _ _ hx => hx.releaseCore))))))

theorem State.Calm.recordDone {r : Record} (hs : s.Calm A) : (s.recordDone r).Calm A := by
  unfold State.recordDone
  dsimp only
  refine .ite ?_ ?_
  · split
    · split
      · exact .raiseMsix hs
      · exact hs
    refine .ite ?_ ?_
    · split
      · exact .pump (.modTract (.raiseMsix hs))
      · exact .pump (.modTract hs)
    · split
      · exact .raiseMsix hs
      · exact hs
  · split
    · split
      · exact .modQueue (.raiseMsix hs)
      · exact hs
    split
    · split
      · exact .modQueue (.pump (.modTract (.raiseMsix hs)))
      · exact .modQueue (.pump (.modTract hs))
    split
    · exact .modQueue (.raiseMsix hs)
    · exact hs

theorem State.Calm.recordFault {r : Record} (hs : s.Calm A) : (s.recordFault r).Calm A :=
  hs

theorem State.Calm.finishTeardown (hs : s.Calm A) : s.finishTeardown.Calm A :=
  .foldl (.foldl hs (fun _ _ hx => by
    split
    · exact hx.setFull
    · exact hx)) (fun _ _ hx => hx.writeMem.writeMem.modDie)

theorem State.Calm.teardownRecord {r : Record} (hs : s.Calm A) : NextCalm A (s.teardownRecord r) := by
  unfold State.teardownRecord
  have h1 : (s.writeMem 8192 r.cring.toNat ({ r with tick := s.now }.bytes 0) true none).Calm A := hs.writeMem
  exact NextCalm.ite (.next hs.recordDone)
      (NextCalm.ite .fault (NextCalm.ite (.next hs.finishTeardown.recordDone) (.next h1)))

theorem execCompletionRecord_calm (hs : s.Calm A) : NextCalm A (execCompletionRecord k s) := by
  unfold execCompletionRecord
  dsimp only
  split
  · exact .fault
  · refine NextCalm.ite hs.teardownRecord (NextCalm.ite .fault ?_)
    split
    · exact NextCalm.ite .fault (NextCalm.ite .fault (.next (.recordDone hs.feStore)))
    · exact .next hs.recordFault

theorem State.Calm.refill {pc w : Word} (hs : s.Calm A) : (s.refill p pc w).Calm A :=
  .ite (hs.modCore fun _ => rfl) (hs.drawn.modCore fun _ => rfl)

theorem execInstructionRefill_calm {core strand : Nat} (hs : s.Calm A) : NextCalm A (execInstructionRefill core strand s) := by
  unfold execInstructionRefill
  dsimp only
  refine .ite .fault ?_
  split
  · exact .next hs.refill
  · exact .fault

end

end Sys2Proof.Machine

/-! PROOFS. Gang switches, power, heat and resets leave the watched row open or start its core anew (R350 to R365, R456). -/

namespace Sys2Proof.Machine

section
variable {A : Watch} {s src : State} {p k n : Nat} {h : Hdr} {o : MemOp} {w : WordSpec}

/-! ### Gang switches -/

theorem State.Calm.saveCore [Fact (A.mode = .numbers)] {part : Nat} (hs : s.Calm A) : (s.saveCore part p).Calm A := by
  unfold State.saveCore
  dsimp only
  split
  · exact hs
  · exact .modSeq (.modPart (.ite hs hs.writeSlot)) fun _ => Nat.zero_le _

theorem State.Calm.saveResidencies {part : Nat} (hs : s.Calm A) : (s.saveResidencies part).Calm A :=
  hs.modPart

theorem State.Calm.looseTiles {part : Nat} {ps : List Nat} (hs : s.Calm A) : (s.looseTiles part ps).Calm A :=
  hs

theorem State.Calm.holdClosures {part : Nat} {ps : List Nat} (hs : s.Calm A) : (s.holdClosures part ps).Calm A :=
  hs.modPart

theorem State.Calm.payFree {part : Nat} (hs : s.Calm A) : (s.payFree part k).Calm A :=
  hs.withFresh (Nat.le_succ _)

theorem State.Calm.savePart [Fact (A.mode = .numbers)] {part t : Nat} (hs : s.Calm A) : (s.savePart part t).Calm A :=
  .modPart (.payFree (.foldl hs.holdClosures.looseTiles.saveResidencies (fun _ _ hx => hx.saveCore)))

theorem execGangSwitch_calm [Fact (A.mode = .numbers)] {part : Nat} (hs : s.Calm A) : NextCalm A (execGangSwitch part s) := by
  unfold execGangSwitch
  dsimp only
  split
  · exact .fault
  split
  · exact .fault
  · exact .ite .fault (.ite (.next (.foldl hs (fun _ _ hx => hx.stopCore))) (.ite (.next hs.savePart) .fault))

/-- An image goes to a core without a place. -/
theorem place_of_homes {pt : Partition} {i : SavedCore} {q : Nat} (h : q ∈ s.homes pt i) : (s.core q).place = none := by
  unfold State.homes at h
  dsimp only at h
  rcases List.mem_append.mp h with h | h
  · obtain ⟨hfree, rfl⟩ : s.freeCore _ = true ∧ _ := by simpa using h
    simp only [State.freeCore, Bool.and_eq_true, Option.isNone_iff_eq_none] at hfree
    exact hfree.2
  · obtain ⟨-, -, husable⟩ : _ ∧ _ ∧ s.usableTarget q = true := by simpa using h
    simp only [State.usableTarget, Bool.and_eq_true, Option.isNone_iff_eq_none] at husable
    exact husable.2

/-- A calm state in which images may be loaded: where the watched core has no place, a free value has been drawn. -/
structure State.Loads (A : Watch) (s : State) : Prop where
  calm : s.Calm A
  drawn : (s.core A.core).place = none → ∃ n, A.drawn = some n ∧ n < s.fresh

theorem State.Loads.modPart {f : Partition → Partition} (h : s.Loads A) : (s.modPart n f).Loads A := by
  refine ⟨h.calm.modPart, fun hplace => ?_⟩
  rw [core_congr (State.modPart_cores _ _ _)] at hplace
  rw [State.modPart_fresh]
  exact h.drawn hplace

theorem State.Loads.loadImage {part q : Nat} {i : SavedCore} (h : s.Loads A) (hq : (s.core q).place = none) :
    (s.drawn.loadImage part q i).Loads A := by
  by_cases hcore : A.core = q
  · obtain ⟨n, hn, hlt⟩ := h.drawn (hcore ▸ hq)
    have hlt : n < s.fresh + 1 := Nat.lt_succ_of_lt hlt
    exact ⟨fun hno => absurd (hno n hn) (Nat.not_le.mpr hlt), fun _ => ⟨n, hn, hlt⟩⟩
  · refine ⟨h.calm.drawn.loadImage hcore, fun hplace => ?_⟩
    rw [State.loadImage, core_setCore_other hcore] at hplace
    obtain ⟨n, hn, hlt⟩ := h.drawn hplace
    exact ⟨n, hn, Nat.lt_succ_of_lt hlt⟩

theorem State.Loads.restoreAll {part : Nat} {l : List SavedCore} (h : s.Loads A) : AllSome (State.Calm A) (s.restoreAll part l) := by
  induction l generalizing s with
  | nil => exact .intro h.calm
  | cons i r ih =>
    unfold State.restoreAll
    dsimp only
    split
    · exact .none
    next pt _ =>
    split
    · exact .none
    next a l hl =>
    have hq : (s.homes pt i).getD (s.freeWord.toNat % (s.homes pt i).length) 0 ∈ s.homes pt i := by
      have hlt : s.freeWord.toNat % (s.homes pt i).length < (s.homes pt i).length := Nat.mod_lt _ (hl ▸ Nat.succ_pos _)
      rw [List.getD_eq_getElem _ _ hlt]
      exact List.getElem_mem hlt
    have h1 := (h.loadImage (part := part) (i := i) (place_of_homes hq)).modPart (n := part)
      (f := fun x => { x with saved := x.saved.filter fun j => j ≠ i })
    refine ih ?_
    split
    · split
      · exact h1
      · exact h1.modPart
    · exact h1.modPart

theorem State.Calm.claimTiles {pt : Partition} (hs : s.Calm A) : (s.claimTiles pt).Calm A :=
  hs

theorem State.Calm.putResidencies {l : List (Nat × Residency)} (hs : s.Calm A) : (s.putResidencies l).Calm A :=
  .foldl hs (fun _ _ hx => hx.modCluster)

theorem State.Calm.goOn (hs : s.Calm A) : (s.goOn p).Calm A := by
  unfold State.goOn
  split
  · exact .ite (hs.modCore fun _ => rfl) hs.startCore
  · exact hs.startCore

theorem State.Calm.resumeAll {part : Nat} {pt : Partition} (hs : s.Calm A) : (s.resumeAll part pt).Calm A := by
  unfold State.resumeAll
  dsimp only
  split
  · exact .foldl (.claimTiles
      (.payFree (.modPart (.putResidencies
          (.foldl (.foldl (.foldl hs (fun _ _ hx => hx.startFreq)) (fun _ _ hx => hx.modInst)) (fun _ _ hx => hx.takeAllHw))))))
              (fun _ _ hx => hx.goOn)
  · exact .foldl (.payFree
      (.modPart (.putResidencies
          (.foldl (.foldl (.foldl hs (fun _ _ hx => hx.startFreq)) (fun _ _ hx => hx.modInst)) (fun _ _ hx => hx.takeAllHw)))))
              (fun _ _ hx => hx.goOn)

theorem snags_nextAsync {u v : Sup} {t : Trap} (h : u.nextAsync = some (t, v)) : v.snags = u.snags := by
  unfold Sup.nextAsync at h
  split at h
  · cases h
    rfl
  split at h
  · cases h
    rfl
  split at h
  · cases h
    rfl
  · cases h

theorem execPartitionResume_calm {part : Nat} (hs : s.Calm A) (hd : (s.core A.core).place = none → A.drawn = some s.fresh) :
    NextCalm A (execPartitionResume part s) := by
  unfold execPartitionResume
  split
  · exact .fault
  split
  · exact .fault
  refine .ite .fault ?_
  refine .ite (.next hs.drawn.tearDown.modPart) ?_
  have hr : ∀ l, AllSome (State.Calm A) (s.drawn.restoreAll part l) := fun _ =>
    State.Loads.restoreAll ⟨hs.drawn, fun hplace => ⟨s.fresh, hd hplace, Nat.lt_succ_self _⟩⟩
  split
  · exact .fault
  · exact .ite (.next (.resumeAll ((hr _).get ‹_›))) .fault

theorem execAsyncTrapEntry_calm [Fact (A.mode = .rests)] {core : Nat} (hs : s.Calm A) : NextCalm A (execAsyncTrapEntry core s) := by
  unfold execAsyncTrapEntry
  dsimp only
  refine .ite .fault ?_
  split
  · exact .fault
  next tr u hu =>
  refine .next (.foldl (hs.setOpen fun ho => ho.map rfl fun hc => ?_) fun _ _ hx => (hx.modCore fun _ => by rfl).enterSup)
  exact ⟨hc.late, hc.ops, fun g hg => hc.snags g (snags_nextAsync hu ▸ hg), hc.deferred, hc.strands, hc.unlocked, hc.prompt⟩

/-! ### Power and heat -/

theorem State.Calm.offer {x : State} (hx : x.Calm A) : (s.offer x p).Calm A := by
  unfold State.offer
  dsimp only
  exact .ite hx (.foldl (hx.modCore fun _ => rfl) fun _ _ hy => hy.modCore fun _ => rfl)

theorem State.Calm.grant (hs : s.Calm A) : (s.grant p).Calm A :=
  hs.modCore fun _ => rfl

theorem State.Calm.setFreqs (hs : s.Calm A) : s.setFreqs.Calm A :=
  .foldl hs (fun _ _ hx => hx.modCluster)

theorem addTokens_calm {x : State × List (Nat × Nat)} (hx : x.1.Calm A) : (State.addTokens x p).1.Calm A :=
  hx.modCore fun _ => rfl

theorem execTokenAdd_calm (hs : s.Calm A) : NextCalm A (execTokenAdd s) := by
  unfold execTokenAdd
  dsimp only
  split
  · exact .fault
  · exact .ite .fault (.next (.foldl (foldl_fst_calm hs fun _ _ hx => addTokens_calm hx) fun _ _ hx => hx.modCore fun _ => rfl))

theorem State.Calm.warn (hs : s.Calm A) : (s.warn p).Calm A := by
  unfold State.warn
  dsimp only
  refine .ite hs ?_
  split
  · exact hs.request
  · exact hs.migDrop

theorem State.Calm.armCluster {clu : Nat} (hs : s.Calm A) : (s.armCluster clu).Calm A :=
  hs

theorem State.Calm.cutTract {t : Nat} (hs : s.Calm A) : (s.cutTract t).Calm A :=
  hs.killTract.modTract.pump

/-- One core of cores whose numbers do not rise. -/
theorem look_map_seq {f : Core → Core} (hf : ∀ c, (f c).seq ≤ c.seq) (q : Nat) (m : AMap Core) :
    (look Core.init q (m.map fun c => (c.1, f c.2))).seq ≤ (look Core.init q m).seq := by
  induction m with
  | nil => exact Nat.le_refl _
  | cons e m ih =>
    simp only [List.map_cons, look]
    split
    · exact hf _
    · exact ih

theorem State.Calm.blackout [Fact (A.mode = .numbers)] (hs : s.Calm A) : s.blackout.Calm A := fun hd =>
  (hs hd).of_seq (look_map_seq (f := fun c => { c.halted with
    chains := [], ops := [], late := [], locks := [], queue := [], place := none, stop := none, migrate := none }) (fun _ => Nat.le_refl _) _ _)

/-! ### Boot, resets and ports -/

theorem execSkimUnit_calm {die : Nat} (hs : s.Calm A) : NextCalm A (execSkimUnit die s) := by
  unfold execSkimUnit
  dsimp only
  refine .ite .fault ?_
  split
  · exact .fault
  · exact .next (.of_cores hs.drawn rfl (Nat.le_refl _))

theorem foldl_cores {α : Type} {f : State → α → State} (hf : ∀ x a, (f x a).cores = x.cores) (l : List α) (x : State) :
    (l.foldl f x).cores = x.cores := by
  induction l generalizing x with
  | nil => rfl
  | cons a l ih => exact (ih _).trans (hf x a)

theorem applyBoot_cores (s : State) (t : BootTable) : (s.applyBoot t).cores = s.cores :=
  foldl_cores (f := fun x n => x.modDie n (applyTable t n)) (fun _ _ => rfl) _ s

theorem reenter_cores (s : State) : s.reenter.cores = s.cores :=
  foldl_cores (fun x d => by split <;> rfl) _ s

/-- Boot leaves the cores as the reset has left them. -/
theorem boot_cores (s : State) (t : BootTable) (train : Bool) : (s.boot t train).cores = s.cores := by
  unfold State.boot
  split
  extract_lets src s0 s1 s2
  have h1 : s1.cores = s.cores := by
    unfold s1
    split
    · rfl
    · exact applyBoot_cores s0 t
  have h2 : s2.cores = s.cores := by
    unfold s2
    split
    · exact (reenter_cores _).trans h1
    · exact h1
  split
  · exact h2
  · exact h2

/-- Every core counts from zero. -/
def State.Anew (t : State) : Prop := ∀ q, (t.core q).seq = 0

theorem State.Anew.of_cores {t : State} (h : s.Anew) (e : t.cores = s.cores) : t.Anew := fun q => by
  rw [core_congr e]
  exact h q

theorem anew_warm (s : State) (kind owner : Nat) : (s.warm kind owner).Anew := fun _ =>
  look_of (P := fun c : Core => c.seq = 0) rfl fun e he => by
    obtain ⟨c, -, rfl⟩ := List.mem_map.mp he
    rfl

theorem State.Anew.prompt {t : State} (h : t.Anew) : s.Prompt (.next t) := fun _ e _ a => by
  cases e
  have := h s.focus.pcid
  have := a.seq
  omega

theorem execPowerOnReset_prompt {tbl : BootTable} : s.Prompt (execPowerOnReset tbl s) :=
  State.Anew.prompt (State.Anew.of_cores (s := State.reset) (fun _ => rfl) (boot_cores _ _ _))

theorem execDeviceReset_prompt {tbl : BootTable} : s.Prompt (execDeviceReset tbl s) :=
  ((anew_warm s 1 0).of_cores (boot_cores _ _ _)).prompt

theorem State.Calm.burstWord {l : Nat} (hs : s.Calm A) : (s.burstWord l).Calm A :=
  .ite hs hs

theorem State.Calm.outsideWrite {l : Nat} {data : Word} {bytes : BitVec 8}
    (hs : s.Calm A) : (s.outsideWrite l data bytes).Calm A :=
  .ite hs.writeMem.burstWord (.foldl hs (fun _ _ hx => hx.writeMem))

theorem State.Calm.answerHost {l : Nat} (hs : s.Calm A) : (s.answerHost l).Calm A :=
  hs

theorem State.Calm.setPort {j : Nat} {x : Port} (hs : s.Calm A) : (s.setPort j x).Calm A :=
  .fixLink hs

theorem execBrirusTraining_calm {port : Nat} {ok : Bool} {rate peer : Nat}
    (hs : s.Calm A) : NextCalm A (execBrirusTraining port ok rate peer s) := by
  unfold execBrirusTraining
  dsimp only
  refine .ite .fault ?_
  split
  · exact .next hs.setPort
  · exact .ite .fault (.ite (.next hs) (.next hs.setPort))
  · exact .fault

theorem State.Calm.peerAccess {f : Flit} (hs : s.Calm A) : (s.peerAccess f).1.Calm A := by
  unfold State.peerAccess
  split
  · split
    · exact hs.modDie
    split
    · exact hs
    split
    · exact hs.outsideWrite
    · exact hs
  · exact hs

theorem execBrirusFlit_calm {port : Nat} {flit : Flit} (hs : s.Calm A) : NextCalm A (execBrirusFlit port flit s) := by
  unfold execBrirusFlit
  dsimp only
  refine .ite .fault ?_
  split
  · exact .next hs
  · exact .ite (.next hs.setPort) (.ite (.next hs.setPort) (.ite .fault (.next hs.peerAccess.setPort)))
  · exact .fault

/-! ### Power and heat, continued -/

theorem execBallastPass_calm {clu part : Nat} (hs : s.Calm A) : NextCalm A (execBallastPass clu part s) := by
  unfold execBallastPass
  exact .ite .fault (.next hs)

theorem execFieldBookStateChange_calm {core : Nat} (hs : s.Calm A) : NextCalm A (execFieldBookStateChange core s) := by
  unfold execFieldBookStateChange
  exact .ite .fault (.next (hs.modCore fun _ => by rfl).fbRecord)

theorem execPcSample_calm {core : Nat} (hs : s.Calm A) : NextCalm A (execPcSample core s) := by
  unfold execPcSample
  exact .ite .fault (.next (hs.modCore fun _ => by rfl).fbRecord)

theorem execThermalSample_calm {core : Nat} {temp : BitVec 16} (hs : s.Calm A) : NextCalm A (execThermalSample core temp s) := by
  unfold execThermalSample
  extract_lets w sampled new s1 s2 s3
  have h1 : s1.Calm A := hs.modCore fun _ => rfl
  have h2 : s2.Calm A := .ite (State.Calm.modWake (f := id) h1 fun _ => by rfl).warn h1
  have h3 : s3.Calm A := .ite h2.modCluster h2
  exact .ite .fault (.next (.ite h3.armCluster h3))

/-! ### Boot, resets and ports, continued -/

theorem execTrainingTimeout_calm {port : Nat} (hs : s.Calm A) : NextCalm A (execTrainingTimeout port s) := by
  unfold execTrainingTimeout
  exact .ite .fault (.next hs.setPort)

/-! ### Long accumulators and collective commands, continued -/

theorem curId_readAccWords {t : State} (e : s.readAccWords p n id = .done t) : t.curId p = s.curId p := by
  unfold State.readAccWords at e
  split at e
  · cases e
    exact pay_curId ..
  · cases e

theorem execLaflgClr_prompt {d a : BitVec 8} : s.Prompt (execLaflgClr h d a s) := by
  unfold execLaflgClr
  refine runWord_prompt @fun A _ p k x hx => onObject_calm fun l _ => ?_
  have h1 : (x.readAccWords p 1 id).Calm A := hx.readAccWords fun _ hy => hy
  dsimp only
  split
  · next s1 hs1 =>
    have hid : s1.curId p = x.curId p := curId_readAccWords hs1
    have h2 := (h1.get hs1).issueOps (p := p) (k := k) (l := [{ x.newOp p k .acc (x.rS p k 1 a) 0 with data := 0 }])
      (List.forall_mem_singleton.mpr hid.symm)
    split
    · exact .done (h2.get ‹_›).wS
    · exact h2
  · exact h1

/-! ### Power and heat, continued -/

theorem execTokenPassing_calm (hs : s.Calm A) : NextCalm A (execTokenPassing s) := by
  unfold execTokenPassing
  exact .ite .fault (.next (.withPassed (.foldl (.foldl hs.setFreqs fun _ _ hx => hx.offer) fun _ _ hx => hx.grant)))

theorem execT4Trip_calm [Fact (A.mode = .numbers)] {die : Nat} (hs : s.Calm A) (hd : A.drawn = none) : NextCalm A (execT4Trip die s) := by
  unfold execT4Trip
  dsimp only
  have h1 := State.Calm.foldl (l := (s.tracts.map (·.1)).filter (s.usesDie die)) hs fun x t (hx : x.Calm A) => hx.cutTract (t := t)
  have h2 := (h1.modDie (n := die) (f := fun d => { d with powered := false, t4 := true })).blackout
  exact .ite .fault (.next fun _ => h2 fun _ hn => nomatch hd.symm.trans hn)

/-! ### Boot, resets and ports, continued -/

theorem execFunctionLevelReset_prompt {tbl : BootTable} : s.Prompt (execFunctionLevelReset tbl s) := by
  unfold execFunctionLevelReset
  dsimp only
  split
  · exact nofun
  · refine ((anew_warm s 2 (if s.owner / 4096 = 1 then 0 else s.owner)).of_cores ((boot_cores _ _ _).trans ?_)).prompt
    split <;> rfl

end

end Sys2Proof.Machine

/-! PROOFS. No instruction puts off a write at latency 1 to a header row that was idle (R67, R68, R73). -/

namespace Sys2Proof.Machine

section
variable {A : Watch} {s src : State} {p k n : Nat} {h : Hdr} {o : MemOp} {w : WordSpec}

/-! ### Words and events of one equation -/

theorem execLdvx_prompt {d a b : BitVec 8} {scope : BitVec 3} {ord : BitVec 2} {sz : BitVec 3} {m : BitVec 12} :
    s.Prompt (execLdvx h d a b scope ord sz m s) := by
  unfold execLdvx
  refine runWord_prompt fun _ _ _ hx => hx.issueAligned fun o ho => ?_
  obtain ⟨y, hy, rfl⟩ := List.mem_map.mp ho
  exact indexed_id y hy

theorem execFerd_prompt {d a : BitVec 8} {disp : BitVec 20} {scope : BitVec 3} {ord : BitVec 2} :
    s.Prompt (execFerd h d a disp scope ord s) := by
  unfold execFerd
  refine runWord_prompt fun _ _ _ hx => .ite trivial (hx.issueOps fun o ho => ?_)
  obtain ⟨j, _, rfl⟩ := List.mem_map.mp ho
  rfl

theorem State.Calm.markFence {id : Nat} (hs : s.Calm A) : (s.modCore p fun c => c.markFence k id).Calm A :=
  hs.modFree (fun _ => rfl) fun _ hc => hc.mapOps (fun o => by split <;> rfl) fun o => by split <;> rfl

theorem execInFieldTestDone_calm {core : Nat} {passed : Bool} (hs : s.Calm A) : NextCalm A (execInFieldTestDone core passed s) := by
  unfold execInFieldTestDone
  refine .ite (.next ?_) .fault
  exact State.Calm.of_core (s := s.modCore core _) (hs.modCore fun _ => by rfl) rfl (Nat.le_succ _)

theorem execPartitionResume_prompt {part : Nat} : s.Prompt (execPartitionResume part s) :=
  prompt_of_rests fun hs => execPartitionResume_calm hs fun hplace => if_pos hplace

theorem followHw_cores (s : State) (q : Nat) : (s.followHw q).cores = s.cores := by
  unfold State.followHw
  split
  · rfl
  refine foldl_cores (fun x g => ?_) _ s
  split
  · unfold State.takeHw
    split
    · rfl
    · refine foldl_cores (fun y d => ?_) _ x
      split <;> rfl
  · rfl

/-- The core that the work leaves counts from zero and is asked no longer to move. -/
theorem moveCore_source (s : State) (p q : Nat) : ((s.moveCore p q).core p).seq = 0 ∧ ((s.moveCore p q).core p).migrate = none := by
  unfold State.moveCore
  extract_lets src part s1 fixUndo moving moving2 moved s2
  have h2 : s2.core p = src.vacated := (core_congr (followHw_cores _ q) p).trans (core_setCore_same ..)
  have hleft : (s2.core p).seq = 0 ∧ (s2.core p).migrate = none := by
    rw [h2]
    exact ⟨rfl, rfl⟩
  split
  · exact hleft
  next pl hpl =>
  extract_lets s3
  have h3 : s3.core p = s2.core p := rfl
  split
  · exact h3 ▸ hleft
  · by_cases hp : p = pl.mate
    · rw [State.modCore, hp, core_setCore_same, ← hp, h3]
      exact hleft
    · rw [State.modCore, core_setCore_other hp, h3]
      exact hleft

theorem execMigrationCommit_prompt {core : Nat} : s.Prompt (execMigrationCommit core s) := by
  intro t e l a
  unfold execMigrationCommit at e
  dsimp only at e
  split at e
  · next m hm _ =>
    split at e
    · cases e
    · cases e
      obtain ⟨hseq, hmigrate⟩ := moveCore_source ((s.endMigrate core 0).setRemapPart core 0) core m.target
      by_cases hcore : core = s.focus.pcid
      · rw [hcore] at hseq
        have := a.seq
        rw [hcore] at this; exact absurd (this.symm.trans hseq) (Nat.succ_ne_zero _)
      · have := a.migrate core hcore
        simp [hmigrate, hm] at this
  · cases e

/-! ### Every instruction and event -/

/-- No instruction puts off a write at latency 1 to a header row that was idle. -/
theorem exec_prompt (i : Instr) : s.Prompt (exec i s) := by
  have hnumbers : Fact ((s.watch .numbers).mode = .numbers) := ⟨rfl⟩
  have hs := calm_numbers s
  cases i with dsimp only [exec, execFmin, execFmax, execFsqrt, execFclass, execFcvti, execVmulh, execVsra, execVmin, execVmax, execVadds,
    execVsubs, execVcmp, execVfcmp]
  | nop => exact runWord_prompt (fun _ _ _ hx => .done hx)
  | tgt | tgts => exact runWord_prompt (fun _ _ _ hx => .done hx.wT)
  | lnk => exact runWord_prompt (fun _ _ _ hx => .done hx.writeDest)
  | loop => exact runWord_prompt (fun _ _ _ hx => .done hx.putHbits.putPred)
  | loopSet => exact runWord_prompt (fun _ _ _ hx => .done hx.putHbits)
  | repb => exact runWord_prompt (fun _ _ _ hx => .jump (hx.putHmask.modStrand fun _ => by rfl).goto)
  | start => exact runWord_prompt (fun _ _ _ hx => .ite trivial (.ite trivial (.done (hx.modUnbound fun _ => .inr rfl))))
  | join | sleep | recv | waitseq => exact runWord_prompt (fun _ _ _ hx => hx.startWait)
  | hkill => exact runWord_prompt (fun _ _ _ hx => .done (.foldl hx (fun _ _ hy => hy.killHelper)))
  | ids | wrd | sel | li | lih | bfi | ffma | lcid => exact runWord_prompt (fun _ _ _ hx => .done hx.wS)
  | clk => exact execClk_prompt
  | mark => exact runWord_prompt (fun _ _ _ hx => .done (.ite hx.fbRecord hx))
  | win | wins => exact runWord_prompt (fun _ _ _ hx => .ite trivial (.ite trivial (.done hx.setWindow)))
  | wswap =>
    exact runWord_prompt
        (fun _ _ _ hx => .ite trivial (.ite trivial (.ite trivial (.jump (.goto (.setWindow (.ite hx.writeDest.putHbits hx.writeDest)))))))
  | wdrain => exact runWord_prompt (fun _ _ _ hx => .ite trivial hx.startWait)
  | tdel => exact runWord_prompt (fun _ _ _ hx => .ite trivial (.done hx.putHmask.wS))
  | tret => exact runWord_prompt (fun _ _ _ hx => .ite (.jump hx.leaveSup) (.jump hx.leaveHandler))
  | env => exact runWord_prompt (fun _ _ _ hx => .ite trivial (.done (hx.modStrand fun _ => rfl)))
  | snagw => exact execSnagw_prompt
  | snagx => exact execSnagx_prompt
  | add | sub | mul | mulh | mulhu | div | divu | rem | remu | and | or | xor | andn | shl | shr | sra | rot | min | max | minu
  | maxu | scmps | agen | fmin | fmax => exact scalar2_prompt
  | addi | clz | ctz | popc | bfx | sext | zext | mov | fsqrt | fclass | fcvt | fcvti => exact scalar1_prompt
  | scmp | fcmp => exact runWord_prompt (fun _ _ _ hx => .done hx.wQ)
  | fadd | fsub | fmul | fdiv => exact fscalar2_prompt
  | vadd | vsub | vmul | vmulh | vand | vor | vxor | vshl | vshr | vsra | vmin | vmax | vadds | vsubs | vfmin | vfmax =>
      exact vec2_prompt
  | vmad | vdot4 => exact vec3_prompt
  | vabs | vpopc | vclz | vmov | vfclass | vfcvt => exact vec1_prompt
  | vcmp | vfcmp => exact vecCmp_prompt
  | vsel | vins => exact runWord_prompt (fun _ _ _ hx => .done hx.wV)
  | vfadd | vfsub | vfmul | vfdiv => exact vfp2_prompt
  | vfma | vfms | vfnma => exact vfp3_prompt
  | vfsqrt | vfrec | vfrsq | vfexp2 | vflog2 => exact vfp1_prompt
  | vfnarrow | dtenc => exact runWord_prompt (fun _ _ _ hx => hx.narrow)
  | vfwiden | vperm | vcomp | vxpnd | vsplat | dtrd | dtdec | mxdq => exact runWord_prompt (fun _ _ _ hx => .done hx.putLanes)
  | vfred | vfamax | vext | gbcast | glane => exact runWord_prompt (fun _ _ _ hx => .done hx.putScalar)
  | vrot | vbfly | vbcst => exact laneMove_prompt
  | qand | qor | qxor | qnot => exact predOp_prompt
  | qpop | qfirst | qmovX => exact predRead_prompt
  | qmov | gany | gall => exact runWord_prompt (fun _ _ _ hx => .done hx.putQ)
  | dtld => exact execDtld_prompt
  | mxq => exact execMxq_prompt
  | mxqMem => exact execMxqMem_prompt
  | ufcnt => exact runWord_prompt (fun _ _ _ hx => .ite (.done (hx.wS.modCore fun _ => rfl)) (.done hx))
  | scsel => exact execScsel_prompt
  | ld | st | stf | feclr | acas => exact runWord_prompt (fun _ _ _ hx => hx.issueOne rfl)
  | ldvx => exact execLdvx_prompt
  | ldv | stv => exact runWord_prompt (fun _ _ _ hx => hx.issueRow rfl fun _ _ => rfl)
  | stvx => exact execStvx_prompt
  | lds => exact execLds_prompt
  | ferd => exact execFerd_prompt
  | aadd | aand | aor | axor | amin | amax | aminu | amaxu | axchg | afadd => exact atomicWord_prompt
  | radd | rand | rior | rxor | rmin | rmax | rfadd => exact reductionWord_prompt
  | fence => exact runWord_prompt (fun _ _ _ hx => hx.markFence.startWait)
  | barr => exact statusWord_prompt (fun _ _ _ hx => hx.barr)
  | bwait => exact execBwait_prompt
  | bwd => exact statusWord_prompt (fun _ _ _ hx => hx.bwd)
  | bstat | qstat => exact twinRead_prompt
  | send => exact execSend_prompt
  | xplan | halt => exact runWord_prompt (fun _ _ _ hx => .done (hx.modCore fun _ => rfl))
  | sstep => exact execSstep_prompt
  | bcfg => exact execBcfg_prompt
  | append => exact execAppend_prompt
  | chain => exact execChain_prompt
  | chainUnbind => exact execChainUnbind_prompt
  | seqrd => exact execSeqrd_prompt
  | claim => exact execClaim_prompt
  | rels => exact execRels_prompt
  | tshape => exact runWord_prompt (fun _ _ _ hx => onTile_calm hx (fun _ _ hy => .ite trivial (.done hy.setTile)))
  | trow => exact execTrow_prompt
  | tcol =>
    exact runWord_prompt
        (fun _ _ _ hx => onTile_calm hx (fun _ _ hy => .ite trivial (.ite trivial (hy.payOr (fun _ hy => .done hy.wV)))))
  | twrow => exact execTwrow_prompt
  | twcol =>
    exact runWord_prompt
        (fun _ _ _ hx => onTile_calm hx
            (fun _ _ hy => .ite trivial (hy.payOr (fun _ hy => .done (.foldl hy (fun _ _ hy => .ite hy.putElem hy))))))
  | wralloc => exact runWord_prompt (fun _ _ _ hx => .ite (.done hx.writeDest.writeDest) (.done hx.modCluster.writeDest.writeDest))
  | wrpin | wrunpin => exact onRes_prompt (fun _ _ _ hx => .done hx.modRes)
  | wrrevoke => exact onRes_prompt (fun _ _ _ hx => .ite trivial (.done hx.revoke))
  | wrquery => exact execWrquery_prompt
  | laclr => exact execLaclr_prompt
  | laadd | ladot => exact runWord_prompt (fun _ _ _ hx => hx.addTo)
  | larnd | laflg => exact runWord_prompt fun _ _ _ hx => onObject_calm fun _ _ => hx.readAccWords fun _ hy => hy.wS
  | lamrg => exact execLamrg_prompt
  | laflgClr => exact execLaflgClr_prompt
  | fuse => exact execFuse_prompt
  | split => exact runWord_prompt (fun _ _ _ hx => .jump (hx.goto.modCore fun _ => rfl))
  | migpt =>
    exact runWord_prompt
        (fun _ _ _ hx => .ite (.done hx.wS) (.ite (.done hx.wS) (.ite (.done hx.atBoundary.wS) (.done hx.atBoundary.wS))))
  | csrr => exact execCsrr_prompt
  | csrw => exact execCsrw_prompt
  | csrx => exact execCsrx_prompt
  | tlbinv | tlbinvAll | tlbinvAllP => exact tlbinvWord_prompt
  | keyz => exact systemWord_prompt (fun _ _ _ hx => .ite .none (.intro hx.modDie))
  | skim => exact execSkim_prompt
  | attest => exact execAttest_prompt
  | tkrd => exact systemWord_prompt (fun _ _ _ hx => hx.twinValue)
  | tkgive => exact systemWord_prompt (fun _ _ _ hx => .ite (.intro hx) (.intro (hx.modCore fun _ => rfl)))
  | quar => exact systemWord_prompt (fun _ _ _ hx => .intro hx.quar)
  | mcread => exact execMcread_prompt
  | pswitch => exact execPswitch_prompt
  | fbctl => exact systemWord_prompt (fun _ _ _ hx => .intro hx.installFb)
  | ctxld => exact execCtxld_prompt
  | mmt8t8 | mmst8t8 | mmt8bf | mmst8bf | mmbfbf | mmsbfbf | mmf16f16 | mmsf16f16 | mmi8i8 | mmsi8i8 | mmt4t8 | mmst4t8 | mmt4t4
  | mmst4t4 | mmx8x8 | mmsx8x8 | mmx4x8 | mmsx4x8 | mmx4x4 | mmsx4x4 => exact (runCmd_calm hs matrixRun_calm).prompt
  | wload => exact (runCmd_calm hs wloadRun_calm).prompt
  | mxsig | sig => exact (runCmd_calm hs sigRun_calm).prompt
  | cpy | cpyf => exact (runCmd_calm hs cpyRun_calm).prompt
  | cpys => exact (runCmd_calm hs cpysRun_calm).prompt
  | cpyg => exact (runCmd_calm hs cpygRun_calm).prompt
  | cpymx => exact (runCmd_calm hs cpymxRun_calm).prompt
  | cred => exact (runCmd_calm hs credRun_calm).prompt
  | credx => exact (runCmd_calm hs credxRun_calm).prompt
  | cgath | cbcast => exact (runCmd_calm hs collCopyRun_calm).prompt
  | engineCommandComplete => exact (execEngineCommandComplete_calm hs).prompt
  | registerWrite => exact NextCalm.prompt (.ite (.ite (.next hs.ownerWrite) .fault) (hs.asMaster (fun _ _ hx => hx.blockWrite)))
  | devQcfgWrite => exact NextCalm.prompt (.ite (hs.asMaster (fun _ _ hx => .intro hx.writeQcfg)) .fault)
  | devQheadWrite => exact NextCalm.prompt (.ite (hs.asMaster (fun _ _ hx => .intro hx.writeQhead)) .fault)
  | devQtailWrite => exact NextCalm.prompt (.ite (hs.asMaster (fun _ _ hx => hx.writeQtail)) .fault)
  | wakeComplete => exact NextCalm.prompt (.ite (.next hs.modDie.replay) .fault)
  | wakeFailure => exact NextCalm.prompt (.ite .fault (.ite (.next hs.modDie) (.next hs.modDie.replay)))
  | packetFetch => exact (execPacketFetch_calm hs).prompt
  | queueFetchTimeout => exact (execQueueFetchTimeout_calm hs).prompt
  | launch => exact (execLaunch_calm hs).prompt
  | copy => exact (execCopy_calm hs).prompt
  | signal => exact (execSignal_calm hs).prompt
  | wait => exact (execWait_calm hs).prompt
  | waitPacketExpiry => exact (execWaitPacketExpiry_calm hs).prompt
  | contextCreate => exact (execContextCreate_calm hs).prompt
  | contextDestroy => exact (execContextDestroy_calm hs).prompt
  | migrate => exact (execMigrate_calm hs).prompt
  | teardown => exact (execTeardown_calm hs).prompt
  | instancePlacement => exact (execInstancePlacement_calm hs).prompt
  | instanceCompletion => exact (execInstanceCompletion_calm hs).prompt
  | completionRecord => exact (execCompletionRecord_calm hs).prompt
  | instructionRefill => exact (execInstructionRefill_calm hs).prompt
  | ownerClaim | ownerHandover | ownerRelease => exact NextCalm.prompt (.ite (.next hs.ownerWrite) .fault)
  | ownerLinkLoss => exact (execOwnerLinkLoss_calm hs).prompt
  | debugCancel => exact NextCalm.prompt (hs.asMaster (fun _ _ hx => .intro hx.dbgCancel))
  | debugStopRequest => exact NextCalm.prompt (hs.asMaster (fun _ _ hx => .intro hx.dbgStop))
  | debugResume | debugStep => exact NextCalm.prompt (hs.asMaster (fun _ _ hx => .intro hx.dbgGo))
  | debugStop => exact prompt_of_rests fun hs => execDebugStop_calm hs
  | devDbgwinWrite => exact NextCalm.prompt (hs.asMaster (fun _ _ hx => .intro hx.dbgWrite))
  | dieBmaskWrite => exact NextCalm.prompt (.ite .fault (.ite (.next hs.writeBmask) .fault))
  | helperResume => exact NextCalm.prompt (.ite .fault (.next hs.resumeHelpers))
  | inFieldTest => exact NextCalm.prompt (.ite .fault (.next hs.startTest))
  | inFieldTestDone => exact (execInFieldTestDone_calm hs).prompt
  | quarantineClear => exact NextCalm.prompt (.ite (.next hs.clearQuar) .fault)
  | bankRebuild => exact NextCalm.prompt (.next (.ite hs.rebuildCsp hs.rebuildTcm))
  | rebuildStripe => exact NextCalm.prompt (.ite (.ite (.next hs.modCluster) .fault) (.ite (.next (hs.modCore fun _ => rfl)) .fault))
  | exchangeStart => exact prompt_of_rests fun hs => execExchangeStart_calm hs
  | exchangeRecordIssue => exact (execExchangeRecordIssue_calm hs).prompt
  | exchangeReceive => exact (execExchangeReceive_calm hs).prompt
  | computeEntry => exact prompt_of_rests fun hs => execComputeEntry_calm hs
  | barrierRelease => exact (execBarrierRelease_calm hs).prompt
  | waitCompletion => exact prompt_of_rests fun hs => execWaitCompletion_calm hs
  | waitExpiry => exact prompt_of_rests fun hs => execWaitExpiry_calm hs
  | fuseWindowTimeout => exact (execFuseWindowTimeout_calm hs).prompt
  | messageDelivery => exact (execMessageDelivery_calm hs).prompt
  | pageWalk => exact (execPageWalk_calm hs).prompt
  | snagTimeout => exact (execSnagTimeout_calm hs).prompt
  | asyncTrapEntry => exact prompt_of_rests fun hs => execAsyncTrapEntry_calm hs
  | migrationCommit => exact execMigrationCommit_prompt
  | gangSwitch => exact (execGangSwitch_calm hs).prompt
  | partitionResume => exact execPartitionResume_prompt
  | machineCheck => exact (execMachineCheck_calm hs).prompt
  | poisonConsumption => exact (execPoisonConsumption_calm hs).prompt
  | closureCheck => exact (execClosureCheck_calm hs).prompt
  | closureTimeout => exact (execClosureTimeout_calm hs).prompt
  | thermalSample => exact (execThermalSample_calm hs).prompt
  | t4Trip => exact (execT4Trip_calm hs rfl).prompt
  | tokenPassing => exact (execTokenPassing_calm hs).prompt
  | tokenAdd => exact (execTokenAdd_calm hs).prompt
  | ballastPass => exact (execBallastPass_calm hs).prompt
  | fieldBookStateChange => exact (execFieldBookStateChange_calm hs).prompt
  | pcSample => exact (execPcSample_calm hs).prompt
  | skimUnit => exact (execSkimUnit_calm hs).prompt
  | powerOnReset => exact execPowerOnReset_prompt
  | deviceReset => exact execDeviceReset_prompt
  | functionLevelReset => exact execFunctionLevelReset_prompt
  | brirusTraining => exact (execBrirusTraining_calm hs).prompt
  | trainingTimeout => exact (execTrainingTimeout_calm hs).prompt
  | brirusFlit => exact (execBrirusFlit_calm hs).prompt
  | brirusNak => exact NextCalm.prompt (.ite .fault (.ite (.next hs.setPort) (.ite (.next hs.setPort) (.next hs.setPort))))
  | cxlMemRequest => exact NextCalm.prompt (.ite .fault (.ite (.next hs.answerHost) (.ite (.next hs) (.next hs.outsideWrite))))
  | hostLinkDown => exact NextCalm.prompt (.ite (.next (.fixLink hs)) .fault)
  | hostLinkUp => exact NextCalm.prompt (.ite .fault (.next (.fixLink hs)))
  | hostAccessTimeout => exact (execHostAccessTimeout_calm hs).prompt
  | memoryAccessPerformed => exact (execMemoryAccessPerformed_calm hs).prompt
  | waitPacketSatisfied => exact (execWaitPacketSatisfied_calm hs).prompt

end

end Sys2Proof.Machine

/-! PROOFS. What a selector counts, and which write it puts off (R68, R76, R174). -/

namespace Sys2Proof.Machine

/-! ## What a selector counts and puts off -/

/-- The count of words of a core, the rows that are being read and its place. -/
abbrev Core.tally (c : Core) : Nat × List (Nat × Nat) × Option Place := (c.seq, c.reading, c.place)

/-- What a selector leaves of its core's count of words, of the rows that are being read and, on a core without a place, of the free values. -/
structure State.Counts (p : Nat) (s t : State) : Prop where
  seq : (t.core p).seq = (s.core p).seq
  reading : (t.core p).reading = (s.core p).reading
  place : (t.core p).place = (s.core p).place
  fresh : (s.core p).place = none → t.fresh = s.fresh

theorem State.Counts.refl (p : Nat) (s : State) : s.Counts p s := ⟨rfl, rfl, rfl, fun _ => rfl⟩

theorem State.Counts.trans {p : Nat} {s t u : State} (a : s.Counts p t) (b : t.Counts p u) : s.Counts p u where
  seq := b.seq.trans a.seq
  reading := b.reading.trans a.reading
  place := b.place.trans a.place
  fresh h := (b.fresh (a.place.trans h)).trans (a.fresh h)

theorem State.Counts.foldl {α : Type} {p : Nat} {f : State → α → State} (hf : ∀ (s : State) (x : α), s.Counts p (f s x)) (l : List α) (s : State) :
    s.Counts p (l.foldl f s) := by
  induction l generalizing s with
  | nil => exact .refl p s
  | cons x l ih => exact (hf s x).trans (ih (f s x))

theorem State.Counts.ite {p : Nat} {c : Prop} [Decidable c] {s t u : State} (ht : s.Counts p t) (hu : s.Counts p u) :
    s.Counts p (if c then t else u) := by
  split
  · exact ht
  · exact hu

section
variable {s : State} {p : Nat}

theorem counts_modCore {f : Core → Core} (h : (f (s.core p)).tally = (s.core p).tally) : s.Counts p (s.modCore p f) := by
  obtain ⟨hseq, hreading, hplace⟩ : (f (s.core p)).seq = (s.core p).seq ∧ (f (s.core p)).reading = (s.core p).reading ∧
    (f (s.core p)).place = (s.core p).place := by simpa using h
  exact ⟨by rw [core_modCore_same, hseq], by rw [core_modCore_same, hreading], by rw [core_modCore_same, hplace], fun _ => rfl⟩

theorem counts_modStrand (k : Nat) (f : Strand → Strand) : s.Counts p (s.modStrand p k f) := counts_modCore rfl

theorem counts_of_cores {t : State} (hc : t.cores = s.cores) (hf : t.fresh = s.fresh) : s.Counts p t :=
  ⟨by rw [core_congr hc], by rw [core_congr hc], by rw [core_congr hc], fun _ => hf⟩

theorem counts_markStale (l n : Nat) : s.Counts p (s.markStale l n) := counts_of_cores rfl rfl

theorem counts_cleanse (l n : Nat) : s.Counts p (s.cleanse l n) := counts_of_cores rfl rfl

theorem counts_putHmask {k w : Nat} {m v : Word} : s.Counts p (s.putHmask p k w m v) := by
  unfold State.putHmask
  rcases writeRow_cases s p (s.strand p k).wb 1 (m.zeroExtend 512 <<< (64 * w)) (v.zeroExtend 512 <<< (64 * w)) with e | ⟨l, -, e⟩ <;> rw [e]
  · exact counts_modCore rfl
  · exact counts_modCore rfl

theorem counts_withdraw (g : Nat) : s.Counts p (s.withdraw p g) := by
  unfold State.withdraw
  dsimp only
  split
  · exact .refl p s
  · exact (counts_of_cores (State.modInst_cores ..) (State.modInst_fresh ..)).trans (counts_modCore (by rfl))

theorem counts_leaveLds (k : Nat) : s.Counts p (s.leaveLds p k) := by
  unfold State.leaveLds State.dropLoad
  split
  · split
    · exact counts_modCore rfl
    · exact .refl p s
  · exact .refl p s

theorem counts_killHelper (k : Nat) : s.Counts p (s.killHelper p k) := by
  unfold State.killHelper
  refine .ite (.trans (.trans (.trans (counts_leaveLds k) (.foldl (fun x g => ?_) _ _)) (counts_modCore (by rfl))) (counts_modCore (by rfl))) (.refl p s)
  split
  · exact .ite (counts_withdraw _) (.refl p x)
  · exact .refl p x

theorem counts_endControl : s.Counts p (s.endControl p) := by
  unfold State.endControl
  dsimp only
  have a : s.Counts p (((s.core p).helpers.foldl (fun x k => x.killHelper p k) s).modStrand p 0 (Strand.finish 0)) :=
    (State.Counts.foldl (fun x k => counts_killHelper k) (s.core p).helpers s).trans (counts_modCore (by rfl))
  split
  · exact (a.trans (counts_modCore (by rfl))).trans (counts_of_cores (State.modInst_cores ..) (State.modInst_fresh ..))
  · exact a.trans (counts_modCore (by rfl))

/-- A translation that a core with a place installs draws a free value. -/
theorem counts_install {e : TlbEntry} {pl : Place} (hpl : (s.core p).place = some pl) : s.Counts p (s.install p e) := by
  let f : Core → Core := fun c => { c with utlb := installTlb 64 s.freeWord.toNat e c.utlb }
  have hcore : (s.install p e).core p = f (s.core p) := core_modCore_same s.drawn p f
  exact ⟨by rw [hcore], by rw [hcore], by rw [hcore], fun h => nomatch hpl.symm.trans h⟩

theorem counts_walked (va : Word) : s.Counts p (s.walked p va) := by
  unfold State.walked
  split
  · exact .refl p s
  next pl hpl =>
  refine .ite (.refl p s) ?_
  split
  · exact .refl p s
  · exact counts_install hpl

theorem counts_fbStore (l : Nat) (rs : Bool) (bs : List Byte) : s.Counts p (s.fbStore p l rs bs) := by
  have stored : s.Counts p ((s.walked p (s.core p).fb.slot).store l bs) := (counts_walked _).trans (counts_of_cores rfl rfl)
  unfold State.fbStore
  dsimp only
  split
  · exact ((stored.trans (counts_markStale ..)).trans (counts_cleanse ..)).trans (counts_modCore (by rfl))
  · exact (stored.trans (counts_cleanse ..)).trans (counts_modCore (by rfl))

theorem counts_fbPut (bs : List Byte) : s.Counts p (s.fbPut p bs) := by
  have wait : s.Counts p (s.fbWait p bs) := counts_modCore rfl
  unfold State.fbPut
  dsimp only
  refine .ite (wait.trans (counts_modCore (by rfl))) ?_
  split
  · exact .ite (wait.trans (counts_modCore (by rfl))) ((counts_fbStore ..).trans (counts_modCore (by rfl)))
  · refine .trans ?_ (counts_modCore rfl : State.Counts p _ (State.fbFault _ p))
    unfold State.countDrop State.dropAt
    split
    · exact counts_of_cores rfl rfl
    · exact .refl p s
  · exact (counts_modCore rfl : State.Counts p _ (State.fbLose _ p))

theorem counts_fbRecord (kind value : Nat) (w2 w3 : Word) : s.Counts p (s.fbRecord p kind value w2 w3) := by
  unfold State.fbRecord
  extract_lets c shadow room s1 s2
  have marker : s.Counts p s2 := (counts_fbPut _).trans (counts_modCore (by rfl))
  exact .ite (.refl p s) (.ite (counts_modCore (by rfl)) (.ite (.ite (marker.trans (counts_fbPut _)) marker) (counts_fbPut _)))

theorem counts_traceSel (a b : Word) : s.Counts p (s.traceSel p a b) :=
  .ite (counts_fbRecord ..) (.refl p s)

theorem counts_leftBody (src : State) (k : Nat) : s.Counts p (s.leftBody src p k) :=
  .ite counts_putHmask (.refl p s)

theorem counts_rep (src : State) (k : Nat) : s.Counts p (s.rep src p k) :=
  .ite (counts_putHmask.trans (counts_modStrand ..)) (counts_putHmask.trans (counts_modStrand ..))

theorem counts_nextWord (k : Nat) (inBody : Bool) : s.Counts p (s.nextWord p k inBody) :=
  .ite (.ite ((counts_modStrand ..).trans (counts_modStrand ..)) ((counts_modStrand ..).trans counts_putHmask)) (counts_modStrand ..)

theorem counts_finish (k : Nat) (h : Hdr) (a : Word) : s.Counts p (s.finish p k h a) :=
  .ite (.ite counts_endControl (counts_modStrand ..)) (counts_modStrand ..)

/-- A selector that is not taken is a REP or goes on at the next word. -/
theorem select_skips {src : State} {k : Nat} {h : Hdr} {cond : Bool} (ht : ¬SelectorTaken h cond) :
    h.na = 6 ∧ s.select src p k h cond = s.rep src p k ∨ s.select src p k h cond = s.nextWord p k (src.inBody p k) := by
  unfold State.select
  dsimp only
  split
  · next h6 => exact .inl ⟨BitVec.eq_of_toNat_eq h6, rfl⟩
  · next h6 =>
    have hno : h.na.toNat = 0 ∨ cond = false := by
      by_contra hc
      rw [not_or] at hc
      exact ht ⟨fun e => hc.1 (by rw [e]; rfl), fun e => h6 (by rw [e]; rfl), by simpa using hc.2⟩
    exact .inr (if_pos hno)

theorem counts_select (src : State) (k : Nat) (h : Hdr) (cond : Bool) : s.Counts p (s.select src p k h cond) := by
  by_cases ht : SelectorTaken h cond
  · rw [select_taken ht]
    exact ((counts_leftBody src k).trans (counts_traceSel ..)).trans (counts_finish ..)
  · rcases select_skips (s := s) (src := src) (p := p) (k := k) ht with ⟨-, e⟩ | e <;> rw [e]
    · exact counts_rep ..
    · exact counts_nextWord ..

end

/-- The writes that a selector puts off: none, or where it writes the loop word that write of its word's number, at latency 1. -/
def State.PutsOne (w : Prop) (p wb : Nat) (s t : State) : Prop :=
  (t.core p).late = (s.core p).late ∨ w ∧ ∃ l : Late, (t.core p).late = (s.core p).late ++ [l] ∧ l.id = (s.core p).seq ∧ l.row = wb ∧
    l.due = (s.core p).cycle + 1

section
variable {s src : State} {p k : Nat} {h : Hdr}

theorem putsOne_putHmask {w : Prop} (m v : Word) (hw : w) : s.PutsOne w p (s.strand p k).wb (s.putHmask p k 6 m v) := by
  unfold State.putHmask State.writeRow State.writeRowAs
  split
  · refine .inl ?_
    rw [State.blendRow, core_modCore_same]
    rfl
  · refine .inr ⟨hw, ⟨(s.core p).seq, (s.core p).cycle + 1, (s.strand p k).wb, m.zeroExtend 512 <<< (64 * 6), v.zeroExtend 512 <<< (64 * 6)⟩,
      ?_, rfl, rfl, rfl⟩
    exact congrArg Core.late (core_modCore_same s p _)

theorem State.PutsOne.same {w : Prop} {wb : Nat} {t u : State} (a : s.PutsOne w p wb t) (h : (u.core p).late = (t.core p).late) :
    s.PutsOne w p wb u := by
  rw [State.PutsOne, h]
  exact a

theorem late_modStrand (s : State) (p k : Nat) (f : Strand → Strand) : ((s.modStrand p k f).core p).late = (s.core p).late := by
  rw [State.modStrand, core_modCore_same]
  rfl

theorem putsOne_rep (hna : h.na = 6) : s.PutsOne (src.writesLoop p k h) p (s.strand p k).wb (s.rep src p k) := by
  unfold State.rep
  dsimp only
  split
  · exact (putsOne_putHmask _ _ (.inl hna)).same (late_modStrand ..)
  · exact (putsOne_putHmask _ _ (.inl hna)).same (late_modStrand ..)

theorem putsOne_nextWord : s.PutsOne (src.writesLoop p k h) p (s.strand p k).wb (s.nextWord p k (src.inBody p k)) := by
  unfold State.nextWord
  dsimp only
  split
  · next hin =>
    split
    · exact .inl ((late_modStrand ..).trans (late_modStrand ..))
    · have put := fun m v => putsOne_putHmask (s := s.goto p k ((s.strand p k).pc + 8)) (p := p) (k := k) m v (w := src.writesLoop p k h) (.inr hin)
      unfold State.PutsOne at put ⊢
      simp only [State.goto, strand_modStrand_same] at put
      rw [State.modStrand, core_modCore_same] at put
      exact put ..
  · exact .inl (late_modStrand ..)

theorem putsOne_leftBody : s.PutsOne (src.writesLoop p k h) p (s.strand p k).wb (s.leftBody src p k) := by
  unfold State.leftBody
  split
  · next hin => exact putsOne_putHmask _ _ (.inr hin)
  · exact .inl rfl

theorem putsOne_select (cond : Bool) : s.PutsOne (src.writesLoop p k h) p (s.strand p k).wb (s.select src p k h cond) := by
  by_cases ht : SelectorTaken h cond
  · rw [select_taken ht]
    refine (putsOne_leftBody (src := src) (h := h)).same (((endedPart_finish _ p k h _).late).trans (recorded_traceSel ..).late)
  · rcases select_skips (s := s) (src := src) (p := p) (k := k) ht with ⟨h6, e⟩ | e <;> rw [e]
    · exact putsOne_rep h6
    · exact putsOne_nextWord

end

end Sys2Proof.Machine

/-! PROOFS. What a word that issues memory operations leaves unchanged (R110, R114, R266). -/

namespace Sys2Proof.Machine

/-! ## The issue of a word's operations -/

/-- What a word of strand `k` of core `p` that issues operations leaves, before its selector. -/
structure State.Sent (p k : Nat) (l : List MemOp) (s t : State) : Prop where
  outside : t.outside = s.outside
  insts : t.insts = s.insts
  others : ∀ q, q ≠ p → t.core q = s.core q
  kept : (t.core p).kept = { (s.core p).kept with ops := (s.core p).ops ++ l }
  ctl : (t.core p).fb.ctl = (s.core p).fb.ctl
  strands : ∀ j, j ≠ k → t.strand p j = s.strand p j
  wb : (t.strand p k).wb = (s.strand p k).wb
  pc : (t.strand p k).pc = (s.strand p k).pc
  aside : (t.strand p k).aside = (s.strand p k).aside
  rows : (t.core p).rows = (s.core p).rows
  late : (t.core p).late = (s.core p).late
  seq : (t.core p).seq = (s.core p).seq + 1
  cycle : (t.core p).cycle = (s.core p).cycle

theorem sent_issued (s : State) (p k : Nat) (w : WordSpec) : s.Sent p k [] (s.issued p k w) := by
  obtain ⟨hout, hinsts, hothers, hkept, hctl, hstrands⟩ := begun_issued s p k w
  obtain ⟨hrows, hlate, -, -, -, -, hcycle, -⟩ := issued_core s p k p w
  refine ⟨hout, hinsts, hothers, ?_, hctl, hstrands, issued_wb .., issued_pc .., issued_aside .., hrows, hlate, seq_issued s p k w, hcycle⟩
  rw [hkept, List.append_nil]
  rfl

theorem State.Sent.withOps {p k : Nat} {s t : State} (a : s.Sent p k [] t) (l : List MemOp) : s.Sent p k l (t.withOps p l) := by
  have hops : (t.core p).ops = (s.core p).ops := (congrArg Core.ops a.kept :).trans (List.append_nil _)
  have hcore : (t.withOps p l).core p = { t.core p with ops := (t.core p).ops ++ l } := core_modCore_same ..
  have hstrand : ∀ j, (t.withOps p l).strand p j = t.strand p j := fun j => by rw [State.strand, hcore]; rfl
  refine ⟨a.outside, a.insts, fun q h => (core_modCore_other h).trans (a.others q h), ?_, by rw [hcore]; exact a.ctl,
    fun j h => (hstrand j).trans (a.strands j h), by rw [hstrand, a.wb], by rw [hstrand, a.pc], by rw [hstrand, a.aside],
    by rw [hcore]; exact a.rows, by rw [hcore]; exact a.late, by rw [hcore]; exact a.seq, by rw [hcore]; exact a.cycle⟩
  rw [hcore, hops]
  exact congrArg (fun c : Core => { c with ops := (s.core p).ops ++ l }) a.kept

/-- The operations that a word issues on the core in focus, where its predicate lets it act. -/
def State.sends (s : State) (h : Hdr) (w : WordSpec) (l : Nat → Nat → State → List MemOp) : List MemOp :=
  if w.off h s.focus.pcid s.focus.strand (s.begun w) then [] else l s.focus.pcid s.focus.strand (s.begun w)

/-- The effect of a word that issues operations. -/
def intoOps (l : Nat → Nat → State → List MemOp) : Nat → Nat → State → State := fun p k x => x.withOps p (l p k x)

section
variable {i : Instr} {h : Hdr} {w : WordSpec} {n : Nat} {l : Nat → Nat → State → List MemOp} {s : State}

theorem sent_went (hg : (s.core s.focus.pcid).gang = none) :
    s.Sent s.focus.pcid s.focus.strand (s.sends h w l) (s.went h w (intoOps l)) := by
  have e : s.went h w (intoOps l) = w.on h (intoOps l) s.focus.strand s.focus.pcid (s.begun w) := by
    simp [State.went, members_alone hg]
  have hissued := sent_issued s s.focus.pcid s.focus.strand w
  rw [← begun_alone hg] at hissued
  rw [e, WordSpec.on, State.sends]
  split
  · exact hissued
  · exact hissued.withOps _

/-- Such a word completes where its addresses are aligned and its operations may issue. -/
theorem Issues.exec (hi : Issues i h w n l) (hg : (s.core s.focus.pcid).gang = none) (hc : Clear h w s)
    (ha : ∀ o ∈ s.sends h w l, o.va.toNat % n = 0) (hm : (s.begun w).MayIssue s.focus.pcid s.focus.strand (s.sends h w l)) :
    exec i s = .next (s.ran h w (intoOps l)) := by
  refine hi.1.1 s ⟨hc, ?_⟩
  rw [members_alone hg]
  refine ⟨fun hoff => ?_, trivial⟩
  have e : s.sends h w l = l s.focus.pcid s.focus.strand (s.begun w) := if_neg (by simp [hoff])
  rw [e] at ha hm
  exact ⟨ha, hm⟩

theorem inBody_sent (hg : (s.core s.focus.pcid).gang = none) :
    (s.went h w (intoOps l)).inBody s.focus.pcid s.focus.strand = s.inBody s.focus.pcid s.focus.strand := by
  have a := sent_went (h := h) (w := w) (l := l) hg
  simp only [State.inBody, State.ract, State.hword, State.header, State.row, Core.row, a.wb, a.aside, a.rows]

/-- A selector that puts off its write of the loop word would make a step that no instruction takes. -/
theorem putsOff_ran (hn : w.noHeader = false) (hg : (s.core s.focus.pcid).gang = none) (hc : Clear h w s)
    (hlate : ((s.ran h w (intoOps l)).core s.focus.pcid).late ≠ (s.core s.focus.pcid).late) :
    ∃ x, s.PutsOff (s.ran h w (intoOps l)) x := by
  have a := sent_went (h := h) (w := w) (l := l) hg
  have hran := ran_alone h w (intoOps l) hg
  have counts := counts_select (p := s.focus.pcid) (s := s.went h w (intoOps l)) (s.selectsBy h w (intoOps l)) s.focus.strand h
    ((s.selectsBy h w (intoOps l)).condition s.focus.pcid s.focus.strand h)
  have sel := selected_select (s.went h w (intoOps l)) (s.selectsBy h w (intoOps l)) s.focus.pcid s.focus.strand h
    ((s.selectsBy h w (intoOps l)).condition s.focus.pcid s.focus.strand h)
  have put := putsOne_select (s := s.went h w (intoOps l)) (src := s.selectsBy h w (intoOps l)) (p := s.focus.pcid) (k := s.focus.strand) (h := h)
    ((s.selectsBy h w (intoOps l)).condition s.focus.pcid s.focus.strand h)
  rw [← hran] at counts sel put
  rcases put with e | ⟨hloop, x, hx, hid, hrow, hdue⟩
  · exact absurd (e.trans a.late) hlate
  have hcheck : s.check s.focus.pcid s.focus.strand h w = .go := checkAll_go.mp hc.2 _ (by simp [members_alone hg])
  obtain ⟨hrep, hready⟩ := check_header hcheck hn
  have hsrc : (s.selectsBy h w (intoOps l)).inBody s.focus.pcid s.focus.strand = s.inBody s.focus.pcid s.focus.strand := by
    unfold State.selectsBy
    split
    · exact inBody_sent hg
    · rfl
  obtain ⟨hbusy, hlocked⟩ := hready (hloop.elim hrep fun hin => hsrc.symm.trans hin)
  refine ⟨x, hg, hbusy, hlocked, counts.seq.trans a.seq, ?_, ?_, ?_, ?_, fun q hq => ?_⟩
  · rw [hx]
    exact List.mem_append_right _ (List.mem_singleton.mpr rfl)
  · simp only [Watch.counts, State.watch, hid, hrow, hdue, a.seq, a.wb, a.cycle, decide_true, Bool.and_self]
  · exact counts.reading.trans (congrArg Core.reading a.kept :)
  · exact fun hp => (counts.fresh ((congrArg Core.place a.kept :).trans hp)).trans (congrArg State.fresh a.outside :)
  · rw [sel.others q hq, a.others q hq]

/-- The selector of a word that issues operations writes the loop word at once. -/
theorem late_issues (hn : w.noHeader = false) (hg : (s.core s.focus.pcid).gang = none) (hc : Clear h w s)
    (hexec : exec i s = .next (s.ran h w (intoOps l))) :
    ((s.ran h w (intoOps l)).core s.focus.pcid).late = (s.core s.focus.pcid).late := by
  by_contra hlate
  obtain ⟨x, hx⟩ := putsOff_ran hn hg hc hlate
  exact exec_prompt i _ hexec x hx

theorem untraced_sent (hg : (s.core s.focus.pcid).gang = none) :
    (s.went h w (intoOps l)).untraced s.focus.pcid h ↔ s.untraced s.focus.pcid h := by
  rw [State.untraced, (sent_went (h := h) (w := w) (l := l) hg).ctl]

end

/-- Settles O60: the issue of a word, its operations and the steps of its selector each leave all but what they name; that the selector's write of
the loop word stays pending would be a step that no instruction takes (`exec_prompt`). -/
theorem memoryWordFrame : Obligations.MemoryWordFrame := by
  unfold Obligations.MemoryWordFrame
  intro i h w n l s t p k wb x ops hi hn hg hc ha hm hexec
  have hruns : exec i s = .next (s.ran h w (intoOps l)) := hi.exec hg hc ha hm
  have ht : t = s.ran h w (intoOps l) := by
    rw [hruns] at hexec
    exact (Host.Outcome.next.inj hexec).symm
  have hran := ran_alone h w (intoOps l) hg
  have sent : s.Sent p k ops (s.went h w (intoOps l)) := sent_went hg
  have sel := selected_select (s.went h w (intoOps l)) (s.selectsBy h w (intoOps l)) p k h ((s.selectsBy h w (intoOps l)).condition p k h)
  rw [sent.wb, ← hran, ← ht] at sel
  have hrow : ∀ r, (s.went h w (intoOps l)).row p r = s.row p r := fun r => by
    rw [State.row, State.row, Core.row, Core.row, sent.rows]
  refine ⟨fun hstays => ?_, fun r hr => ?_, fun j hj h6 => ?_, ht ▸ late_issues hn hg hc hruns, fun q hq => ?_, ?_, fun hu => ?_, ?_⟩
  · obtain ⟨hkept, hinsts, hstrands⟩ := sel.stays hstays
    have htraced : (t.core p).keptTraced = { (s.core p).keptTraced with ops := (s.core p).ops ++ ops } :=
      hkept.trans (congrArg (fun c : Core => { c with utlb := [], fb := { c.fb with pend := [] } }) sent.kept :)
    exact ⟨(congrArg Core.ops htraced :), hinsts.trans sent.insts, htraced, fun j hj => (hstrands j hj).trans (sent.strands j hj)⟩
  · rw [sel.rows r hr, hrow]
  · rw [sel.words j hj h6, hrow]
  · rw [sel.others q hq, sent.others q hq]
  · rw [sel.outside, keptTraced_of_outside sent.outside]
  · obtain ⟨hout, hkept⟩ := select_untraced (s.selectsBy h w (intoOps l)) k ((s.selectsBy h w (intoOps l)).condition p k h)
      ((untraced_sent hg).mpr hu)
    rw [← hran, ← ht] at hout hkept
    have hout' := hout.trans sent.outside
    exact ⟨kept_of_outside hout', (congrArg State.mem hout' :), (congrArg State.keyed hout' :), (congrArg State.poison hout' :),
      (congrArg State.clusters hout' :), (congrArg State.parts hout' :), fun hstays => (hkept hstays).trans sent.kept⟩
  · intro y hu
    obtain ⟨hout, hutlb, hfb⟩ := select_traced (s.selectsBy h w (intoOps l)) k ((s.selectsBy h w (intoOps l)).condition p k h)
      (mt (untraced_sent hg).mp hu)
    rw [← hran, ← ht, sent.pc] at hout hutlb hfb
    exact ⟨(congrArg State.mem hout :), (congrArg State.keyed hout :), (congrArg State.poison hout :),
      (congrArg State.clusters hout :), (congrArg State.dies hout :), hutlb, hfb⟩

end Sys2Proof.Machine

/-! PROOFS. Scalar floating-point words, and the NaN and zero cases of comparisons, minima and maxima (R146, R179, R233 to R235). -/

namespace Sys2Proof.Machine

/-! ## NaNs and zeros -/

/-- The index that two encodings' values pick is the encoding that FMIN or FMAX answers. -/
theorem fpMinMax_of_pick {f : Fmt} {wantMax b : Bool} {x y : Nat} (h : fpPick wantMax (fpVal f x) (fpVal f y) = some b) :
    fpMinMax f wantMax x y = if b then y else x := by
  rw [fpMinMax, h]
  cases b <;> rfl

theorem fpMinMax_of_pick_none {f : Fmt} {wantMax : Bool} {x y : Nat} (h : fpPick wantMax (fpVal f x) (fpVal f y) = none) :
    fpMinMax f wantMax x y = f.nanBits := by
  rw [fpMinMax, h]

section
variable {x y : FVal} (wantMax : Bool)

theorem fpPick_nan_nan (hx : x.isNan) (hy : y.isNan) : fpPick wantMax x y = none := by
  rw [fpPick, hx, hy]

theorem fpPick_nan_left (hx : x.isNan) (hy : ¬y.isNan) : fpPick wantMax x y = some true := by
  rw [fpPick, hx, Bool.eq_false_of_not_eq_true hy]

theorem fpPick_nan_right (hx : ¬x.isNan) (hy : y.isNan) : fpPick wantMax x y = some false := by
  rw [fpPick, Bool.eq_false_of_not_eq_true hx, hy]

end

/-- Zeros compare equal, whatever their signs and exponents. -/
theorem cmp_zeros (m n : Bool) (e g : Int) : (FVal.fin m 0 e).cmp (.fin n 0 g) = .eq := by
  have hzero : ∀ b i, scaled b 0 i (min e g) = 0 := fun b i => by cases b <;> simp [scaled]
  simp only [FVal.cmp, hzero]
  decide

/-- Of two zeros of opposite signs, −0 is the lower. -/
theorem fpPick_zeros (wantMax n : Bool) (e g : Int) :
    fpPick wantMax (.fin n 0 e) (.fin (!n) 0 g) = some (if n then wantMax else !wantMax) := by
  simp only [fpPick, FVal.isNan, cmp_zeros, FVal.neg]
  cases n <;> cases wantMax <;> rfl

/-- A comparison with a NaN holds for `.ne` and `.un` alone. -/
theorem fpCmp_nan {x y : FVal} (h : x.isNan ∨ y.isNan) {cc : Nat} (hcc : cc ≤ 7) : fpCmp cc x y = decide (cc = 1 ∨ cc = 6) := by
  have hun : (x.isNan || y.isNan) = true := by simpa using h
  unfold fpCmp
  rw [hun]
  interval_cases cc <;> rfl

/-! ## The words -/

/-- A field of two bits has four values. -/
theorem two_bits (fl : BitVec 2) : fl = 0 ∨ fl = 1 ∨ fl = 2 ∨ fl = 3 := by
  revert fl
  decide

/-- Settles O5: each word is one function of its operands' values, and FCVT and FCVTI one for each value of F1:F0. -/
theorem scalarFloatWords : Obligations.ScalarFloatWords := by
  unfold Obligations.ScalarFloatWords
  refine ⟨fun h d a b c ty rm => ?words, fun f x y wantMax => ⟨fun hx hy => ?_, fun hx hy => ?_, fun hx hy => ?_, fun m n e g => ?_, ?_⟩⟩
  case words =>
    refine ⟨?fadd, ?fsub, ?fmul, ?ffma, ?fdiv, ?fsqrt, ?fmin, ?fmax, ?fcmp, ?fclass, ?fcvt, ?fcvti⟩
    case fadd | fsub | fmul | fdiv | ffma | fsqrt | fmin | fmax | fclass => exact runs_of (fun _ => rfl) fun _ _ _ => rfl
    case fcmp => exact fun q cc => runs_of (fun _ => rfl) fun _ _ _ => rfl
    case fcvt | fcvti =>
      intro fl
      obtain rfl | rfl | rfl | rfl := two_bits fl <;> exact runs_of (fun _ => rfl) fun _ _ _ => rfl
  · exact fpMinMax_of_pick_none (fpPick_nan_nan wantMax hx hy)
  · exact fpMinMax_of_pick (fpPick_nan_left wantMax hx hy)
  · exact fpMinMax_of_pick (fpPick_nan_right wantMax hx hy)
  · exact ⟨fpPick_zeros wantMax true e g, fpPick_zeros wantMax false e g, by simp [fpCmp, FVal.isNan, cmp_zeros]⟩
  · exact fun h cc hcc => fpCmp_nan h hcc

end Sys2Proof.Machine

/-! PROOFS. Decode-table and quantisation words (R161, R162, R245, R256 to R263). -/

namespace Sys2Proof.Machine

section
variable {s : State} {p k : Nat} {h : Hdr} {src : Fmt} {ty rm : BitVec 3} {d : BitVec 8} {a : Row} {b c : Word}

/-- Narrowing to a target that the table is valid for writes its part of the row. -/
theorem narrow_done (hv : (s.core p).tableFault ty = none) : s.narrow p k h src ty rm d a b c =
    .done (s.narrowInto p k 4 h ty rm d ((lanesOf src.width a).map (fpVal src))
      (b.toNat % (512 / targetW ty / (512 / src.width)) * (512 / src.width)) c) := by
  rw [State.narrow, hv]

theorem narrow_trap {t : Trap} (hv : (s.core p).tableFault ty = some t) : s.narrow p k h src ty rm d a b c = .trap t := by
  rw [State.narrow, hv]

end

/-- A narrowing word raises the fault of the table. -/
theorem trapsIf_narrow {i : Instr} {h : Hdr} {w : WordSpec} {src : Fmt} {ty rm : BitVec 3} {d a b c : BitVec 8} {t : Trap}
    (he : ∀ s, exec i s =
      runWord h w (fun p k x => x.narrow p k h src ty rm d (x.rV p k 1 a) (x.rS p k 2 b) (x.rS p k 3 c)) s) :
    TrapsIf i h w (fun p _ x => (x.core p).tableFault ty = some t) fun _ _ _ => t :=
  trapsIf_of he fun _ _ _ hv => narrow_trap hv

/-- When no rule gives the scale of SCSEL: the largest entry is a zero and the maximum a nonzero number (R162). -/
theorem noLargest_iff (amax m : FVal) : (m.isZero && !amax.isZero && !amax.isNan && !amax.isInf) = true ↔
    m.isZero ∧ ¬amax.isZero ∧ ¬amax.isNan ∧ ¬amax.isInf := by
  simp [and_assoc]

/-- Settles O10: each word has one effect where the table is valid for its target, and the fault of the table where it is not. -/
theorem formatWords : Obligations.FormatWords := by
  unfold Obligations.FormatWords
  intro h d a b c ty rm f n after narrowing block encodes narrows noMax
  refine ⟨?dtrd, fun u m => ⟨?dtdec, ?mxdq⟩, fun u => ?vfnarrow, fun fl => ?dtenc, ?mxq, ?ufcnt, ?scsel, ?scselFree, fun t i w hi => ?traps⟩
  case dtrd | dtdec | mxdq => exact runs_of (fun _ => rfl) fun _ _ _ => rfl
  case vfnarrow | dtenc => exact runsIf_of (fun _ => rfl) fun _ _ _ hv => narrow_done hv
  case mxq =>
    refine runsIf_of (fun _ => rfl) fun p k x (hv : (x.core p).tableFault ty = none) => ?_
    simp only [hv]
  case ufcnt => exact runs_of (fun _ => rfl) fun _ _ _ => (apply_ite Res.done _ _ _).symm
  case scsel =>
    refine runsIf_of (fun _ => rfl) fun p k x ⟨(hv : (x.core p).tableFault ty = none), hmax⟩ => ?_
    simp only [hv]
    exact if_neg (mt (noLargest_iff _ _).mp hmax)
  case scselFree =>
    refine runsIf_of (fun _ => rfl) fun p k x ⟨(hv : (x.core p).tableFault ty = none), hmax⟩ => ?_
    simp only [hv]
    exact if_pos ((noLargest_iff _ _).mpr hmax)
  case traps =>
    simp only [List.mem_cons, Prod.mk.injEq, List.not_mem_nil, or_false] at hi
    obtain ⟨rfl, rfl⟩ | ⟨rfl, rfl⟩ | ⟨rfl, rfl⟩ | ⟨rfl, rfl⟩ | ⟨rfl, rfl⟩ | ⟨rfl, rfl⟩ := hi
    case inr.inr.inr.inr.inl | inr.inr.inr.inr.inr => exact trapsIf_of (fun _ => rfl) fun p k x hv => by simp only [hv]
    all_goals exact trapsIf_narrow fun _ => rfl

end Sys2Proof.Machine

/-! PROOFS. The encoding of an instruction and its decoding are inverse to each other (R171 to R187). -/

namespace Sys2Proof

/-- Every instruction has its law: the instruction words, the engine commands, and the events, which have no encoding. -/
theorem Laws.Encoding.statement (i : Instr) : Statement i :=
  Instr.casesOn (motive := Statement) i
    -- the instruction words (R203 to R336)
    nop tgt tgts lnk loop loopSet repb start join hkill ids clk sleep mark win wins wswap wrd wdrain tdel tret env snagw snagx add sub addi
    mul mulh mulhu div divu rem remu and or xor andn shl shr sra rot clz ctz popc min max minu maxu sel scmp scmps li lih agen bfx bfi sext
    zext mov fadd fsub fmul ffma fdiv fsqrt fmin fmax fcmp fclass fcvt fcvti vadd vsub vmul vmulh vmad vand vor vxor vshl vshr vsra vmin
    vmax vabs vcmp vsel vadds vsubs vdot4 vpopc vclz vmov vfadd vfsub vfmul vfma vfms vfnma vfdiv vfsqrt vfrec vfrsq vfexp2 vflog2 vfmin
    vfmax vfcmp vfclass vfcvt vfnarrow vfwiden vfred vfamax vperm vrot vbfly vbcst vcomp vxpnd vsplat vext vins qand qor qxor qnot qpop
    qfirst qmov qmovX gany gall gbcast glane dtld dtrd dtdec dtenc mxq mxqMem mxdq ufcnt scsel ld st ldv stv ldvx stvx lds stf feclr ferd
    aadd aand aor axor amin amax aminu amaxu axchg acas afadd radd rand rior rxor rmin rmax rfadd fence barr bwait bwd bstat send recv qstat
    waitseq xplan sstep bcfg append chain chainUnbind seqrd claim rels tshape trow tcol twrow twcol wralloc wrpin wrunpin wrrevoke wrquery
    laclr laadd ladot larnd lamrg laflg laflgClr fuse split migpt lcid csrr csrw csrx tlbinv tlbinvAll tlbinvAllP halt keyz skim attest tkrd
    tkgive quar mcread pswitch fbctl ctxld
    -- the engine commands (R186)
    mmt8t8 mmst8t8 mmt8bf mmst8bf mmbfbf mmsbfbf mmf16f16 mmsf16f16 mmi8i8 mmsi8i8 mmt4t8 mmst4t8 mmt4t4 mmst4t4 mmx8x8 mmsx8x8 mmx4x8
    mmsx4x8 mmx4x4 mmsx4x4 wload mxsig cpy cpys cpyg cpyf cpymx sig cred credx cgath cbcast
    -- the events
    engineCommandComplete registerWrite devQcfgWrite devQheadWrite devQtailWrite wakeComplete wakeFailure packetFetch queueFetchTimeout
    launch copy signal wait waitPacketExpiry contextCreate contextDestroy migrate teardown instancePlacement instanceCompletion
    completionRecord instructionRefill ownerClaim ownerHandover ownerRelease ownerLinkLoss debugCancel debugStopRequest debugResume
    debugStep debugStop devDbgwinWrite dieBmaskWrite helperResume inFieldTest inFieldTestDone quarantineClear bankRebuild rebuildStripe
    exchangeStart exchangeRecordIssue exchangeReceive computeEntry barrierRelease waitCompletion waitExpiry fuseWindowTimeout
    messageDelivery pageWalk snagTimeout asyncTrapEntry migrationCommit gangSwitch partitionResume machineCheck poisonConsumption
    closureCheck closureTimeout thermalSample t4Trip tokenPassing tokenAdd ballastPass fieldBookStateChange pcSample skimUnit powerOnReset
    deviceReset functionLevelReset brirusTraining trainingTimeout brirusFlit brirusNak cxlMemRequest hostLinkDown hostLinkUp
    hostAccessTimeout memoryAccessPerformed waitPacketSatisfied

/-- Settles O42: the law of each instruction; those of the events hold because an event has no encoding. -/
theorem decodeOfEncode : Obligations.DecodeOfEncode :=
  Laws.Encoding.statement

/-- The decoder encodes again what it has read and checks it, so an accepted word has no field that its instruction does not carry (R183). -/
theorem toFields_wf_of_decodeFields {f : Fields} {i : Instr} (h : decodeFields f = .ok i) : toFields i = some f ∧ i.wf = true := by
  unfold decodeFields at h
  split at h
  case h_1 => cases h
  case h_2 g _ =>
    split_ifs at h with hf hwf
    cases h
    exact ⟨not_not.mp hf, hwf⟩

theorem encode_of_toFields {w : Word} {i : Instr} (h : toFields i = some (Fields.ofWord w)) : encode i = [w] := by
  simp only [encode, h, Fields.word_ofWord]

/-- Settles O43: the decoder accepts only what encodes to the fields that it has read, and the fields of a word make up the word. -/
theorem encodeOfDecode : Obligations.EncodeOfDecode := by
  intro w i h
  obtain ⟨hf, hwf⟩ := toFields_wf_of_decodeFields h
  exact ⟨hwf, encode_of_toFields hf⟩

/-- The two directions together: to decode a word is to find the well-formed instruction that it encodes. -/
theorem decodeWord_eq_ok_iff {w : Word} {i : Instr} : decodeWord w = .ok i ↔ i.wf = true ∧ encode i = [w] := by
  refine ⟨encodeOfDecode w i, fun ⟨hwf, henc⟩ => ?_⟩
  have hdec : decodeWords (encode i) = .ok i := decodeOfEncode i hwf (henc ▸ List.cons_ne_nil w [])
  rwa [henc] at hdec

/-- Settles O44: each instruction is well-formed and encodes to its word. -/
theorem sampleWords : Obligations.SampleWords := by
  refine ⟨?bfx, ?scmp, ?append, ?fence, ?lds⟩ <;> exact decodeWord_eq_ok_iff.mpr ⟨rfl, rfl⟩

end Sys2Proof

/-! PROOFS. Scalar integer words: the results of the tables of R226 and R227. -/

namespace Sys2Proof.Machine

/-! ## Sums, products and shifts (R226) -/

theorem add_eq_ofNat (x y : Word) : x + y = BitVec.ofNat 64 (x.toNat + y.toNat) := by
  simp [BitVec.ofNat_add]

theorem sub_eq_ofInt (x y : Word) : x - y = BitVec.ofInt 64 (x.toInt - y.toInt) := by
  rw [Int.sub_eq_add_neg, BitVec.ofInt_add, BitVec.ofInt_neg, BitVec.ofInt_toInt, BitVec.ofInt_toInt, BitVec.sub_eq_add_neg]

theorem add_sx_eq_ofInt {n : Nat} (x : Word) (imm : BitVec n) : x + sx imm = BitVec.ofInt 64 (x.toInt + imm.toInt) := by
  rw [BitVec.ofInt_add, BitVec.ofInt_toInt]
  rfl

theorem mul_eq_ofNat (x y : Word) : x * y = BitVec.ofNat 64 (x.toNat * y.toNat % 2 ^ 64) :=
  BitVec.eq_of_toNat_eq (by rw [BitVec.toNat_mul, BitVec.toNat_ofNat, Nat.mod_mod])

theorem mulHigh_eq_fdiv (x y : Word) : mulHigh x y = BitVec.ofInt 64 ((x.toInt * y.toInt).fdiv (2 ^ 64)) := by
  rw [Int.fdiv_eq_ediv_of_nonneg _ (by decide), mulHigh]

theorem shiftLeft_eq_ofNat (x : Word) (n : Nat) : x <<< n = BitVec.ofNat 64 (x.toNat * 2 ^ n) :=
  BitVec.eq_of_toNat_eq (by rw [BitVec.toNat_shiftLeft, BitVec.toNat_ofNat, Nat.shiftLeft_eq])

theorem shiftRight_eq_ofNat (x : Word) (n : Nat) : x >>> n = BitVec.ofNat 64 (x.toNat / 2 ^ n) := by
  rw [← Nat.shiftRight_eq_div_pow, ← BitVec.toNat_ushiftRight, BitVec.ofNat_toNat, BitVec.setWidth_eq]

theorem sshiftRight_eq_fdiv (x : Word) (n : Nat) : x.sshiftRight n = BitVec.ofInt 64 (x.toInt.fdiv (2 ^ n)) := by
  rw [Int.fdiv_eq_ediv_of_nonneg _ (by positivity), BitVec.sshiftRight, Int.shiftRight_eq_div_pow, Int.natCast_pow]
  rfl

theorem rotateLeft_eq_or (x : Word) {n : Nat} (hn : n < 64) : x.rotateLeft n = (x <<< n) ||| (x >>> (64 - n)) := by
  rw [BitVec.rotateLeft_eq_rotateLeftAux_of_lt hn]
  rfl

/-! ## Counts, minima and maxima (R226) -/

/-- The count of one bits goes through the bits from the lowest on. -/
theorem popc_eq_countP (n x : Nat) : popc n x = (List.range n).countP fun i => x.testBit i := by
  induction n generalizing x with
  | zero => rfl
  | succ n ih =>
    have hlow : x % 2 = if x.testBit 0 then 1 else 0 := by
      rw [Nat.testBit_zero]
      rcases Nat.mod_two_eq_zero_or_one x with h | h <;> simp [h]
    have hrest : ((fun i => x.testBit i) ∘ Nat.succ) = fun i => (x / 2).testBit i := funext fun i => Nat.testBit_succ x i
    rw [popc, ih, List.range_succ_eq_map, List.countP_cons, List.countP_map, hrest, hlow, Nat.add_comm]

theorem ofInt_min (x y : Word) : (if x.toInt ≤ y.toInt then x else y) = BitVec.ofInt 64 (min x.toInt y.toInt) := by
  rw [min_def, apply_ite (BitVec.ofInt 64), BitVec.ofInt_toInt, BitVec.ofInt_toInt]

theorem ofInt_max (x y : Word) : (if x.toInt ≤ y.toInt then y else x) = BitVec.ofInt 64 (max x.toInt y.toInt) := by
  rw [max_def, apply_ite (BitVec.ofInt 64), BitVec.ofInt_toInt, BitVec.ofInt_toInt]

theorem ofNat_min (x y : Word) : (if x.toNat ≤ y.toNat then x else y) = BitVec.ofNat 64 (min x.toNat y.toNat) := by
  rw [min_def, apply_ite (BitVec.ofNat 64), BitVec.ofNat_toNat, BitVec.ofNat_toNat, BitVec.setWidth_eq, BitVec.setWidth_eq]

theorem ofNat_max (x y : Word) : (if x.toNat ≤ y.toNat then y else x) = BitVec.ofNat 64 (max x.toNat y.toNat) := by
  rw [max_def, apply_ite (BitVec.ofNat 64), BitVec.ofNat_toNat, BitVec.ofNat_toNat, BitVec.setWidth_eq, BitVec.setWidth_eq]

/-- Settles O1: the word's function is the table's, lemma by lemma; SEL reads a predicate, and so has a meaning of its own. -/
theorem scalarIntegerWords : Obligations.ScalarIntegerWords := by
  unfold Obligations.ScalarIntegerWords
  intro h d a b
  refine ⟨?add, ?sub, fun imm => ?addi, ?mul, ?mulh, ?mulhu, ?and, ?or, ?xor, ?andn, ?shl, ?shr, ?sra, ?rot, ?clz, ?ctz, ?popc,
    ?min, ?max, ?minu, ?maxu, fun q => ?sel, ?mov⟩
  case add => exact runs_scalar2 (exec_add h d a b) add_eq_ofNat
  case sub => exact runs_scalar2 (exec_sub h d a b) sub_eq_ofInt
  case addi => exact runs_scalar1 (exec_addi h d a imm) fun x => add_sx_eq_ofInt x imm
  case mul => exact runs_scalar2 (exec_mul h d a b) mul_eq_ofNat
  case mulh => exact runs_scalar2 (exec_mulh h d a b) mulHigh_eq_fdiv
  case mulhu => exact runs_scalar2 (exec_mulhu h d a b) fun _ _ => rfl
  case and => exact runs_scalar2 (exec_and h d a b) fun _ _ => rfl
  case or => exact runs_scalar2 (exec_or h d a b) fun _ _ => rfl
  case xor => exact runs_scalar2 (exec_xor h d a b) fun _ _ => rfl
  case andn => exact runs_scalar2 (exec_andn h d a b) fun _ _ => rfl
  case shl => exact runs_scalar2 (exec_shl h d a b) fun x y => shiftLeft_eq_ofNat x (shiftOf y)
  case shr => exact runs_scalar2 (exec_shr h d a b) fun x y => shiftRight_eq_ofNat x (shiftOf y)
  case sra => exact runs_scalar2 (exec_sra h d a b) fun x y => sshiftRight_eq_fdiv x (shiftOf y)
  case rot => exact runs_scalar2 (exec_rot h d a b) fun x y => rotateLeft_eq_or x (Nat.mod_lt y.toNat (by decide))
  case clz => exact runs_scalar1 (exec_clz h d a) fun _ => rfl
  case ctz => exact runs_scalar1 (exec_ctz h d a) fun _ => rfl
  case popc => exact runs_scalar1 (exec_popc h d a) fun x => congrArg (BitVec.ofNat 64) (popc_eq_countP 64 x.toNat)
  case min => exact runs_scalar2 (exec_min h d a b) ofInt_min
  case max => exact runs_scalar2 (exec_max h d a b) ofInt_max
  case minu => exact runs_scalar2 (exec_minu h d a b) ofNat_min
  case maxu => exact runs_scalar2 (exec_maxu h d a b) ofNat_max
  case sel => exact runs_of (exec_sel h d a b q) fun _ _ _ => rfl
  case mov => exact runs_scalar1 (exec_mov h d a) fun _ => rfl

/-! ## Quotients and remainders (R227) -/

/-- The quotient −2^63 / −1 is past the signed range and wraps to −2^63. -/
theorem divS_eq (x y : Word) : divS x y =
    if y = 0 then 0xFFFFFFFFFFFFFFFF
    else if x.toInt = -(2 ^ 63) ∧ y.toInt = -1 then BitVec.ofInt 64 (-(2 ^ 63))
    else BitVec.ofInt 64 (x.toInt.tdiv y.toInt) := by
  unfold divS
  split
  · rfl
  · split
    next hover =>
      rw [hover.1, hover.2]
      rfl
    · rfl

theorem remS_eq (x y : Word) : remS x y =
    if y = 0 then x
    else if x.toInt = -(2 ^ 63) ∧ y.toInt = -1 then 0
    else BitVec.ofInt 64 (x.toInt - y.toInt * x.toInt.tdiv y.toInt) := by
  unfold remS
  split
  · rfl
  · split
    next hover =>
      rw [hover.1, hover.2]
      rfl
    · rfl

theorem remU_eq (x y : Word) : remU x y = if y = 0 then x else BitVec.ofNat 64 (x.toNat - y.toNat * (x.toNat / y.toNat)) := by
  rw [remU, Nat.mod_eq_sub]

/-- Settles O2: the two words of each sign share their cases. -/
theorem divisionCases : Obligations.DivisionCases := by
  unfold Obligations.DivisionCases
  exact fun h d a b => ⟨runs_scalar2 (exec_div h d a b) divS_eq, runs_scalar2 (exec_divu h d a b) fun _ _ => rfl,
    runs_scalar2 (exec_rem h d a b) remS_eq, runs_scalar2 (exec_remu h d a b) remU_eq⟩

/-! ## Bit fields (R229) -/

/-- A number of n bits, sign-extended: its bits move to the top of the word and back. -/
theorem sext_eq (x : Word) {n : Nat} (h1 : 1 ≤ n) (h64 : n ≤ 64) :
    BitVec.ofInt 64 (sint n (x.toNat % 2 ^ n)) = (x <<< (64 - n)).sshiftRight (64 - n) := by
  have hlow : BitVec.ofNat n (x.toNat % 2 ^ n) = x.setWidth n :=
    BitVec.eq_of_toNat_eq (by rw [BitVec.toNat_ofNat, BitVec.toNat_setWidth, Nat.mod_mod])
  have hext : BitVec.ofInt 64 (sint n (x.toNat % 2 ^ n)) = (x.setWidth n).signExtend 64 := by rw [sint, hlow]; rfl
  rw [hext]
  ext i hi
  rw [← BitVec.getLsbD_eq_getElem, ← BitVec.getLsbD_eq_getElem, BitVec.getLsbD_signExtend, BitVec.getLsbD_sshiftRight]
  simp only [BitVec.msb_eq_getLsbD_last, BitVec.getLsbD_shiftLeft, BitVec.getLsbD_setWidth]
  by_cases h : i < n
  · simp [h, hi, show 64 - n + i < 64 by omega]
  · simp [h, hi, show ¬64 - n + i < 64 by omega, show 63 - (64 - n) = n - 1 by omega, show ¬63 < 64 - n by omega, show n - 1 < n by omega]

/-! ### Where the fields lie -/

/-- The instruction that the decoder reads is the one of the row of its opcode, and the fields of the word are those that it encodes to (R183). -/
theorem decodeFields_ok {f : Fields} {i : Instr} {g : Fields → Instr} (hop : findOp f.op.toNat opTable = some g) (h : decodeFields f = .ok i) :
    i = g f ∧ toFields i = some f ∧ i.wf = true := by
  have hrow : g f = i := by
    rw [decodeFields, hop] at h
    dsimp only at h
    split_ifs at h
    exact Except.ok.inj h
  exact ⟨hrow.symm, toFields_wf_of_decodeFields h⟩

/-- Fields that the decoder accepts as no instruction are an undefined encoding. -/
theorem decodeFields_error {f : Fields} (h : ∀ i, decodeFields f ≠ .ok i) : ∃ e, decodeFields f = .error e := by
  cases hd : decodeFields f with
  | error e => exact ⟨e, rfl⟩
  | ok i => exact absurd hd (h i)

/-- The immediate of a bit-field word: the position lies in its low bits and the length above it. -/
theorem bitField_slices {x : BitVec 28} {len : BitVec 7} {pos : BitVec 6} (h : x = 0#15 ++ len ++ pos) :
    x.extractLsb' 0 6 = pos ∧ x.extractLsb' 6 7 = len ∧ x.extractLsb' 13 15 = 0 := by
  subst h
  simp

/-- The immediate of SEXT and ZEXT: the width lies in its low bits. -/
theorem extWidth_slices {x : BitVec 28} {n : BitVec 7} (h : x = 0#21 ++ n) : x.extractLsb' 0 7 = n ∧ x.extractLsb' 7 21 = 0 := by
  subst h
  simp

/-- The immediate of fields that a word of form I28 encodes to. -/
theorem imm28_of_mkImm28 {f : Fields} {h : Hdr} {op : BitVec 10} {d a : BitVec 8} {x : BitVec 28} (e : some (mkImm28 h op d a x) = some f) :
    f.imm28 = x := by
  rw [← Option.some.inj e, mkImm28_imm28]

section
variable {f : Fields} {i : Instr}

/-- What an accepted word of a bit-field opcode says: where the position and the length lie, and that they are in range. -/
theorem decodeFields_bitField {mk : Hdr → BitVec 8 → BitVec 8 → BitVec 6 → BitVec 7 → Instr} {op : BitVec 10}
    (hrow : findOp f.op.toNat opTable = some fun f => mk f.hdr f.d f.a (f.m.extractLsb' 0 6) (f.imm20.extractLsb' 6 7))
    (henc : ∀ h d a pos len, toFields (mk h d a pos len) = some (mkImm28 h op d a (0#15 ++ len ++ pos)))
    (hwf : ∀ h d a pos len, (mk h d a pos len).wf = (h.selectorOk && bitFieldOk pos len)) (h : decodeFields f = .ok i) :
    i = mk f.hdr f.d f.a (f.imm28.extractLsb' 0 6) (f.imm28.extractLsb' 6 7) ∧ f.imm28.extractLsb' 13 15 = 0 ∧
      bitFieldOk (f.imm28.extractLsb' 0 6) (f.imm28.extractLsb' 6 7) = true := by
  obtain ⟨rfl, hf, hok⟩ := decodeFields_ok hrow h
  rw [henc] at hf
  rw [hwf, Bool.and_eq_true] at hok
  obtain ⟨hpos, hlen, hrest⟩ := bitField_slices (imm28_of_mkImm28 hf)
  rw [hpos, hlen]
  exact ⟨rfl, hrest, hok.2⟩

/-- What an accepted word of an extension opcode says: where the width lies, and that it is in range. -/
theorem decodeFields_extWidth {mk : Hdr → BitVec 8 → BitVec 8 → BitVec 7 → Instr} {op : BitVec 10}
    (hrow : findOp f.op.toNat opTable = some fun f => mk f.hdr f.d f.a (f.m.extractLsb' 0 7))
    (henc : ∀ h d a n, toFields (mk h d a n) = some (mkImm28 h op d a (0#21 ++ n)))
    (hwf : ∀ h d a n, (mk h d a n).wf = (h.selectorOk && extWidthOk n)) (h : decodeFields f = .ok i) :
    i = mk f.hdr f.d f.a (f.imm28.extractLsb' 0 7) ∧ f.imm28.extractLsb' 7 21 = 0 ∧ extWidthOk (f.imm28.extractLsb' 0 7) = true := by
  obtain ⟨rfl, hf, hok⟩ := decodeFields_ok hrow h
  rw [henc] at hf
  rw [hwf, Bool.and_eq_true] at hok
  obtain ⟨hn, hrest⟩ := extWidth_slices (imm28_of_mkImm28 hf)
  rw [hn]
  exact ⟨rfl, hrest, hok.2⟩

variable (h : decodeFields f = .ok i)
include h

theorem decodeFields_bfx (hop : f.op = 0x05F) :
    i = .bfx f.hdr f.d f.a (f.imm28.extractLsb' 0 6) (f.imm28.extractLsb' 6 7) ∧ f.imm28.extractLsb' 13 15 = 0 ∧
      bitFieldOk (f.imm28.extractLsb' 0 6) (f.imm28.extractLsb' 6 7) = true :=
  decodeFields_bitField (by rw [hop]; rfl) (fun _ _ _ _ _ => rfl) (fun _ _ _ _ _ => rfl) h

theorem decodeFields_bfi (hop : f.op = 0x060) :
    i = .bfi f.hdr f.d f.a (f.imm28.extractLsb' 0 6) (f.imm28.extractLsb' 6 7) ∧ f.imm28.extractLsb' 13 15 = 0 ∧
      bitFieldOk (f.imm28.extractLsb' 0 6) (f.imm28.extractLsb' 6 7) = true :=
  decodeFields_bitField (by rw [hop]; rfl) (fun _ _ _ _ _ => rfl) (fun _ _ _ _ _ => rfl) h

theorem decodeFields_sext (hop : f.op = 0x061) :
    i = .sext f.hdr f.d f.a (f.imm28.extractLsb' 0 7) ∧ f.imm28.extractLsb' 7 21 = 0 ∧ extWidthOk (f.imm28.extractLsb' 0 7) = true :=
  decodeFields_extWidth (by rw [hop]; rfl) (fun _ _ _ _ => rfl) (fun _ _ _ _ => rfl) h

theorem decodeFields_zext (hop : f.op = 0x062) :
    i = .zext f.hdr f.d f.a (f.imm28.extractLsb' 0 7) ∧ f.imm28.extractLsb' 7 21 = 0 ∧ extWidthOk (f.imm28.extractLsb' 0 7) = true :=
  decodeFields_extWidth (by rw [hop]; rfl) (fun _ _ _ _ => rfl) (fun _ _ _ _ => rfl) h

end

theorem bitFieldOk_bounds {pos : BitVec 6} {len : BitVec 7} (h : bitFieldOk pos len = true) :
    len ≠ 0 ∧ len.toNat ≤ 64 ∧ pos.toNat + len.toNat ≤ 64 := by
  obtain ⟨h1, h64⟩ : 1 ≤ len.toNat ∧ pos.toNat + len.toNat ≤ 64 := by simpa [bitFieldOk] using h
  refine ⟨?_, by omega, h64⟩
  rintro rfl
  simp at h1

theorem extWidthOk_bounds {n : BitVec 7} (h : extWidthOk n = true) : n ≠ 0 ∧ n.toNat ≤ 64 := by
  obtain ⟨h1, h64⟩ : 1 ≤ n.toNat ∧ n.toNat ≤ 64 := by simpa [extWidthOk] using h
  refine ⟨?_, h64⟩
  rintro rfl
  simp at h1

/-- Settles O3: the effects word by word, and the decoder's rows of the four opcodes with the check of their field values. -/
theorem bitFields : Obligations.BitFields := by
  unfold Obligations.BitFields
  refine ⟨fun h d a pos len n => ⟨?bfx, ?bfi, fun h1 h64 => ?sext, ?zext⟩,
    fun f => ⟨fun hop hbad => ?field, fun hop hbad => ?width, fun i hi => ?read⟩⟩
  case bfx => exact runs_scalar1 (exec_bfx h d a pos len) fun _ => rfl
  case bfi => exact runs_of (exec_bfi h d a pos len) fun _ _ _ => rfl
  case sext => exact runs_scalar1 (exec_sext h d a n) fun x => sext_eq x h1 h64
  case zext => exact runs_scalar1 (exec_zext h d a n) fun _ => rfl
  case field =>
    refine decodeFields_error fun i hi => ?_
    have hok : f.imm28.extractLsb' 13 15 = 0 ∧ bitFieldOk (f.imm28.extractLsb' 0 6) (f.imm28.extractLsb' 6 7) = true :=
      hop.elim (fun hop => (decodeFields_bfx hi hop).2) fun hop => (decodeFields_bfi hi hop).2
    obtain ⟨hlen, hmax, hsum⟩ := bitFieldOk_bounds hok.2
    rcases hbad with hrest | hlen0 | hlen64 | hsum64
    · exact hrest hok.1
    · exact hlen hlen0
    · exact absurd hmax (Nat.not_le.mpr hlen64)
    · exact absurd hsum (Nat.not_le.mpr hsum64)
  case width =>
    refine decodeFields_error fun i hi => ?_
    have hok : f.imm28.extractLsb' 7 21 = 0 ∧ extWidthOk (f.imm28.extractLsb' 0 7) = true :=
      hop.elim (fun hop => (decodeFields_sext hi hop).2) fun hop => (decodeFields_zext hi hop).2
    obtain ⟨hn, hmax⟩ := extWidthOk_bounds hok.2
    rcases hbad with hrest | hn0 | hn64
    · exact hrest hok.1
    · exact hn hn0
    · exact absurd hmax (Nat.not_le.mpr hn64)
  case read =>
    exact ⟨fun hop => (decodeFields_bfx hi hop).1, fun hop => (decodeFields_bfi hi hop).1, fun hop => (decodeFields_sext hi hop).1,
      fun hop => (decodeFields_zext hi hop).1⟩

/-! ## Comparisons and constants (R228, R230, R231) -/

/-- A scalar as the number that a comparison reads: unsigned with U, else signed. -/
theorem readInt_word (u : BitVec 1) (x : Word) : readInt 64 (u == 1) x.toNat = if u = 1 then (x.toNat : Int) else x.toInt := by
  simp [readInt]

/-- Settles O4: SCMP and SCMPS share the model's comparison; the immediates lie where the decoder's rows read them. -/
theorem scalarCompareAndConstants : Obligations.ScalarCompareAndConstants := by
  unfold Obligations.ScalarCompareAndConstants
  intro h d a b
  refine ⟨?compare, fun imm => ?li, fun imm => ?lih, fun sh disp => ?agen, fun f i hi => ⟨fun hop => ?_, fun hop => ?_, fun hop => ?_⟩⟩
  case compare =>
    intro q cc u _ holds
    have hcmp : cmpWords cc u = holds := by
      funext x y
      simp only [cmpWords, readInt_word]
      rfl
    exact ⟨runs_of (exec_scmp h q a b cc u) fun _ _ _ => by rw [hcmp],
      runs_scalar2 (exec_scmps h d a b cc u) fun _ _ => by rw [hcmp]⟩
  case li => exact runs_of (exec_li h d imm) fun _ _ _ => rfl
  case lih => exact runs_of (exec_lih h d imm) fun _ _ _ => rfl
  case agen => exact runs_scalar2 (exec_agen h d a b sh disp) fun _ _ => rfl
  all_goals exact (decodeFields_ok (by rw [hop]; rfl) hi).1

end Sys2Proof.Machine

/-! PROOFS. Sequencing words: target slots, the loop counter, repetition buffers, identity, time and marks (R204 to R207, R212, R214). -/

namespace Sys2Proof.Machine

/-- The value of IDS by its selector. -/
theorem identity_eq (s : State) (p k sel : Nat) : s.identity p k sel =
    match sel with
    | 0 => BitVec.ofNat 64 (((s.instOf p).map fun i => i.2.index).getD 0)
    | 1 => BitVec.ofNat 64 (((s.tractOf p).map fun t => t.n).getD 0)
    | 2 => BitVec.ofNat 64 k
    | _ => BitVec.ofNat 64 (s.core p).exch.count := by
  rcases sel with _ | _ | _ | n
  case zero =>
    simp only [State.identity]
    cases s.instOf p <;> rfl
  case succ.zero =>
    simp only [State.identity]
    cases s.tractOf p <;> rfl
  case succ.succ.zero | succ.succ.succ => rfl

/-- Settles O11: each word has the effect of its meaning; IDS answers by its selector, and CLK of a core of no pair reads the timebase. -/
theorem sequencingWords : Obligations.SequencingWords := by
  unfold Obligations.SequencingWords
  intro h d a sL
  refine ⟨?nop, fun t imm => ?tgt, fun t => ?tgts, ?lnk, fun q => ?loop, ?loopSet, fun stride mask => ?repb, fun sel => ?ids, ?clk,
    fun value => ?mark⟩
  case nop => exact runs_of (exec_nop h) fun _ _ _ => rfl
  case tgt => exact runs_of (exec_tgt h t imm) fun _ _ _ => rfl
  case tgts => exact runs_of (exec_tgts h t a) fun _ _ _ => rfl
  case lnk => exact runs_of (exec_lnk h) fun _ _ _ => rfl
  case loop => exact runs_of (exec_loop h q) fun _ _ _ => rfl
  case loopSet => exact runs_of (exec_loopSet h a) fun _ _ _ => rfl
  case repb => exact goesIf_of (exec_repb h a stride mask) rfl fun _ _ _ _ => rfl
  case ids => exact runs_of (exec_ids h d sel) fun p k x => by rw [identity_eq]; rfl
  case clk => exact runsIf_of (exec_clk h d) fun p k x hp => by rw [twinValue_alone hp]; rfl
  case mark => exact runs_of (exec_mark h value) fun _ _ _ => rfl

end Sys2Proof.Machine

/-! PROOFS. Words with a check of their own that the value of an operand decides, on a gang too (R202, R426). -/

namespace Sys2Proof.Machine

/-! ## What an effect on one core leaves of the others -/

/-- Every core but one is as before, but for its hawk, its undo log and the flag that a superstep is not protected. -/
structure State.Beside (p : Nat) (s t : State) : Prop where
  others : ∀ q, q ≠ p → (t.core q).still = (s.core q).still

section
variable {p : Nat} {s t u : State}

theorem State.Beside.trans (a : s.Beside p t) (b : t.Beside p u) : s.Beside p u where
  others q hq := (b.others q hq).trans (a.others q hq)

theorem beside_of_still (h : s.Still t) : s.Beside p t where
  others q _ := h.core q

theorem beside_modCore (s : State) (p : Nat) (f : Core → Core) : s.Beside p (s.modCore p f) where
  others _ hq := congrArg Core.still (core_modCore_other hq)

theorem beside_modStrand (s : State) (p k : Nat) (f : Strand → Strand) : s.Beside p (s.modStrand p k f) := beside_modCore ..

theorem beside_writeRowAs (s : State) (id p r lat : Nat) (m v : Row) : s.Beside p (s.writeRowAs id p r lat m v) := by
  unfold State.writeRowAs
  split
  · exact beside_modCore ..
  · exact beside_modCore ..

theorem beside_putHmask (s : State) (p k w : Nat) (m v : Word) : s.Beside p (s.putHmask p k w m v) := beside_writeRowAs ..

theorem beside_wS (s : State) (p k lat : Nat) (n : BitVec 8) (v : Word) : s.Beside p (s.wS p k lat n v) := beside_writeRowAs ..

end

/-! ## What a word reads of a core as it was -/

/-- The value of a scalar name goes by the rows and the strands of its core. -/
theorem rS_of_still {s t : State} {p : Nat} (h : (t.core p).still = (s.core p).still) (k f : Nat) (n : BitVec 8) : t.rS p k f n = s.rS p k f n := by
  have hrow : ∀ r, t.row p r = s.row p r := fun r => by rw [State.row, State.row, Core.row, Core.row, rows_of_still h]
  have hstrand : ∀ j, t.strand p j = s.strand p j := fun j => by
    rw [State.strand, State.strand, Core.strand, Core.strand, strands_of_still h]
  have hhword : ∀ j i, t.hword p j i = s.hword p j i := fun j i => by simp only [State.hword, State.header, hrow, hstrand]
  unfold State.rS State.sName State.stagger State.inBody State.ract
  simp only [hhword, hrow, hstrand]

/-- What holds of each member in its turn held before the effects, where the effect on one core leaves what decides it of the others. -/
theorem holds_of_each {ok P : Nat → State → Prop} {eff : Nat → State → State} (hok : ∀ p x, ok p x → P p x)
    (heff : ∀ p q x, p ≠ q → P p (eff q x) → P p x) {ms : List Nat} {s : State} (h : Each ok eff ms s) : ∀ p ∈ ms, P p s := by
  induction ms generalizing s with
  | nil => exact fun _ hp => absurd hp List.not_mem_nil
  | cons q r ih =>
    obtain ⟨hq, hr⟩ := h
    intro p hp
    by_cases e : p = q
    · exact e ▸ hok q s hq
    · exact heff p q s e (ih hr p ((List.mem_cons.mp hp).resolve_left e))

/-- What holds after a word has issued on all members held before, where its issue on one strand brings it about for none. -/
theorem holds_of_begun {P : State → Prop} {s : State} {w : WordSpec} (hissued : ∀ q k x, P (x.issued q k w) → P x)
    (h : P (s.begun w)) : P s := by
  unfold State.begun at h
  generalize s.focus.strand = k at h
  generalize s.members s.focus.pcid = ms at h
  induction ms generalizing s with
  | nil => exact h
  | cons q r ih => exact hissued q k s (ih h)

/-! ## A word's own check -/

/-- A check of a word's own has no part in its issue. -/
theorem issued_pre (s : State) (p k : Nat) (w : WordSpec) (f : Nat → Nat → State → Verdict) :
    s.issued p k { w with pre := f } = s.issued p k w := by
  unfold State.issued
  rfl

theorem begun_pre (s : State) (w : WordSpec) (f : Nat → Nat → State → Verdict) : s.begun { w with pre := f } = s.begun w := by
  simp only [State.begun, issued_pre]

theorem ran_pre (s : State) (h : Hdr) (w : WordSpec) (f : Nat → Nat → State → Verdict) (eff : Nat → Nat → State → State) :
    s.ran h { w with pre := f } eff = s.ran h w eff := by
  rw [State.ran, State.ran, State.went, State.went, begun_pre]
  rfl

/-- A source that a passed check lets the word read is read by a check of the word's own. -/
theorem readFirst_of_check {s : State} {p k : Nat} {h : Hdr} {w : WordSpec} {o : Opnd} {f pre : Nat → Nat → State → Verdict}
    (c : s.check p k h w = .go) (ho : o ∈ w.ops) (hsrc : o.src = true) (hdst : o.dst = false) (hpre : pre p k s = .go) :
    readFirst o f pre p k s = f p k s := by
  obtain ⟨hin, hheld, hgood⟩ := check_op c ho
  have hfree : s.opHeld p k false o = false := by simpa [State.opHeld, hsrc, hdst] using hheld
  simp [readFirst, hpre, hin, hgood hsrc, hfree]

section
variable {i : Instr} {h : Hdr} {w : WordSpec} {f : Nat → Nat → State → Verdict} {body : Body} {ok : Nat → Nat → State → Prop}

/-- A word whose own check finds nothing where the condition of its effect holds. -/
theorem runsIf_checked {eff : Nat → Nat → State → State} {P : Nat → Nat → State → Prop}
    (he : ∀ s, exec i s = runWord h { w with pre := f } body s) (hw : w.gated = false)
    (hb : ∀ p k x, ok p k x → body p k x = .done (eff p k x)) (hok : ∀ p k x, ok p k x → P p k x)
    (hbeside : ∀ p k x, State.Beside p x (eff p k x)) (hstill : ∀ p k s t, (t.core p).still = (s.core p).still → P p k t → P p k s)
    (hissued : ∀ p k q j s, P p k (s.issued q j w) → P p k s)
    (hpre : ∀ p k s, s.check p k h w = .go → P p k s → f p k s = .go) : RunsIf i h w ok eff := by
  intro s a
  have hacts : ∀ p x, w.off h p s.focus.strand x = false := fun p x => by simp [WordSpec.off, hw]
  have hon : ∀ q x, w.on h eff s.focus.strand q x = eff q s.focus.strand x := fun q x => by simp [WordSpec.on, hacts]
  have hbegun : ∀ p ∈ s.members s.focus.pcid, P p s.focus.strand (s.begun w) :=
    holds_of_each (fun p x hx => hok p _ x (hx (hacts p x)))
      (fun p q x hpq hx => hstill p _ x _ ((hbeside q _ x).others p hpq) (hon q x ▸ hx)) a.2
  have hclear : Clear h { w with pre := f } s := clear_pre a.1 fun p hp =>
    hpre p _ s (checkAll_go.mp a.1.2 p hp) (holds_of_begun (fun q j x => hissued p _ q j x) (hbegun p hp))
  have hable : Able h { w with pre := f } ok eff s := ⟨hclear, (begun_pre s w f).symm ▸ a.2⟩
  exact (runsIf_of he hb s hable).trans (congrArg _ (ran_pre s h w f eff))

/-- A word whose own check finds its trap. -/
theorem trapsIf_checked {t : Nat → Nat → State → Trap} (he : ∀ s, exec i s = runWord h { w with pre := f } body s)
    (hpre : ∀ p k s, s.check p k h w = .go → ok p k (s.issued p k w) → f p k s = .trap (t p k (s.issued p k w))) : TrapsIf i h w ok t := by
  rintro s ⟨hgang, hclear, -⟩ hok hheld
  have hms := members_alone hgang
  rw [begun_alone hgang] at hok hheld ⊢
  have hcheck : s.check s.focus.pcid s.focus.strand h w = .go := checkAll_go.mp hclear.2 _ (by simp [hms])
  have htrap := check_pre_trap hcheck (hpre _ _ s hcheck hok)
  have hall : s.checkAll s.focus.strand h { w with pre := f } (s.members s.focus.pcid) =
      .trap (t s.focus.pcid s.focus.strand (s.issued s.focus.pcid s.focus.strand w)) := by
    simp only [hms, State.checkAll, htrap]
  rw [he, runWord_trap hall, hms, State.trapWord_taken hheld]

end

/-- The issue of a word leaves the word in execution. -/
theorem wordTrap_issued (s : State) (p k : Nat) (w : WordSpec) (n : Nat) : (s.issued p k w).wordTrap n = s.wordTrap n := by
  have hfocus : (s.issued p k w).focus = s.focus := (congrArg State.focus (begun_issued s p k w).outside :)
  rw [State.wordTrap, State.wordTrap, hfocus]

/-! ## TDEL (R220) -/

/-- TDEL's own check goes by the bits of S[A] that the delegation word does not have. -/
theorem tdelTrap_of_check {s : State} {p k : Nat} {h : Hdr} {w : WordSpec} {a : BitVec 8} (c : s.check p k h w = .go) (ha : aS a ∈ w.ops) :
    tdelTrap a p k s = trapWhen (decide (fieldNat (s.rS p k 1 a) 61 3 ≠ 0)) (s.wordTrap 3) :=
  readFirst_of_check c ha rfl rfl rfl

/-- The effect of TDEL: S[D] takes the old delegation word and S[A] replaces it, but for INH and the low bits (R220). -/
def tdelEffect (d a : BitVec 8) (p k : Nat) (x : State) : State :=
  (x.putHmask p k 7 (~~~0 ^^^ bitMask 60 1)
    (setBits (setBits (x.rS p k 1 a) 0 3 0) 60 1 (fieldNat (x.hword p k 7) 60 1))).wS p k 1 d (x.hword p k 7)

theorem tdel_runs (h : Hdr) (d a : BitVec 8) :
    RunsIf (.tdel h d a) h { specX [dS d, aS a] 1 with usesHeader := true, hw := [7] } (fun p k x => fieldNat (x.rS p k 1 a) 61 3 = 0)
      (tdelEffect d a) := by
  refine runsIf_checked (exec_tdel h d a) rfl (fun p k x ok => if_neg (not_not.mpr ok)) (fun _ _ _ => id) (fun p k x => ?_)
    (fun p k s t hst ht => ?_) (fun p k q j s hs => ?_) fun p k s c hs => ?_
  · unfold tdelEffect
    exact (beside_putHmask ..).trans (beside_wS ..)
  · rwa [rS_of_still hst] at ht
  · rwa [issued_rS] at hs
  · rw [tdelTrap_of_check c (List.mem_cons_of_mem _ List.mem_cons_self), decide_eq_false (not_not.mpr hs)]
    rfl

theorem tdel_traps (h : Hdr) (d a : BitVec 8) :
    TrapsIf (.tdel h d a) h { specX [dS d, aS a] 1 with usesHeader := true, hw := [7] } (fun p k x => fieldNat (x.rS p k 1 a) 61 3 ≠ 0)
      (fun _ _ x => x.wordTrap 3) := by
  refine trapsIf_checked (exec_tdel h d a) fun p k s c ok => ?_
  rw [issued_rS] at ok
  rw [tdelTrap_of_check c (List.mem_cons_of_mem _ List.mem_cons_self), decide_eq_true ok, wordTrap_issued]
  rfl

end Sys2Proof.Machine

/-! PROOFS. Helper, window and envelope words (R201, R208 to R211, R216 to R218, R220, R222, R425). -/

namespace Sys2Proof.Machine

/-- Settles O12: each clause names the branch of the word's meaning that its condition picks; TDEL's own check finds its trap. -/
theorem helperAndWindowWords : Obligations.HelperAndWindowWords := by
  unfold Obligations.HelperAndWindowWords
  intro h d a one open' refused
  refine ⟨?start, ?hkill, ?win, ?wins, ?wswap, ?wrd, ⟨tdel_runs h d a, tdel_traps h d a⟩, ?env⟩
  case start =>
    intro hn code
    refine ⟨runsIf_of (exec_start h a hn) fun p k x ok => ?starts, fun n hn0 => trapsIf_of (exec_start h a hn) fun p k x ok => ?refused⟩
    case starts =>
      obtain ⟨hcode, hdone⟩ := ok
      exact (if_neg (not_not.mpr hcode)).trans (if_neg (by simp [hdone]))
    case refused =>
      obtain rfl := ok
      exact if_pos hn0
  case hkill => exact runs_of (exec_hkill h a) fun _ _ _ => rfl
  case win =>
    intro len out
    refine ⟨runsIf_of (exec_win h a) fun p k x ok => ?installs, trapsIf_of (exec_win h a) fun p k x ok => ?long,
      trapsIf_of (exec_win h a) fun p k x ok => ?outside⟩
    case installs => exact (if_neg (Nat.not_lt.mpr ok.1)).trans (if_neg (Bool.eq_false_iff.mp ok.2))
    case long => exact if_pos ok
    case outside => exact (if_neg (Nat.not_lt.mpr ok.1)).trans (if_pos ok.2)
  case wins =>
    intro delta limit nb len
    refine ⟨runsIf_of (exec_wins h delta limit) fun p k x ok => ?moves, trapsIf_of (exec_wins h delta limit) fun p k x ok => ?long,
      trapsIf_of (exec_wins h delta limit) fun p k x ok => ?outside⟩
    case moves =>
      obtain ⟨hlen, hnb, hin⟩ := ok
      exact (if_neg (Nat.not_lt.mpr hlen)).trans (if_neg (not_or.mpr ⟨Int.not_lt.mpr hnb, Bool.eq_false_iff.mp hin⟩))
    case long => exact if_pos ok
    case outside => exact (if_neg (Nat.not_lt.mpr ok.1)).trans (if_pos ok.2)
  case wswap =>
    intro nb nl
    have hrange : ∀ {p k x}, 1 ≤ nl p k x → nl p k x ≤ 256 → ¬(nl p k x = 0 ∨ 256 < nl p k x) := fun h1 h256 => by omega
    refine ⟨goesIf_of (exec_wswap h a) rfl fun p k x ok => ?swaps, trapsIf_of (exec_wswap h a) fun p k x ok => ?long,
      trapsIf_of (exec_wswap h a) fun p k x ok => ?outside⟩
    case swaps =>
      obtain ⟨h1, h256, hin, hlocked, hroom, hbusy⟩ := ok
      have hfree : ¬((x.core p).locked (x.strand p k).wb ∨ (x.core p).saturated (x.strand p k).wb ∨ (x.core p).busy (nb p k x)) := by
        simp [hlocked, hroom, hbusy]
      exact (if_neg (hrange h1 h256)).trans ((if_neg (Bool.eq_false_iff.mp hin)).trans (if_neg hfree))
    case long => exact if_pos ok
    case outside =>
      obtain ⟨h1, h256, hout⟩ := ok
      exact (if_neg (hrange h1 h256)).trans (if_pos hout)
  case wrd => exact runs_of (exec_wrd h d) fun _ _ _ => rfl
  case env =>
    intro n eb el
    refine ⟨runsIf_of (exec_env h a) fun p k x ok => ?given, fun code hcode => trapsIf_of (exec_env h a) fun p k x ok => ?refused⟩
    case given => exact if_neg (not_not.mpr ok)
    case refused =>
      obtain rfl := ok
      exact if_pos hcode

end Sys2Proof.Machine

/-! PROOFS. TRET, and the words that complete or fail an entry of the snag ring (R221, R223, R430, R435, R436). -/

namespace Sys2Proof.Machine

/-! ## TRET (R221, R430) -/

/-- Of two writes of one key of a map the second stands. -/
theorem put_put {α : Type} (k : Nat) (v w : α) (m : AMap α) : put k w (put k v m) = put k w m := by
  induction m with
  | nil => simp [put]
  | cons e r ih =>
    by_cases hlt : k < e.1
    · simp [put, hlt]
    · by_cases heq : k = e.1
      · simp [put, heq]
      · simp [put, hlt, heq, ih]

theorem modCore_modCore (s : State) (p : Nat) (f g : Core → Core) : (s.modCore p f).modCore p g = s.modCore p fun c => g (f c) := by
  have hcores : ∀ c, (s.modCore p f).setCore p c = s.setCore p c := fun c =>
    congrArg (fun m => { s with cores := m }) (put_put p (f (s.core p)) c s.cores)
  rw [State.modCore, hcores, core_modCore_same]
  rfl

/-- The return from supervisor code: the control strand takes the saved window, and the supervisor code is left (R430). -/
theorem leaveSup_eq (s : State) (p : Nat) (v : Word) : s.leaveSup p v =
    ((s.putHbits p 0 7 60 1 0).modStrand p 0 fun t => { t.takeUp with
      wb := fieldNat t.frame.w0 32 10, wl := fieldNat t.frame.w0 48 9, pc := BitVec.ofNat 64 (fieldNat v 3 54 * 8) }).modCore p fun c =>
        { c with sup := { c.sup with sv := false } } := by
  rw [State.modStrand, modCore_modCore]
  rfl

/-- A strand that runs no handler is where TRET finds its trap (R221). -/
theorem trapIfNone_trap {s : State} {p k : Nat} (h : fieldNat (s.hword p k 7) 60 1 = 0) : trapIfNone p k s = .trap (s.wordTrap 3) := by
  rw [trapIfNone, decide_eq_true h]
  rfl

/-- Settles O13: the two returns by the state of the control strand; the trap is the first cause of the word, and no header delegates it. -/
theorem trapReturn : Obligations.TrapReturn := by
  unfold Obligations.TrapReturn
  intro h a spec sup next
  refine ⟨goesIf_of (exec_tret h a) rfl fun p k x hsup => ?handler, goesIf_of (exec_tret h a) rfl fun p k x hsup => ?supervisor, ?none⟩
  case handler => exact if_neg hsup
  case supervisor => exact (if_pos hsup).trans (congrArg Res.jump (leaveSup_eq x p _))
  case none =>
    intro s p k hgang hhdr hinh
    rw [exec_tret]
    exact runWord_pre_trap hgang hhdr (trapIfNone_trap hinh) rfl

/-! ## The effects of SNAGW and SNAGX stay on their core -/

theorem beside_clearRun (s : State) (p i n : Nat) : s.Beside p (s.clearRun p i n) := by
  unfold State.clearRun
  refine beside_of_still (.foldl (fun x j => ?_) _ s)
  exact (still_logUndo x p (x.ringLoc p (i + j)) 8).trans (.of_cores rfl)

theorem beside_dropSnag (s : State) (p i : Nat) : s.Beside p (s.dropSnag p i) := beside_modCore ..

theorem beside_wakeCmd (s : State) (p slot seq : Nat) (ok : Bool) : s.Beside p (s.wakeCmd p slot seq ok) := beside_modCore ..

theorem beside_wpFlush (s : State) (p id : Nat) : s.Beside p (s.wpFlush p id) := beside_modCore ..

theorem beside_wpReport (s : State) (p : Nat) (o : MemOp) : s.Beside p (s.wpReport p o) := (beside_modCore ..).trans (beside_wpFlush ..)

theorem beside_endLds (s : State) (p : Nat) (o : MemOp) (status : Nat) (v : Word) : s.Beside p (s.endLds p o status v) := beside_modStrand ..

theorem beside_failOp (s : State) (p : Nat) (o : MemOp) (cause : Nat) (addr : Word) : s.Beside p (s.failOp p o cause addr) := by
  unfold State.failOp
  refine State.Beside.trans ?_ (beside_wpFlush ..)
  split
  · exact beside_endLds ..
  · split
    · exact beside_modStrand ..
    · exact beside_modCore ..

theorem beside_failSnag (s : State) (p : Nat) (g : Snag) (cause : Nat) : s.Beside p (s.failSnag p g cause) := by
  unfold State.failSnag
  refine ((beside_clearRun s p g.idx g.len).trans (beside_dropSnag (s.clearRun p g.idx g.len) p g.idx)).trans ?_
  cases g.owner with
  | engine slot seq => exact beside_wakeCmd ..
  | op o => exact beside_failOp ..

theorem beside_completeSnag (s : State) (p : Nat) (g : Snag) (data : Row) : s.Beside p (s.completeSnag p g data) := by
  unfold State.completeSnag
  refine ((beside_clearRun s p g.idx g.len).trans (beside_dropSnag (s.clearRun p g.idx g.len) p g.idx)).trans ?_
  cases g.owner with
  | engine slot seq => exact beside_wakeCmd ..
  | op o =>
    refine State.Beside.trans ?_ ((beside_wpReport ..).trans (beside_endLds ..))
    cases o.row with
    | none => exact beside_of_still (.refl _)
    | some r =>
      dsimp only
      split
      · exact beside_of_still (.refl _)
      · exact beside_writeRowAs ..

/-! ## The run that a word names (R223, R435) -/

/-- The pending run of ring entries that S[A] names. -/
def State.namedSnag (x : State) (a : BitVec 8) (p k : Nat) : Option Snag := (x.core p).snagAt (fieldNat (x.rS p k 1 a) 0 8)

theorem namedSnag_of_still {s t : State} {p : Nat} (h : (t.core p).still = (s.core p).still) (a : BitVec 8) (k : Nat) :
    t.namedSnag a p k = s.namedSnag a p k := by
  have hsup : (t.core p).sup = (s.core p).sup := (congrArg Core.sup h :)
  rw [State.namedSnag, State.namedSnag, rS_of_still h, Core.snagAt, Core.snagAt, hsup]

theorem namedSnag_issued (s : State) (q j : Nat) (w : WordSpec) (a : BitVec 8) (p k : Nat) :
    (s.issued q j w).namedSnag a p k = s.namedSnag a p k := by
  obtain ⟨-, -, -, -, hsup, -⟩ := issued_core s q j p w
  rw [State.namedSnag, State.namedSnag, issued_rS, Core.snagAt, Core.snagAt, hsup]

theorem snagTrap_of_check {s : State} {p k : Nat} {h : Hdr} {w : WordSpec} {a : BitVec 8} (c : s.check p k h w = .go) (ha : aS a ∈ w.ops)
    (hpre : w.pre = controlOnly) : snagTrap a p k s = trapWhen (s.namedSnag a p k).isNone (s.wordTrap 3) :=
  readFirst_of_check c ha rfl rfl (hpre ▸ pre_of_check c)

section
variable {i : Instr} {h : Hdr} {a : BitVec 8} {ops : List Opnd} {body : Body} {ok : Nat → Nat → State → Prop}
  (he : ∀ s, exec i s = runWord h { specX ops 1 with pre := snagTrap a } body s) (ha : aS a ∈ ops)
include he ha

/-- A word on a pending run acts where there is one and its own condition holds. -/
theorem runsIf_snag {eff : Nat → Nat → State → State} (hb : ∀ p k x, ok p k x → body p k x = .done (eff p k x))
    (hok : ∀ p k x, ok p k x → (x.namedSnag a p k).isSome) (hbeside : ∀ p k x, State.Beside p x (eff p k x)) :
    RunsIf i h { specX ops 1 with pre := controlOnly } ok eff := by
  refine runsIf_checked he rfl hb hok hbeside (fun p k s t hst ht => ?_) (fun p k q j s hs => ?_) fun p k s c hs => ?_
  · exact namedSnag_of_still hst a k ▸ ht
  · exact namedSnag_issued s q j _ a p k ▸ hs
  · rw [snagTrap_of_check c ha rfl, Option.isNone_eq_false_iff.mpr hs]
    rfl

/-- A word on a pending run traps where there is none. -/
theorem trapsIf_snag : TrapsIf i h { specX ops 1 with pre := controlOnly } (fun p k x => x.namedSnag a p k = none)
    (fun _ _ x => x.wordTrap 3) := by
  refine trapsIf_checked he fun p k s c ok => ?_
  rw [namedSnag_issued] at ok
  rw [snagTrap_of_check c ha rfl, ok, wordTrap_issued]
  rfl

end

/-- Settles O14: a word on a pending run acts on it where its own condition holds, and traps where there is none. -/
theorem snagWords : Obligations.SnagWords := by
  unfold Obligations.SnagWords
  intro h a b i sw sx writes
  refine ⟨fun g => ?noWrite, fun g r => ?writes, fun g => ?fails, ?noneW, ?noneX⟩
  case noWrite =>
    refine runsIf_snag (exec_snagw h a b) List.mem_cons_self (fun p k x ⟨hg, hrow⟩ => ?_) (fun p k x ⟨hg, _⟩ => Option.isSome_of_mem hg)
      fun p _ x => beside_completeSnag x p g 0
    simp only [i] at hg
    simp only [writes] at hrow
    simp only [hg, hrow]
  case writes =>
    refine runsIf_snag (exec_snagw h a b) List.mem_cons_self (fun p k x ⟨hg, hrow, hread, hfree⟩ => ?_)
      (fun p k x ⟨hg, _⟩ => Option.isSome_of_mem hg) fun p k x => beside_completeSnag x p g (x.rV p k 2 b)
    simp only [i] at hg
    simp only [writes] at hrow
    simp only [hg, hrow, hread, hfree]
    rfl
  case fails =>
    refine runsIf_snag (exec_snagx h a b) List.mem_cons_self (fun p k x hg => ?_) (fun p k x hg => Option.isSome_of_mem hg)
      fun p k x => beside_failSnag x p g (fieldNat (x.rS p k 2 b) 0 8)
    simp only [i] at hg
    simp only [hg]
  case noneW => exact trapsIf_snag (exec_snagw h a b) List.mem_cons_self
  case noneX => exact trapsIf_snag (exec_snagx h a b) List.mem_cons_self

end Sys2Proof.Machine

/-! PROOFS. Vector integer words (R143, R237, R241). -/

namespace Sys2Proof.Machine

/-! ## Numbers of w bits (R143) -/

theorem wrapInt_mod (w : Nat) (x : Int) : wrapInt w x % 2 ^ w = wrapInt w x := Nat.mod_eq_of_lt (BitVec.isLt _)

/-- A natural number wraps to its remainder. -/
theorem wrapInt_natCast (w x : Nat) : wrapInt w x = x % 2 ^ w := by
  rw [wrapInt, BitVec.ofInt_natCast, BitVec.toNat_ofNat]

/-- A difference that wraps is taken from 2^w more, so that no borrow is left. -/
theorem wrapInt_sub {w x y : Nat} (hy : y ≤ 2 ^ w) : wrapInt w ((x : Int) - y) = (x + 2 ^ w - y) % 2 ^ w := by
  have hborrow : ((x + 2 ^ w - y : Nat) : Int) = (x : Int) - y + (2 ^ w : Nat) := by omega
  rw [← wrapInt_natCast, hborrow, wrapInt, wrapInt, BitVec.toNat_ofInt, BitVec.toNat_ofInt, Int.add_emod_right]

/-- A number of `w` bits that is read as signed or as unsigned wraps to itself. -/
theorem wrapInt_readInt {w x : Nat} (hx : x < 2 ^ w) (u : Bool) : wrapInt w (readInt w u x) = x := by
  cases u with
  | true => exact (wrapInt_natCast w x).trans (Nat.mod_eq_of_lt hx)
  | false =>
    rw [wrapInt, readInt, if_neg Bool.false_ne_true, BitVec.ofInt_toInt, BitVec.toNat_ofNat, Nat.mod_eq_of_lt hx]

section
variable {w x y : Nat} (hx : x < 2 ^ w) (hy : y < 2 ^ w) (u : Bool)
include hx hy

theorem wrapInt_min : wrapInt w (min (readInt w u x) (readInt w u y)) = if readInt w u x ≤ readInt w u y then x else y := by
  rw [min_def, apply_ite (wrapInt w), wrapInt_readInt hx, wrapInt_readInt hy]

theorem wrapInt_max : wrapInt w (max (readInt w u x) (readInt w u y)) = if readInt w u x ≤ readInt w u y then y else x := by
  rw [max_def, apply_ite (wrapInt w), wrapInt_readInt hx, wrapInt_readInt hy]

end

/-- The byte products of VDOT4, one by one. -/
theorem dot4_eq (fl : BitVec 2) (x y : Nat) : dot4 fl x y =
    readInt 8 (fl.getLsbD 0) (x % 256) * readInt 8 (fl.getLsbD 1) (y % 256) +
      readInt 8 (fl.getLsbD 0) (x / 2 ^ 8 % 256) * readInt 8 (fl.getLsbD 1) (y / 2 ^ 8 % 256) +
      readInt 8 (fl.getLsbD 0) (x / 2 ^ 16 % 256) * readInt 8 (fl.getLsbD 1) (y / 2 ^ 16 % 256) +
      readInt 8 (fl.getLsbD 0) (x / 2 ^ 24 % 256) * readInt 8 (fl.getLsbD 1) (y / 2 ^ 24 % 256) := by
  simp [dot4, List.range_succ, add_assoc]

/-! ## The words (R241) -/

/-- A one-operand vector word whose lane function is the one stated. -/
theorem runs_lanesA {i : Instr} {h : Hdr} {lat occ w : Nat} {d a : BitVec 8} {m : BitVec 12} {f : Nat → Nat}
    (he : ∀ s, exec i s = vec1 h lat occ w d a m f s) : Runs i h { specV [dV d, aV a] lat with occ := occ } (lanesA h lat w d a m f) :=
  runs_vec1 he fun _ _ => rfl

/-- A two-operand vector word whose lane function is the one stated. -/
theorem runs_lanesAB {i : Instr} {h : Hdr} {lat occ w : Nat} {d a b : BitVec 8} {m : BitVec 12} {f : Nat → Nat → Nat}
    (he : ∀ s, exec i s = vec2 h lat occ w d a b m f s) :
    Runs i h { specV [dV d, aV a, bV b] lat with occ := occ } (lanesAB h lat w d a b m f) :=
  runs_vec2 he fun _ _ _ _ => rfl

/-- A three-operand vector word whose lane function is the one stated. -/
theorem runs_lanesABC {i : Instr} {h : Hdr} {lat occ w : Nat} {d a b c : BitVec 8} {f : Nat → Nat → Nat → Nat}
    (he : ∀ s, exec i s = vec3 h lat occ w d a b c f s) :
    Runs i h { specV [dV d, aV a, bV b, cV c] lat with occ := occ } (lanesABC h lat w d a b c f) :=
  runs_vec3 he fun _ _ _ _ _ _ => rfl

/-- Settles O6: each word is one function of its lanes, which counts modulo 2^w only; VSEL and VCMP read and write predicates. -/
theorem vectorIntegerWords : Obligations.VectorIntegerWords := by
  unfold Obligations.VectorIntegerWords
  intro h d a b c ty u m w lat occ rd two one
  refine ⟨?vadd, ?vsub, ?vmul, ?vmulh, ?vmad, ?vand, ?vor, ?vxor, ?vshl, ?vshr, ?vsra, ?vmin, ?vmax, ?vabs, ?vadds, ?vsubs,
    fun fl => ?vdot4, ?vpopc, ?vclz, ?vmov, fun q => ?vsel, fun q cc => ?vcmp⟩
  case vadd => exact runs_vec2 (exec_vadd h d a b ty m) fun x _ y _ => by rw [Nat.mod_mod]
  case vsub => exact runs_vec2 (exec_vsub h d a b ty m) fun x _ y hy => by rw [wrapInt_mod, wrapInt_sub hy.le]
  case vmul => exact runs_vec2 (exec_vmul h d a b ty m) fun x _ y _ => by rw [Nat.mod_mod]
  case vmulh => exact runs_lanesAB (exec_vmulh h d a b ty u m)
  case vmad => exact runs_vec3 (exec_vmad h d a b c ty) fun x _ y _ z _ => by rw [Nat.mod_mod]
  case vand => exact runs_lanesAB (exec_vand h d a b ty m)
  case vor => exact runs_lanesAB (exec_vor h d a b ty m)
  case vxor => exact runs_lanesAB (exec_vxor h d a b ty m)
  case vshl => exact runs_vec2 (exec_vshl h d a b ty m) fun x _ y _ => by rw [Nat.mod_mod]
  case vshr => exact runs_lanesAB (exec_vshr h d a b ty m)
  case vsra => exact runs_lanesAB (exec_vsra h d a b ty m)
  case vmin =>
    exact runs_vec2 (f := fun x y => if rd x ≤ rd y then x else y) (exec_vmin h d a b ty u m)
      fun x hx y hy => congrArg (· % 2 ^ w) (wrapInt_min hx hy (u == 1)).symm
  case vmax =>
    exact runs_vec2 (f := fun x y => if rd x ≤ rd y then y else x) (exec_vmax h d a b ty u m)
      fun x hx y hy => congrArg (· % 2 ^ w) (wrapInt_max hx hy (u == 1)).symm
  case vabs => exact runs_vec1 (exec_vabs h d a ty m) fun x _ => by rw [Nat.mod_mod]
  case vadds => exact runs_lanesAB (exec_vadds h d a b ty u m)
  case vsubs => exact runs_lanesAB (exec_vsubs h d a b ty u m)
  case vdot4 => exact runs_vec3 (exec_vdot4 h d a b c fl) fun x _ y _ z _ => by rw [dot4_eq]
  case vpopc => exact runs_lanesA (exec_vpopc h d a ty m)
  case vclz => exact runs_lanesA (exec_vclz h d a ty m)
  case vmov => exact runs_lanesA (exec_vmov h d a ty m)
  case vsel => exact runs_of (exec_vsel h d a b q ty) fun _ _ _ => rfl
  case vcmp => exact runs_vecCmp (exec_vcmp h q a b ty cc u m)

end Sys2Proof.Machine

/-! PROOFS. Vector floating-point words (R237, R242 to R247). -/

namespace Sys2Proof.Machine

/-- The operation of VFRED at each code of F1:F0 (R246). -/
theorem redOp_eq (f : Fmt) (fl : BitVec 2) (rm : BitVec 3) : redOp f fl.toNat rm.toNat =
    if fl = 0 then fun x y => roundTo f rm.toNat ((fpVal f x).add (rm = 3) (fpVal f y)) else fpMinMax f (decide (fl ≠ 1)) := by
  have hdown : decide (rm.toNat = 3) = decide (rm = 3) := decide_eq_decide.mpr (BitVec.toNat_inj (y := (3 : BitVec 3)))
  obtain rfl | rfl | rfl | rfl := two_bits fl
  · funext x y
    simp only [redOp, hdown]
    rfl
  all_goals rfl

/-- Settles O7: each word is one function of its lanes' values, VFCVT and VFRED one for each value of F1:F0. -/
theorem vectorFloatWords : Obligations.VectorFloatWords := by
  unfold Obligations.VectorFloatWords
  intro h d a b c ty rm m f rnd at64 two one three fn
  refine ⟨?vfadd, ?vfsub, ?vfmul, ?vfma, ?vfms, ?vfnma, ?vfdiv, ?vfsqrt, ?vfrec, ?vfrsq, ?vfexp2, ?vflog2, ?vfmin, ?vfmax,
    fun q cc => ?vfcmp, ?vfclass, fun fl => ?vfcvt, fun fl => ?vfwiden, fun fl => ?vfred, ?vfamax⟩
  case vfadd => exact runs_lanesAB (exec_vfadd h d a b ty rm m)
  case vfsub => exact runs_lanesAB (exec_vfsub h d a b ty rm m)
  case vfmul => exact runs_lanesAB (exec_vfmul h d a b ty rm m)
  case vfma => exact runs_lanesABC (exec_vfma h d a b c ty rm)
  case vfms => exact runs_lanesABC (exec_vfms h d a b c ty rm)
  case vfnma => exact runs_lanesABC (exec_vfnma h d a b c ty rm)
  case vfdiv => exact runs_lanesAB (exec_vfdiv h d a b ty rm m)
  case vfsqrt => exact runs_lanesA (exec_vfsqrt h d a ty rm m)
  case vfrec => exact runs_lanesA (exec_vfrec h d a rm m)
  case vfrsq => exact runs_lanesA (exec_vfrsq h d a rm m)
  case vfexp2 => exact runs_lanesA (exec_vfexp2 h d a rm m)
  case vflog2 => exact runs_lanesA (exec_vflog2 h d a rm m)
  case vfmin => exact runs_lanesAB (exec_vfmin h d a b ty m)
  case vfmax => exact runs_lanesAB (exec_vfmax h d a b ty m)
  case vfcmp => exact runs_vecCmp (exec_vfcmp h q a b ty cc m)
  case vfclass => exact runs_lanesA (exec_vfclass h d a ty m)
  case vfcvt => obtain rfl | rfl | rfl | rfl := two_bits fl <;> exact runs_lanesA (exec_vfcvt h d a ty rm _ m)
  case vfwiden => obtain rfl | rfl | rfl | rfl := two_bits fl <;> exact runs_of (exec_vfwiden h d a b ty _ m) fun _ _ _ => rfl
  case vfred =>
    refine runs_of (exec_vfred h d a ty rm fl m) fun p k x => ?_
    rw [redOp_eq]
    rfl
  case vfamax =>
    intro s hclear
    rw [exec_vfamax, execVfamax]
    simp only [decide_eq_true_eq]
    exact runWord_ran (fun _ _ _ => rfl) hclear

end Sys2Proof.Machine

/-! PROOFS. Lane words: movements of lanes within a row, to a scalar and from one (R63, R248). -/

namespace Sys2Proof.Machine

/-! ## Lanes of a row -/

/-- A row holds a power of two of lanes at every integer width. -/
theorem laneCount_pow (ty : BitVec 3) : ∃ j < 8, 512 / intW ty = 2 ^ j := by
  revert ty
  decide

theorem laneCount_pos (ty : BitVec 3) : 0 < 512 / intW ty := by
  obtain ⟨j, -, hj⟩ := laneCount_pow ty
  exact hj ▸ Nat.two_pow_pos j

/-- The butterfly of a lane index by another is a lane index. -/
theorem xor_lt_laneCount {ty : BitVec 3} {i j : Nat} (hi : i < 512 / intW ty) (hj : j < 512 / intW ty) : i ^^^ j < 512 / intW ty := by
  obtain ⟨e, -, he⟩ := laneCount_pow ty
  rw [he] at hi hj ⊢
  exact Nat.xor_lt_two_pow hi hj

theorem map_lanesOf (w : Nat) (r : Row) (f : Nat → Nat) :
    (lanesOf w r).map f = (List.range (512 / w)).map fun i => f ((lanesOf w r).getD i 0) := by
  rw [lanesOf, lanes, List.map_map]
  exact List.map_congr_left fun i hi => congrArg f (lanesOf_getD (List.mem_range.mp hi)).symm

/-! ## Selected lanes (R63) -/

theorem mem_selected {w : Nat} {q : BitVec 16} {i : Nat} : i ∈ selected w q ↔ i < 512 / w ∧ laneOn w q i = true := by
  rw [selected, List.mem_filter, List.mem_range]

/-- Of the selected lanes fewer lie before a selected lane than the row holds. -/
theorem selected_before_lt {w : Nat} {q : BitVec 16} {i : Nat} (hi : i ∈ selected w q) :
    ((selected w q).filter (· < i)).length < 512 / w := by
  have hlt : ((selected w q).filter (· < i)).length < (selected w q).length :=
    List.length_filter_lt_length_iff_exists.mpr ⟨i, hi, by simp⟩
  have hle : (selected w q).length ≤ 512 / w := by
    simpa [selected] using List.length_filter_le (laneOn w q) (List.range (512 / w))
  exact hlt.trans_le hle

/-- A selected lane of the row that VXPND makes is the lane of A that its place among the selected lanes names. -/
theorem xpnd_lane (w : Nat) (q : BitVec 16) (r : Row) {i : Nat} (hi : i < 512 / w) :
    (if (selected w q).contains i then fieldNat r (w * ((selected w q).filter (· < i)).length) w else 0) =
      if laneOn w q i then (lanesOf w r).getD ((selected w q).filter (· < i)).length 0 else 0 := by
  by_cases hon : laneOn w q i = true
  · have hsel := mem_selected.mpr ⟨hi, hon⟩
    rw [if_pos hon, if_pos (List.contains_iff_mem.mpr hsel), lanesOf_getD (selected_before_lt hsel)]
  · rw [if_neg hon, if_neg fun hc => hon (mem_selected.mp (List.contains_iff_mem.mp hc)).2]

/-! ## The words -/

section
variable {i : Instr} {h : Hdr} {lat : Nat} {d a b : BitVec 8} {ty : BitVec 3} {m : BitVec 12}

/-- A word that picks, for each lane of its row, a lane of A by an index that S[B] decides. -/
theorem runs_laneMove {pick : Nat → Nat → Nat → Nat} (he : ∀ s, exec i s = laneMove h lat d a b ty m pick s)
    (hpick : ∀ x, ∀ j < 512 / intW ty, pick (512 / intW ty) x j < 512 / intW ty) :
    Runs i h (specV [dV d, aV a, bS b] lat) (intoV h lat (intW ty) d fun p k x => (List.range (512 / intW ty)).map fun j =>
      (lanesOf (intW ty) (modified m 0 (x.rV p k 1 a))).getD (pick (512 / intW ty) (x.rS p k 2 b).toNat j) 0) :=
  runs_of he fun p k x => congrArg (fun l => Res.done (x.putLanes p k lat (intW ty) h d l)) <|
    List.map_congr_left fun j hj => (lanesOf_getD (hpick _ j (List.mem_range.mp hj))).symm

end

/-- Settles O8: every index that a word computes names a lane of the row, so the field that it reads is that lane. -/
theorem laneWords : Obligations.LaneWords := by
  unfold Obligations.LaneWords
  intro h d a b ty q m w n src all picks
  have hpos : 0 < n := laneCount_pos ty
  refine ⟨?vperm, ?vrot, ?vbfly, ?vbcst, ?vcomp, ?vxpnd, ?vsplat, fun u => ?vext, ?vins⟩
  case vperm =>
    refine runs_of (exec_vperm h d a b ty m) fun p k x => congrArg (fun l => Res.done (x.putLanes p k 3 w h d l)) ?_
    rw [map_lanesOf]
    exact List.map_congr_left fun j _ => (lanesOf_getD (Nat.mod_lt _ hpos)).symm
  case vrot => exact runs_laneMove (pick := fun n x i => (i + x) % n) (exec_vrot h d a b ty m) fun _ _ _ => Nat.mod_lt _ hpos
  case vbfly =>
    exact runs_laneMove (pick := fun n x i => i ^^^ (x % n)) (exec_vbfly h d a b ty m)
      fun _ _ hj => xor_lt_laneCount hj (Nat.mod_lt _ hpos)
  case vbcst => exact runs_laneMove (pick := fun n x _ => x % n) (exec_vbcst h d a b ty m) fun _ _ _ => Nat.mod_lt _ hpos
  case vcomp =>
    refine runs_of (exec_vcomp h d a q ty m) fun p k x => congrArg (fun l => Res.done (x.putLanes p k 3 w h d l)) ?_
    exact List.map_congr_left fun j hj => (lanesOf_getD (mem_selected.mp hj).1).symm
  case vxpnd =>
    refine runs_of (exec_vxpnd h d a q ty m) fun p k x => congrArg (fun l => Res.done (x.putLanes p k 3 w h d l)) ?_
    exact List.map_congr_left fun j hj => xpnd_lane w _ _ (List.mem_range.mp hj)
  case vsplat =>
    refine runs_of (exec_vsplat h d a ty) fun p k x => congrArg Res.done ?_
    rw [← List.length_range (n := 512 / w), ← List.map_const']
    exact putLanes_map fun _ _ => (Nat.mod_mod _ _).symm
  case vext =>
    exact runs_of (exec_vext h d a b ty u m) fun p k x => congrArg
      (fun v => Res.done (x.putScalar p k 2 h d (if u = 1 then BitVec.ofInt 64 (sint w v) else BitVec.ofNat 64 v)))
      (lanesOf_getD (Nat.mod_lt _ hpos)).symm
  case vins => exact runs_of (exec_vins h d a b ty) fun _ _ _ => rfl

end Sys2Proof.Machine

/-! PROOFS. Predicate words, and words that read across a gang (R63, R237, R249, R250). -/

namespace Sys2Proof.Machine

/-! ## Counts of predicate bits (R249) -/

/-- The count of trailing zeros is the place of the lowest one bit. -/
theorem ctz_eq_find (n x : Nat) : ctz n x = ((List.range n).find? fun i => x.testBit i).getD n := by
  induction n generalizing x with
  | zero => rfl
  | succ n ih =>
    have hrest : ((fun i => x.testBit i) ∘ Nat.succ) = fun i => (x / 2).testBit i := funext fun i => Nat.testBit_succ x i
    rw [ctz, List.range_succ_eq_map, List.find?_cons, Nat.testBit_zero, List.find?_map, hrest, ih]
    by_cases hlow : x % 2 = 1
    · simp [hlow]
    · cases (List.range n).find? fun i => (x / 2).testBit i <;> simp [hlow, Nat.add_comm]

theorem not_eq_xor (x : BitVec 16) : ~~~x = x ^^^ 0xFFFF := by
  rw [← BitVec.xor_allOnes]
  rfl

/-! ## Predicates across a gang (R250) -/

theorem gangPreds_any (s : State) (k : Nat) (qa : BitVec 3) :
    (s.gangPreds k qa).any (· != 0) = (s.members s.focus.pcid).any fun p => s.pred p k qa.toNat != 0 := List.any_map

theorem gangPreds_all (s : State) (k : Nat) (qa : BitVec 3) :
    (s.gangPreds k qa).all (· != 0) = (s.members s.focus.pcid).all fun p => s.pred p k qa.toNat != 0 := List.all_map

theorem gangPreds_foldl (s : State) (k : Nat) (qa : BitVec 3) (f : BitVec 16 → BitVec 16 → BitVec 16) (v : BitVec 16) :
    (s.gangPreds k qa).foldl f v = (s.members s.focus.pcid).foldl (fun v p => f v (s.pred p k qa.toNat)) v := List.foldl_map

/-- What GLANE writes: the member's index and the size of its gang, which a core that is not fused is alone. -/
theorem glaneValue (s : State) (p : Nat) :
    BitVec.ofNat 64 (p - ((s.core p).gang.getD (1, p)).2 + 256 * ((s.core p).gang.getD (1, p)).1) =
      match (s.core p).gang with
      | some (g, l) => BitVec.ofNat 64 (p - l + 256 * g)
      | none => 256 := by
  cases (s.core p).gang with
  | none => simp
  | some gl => rfl

/-- Settles O9: a word of one core is one function of its predicates; one that reads across a gang has read every member before any writes. -/
theorem predicateAndGangWords : Obligations.PredicateAndGangWords := by
  unfold Obligations.PredicateAndGangWords
  intro h d a q qa qb sQ sR
  refine ⟨?qand, ?qor, ?qxor, ?qnot, ?qpop, ?qfirst, ?qmov, ?qmovX, fun s hclear => ?_⟩
  case qand => exact runs_of (exec_qand h q qa qb) fun _ _ _ => rfl
  case qor => exact runs_of (exec_qor h q qa qb) fun _ _ _ => rfl
  case qxor => exact runs_of (exec_qxor h q qa qb) fun _ _ _ => rfl
  case qnot =>
    exact runs_of (exec_qnot h q qa) fun p k x => congrArg (fun v => Res.done (x.putQ p k h q v)) (not_eq_xor _)
  case qpop =>
    exact runs_of (exec_qpop h d qa) fun p k x => congrArg (fun v => Res.done (x.putScalar p k 1 h d (BitVec.ofNat 64 v)))
      (popc_eq_countP 16 _)
  case qfirst =>
    exact runs_of (exec_qfirst h d qa) fun p k x => congrArg (fun v => Res.done (x.putScalar p k 1 h d (BitVec.ofNat 64 v)))
      (ctz_eq_find 16 _)
  case qmov => exact runs_of (exec_qmov h q a) fun _ _ _ => rfl
  case qmovX =>
    exact runs_of (exec_qmovX h d qa) fun p k x => congrArg (fun v => Res.done (x.putScalar p k 1 h d v)) (BitVec.ofNat_toNat _ _)
  intro k ms some1 all1
  refine ⟨?anySome, ?anyBits, ?allSome, ?allBits, fun hclear => ?gbcast, fun hclear => ?glane⟩
  case anySome =>
    rw [exec_gany, execGany, gangPreds_any]
    exact runWord_ran (fun _ _ _ => rfl) hclear
  case anyBits =>
    rw [exec_gany, execGany, gangPreds_foldl]
    exact runWord_ran (fun _ _ _ => rfl) hclear
  case allSome =>
    rw [exec_gall, execGall, gangPreds_all]
    exact runWord_ran (fun _ _ _ => rfl) hclear
  case allBits =>
    rw [exec_gall, execGall, gangPreds_foldl]
    exact runWord_ran (fun _ _ _ => rfl) hclear
  case gbcast =>
    rw [exec_gbcast]
    exact runWord_ran (fun _ _ _ => rfl) hclear
  case glane =>
    rw [exec_glane]
    exact runWord_ran (fun p k x => congrArg (fun v => Res.done (x.putScalar p k 1 h d v)) (glaneValue x p)) hclear

end Sys2Proof.Machine

/-! PROOFS. MXQ to memory and DTLD, and the load that ends a DTLD (R152, R255, R256, R259, R260). -/

namespace Sys2Proof.Machine

/-! ## A word that issues operations and has an effect beside them -/

theorem issuesAnd_of {i : Instr} {h : Hdr} {w : WordSpec} {body : Body} {ok : Nat → Nat → State → Prop}
    {l : Nat → Nat → State → List MemOp} {after : Nat → Nat → State → State → State} (he : ∀ s, exec i s = runWord h w body s)
    (hb : ∀ p k x, ok p k x → ∀ y, x.issueOps p k (l p k x) = .done y → body p k x = .done (after p k x y))
    (hf : ∀ p k x, ∀ o ∈ l p k x, o.ferd = true → o.kind = .load) : IssuesAnd i h w ok l after :=
  ⟨runsIf_of he fun p k x ⟨hok, hmay⟩ => hb p k x hok _ (issueOps_done hmay),
    fun s _ _ _ p _ o ho => lands_of (hf p s.focus.strand _ o ho)⟩

/-! ## The decode table of a core (R152, R256) -/

/-- What a core holds of its decode table: the image that is being loaded, the table, and what it is valid for. -/
def Core.decoder (c : Core) : Option TableLoad × List (BitVec 19) × Bool × Bool := (c.loading, c.table, c.v8, c.v4)

theorem decoder_eq_iff {c : Core} {load : Option TableLoad} {tb : List (BitVec 19)} {b8 b4 : Bool} :
    c.decoder = (load, tb, b8, b4) ↔ c.loading = load ∧ c.table = tb ∧ c.v8 = b8 ∧ c.v4 = b4 := by
  simp only [Core.decoder, Prod.mk.injEq]

section
variable {c : Core} {o : MemOp} {v : Nat} {t : TableLoad} (hload : c.loading = some t)
include hload

/-- A word of an image that is not its last joins the words loaded. -/
theorem decoder_loadTable_partial (hmore : (put o.elem (BitVec.ofNat 64 v) t.words).length < 128) :
    (c.loadTable o v).decoder = (some { t with words := put o.elem (BitVec.ofNat 64 v) t.words }, c.table, c.v8, c.v4) := by
  unfold Core.loadTable
  simp only [hload, if_pos hmore]
  rfl

/-- The last word of an image changes the table. -/
theorem decoder_loadTable_last (hlast : 128 ≤ (put o.elem (BitVec.ofNat 64 v) t.words).length) :
    let tb := tableOfImage ((put o.elem (BitVec.ofNat 64 v) t.words).flatMap fun w => natBytes 8 w.2.toNat)
    (c.loadTable o v).decoder = (none, tb, tableV8 tb, tableV4 tb) := by
  unfold Core.loadTable
  simp only [hload, if_neg (Nat.not_lt.mpr hlast)]
  rfl

end

/-- Reports of watchpoints and the ends of waits leave the decode table. -/
theorem decoder_report (s : State) (p : Nat) (o : MemOp) (v : Word) :
    (((s.wpReport p o).endLds p o 0 v).core p).decoder = (s.core p).decoder := by
  simp only [State.endLds, State.modStrand, State.wpReport, State.wpFlush, core_modCore_same]
  repeat' split
  all_goals rfl

/-- The load of a word of an image leaves the decoder as that word does. -/
theorem decoder_finishOp {s : State} {p : Nat} {o : MemOp} (hk : o.kind = .table) (hrow : o.row = none) (v : Nat) :
    ((s.finishOp p o v).core p).decoder = (((s.core p).dropped o).loadTable o v).decoder := by
  unfold State.finishOp
  simp only [hrow, if_pos hk]
  rw [decoder_report, core_modCore_same, core_dropOp]

/-- So does its performance, with the bytes that it sees before its charge. -/
theorem decoder_perform {s t : State} {o : MemOp} (paid : s.Paid t) (hk : o.kind = .table) (hrow : o.row = none)
    (p l : Nat) (rs : Bool) :
    ((t.perform p o l rs false).core p).decoder = (((t.core p).dropped o).loadTable o (s.seen p o l)).decoder := by
  have heffect : t.effect p o l rs = (t, s.seen p o l) := by
    unfold State.effect
    rw [hk, ← paid.seen]
  rw [perform_eq (.inl rfl), core_cspLoss, core_wholeRow, heffect, decoder_finishOp hk hrow]

/-! ## The words -/

/-- Settles O17: each word issues its operations where none of its conditions fails, and traps by the first that does; the loads of a DTLD change
the decoder word by word. -/
theorem blockAndTableWords : Obligations.BlockAndTableWords := by
  unfold Obligations.BlockAndTableWords
  intro h d a b c ty rm sq sd n es block
  refine ⟨?mxq, ?mxqMisaligned, fun t => ?mxqTable, ⟨?dtld, ?dtldWrong⟩, ?last⟩
  case mxq =>
    refine issuesAnd_of (exec_mxqMem h d a b c ty rm) (fun p k x ⟨haligned, hvalid⟩ y hy => ?_) fun p k x o ho hferd => ?_
    · dsimp only
      rw [if_neg (not_not.mpr haligned), hvalid]
      dsimp only
      rw [hy]
    · rw [List.mem_singleton.mp ho] at hferd
      exact Bool.noConfusion hferd
  case mxqMisaligned => exact trapsIf_of (exec_mxqMem h d a b c ty rm) fun p k x hx => if_pos hx
  case mxqTable =>
    refine trapsIf_of (exec_mxqMem h d a b c ty rm) fun p k x ⟨haligned, hfault⟩ => ?_
    dsimp only
    rw [if_neg (not_not.mpr haligned), hfault]
  case dtld =>
    refine issuesAnd_of (exec_dtld h a) (fun p k x hright y hy => ?_) fun p k x o ho => ferd_of_mem_map (fun _ _ => rfl) ho
    dsimp only
    rw [if_neg (by simpa using hright), hy]
  case dtldWrong => exact trapsIf_of (exec_dtld h a) fun p k x hwrong => if_pos (by simpa using hwrong)
  case last =>
    intro s p o l rs host tl hk hrow hat hready hpair hacc hmay hhost hwhole hload ws
    subst hhost
    obtain ⟨w, hpaid⟩ := core_pay s p 0 (s.accessCharge p l o.bytes) p
    have hdecoder := decoder_perform (paid_pay s p 0 (s.accessCharge p l o.bytes)) hk hrow p l rs
    have hload' : (((s.pay p 0 (s.accessCharge p l o.bytes)).core p).dropped o).loading = some tl := by rw [hpaid]; exact hload
    refine ⟨_, exec_performed hat hready hpair hacc hmay, fun hmore => ?_, fun hlast => ?_⟩
    · obtain ⟨hloading, htable, -, -⟩ := decoder_eq_iff.mp (hdecoder.trans (decoder_loadTable_partial hload' hmore))
      exact ⟨htable.trans (by rw [hpaid]; rfl), hloading⟩
    · obtain ⟨hloading, htable, hv8, hv4⟩ := decoder_eq_iff.mp (hdecoder.trans (decoder_loadTable_last hload' hlast))
      exact ⟨hloading, htable, hv8.trans (congrArg tableV8 htable.symm), hv4.trans (congrArg tableV4 htable.symm)⟩

end Sys2Proof.Machine

/-! PROOFS. FUSE, SPLIT, LCID and MIGPT (R27, R252 to R254, R329). -/

namespace Sys2Proof.Machine

/-! ## FUSE (R252) -/

/-- The window that a FUSE of a core joins, or else the one that it opens. -/
theorem fuseWin_eq (s : State) (p g : Nat) : s.fuseWin p g =
    (((s.fuses (cluOf p)).find? fun r => (fuseGroup r.2.opener r.2.group).contains p).map
      fun r => (r.2.opener, r.2.group, r.2.opened)).getD (p, g, (s.core p).cycle) := by
  unfold State.fuseWin
  cases (s.fuses (cluOf p)).find? fun r => (fuseGroup r.2.opener r.2.group).contains p <;> rfl

theorem fuseLate_false {s : State} {opener opened : Nat} (h : (s.core opener).cycle ≤ opened + 255) : s.fuseLate opener opened = false :=
  decide_eq_false (Nat.not_lt.mpr h)

/-- A window is complete when each core of its group has a request in it. -/
theorem windowFull_iff (ms : List Nat) (rs : List (Nat × FuseReq)) :
    (ms.all fun q => rs.any fun r => decide (r.1 = q)) = true ↔ ∀ q ∈ ms, ∃ r ∈ rs, r.1 = q := by
  simp

/-! ## The words -/

/-- Settles O23: a FUSE in time ends the window or leaves its strand in it; MIGPT answers by the three cases of R329. -/
theorem gangAndPlacementWords : Obligations.GangAndPlacementWords := by
  unfold Obligations.GangAndPlacementWords
  intro h d fs
  refine ⟨?fuse, fun t => ?split, fun sel => ?lcid, ?migpt⟩
  case fuse =>
    intro gs win joined full inTime
    have hwin : ∀ p x, x.fuseWin p gs.toNat = win p x := fun p x => fuseWin_eq x p gs.toNat
    refine ⟨goesIf_of (exec_fuse h d gs) rfl fun p k x ⟨hopen, hfull⟩ => ?_,
      goesIf_of (exec_fuse h d gs) rfl fun p k x ⟨hopen, hfull⟩ => ?_⟩
    all_goals
      dsimp only
      rw [hwin, fuseLate_false hopen, if_neg Bool.false_ne_true]
    · exact if_neg (mt (windowFull_iff _ _).mp hfull)
    · exact if_pos ((windowFull_iff _ _).mpr hfull)
  case split => exact goesIf_of (exec_split h t) rfl fun _ _ _ _ => rfl
  case lcid =>
    refine runs_of (exec_lcid h d sel) fun p k x => congrArg (fun v => Res.done (x.wS p k 1 d v)) ?_
    beta_reduce
    unfold State.coreId
    cases (x.core p).place <;> cases x.instOf p <;> rfl
  case migpt =>
    refine runs_of (exec_migpt h d) fun p k x => ?_
    by_cases hasked : (x.core p).migrate = none
    · simp [hasked]
    by_cases hbusy : (x.core p).helpers ≠ [] ∨ x.ract p k = true
    · simp [hasked, hbusy]
    cases hmoves : (x.atBoundary p).2 <;> simp [hasked, hbusy, hmoves]

end Sys2Proof.Machine

/-! PROOFS. Events of waiting: the ends of waits, barrier releases, the end of a FUSE window and the arrival of messages (R252, R279 to R294). -/

namespace Sys2Proof.Machine

/-! ## Waits (R279, R282) -/

section
variable {s : State} {p k : Nat} {w : Wait} (hwait : (s.strand p k).wait = some w) (hruns : (s.core p).stop = none)
  (halone : s.paired p = false)
include hwait hruns halone

/-- A wait whose condition holds ends with the status of its condition. -/
theorem exec_waitCompletion_ends {st : Nat} (hstatus : s.waitStatus p k w = some st) :
    exec (.waitCompletion p k) s = .next (s.endWait p k w st) := by
  rw [exec_waitCompletion]
  unfold execWaitCompletion
  simp only [hwait, hruns, hstatus, halone, Option.isSome_none, Bool.false_eq_true, if_false]

/-- A wait at its deadline whose condition does not hold, and does not come to hold in this tick, expires. -/
theorem exec_waitExpiry_expires (hstatus : s.waitStatus p k w = none) (hexpired : s.expired p w = true) (hload : s.ldsFirst p w = false)
    (hnow : s.endsNow p w = false) : exec (.waitExpiry p k) s = .next (s.expire p k w) := by
  rw [exec_waitExpiry]
  unfold execWaitExpiry
  simp only [hwait, hruns, hstatus, hexpired, hload, hnow, halone, Option.isSome_none, Bool.not_true, Bool.or_self, Bool.false_eq_true,
    or_self, if_false]

end

/-! ## Barriers (R286) -/

theorem least_eq_min? (l : List Nat) : least l = l.min? := by
  induction l with
  | nil => rfl
  | cons a r ih =>
    have hcons : least (a :: r) = some (min a ((least r).getD a)) := rfl
    rw [hcons, ih, List.min?_cons]
    cases r.min? with
    | none => exact congrArg some (min_self a)
    | some m => rfl

/-- The least of some numbers is the member that none is below. -/
theorem least_eq {l : List Nat} {t : Nat} (ht : t ∈ l) (hle : ∀ u ∈ l, t ≤ u) : least l = some t :=
  (least_eq_min? l).trans (List.min?_eq_some_iff.mpr ⟨ht, hle⟩)

/-- A phase that has completed is released at its tick. -/
theorem exec_barrierRelease_due {s : State} {n g t : Nat} {i : Instance} (hinst : find n s.insts = some i)
    (ht : t ∈ (i.group g).release) (hfirst : ∀ u ∈ (i.group g).release, t ≤ u) (hnow : t ≤ s.now) (hruns : s.partStopped i.part = false) :
    exec (.barrierRelease n g) s = .next ((s.modInst n fun j =>
      j.setGroup g { j.group g with
        release := (j.group g).release.erase t,
        done := (j.group g).done.filter fun r => !(((s.instCores n).filter fun p => (s.core p).hasDue g t).map s.relOf).contains r }
      ).modInstCores n fun c => c.releaseBwaits g t) := by
  have hdue : (i.group g).firstRelease = some t := least_eq ht hfirst
  have hlate : ¬ (s.now < t ∨ s.partStopped i.part = true) := by simp [hnow, hruns]
  rw [exec_barrierRelease]
  unfold execBarrierRelease
  simp only [hinst, hdue, if_neg hlate]

/-! ## FUSE windows (R252) -/

theorem exec_fuseWindowTimeout_closes {s : State} {clu pos : Nat} {r : FuseReq} (hfuse : (s.strand (8 * clu + pos) 0).fuse = some r)
    (hlate : r.opened + 255 ≤ (s.core r.opener).cycle) :
    exec (.fuseWindowTimeout clu pos) s = .next (s.closeFuse r.opener r.group 1) := by
  rw [exec_fuseWindowTimeout]
  unfold execFuseWindowTimeout
  simp only [hfuse, if_neg (Nat.not_lt.mpr hlate)]

/-! ## Messages (R293, R294) -/

section
variable {s : State} {k : Nat} {m : Message} (hmsg : s.messages[k]? = some m)
  (hfirst : ∀ x ∈ s.messages.take k, ¬(x.src = m.src ∧ x.strand = m.strand ∧ x.dst = m.dst)) (hruns : s.partStopped m.part = false)
  (hready : s.sendReady m = true)

include hfirst in
theorem noOlder : ((s.messages.take k).any fun x => x.src = m.src && x.strand = m.strand && x.dst = m.dst) = false := by
  simp only [List.any_eq_false]
  intro x hx
  simpa [and_assoc] using hfirst x hx

include hmsg hfirst hruns hready

/-- A message whose destination is not there is dropped, and its sender counts it. -/
theorem exec_messageDelivery_drops (hgone : (s.remapAt m.part m.dst).valid = false ∨ (s.remapAt m.part m.dst).state = 2) :
    exec (.messageDelivery k) s = .next (({ s with messages := s.messages.eraseIdx k } : State).modCore m.src
      fun c => { c with undel := min (c.undel + 1) 65535 }) := by
  rw [exec_messageDelivery]
  unfold execMessageDelivery
  simp only [hmsg, noOlder hfirst, hruns, hready, Bool.not_true, Bool.false_eq_true, or_self, if_false, if_pos hgone]

/-- A message whose destination is there and has room enters its queue. -/
theorem exec_messageDelivery_enters (hvalid : (s.remapAt m.part m.dst).valid = true) (hstate : (s.remapAt m.part m.dst).state = 0)
    (hstop : (s.core (s.remapAt m.part m.dst).pcid).stop ≠ some .gang) (hroom : s.msgRoom (s.remapAt m.part m.dst).pcid = true)
    (halone : s.paired (s.remapAt m.part m.dst).pcid = false) :
    exec (.messageDelivery k) s = .next (({ s with messages := s.messages.eraseIdx k } : State).modCore (s.remapAt m.part m.dst).pcid
      (·.enqueue m)) := by
  rw [exec_messageDelivery]
  unfold execMessageDelivery
  simp [hmsg, noOlder hfirst, hruns, hready, hvalid, hstate, hstop, hroom, pairOf_alone halone]

end

/-- Settles O31: one equation for each event and each of its outcomes. -/
theorem waitingEvents : Obligations.WaitingEvents := by
  unfold Obligations.WaitingEvents
  exact fun s => ⟨fun p k w hwait hruns halone => ⟨fun st hst => exec_waitCompletion_ends hwait hruns halone hst,
      fun hst hexp hload hnow => exec_waitExpiry_expires hwait hruns halone hst hexp hload hnow⟩,
    fun n g i t hinst ht hfirst hnow hruns => exec_barrierRelease_due hinst ht hfirst hnow hruns,
    fun clu pos r hfuse hlate => exec_fuseWindowTimeout_closes hfuse hlate,
    fun k m hmsg hfirst hruns hready => ⟨fun hgone => exec_messageDelivery_drops hmsg hfirst hruns hready hgone,
      fun hvalid hstate hstop hroom halone => exec_messageDelivery_enters hmsg hfirst hruns hready hvalid hstate hstop hroom halone⟩⟩

end Sys2Proof.Machine

/-! PROOFS. What the end of a wait writes in the header of its window (R64, R280, R281). -/

namespace Sys2Proof.Machine

/-! ## A write of one row -/

/-- A write moves no strand, whether it takes place at once or is bound for later. -/
theorem strand_writeRowAs (s : State) (id p r lat : Nat) (m v : Row) (q k : Nat) :
    (s.writeRowAs id p r lat m v).strand q k = s.strand q k := by
  unfold State.writeRowAs
  split
  · exact strand_blendRow ..
  · by_cases h : q = p
    · subst h
      rw [State.strand, core_modCore_same]
      rfl
    · rw [State.strand, core_modCore_other h, State.strand]

/-- A write at once changes the masked bits of its row; one that is bound for later leaves every row as it is (R67, R68). -/
theorem row_writeRowAs (s : State) (id p r : Nat) (m v : Row) (i : Nat) : (s.writeRowAs id p r 1 m v).row p i =
    if i = r ∧ (s.core p).blocked id r m = false ∧ (s.core p).locked r = false then blend (s.row p r) m v else s.row p i := by
  unfold State.writeRowAs
  by_cases hfree : (s.core p).blocked id r m = false ∧ (s.core p).locked r = false
  · rw [if_pos ⟨le_refl 1, hfree⟩]
    by_cases hi : i = r
    · rw [if_pos ⟨hi, hfree⟩, hi, row_blendRow_same]
    · rw [if_neg fun h => hi h.1, row_blendRow_other (.inr hi)]
  · rw [if_neg fun h => hfree h.2, if_neg fun h => hfree h.2, State.row, core_modCore_same]
    rfl

/-! ## Words of a row -/

/-- A field of a word of a row is a field of the row (R61). -/
theorem fieldNat_rowWord {i lo n : Nat} (hfits : lo + n ≤ 64) (r : Row) : fieldNat (rowWord r i) lo n = fieldNat r (64 * i + lo) n := by
  refine congrArg BitVec.toNat (BitVec.eq_of_getLsbD_eq fun j hj => ?_)
  have hin : lo + j < 64 := by omega
  simp only [rowWord, BitVec.getLsbD_extractLsb', hj, hin, decide_true, Bool.true_and, Nat.add_assoc]

theorem getLsbD_rowWord {i j : Nat} (hj : j < 64) (r : Row) : (rowWord r i).getLsbD j = r.getLsbD (64 * i + j) := by
  simp [rowWord, hj]

/-- A mask of a word, in the place of word `i` of a row. -/
def wordMask (i : Nat) (m : Word) : Row := m.zeroExtend 512 <<< (64 * i)

theorem getLsbD_wordMask {i j : Nat} (hi : i < 8) (hj : j < 64) (m : Word) : (wordMask i m).getLsbD (64 * i + j) = m.getLsbD j := by
  have hin : 64 * i + j < 512 := by omega
  simp [wordMask, hin]

theorem getLsbD_bitMask (lo n j : Nat) : (bitMask lo n).getLsbD j = decide (j < 64 ∧ lo ≤ j ∧ j < lo + n) := by
  rw [bitMask, BitVec.getLsbD_ofNat, Nat.testBit_mul_two_pow, Nat.testBit_two_pow_sub_one, Bool.eq_iff_iff]
  simp only [Bool.and_eq_true, decide_eq_true_eq]
  omega

/-! ## WST and ESC (R280, R281) -/

/-- The bits of WST and ESC in the header row. -/
def waitEndMask : Row := wordMask 5 (bitMask 48 2 ||| bitMask 54 10)

/-- ESC once a wait of deadline `d` has ended with a status (R281). -/
def escAfter (status d esc : Nat) : Nat := if status = 0 then 0 else if status = 1 ∧ d ≠ 0 then min (esc + 1) 1023 else esc

/-- WST and ESC as the end of a wait writes them in the header row. -/
def waitEndValue (status d esc : Nat) : Row := BitVec.ofNat 512 ((wstOf status * 2 ^ 48 + escAfter status d esc * 2 ^ 54) * 2 ^ 320)

theorem endHeader_eq (s : State) (id p k status d : Nat) : s.endHeader id p k status d =
    s.writeRowAs id p (s.strand p k).wb 1 waitEndMask (waitEndValue status d (fieldNat (s.hword p k 5) 54 10)) := by
  simp only [State.endHeader, waitEndMask, wordMask, waitEndValue, escAfter, Nat.reduceMul]

theorem getLsbD_waitEndMask {j : Nat} (hj : j < 64) :
    waitEndMask.getLsbD (64 * 5 + j) = decide (48 ≤ j ∧ j < 50 ∨ 54 ≤ j) := by
  rw [waitEndMask, getLsbD_wordMask (by decide) hj, BitVec.getLsbD_or, getLsbD_bitMask, getLsbD_bitMask, Bool.eq_iff_iff]
  simp only [Bool.or_eq_true, decide_eq_true_eq]
  omega

theorem wstOf_lt (status : Nat) : wstOf status < 4 := by
  unfold wstOf
  split <;> decide

/-- WST of a status, as R280 lists it. -/
theorem wstOf_eq (status : Nat) : wstOf status = if status = 0 then 0 else if status = 1 then 1 else if status = 3 then 3 else 2 := by
  unfold wstOf
  split
  · rfl
  · rfl
  · rfl
  · next h0 h1 h3 => rw [if_neg h0, if_neg h1, if_neg h3]

theorem escAfter_lt {status d esc : Nat} (h : esc < 1024) : escAfter status d esc < 1024 := by
  unfold escAfter
  split
  · decide
  · split <;> omega

theorem fieldNat_waitEndValue_wst {status d esc : Nat} (h : esc < 1024) : fieldNat (waitEndValue status d esc) (64 * 5 + 48) 2 = wstOf status := by
  have hwst := wstOf_lt status
  have hesc : escAfter status d esc < 1024 := escAfter_lt h
  rw [fieldNat_eq, waitEndValue, BitVec.toNat_ofNat]
  omega

theorem fieldNat_waitEndValue_esc {status d esc : Nat} (h : esc < 1024) :
    fieldNat (waitEndValue status d esc) (64 * 5 + 54) 10 = escAfter status d esc := by
  have hwst := wstOf_lt status
  have hesc : escAfter status d esc < 1024 := escAfter_lt h
  rw [fieldNat_eq, waitEndValue, BitVec.toNat_ofNat]
  omega

section
variable (s : State) (id p k status d : Nat)

/-- The header row after the end of a wait: written at once, or as it was while the write is bound for later. -/
theorem header_endHeader : (s.endHeader id p k status d).header p k =
    if (s.core p).blocked id (s.strand p k).wb waitEndMask = false ∧ (s.core p).locked (s.strand p k).wb = false then
      blend (s.header p k) waitEndMask (waitEndValue status d (fieldNat (s.hword p k 5) 54 10))
    else s.header p k := by
  rw [endHeader_eq, State.header, strand_writeRowAs, row_writeRowAs]
  simp only [true_and, State.header]

/-- The end of a wait writes no other row. -/
theorem row_endHeader_other {r : Nat} (hr : r ≠ (s.strand p k).wb) : (s.endHeader id p k status d).row p r = s.row p r := by
  rw [endHeader_eq, row_writeRowAs, if_neg fun h => hr h.1]

/-- The end of a wait writes no other header word. -/
theorem hword_endHeader_other {j : Nat} (hj : j ≠ 5) : (s.endHeader id p k status d).hword p k j = s.hword p k j := by
  rw [State.hword, header_endHeader]
  split
  · exact rowWord_blend_other hj
  · rfl

/-- The end of a wait leaves the bits of its header word that are not of WST or ESC. -/
theorem bit_endHeader_other {j : Nat} (hj : j < 54) (hwst : ¬(48 ≤ j ∧ j < 50)) :
    ((s.endHeader id p k status d).hword p k 5).getLsbD j = (s.hword p k 5).getLsbD j := by
  have hin : j < 64 := by omega
  have hmask : waitEndMask.getLsbD (64 * 5 + j) = false := by
    rw [getLsbD_waitEndMask hin]
    exact decide_eq_false (by omega)
  rw [State.hword, header_endHeader]
  split
  · rw [getLsbD_rowWord hin, blend_bit, hmask, State.hword, getLsbD_rowWord hin]
    rfl
  · rfl

variable {s id p k} (hclear : (s.core p).blocked id (s.strand p k).wb waitEndMask = false) (hfree : (s.core p).locked (s.strand p k).wb = false)
include hclear hfree

/-- A field of header word 5 that the end of a wait writes whole, where nothing holds its row. -/
theorem fieldNat_endHeader {lo n : Nat} (hfits : lo + n ≤ 64) (hmask : ∀ j < n, 48 ≤ lo + j ∧ lo + j < 50 ∨ 54 ≤ lo + j) :
    fieldNat ((s.endHeader id p k status d).hword p k 5) lo n =
      fieldNat (waitEndValue status d (fieldNat (s.hword p k 5) 54 10)) (64 * 5 + lo) n := by
  have hon : ∀ j < n, waitEndMask.getLsbD (64 * 5 + lo + j) = true := fun j hj => by
    rw [Nat.add_assoc, getLsbD_waitEndMask (by omega)]
    exact decide_eq_true (hmask j hj)
  rw [State.hword, header_endHeader, if_pos ⟨hclear, hfree⟩, fieldNat_rowWord hfits, fieldNat_blend hon, if_pos rfl]

theorem wst_endHeader : fieldNat ((s.endHeader id p k status d).hword p k 5) 48 2 = wstOf status := by
  rw [fieldNat_endHeader status d hclear hfree (by decide) (by omega), fieldNat_waitEndValue_wst (fieldNat_lt ..)]

theorem esc_endHeader : fieldNat ((s.endHeader id p k status d).hword p k 5) 54 10 =
    escAfter status d (fieldNat (s.hword p k 5) 54 10) := by
  rw [fieldNat_endHeader status d hclear hfree (by decide) (by omega), fieldNat_waitEndValue_esc (fieldNat_lt ..)]

end

/-- A wait that writes no register and takes no message ends by its header alone. -/
theorem endEffects_header_only {s : State} {p k status : Nat} {w : Wait} (hdest : w.dest = none) (hrecv : ∀ row hd, w.kind ≠ .recv row hd)
    (hjoin : ∀ mask, w.kind ≠ .join mask) : s.endEffects p k w status = s.endHeader w.id p k status w.deadline := by
  unfold State.endEffects
  rw [hdest]
  dsimp only
  split
  · next row hd hkind => exact absurd hkind (hrecv row hd)
  · next mask hkind => exact absurd hkind (hjoin mask)
  · rfl

/-- Settles O55: the fields that the write's mask covers read the written value where it takes place at once, and the rest is outside the mask. -/
theorem waitEndHeader : Obligations.WaitEndHeader := by
  unfold Obligations.WaitEndHeader
  intro s p k status w wb esc s' esc'
  refine ⟨fun hclear hfree => ?written, fun j hj hwst => bit_endHeader_other s w.id p k status w.deadline hj hwst,
    fun j _ hj => hword_endHeader_other s w.id p k status w.deadline hj, fun r hr => row_endHeader_other s w.id p k status w.deadline hr,
    endEffects_header_only⟩
  case written =>
    have hesc : esc' = escAfter status w.deadline esc := esc_endHeader status w.deadline (hclear _) hfree
    rw [hesc, escAfter]
    refine ⟨(wst_endHeader status w.deadline (hclear _) hfree).trans (wstOf_eq status), fun h0 => if_pos h0, fun h1 hd => ?raised,
      fun h1 hd => ?poll, fun h0 h1 => ?other⟩
    case raised => rw [if_neg (by omega), if_pos ⟨h1, hd⟩]
    case poll => rw [if_neg (by omega), if_neg fun h => h.2 hd]
    case other => rw [if_neg h0, if_neg fun h => h1 h.1]

end Sys2Proof.Machine

/-! PROOFS. BARR: its statuses, the registration of an arrival and the completion of a phase (R286, R287). -/

namespace Sys2Proof.Machine

/-! ## Groups -/

theorem mem_addNat {a k : Nat} {l : List Nat} : a ∈ addNat k l ↔ a = k ∨ a ∈ l := by
  induction l with
  | nil => simp [addNat]
  | cons j r ih =>
    rw [addNat]
    split
    · exact List.mem_cons
    split
    · next heq => simp [heq]
    · rw [List.mem_cons, ih, List.mem_cons]
      exact or_left_comm

@[simp] theorem group_setGroup (i : Instance) (g : Nat) (x : Group) : (i.setGroup g x).group g = x := by
  match g with
  | 0 | 1 | 2 | _ + 3 => rfl

/-- All members of a list lie on one die where any two of them do. -/
theorem oneDie_iff (s : State) (i : Instance) (l : List Nat) :
    s.oneDie i l = true ↔ ∀ a ∈ l, ∀ b ∈ l, dieOf (s.relCore i a) = dieOf (s.relCore i b) := by
  cases l with
  | nil => simp [State.oneDie]
  | cons r rest =>
    simp only [State.oneDie, List.all_eq_true, decide_eq_true_eq]
    refine ⟨fun h => ?_, fun h q hq => h q (List.mem_cons_of_mem r hq) r List.mem_cons_self⟩
    have hfirst : ∀ a ∈ r :: rest, dieOf (s.relCore i a) = dieOf (s.relCore i r) := fun a ha =>
      (List.mem_cons.mp ha).elim (fun e => e ▸ rfl) (h a)
    exact fun a ha b hb => (hfirst a ha).trans (hfirst b hb).symm

/-- A listed entry of a map of parcels reads back as it was changed. -/
theorem find_modInst {s : State} {n : Nat} {i : Instance} (h : find n s.insts = some i) (f : Instance → Instance) :
    find n (s.modInst n f).insts = some (f i) := by
  simp only [State.modInst, h]
  exact find_put_same ..

/-- A change of the cores that run a parcel leaves what is listed of parcels. -/
@[simp] theorem insts_modInstCores (s : State) (n : Nat) (f : Core → Core) : (s.modInstCores n f).insts = s.insts := by
  unfold State.modInstCores
  generalize s.instCores n = l
  induction l generalizing s with
  | nil => rfl
  | cons p r ih => exact ih _

/-! ## Arrivals (R286) -/

/-- The tick at which a phase that completes now is released: 8 ticks later on one die, 24 ticks later otherwise. -/
def State.releaseTick (s : State) (i : Instance) (members : List Nat) : Nat := s.now + if s.oneDie i members then 8 else 24

/-- A group whose phase completes. -/
def Group.completed (x : Group) (due : Nat) : Group :=
  { x with arr := [], arrBy := [], done := x.members, phase := x.phase + 1, release := x.release ++ [due] }

/-- A group with one more arrival, by strand `k`. -/
def Group.registered (x : Group) (r k : Nat) : Group := { x with arr := addNat r x.arr, arrBy := put r k x.arrBy }

section
variable {s : State} {n : Nat} {i : Instance} (hinst : find n s.insts = some i) (g r k : Nat)

/-- The last arrival completes the phase, and the BWAITs of the group become due. -/
theorem arriveGroup_last (hlast : ∀ m ∈ (i.group g).members, m = r ∨ m ∈ (i.group g).arr) : s.arriveGroup n i g r k =
    (s.modInst n fun j => j.setGroup g ((i.group g).completed (s.releaseTick i (i.group g).members))).modInstCores n
      fun c => c.dueBwaits g (s.releaseTick i (i.group g).members) :=
  if_pos (List.all_eq_true.mpr fun m hm => List.contains_iff_mem.mpr (mem_addNat.mpr (hlast m hm)))

/-- An earlier arrival is registered. -/
theorem arriveGroup_earlier (hwaits : ∃ m ∈ (i.group g).members, m ≠ r ∧ m ∉ (i.group g).arr) : s.arriveGroup n i g r k =
    s.modInst n fun j => j.setGroup g ((i.group g).registered r k) := by
  obtain ⟨m, hm, hne, harr⟩ := hwaits
  refine if_neg fun hall => ?_
  exact (mem_addNat.mp (List.contains_iff_mem.mp (List.all_eq_true.mp hall m hm))).elim hne harr

include hinst

theorem group_arriveGroup_last (hlast : ∀ m ∈ (i.group g).members, m = r ∨ m ∈ (i.group g).arr) :
    ∃ j, find n (s.arriveGroup n i g r k).insts = some j ∧
      j.group g = (i.group g).completed (s.releaseTick i (i.group g).members) := by
  rw [arriveGroup_last g r k hlast, insts_modInstCores]
  exact ⟨_, find_modInst hinst _, group_setGroup ..⟩

theorem group_arriveGroup_earlier (hwaits : ∃ m ∈ (i.group g).members, m ≠ r ∧ m ∉ (i.group g).arr) :
    ∃ j, find n (s.arriveGroup n i g r k).insts = some j ∧ j.group g = (i.group g).registered r k := by
  rw [arriveGroup_earlier g r k hwaits]
  exact ⟨_, find_modInst hinst _, group_setGroup ..⟩

end

theorem releaseTick_oneDie {s : State} {i : Instance} {l : List Nat}
    (h : ∀ a ∈ l, ∀ b ∈ l, dieOf (s.relCore i a) = dieOf (s.relCore i b)) : s.releaseTick i l = s.now + 8 := by
  rw [State.releaseTick, if_pos ((oneDie_iff s i l).mpr h)]

theorem releaseTick_twoDies {s : State} {i : Instance} {l : List Nat}
    (h : ∃ a ∈ l, ∃ b ∈ l, dieOf (s.relCore i a) ≠ dieOf (s.relCore i b)) : s.releaseTick i l = s.now + 24 := by
  obtain ⟨a, ha, b, hb, hne⟩ := h
  rw [State.releaseTick, if_neg fun hone => hne ((oneDie_iff s i l).mp hone a ha b hb)]

/-! ## BARR (R287) -/

section
variable {s : State} {p n g : Nat} {i : Instance} (hof : s.instOf p = some (n, i)) (k : Nat)
include hof

/-- BARR of a group that is not bound, or of which the core is no member. -/
theorem barr_outside (h : (i.group g).bound = false ∨ s.relOf p ∉ (i.group g).members) : s.barr p k g = (7, s) := by
  simp only [State.barr, hof]
  exact if_pos (h.imp_right fun hm => by simpa using hm)

/-- BARR of a core that has arrived. -/
theorem barr_second (hbound : (i.group g).bound = true) (hmem : s.relOf p ∈ (i.group g).members) (harr : s.relOf p ∈ (i.group g).arr) :
    s.barr p k g = (8, s) := by
  simp [State.barr, hof, hbound, hmem, harr]

/-- BARR of a member that has not arrived. -/
theorem barr_arrives (hbound : (i.group g).bound = true) (hmem : s.relOf p ∈ (i.group g).members) (harr : s.relOf p ∉ (i.group g).arr) :
    s.barr p k g = (0, s.arriveGroup n i g (s.relOf p) k) := by
  simp [State.barr, hof, hbound, hmem, harr]

end

/-- Settles O56: BARR answers by the member's state, and its arrival is the last of the group or is registered. -/
theorem barrierPhase : Obligations.BarrierPhase := by
  unfold Obligations.BarrierPhase
  intro s p k g n i _ _ hof hinst x r
  refine ⟨barr_outside hof k, barr_second hof k, fun hbound hmem harr => ?arrives⟩
  case arrives =>
    rw [barr_arrives hof k hbound hmem harr]
    refine ⟨rfl, ?_⟩
    by_cases hlast : ∀ m ∈ x.members, m = r ∨ m ∈ x.arr
    · obtain ⟨j, hj, hgroup⟩ := group_arriveGroup_last hinst g r k hlast
      refine ⟨j, hj, fun _ => ?_, fun ⟨m, hm, hne, hnot⟩ => absurd (hlast m hm) (not_or.mpr ⟨hne, hnot⟩)⟩
      rw [hgroup]
      exact ⟨rfl, rfl, rfl, fun hone => congrArg (fun t => x.release ++ [t]) (releaseTick_oneDie hone),
        fun htwo => congrArg (fun t => x.release ++ [t]) (releaseTick_twoDies htwo)⟩
    · have hwaits : ∃ m ∈ x.members, m ≠ r ∧ m ∉ x.arr := by simpa using hlast
      obtain ⟨j, hj, hgroup⟩ := group_arriveGroup_earlier hinst g r k hwaits
      refine ⟨j, hj, fun h => absurd h hlast, fun _ => ?_⟩
      rw [hgroup]
      exact ⟨fun m => mem_addNat, rfl, rfl, rfl⟩

end Sys2Proof.Machine

/-! PROOFS. Barrier, message and plan words on a core of no pair (R287, R289 to R291, R293, R296, R298). -/

namespace Sys2Proof.Machine

/-! ## What a change of a group leaves of a core -/

section
variable {s : State} {p n g : Nat}

theorem counts_modCoreOf (q : Nat) {f : Core → Core} (h : ∀ c, (f c).tally = c.tally) : s.Counts p (s.modCore q f) := by
  by_cases hq : p = q
  · subst hq
    exact counts_modCore (h _)
  · exact ⟨by rw [core_modCore_other hq], by rw [core_modCore_other hq], by rw [core_modCore_other hq], fun _ => rfl⟩

theorem counts_modInst (f : Instance → Instance) : s.Counts p (s.modInst n f) :=
  counts_of_cores (State.modInst_cores ..) (State.modInst_fresh ..)

theorem counts_modInstCores {f : Core → Core} (h : ∀ c, (f c).tally = c.tally) : s.Counts p (s.modInstCores n f) :=
  .foldl (fun _ q => counts_modCoreOf q h) _ s

theorem counts_arriveGroup (i : Instance) (r k : Nat) : s.Counts p (s.arriveGroup n i g r k) :=
  .ite ((counts_modInst _).trans (counts_modInstCores fun _ => rfl)) (counts_modInst _)

theorem counts_takeHw (i : Instance) (members : List Nat) : s.Counts p (s.takeHw n i g members) := by
  have hdie : ∀ (x : State) (d : Nat) (f : Die → Die), x.Counts p (x.modDie d f) := fun _ _ _ => counts_of_cores rfl rfl
  exact .ite (.refl p s) (.foldl (fun x d => .ite (hdie ..) (hdie ..)) _ s)

theorem counts_installGroup (i : Instance) (members : List Nat) (rel : Nat) : s.Counts p (s.installGroup n i g members rel) :=
  (counts_takeHw i members).trans (counts_modInst _)

/-! ## The words of the barrier network: their statuses, and what they leave of their core -/

theorem counts_barr (k : Nat) : s.Counts p (s.barr p k g).2 := by
  unfold State.barr
  split
  · exact .refl p s
  dsimp only
  split
  · exact .refl p s
  split
  · exact .refl p s
  · exact counts_arriveGroup ..

theorem barr_le (k : Nat) : (s.barr p k g).1 ≤ 8 := by
  unfold State.barr
  split
  · simp
  dsimp only
  split
  · simp
  split <;> simp

theorem counts_bwd : s.Counts p (s.bwd p g).2 := by
  unfold State.bwd
  split
  · exact .refl p s
  · refine State.Counts.trans (.ite (.refl p s) (.ite ?_ (counts_withdraw g))) (counts_modInst _)
    refine (counts_modInst _).trans (counts_modInstCores fun c => ?_)
    split <;> rfl

theorem bwdStatus_le : s.bwdStatus p g ≤ 8 := by
  unfold State.bwdStatus
  split
  · simp
  dsimp only
  split
  · split
    · simp
    · split <;> simp
    · simp
  split
  · simp
  split
  · simp
  split <;> simp

theorem bwd_le : (s.bwd p g).1 ≤ 8 := by
  unfold State.bwd
  split
  · simp
  · exact bwdStatus_le

theorem counts_bcfg (members : List Nat) (force : Bool) : s.Counts p (s.bcfg p g members force).2 := by
  unfold State.bcfg
  split
  · exact .refl p s
  dsimp only
  split
  · exact counts_modInst _
  split
  · exact counts_modInst _
  · refine State.Counts.trans ?_ (counts_installGroup ..)
    exact .ite (counts_modInstCores fun _ => rfl) (.refl p s)

theorem bcfg_le (members : List Nat) (force : Bool) : (s.bcfg p g members force).1 ≤ 8 := by
  unfold State.bcfg
  split
  · simp
  dsimp only
  split
  · simp
  split <;> simp

end

/-! ## Words that the primary of a pair decides, on a core of no pair (R412) -/

/-- A core of no pair decides its own status of the barrier network, where what it does leaves it of no pair. -/
theorem pairStatus_counted {s t : State} {p : Nat} (h : s.paired p = false) (hc : s.Counts p t) (k : Nat) {st : Nat} (hst : st ≤ 8) :
    s.pairStatus p k st t = some (st, t) :=
  pairStatus_alone h ((paired_of_place hc.place).trans h) k (Nat.lt_of_le_of_lt hst (by decide))

section
variable {i : Instr} {h : Hdr} {d : BitVec 8}

/-- A word that writes a status of the barrier network. -/
theorem runsIf_status {pre : Nat → Nat → State → Verdict} {f : Nat → Nat → State → Nat × State}
    (he : ∀ s, exec i s = statusWord h d pre f s) (hle : ∀ p k x, (f p k x).1 ≤ 8)
    (hcounts : ∀ p k (x : State), x.Counts p (f p k x).2) :
    RunsIf i h { specX [dS d] 1 with pre := pre } (fun p _ x => x.paired p = false)
      (fun p k x => (f p k x).2.wS p k 1 d (BitVec.ofNat 64 (f p k x).1)) :=
  runsIf_of he fun p k x hp => by
    dsimp only
    rw [pairStatus_counted hp (hcounts p k x) k (hle p k x)]

/-- A word that reads a value of its core into a scalar. -/
theorem runsIf_read {lat : Nat} {f : Nat → Nat → State → Word} (he : ∀ s, exec i s = twinRead h lat d f s) :
    RunsIf i h (specX [dS d] lat) (fun p _ x => x.paired p = false) (intoS lat d f) :=
  runsIf_of he fun p k x hp => by
    rw [twinValue_alone hp]
    rfl

end

/-! ## SEND (R293) -/

/-- Nothing holds a message whose strand has no access on the snag ring and a count with room. -/
theorem send_free {s : State} {p k : Nat} (hsnag : ∀ o ∈ (s.core p).snagOps, o.strand ≠ k) (hroom : (s.ostcnt p k).1 < 65535) :
    ¬(((s.core p).snagOps.any fun o => o.strand = k) = true ∨ 65535 < (s.ostcnt p k).1 + 1) := by
  rintro (hany | hfull)
  · obtain ⟨o, ho, hk⟩ := List.any_eq_true.mp hany
    exact hsnag o ho (of_decide_eq_true hk)
  · omega

theorem send_runs (h : Hdr) (a b : BitVec 8) (scope : BitVec 3) (m : BitVec 12) : RunsIf (.send h a b scope m) h (specX [aV a, bS b] 1)
    (fun p k x => x.paired p = false ∧ (∀ o ∈ (x.core p).snagOps, o.strand ≠ k) ∧ (x.ostcnt p k).1 < 65535)
    (fun p k x => x.sendMessage (x.newMessage p k (modified m 0 (x.rV p k 1 a)) (x.rS p k 2 b))) :=
  runsIf_of (exec_send h a b scope m) fun p k x ⟨hp, hsnag, hroom⟩ => by
    dsimp only
    rw [if_neg (send_free hsnag hroom), pairOf_alone hp]

/-- Settles O18: a core of no pair decides its own results, and each word has the effect of its meaning. -/
theorem barrierAndMessageWords : Obligations.BarrierAndMessageWords := by
  unfold Obligations.BarrierAndMessageWords
  intro h d a b g unpaired st turned
  refine ⟨runsIf_status (exec_barr h d g) (fun _ k _ => barr_le k) fun _ k _ => counts_barr k,
    runsIf_status (exec_bwd h d g) (fun _ _ _ => bwd_le) fun _ _ _ => counts_bwd,
    runsIf_read (exec_bstat h d g), runsIf_read (exec_qstat h d), send_runs h a b, runs_of (exec_xplan h a) fun _ _ _ => rfl, fun u => ?bcfg⟩
  case bcfg =>
    intro off cores len wrong result
    have hcores : ∀ p x, (match x.instOf p with
        | some (_, i) => i.p
        | none => 0) = cores p x := fun p x => by
      cases hof : x.instOf p <;> simp only [cores, hof] <;> rfl
    refine ⟨runsIf_of (exec_bcfg h d g b u) fun p k x ok => ?configures, trapsIf_of (exec_bcfg h d g b u) fun p k x ok => ?traps⟩
    all_goals
      extract_lets va at' n
      have hn : n = cores p x := hcores p x
      clear_value n
      subst hn
      simp only [Bool.not_eq_true']
    case configures =>
      obtain ⟨hp, hright, hpoison, hread⟩ := ok
      have hready : ¬(_ ∨ _) := not_or.mpr ⟨Bool.eq_false_iff.mp hread, Bool.eq_false_iff.mp hpoison⟩
      exact (if_neg hright).trans ((if_neg hready).trans (by rw [pairStatus_counted hp (counts_bcfg ..) k (bcfg_le ..)]))
    case traps => exact if_pos ok

end Sys2Proof.Machine

/-! PROOFS. Wakes of a gated die, mask words of hardware groups, debugger stops and resumed helpers (R292, R340, R372, R431, R453). -/

namespace Sys2Proof.Machine

/-! ## Wakes (R340, R453) -/

/-- The captured tail writes touch no die. -/
theorem dies_replay (l : List (Nat × Nat)) (s : State) : (s.replay l).dies = s.dies := by
  unfold State.replay
  induction l generalizing s with
  | nil => rfl
  | cons e r ih => exact ih _

/-- The queues of a die that did not wake park, but for those that are not in use (R453). -/
def State.parkQueues (s : State) (d : Nat) : State := { s with
  queues := s.queues.map fun q => (q.1, if q.2.die = d ∧ q.2.state ≠ 0 then { q.2 with state := 3, fetchAt := none } else q.2) }

theorem parkQueues_parked {s : State} {d : Nat} {q : Nat × PQueue} (hq : q ∈ (s.parkQueues d).queues) (hd : q.2.die = d) :
    q.2.state = 0 ∨ q.2.state = 3 := by
  obtain ⟨x, -, rfl⟩ := List.mem_map.mp hq
  dsimp only at hd ⊢
  by_cases h : x.2.die = d ∧ x.2.state ≠ 0
  · rw [if_pos h]
    exact .inr rfl
  · rw [if_neg h] at hd ⊢
    exact .inl (not_not.mp fun hs => h ⟨hd, hs⟩)

section
variable {s : State} {d : Nat} (hgated : (s.die d).gated = true) (hwaking : (s.die d).waking = true)
include hgated hwaking

theorem exec_wakeComplete_replays : exec (.wakeComplete d) s = .next ((s.modDie d fun x =>
    { x with gated := false, waking := false, wakeTries := 0, captured := [] }).replay (s.die d).captured) := by
  rw [exec_wakeComplete]
  simp only [execWakeComplete, hgated, hwaking, Bool.and_self, if_true]

/-- A wake that fails is tried again, up to the third time. -/
theorem exec_wakeFailure_retries (htries : (s.die d).wakeTries < 2) :
    exec (.wakeFailure d) s = .next (s.modDie d fun x => { x with wakeTries := x.wakeTries + 1 }) := by
  rw [exec_wakeFailure]
  simp only [execWakeFailure, hgated, hwaking, Bool.and_self, Bool.not_true, Bool.false_eq_true, if_false, if_pos htries]

/-- The third failure replays the captured writes and parks the die's queues. -/
theorem exec_wakeFailure_parks (htries : 2 ≤ (s.die d).wakeTries) : exec (.wakeFailure d) s =
    .next (((s.modDie d fun x => { x with waking := false, wakeTries := 0, captured := [] }).replay (s.die d).captured).parkQueues d) := by
  rw [exec_wakeFailure]
  simp only [execWakeFailure, hgated, hwaking, Bool.and_self, Bool.not_true, Bool.false_eq_true, if_false, if_neg (Nat.not_lt.mpr htries)]
  rfl

end

/-! ## Mask words, debugger stops, helpers (R292, R372, R431) -/

theorem exec_dieBmaskWrite_stores {s : State} {part d k w : Nat} {fw : Bool} (v : Word) (hk : k < 16) (hw : w < 20) (hd : d < s.dieCount)
    (hans : s.answers = true) (hown : fw = true ∨ s.hwPart d k = some part) :
    exec (.dieBmaskWrite part d k w fw v) s = .next (s.writeBmask d k w v 0) := by
  have hin : ¬(16 ≤ k ∨ 20 ≤ w ∨ s.dieCount ≤ d ∨ (!s.answers) = true) := by
    simp only [hans, Bool.not_true, Bool.false_eq_true, or_false]
    omega
  rw [exec_dieBmaskWrite, execDieBmaskWrite, if_neg hin, if_pos hown]

theorem exec_debugStop_stops {s : State} {n : Nat} {i : Instance} (hready : s.insts.find? (fun x => s.dbgReady x.1 x.2) = some (n, i)) :
    exec .debugStop s = .next { ((s.instCores n).foldl (fun x p => (x.modCore p Core.settle).stopCore p .debug) (s.enterAll n)).modInst n
      (fun j => { j with dbg := .stopped }) with dbgState := 2 } := by
  rw [exec_debugStop]
  simp only [execDebugStop, hready]

theorem exec_helperResume_resumes {s : State} {p : Nat} {v : Word} (hstopped : (s.core p).stoppedMask &&& v.toNat ≠ 0) :
    exec (.helperResume p v) s = .next (s.modCore p (·.resumeHelpers v)) := by
  rw [exec_helperResume, execHelperResume, if_neg hstopped]

/-- Settles O35: one equation for each event and each of its outcomes; the parked queues are those of the state after the third failure. -/
theorem deviceEvents : Obligations.DeviceEvents := by
  unfold Obligations.DeviceEvents
  intro s
  refine ⟨fun d hgated hwaking => ⟨exec_wakeComplete_replays hgated hwaking, exec_wakeFailure_retries hgated hwaking, fun htries => ?parks⟩,
    fun part d k w fw v hk hw hd hans hown => exec_dieBmaskWrite_stores v hk hw hd hans hown, fun n i hready => exec_debugStop_stops hready,
    fun p v hstopped => exec_helperResume_resumes hstopped⟩
  case parks =>
    refine ⟨_, exec_wakeFailure_parks hgated hwaking htries, ?_, fun q hq hd => parkQueues_parked hq hd⟩
    rw [State.die, State.parkQueues, dies_replay, ← State.die, die_modDie_same]

end Sys2Proof.Machine

/-! PROOFS. Palette words: claims, shapes, slices and columns of tiles (R314 to R317). -/

namespace Sys2Proof.Machine

/-! ## Charges (R358) -/

theorem payOr_done {s : State} {p n : Nat} (h : s.canPay p n = true) (f : State → Res) : s.payOr p n f = f (s.pay p 0 n) := if_pos h

/-- The value of a row name goes by the rows and the strands of its core. -/
theorem rV_of_still {s t : State} {p : Nat} (h : (t.core p).still = (s.core p).still) (k f : Nat) (n : BitVec 8) : t.rV p k f n = s.rV p k f n := by
  have hrow : ∀ r, t.row p r = s.row p r := fun r => by rw [State.row, State.row, Core.row, Core.row, rows_of_still h]
  have hstrand : ∀ j, t.strand p j = s.strand p j := fun j => by
    rw [State.strand, State.strand, Core.strand, Core.strand, strands_of_still h]
  have hhword : ∀ j i, t.hword p j i = s.hword p j i := fun j i => by simp only [State.hword, State.header, hrow, hstrand]
  unfold State.rV State.vName State.stagger State.inBody State.ract
  simp only [hhword, hrow, hstrand]

/-- The bytes of a range are as before a charge. -/
theorem bytes_pay (s : State) (p k c a n : Nat) : (s.pay p k c).bytes a n = s.bytes a n := by
  simp only [State.bytes, byte_eq, (paid_pay s p k c).cells]

/-! ## Tiles that a word names and opens (R314, R316, R317) -/

/-- A tile that comes back into its slots is the same tile, no longer saved (R317). -/
theorem touch_tile {s y : State} {clu : Nat} {t u : Tile} (h : s.touch clu t = some (y, u)) : u = { t with saved := none } := by
  unfold State.touch at h
  cases hsaved : t.saved with
  | none =>
    simp only [hsaved, Option.some.injEq, Prod.mk.injEq] at h
    rw [← h.2, ← hsaved]
  | some bs =>
    simp only [hsaved, Option.ite_none_right_eq_some, Option.some.injEq, Prod.mk.injEq] at h
    exact h.2.2.symm

section
variable {p : Nat} {x y : State} {v : Word} {t : Tile}

/-- An opened tile is one that the word names, that no command names, and that has its slots. -/
theorem openTile_some (h : x.openTile p v = some (y, t)) :
    ∃ u, x.tileOf p v = some u ∧ (x.core p).tileBusy u = false ∧ x.touch (cluOf p) u = some (y, t) := by
  unfold State.openTile at h
  cases hu : x.tileOf p v with
  | none => simp [hu] at h
  | some u => exact ⟨u, rfl, by simpa [hu] using h⟩

/-- A palette word acts on the tile that it opens, a shaped one where it wants that. -/
theorem onTile_opened {shaped : Bool} (f : State → Tile → Res) (h : x.openTile p v = some (y, t)) (hshaped : shaped = true → t.shaped = true) :
    onTile v p shaped f x = f y t := by
  obtain ⟨u, hu, hbusy, htouch⟩ := openTile_some h
  have hform : (shaped && !u.shaped) = false := by
    rw [touch_tile htouch] at hshaped
    cases shaped with
    | false => rfl
    | true => simpa using hshaped rfl
  simp only [onTile, hu, hform, hbusy, htouch, Bool.false_eq_true, if_false]

/-- A palette word that names no claim takes the palette fault. -/
theorem onTile_unclaimed {shaped : Bool} (f : State → Tile → Res) (h : x.tileOf p v = none) : onTile v p shaped f x = .trap (tileTrap v) := by
  rw [onTile, h]

theorem withTile_opened {w : Nat → Nat → State → Word} (f : Nat → Nat → State → State → Tile → State) {k : Nat}
    (h : x.openTile p (w p k x) = some (y, t)) : withTile w f p k x = f p k x y t := by
  rw [withTile, h]

end

section
variable {i : Instr} {h : Hdr} {spec : WordSpec} {w : Nat → Nat → State → Word} {shaped : Bool}
  {f : Nat → Nat → State → State → Tile → Res}
  (he : ∀ s, exec i s = runWord h spec (fun p k x => onTile (w p k x) p shaped (f p k x) x) s)
include he

/-- A palette word completes with its effect on the tile that it opens. -/
theorem runsIf_tile {ok : Nat → Nat → State → State → Tile → Prop} {eff : Nat → Nat → State → State → Tile → State}
    (hshaped : ∀ p k x y t, ok p k x y t → shaped = true → t.shaped = true)
    (hb : ∀ p k x y t, ok p k x y t → f p k x y t = .done (eff p k x y t)) : RunsIf i h spec (tileIs w ok) (withTile w eff) :=
  runsIf_of he fun p k x ⟨y, t, hopen, hok⟩ => by
    rw [onTile_opened _ hopen (hshaped p k x y t hok), withTile_opened eff hopen, hb p k x y t hok]

theorem trapsIf_tile : TrapsIf i h spec (fun p k x => x.tileOf p (w p k x) = none) fun p k x => tileTrap (w p k x) :=
  trapsIf_of he fun _ _ _ hnone => onTile_unclaimed _ hnone

end

/-! ## Slices and columns (R316) -/

/-- A slice whose row and segment lie in the tile. -/
theorem slice_inside {t : Tile} {clu : Nat} {idx : Word} (hrow : fieldNat idx 0 16 < t.tileRows) (hseg : 64 * fieldNat idx 16 16 < t.pitch) :
    t.slice clu idx = some (tileLoc clu t + fieldNat idx 0 16 * t.pitch + 64 * fieldNat idx 16 16) :=
  if_neg (by omega)

/-- The elements of a column that its predicate names hold no error. -/
theorem column_clean {y : State} {t : Tile} {clu : Nat} {idx : Word} {eq : BitVec 16}
    (h : ∀ i < 512 / tileBits t.fmt, fieldNat idx 0 16 + i < t.tileRows → eq.getLsbD (i * tileBits t.fmt / 32) = true →
      y.poisoned (tileLoc clu t + (fieldNat idx 0 16 + i) * t.pitch + fieldNat idx 16 16 * tileBits t.fmt / 8) 1 = false) :
    ((t.columnLocs clu idx eq).any fun l => y.poisoned l 1) = false := by
  simp only [List.any_eq_false, Tile.columnLocs, List.mem_map, List.mem_filter, List.mem_range, Bool.and_eq_true, decide_eq_true_eq,
    Bool.not_eq_true]
  rintro l ⟨i, ⟨hi, hrow, heq⟩, rfl⟩
  exact h i hi hrow heq

/-! ## The words -/

/-- RELS frees a tile that no command names (R317). -/
theorem rels_runs (h : Hdr) (a : BitVec 8) : RunsIf (.rels h a) h (specX [aS a] 1)
    (fun p k x => ∃ t, x.tileOf p (x.rS p k 1 a) = some t ∧ (x.core p).tileBusy t = false)
    (fun p k x => x.modCluster (cluOf p) fun y => { y with tiles := y.tiles.filter fun t => some t ≠ x.tileOf p (x.rS p k 1 a) }) := by
  refine runsIf_of (exec_rels h a) fun p k x ⟨t, ht, hbusy⟩ => ?_
  simp only [ht, hbusy, Bool.false_eq_true, if_false, ne_eq, Option.some.injEq]

theorem rels_traps (h : Hdr) (a : BitVec 8) : TrapsIf (.rels h a) h (specX [aS a] 1) (fun p k x => x.tileOf p (x.rS p k 1 a) = none)
    (fun p k x => tileTrap (x.rS p k 1 a)) :=
  trapsIf_of (exec_rels h a) fun p k x hnone => by simp only [hnone]

/-- Settles O20: each word acts on the tile that it opens, and a word that names no claim takes the palette fault. -/
theorem paletteWords : Obligations.PaletteWords := by
  unfold Obligations.PaletteWords
  intro h d a b c w paid rich
  refine ⟨fun n => ?claim, rels_runs h a, ?tshape, ⟨?trow, ?twrow, ?tcol, ?twcol⟩, ?unclaimed⟩
  case claim =>
    refine runs_of (exec_claim h d n) fun p k x => ?_
    dsimp only
    cases (List.range (65 - n.toNat)).find? fun f => (List.range n.toNat).all fun i => x.slotFree (cluOf p) (f + i) <;> rfl
  case tshape =>
    refine runsIf_tile (exec_tshape h a b) (fun _ _ _ _ _ _ hfalse => Bool.noConfusion hfalse)
      fun p k x y t ⟨hzero, hfmt, hcols, hrows, hfits⟩ => if_neg ?_
    simp only [not_or, not_not, Nat.not_lt]
    exact ⟨hzero, hfmt, hcols, hrows, hfits⟩
  case trow =>
    refine runsIf_tile (exec_trow h d a b) (fun _ _ _ _ _ hok _ => hok.1.1) fun p k x y t ⟨⟨_, hrow, hseg⟩, hclean, hrich⟩ => ?_
    simp only [slice_inside hrow hseg, hclean, payOr_done hrich, bytes_pay, Bool.false_eq_true, if_false]
    rfl
  case twrow =>
    refine runsIf_tile (exec_twrow h a b c) (fun _ _ _ _ _ hok _ => hok.1.1) fun p k x y t ⟨⟨_, hrow, hseg⟩, hrich⟩ => ?_
    simp only [slice_inside hrow hseg, payOr_done hrich, rV_of_still ((still_pay _ _ _ _).core _)]
    rfl
  case tcol =>
    refine runsIf_tile (exec_tcol h d a b) (fun _ _ _ _ _ hok _ => hok.1.1) fun p k x y t ⟨⟨_, hcol⟩, hrich, hclean⟩ => ?_
    exact (if_neg (Nat.not_le.mpr hcol)).trans ((if_neg (Bool.eq_false_iff.mp (column_clean hclean))).trans (payOr_done hrich _))
  case twcol =>
    refine runsIf_tile (exec_twcol h a b c) (fun _ _ _ _ _ hok _ => hok.1.1) fun p k x y t ⟨⟨_, hcol⟩, hrich⟩ => ?_
    exact (if_neg (Nat.not_le.mpr hcol)).trans (payOr_done hrich _)
  case unclaimed =>
    intro i spec hmem
    simp only [List.mem_cons, Prod.mk.injEq, List.not_mem_nil, or_false] at hmem
    rcases hmem with ⟨rfl, rfl⟩ | ⟨rfl, rfl⟩ | ⟨rfl, rfl⟩ | ⟨rfl, rfl⟩ | ⟨rfl, rfl⟩ | ⟨rfl, rfl⟩
    · exact rels_traps h a
    · exact trapsIf_tile (exec_tshape h a b)
    · exact trapsIf_tile (exec_trow h d a b)
    · exact trapsIf_tile (exec_twrow h a b c)
    · exact trapsIf_tile (exec_tcol h d a b)
    · exact trapsIf_tile (exec_twcol h a b c)

end Sys2Proof.Machine

/-! PROOFS. Residency words: allocation, pins, revocation and queries (R318 to R322). -/

namespace Sys2Proof.Machine

section
variable {i : Instr} {h : Hdr} {a : BitVec 8} {f : Nat → Residency → State → Res} (he : ∀ s, exec i s = onRes h a f s)
include he

/-- A word on a live handle acts on its residency where its own condition holds (R322). -/
theorem runsIf_res {ok : Nat → Nat → State → Prop} {eff : Nat → Nat → State → State}
    (hb : ∀ p k x, ok p k x → ∃ r, x.liveRes p (x.rS p k 1 a).toNat = some r ∧ f p r x = .done (eff p k x)) :
    RunsIf i h (specX [aS a] 2) ok eff :=
  runsIf_of he fun p k x hok => by
    obtain ⟨r, hr, hf⟩ := hb p k x hok
    dsimp only
    rw [hr]
    exact hf

/-- A word on a value that is no live handle traps (R322). -/
theorem trapsIf_res : TrapsIf i h (specX [aS a] 2) (fun p k x => x.liveRes p (x.rS p k 1 a).toNat = none)
    fun p k x => { cause := 15, code := 0, info := x.rS p k 1 a } :=
  trapsIf_of he fun p k x hnone => by
    dsimp only
    rw [hnone]

end

/-- Settles O21: each word acts on the residency that its handle names, and WRALLOC by the status of the request. -/
theorem residencyWords : Obligations.ResidencyWords := by
  unfold Obligations.ResidencyWords
  intro h d a v res onHandle second
  refine ⟨?wralloc, ?wrpin, ?wrunpin, ?wrrevoke, ?wrquery, ?dead⟩
  case wralloc =>
    refine runs_of (exec_wralloc h d a) fun p k x => ?_
    by_cases hrefused : (x.wralloc p (x.rS p k 1 a)).1 ≠ 0
    · exact (if_pos hrefused).trans (congrArg Res.done (if_pos hrefused).symm)
    · refine (if_neg hrefused).trans (.trans ?_ (congrArg Res.done (if_neg hrefused).symm))
      cases (x.core p).place <;> rfl
  case wrpin =>
    refine runsIf_res (exec_wrpin h a) fun p k x hlive => ?_
    obtain ⟨r, hr⟩ := Option.isSome_iff_exists.mp hlive
    exact ⟨r, hr, by simp only [onHandle, hr]⟩
  case wrunpin =>
    refine runsIf_res (exec_wrunpin h a) fun p k x hlive => ?_
    obtain ⟨r, hr⟩ := Option.isSome_iff_exists.mp hlive
    exact ⟨r, hr, by simp only [onHandle, hr]⟩
  case wrrevoke =>
    refine runsIf_res (exec_wrrevoke h a) fun p k x ⟨r, hr, hidle⟩ => ⟨r, hr, ?_⟩
    simp only [onHandle, hr]
    exact if_neg (Bool.eq_false_iff.mp hidle)
  case wrquery =>
    refine runsIf_of (exec_wrquery h d a) fun p k x hpair => ?_
    simp only [twinValue_alone hpair, intoS, res]
    cases x.liveRes p (x.rS p k 1 a).toNat <;> rfl
  case dead =>
    intro i hmem
    simp only [List.mem_cons, List.not_mem_nil, or_false] at hmem
    rcases hmem with rfl | rfl | rfl
    · exact trapsIf_res (exec_wrpin h a)
    · exact trapsIf_res (exec_wrunpin h a)
    · exact trapsIf_res (exec_wrrevoke h a)

end Sys2Proof.Machine

/-! PROOFS. CSR words, and the words of the system group below their level (R330 to R336, R351, R385 to R388, R443). -/

namespace Sys2Proof.Machine

/-! ## CSR words (R331, R332) -/

section
variable {n p k : Nat} {rd wr : Bool} {s : State}

theorem csrTrap_unknown (h : csrRule n = none) : csrTrap n rd wr p k s = .trap (s.wordTrap 1) := by
  rw [csrTrap, h]

/-- A read or a write above the strand's level takes cause 2, but for the mask of a group that the strand's partition owns (R292, R332). -/
theorem csrTrap_above {r : CsrRule} (hr : csrRule n = some r)
    (habove : (rd = true ∧ s.level p k < r.read) ∨ (wr = true ∧ s.ownsGroup p n = false ∧ s.level p k < r.wlevel)) :
    csrTrap n rd wr p k s = .trap (s.wordTrap 2) := by
  rw [csrTrap, hr]
  refine if_pos ?_
  rcases habove with ⟨hrd, hlevel⟩ | ⟨hwr, hown, hlevel⟩
  · simp [hrd, hlevel]
  · simp [hwr, hown, hlevel]

/-- A word that reads a register takes the trap of its access before it waits for anything. -/
theorem csrRead1_trap {t : Trap} (h : csrTrap n true wr p k s = .trap t) : csrRead1 n wr p k s = .trap t := by
  rw [csrRead1, holdIf, h]

end

/-- The trap of a CSR word's access is taken, on a core that is not fused. -/
theorem exec_csr_trap {h : Hdr} {d a : BitVec 8} {csr : BitVec 16} {s : State} {i : Instr} {rd wr : Bool} {t : Trap}
    (hmem : (i, rd, wr) ∈ [(Instr.csrr h d csr, true, false), (.csrw h a csr, false, true), (.csrx h d a csr, true, true)])
    (hgang : (s.core s.focus.pcid).gang = none)
    (hhdr : s.HeaderClear s.focus.pcid s.focus.strand h
      { specX (if rd then (if wr then [dS d, aS a] else [dS d]) else [aS a]) 2 with pre := csrTrap csr.toNat rd wr })
    (ht : csrTrap csr.toNat rd wr s.focus.pcid s.focus.strand s = .trap t) (hdeleg : delegBit t.cause = none) :
    exec i s = .next (s.trapAll s.focus.strand t [s.focus.pcid]) := by
  simp only [List.mem_cons, Prod.mk.injEq, List.not_mem_nil, or_false] at hmem
  rcases hmem with ⟨rfl, rfl, rfl⟩ | ⟨rfl, rfl, rfl⟩ | ⟨rfl, rfl, rfl⟩
  · exact runWord_pre_trap hgang hhdr (csrRead1_trap ht) hdeleg
  · exact runWord_pre_trap hgang hhdr ht hdeleg
  · exact runWord_pre_trap hgang hhdr (csrRead1_trap ht) hdeleg

/-- Settles O24: a CSR word does its read and its write where its access is allowed, and takes the trap of its access where it is not. -/
theorem csrWords : Obligations.CsrWords := by
  unfold Obligations.CsrWords
  intro h d a csr n
  refine ⟨?read, ?write, ?exchange, fun s i rd wr hmem hgang hhdr => ⟨fun hnone => ?unknown, fun r hr habove => ?above⟩⟩
  case read =>
    refine runsIf_of (exec_csrr h d csr) fun p k x hpair => ?_
    simp only [n, twinValue_alone hpair]
  case write =>
    refine runsIf_of (exec_csrw h a csr) fun p k x hsome => ?_
    obtain ⟨y, hy⟩ := Option.isSome_iff_exists.mp hsome
    simp only [n] at hy
    simp only [n, hy, Option.getD_some]
  case exchange =>
    refine runsIf_of (exec_csrx h d a csr) fun p k x ⟨hpair, hsome⟩ => ?_
    obtain ⟨y, hy⟩ := Option.isSome_iff_exists.mp hsome
    simp only [n] at hy
    simp only [n, twinValue_alone hpair, hy, Option.getD_some]
  case unknown => exact exec_csr_trap hmem hgang hhdr (csrTrap_unknown hnone) rfl
  case above => exact exec_csr_trap hmem hgang hhdr (csrTrap_above hr habove) rfl

/-! ## Levels (R330, R443) -/

/-- A word below its level takes cause 2 before any other cause, on a core that is not fused. -/
theorem exec_below_level {i : Instr} {h : Hdr} {w : WordSpec} {lv : Nat} {body : Body} {s : State}
    (he : exec i s = runWord h { w with pre := levelTrap lv } body s) (hgang : (s.core s.focus.pcid).gang = none)
    (hlevel : s.level s.focus.pcid s.focus.strand < lv)
    (hhdr : s.HeaderClear s.focus.pcid s.focus.strand h { w with pre := levelTrap lv }) :
    exec i s = .next (s.trapAll s.focus.strand (s.wordTrap 2) [s.focus.pcid]) :=
  he.trans (runWord_pre_trap hgang hhdr (if_pos hlevel) rfl)

/-- Settles O26: each of the words has its level as its own first check. -/
theorem privilegeTraps : Obligations.PrivilegeTraps := by
  unfold Obligations.PrivilegeTraps
  intro s h d a b i lv w sys hmem hgang hlevel hhdr
  have hword : ∃ body, exec i s = runWord h { w with pre := levelTrap lv } body s := by
    simp only [List.mem_cons, Prod.mk.injEq, List.not_mem_nil, or_false] at hmem
    rcases hmem with ⟨rfl, rfl, rfl⟩ | ⟨rfl, rfl, rfl⟩ | ⟨rfl, rfl, rfl⟩ | ⟨rfl, rfl, rfl⟩ | ⟨rfl, rfl, rfl⟩ | ⟨rfl, rfl, rfl⟩ |
      ⟨rfl, rfl, rfl⟩ | ⟨rfl, rfl, rfl⟩ | ⟨rfl, rfl, rfl⟩ | ⟨rfl, rfl, rfl⟩ | ⟨rfl, rfl, rfl⟩ | ⟨rfl, rfl, rfl⟩ | ⟨rfl, rfl, rfl⟩
    all_goals exact ⟨_, rfl⟩
  obtain ⟨body, he⟩ := hword
  exact exec_below_level he hgang hlevel hhdr

end Sys2Proof.Machine

/-! PROOFS. The other words of the system group, where their level and their conditions hold (R330, R333 to R336, R351, R385 to R388). -/

namespace Sys2Proof.Machine

/-! ## What a word of the system group answers -/

section
variable {i : Instr} {h : Hdr} {lv lat : Nat} {d : BitVec 8} {ops : List Opnd} {f : Nat → Nat → State → Option (Word × State)}
  (he : ∀ s, exec i s = systemWord h lv lat d ops f s) {eff : Nat → Nat → State → State}
include he

/-- A word of the system group writes its answer in S[D], in the state of its effect, where its condition holds. -/
theorem runsIf_system {ok : Nat → Nat → State → Prop}
    (hf : ∀ p k x, ok p k x → ∃ v y, f p k x = some (v, y) ∧ eff p k x = y.wS p k lat d v) :
    RunsIf i h { specX (dS d :: ops) lat with pre := levelTrap lv } ok eff :=
  runsIf_of he fun p k x hok => by
    obtain ⟨v, y, hfound, heff⟩ := hf p k x hok
    rw [hfound, heff]

theorem runs_system (hf : ∀ p k x, ∃ v y, f p k x = some (v, y) ∧ eff p k x = y.wS p k lat d v) :
    Runs i h { specX (dS d :: ops) lat with pre := levelTrap lv } eff :=
  runs_of he fun p k x => by
    obtain ⟨v, y, hfound, heff⟩ := hf p k x
    rw [hfound, heff]

end

/-- A TLBINV drops the translations that its test picks, once the strand's stores are performed (R101, R333). -/
theorem runsIf_tlbinv {i : Instr} {h : Hdr} {lv : Nat} {a b : BitVec 8} {f : Nat → Word → Word → TlbEntry → Bool}
    (he : ∀ s, exec i s = tlbinvWord h lv a b f s) {eff : Nat → Nat → State → State}
    (heff : ∀ p k x, eff p k x = x.dropTlb (f (((x.core p).place.map fun l => l.part).getD 64) (x.rS p k 1 a) (x.rS p k 2 b))) :
    RunsIf i h { specX [aS a, bS b] 2 with pre := levelTrap lv } (fun p k x => x.storesPending p k = false) eff :=
  runsIf_of he fun p k x hstored => by
    dsimp only
    rw [hstored, heff]
    cases (x.core p).place <;> rfl

/-- No access in flight uses a named key slot (R386). -/
theorem keyInUse_false {x : State} {d mask : Nat} (hops : ∀ c ∈ x.cores, ∀ o ∈ c.2.ops, x.usesKey d mask c.1 o = false)
    (hsent : ∀ c, c ∈ x.closures ∨ (∃ y ∈ x.parts, c ∈ y.2.held) → x.sentUsesKey d mask c = false) : x.keyInUse d mask = false := by
  simp only [State.keyInUse, Bool.or_eq_false_iff, List.any_eq_false, List.mem_append, List.mem_flatMap, Bool.not_eq_true]
  exact ⟨hops, hsent⟩

/-- No operation of a strand is in flight. -/
theorem all_performed {l : List MemOp} {k : Nat} (h : ∀ o ∈ l, o.strand ≠ k) : (l.all fun o => o.strand ≠ k) = true := by
  simpa using h

/-- Settles O25: each word's answer and effect are those of the branch that its condition picks. -/
theorem systemWords : Obligations.SystemWords := by
  unfold Obligations.SystemWords
  intro h d a b sys inv stored part va vb
  refine ⟨runsIf_tlbinv (exec_tlbinv h a b) fun _ _ _ => rfl, runsIf_tlbinv (exec_tlbinvAll h a b) fun _ _ _ => rfl,
    runsIf_tlbinv (exec_tlbinvAllP h a b) fun _ _ _ => rfl, runs_of (exec_halt h) fun _ _ _ => rfl, ?keyz, ?skim, ?unknownContext,
    fun c l => ?attest, ?tkrd, ?tkgive, ?quar, runs_of (exec_mcread h d a) fun _ _ _ => rfl, ?pswitch, ?fbctl, ?ctxld⟩
  case keyz =>
    exact runsIf_system (exec_keyz h d a) fun p k x ⟨hops, hsent⟩ =>
      ⟨_, _, if_neg (Bool.eq_false_iff.mp (keyInUse_false hops hsent)), rfl⟩
  case skim =>
    refine runsIf_system (exec_skim h d a) fun p k x hstored => ?_
    simp only [stored] at hstored
    simp only [hstored, Bool.false_eq_true, if_false, va]
    by_cases hbusy : (x.die (dieOf p)).skimState = 1 ∨ (x.die (dieOf p)).skimState = 3
    · exact ⟨_, _, if_pos hbusy, if_pos hbusy⟩
    · simp only [hbusy, if_false]
      cases x.skimJob p k (x.rS p k 1 a) with
      | none => exact ⟨_, _, rfl, rfl⟩
      | some j => exact ⟨_, _, rfl, rfl⟩
  case unknownContext =>
    refine runsIf_system (exec_attest h d a b) fun p k x ⟨hperf, hnone⟩ => ⟨1, x, ?_, rfl⟩
    simp only [va] at hnone
    simp only [all_performed hperf, hnone, Bool.not_true, Bool.false_eq_true, if_false]
  case attest =>
    refine runsIf_system (exec_attest h d a b) fun p k x ⟨hperf, hctx, halign, hrange, ⟨r, hfirst⟩, q, hlast⟩ => ⟨0, _, ?_, rfl⟩
    simp only [va, vb] at hctx halign hrange hfirst hlast
    have hallowed : ¬((x.rS p k 2 b).toNat % 8 ≠ 0 ∨ 2 ^ 40 ≤ (x.rS p k 2 b).toNat ∨ l + 8111 ≠ l + 8111) := by omega
    simp only [all_performed hperf, hctx, hfirst, hlast, Bool.not_true, Bool.false_eq_true, if_false, hallowed, va]
  case tkrd =>
    exact runsIf_system (exec_tkrd h d) fun p k x hpair => ⟨_, _, twinValue_alone hpair k _, rfl⟩
  case tkgive =>
    refine runs_system (exec_tkgive h d a b) fun p k x => ?_
    by_cases hcore : x.isCore (fieldNat (x.rS p k 1 a) 0 13) = true
    · simp only [va, vb, hcore, if_true, Bool.not_true, Bool.false_eq_true, if_false]
      exact ⟨_, _, rfl, rfl⟩
    · simp only [va, vb, hcore, Bool.not_false, if_true]
      exact ⟨_, _, rfl, rfl⟩
  case quar => exact runs_system (exec_quar h d a) fun _ _ _ => ⟨_, _, rfl, rfl⟩
  case pswitch =>
    refine runs_system (exec_pswitch h d a b) fun p k x => ?_
    simp only [va, vb]
    cases find (fieldNat (x.rS p k 1 a) 0 6) x.parts with
    | none => exact ⟨_, _, rfl, rfl⟩
    | some y =>
      by_cases hsoon : (x.rS p k 2 b).toNat < x.now + 2000
      · exact ⟨_, _, if_pos hsoon, if_pos hsoon⟩
      · by_cases harmed : y.armed.isSome = true
        · exact ⟨_, _, (if_neg hsoon).trans (if_pos harmed), (if_neg hsoon).trans (if_pos harmed)⟩
        · exact ⟨_, _, (if_neg hsoon).trans (if_neg harmed), (if_neg hsoon).trans (if_neg harmed)⟩
  case fbctl => exact runs_system (exec_fbctl h d a) fun _ _ _ => ⟨_, _, rfl, rfl⟩
  case ctxld =>
    refine runs_system (exec_ctxld h d a) fun p k x => ?_
    by_cases hbad : x.freeWord.getLsbD 63 = true ∨ x.isCore (fieldNat x.freeWord 0 13) = false
    · exact ⟨_, _, if_pos (hbad.imp_right fun hno => by rw [hno]; rfl), if_pos hbad⟩
    · exact ⟨_, _, if_neg fun hno => hbad (hno.imp_right fun hno => by simpa using hno), if_neg hbad⟩

end Sys2Proof.Machine

/-! PROOFS. The signal commands SIG and MXSIG, step by step (R83, R131, R309, R312, R358, R416). -/

namespace Sys2Proof.Machine

/-! ## The one store of a signal -/

/-- The store of a signal at its destination (R312). -/
def signalPart (dst : Word) : Part := { num := 0, va := dst, loc := none, n := 8, toll := 2 }

/-- The work of a signal that has its destination. -/
def signalStore (dst : Word) : Piece := { num := 0, reads := [], got := [], writes := [signalPart dst], block := false, sent := [] }

section
variable {m : Cmd} {dst : Word}

/-- Whatever picks the next operation, it is the store. -/
theorem pick_signalStore (hwork : m.work = [signalStore dst]) (r : Nat) : m.pick r = some (signalStore dst, [signalPart dst]) := by
  simp [Cmd.pick, Piece.next, Piece.free, Piece.reading, hwork, signalStore, Nat.mod_one]

/-- A command that has made its store has no work left. -/
theorem hasWritten_signalStore (hwork : m.work = [signalStore dst]) : m.hasWritten (signalStore dst) [signalPart dst] 0 =
    { m with work := [], progress := m.progress + 1, asked := none, parked := false } := by
  simp [Cmd.hasWritten, Cmd.setPiece, hwork, signalStore, signalPart]

/-- The words that a command has written of a codeword with an error are no part of its work (R416). -/
theorem cover_work (s : State) (m : Cmd) (l : Nat) : (s.cover m l).1.work = m.work ∧ (s.cover m l).1.progress = m.progress := by
  unfold State.cover
  dsimp only
  split
  · exact ⟨rfl, rfl⟩
  · split <;> exact ⟨rfl, rfl⟩

/-- One word that an engine stores. -/
theorem engStores_word (s : State) (p : Nat) (m : Cmd) (full : Bool) (x : Part) (l : Nat) (rs host : Bool) {bs : List Byte} (hlen : bs.length = 8) :
    s.engStores p m full [((x, l, rs, host), bs)] = (s.engStore p x.va l bs rs host full).cover m l := by
  simp only [State.engStores, hlen, if_true]

theorem partsAt_one {s : State} {p : Nat} {sup wr : Bool} {x : Part} {a : Nat × Bool × Bool} (h : s.partAt p sup wr x = .ok a) :
    s.partsAt p sup wr [x] = .ok [(x, a)] := by
  simp only [State.partsAt, h]

/-- An engine whose command has not migrated is that of its own core (R353). -/
theorem payFor_self (s : State) (p n : Nat) : s.payFor p p n = s.pay p 0 n := if_pos rfl

theorem engineOf_home (h : m.engine = none) (p : Nat) : m.engineOf p = p := by
  rw [Cmd.engineOf, h]
  rfl

/-- The store of a signal is made with its value, and sets its word full. -/
theorem workAt_signalStore {y : State} {p slot l : Nat} {rs host : Bool} (hpair : y.paired p = false) :
    let w := (y.engStore p dst l (natBytes 8 m.ecw.opd.toNat) rs host true).cover m l
    y.workAt p slot m sigRun (signalStore dst) [(signalPart dst, l, rs, host)] =
      .next (w.2.modCmd p slot m.seq fun _ => w.1.hasWritten (signalStore dst) [signalPart dst] 0) := by
  refine (workAt_write hpair rfl).trans ?_
  simp only [List.map_cons, List.map_nil, List.zip_cons_cons, List.zip_nil_right, List.foldl_cons, List.foldl_nil, Nat.or_self, sigRun,
    engStores_word _ _ _ _ _ _ _ _ (length_natBytes ..)]
  rfl

/-- The store of a signal takes place where its destination leads, once the hawk holds its charge. -/
theorem workStep_signalStore {s : State} {p slot l : Nat} {rs host : Bool} (hwork : m.work = [signalStore dst]) (hhome : m.engine = none)
    (hpair : s.paired p = false) (hat : s.partAt p m.sup true (signalPart dst) = .ok (l, rs, host))
    (hpay : s.canPay p (s.accessCharge p l 64 + s.charge p 12) = true) :
    let y := (s.drawn.pay p 0 (s.accessCharge p l 64 + s.charge p 12)).walked p dst
    let w := (y.engStore p dst l (natBytes 8 m.ecw.opd.toNat) rs host true).cover m l
    s.workStep p slot m sigRun = .next (w.2.modCmd p slot m.seq fun _ =>
      { w.1 with work := [], progress := m.progress + 1, asked := none, parked := false }) := by
  intro y w
  have hcost : ([(signalPart dst, l, rs, host)].map fun x => s.toll p x.1 x.2.1).sum = s.accessCharge p l 64 + s.charge p 12 := by
    simp [State.toll, signalPart]
  have hwalked : y.paired p = false := (paired_of_place ((place_walked ..).trans (place_pay s.drawn p 0 _))).trans hpair
  obtain ⟨hleft, hprogress⟩ := cover_work (y.engStore p dst l (natBytes 8 m.ecw.opd.toNat) rs host true) m l
  have hdone := hasWritten_signalStore (hleft.trans hwork)
  rw [hprogress] at hdone
  have hstep := workStep_ok (slot := slot) (f := sigRun) (pick_signalStore hwork _) (partsAt_one hat)
  rw [engineOf_home hhome, hcost, payFor_self] at hstep
  exact (hstep hpay).trans ((workAt_signalStore hwalked).trans (by rw [hdone]))

end

/-! ## The rule of a signal (R309, R312) -/

/-- The fields of a signal that must be zero are, and its destination names memory. -/
def signalRight (e : Ecw) : Prop := e.ofl = 0 ∧ e.p0 = 0 ∧ e.p1 = 0 ∧ e.hc = 0 ∧ descOf e.dst ≠ .bad

/-- The destination of a signal: where it has an extended descriptor, the ADDR that it has read. -/
def Cmd.signalTo (m : Cmd) : Word :=
  match descOf m.ecw.dst with
  | .addr va => va
  | _ => look 0 2 m.args

section
variable {p slot : Nat} {m : Cmd} {s : State}

theorem signalTo_desc (h : descOf m.ecw.dst ≠ .bad) : ∃ aux, m.desc 2 m.ecw.dst = some (m.signalTo, aux) := by
  unfold Cmd.desc Cmd.signalTo
  cases hd : descOf m.ecw.dst with
  | bad => exact absurd hd h
  | addr va => exact ⟨none, rfl⟩
  | ext off => exact ⟨_, rfl⟩

theorem sigRun_refused (hstage : m.stage = 0) (h : ¬signalRight m.ecw) : sigRun.go p slot m s = .done s 1 0 0 := by
  simp only [sigRun, hstage]
  refine if_pos (by_contra fun hno => h ?_)
  simpa [noFlags, signalRight, and_assoc] using hno

theorem sigRun_begins (hstage : m.stage = 0) (h : signalRight m.ecw) :
    sigRun.go p slot m s = .go s { m with stage := 1, work := extReads 2 m.ecw.dst } := by
  obtain ⟨hofl, hp0, hp1, hhc, hdst⟩ := h
  simp only [sigRun, hstage]
  exact if_neg (by simp [noFlags, hofl, hp0, hp1, hhc, hdst])

theorem sigRun_misaligned (hstage : m.stage = 1) (hdst : descOf m.ecw.dst ≠ .bad) (halign : m.signalTo.toNat % 8 ≠ 0) :
    sigRun.go p slot m s = .done s 1 0 0 := by
  obtain ⟨aux, haux⟩ := signalTo_desc hdst
  simp only [sigRun, hstage, haux]
  exact if_pos halign

theorem sigRun_stores (hstage : m.stage = 1) (hdst : descOf m.ecw.dst ≠ .bad) (halign : m.signalTo.toNat % 8 = 0) :
    sigRun.go p slot m s = .go s { m with stage := 2, work := [signalStore m.signalTo] } := by
  obtain ⟨aux, haux⟩ := signalTo_desc hdst
  simp only [sigRun, hstage, haux]
  exact if_neg (not_not.mpr halign)

end

/-- Settles O28: a signal with its store left takes the step of its work, and one without the step of its rule, by its stage. -/
theorem signalCommands : Obligations.SignalCommands := by
  unfold Obligations.SignalCommands
  intro e s m i p slot hrun hecw hhome hi dst right part store
  have hexec : exec i s = runCmd m.eop e sigRun s := by
    rcases hi with ⟨rfl, hop⟩ | ⟨rfl, hop⟩
    · rw [hop]
      rfl
    · rw [hop]
      rfl
  subst hecw
  rw [hexec]
  refine ⟨fun hstage hwork hwrong => ?_, fun hstage hwork hright => ?_, fun hstage hwork hdst halign => ?_,
    fun hstage hwork hdst halign => ?_, fun hwork hpair l rs host hat hpay => ?_, fun hstage hwork => ?_⟩
  · exact runCmd_done hrun rfl rfl hwork (sigRun_refused hstage hwrong)
  · exact runCmd_go hrun rfl rfl hwork (sigRun_begins hstage hright)
  · exact runCmd_done hrun rfl rfl hwork (sigRun_misaligned hstage hdst halign)
  · exact runCmd_go hrun rfl rfl hwork (sigRun_stores hstage hdst halign)
  · exact (runCmd_work hrun rfl rfl (hwork ▸ List.cons_ne_nil _ _)).trans (workStep_signalStore hwork hhome hpair hat hpay)
  · exact runCmd_done hrun rfl rfl hwork (sigRun_last hstage)

end Sys2Proof.Machine

/-! PROOFS. The two writes that complete a command (R83, R310, R358). -/

namespace Sys2Proof.Machine

/-- The word that a completion write stores. -/
def finalPart (va : Word) : Part := { num := 0, va := va, loc := none, n := 8, toll := 1 }

/-- A completion write takes place where its address leads, once the hawk of its engine's core holds its charge: on a core of no pair (R310, R358). -/
theorem writeFinal_made {s : State} {p slot w l : Nat} {m : Cmd} {va : Word} {bs : List Byte} {rs host : Bool}
    (hfinal : m.finalWrite (look Chain.free slot (s.core p).chains) w = (va, bs)) (hpair : s.paired p = false)
    (hat : s.partAt p m.sup true (finalPart va) = .ok (l, rs, host))
    (hpay : s.canPay (m.engineOf p) (s.accessCharge (m.engineOf p) l 64) = true) :
    s.writeFinal p slot m w =
      .next ((((s.payFor p (m.engineOf p) (s.accessCharge (m.engineOf p) l 64)).walked p va).engStore p va l bs rs host (decide (w = 1))).afterFinal
        p slot m w) := by
  have htoll : s.toll (m.engineOf p) (finalPart va) l = s.accessCharge (m.engineOf p) l 64 := rfl
  have hwalked : ((s.payFor p (m.engineOf p) (s.accessCharge (m.engineOf p) l 64)).walked p va).paired p = false :=
    (paired_of_place ((place_walked ..).trans (place_payFor ..))).trans hpair
  unfold finalPart at hat htoll
  simp only [State.writeFinal, hfinal, hat, htoll, hpay, hwalked, Bool.and_false, Bool.not_true, Bool.false_eq_true, if_false]

/-! ## What comes next by the phase of a command (R310) -/

section
variable {s : State} {core slot : Nat} {m : Cmd} (hhead : (s.core core).headCmd slot = some m)
  (hgoes : ¬((s.core core).stop = some .gang ∨ s.now < (s.core core).resumeAt))
include hhead hgoes

theorem exec_complete_status (hphase : m.phase = .finished ∨ m.phase = .completing 0 256) :
    exec (.engineCommandComplete core slot) s = s.writeFinal core slot m 0 := by
  rcases hphase with hphase | hphase
  · simp only [exec_engineCommandComplete, execEngineCommandComplete, hhead, hgoes, hphase, if_false]
  · simp only [exec_engineCommandComplete, execEngineCommandComplete, hhead, hgoes, hphase, if_false]

theorem exec_complete_word (hphase : m.phase = .completing 1 256) :
    exec (.engineCommandComplete core slot) s = s.writeFinal core slot m 1 := by
  simp only [exec_engineCommandComplete, execEngineCommandComplete, hhead, hgoes, hphase, if_false]

/-- The completion word of a command whose status could not be written. -/
theorem exec_complete_word_of_lost (hphase : m.phase = .completing 2 256) :
    exec (.engineCommandComplete core slot) s = s.writeFinal core slot m.lost 1 := by
  simp only [exec_engineCommandComplete, execEngineCommandComplete, hhead, hgoes, hphase, if_false]

/-- A command whose completion word could not be written completes without it. -/
theorem exec_complete_unwritten {w : Nat} (hw : 3 ≤ w) (hphase : m.phase = .completing w 256) :
    exec (.engineCommandComplete core slot) s = .next (s.finishCmd core slot m.lost false) := by
  obtain ⟨n, rfl⟩ := Nat.exists_eq_add_of_le' hw
  simp only [exec_engineCommandComplete, execEngineCommandComplete, hhead, hgoes, hphase, if_false]

end

/-- Settles O29: each phase makes its write, or ends the command where no further one is to be made. -/
theorem commandCompletion : Obligations.CommandCompletion := by
  unfold Obligations.CommandCompletion
  intro s core slot m ch at' q rich paid entry failed i hhead hstop hresume hpair
  have hgoes : ¬((s.core core).stop = some .gang ∨ s.now < (s.core core).resumeAt) := not_or.mpr ⟨hstop, Nat.not_lt.mpr hresume⟩
  refine ⟨fun hphase l rs host hat hrich => ?status, fun l rs host hat hrich => ⟨fun hphase => ?word, fun hphase => ?wordOnly⟩,
    fun w hw hphase => exec_complete_unwritten hhead hgoes hw hphase⟩
  case status => exact (exec_complete_status hhead hgoes hphase).trans (writeFinal_made rfl hpair hat hrich)
  case word => exact (exec_complete_word hhead hgoes hphase).trans (writeFinal_made rfl hpair hat hrich)
  case wordOnly => exact (exec_complete_word_of_lost hhead hgoes hphase).trans (writeFinal_made (m := m.lost) rfl hpair hat hrich)

end Sys2Proof.Machine

/-! PROOFS. Conditions that a step does not meet. -/

namespace Sys2Proof.Machine

theorem not_not_true {b : Bool} (h : b = true) : ¬(!b) = true := by
  cases h
  exact Bool.false_ne_true

theorem not_true_of_false {b : Bool} (h : b = false) : ¬b = true := Bool.eq_false_iff.mp h

theorem not_none {α : Type} {o : Option α} (h : o.isSome = true) : ¬o.isNone = true := by
  obtain ⟨a, rfl⟩ := Option.isSome_iff_exists.mp h
  exact Bool.false_ne_true

end Sys2Proof.Machine

/-! PROOFS. Writes by the device's masters: DEV_OWNER, the queue registers, the debugger (R337, R355, R372, R373, R455). -/

namespace Sys2Proof.Machine

/-! ## The lapse of an owner whose link is lost (R455) -/

theorem lapse_of_lost {s : State} {t : Nat} (hlink : s.linkLost = some t) (hdue : s.owner ≠ 0 ∧ t + 10 ^ 9 ≤ s.now) :
    s.lapse = { s with owner := 0, ownerOp := 3, linkLost := none } := by
  delta State.lapse
  rw [hlink]
  exact if_pos hdue

theorem lapse_of_kept {s : State} (hkept : ¬(s.owner ≠ 0 ∧ ∃ t, s.linkLost = some t ∧ t + 10 ^ 9 ≤ s.now)) : s.lapse = s := by
  delta State.lapse
  cases hlink : s.linkLost with
  | none => rfl
  | some t => exact if_neg fun hdue => hkept ⟨hdue.1, t, hlink, hdue.2⟩

/-! ## Writes of DEV_OWNER after the lapse (R355) -/

section
variable {s x : State} (hlapse : s.lapse = x) {m op succ : Nat}
include hlapse

theorem ownerWrite_claim (hfree : x.owner = 0) :
    s.ownerWrite m 1 succ = ({ x with owner := m, ownerOp := 1, ownerSucc := succ, linkLost := none } : State).fixLink := by
  subst hlapse
  exact if_pos ⟨rfl, hfree⟩

theorem ownerWrite_claim_taken (htaken : x.owner ≠ 0) : s.ownerWrite m 1 succ = x.refuse := by
  subst hlapse
  exact if_neg fun h => htaken h.2

theorem ownerWrite_handover (howns : x.owner = m) (hvalid : validMaster succ = true) :
    s.ownerWrite m 2 succ = ({ x with owner := succ, ownerOp := 2, ownerSucc := succ, linkLost := none } : State).fixLink := by
  subst hlapse
  exact if_pos ⟨rfl, howns, hvalid⟩

theorem ownerWrite_handover_refused (hbad : ¬(x.owner = m ∧ validMaster succ = true)) : s.ownerWrite m 2 succ = x.refuse := by
  subst hlapse
  exact if_neg fun h => hbad h.2

theorem ownerWrite_release (howns : x.owner = m) :
    s.ownerWrite m 3 succ = { x with owner := 0, ownerOp := 3, ownerSucc := succ, linkLost := none } := by
  subst hlapse
  exact if_pos ⟨rfl, howns⟩

theorem ownerWrite_release_other (hother : x.owner ≠ m) : s.ownerWrite m 3 succ = x.refuse := by
  subst hlapse
  exact if_neg fun h => hother h.2

end

/-- Settles O33: a write of DEV_OWNER takes effect after the lapse that is due. -/
theorem ownerEvents : Obligations.OwnerEvents := by
  intro s m succ lost free
  refine ⟨fun hlost hheard => ?claim, fun hkept hheard => ?kept, fun hlost hdown => ?loss⟩
  case claim =>
    obtain ⟨howner, t, hlink, hdue⟩ := hlost
    exact (if_pos hheard).trans (congrArg _ (ownerWrite_claim (lapse_of_lost hlink ⟨howner, hdue⟩) rfl))
  case kept =>
    have hlapse : s.lapse = s := lapse_of_kept hkept
    exact ⟨fun hfree => (if_pos hheard).trans (congrArg _ (ownerWrite_claim hlapse hfree)),
      fun htaken => (if_pos hheard).trans (congrArg _ (ownerWrite_claim_taken hlapse htaken)),
      fun howns hvalid => (if_pos hheard).trans (congrArg _ (ownerWrite_handover hlapse howns hvalid)),
      fun _ hinvalid => (if_pos hheard).trans (congrArg _ (ownerWrite_handover_refused hlapse fun h => Bool.false_ne_true (hinvalid.symm.trans h.2))),
      fun hother => ⟨(if_pos hheard).trans (congrArg _ (ownerWrite_handover_refused hlapse fun h => hother h.1)),
        (if_pos hheard).trans (congrArg _ (ownerWrite_release_other hlapse hother))⟩,
      fun howns => (if_pos hheard).trans (congrArg _ (ownerWrite_release hlapse howns))⟩
  case loss =>
    obtain ⟨howner, t, hlink, hdue⟩ := hlost
    show execOwnerLinkLoss s = _
    delta execOwnerLinkLoss
    rw [hlink]
    exact (if_pos ⟨howner, hdown, hdue⟩).trans (congrArg _ (lapse_of_lost hlink ⟨howner, hdue⟩))

/-! ## Writes under the rule of ownership (R355) -/

section
variable {s : State} {m : Nat} {f : Bool → State → Option State} (hheard : s.heard m = true) (hmaster : m ≠ 0)
include hheard hmaster

theorem asMaster_owner {s' : State} (howns : m = s.owner) (hdone : f false s = some s') : s.asMaster m f = .next s' := by
  have hsame : ¬m ≠ s.owner := not_not.mpr howns
  refine (if_neg hmaster).trans ((if_neg (not_not_true hheard)).trans ((if_neg hsame).trans ?_))
  rw [hdone]

theorem asMaster_other (hother : m ≠ s.owner) : s.asMaster m f = .next s.refuse :=
  (if_neg hmaster).trans ((if_neg (not_not_true hheard)).trans (if_pos hother))

end

/-- Settles O34: each write goes by the rule of ownership, whose two outcomes are the owner's and another's. -/
theorem masterWrites : Obligations.MasterWrites := by
  intro s m n ctx lbase blk off v
  refine ⟨fun hheard hmaster howns hqueue => ?owner, fun hheard hmaster hother hqueue i hi => ?other, fun hheard hmaster hother hreg => ?register⟩
  case owner =>
    have hdone : ∀ {f s'}, f false s = some s' → s.asMaster m f = .next s' := asMaster_owner hheard hmaster howns
    exact ⟨(if_pos hqueue).trans (hdone rfl), (if_pos hqueue).trans (hdone rfl), fun s' hwrite => (if_pos hqueue).trans (hdone hwrite),
      fun s' hreg hwrite => (if_neg fun h => hreg ⟨h.1, h.2.1⟩).trans (hdone hwrite),
      hdone (f := fun _ x => some x.dbgCancel) rfl, hdone (f := fun _ x => some (x.dbgStop (ctx % 2 ^ 16) (lbase % 2 ^ 13))) rfl,
      hdone (f := fun _ x => some (x.dbgGo false)) rfl, hdone (f := fun _ x => some (x.dbgGo true)) rfl,
      hdone (f := fun _ x => some (x.dbgWrite v)) rfl⟩
  case other =>
    have hrefused : ∀ f, s.asMaster m f = .next s.refuse := fun _ => asMaster_other hheard hmaster hother
    revert i
    exact List.forall_mem_cons.mpr ⟨(if_pos hqueue).trans (hrefused _), List.forall_mem_cons.mpr ⟨(if_pos hqueue).trans (hrefused _),
      List.forall_mem_cons.mpr ⟨(if_pos hqueue).trans (hrefused _), List.forall_mem_cons.mpr ⟨hrefused fun _ x => some x.dbgCancel,
      List.forall_mem_cons.mpr ⟨hrefused fun _ x => some (x.dbgStop (ctx % 2 ^ 16) (lbase % 2 ^ 13)),
      List.forall_mem_cons.mpr ⟨hrefused fun _ x => some (x.dbgGo false), List.forall_mem_cons.mpr ⟨hrefused fun _ x => some (x.dbgGo true),
      List.forall_mem_cons.mpr ⟨hrefused fun _ x => some (x.dbgWrite v), fun _ h => absurd h List.not_mem_nil⟩⟩⟩⟩⟩⟩⟩⟩
  case register => exact (if_neg fun h => hreg ⟨h.1, h.2.1⟩).trans (asMaster_other hheard hmaster hother)

end Sys2Proof.Machine

/-! PROOFS. Packets of the command front end other than LAUNCH (R337 to R342, R354, R444, R464, R466). -/

namespace Sys2Proof.Machine

/-- A place of the front end is reached: it is no host memory, or the link is up (R448). -/
theorem linkGoes {s : State} {x : FeLoc} (h : x.host = false ∨ s.hostUp = true) : ¬(x.host = true ∧ (!s.hostUp) = true) :=
  fun ⟨hhost, hdown⟩ => h.elim (fun hout => not_true_of_false hout hhost) fun hup => not_not_true hup hdown

/-! ## Fetches (R339, R341, R444) -/

section
variable {s : State} {n : Nat} (hserved : s.served n = true) (hanswers : s.answers = true)
include hserved hanswers

theorem exec_packetFetch_parks (haddr : s.queueLoc (s.queue n) (s.queue n).slot false = none) :
    exec (.packetFetch n) s = .next (s.modQueue n (·.park)) := by
  show execPacketFetch n s = _
  delta execPacketFetch
  refine (if_neg (not_or.mpr ⟨not_not_true hserved, not_not_true hanswers⟩)).trans ?_
  rw [haddr]

/-- A fetch that finds its packet takes it in hand, and ends it at once where the queue does not accept it; over a host link that is down it waits. -/
theorem exec_packetFetch_finds {x : FeLoc} (haddr : s.queueLoc (s.queue n) (s.queue n).slot false = some x) :
    let w := (List.range 16).map fun i => s.loadWord (x.loc + 8 * i)
    let s1 := (s.serve n (s.queue n).prio).modQueue n fun y =>
      { y with head := (y.head + 1) % 2 ^ 16, fetchAt := none, packet := some w, owed := y.owed + 1 }
    exec (.packetFetch n) s = if x.host = true ∧ (!s.hostUp) = true then
        if (s.queue n).fetchAt.isSome then .fault .notEnabled else .next (s.modQueue n fun y => { y with fetchAt := some s.now })
      else .next (if s.accepts (s.queue n) w then s1 else s1.endPacket n w 5) := by
  show execPacketFetch n s = _
  delta execPacketFetch
  refine (if_neg (not_or.mpr ⟨not_not_true hserved, not_not_true hanswers⟩)).trans ?_
  rw [haddr]

/-- A fetch over the host link that errs, or has waited for 50 µs, parks its queue. -/
theorem exec_queueFetchTimeout_parks {x : FeLoc} (haddr : s.queueLoc (s.queue n) (s.queue n).slot false = some x) (hhost : x.host = true)
    (hlate : s.hostUp = true ∨ ∃ t, (s.queue n).fetchAt = some t ∧ t + 50000 ≤ s.now) :
    exec (.queueFetchTimeout n) s = .next (s.modQueue n (·.park)) := by
  have hends : s.hostUp = true ∨ s.fetchLate n = true := by
    refine or_iff_not_imp_left.mpr fun hdown => ?_
    obtain ⟨t, hfetch, hdue⟩ := hlate.resolve_left hdown
    delta State.fetchLate
    rw [hfetch, Bool.eq_false_iff.mpr hdown]
    exact decide_eq_true hdue
  show execQueueFetchTimeout n s = _
  delta execQueueFetchTimeout
  dsimp only
  rw [haddr]
  exact if_pos ⟨hserved, hanswers, hhost, hends⟩

end

/-! ## COPY (R313, R341) -/

section
variable {s : State} {n : Nat} {w : List Word} (hhand : s.inHand n 2 = some w)
include hhand

/-- A COPY in hand begins, or is refused: with a length or an address that is no multiple of 8, a length out of range, an address in the
aperture, or a word that faults. -/
theorem exec_copy_first (hnew : (s.queue n).copy = none) :
    let c := (w.getD 1 0).toNat
    let a := w.getD 2 0
    let b := w.getD 3 0
    exec (.copy n) s = if a.toNat % 8 ≠ 0 ∨ b.toNat % 8 ≠ 0 ∨ c % 8 ≠ 0 ∨ c < 8 ∨ 2 ^ 32 - 8 < c ∨ inAperture a = true ∨ inAperture b = true ∨
        (s.feWords (pctx w) a (c / 8) false).isNone = true ∨ (s.feWords (pctx w) b (c / 8) true).isNone = true then
      .next (s.endPacket n w 5)
    else .next (s.modQueue n fun y => { y with copy := some { Cmd.fresh 0 0x40 (Ecw.ofBits 0) 0 0 0 false [] [] with work := plainMoves a b c } }) := by
  show execCopy n s = _
  delta execCopy
  rw [hhand, hnew]

variable {m : Cmd} (hcopy : (s.queue n).copy = some m)
include hcopy

theorem exec_copy_step : exec (.copy n) s = s.feCopyStep n w m := by
  show execCopy n s = _
  delta execCopy
  rw [hhand, hcopy]

theorem exec_copy_ends (hpick : m.pick s.freeWord.toNat = none) : exec (.copy n) s = .next (s.endPacket n w 0) := by
  refine (exec_copy_step hhand hcopy).trans ?_
  delta State.feCopyStep
  rw [hpick]

/-- A copy whose next word is reached loads it, unless an error spoils it, or stores it. -/
theorem exec_copy_reaches {d : Piece} {x : Part} {l : List Part} {f : FeLoc} (hpick : m.pick s.freeWord.toNat = some (d, x :: l))
    (haddr : s.ctxLoc (pctx w) x.va (!d.reading) = some f) (hlink : f.host = false ∨ s.hostUp = true) :
    let z := (s.drawn.feStore f (look [] x.num d.got)).cover m f.loc
    exec (.copy n) s = if (d.reading && s.poisoned f.loc 8) = true then .next (s.drawn.endPacket n w 5)
    else if d.reading = true then .next (s.drawn.modQueue n fun y => { y with copy := some (m.hasRead d [(x, s.bytes f.loc 8)]) })
    else .next (z.2.modQueue n fun y => { y with copy := some (z.1.hasWritten d [x] 0) }) := by
  refine (exec_copy_step hhand hcopy).trans ?_
  delta State.feCopyStep
  rw [hpick]
  dsimp only
  rw [haddr]
  exact if_neg fun h => linkGoes hlink ((Bool.and_eq_true ..).mp h)

end

/-! ## SIGNAL and WAIT (R341) -/

/-- A SIGNAL after every earlier packet stores its word where it is aligned and in memory, and is refused elsewhere. -/
theorem exec_signal_last {s : State} {n : Nat} {w : List Word} (hhand : s.inHand n 3 = some w) (hlast : (s.queue n).owed = 1) :
    exec (.signal n) s = if (w.getD 1 0).toNat % 8 ≠ 0 ∨ inAperture (w.getD 1 0) = true then .next (s.endPacket n w 5)
      else match s.ctxLoc (pctx w) (w.getD 1 0) true with
      | none => .next (s.endPacket n w 5)
      | some x => if x.host = true ∧ (!s.hostUp) = true then .fault .notEnabled
        else .next ((s.feStore x (natBytes 8 (w.getD 2 0).toNat)).endPacket n w 0) := by
  show execSignal n s = _
  delta execSignal
  rw [hhand]
  exact if_neg (not_not.mpr hlast)

section
variable {s : State} {n : Nat} {w : List Word} (hhand : s.inHand n 4 = some w)
include hhand

/-- A WAIT in hand begins where its word is aligned and outside the aperture. -/
theorem exec_wait_first (hnew : (s.queue n).waitAt = none) :
    exec (.wait n) s = if (w.getD 1 0).toNat % 8 ≠ 0 ∨ inAperture (w.getD 1 0) = true then .next (s.endPacket n w 5)
      else .next (s.modQueue n fun y => { y with waitAt := some s.now }) := by
  show execWait n s = _
  delta execWait
  rw [hhand, hnew]
  rfl

variable {t : Nat} {x : FeLoc} (hwaits : (s.queue n).waitAt = some t)
include hwaits

theorem exec_waitPacketSatisfied_ends (hword : s.waitWord w = some (x, true)) (hlink : x.host = false ∨ s.hostUp = true)
    (hclean : s.poisoned x.loc 8 = false) : exec (.waitPacketSatisfied n) s = .next (s.endPacket n w 0) := by
  show execWaitPacketSatisfied n s = _
  delta execWaitPacketSatisfied
  rw [hhand, hwaits]
  dsimp only
  rw [hword]
  exact (if_neg (linkGoes hlink)).trans (if_neg (not_true_of_false hclean))

theorem exec_waitPacketExpiry_ends (hword : s.waitWord w = some (x, false)) (hdue : t + (w.getD 3 0).toNat ≤ s.now) :
    exec (.waitPacketExpiry n) s = .next (s.endPacket n w 6) := by
  show execWaitPacketExpiry n s = _
  delta execWaitPacketExpiry
  rw [hhand, hwaits]
  refine (if_neg (Nat.not_lt.mpr hdue)).trans ?_
  rw [hword]
  exact if_neg fun h => Bool.false_ne_true h.1

end

/-! ## CONTEXT (R342) -/

theorem mayJoin_all {s : State} {pcids : List Nat} (hcores : ∀ p ∈ pcids, s.userCore p = true ∧ s.skimNames p = false ∧ (s.core p).place = none) :
    pcids.all s.mayJoin = true := by
  refine List.all_eq_true.mpr fun p hp => ?_
  obtain ⟨huser, hskim, hplace⟩ := hcores p hp
  rw [State.mayJoin, huser, hskim, hplace]
  rfl

section
variable {s : State} {n : Nat} {w : List Word} (hhand : s.inHand n 5 = some w)
include hhand

/-- A creation that may not succeed is refused; one that may waits for a free partition number and free user cores. -/
theorem exec_contextCreate_named (hcreate : (w.getD 0 0).getLsbD 8 = true) (part : Nat) (pcids : List Nat) :
    exec (.contextCreate n part pcids) s = if (!s.creates w) = true then .next (s.endPacket n w 5)
      else if 64 ≤ part ∨ (find part s.parts).isSome = true ∨ pcids.length ≠ (w.getD 3 0).toNat ∨ (!decide pcids.Nodup) = true ∨
        (!pcids.all s.mayJoin) = true then .fault .notEnabled
      else .next ((s.create w part pcids).endPacket n w 0) := by
  show execContextCreate n part pcids s = _
  delta execContextCreate
  rw [hhand]
  exact if_neg (not_not_true hcreate)

variable (hdestroy : (w.getD 0 0).getLsbD 8 = false)
include hdestroy

theorem exec_contextDestroy_missing (hctx : find (pctx w) s.ctxs = none) : exec (.contextDestroy n) s = .next (s.endPacket n w 5) := by
  show execContextDestroy n s = _
  delta execContextDestroy
  rw [hhand]
  refine (if_neg (not_true_of_false hdestroy)).trans ?_
  rw [hctx]

/-- A device context that exists is destroyed where it is idle. -/
theorem exec_contextDestroy_named {c : DevCtx} (hctx : find (pctx w) s.ctxs = some c) : exec (.contextDestroy n) s =
    if s.ctxIdle (pctx w) n = true then .next ((s.destroy (pctx w) c.part).endPacket n w 0) else .next (s.endPacket n w 5) := by
  show execContextDestroy n s = _
  delta execContextDestroy
  rw [hhand]
  refine (if_neg (not_true_of_false hdestroy)).trans ?_
  rw [hctx]

end

/-! ## MIGRATE (R353, R354) -/

section
variable {s : State} {n target : Nat} {w : List Word} (hhand : s.inHand n 6 = some w)
include hhand

theorem exec_migrate_missing (hctx : find (pctx w) s.ctxs = none) : exec (.migrate n target) s = .next (s.endPacket n w 5) := by
  show execMigrate n target s = _
  delta execMigrate
  rw [hhand]
  dsimp only
  rw [hctx]

variable {c : DevCtx} {e : Remap} (hctx : find (pctx w) s.ctxs = some c) (hnames : s.remapAt c.part (w.getD 1 0).toNat = e)
include hctx hnames

/-- A migration of a core that is not there, is not the device context's, or migrates already is refused. -/
theorem exec_migrate_refuses (hbad : e.valid = false ∨ e.state ≠ 0 ∨ (¬∃ pl, (s.core e.pcid).place = some pl ∧ pl.part = c.part) ∨
    (s.core e.pcid).migrate ≠ none) : exec (.migrate n target) s = .next (s.endPacket n w 5) := by
  subst hnames
  show execMigrate n target s = _
  delta execMigrate
  rw [hhand]
  dsimp only
  rw [hctx]
  refine if_pos (hbad.imp (fun h => by rw [h]; rfl) (Or.imp_right (Or.imp (fun hother => ?_) Option.isSome_iff_ne_none.mpr)))
  split
  · rw [decide_eq_false fun hpart => hother ⟨_, ‹_›, hpart⟩]
    rfl
  · rfl

variable (hvalid : e.valid = true) (hstate : e.state = 0) (hmine : ∃ pl, (s.core e.pcid).place = some pl ∧ pl.part = c.part)
  (hidle : (s.core e.pcid).migrate = none)
include hvalid hstate hmine hidle

/-- Another is accepted where the core that the packet names can take it; where it names none, firmware picks one that can. -/
theorem exec_migrate_accepts {o : Option Nat} (hpick : s.pickTarget e.pcid = o) :
    let t := (w.getD 2 0).toNat
    let r := { packetRecord n w 0 2 0 s.now with ctx := pctx w }
    exec (.migrate n target) s = if t = 0xFFFF then
      if o = none then .next ((s.migDrop e.pcid).endPacket n w 5)
      else if s.okTarget e.pcid target = true then
        .next ((s.request e.pcid { target := target, named := false, record := some r }).dropPacket n)
      else .fault .notEnabled
    else if (!s.okTarget e.pcid t) = true then .next (s.endPacket n w 5)
    else .next ((s.request e.pcid { target := t, named := true, record := some r }).dropPacket n) := by
  subst hnames
  obtain ⟨pl, hplace, hpart⟩ := hmine
  show execMigrate n target s = _
  delta execMigrate
  rw [hhand]
  dsimp only
  rw [hctx]
  refine (if_neg (not_or.mpr ⟨not_not_true hvalid, not_or.mpr ⟨not_not.mpr hstate, not_or.mpr ⟨?_, ?_⟩⟩⟩)).trans ?_
  · rw [hplace]
    exact not_not_true (decide_eq_true hpart)
  · rw [hidle]
    exact Bool.false_ne_true
  · rw [hpick]
    cases o <;> rfl

end

/-- Settles O36: each packet by the equation of its step, and each of its outcomes by the branch that its condition picks. -/
theorem packetEvents : Obligations.PacketEvents := by
  intro s n q
  refine ⟨fun hserved hanswers => ⟨exec_packetFetch_parks hserved hanswers, fun x haddr => ?fetch⟩, fun w hhand => ?copy,
    fun w x hhand hlast halign hout haddr hlink => ?signal, fun w hhand hlast hbad => ?refusedSignal, fun w hhand => ?wait, fun w hhand => ?context,
    fun w target hhand => ⟨exec_migrate_missing hhand, fun c hctx => ?migrate⟩, fun w hhand => ?teardown⟩
  case fetch =>
    exact ⟨fun hlink => (exec_packetFetch_finds hserved hanswers haddr).trans (if_neg (linkGoes hlink)),
      fun hhost hdown hfirst => (exec_packetFetch_finds hserved hanswers haddr).trans ((if_pos ⟨hhost, by rw [hdown]; rfl⟩).trans (if_neg (by rw [hfirst]; exact Bool.false_ne_true))),
      exec_queueFetchTimeout_parks hserved hanswers haddr⟩
  case copy =>
    intro c a b m0
    refine ⟨fun hnew ha hb hc hlow hhigh hina hinb hreads hwrites => (exec_copy_first hhand hnew).trans (if_neg ?good),
      fun hnew hbad => (exec_copy_first hhand hnew).trans (if_pos ?bad), fun m hcopy => ⟨exec_copy_ends hhand hcopy, fun d x l f hpick haddr hlink => ?step⟩⟩
    case good =>
      exact not_or.mpr ⟨not_not.mpr ha, not_or.mpr ⟨not_not.mpr hb, not_or.mpr ⟨not_not.mpr hc, not_or.mpr ⟨Nat.not_lt.mpr hlow,
        not_or.mpr ⟨Nat.not_lt.mpr hhigh, not_or.mpr ⟨not_true_of_false hina, not_or.mpr ⟨not_true_of_false hinb,
          not_or.mpr ⟨not_none hreads, not_none hwrites⟩⟩⟩⟩⟩⟩⟩⟩
    case bad => rwa [Option.isNone_iff_eq_none, Option.isNone_iff_eq_none]
    case step =>
      have hstep := exec_copy_reaches hhand hcopy hpick haddr hlink
      refine ⟨fun hreads hclean => hstep.trans ((if_neg ?_).trans (if_pos hreads)), fun hreads hpoison => hstep.trans (if_pos ?_),
        fun hwrites => hstep.trans ((if_neg ?_).trans (if_neg (not_true_of_false hwrites)))⟩
      · rw [hclean, Bool.and_false]
        exact Bool.false_ne_true
      · rw [hreads, hpoison]
        rfl
      · rw [hwrites]
        exact Bool.false_ne_true
  case signal =>
    refine (exec_signal_last hhand hlast).trans ((if_neg (not_or.mpr ⟨not_not.mpr halign, not_true_of_false hout⟩)).trans ?_)
    rw [haddr]
    exact if_neg (linkGoes hlink)
  case refusedSignal =>
    refine (exec_signal_last hhand hlast).trans ?_
    split
    · rfl
    · rw [(or_assoc.mpr hbad).resolve_left ‹_›]
  case wait =>
    refine ⟨fun hnew halign hout => (exec_wait_first hhand hnew).trans (if_neg (not_or.mpr ⟨not_not.mpr halign, not_true_of_false hout⟩)),
      fun hnew hbad => (exec_wait_first hhand hnew).trans (if_pos hbad), fun t x ok hwaits hword => ⟨?_, ?_⟩⟩
    · rintro rfl
      exact exec_waitPacketSatisfied_ends hhand hwaits hword
    · rintro rfl
      exact exec_waitPacketExpiry_ends hhand hwaits hword
  case context =>
    refine ⟨fun hcreate hmay part pcids hpart hunused hsize hdistinct hcores => (exec_contextCreate_named hhand hcreate part pcids).trans
        ((if_neg (not_not_true hmay)).trans (if_neg ?_)),
      fun hcreate hmay part pcids => (exec_contextCreate_named hhand hcreate part pcids).trans (if_pos (by rw [hmay]; rfl)),
      exec_contextDestroy_missing hhand, fun c hdestroy hctx => ⟨fun hidle => (exec_contextDestroy_named hhand hdestroy hctx).trans (if_pos hidle),
        fun hbusy => (exec_contextDestroy_named hhand hdestroy hctx).trans (if_neg (not_true_of_false hbusy))⟩⟩
    rw [hunused]
    exact not_or.mpr ⟨Nat.not_le.mpr hpart, not_or.mpr ⟨Bool.false_ne_true, not_or.mpr ⟨not_not.mpr hsize,
      not_or.mpr ⟨not_not_true (decide_eq_true hdistinct), not_not_true (mayJoin_all hcores)⟩⟩⟩⟩
  case migrate =>
    intro e dest mine r asked
    refine ⟨exec_migrate_refuses hhand hctx rfl, fun hvalid hstate hmine hidle => ?good⟩
    have hmay := exec_migrate_accepts (target := target) hhand hctx (e := e) rfl hvalid hstate hmine hidle rfl
    exact ⟨fun hnamed htarget => hmay.trans ((if_neg hnamed).trans (if_neg (not_not_true htarget))),
      fun hnamed htarget => hmay.trans ((if_neg hnamed).trans (if_pos (by rw [htarget]; rfl))),
      fun hany hnone => hmay.trans ((if_pos hany).trans (if_pos hnone)),
      fun hany hsome htarget => hmay.trans ((if_pos hany).trans ((if_neg hsome).trans (if_pos htarget)))⟩
  case teardown =>
    intro w1 s1
    show execTeardown n s = _
    delta execTeardown
    rw [hhand]

end Sys2Proof.Machine

/-! PROOFS. Tests and quarantines, bank rebuilds, machine checks and consumed errors (R401 to R407, R414 to R417). -/

namespace Sys2Proof.Machine

/-! ## Bank rebuilds (R414, R415) -/

/-- A rebuild of a TCM bank starts where none has been, for a bank of the array. -/
theorem rebuildTcm_eq (s : State) (p bank : Nat) : s.rebuildTcm p bank = if (s.core p).health.eccState = 0 ∧ bank ≤ 9 then
    s.modCore p fun c => { c with health := { c.health with eccState := 1, bank := bank, prog := 0 } } else s := by
  by_cases hstarts : (s.core p).health.eccState = 0 ∧ bank ≤ 9
  · exact (if_neg (not_or.mpr ⟨not_not.mpr hstarts.1, Nat.not_lt.mpr hstarts.2⟩)).trans (if_pos hstarts).symm
  · exact (if_pos ((not_and_or.mp hstarts).imp_right Nat.not_le.mp)).trans (if_neg hstarts).symm

theorem rebuildCsp_eq (s : State) (n bank : Nat) : s.rebuildCsp n bank = if (s.cluster n).cspState = 0 ∧ bank ≤ 33 then
    s.modCluster n fun c => { c with cspState := 1, cspBank := bank, cspProg := 0 } else s := by
  by_cases hstarts : (s.cluster n).cspState = 0 ∧ bank ≤ 33
  · exact (if_neg (not_or.mpr ⟨not_not.mpr hstarts.1, Nat.not_lt.mpr hstarts.2⟩)).trans (if_pos hstarts).symm
  · exact (if_pos ((not_and_or.mp hstarts).imp_right Nat.not_le.mp)).trans (if_neg hstarts).symm

/-- The last of the 2,048 stripes of a TCM ends its rebuild. -/
theorem rebuildStep_tcm (prog : Nat) : rebuildStep 2048 prog =
    let n := if prog + 1 < 2048 then prog + 1 else 2048
    (n, if n < 2048 then 1 else 2) := by
  by_cases hmore : prog + 1 < 2048
  · rw [if_pos hmore]
    exact (if_pos hmore).trans (congrArg _ (if_pos hmore).symm)
  · rw [if_neg hmore]
    exact if_neg hmore

/-- The last of the 4,096 stripes of a scratchpad ends its rebuild, and its count reads 0 again. -/
theorem rebuildStep_csp (prog : Nat) : rebuildStep 4096 prog =
    let n := if prog + 1 < 4096 then prog + 1 else 0
    (n, if n = 0 then 2 else 1) := by
  by_cases hmore : prog + 1 < 4096
  · rw [if_pos hmore]
    exact if_pos hmore
  · rw [if_neg hmore]
    exact if_neg hmore

/-! ## Machine checks and consumed errors (R402, R403, R405, R406, R417) -/

/-- A residue mismatch at the next word of a strand that could issue it. -/
theorem exec_machineCheck_word {s : State} {p k unit lane obs exp : Nat} (hrange : residueRange unit lane obs exp = true) (hunit : unit ≠ 4)
    (hruns : s.strandRuns p k = true) (hword : residueUnit ((s.core p).opcodeAt (s.strand p k).pc) unit = true) :
    exec (.machineCheck p k unit lane obs exp) s = .next (((s.mcLog p
      { cause := if unit < 2 then 1 else 2, unit := unit, lane := lane, op := (s.core p).opcodeAt (s.strand p k).pc, eop := 0,
        pc := (s.strand p k).pc, obs := obs, expected := exp }).killTractOf p 1 p).quarCore p) := by
  have hmay : s.mayFail p k = true := Bool.or_eq_true_iff.mpr (.inl hruns)
  exact (if_neg (not_not_true hrange)).trans ((if_neg hunit).trans (if_neg (not_or.mpr ⟨not_not_true hmay, not_not_true hword⟩)))

/-- A residue mismatch in a pass of the oldest command of a matrix queue. -/
theorem exec_machineCheck_pass {s : State} {p slot lane obs exp : Nat} {m : Cmd} {l : List Cmd} (hrange : residueRange 4 lane obs exp = true)
    (hengine : (look Chain.free slot (s.core p).chains).eng = 1) (holdest : (look Chain.free slot (s.core p).chains).cmds = m :: l)
    (hfails : s.passFails p m = true) :
    exec (.machineCheck p slot 4 lane obs exp) s = .next ((((s.mcLog p
      { cause := 3, unit := 4, lane := lane, op := 0, eop := m.eop, pc := m.pc, obs := obs, expected := exp }).stopCmd p slot
        m.seq).killTractOf p 1 (2 ^ 13 + cluOf p)).quarArray (cluOf p)) := by
  refine (if_neg (not_not_true hrange)).trans ((if_pos rfl).trans ?_)
  dsimp only
  rw [holdest]
  exact if_neg (not_or.mpr ⟨not_not.mpr hengine, not_not_true hfails⟩)

/-- Settles O38: one equation for each event and each of its outcomes. -/
theorem healthEvents : Obligations.HealthEvents := by
  intro s p
  refine ⟨fun hquar hfirst => ?starts, fun ok htest => if_pos htest, fun b hpassed => if_pos hpassed,
    fun bank => ⟨congrArg _ (rebuildTcm_eq s p bank), congrArg _ (rebuildCsp_eq s (cluOf p) bank)⟩, fun hruns => ?tcm, fun hruns => ?csp,
    fun k unit lane obs exp => exec_machineCheck_word, fun slot lane obs exp m l => exec_machineCheck_pass, fun k cause addr o hop hcause => ?reads⟩
  case starts => exact (if_neg (not_or.mpr ⟨hquar, not_true_of_false hfirst⟩)).trans (congrArg _ (if_neg hquar))
  case tcm => exact (if_pos hruns).trans (congrArg (fun x : Nat × Nat => Host.Outcome.next (s.modCore p fun c => { c with
    health := { c.health with prog := x.1, eccState := x.2 } })) (rebuildStep_tcm _))
  case csp => exact (if_pos hruns).trans (congrArg (fun x : Nat × Nat => Host.Outcome.next (s.modCluster (cluOf p) fun c => { c with
    cspProg := x.1, cspState := x.2 })) (rebuildStep_csp _))
  case reads =>
    show execPoisonConsumption p k cause addr s = _
    delta execPoisonConsumption
    rw [hop]
    exact if_pos hcause

end Sys2Proof.Machine

/-! PROOFS. Tokens, ballast, temperatures, a die that goes dark, and the field book's own events (R357 to R367, R450 to R452). -/

namespace Sys2Proof.Machine

/-! ## A die that goes dark (R452) -/

theorem mem_put_self {α : Type} (k : Nat) (v : α) (m : AMap α) : (k, v) ∈ put k v m := by
  induction m with
  | nil => exact List.mem_singleton_self _
  | cons e r ih =>
    unfold put
    split
    · exact List.mem_cons_self
    · split
      · exact List.mem_cons_self
      · exact List.mem_cons_of_mem _ ih

/-- A device with a die that has tripped T4 does not answer. -/
theorem answers_of_dark {s : State} {e : Nat × Die} (he : e ∈ s.dies) (hdark : e.2.t4 = true) : s.answers = false := by
  have hall : s.dies.all (fun d => !d.2.t4) = false := List.all_eq_false.mpr ⟨e, he, not_not_true hdark⟩
  rw [State.answers, hall, Bool.and_false]

/-- A core at 120 °C takes its die's power, and the device with it. -/
theorem exec_t4Trip_darkens {s : State} {d p : Nat} {c : Core} (hd : d < s.dieCount) (hpower : (s.die d).powered = true) (hp : (p, c) ∈ s.cores)
    (hdie : dieOf p = d) (hhot : 480 ≤ c.power.temp.toInt) : ∃ s', exec (.t4Trip d) s = .next s' ∧ s'.answers = false := by
  have hany : (s.cores.any fun c => dieOf c.1 = d && decide (480 ≤ c.2.power.temp.toInt)) = true :=
    List.any_eq_true.mpr ⟨(p, c), hp, Bool.and_eq_true_iff.mpr ⟨decide_eq_true hdie, decide_eq_true hhot⟩⟩
  exact ⟨_, if_neg (not_or.mpr ⟨Nat.not_le.mpr hd, not_or.mpr ⟨not_not_true hpower, not_not_true hany⟩⟩),
    answers_of_dark (mem_put_self d _ _) rfl⟩

/-! ## The other events -/

theorem exists_of_isNext {o : Host.Outcome State Fault Refusal} (h : isNext o = true) : ∃ x, o = .next x := by
  cases o with
  | next x => exact ⟨x, rfl⟩
  | fault r => exact absurd h Bool.false_ne_true
  | refused r => exact absurd h Bool.false_ne_true

/-- Settles O40: each event takes place where none of the conditions against it holds; the die that trips stays listed as dark. -/
theorem powerEvents : Obligations.PowerEvents := by
  intro s
  refine ⟨fun htick hfirst hanswers hbook => ?passing, fun t hpassed hlater hanswers hdue => ?adding,
    fun clu part pt hcore hpart hlimit hgood hanswers hdue => ?ballast, fun p temp hcore hanswers htick hfirst => ?sample,
    fun d p c => exec_t4Trip_darkens, fun p hcore hdue howes => ?change, fun p hperiod hon htick hfirst => ?pcSample⟩
  case passing =>
    exact if_neg (not_or.mpr ⟨not_not.mpr htick, not_or.mpr ⟨hfirst, not_or.mpr ⟨not_not_true hanswers, not_true_of_false hbook⟩⟩⟩)
  case adding =>
    show execTokenAdd s = _
    delta execTokenAdd
    rw [hpassed]
    dsimp only
    exact if_neg (not_or.mpr ⟨Nat.not_le.mpr hlater, not_or.mpr ⟨mt List.isEmpty_iff.mp hdue, not_not_true hanswers⟩⟩)
  case ballast =>
    have hnamed : ¬(find part s.parts).isNone = true := by
      rw [hpart]
      exact Bool.false_ne_true
    exact if_neg (not_or.mpr ⟨not_not_true hcore, not_or.mpr ⟨hnamed, not_or.mpr ⟨hlimit, not_or.mpr ⟨not_true_of_false hgood,
      not_or.mpr ⟨not_not_true hanswers, not_not_true hdue⟩⟩⟩⟩⟩)
  case sample =>
    exact if_neg (not_or.mpr ⟨not_not_true hcore, not_or.mpr ⟨not_not_true hanswers, not_or.mpr ⟨not_not.mpr htick, hfirst⟩⟩⟩)
  case change =>
    have hnone : ¬(coreOwes p (s.core p)).any (fun f => isNext (f s)) = true := by
      intro hany
      obtain ⟨f, hf, hnext⟩ := List.any_eq_true.mp hany
      exact (exists_of_isNext hnext).elim (howes f hf)
    exact if_neg (not_or.mpr ⟨not_not_true hcore, not_or.mpr ⟨not_not_true hdue, hnone⟩⟩)
  case pcSample =>
    exact if_neg (not_or.mpr ⟨hperiod, not_or.mpr ⟨not_not_true hon, not_or.mpr ⟨not_not.mpr htick, hfirst⟩⟩⟩)

end Sys2Proof.Machine

/-! PROOFS. The skim engine, the resets, the host link, host-managed memory and the ports (R375, R378 to R381, R388, R447 to R449, R455 to R457). -/

namespace Sys2Proof.Machine

/-! ## The skim engine (R83, R388) -/

theorem look_filter_out {α : Type} (d : α) {q : Nat → Bool} {k : Nat} (hk : q k = false) (m : AMap α) :
    look d k (m.filter fun e => q e.1) = d := by
  induction m with
  | nil => rfl
  | cons e r ih =>
    obtain ⟨j, v⟩ := e
    by_cases hq : q j = true
    · have hj : j ≠ k := fun h => not_true_of_false hk (h ▸ hq)
      rw [List.filter_cons_of_pos (p := fun e : Nat × α => q e.1) hq]
      exact (if_neg hj).trans ih
    · rwa [List.filter_cons_of_neg (p := fun e : Nat × α => q e.1) hq]

/-- A byte of a wiped range reads zero, without a key. -/
theorem byte_wipe {s : State} {l n a : Nat} (ha : a < 2 ^ 64) (hlow : l ≤ a) (hhigh : a < l + n) : (s.wipe l n).byte a = 0 := by
  have hkey : viaKey a = 0 := Nat.div_eq_of_lt ha
  have hplain : plain a = a := Nat.mod_eq_of_lt ha
  have hbefore : ¬64 * (a / 64) + 64 ≤ l := Nat.not_le.mpr (Nat.lt_of_le_of_lt hlow (Nat.lt_mul_div_succ a (by decide)))
  have hafter : ¬l + n ≤ 64 * (a / 64) := Nat.not_le.mpr (Nat.lt_of_le_of_lt (Nat.mul_div_le a 64) hhigh)
  have hline : look 0 (a / 64) (s.wipe l n).keyed = 0 :=
    look_filter_out 0 (q := fun j => decide (64 * j + 64 ≤ l) || decide (l + n ≤ 64 * j)) (Bool.or_eq_false_iff.mpr ⟨decide_eq_false hbefore, decide_eq_false hafter⟩) s.keyed
  have hcell : memGet a (s.wipe l n).mem = 0 := by
    refine (memGet_filter (fun j => !(decide (l ≤ j) && decide (j < l + n))) a s.mem).trans (if_neg (not_not_true ?_))
    rw [decide_eq_true hlow, decide_eq_true hhigh]
    rfl
  rw [State.byte, hkey, hplain]
  exact (if_pos hline).trans hcell

/-- A die's job after one unit more; the last one ends it. -/
def Die.unitDone (x : Die) : Die := { x with skimDone := x.skimDone + 1, skimState := if x.skimTotal ≤ x.skimDone + 1 then 2 else 1 }

theorem lit_of_all {s : State} (hlit : ∀ x ∈ s.dies, x.2.t4 = false) : ¬s.dies.any (fun x => x.2.t4) = true := by
  intro hany
  obtain ⟨x, hx, hdark⟩ := List.any_eq_true.mp hany
  exact not_true_of_false (hlit x hx) hdark

/-- The next unit of a running job is wiped and counted; the energy of that is a free value. -/
theorem exec_skimUnit_wipes {s : State} {d l : Nat} (hlit : ∀ x ∈ s.dies, x.2.t4 = false) (hruns : (s.die d).skimState = 1)
    (hmore : (s.die d).skimDone < (s.die d).skimTotal) (hunit : skimUnitAt (s.die d).skimJob (s.die d).skimDone = some l) :
    exec (.skimUnit d) s = .next { ((s.wipe l 4096).modDie d Die.unitDone).drawn with
      enovh := put 0 (look 0 0 s.enovh + s.freeWord.toNat) s.enovh } := by
  show execSkimUnit d s = _
  delta execSkimUnit
  refine (if_neg (not_or.mpr ⟨not_not.mpr hruns, not_or.mpr ⟨Nat.not_le.mpr hmore, lit_of_all hlit⟩⟩)).trans ?_
  rw [hunit]
  rfl

/-! ## Host-managed memory and ports (R375, R378, R379, R388, R447, R449) -/

theorem exec_cxlMemRequest_accesses {s : State} {off : Nat} {wr : Bool} {data : Word} {bs : BitVec 8} (halign : off % 8 = 0)
    (hin : off < s.hdmsz) (hup : s.hostUp = true) (hanswers : s.answers = true) :
    let l := s.unstripe none off
    exec (.cxlMemRequest off wr data bs) s = .next (if wr = false then s.answerHost l else if s.skimmed l then s else s.outsideWrite l data bs) := by
  intro l
  refine (if_neg (not_or.mpr ⟨not_not.mpr halign, not_or.mpr ⟨Nat.not_le.mpr hin, not_or.mpr ⟨not_not_true hup, not_not_true hanswers⟩⟩⟩)).trans ?_
  cases wr with
  | false => rfl
  | true => exact (apply_ite Host.Outcome.next _ _ _).symm

section
variable {s : State} {j : Nat} (hport : s.isPort j = true)
include hport

/-- A port that is down begins to train; one that trains in time comes up, and replays what is not acknowledged. -/
theorem exec_brirusTraining_begins {ok : Bool} {rate peer : Nat} (hrate : rate ≤ 2) (hpeer : peer ≤ 65535) (hanswers : s.answers = true)
    (hdown : (s.port j).state = 0) : exec (.brirusTraining j ok rate peer) s =
    .next (s.setPort j { s.port j with state := 1, trainAt := s.now }) := by
  refine (if_neg (not_or.mpr ⟨not_not_true hport, not_or.mpr ⟨Nat.not_lt.mpr hrate, not_or.mpr ⟨Nat.not_lt.mpr hpeer, not_not_true hanswers⟩⟩⟩)).trans ?_
  rw [hdown]
  rfl

theorem exec_brirusTraining_up {rate peer : Nat} (hrate : rate ≤ 2) (hpeer : peer ≤ 65535) (hanswers : s.answers = true)
    (htrains : (s.port j).state = 1) (htime : s.now < (s.port j).trainAt + 50000000) :
    let n := if (s.port j).replay = [] then (s.port j).retry else ((s.port j).retry + 1) % 2 ^ 32
    exec (.brirusTraining j true rate peer) s =
      .next (s.setPort j { s.port j with state := 2, rate := rate, peer := peer, fails := 0, retry := n }) := by
  refine (if_neg (not_or.mpr ⟨not_not_true hport, not_or.mpr ⟨Nat.not_lt.mpr hrate, not_or.mpr ⟨Nat.not_lt.mpr hpeer, not_not_true hanswers⟩⟩⟩)).trans ?_
  rw [htrains]
  dsimp only
  rw [if_neg (Nat.not_le.mpr htime)]
  exact (if_neg Bool.false_ne_true).trans (congrArg (fun n => Host.Outcome.next (s.setPort j { s.port j with
    state := 2, rate := rate, peer := peer, fails := 0, retry := n })) (if_congr List.isEmpty_iff rfl rfl))

variable (hanswers : s.answers = true) (hup : (s.port j).state = 2)
include hanswers hup

/-- A flit with an error or out of sequence is answered by a negative acknowledgement. -/
theorem exec_brirusFlit_drops {flit : Flit} (hbad : flit.good = false ∨ flit.seq % 1024 ≠ (s.port j).expect) :
    exec (.brirusFlit j flit) s = .next (s.setPort j { s.port j with naks := (s.port j).naks + 1 }) := by
  refine (if_neg (not_or.mpr ⟨not_not_true hport, not_not_true hanswers⟩)).trans ?_
  have hdrop : (!flit.good) = true ∨ flit.seq % 1024 ≠ (s.port j).expect := hbad.imp_left fun h => by rw [h]; rfl
  rw (occs := .pos [1]) [hup]
  exact if_pos hdrop

/-- A request in sequence is delivered and answered. -/
theorem exec_brirusFlit_answers {flit : Flit} (hgood : flit.good = true) (hseq : flit.seq % 1024 = (s.port j).expect) (hcls : flit.cls = 0)
    (halign : flit.addr.toNat % 8 = 0) :
    let y := { (s.port j).acked (flit.ack % 1024) with expect := ((s.port j).expect + 1) % 1024 }
    y.replay.length < 512 → exec (.brirusFlit j flit) s = .next ((s.peerAccess flit).1.setPort j
      (y.send (answerTo flit (s.peerAccess flit).2 (s.peerPoison flit)))) := by
  intro y hroom
  refine (if_neg (not_or.mpr ⟨not_not_true hport, not_not_true hanswers⟩)).trans ?_
  rw [hup]
  exact (if_neg (not_or.mpr ⟨not_not_true hgood, not_not.mpr hseq⟩)).trans ((if_neg (not_not.mpr hcls)).trans
    (if_neg (not_or.mpr ⟨not_not.mpr halign, Nat.not_le.mpr hroom⟩)))

end

/-- An acknowledgement raises no count of failures. -/
theorem fails_acked_le (x : Port) (ack : Nat) : (x.acked ack).fails ≤ x.fails := by
  unfold Port.acked
  dsimp only
  split
  · exact le_rfl
  · exact Nat.zero_le _

/-- Settles O41: each event and each of its outcomes by the branches that its conditions pick; what the skim engine wiped reads zero. -/
theorem resetAndLinkEvents : Obligations.ResetAndLinkEvents := by
  intro s
  refine ⟨fun d l hlit hruns hmore hunit => ⟨_, exec_skimUnit_wipes hlit hruns hmore hunit, ?_, ?_, fun a ha hlow hhigh => byte_wipe ha hlow hhigh⟩,
    fun tbl => ⟨rfl, rfl, fun hup hlit => ?flr⟩, fun hup => if_pos hup, fun hdown => if_neg (not_true_of_false hdown),
    fun off wr data bs => exec_cxlMemRequest_accesses, fun j hport => ?ports⟩
  · exact congrArg Die.skimDone (die_modDie_same (s.wipe l 4096) d Die.unitDone)
  · exact congrArg Die.skimState (die_modDie_same (s.wipe l 4096) d Die.unitDone)
  case flr =>
    refine ⟨fun howner => (if_neg (not_or.mpr ⟨not_not_true hup, lit_of_all hlit⟩)).trans ?_,
      fun howner => (if_neg (not_or.mpr ⟨not_not_true hup, lit_of_all hlit⟩)).trans ?_⟩
    · rw [if_pos howner, if_pos howner]
    · rw [if_neg howner, if_neg howner]
  case ports =>
    refine ⟨fun ok rate peer hrate hpeer hanswers => ⟨exec_brirusTraining_begins hport hrate hpeer hanswers,
        fun htrains hok htime => hok ▸ exec_brirusTraining_up hport hrate hpeer hanswers htrains htime⟩,
      fun htrains hlate => if_neg (not_or.mpr ⟨not_not.mpr htrains, Nat.not_lt.mpr hlate⟩),
      fun flit hanswers hup => exec_brirusFlit_answers hport hanswers hup, fun flit hanswers hup => exec_brirusFlit_drops hport hanswers hup,
      fun seq hanswers hup hsome hfails => (if_neg (not_or.mpr ⟨not_not.mpr hup, not_or.mpr ⟨not_not_true hport, not_not_true hanswers⟩⟩)).trans
        ((if_neg (mt List.isEmpty_iff.mp hsome)).trans (if_neg (Nat.not_le.mpr (Nat.lt_of_le_of_lt (fails_acked_le ..) hfails))))⟩

end Sys2Proof.Machine

/-! PROOFS. A trap of a word on a core that is not fused, and the firewall's count that comes with it (R384, R427, R432). -/

namespace Sys2Proof.Machine

/-- A word's trap on one core is taken after the firewall that raised it has counted the access that it dropped. -/
theorem trapAll_one (s : State) (p k : Nat) {t : Trap} (hplan : t.cause ≠ 18) :
    s.trapAll k t [p] = (s.dropAt t.wall).takeTrap p k t (s.strand p k).pc ((s.strand p k).pc + 8) :=
  congrArg (fun x => (State.dropAt x t.wall).takeTrap p k t (s.strand p k).pc ((s.strand p k).pc + 8)) (if_neg hplan)

/-- The permission fault of an access that die 0's firewall has dropped. -/
def droppedAccess : Trap := { cause := 8, code := 0, info := 0, wall := some 0 }

/-- Refutes O54: the last clause holds only of a trap that no firewall raised. `trapAll` also counts the access that a firewall drops
(`trapAll_one`), which `takeTrap` alone does not: from reset, DIE_FWALL of die 0 reads one drop after the one and none after the other. -/
theorem not_trapDelivery : ¬ Obligations.TrapDelivery := by
  intro h
  obtain ⟨-, -, -, -, hone⟩ := h State.reset 0 0 droppedAccess 0 8 (by decide) (by decide) (by decide) (by decide) (by decide)
  have hdrops : ((State.reset.trapAll 0 droppedAccess [0]).die 0).drops = ((State.reset.takeTrap 0 0 droppedAccess 0 8).die 0).drops :=
    congrArg (fun x => (x.die 0).drops) (hone (by decide))
  rw [trapAll_one _ _ _ (by decide)] at hdrops
  exact absurd hdrops (by decide)

end Sys2Proof.Machine
